-- ==== Sys2Proof/Word.lean ====
section
/-!
DEFINITION. The word types of the Decax (spec/01_machine_state.md, spec/03_encoding.md).
-/
namespace Sys2Proof

/-- An instruction word (R49). -/
abbrev Word := BitVec 32
/-- A 64-bit scalar, pointer or system register (R11, R27). -/
abbrev DWord := BitVec 64
/-- A byte of memory. -/
abbrev Byte := BitVec 8
/-- A program counter or virtual address: 55 bits (R10, R300). -/
abbrev VAddr := BitVec 55
/-- A vector register: 16 lanes of 32 bits, lane 0 in bits [31:0] (R18). -/
abbrev VecWord := BitVec 512
/-- A q descriptor or a loop-stack save entry: 128 bits (R19, R135). -/
abbrev QWord := BitVec 128
/-- The number of a scalar or a vector register (R51). -/
abbrev Reg := Fin 32
/-- The number of a pointer register (R51). -/
abbrev PReg := Fin 8
/-- The number of a circular-buffer handle (R51). -/
abbrev QReg := Fin 16

end Sys2Proof
end

