-- ==== Sys2Proof/Machine/Bits.lean ====
section
/-!
DEFINITION. Bit fields, sign extension and lane access of words (spec/00_scope.md R6, spec/01_machine_state.md R18).
-/
namespace Sys2Proof

/-- Bits [hi:lo] of a number (R4). -/
def bits (n hi lo : Nat) : Nat := n / 2 ^ lo % 2 ^ (hi + 1 - lo)

/-- Bit i of a number. -/
def bit (n i : Nat) : Bool := n / 2 ^ i % 2 == 1

/-- A number of w bits read as two's complement. -/
def toSigned (w n : Nat) : Int :=
  if 2 ^ (w - 1) ≤ n % 2 ^ w then (n % 2 ^ w : Int) - 2 ^ w else (n % 2 ^ w : Int)

/-- An integer kept modulo 2^w (R6, truncN). -/
def wrap (w : Nat) (i : Int) : Nat := (i % (2 ^ w : Int)).toNat

/-- A number of w bits sign-extended to 64 bits (R6, sextN). -/
def sext64 (w n : Nat) : DWord := BitVec.ofInt 64 (toSigned w n)

/-- A Bool as the word 1 or 0. -/
def boolWord (b : Bool) : DWord := if b then 1 else 0

/-- Lane j (32 bits) of a vector register (R18). -/
def lane (v : VecWord) (j : Nat) : BitVec 32 := v.extractLsb' (32 * j) 32

/-- A vector register from its 16 lanes, lane 0 first. -/
def ofLanes (l : List (BitVec 32)) : VecWord :=
  BitVec.ofNat 512 (l.foldr (fun x acc => x.toNat + 2 ^ 32 * acc) 0)

/-- The 16 lanes of a vector register, lane 0 first. -/
def lanes (v : VecWord) : List (BitVec 32) := (List.range 16).map (lane v)

/-- A vector register with lane j replaced. -/
def setLane (v : VecWord) (j : Nat) (x : BitVec 32) : VecWord := ofLanes ((lanes v).set j x)

/-- Element i of width w in the dense packing of R18 and R70. -/
def element (n w i : Nat) : Nat := n / 2 ^ (w * i) % 2 ^ w

/-- The dense packing of elements of width w, element 0 lowest. -/
def packElements (w : Nat) (l : List Nat) : Nat := l.foldr (fun x acc => x % 2 ^ w + 2 ^ w * acc) 0

/-- The little-endian bytes of a number. -/
def toBytes : Nat → Nat → List Byte
  | 0, _ => []
  | k + 1, n => BitVec.ofNat 8 n :: toBytes k (n / 256)

/-- The number that little-endian bytes hold. -/
def ofBytes (l : List Byte) : Nat := l.foldr (fun b acc => b.toNat + 256 * acc) 0

/-- The number of one bits among the low k bits. -/
def popcount : Nat → Nat → Nat
  | 0, _ => 0
  | k + 1, n => n % 2 + popcount k (n / 2)

/-- The position of the lowest set bit among the low k bits; k when there is none. -/
def lowestBit : Nat → Nat → Nat
  | 0, _ => 0
  | k + 1, n => if n % 2 = 1 then 0 else 1 + lowestBit k (n / 2)

/-- ceil(a / b). -/
def ceilDiv (a b : Nat) : Nat := (a + b - 1) / b

/-- A number rounded up to a multiple of b. -/
def roundUp (a b : Nat) : Nat := ceilDiv a b * b

end Sys2Proof
end

