-- ==== Sys2Proof/Syntax.lean ====
section
/-!
DEFINITION. The instructions and steps of the Decax: one constructor for each of the 292 rows of spec/opcode_table.json.
Rows with a word (spec/03_encoding.md) come with the fields of that word; rows without one are the steps of the other
agents (spec/95_what_each_step_holds.md) and carry operands that say on what they act. Register, pointer and handle
numbers are typed by the field's meaning (R51); a value that a chapter marks ILLEGAL is either absent from the type of its
field or refused by WellFormed.
-/
namespace Sys2Proof

/-- The W bit (R54): `.w32` or `.w64`. -/
inductive Width where
  | w32 | w64
  deriving DecidableEq, Repr

/-- The width SEXT and ZEXT extend from (R54). -/
inductive ExtFrom where
  | b | h | w
  deriving DecidableEq, Repr

/-- The kind of an SHI (R55). -/
inductive ShiftKind where
  | shl | shrl | shra
  deriving DecidableEq, Repr

/-- size3 of a load (R58). -/
inductive LdSize where
  | bsx | hsx | wsx | d | bzx | hzx | wzx
  deriving DecidableEq, Repr

/-- size3 of a store (R58). -/
inductive StSize where
  | b | h | w | d
  deriving DecidableEq, Repr

/-- amode2 with off11 (R58, R123): the raw offset, or the register that off11[4:0] names. -/
inductive Addr where
  | plain (off : Fin 2048)
  | postImm (off : Fin 2048)
  | postReg (s : Reg)
  | index (s : Reg)
  deriving DecidableEq, Repr

/-- ord2 (R58, R128). -/
inductive Ord where
  | plain | acq | rel | ar
  deriving DecidableEq, Repr

/-- A scope (R29, R59). -/
inductive Scope where
  | sl | co | cl | di | dv | sy
  deriving DecidableEq, Repr

/-- The element size of GATH and SCAT (R130). -/
inductive GSize where
  | w | h | b
  deriving DecidableEq, Repr

/-- The operation of an AMO, in the order of R131. -/
inductive AmoOp where
  | add | and | or | xor | mins | maxs | minz | maxz | swp
  deriving DecidableEq, Repr

/-- The format of an FADD (R131). -/
inductive FaddFmt where
  | f32 | bf16
  deriving DecidableEq, Repr

/-- A rounding mode (R59, R71). -/
inductive Round where
  | rn | rz | ru | rd
  deriving DecidableEq, Repr

/-- The condition of a VCMP (R145). -/
inductive VCmp where
  | feq | fne | flt | fle | ieq | ine | ilts | iltz
  deriving DecidableEq, Repr

/-- The element width of major 0x1C (R146). -/
inductive Elem where
  | i32 | i16 | i8
  deriving DecidableEq, Repr

/-- The kind of a VSCAN (R149). -/
inductive ScanKind where
  | fadd | iadd | fmax | imax
  deriving DecidableEq, Repr

/-- The domain of VREDMAX and VREDMIN (R150). -/
inductive Dom where
  | f | i
  deriving DecidableEq, Repr

/-- A thread slot: its core, numbered as in R351, and its slot index (R8). Core numbers from 8,192 up name the transform
slots of the copy engines: 8,192 + 4 x cluster + engine (R326). -/
structure SlotId where
  core : Nat
  slot : Nat
  deriving DecidableEq, Repr

/-- A bank of a core's LM (16 of 8 KiB) or of a cluster's SRAM (64 of 64 KiB) (R2). -/
inductive BankId where
  | lm (core bank : Nat)
  | sram (cl bank : Nat)
  deriving DecidableEq, Repr

/-- The access kinds of translation (R302): an engine reads or writes under kind 3. -/
inductive AccessKind where
  | load | store | fetch | atomic | engRead | engWrite
  deriving DecidableEq, Repr

/-- What a seal adds to a message or to a line of HBM (R353): its IV and its tag. -/
structure Sealing where
  iv : BitVec 96
  tag : BitVec 64
  deriving DecidableEq, Repr

/-- A message header of a Vexey flit (R335), and the seal of a protected world's message (R353, R355). -/
structure Message where
  mask : BitVec 64
  op : BitVec 4
  world : BitVec 4
  tag : BitVec 8
  pkg : BitVec 8
  pa : BitVec 40
  sealed_ : Option Sealing := none
  deriving DecidableEq, Repr

/-- What an atomic does at the home (R131): the operation and its operands. -/
inductive AtomicReq where
  | amo (op : AmoOp) (w : Width) (b : DWord)
  | cas (w : Width) (expected new : DWord)
  | fadd (f : FaddFmt) (b : DWord)
  /-- DEPS of a successor decremented, and left at zero (R219). -/
  | dec
  deriving DecidableEq, Repr

/-- A request that a Vexey port may admit (R337): the k-th store-buffer line of a core, the access of a slot, or the next
chunk of an engine command. -/
inductive VexeyKey where
  | line (core k : Nat)
  | access (slot : SlotId)
  | chunk (cmd : Nat)
  deriving DecidableEq, Repr

/-- What TRACE sets (R363, R364). -/
structure TraceCfg where
  on : Bool
  period : Nat
  clusters : List Nat
  base : Nat
  m : Nat
  intervalNs : Nat
  deriving DecidableEq, Repr

/-- What one module start meets (R366): the steps that fail, and what Typel's firmware, fuses, strap and OS image bring:
the personality (R344), the service mask (R9), the trust configuration (R348), the bytes of the OS image and its first nodes. -/
structure BootScript where
  failing : List Nat
  /-- The personality that a fuse selects, none where it is blank, and the strap that then does (R344). -/
  fuse : Option Bool
  strap : Bool
  optionStrap : Bool
  serviceCores : List Nat
  fwrow : List (BitVec 32)
  prot : BitVec 16
  dcons : BitVec 16
  roster : List (BitVec 256)
  image : List (Nat × Byte)
  /-- The node records with which the released service cores begin: die, address and 128 bytes of each. -/
  osNodes : List (Fin 8 × DWord × List Byte)
  timeNs : DWord
  deriving DecidableEq, Repr, Inhabited

/-- The rows of spec/opcode_table.json. -/
inductive Instr where
  /-- ADD (R98). -/
  | add (d : Reg) (a : Reg) (b : Reg) (w : Width)
  /-- SUB (R98). -/
  | sub (d : Reg) (a : Reg) (b : Reg) (w : Width)
  /-- MUL (R98). -/
  | mul (d : Reg) (a : Reg) (b : Reg) (w : Width)
  /-- MULHS (R98). -/
  | mulhs (d : Reg) (a : Reg) (b : Reg) (w : Width)
  /-- MULHZ (R98). -/
  | mulhz (d : Reg) (a : Reg) (b : Reg) (w : Width)
  /-- DIVS (R100). -/
  | divs (d : Reg) (a : Reg) (b : Reg) (w : Width)
  /-- DIVZ (R100). -/
  | divz (d : Reg) (a : Reg) (b : Reg) (w : Width)
  /-- REMS (R100). -/
  | rems (d : Reg) (a : Reg) (b : Reg) (w : Width)
  /-- REMZ (R100). -/
  | remz (d : Reg) (a : Reg) (b : Reg) (w : Width)
  /-- AND (R98). -/
  | and (d : Reg) (a : Reg) (b : Reg) (w : Width)
  /-- OR (R98). -/
  | or (d : Reg) (a : Reg) (b : Reg) (w : Width)
  /-- XOR (R98). -/
  | xor (d : Reg) (a : Reg) (b : Reg) (w : Width)
  /-- ANDN (R98). -/
  | andn (d : Reg) (a : Reg) (b : Reg) (w : Width)
  /-- SHL (R99). -/
  | shl (d : Reg) (a : Reg) (b : Reg) (w : Width)
  /-- SHRL (R99). -/
  | shrl (d : Reg) (a : Reg) (b : Reg) (w : Width)
  /-- SHRA (R99). -/
  | shra (d : Reg) (a : Reg) (b : Reg) (w : Width)
  /-- ROL (R99). -/
  | rol (d : Reg) (a : Reg) (b : Reg) (w : Width)
  /-- MINS (R98). -/
  | mins (d : Reg) (a : Reg) (b : Reg) (w : Width)
  /-- MAXS (R98). -/
  | maxs (d : Reg) (a : Reg) (b : Reg) (w : Width)
  /-- MINZ (R98). -/
  | minz (d : Reg) (a : Reg) (b : Reg) (w : Width)
  /-- MAXZ (R98). -/
  | maxz (d : Reg) (a : Reg) (b : Reg) (w : Width)
  /-- SEQ (R98). -/
  | seq (d : Reg) (a : Reg) (b : Reg) (w : Width)
  /-- SNE (R98). -/
  | sne (d : Reg) (a : Reg) (b : Reg) (w : Width)
  /-- SLTS (R98). -/
  | slts (d : Reg) (a : Reg) (b : Reg) (w : Width)
  /-- SLTZ (R98). -/
  | sltz (d : Reg) (a : Reg) (b : Reg) (w : Width)
  /-- CLZ (R98). -/
  | clz (d : Reg) (a : Reg) (w : Width)
  /-- CTZ (R98). -/
  | ctz (d : Reg) (a : Reg) (w : Width)
  /-- POPC (R98). -/
  | popc (d : Reg) (a : Reg) (w : Width)
  /-- SEXT (R98). -/
  | sext (d : Reg) (a : Reg) (e : ExtFrom) (w : Width)
  /-- ZEXT (R98). -/
  | zext (d : Reg) (a : Reg) (e : ExtFrom) (w : Width)
  /-- BSWP (R98). -/
  | bswp (d : Reg) (a : Reg) (w : Width)
  /-- ADD_K (R101). -/
  | addK (d : Reg) (a : Reg) (k : Fin 256) (w : Width)
  /-- SUB_K (R101). -/
  | subK (d : Reg) (a : Reg) (k : Fin 256) (w : Width)
  /-- MUL_K (R101). -/
  | mulK (d : Reg) (a : Reg) (k : Fin 256) (w : Width)
  /-- MULHS_K (R101). -/
  | mulhsK (d : Reg) (a : Reg) (k : Fin 256) (w : Width)
  /-- MULHZ_K (R101). -/
  | mulhzK (d : Reg) (a : Reg) (k : Fin 256) (w : Width)
  /-- DIVS_K (R101). -/
  | divsK (d : Reg) (a : Reg) (k : Fin 256) (w : Width)
  /-- DIVZ_K (R101). -/
  | divzK (d : Reg) (a : Reg) (k : Fin 256) (w : Width)
  /-- REMS_K (R101). -/
  | remsK (d : Reg) (a : Reg) (k : Fin 256) (w : Width)
  /-- REMZ_K (R101). -/
  | remzK (d : Reg) (a : Reg) (k : Fin 256) (w : Width)
  /-- AND_K (R101). -/
  | andK (d : Reg) (a : Reg) (k : Fin 256) (w : Width)
  /-- OR_K (R101). -/
  | orK (d : Reg) (a : Reg) (k : Fin 256) (w : Width)
  /-- XOR_K (R101). -/
  | xorK (d : Reg) (a : Reg) (k : Fin 256) (w : Width)
  /-- ANDN_K (R101). -/
  | andnK (d : Reg) (a : Reg) (k : Fin 256) (w : Width)
  /-- SHL_K (R101). -/
  | shlK (d : Reg) (a : Reg) (k : Fin 256) (w : Width)
  /-- SHRL_K (R101). -/
  | shrlK (d : Reg) (a : Reg) (k : Fin 256) (w : Width)
  /-- SHRA_K (R101). -/
  | shraK (d : Reg) (a : Reg) (k : Fin 256) (w : Width)
  /-- ROL_K (R101). -/
  | rolK (d : Reg) (a : Reg) (k : Fin 256) (w : Width)
  /-- MINS_K (R101). -/
  | minsK (d : Reg) (a : Reg) (k : Fin 256) (w : Width)
  /-- MAXS_K (R101). -/
  | maxsK (d : Reg) (a : Reg) (k : Fin 256) (w : Width)
  /-- MINZ_K (R101). -/
  | minzK (d : Reg) (a : Reg) (k : Fin 256) (w : Width)
  /-- MAXZ_K (R101). -/
  | maxzK (d : Reg) (a : Reg) (k : Fin 256) (w : Width)
  /-- SEQ_K (R101). -/
  | seqK (d : Reg) (a : Reg) (k : Fin 256) (w : Width)
  /-- SNE_K (R101). -/
  | sneK (d : Reg) (a : Reg) (k : Fin 256) (w : Width)
  /-- SLTS_K (R101). -/
  | sltsK (d : Reg) (a : Reg) (k : Fin 256) (w : Width)
  /-- SLTZ_K (R101). -/
  | sltzK (d : Reg) (a : Reg) (k : Fin 256) (w : Width)
  /-- ADDI (R103). -/
  | addi (d : Reg) (a : Reg) (i : Fin 65536)
  /-- ANDI (R103). -/
  | andi (d : Reg) (a : Reg) (i : Fin 65536)
  /-- ORI (R103). -/
  | ori (d : Reg) (a : Reg) (i : Fin 65536)
  /-- XORI (R103). -/
  | xori (d : Reg) (a : Reg) (i : Fin 65536)
  /-- SLTI (R103). -/
  | slti (d : Reg) (a : Reg) (i : Fin 65536)
  /-- SLTIU (R103). -/
  | sltiu (d : Reg) (a : Reg) (i : Fin 65536)
  /-- SHI (R104). -/
  | shi (d : Reg) (a : Reg) (t : ShiftKind) (w : Width) (n : Fin 64)
  /-- BEQ (R105). -/
  | beq (a : Reg) (b : Reg) (o : Fin 8192)
  /-- BNE (R105). -/
  | bne (a : Reg) (b : Reg) (o : Fin 8192)
  /-- BLTS (R105). -/
  | blts (a : Reg) (b : Reg) (o : Fin 8192)
  /-- BGES (R105). -/
  | bges (a : Reg) (b : Reg) (o : Fin 8192)
  /-- BLTZ (R105). -/
  | bltz (a : Reg) (b : Reg) (o : Fin 8192)
  /-- BGEZ (R105). -/
  | bgez (a : Reg) (b : Reg) (o : Fin 8192)
  /-- JMP (R106). -/
  | jmp (o : Fin 67108864)
  /-- CALL (R106). -/
  | call (o : Fin 67108864)
  /-- JR (R107). -/
  | jr (a : Reg)
  /-- CALLR (R107). -/
  | callr (a : Reg)
  /-- RET (R107). -/
  | ret
  /-- LOOP (R110). -/
  | loop (a : Reg) (len : Fin 8192)
  /-- LOOPK (R110). -/
  | loopk (k : Fin 256) (len : Fin 8192)
  /-- LEXIT (R113). -/
  | lexit
  /-- LSAVE (R114). -/
  | lsave
  /-- LRST (R114). -/
  | lrst
  /-- PSET (R118). -/
  | pset (d : PReg) (a : Reg)
  /-- PGET (R118). -/
  | pget (d : Reg) (a : PReg)
  /-- PADD (R120). -/
  | padd (d : PReg) (a : PReg) (b : Reg)
  /-- PWALK (R121). -/
  | pwalk (d : PReg) (a : PReg) (b : Reg)
  /-- PCOORD (R122). -/
  | pcoord (d : PReg) (a : Reg) (b : Reg)
  /-- LD (R125). -/
  | ld (d : Reg) (p : PReg) (s : LdSize) (adr : Addr) (o : Ord)
  /-- ST (R127). -/
  | st (d : Reg) (p : PReg) (s : StSize) (adr : Addr) (o : Ord)
  /-- LDV (R125). -/
  | ldv (d : Reg) (p : PReg) (adr : Addr) (o : Ord)
  /-- STV (R125). -/
  | stv (d : Reg) (p : PReg) (adr : Addr) (o : Ord)
  /-- GATH (R130). -/
  | gath (d : Reg) (a : PReg) (b : Reg) (z : GSize) (x : Fin 4) (o : Ord)
  /-- SCAT (R130). -/
  | scat (d : Reg) (a : PReg) (b : Reg) (z : GSize) (x : Fin 4) (o : Ord)
  /-- AMO (R131). -/
  | amo (d : Reg) (a : PReg) (b : Reg) (f : AmoOp) (w : Width) (o : Ord)
  /-- CAS (R131). -/
  | cas (d : Reg) (a : PReg) (b : Reg) (w : Width) (o : Ord)
  /-- FADD (R131). -/
  | fadd (d : Reg) (a : PReg) (b : Reg) (f : FaddFmt) (o : Ord)
  /-- FENCE_FULL (R133). -/
  | fenceFull (s : Scope)
  /-- FENCE_ACQ (R133). -/
  | fenceAcq (s : Scope)
  /-- FENCE_REL (R133). -/
  | fenceRel (s : Scope)
  /-- FENCE_PATH (R133). -/
  | fencePath
  /-- FENCE_WIN (R133). -/
  | fenceWin
  /-- QBIND (R136). -/
  | qbind (d : PReg) (q : QReg)
  /-- QWAIT (R136). -/
  | qwait (q : QReg) (n : Fin 256)
  /-- QRSV (R136). -/
  | qrsv (q : QReg) (n : Fin 256)
  /-- QPUSH (R136). -/
  | qpush (q : QReg) (n : Fin 256)
  /-- QPOP (R136). -/
  | qpop (q : QReg) (n : Fin 256)
  /-- QLDV (R136). -/
  | qldv (d : Reg) (q : QReg) (n : Fin 256)
  /-- QSTV (R136). -/
  | qstv (d : Reg) (q : QReg) (n : Fin 256)
  /-- QWAIT_SATISFIED (R136). -/
  | qwaitSatisfied (slot : SlotId)
  /-- VADD (R142). -/
  | vadd (d : Reg) (a : Reg) (b : Reg) (r : Round)
  /-- VSUB (R142). -/
  | vsub (d : Reg) (a : Reg) (b : Reg) (r : Round)
  /-- VMUL (R142). -/
  | vmul (d : Reg) (a : Reg) (b : Reg) (r : Round)
  /-- VFMA (R142). -/
  | vfma (d : Reg) (a : Reg) (b : Reg) (r : Round)
  /-- VFMS (R142). -/
  | vfms (d : Reg) (a : Reg) (b : Reg) (r : Round)
  /-- VMIN (R143). -/
  | vmin (d : Reg) (a : Reg) (b : Reg)
  /-- VMAX (R143). -/
  | vmax (d : Reg) (a : Reg) (b : Reg)
  /-- VABS (R143). -/
  | vabs (d : Reg) (a : Reg)
  /-- VNEG (R143). -/
  | vneg (d : Reg) (a : Reg)
  /-- VDIV (R142). -/
  | vdiv (d : Reg) (a : Reg) (b : Reg) (r : Round)
  /-- VSQRT (R144). -/
  | vsqrt (d : Reg) (a : Reg) (r : Round)
  /-- VRCP (R144). -/
  | vrcp (d : Reg) (a : Reg) (r : Round)
  /-- VRSQ (R144). -/
  | vrsq (d : Reg) (a : Reg) (r : Round)
  /-- VEXP2 (R144). -/
  | vexp2 (d : Reg) (a : Reg) (r : Round)
  /-- VLOG2 (R144). -/
  | vlog2 (d : Reg) (a : Reg) (r : Round)
  /-- VCMP (R145). -/
  | vcmp (d : Reg) (a : Reg) (b : Reg) (c : VCmp)
  /-- VSEL (R145). -/
  | vsel (d : Reg) (a : Reg) (b : Reg)
  /-- VIADD (R146). -/
  | viadd (d : Reg) (a : Reg) (b : Reg) (s : Bool) (e : Elem)
  /-- VISUB (R146). -/
  | visub (d : Reg) (a : Reg) (b : Reg) (s : Bool) (e : Elem)
  /-- VIMUL (R146). -/
  | vimul (d : Reg) (a : Reg) (b : Reg) (e : Elem)
  /-- VAND (R146). -/
  | vand (d : Reg) (a : Reg) (b : Reg)
  /-- VOR (R146). -/
  | vor (d : Reg) (a : Reg) (b : Reg)
  /-- VXOR (R146). -/
  | vxor (d : Reg) (a : Reg) (b : Reg)
  /-- VSHL (R146). -/
  | vshl (d : Reg) (a : Reg) (b : Reg) (e : Elem)
  /-- VSHR (R146). -/
  | vshr (d : Reg) (a : Reg) (b : Reg) (t : Bool) (e : Elem)
  /-- VBCAST (R147). -/
  | vbcast (d : Reg) (a : Reg)
  /-- VEXTR (R147). -/
  | vextr (d : Reg) (a : Reg) (lane : Fin 16)
  /-- VINS (R147). -/
  | vins (d : Reg) (a : Reg) (lane : Fin 16)
  /-- VPERM (R148). -/
  | vperm (d : Reg) (a : Reg) (b : Reg)
  /-- VSCAN (R149). -/
  | vscan (d : Reg) (a : Reg) (k : ScanKind)
  /-- VREDADD (R150). -/
  | vredadd (d : Reg) (a : Reg) (r : Round)
  /-- VREDMAX (R150). -/
  | vredmax (d : Reg) (a : Reg) (t : Dom)
  /-- VREDMIN (R150). -/
  | vredmin (d : Reg) (a : Reg) (t : Dom)
  /-- VPOPC (R151). -/
  | vpopc (d : Reg) (a : Reg)
  /-- VFFS (R151). -/
  | vffs (d : Reg) (a : Reg)
  /-- VCVT (R152). -/
  | vcvt (d : Reg) (a : Reg) (r : Round)
  /-- VQNT (R154). -/
  | vqnt (d : Reg) (a : Reg) (b : Reg)
  /-- VDQNT (R155). -/
  | vdqnt (d : Reg) (a : Reg) (b : Reg)
  /-- MZERO (R164). -/
  | mzero (t : Fin 16) (e : Fin 2)
  /-- MANCHOR (R165). -/
  | manchor (t : Fin 16) (k : Fin 256) (e : Fin 2)
  /-- MMA (R167). -/
  | mma (t : Fin 16) (a : PReg) (b : PReg) (k : Fin 256) (e : Fin 2)
  /-- MMAS (R167). -/
  | mmas (t : Fin 16) (a : PReg) (b : PReg) (k : Fin 256) (e : Fin 2)
  /-- MRES (R168). -/
  | mres (t : Fin 16) (a : PReg) (k : Fin 256) (e : Fin 2)
  /-- MRESC (R169). -/
  | mresc (t : Fin 16) (e : Fin 2)
  /-- MRD (R170). -/
  | mrd (t : Fin 16) (d : Reg) (k : Fin 256) (e : Fin 2)
  /-- MCMP (R171). -/
  | mcmp (t : Fin 16) (d : Reg) (k : Fin 256) (e : Fin 2)
  /-- MSAVE (R173). -/
  | msave (t : Fin 16) (a : PReg) (e : Fin 2)
  /-- MLOAD (R174). -/
  | mload (t : Fin 16) (a : PReg) (e : Fin 2)
  /-- MMERGE (R175). -/
  | mmerge (t : Fin 16) (a : PReg) (e : Fin 2)
  /-- MRSTL (R177). -/
  | mrstl (k : Fin 256)
  /-- MWAIT (R176). -/
  | mwait (t : Fin 16) (e : Fin 2)
  /-- ENGINE_UNIT (R160). -/
  | engineUnit (cl : Nat) (e : Fin 2)
  /-- ASTEP (R197). -/
  | astep (e : Bool) (o : Fin 16) (q : QReg) (n : Fin 256) (g : Fin 8)
  /-- ASTEPX (R199). -/
  | astepx (d : Reg) (q : QReg) (n : Fin 256) (g : Fin 8)
  /-- STREAM_SYMBOL (R196). -/
  | streamSymbol (slot : SlotId)
  /-- ALOAD (R185). -/
  | aload (a : PReg) (g : Fin 8)
  /-- ASET (R192). -/
  | aset (a : Reg) (b : Reg) (g : Fin 8)
  /-- ATOK (R194). -/
  | atok (a : Reg) (g : Fin 8)
  /-- ACOMP (R201). -/
  | acomp (d : Reg) (a : Reg) (b : Reg)
  /-- ASEL (R202). -/
  | asel (d : Reg) (a : Reg) (b : Reg)
  /-- AMASK (R203). -/
  | amask (d : PReg) (b : Reg) (g : Fin 8)
  /-- AFORCE (R204). -/
  | aforce (d : Reg) (b : Reg) (g : Fin 8)
  /-- AGET (R193). -/
  | aget (d : Reg) (g : Fin 8)
  /-- APUSH (R193). -/
  | apush (a : Reg) (g : Fin 8)
  /-- APOP (R193). -/
  | apop (d : Reg) (g : Fin 8)
  /-- TBIND (R214). -/
  | tbind (a : PReg) (b : PReg)
  /-- TBINDM (R214). -/
  | tbindm (a : PReg) (b : Reg)
  /-- TUNBIND (R214). -/
  | tunbind (a : PReg)
  /-- TOPEN (R215). -/
  | topen (d : Reg) (a : PReg)
  /-- TOPENW (R215). -/
  | topenw (d : Reg) (a : PReg) (b : Reg)
  /-- TOPENW_TIMEOUT (R215). -/
  | topenwTimeout (slot : SlotId)
  /-- TCLOSE (R215). -/
  | tclose (a : Reg)
  /-- TINFO (R216). -/
  | tinfo (d : Reg) (a : Reg) (i : Fin 16)
  /-- THADDR (R216). -/
  | thaddr (d : Reg) (a : Reg) (b : Reg)
  /-- SPAWN (R218). -/
  | spawn (d : Reg) (a : PReg)
  /-- NEND (R219). -/
  | nend
  /-- NWAIT (R220). -/
  | nwait (a : Reg)
  /-- BARR (R221). -/
  | barr (a : Reg) (c : Fin 16)
  /-- YARD_ANY (R222). -/
  | yardAny (d : Reg) (a : Reg)
  /-- YARD_ALL (R222). -/
  | yardAll (d : Reg) (a : Reg)
  /-- YARD_DET (R222). -/
  | yardDet
  /-- CPY (R225). -/
  | cpy (d : PReg) (a : PReg) (b : Reg) (l : Bool) (n : Bool) (r : Bool) (q : Bool)
  /-- CPYX (R326). -/
  | cpyx (d : PReg) (a : PReg) (b : Reg) (l : Bool) (n : Bool) (r : Bool) (q : Bool)
  /-- SEAL (R358). -/
  | sealOut (d : PReg) (a : PReg) (b : Reg) (n : Bool) (r : Bool) (q : Bool)
  /-- EVCFG (R228). -/
  | evcfg (a : Reg) (b : Reg)
  /-- EVWAIT (R229). -/
  | evwait (a : Reg)
  /-- GCOMMIT (R230). -/
  | gcommit (g : Fin 4)
  /-- GDROP (R230). -/
  | gdrop (g : Fin 4)
  /-- TRAP (R233). -/
  | trap (c : Fin 256)
  /-- ERET (R238). -/
  | eret
  /-- URET (R238). -/
  | uret
  /-- SYSR (R27). -/
  | sysr (d : Reg) (i : Fin 256)
  /-- SYSW (R231). -/
  | sysw (a : Reg) (i : Fin 256)
  /-- SWPWP (R232). -/
  | swpwp (a : Reg)
  /-- HBEAT (R233). -/
  | hbeat
  /-- WFE (R234). -/
  | wfe
  /-- WFE_WAKE (R256). -/
  | wfeWake (slot : SlotId)
  /-- HALT (R233). -/
  | halt
  /-- SPILL (R233). -/
  | spill
  /-- WMON (R234). -/
  | wmon (a : PReg)
  /-- RDTIME (R231). -/
  | rdtime (d : Reg)
  /-- RDWIN (R231). -/
  | rdwin (d : Reg)
  /-- PERMIX (R235). -/
  | permix (d : Reg) (a : Reg) (k : Fin 256)
  /-- HNOP (R62). -/
  | hnop (p : Fin 4194304)
  /-- HINT_TYPE_8_15 (R62). -/
  | hintType8to15 (t : Fin 8) (p : Fin 4194304)
  /-- HIMM (R46). -/
  | himm (p : Fin 4194304)
  /-- HFMT (R63). -/
  | hfmt (a : Fin 13) (b : Fin 13) (o : Fin 13) (s : Fin 4) (x : Bool)
  /-- HSCOPE (R62). -/
  | hscope (s : Scope)
  /-- HREALIGN (R47). -/
  | hrealign (n : Fin 4194304)
  /-- REALIGN_TIMEOUT (R47). -/
  | realignTimeout (slot : SlotId)
  /-- HPROMO (R90). -/
  | hpromo (p : Fin 4)
  /-- HGUARD (R230). -/
  | hguard (g : Fin 4)
  /-- HNT (R62). -/
  | hnt
  /-- NOTIFY_ENTRY (R237). -/
  | notifyEntry (slot : SlotId)
  /-- COPY_CHUNK (R225). -/
  | copyChunk (cl : Nat) (e : Fin 4)
  /-- COMMAND_COMPLETION (R226). -/
  | commandCompletion (cmd : Nat)
  /-- ARMED_COMMAND_START (R229). -/
  | armedCommandStart (cmd : Nat)
  /-- SEAL_START (R358). -/
  | sealStart
  /-- NODE_END (R219). -/
  | nodeEnd (node : Nat)
  /-- DEFERRED_DRAIN (R260). -/
  | deferredDrain (die : Nat)
  /-- LEASE_GRANT (R261). -/
  | leaseGrant (node : Nat)
  /-- DISPATCH_DECISION (R263). -/
  | dispatchDecision (die : Nat)
  /-- RESERVING (R265). -/
  | reserving (node : Nat)
  /-- PRIORITY_SPILL (R275). -/
  | prioritySpill (node : Nat)
  /-- LAUNCH (R267). -/
  | launch (node : Nat)
  /-- HEARTBEAT_EXPIRY (R274). -/
  | heartbeatExpiry (slot : SlotId)
  /-- FENCE_TEST_DONE (R310). -/
  | fenceTestDone (core : Nat) (passed : Bool)
  /-- SLOT_SPILL (R312). -/
  | slotSpill (slot : SlotId)
  /-- RESUMPTION (R276). -/
  | resumption (node : Nat)
  /-- ENTRY_TIMEOUT (R127). -/
  | entryTimeout (core : Nat) (k : Nat)
  /-- STORE_LINE_PERFORM (R245). -/
  | storeLinePerform (core : Nat) (k : Nat)
  /-- ACCESS_RESPONSE (R126). -/
  | accessResponse (slot : SlotId) (data : VecWord)
  /-- PAGE_WALK (R301). -/
  | pageWalk (cl : Nat) (asid : BitVec 16) (va : VAddr) (kind : AccessKind)
  /-- VEXEY_ADMISSION (R337). -/
  | vexeyAdmission (req : VexeyKey) (flits : Nat)
  /-- VEXEY_WRITE (R336). -/
  | vexeyWrite (msg : Message) (payload : VecWord)
  /-- VEXEY_READ (R335). -/
  | vexeyRead (msg : Message)
  /-- READ_DATA (R335). -/
  | readData (msg : Message) (payload : VecWord)
  /-- VEXEY_ATOMIC (R335). -/
  | vexeyAtomic (msg : Message) (req : AtomicReq)
  /-- ATOMIC_DATA (R335). -/
  | atomicData (msg : Message) (payload : VecWord)
  /-- PERFORMED (R335). -/
  | performed (msg : Message)
  /-- CLOCK_MESSAGE (R338). -/
  | clockMessage (ofs : BitVec 32)
  /-- LINK_FAILURE (R337). -/
  | linkFailure (link : Fin 16)
  /-- SYNC_LOST (R339). -/
  | syncLost
  /-- SYNC_REGAINED (R339). -/
  | syncRegained
  /-- HOST_WRITE (R247). -/
  | hostWrite (port : Fin 2) (pa : Nat) (data : List Byte)
  /-- HOST_READ (R247). -/
  | hostRead (port : Fin 2) (pa : Nat) (n : Nat)
  /-- LAUNCH_SUBMISSION (R342). -/
  | launchSubmission (port : Fin 2) (off : Nat) (data : List Byte)
  /-- DMA_REQUEST (R345). -/
  | dmaRequest (port : Fin 2) (rid : BitVec 16) (va : VAddr) (rd : Nat) (data : List Byte)
  /-- INTERRUPT_LINE_RAISE (R345). -/
  | interruptLineRaise (line : Nat)
  /-- FUNCTION_RESET (R346). -/
  | functionReset (port : Fin 2)
  /-- FUNCTION_READY (R346). -/
  | functionReady (port : Fin 2)
  /-- FAULT_RECORD_POST (R309). -/
  | faultRecordPost (ring : Nat)
  /-- TINV (R306). -/
  | tinv (v : DWord)
  /-- INVALIDATION_DONE (R306). -/
  | invalidationDone
  /-- SPILLREQ (R310). -/
  | spillreq (v : DWord)
  /-- NODEKILL (R305). -/
  | nodekill (v : DWord)
  /-- LEASEGO (R310). -/
  | leasego (v : DWord)
  /-- LEASENO (R310). -/
  | leaseno (v : DWord)
  /-- FENCEACK (R310). -/
  | fenceack (v : DWord)
  /-- RELASID (R283). -/
  | relasid (v : DWord)
  /-- GRANT_ENTRY_WRITE (R284). -/
  | grantEntryWrite (off : Nat) (v : DWord)
  /-- BANK_MODE_REQUEST (R322). -/
  | bankModeRequest (cl : Nat) (bank : Fin 64) (v : DWord)
  /-- FURL_REQUEST (R322). -/
  | furlRequest (cl : Nat) (bank : Fin 64) (v : DWord)
  /-- BANK_SWITCH_DONE (R323). -/
  | bankSwitchDone (cl : Nat) (bank : Fin 64)
  /-- BANK_REEF (R365). -/
  | bankReef (bank : BankId)
  /-- ROUTINE_LOAD (R325). -/
  | routineLoad (cl : Nat) (v : DWord)
  /-- ROUTINE_UNLOAD (R325). -/
  | routineUnload (cl : Nat) (v : DWord)
  /-- ROUTINE_LOAD_DONE (R325). -/
  | routineLoadDone (cl : Nat)
  /-- PROTECTION_ENTRY_WRITE (R351). -/
  | protectionEntryWrite (core : Nat) (e : Fin 8) (v : DWord)
  /-- REGISTER_WRITE (R283). -/
  | registerWrite (pa : Nat) (v : DWord)
  /-- LIMITER_MEASURE (R365). -/
  | limiterMeasure (die : Nat) (mw : Nat)
  /-- ATTEST (R357). -/
  | attest (world : BitVec 4) (nonce : List Byte)
  /-- PARK (R362). -/
  | park (slot : SlotId)
  /-- RESUME (R362). -/
  | resume (slot : SlotId)
  /-- STEP (R362). -/
  | stepSlot (slot : SlotId)
  /-- READ (R361). -/
  | readMem (pa : Nat) (n : Nat)
  /-- WRITE (R361). -/
  | writeMem (pa : Nat) (data : List Byte)
  /-- TRACE (R363). -/
  | traceCfg (cfg : TraceCfg)
  /-- COUNTERS (R361). -/
  | counters
  /-- BOOTLOG (R366). -/
  | bootlog
  /-- TRACE_SAMPLE (R363). -/
  | traceSample
  /-- COUNTER_SNAPSHOT (R364). -/
  | counterSnapshot
  /-- RESET (R366). -/
  | resetModule (boot : BootScript)
  /-- ILLEGAL_WORD (R66). -/
  | illegalWord (w : Word)
  /-- WINDOW_START (R133). -/
  | windowStart
  /-- BACK_INVALIDATE_RESPONSE (R341). -/
  | backInvalidateResponse (line : Nat)
  deriving DecidableEq, Repr

end Sys2Proof
end

