-- ==== Sys2Proof/Machine/Float.lean ====
section
/-!
DEFINITION. Numbers: the element formats, exact arithmetic on their values, and rounding (spec/04_numbers.md R70 to R84).
A value is a NaN, an infinity or a signed dyadic number; every operation is exact on integers and rounds once.
-/
namespace Sys2Proof.Machine

/-- An exact value: (-1)^neg x m x 2^e when it is finite; m = 0 is a signed zero. NaR enters as nan (R152). -/
inductive Fp where
  | nan
  | inf (neg : Bool)
  | fin (neg : Bool) (m : Nat) (e : Int)
  deriving DecidableEq, Repr

/-- An IEEE 754 format (R70): exponent bits, fraction bits, bias. -/
structure IeeeFmt where
  expBits : Nat
  frac : Nat
  bias : Nat
  deriving DecidableEq, Repr

def fp32 : IeeeFmt := { expBits := 8, frac := 23, bias := 127 }
def bf16 : IeeeFmt := { expBits := 8, frac := 7, bias := 127 }
def fp16 : IeeeFmt := { expBits := 5, frac := 10, bias := 15 }

/-- The exponent of the last bit of a subnormal. -/
def IeeeFmt.emin (f : IeeeFmt) : Int := 1 - (f.bias : Int) - f.frac

/-- The code of infinity. -/
def IeeeFmt.infCode (f : IeeeFmt) : Nat := (2 ^ f.expBits - 1) * 2 ^ f.frac

/-- The canonical quiet NaN (R71). -/
def IeeeFmt.nanCode (f : IeeeFmt) : Nat := f.infCode + 2 ^ (f.frac - 1)

/-- The sign bit. -/
def IeeeFmt.signBit (f : IeeeFmt) : Nat := 2 ^ (f.expBits + f.frac)

/-- The value of exponent and fraction fields below the sign, without special codes (R72): subnormals included. -/
def fieldsValue (neg : Bool) (frac : Nat) (emin : Int) (n : Nat) : Fp :=
  if n < 2 ^ frac then .fin neg n emin
  else .fin neg (2 ^ frac + n % 2 ^ frac) (emin + (n / 2 ^ frac : Nat) - 1)

/-- The value of an IEEE encoding. -/
def IeeeFmt.decode (f : IeeeFmt) (n : Nat) : Fp :=
  let neg := n / f.signBit % 2 = 1
  let m := n % f.signBit
  if f.infCode < m then .nan else if m = f.infCode then .inf neg else fieldsValue neg f.frac f.emin m

/-! ## Exact operations -/

/-- m x 2^e with the exponent brought down to e'. -/
def scaleTo (m : Nat) (e e' : Int) : Nat := m * 2 ^ (e - e').toNat

/-- A signed magnitude as an integer. -/
def signedMag (neg : Bool) (m : Nat) : Int := if neg then -(m : Int) else m

/-- The negative of a value. -/
def Fp.neg : Fp → Fp
  | .nan => .nan
  | .inf s => .inf (!s)
  | .fin s m e => .fin (!s) m e

/-- The exact sum, with the sign IEEE 754 gives an exact zero in the mode (R141). -/
def Fp.add (r : Round) : Fp → Fp → Fp
  | .nan, _ => .nan
  | _, .nan => .nan
  | .inf s, .inf s' => if s = s' then .inf s else .nan
  | .inf s, .fin _ _ _ => .inf s
  | .fin _ _ _, .inf s => .inf s
  | .fin s m e, .fin s' m' e' =>
    let e0 := min e e'
    let t := signedMag s (scaleTo m e e0) + signedMag s' (scaleTo m' e' e0)
    if t = 0 then
      if m = 0 ∧ m' = 0 ∧ s = s' then .fin s 0 0 else .fin (r = .rd) 0 0
    else .fin (t < 0) t.natAbs e0

/-- The exact product. -/
def Fp.mul : Fp → Fp → Fp
  | .nan, _ => .nan
  | _, .nan => .nan
  | .inf s, .inf s' => .inf (s != s')
  | .inf s, .fin s' m _ => if m = 0 then .nan else .inf (s != s')
  | .fin s m _, .inf s' => if m = 0 then .nan else .inf (s != s')
  | .fin s m e, .fin s' m' e' => .fin (s != s') (m * m') (e + e')

/-- x < y for numbers; false with a NaN. -/
def Fp.lt : Fp → Fp → Bool
  | .nan, _ => false
  | _, .nan => false
  | .inf s, .inf s' => s && !s'
  | .inf s, .fin _ _ _ => s
  | .fin _ _ _, .inf s => !s
  | .fin s m e, .fin s' m' e' =>
    let e0 := min e e'
    signedMag s (scaleTo m e e0) < signedMag s' (scaleTo m' e' e0)

/-- x = y for numbers, with -0 = +0; false with a NaN. -/
def Fp.eq (x y : Fp) : Bool := !x.lt y && !y.lt x && x != .nan && y != .nan

/-! ## Rounding -/

/-- ⌊log2 (num/den)⌋ for positive num and den. -/
def flog2Rat (num den : Nat) : Int :=
  let d : Int := (num.log2 : Int) - den.log2
  if den * 2 ^ d.toNat ≤ num * 2 ^ (-d).toNat then d else d - 1

/-- The increment of a rounding: quotient k, remainder r of den, sign and mode. -/
def roundUpK (mode : Round) (neg : Bool) (k r den : Nat) : Nat :=
  match mode with
  | .rn => if den < 2 * r ∨ (2 * r = den ∧ k % 2 = 1) then k + 1 else k
  | .rz => k
  | .ru => if r ≠ 0 ∧ neg = false then k + 1 else k
  | .rd => if r ≠ 0 ∧ neg then k + 1 else k

/-- num/den x 2^e rounded to a multiple of 2^q. -/
def roundAt (mode : Round) (neg : Bool) (num den : Nat) (e q : Int) : Nat :=
  let n := num * 2 ^ (e - q).toNat
  let d := den * 2 ^ (q - e).toNat
  roundUpK mode neg (n / d) (n % d) d

/-- The code below the sign of num/den x 2^e rounded to a format of frac fraction bits whose subnormals end at emin, with
no limit on the exponent. -/
def roundCode (frac : Nat) (emin : Int) (mode : Round) (neg : Bool) (num den : Nat) (e : Int) : Nat :=
  if num = 0 then 0
  else
    let q := max (flog2Rat num den + e - frac) emin
    (q - emin).toNat * 2 ^ frac + roundAt mode neg num den e q

/-- The overflow of a rounding is an infinity in this mode (IEEE 754). -/
def overflowsToInf (mode : Round) (neg : Bool) : Bool :=
  match mode with
  | .rn => true
  | .rz => false
  | .ru => !neg
  | .rd => neg

/-- num/den x 2^e rounded into an IEEE format (R71, R79). -/
def IeeeFmt.roundRat (f : IeeeFmt) (mode : Round) (neg : Bool) (num den : Nat) (e : Int) : Nat :=
  let c := roundCode f.frac f.emin mode neg num den e
  let c := if f.infCode ≤ c then (if overflowsToInf mode neg then f.infCode else f.infCode - 1) else c
  (if neg then f.signBit else 0) + c

/-- A value rounded into an IEEE format. -/
def IeeeFmt.round (f : IeeeFmt) (mode : Round) : Fp → Nat
  | .nan => f.nanCode
  | .inf neg => (if neg then f.signBit else 0) + f.infCode
  | .fin neg m e => f.roundRat mode neg m 1 e

/-! ## Roots, 2^x and log2 -/

/-- ⌊√n⌋ from the bits i - 1 down, r found so far. -/
def isqrtFrom (n : Nat) : Nat → Nat → Nat
  | 0, r => r
  | i + 1, r => if (r + 2 ^ i) * (r + 2 ^ i) ≤ n then isqrtFrom n i (r + 2 ^ i) else isqrtFrom n i r

/-- ⌊√n⌋. -/
def isqrt (n : Nat) : Nat := isqrtFrom n (n.log2 / 2 + 1) 0

/-- A truncated magnitude with a bit that says whether anything was cut off: 2k, or 2k + 1. -/
def sticky (k : Nat) (cut : Bool) : Nat := 2 * k + (if cut then 1 else 0)

/-- The square root of a value (R144), rounded. 64 extra bits and the bit of what was cut off decide every mode. -/
def sqrtRound (f : IeeeFmt) (mode : Round) : Fp → Nat
  | .nan => f.nanCode
  | .inf neg => if neg then f.nanCode else f.infCode
  | .fin neg m e =>
    if m = 0 then (if neg then f.signBit else 0)
    else if neg then f.nanCode
    else
      let m' := if e % 2 = 0 then m * 2 ^ 128 else m * 2 ^ 129
      let e' := if e % 2 = 0 then e - 128 else e - 129
      let r := isqrt m'
      f.roundRat mode false (sticky r (r * r ≠ m')) 2 (e' / 2)

/-- 1/√x (R144), rounded. -/
def rsqrtRound (f : IeeeFmt) (mode : Round) : Fp → Nat
  | .nan => f.nanCode
  | .inf neg => if neg then f.nanCode else 0
  | .fin neg m e =>
    if m = 0 then (if neg then f.signBit else 0) + f.infCode
    else if neg then f.nanCode
    else
      let m' := if e % 2 = 0 then m else 2 * m
      let e' := if e % 2 = 0 then e else e - 1
      let r := isqrt (2 ^ 256 / m')
      f.roundRat mode false (sticky r (r * r * m' ≠ 2 ^ 256)) 2 (-128 - e' / 2)

/-- x / y (R142), rounded. -/
def divRound (f : IeeeFmt) (mode : Round) : Fp → Fp → Nat
  | .nan, _ => f.nanCode
  | _, .nan => f.nanCode
  | .inf _, .inf _ => f.nanCode
  | .inf s, .fin s' _ _ => (if s != s' then f.signBit else 0) + f.infCode
  | .fin s _ _, .inf s' => if s != s' then f.signBit else 0
  | .fin s m e, .fin s' m' e' =>
    if m' = 0 then (if m = 0 then f.nanCode else (if s != s' then f.signBit else 0) + f.infCode)
    else f.roundRat mode (s != s') m m' (e - e')

/-- The fixed-point precision of 2^x (log 20). -/
def expBits : Nat := 400

/-- 2^(frac / 2^n) in fixed point: the product of the roots 2^(2^-i) that the bits of frac choose, from the first down. -/
def expProduct (frac : Nat) : Nat → Nat → Nat → Nat
  | 0, _, acc => acc
  | n + 1, root, acc =>
    let acc := if frac / 2 ^ n % 2 = 1 then acc * root / 2 ^ expBits else acc
    expProduct frac n (isqrt (root * 2 ^ expBits)) acc

/-- 2^x (R144), rounded. For x no integer 2^x is irrational, so no rounding meets a tie. -/
def exp2Round (f : IeeeFmt) (mode : Round) : Fp → Nat
  | .nan => f.nanCode
  | .inf neg => if neg then 0 else f.infCode
  | .fin neg m e =>
    let x : Int := signedMag neg m
    let whole : Int := if 0 ≤ e then x * 2 ^ e.toNat else x / 2 ^ (-e).toNat
    let frac : Nat := if 0 ≤ e then 0 else (x % 2 ^ (-e).toNat).toNat
    if 1024 ≤ whole then f.roundRat mode false 1 1 1024
    else if whole < -1024 then f.roundRat mode false 1 1 (-1024)
    else if frac = 0 then f.roundRat mode false 1 1 whole
    else
      let p := expProduct frac (-e).toNat (isqrt (2 * 2 ^ expBits * 2 ^ expBits)) (2 ^ expBits)
      f.roundRat mode false (sticky p true) 2 (whole - expBits)

/-- The fixed-point precision of log2 and the fraction bits found (log 20). -/
def logPrec : Nat := 512
def logBits : Nat := 160

/-- n bits of log2 of z in [1, 2), z in fixed point, by repeated squaring; the bits found so far are acc. -/
def logFrac : Nat → Nat → Nat → Nat
  | 0, _, acc => acc
  | n + 1, z, acc =>
    let z := z * z / 2 ^ logPrec
    if 2 * 2 ^ logPrec ≤ z then logFrac n (z / 2) (2 * acc + 1) else logFrac n z (2 * acc)

/-- log2 x (R144), rounded. For x no power of two log2 x is irrational. -/
def log2Round (f : IeeeFmt) (mode : Round) : Fp → Nat
  | .nan => f.nanCode
  | .inf neg => if neg then f.nanCode else f.infCode
  | .fin neg m e =>
    if m = 0 then f.signBit + f.infCode
    else if neg then f.nanCode
    else
      let l : Int := m.log2 + e
      if m = 2 ^ m.log2 then f.roundRat mode (l < 0) l.natAbs 1 0
      else
        let v : Int := l * 2 ^ logBits + (logFrac logBits (m * 2 ^ logPrec / 2 ^ m.log2) 0 : Nat)
        let num := if v < 0 then 2 * v.natAbs - 1 else sticky v.natAbs true
        f.roundRat mode (v < 0) num 2 (-(logBits : Int))

/-! ## Narrow formats (R72, R75) -/

/-- The value of a code of E4M3, E5M2, E3M2 and E2M1 (R72). -/
def e4m3Value (n : Nat) : Fp :=
  if n % 128 = 0x7F then .nan else fieldsValue (bit n 7) 3 (-9) (n % 128)
def e5m2Value (n : Nat) : Fp :=
  if 0x7C < n % 128 then .nan else if n % 128 = 0x7C then .inf (bit n 7) else fieldsValue (bit n 7) 2 (-16) (n % 128)
def e3m2Value (n : Nat) : Fp := fieldsValue (bit n 5) 2 (-4) (n % 32)
def e2m1Value (n : Nat) : Fp := fieldsValue (bit n 3) 1 (-1) (n % 8)

/-- The length of the run of bits equal to b from bit w - 1 down (R75). -/
def runLength (b : Bool) (n : Nat) : Nat → Nat
  | 0 => 0
  | w + 1 => if bit n w = b then 1 + runLength b n w else 0

/-- A tapered magnitude of w bits, times 2^12 (R75): regime, one exponent bit if one remains, fraction. -/
def taperMag (w n : Nat) : Nat :=
  if n % 2 ^ w = 0 then 0
  else
    let ones := bit n (w - 1)
    let m := runLength ones n w
    let k : Int := if ones then m - 1 else -(m : Int)
    let rest := w - min w (m + 1)
    let e := if rest = 0 then 0 else n / 2 ^ (rest - 1) % 2
    let frac := rest - 1
    let f := n % 2 ^ frac
    (2 ^ frac + f) * 2 ^ (2 * k + e + 12 - frac).toNat

/-- The value of a T8 or T6 word: w magnitude bits below the sign (R75). -/
def taperValue (w n : Nat) : Fp :=
  if n % 2 ^ w = 0 then (if bit n w then .nan else .fin false 0 0) else .fin (bit n w) (taperMag w n) (-12)

/-- The codes from 1 to n whose magnitude is at most a/b x 2^-12. -/
def taperBelow (w a b : Nat) : Nat → Nat
  | 0 => 0
  | n + 1 => if taperMag w (n + 1) * b ≤ a then n + 1 else taperBelow w a b n

/-- Conversion of num/den x 2^e into a T format (R77): nearest, even code on a tie, no zero for a nonzero value. -/
def taperCode (w : Nat) (neg : Bool) (num den : Nat) (e : Int) : Nat :=
  if num = 0 then 0
  else
    let a := num * 2 ^ (e + 12).toNat
    let b := den * 2 ^ (-(e + 12)).toNat
    let lo := taperBelow w a b (2 ^ w - 1)
    let c :=
      if lo = 0 then 1
      else if lo = 2 ^ w - 1 then lo
      else
        let mid := (taperMag w lo + taperMag w (lo + 1)) * b
        if 2 * a < mid ∨ (2 * a = mid ∧ lo % 2 = 0) then lo else lo + 1
    (if neg then 2 ^ w else 0) + c

/-- Conversion into E4M3, E5M2, E3M2 or E2M1 (R78): total bits, fraction bits, last exponent, largest finite code. -/
def narrowCode (w frac : Nat) (emin : Int) (top : Nat) (mode : Round) (neg : Bool) (num den : Nat) (e : Int) : Nat :=
  (if neg then 2 ^ (w - 1) else 0) + min top (roundCode frac emin mode neg num den e)

/-- Conversion into an integer format of w bits (R79): rounded, then saturated. -/
def intCode (w : Nat) (mode : Round) (neg : Bool) (num den : Nat) (e : Int) : Nat :=
  let k := roundAt mode neg num den e 0
  if neg then wrap w (-(min k (2 ^ (w - 1)) : Nat)) else min k (2 ^ (w - 1) - 1)

/-! ## Formats by HFMT code (R63, R70) -/

/-- Bits of an element. DESIGN CHOICE (log 132): a reserved code, which only a save area written by software can bring back as pending,
counts as INT32 here and in what follows. -/
def fmtBits : Nat → Nat
  | 1 => 32
  | 2 => 16
  | 3 => 16
  | 4 => 8
  | 5 => 6
  | 6 => 8
  | 7 => 8
  | 8 => 6
  | 9 => 4
  | 10 => 8
  | 11 => 4
  | _ => 32

/-- An integer as a value. -/
def intValue (i : Int) : Fp := .fin (i < 0) i.natAbs 0

/-- The exact value of an element (R152). -/
def fmtValue (code n : Nat) : Fp :=
  match code with
  | 1 => fp32.decode n
  | 2 => bf16.decode n
  | 3 => fp16.decode n
  | 4 => taperValue 7 n
  | 5 => taperValue 5 n
  | 6 => e4m3Value n
  | 7 => e5m2Value n
  | 8 => e3m2Value n
  | 9 => e2m1Value n
  | 10 => intValue (toSigned 8 n)
  | 11 => intValue (toSigned 4 n)
  | _ => intValue (toSigned 32 n)

/-- num/den x 2^e converted into a format (R77 to R79). -/
def fmtRound (code : Nat) (mode : Round) (neg : Bool) (num den : Nat) (e : Int) : Nat :=
  match code with
  | 1 => fp32.roundRat mode neg num den e
  | 2 => bf16.roundRat mode neg num den e
  | 3 => fp16.roundRat mode neg num den e
  | 4 => taperCode 7 neg num den e
  | 5 => taperCode 5 neg num den e
  | 6 => narrowCode 8 3 (-9) 0x7E mode neg num den e
  | 7 => narrowCode 8 2 (-16) 0x7B mode neg num den e
  | 8 => narrowCode 6 2 (-4) 0x1F mode neg num den e
  | 9 => narrowCode 4 1 (-1) 0x7 mode neg num den e
  | 10 => intCode 8 mode neg num den e
  | 11 => intCode 4 mode neg num den e
  | _ => intCode 32 mode neg num den e

/-- The code of a NaN in a format (R71, R72, R77 to R79). -/
def fmtNan : Nat → Nat
  | 1 => 0x7FC00000
  | 2 => 0x7FC0
  | 3 => 0x7E00
  | 4 => 0x80
  | 5 => 0x20
  | 6 => 0x7F
  | 7 => 0x7E
  | _ => 0

/-- The code of an infinity in a format (R77 to R79). -/
def fmtInf (code : Nat) (neg : Bool) : Nat :=
  match code with
  | 1 => fp32.round .rn (.inf neg)
  | 2 => bf16.round .rn (.inf neg)
  | 3 => fp16.round .rn (.inf neg)
  | 4 => 0x80
  | 5 => 0x20
  | 6 => if neg then 0xFE else 0x7E
  | 7 => if neg then 0xFC else 0x7C
  | 8 => if neg then 0x3F else 0x1F
  | 9 => if neg then 0xF else 0x7
  | 10 => if neg then 0x80 else 0x7F
  | 11 => if neg then 0x8 else 0x7
  | _ => if neg then 0x80000000 else 0x7FFFFFFF

/-- A value converted into a format. -/
def fmtConvert (code : Nat) (mode : Round) : Fp → Nat
  | .nan => fmtNan code
  | .inf neg => fmtInf code neg
  | .fin neg m e => fmtRound code mode neg m 1 e

/-- The largest magnitude FMAX of a quantising format (R82). -/
def fmtMax : Nat → Nat
  | 4 => 4096
  | 5 => 256
  | 6 => 448
  | 7 => 57344
  | 8 => 28
  | 9 => 6
  | 10 => 127
  | _ => 7

/-! ## Block scales (R80) -/

/-- The value of an S12 scale; 0xFFF is the NaN scale. -/
def scaleValue (n : Nat) : Fp :=
  if n % 4096 = 0xFFF then .nan else .fin false (16 + n % 16) ((n / 16 % 256 : Nat) - 131)

/-- An S12 code times a whole number is at least M x 2^-149. -/
def scaleReaches (c fmax m : Nat) : Bool := decide (m ≤ (16 + c % 16) * fmax * 2 ^ (c / 16 + 18))

/-- The number of codes below the smallest one that reaches M, found bit by bit. -/
def scaleSearch (fmax m : Nat) : Nat → Nat → Nat
  | 0, r => r
  | i + 1, r => if scaleReaches (r + 2 ^ i - 1) fmax m then scaleSearch fmax m i r else scaleSearch fmax m i (r + 2 ^ i)

/-- The smallest S12 value with s x FMAX >= M, or 0xFFE (R82). -/
def smallestScale (fmax m : Nat) : Nat := min (scaleSearch fmax m 12 0) 0xFFE

/-! ## Quantising (R82, R83) -/

/-- A block's result: scale, codes, side entries (index, BF16 value) in order. -/
structure Quantised where
  scale : Nat
  codes : List Nat
  side : List (Nat × Nat)
  deriving DecidableEq, Repr

/-- A binary32 magnitude in units of 2^-149. -/
def mag149 (n : Nat) : Nat :=
  match fp32.decode n with
  | .fin _ m e => scaleTo m e (-149)
  | _ => 0

/-- The index and magnitude pairs ordered by descending magnitude, ties to the lower index. -/
def sortByMag : List (Nat × Nat) → List (Nat × Nat)
  | [] => []
  | x :: l => insertStable x (sortByMag l)
where
  /-- Insertion before the equal ones, which have higher indices. -/
  insertStable (x : Nat × Nat) : List (Nat × Nat) → List (Nat × Nat)
    | [] => [x]
    | y :: l => if x.2 < y.2 then y :: insertStable x l else x :: y :: l

/-- A quantising code, which INT8 and INT4 never take below -127 and -7 (R82). -/
def quantCode (code : Nat) (neg : Bool) (num den : Nat) (e : Int) : Nat :=
  if code = 10 ∧ neg then wrap 8 (-(min (roundAt .rn neg num den e 0) 127 : Nat))
  else if code = 11 ∧ neg then wrap 4 (-(min (roundAt .rn neg num den e 0) 7 : Nat))
  else fmtRound code .rn neg num den e

/-- R82 for a block of binary32 words; theta is a T8 word, or none for no outliers. -/
def quantise (code : Nat) (theta : Option Nat) (xs : List Nat) : Quantised :=
  let vals := xs.map fp32.decode
  let bad := vals.any (fun v => match v with
    | .fin _ _ _ => false
    | _ => true)
  let mags := xs.map mag149
  if bad then { scale := 0xFFF, codes := xs.map (fun _ => 0), side := [] }
  else if mags.all (· = 0) then { scale := 0x7F0, codes := xs.map (fun _ => 0), side := [] }
  else
    let t := mags.foldl (· + ·) 0
    let th := match theta with
      | some w => if w % 256 < 128 then taperMag 7 (w % 128) else 0
      | none => 0
    let indexed := (List.range xs.length).zip mags
    let out := sortByMag (indexed.filter (fun p => 0 < th && th * t < xs.length * p.2 * 4096))
    let kept := (out.take 4).map (·.1)
    let clamped := (out.drop 4).map (·.1)
    let m := (indexed.filter (fun p => !(out.map (·.1)).contains p.1)).foldl (fun a p => max a p.2) 0
    let scale := if m = 0 then 0x7F0 else smallestScale (fmtMax code) m
    let codeOf := fun (i : Nat) (n : Nat) =>
      let neg := bit n 31
      if kept.contains i then 0
      else if clamped.contains i then quantCode code neg (fmtMax code) 1 0
      else quantCode code neg (mag149 n) (16 + scale % 16) (-149 - ((scale / 16 % 256 : Nat) - 131))
    { scale := scale, codes := xs.mapIdx codeOf, side := kept.map (fun i => (i, bf16.round .rn (fp32.decode (xs.getD i 0)))) }

/-- A side entry word (R83). -/
def sideWord (p : Nat × Nat) : Nat := 2 ^ 31 + p.1 * 2 ^ 16 + p.2

/-- The values that the valid side entries of a block add to element i (R84). -/
def sideValues (words : List Nat) (i : Nat) : List Fp :=
  (words.filter (fun w => bit w 31 && decide (bits w 20 16 = i))).map (fun w => bf16.decode (w % 2 ^ 16))

/-- Element i of a dequantised block (R84, R155). -/
def dequantise (code scale : Nat) (words : List Nat) (i n : Nat) : Fp :=
  if scale % 4096 = 0xFFF then .nan
  else (sideValues words i).foldl (Fp.add .rn) (Fp.mul (fmtValue code n) (scaleValue scale))

end Sys2Proof.Machine
end

