-- ==== Sys2Proof/Machine/Gcm.lean ====
section
/-!
DEFINITION. AES-256 in Galois/Counter Mode (named by spec/22_trust.md R353). The manual names the cipher and does not define it:
the algorithm is that of the published Advanced Encryption Standard and of its Galois/Counter Mode. PRESUMED (log 104). Bytes are
numbers below 256, the first byte of a block first.
-/
namespace Sys2Proof.Machine

/-! ## The cipher -/

/-- A byte doubled in the field of the cipher. -/
def aesDouble (a : Nat) : Nat := if a < 128 then 2 * a else Nat.xor (2 * a % 256) 0x1B

/-- The product of two bytes, over the low n bits of the second. -/
def aesMul : Nat → Nat → Nat → Nat
  | 0, _, _ => 0
  | n + 1, a, b => Nat.xor (if b % 2 = 1 then a else 0) (aesMul n (aesDouble a) (b / 2))

/-- The inverse of a byte, which is its power 254; that of 0 is 0. -/
def aesInverse (a : Nat) : Nat :=
  let sq := fun x => aesMul 8 x x
  let p2 := sq a
  let p4 := sq p2
  let p8 := sq p4
  let p16 := sq p8
  let p32 := sq p16
  let p64 := sq p32
  [p4, p8, p16, p32, p64, sq p64].foldl (aesMul 8) p2

/-- A byte rotated left by n bits. -/
def rotateByte (a n : Nat) : Nat := a * 2 ^ n % 256 + a / 2 ^ (8 - n)

/-- The substitution box. -/
def aesBox (a : Nat) : Nat :=
  let x := aesInverse a
  [rotateByte x 1, rotateByte x 2, rotateByte x 3, rotateByte x 4, 0x63].foldl Nat.xor x

/-- Two lists of bytes added. -/
def xorBytes (a b : List Nat) : List Nat := List.zipWith Nat.xor a b

/-- The words of the key schedule, latest first, from those before. -/
def aesSchedule : Nat → Nat → Nat → List (List Nat) → List (List Nat)
  | 0, _, _, l => l
  | n + 1, i, rcon, l =>
    let last := l.headD []
    let t :=
      if i % 8 = 0 then xorBytes ((last.drop 1 ++ last.take 1).map aesBox) [rcon, 0, 0, 0]
      else if i % 8 = 4 then last.map aesBox else last
    aesSchedule n (i + 1) (if i % 8 = 0 then aesDouble rcon else rcon) (xorBytes (l.getD 7 []) t :: l)

/-- The words of a list of bytes, four at a time. -/
def wordsOf4 : Nat → List Nat → List (List Nat)
  | 0, _ => []
  | n + 1, l => l.take 4 :: wordsOf4 n (l.drop 4)

/-- The 60 words of the schedule of a key of 32 bytes. -/
def aesKey (key : List Nat) : List (List Nat) := (aesSchedule 52 8 1 (wordsOf4 8 key).reverse).reverse

/-- The bytes of round k's key. -/
def roundKey (w : List (List Nat)) (k : Nat) : List Nat := ((w.drop (4 * k)).take 4).flatten

/-- Rows shifted. -/
def aesShift (b : List Nat) : List Nat := (List.range 16).map (fun i => b.getD ((i + 4 * (i % 4)) % 16) 0)

/-- Columns mixed. -/
def aesMix (b : List Nat) : List Nat :=
  (List.range 16).map (fun i =>
    let at_ := fun k => b.getD (i / 4 * 4 + (i + k) % 4) 0
    [Nat.xor (aesDouble (at_ 1)) (at_ 1), at_ 2, at_ 3].foldl Nat.xor (aesDouble (at_ 0)))

/-- The rounds from round k on, n of them; the last one mixes no columns. -/
def aesRounds (w : List (List Nat)) : Nat → Nat → List Nat → List Nat
  | 0, _, b => b
  | n + 1, k, b =>
    let x := aesShift (b.map aesBox)
    aesRounds w n (k + 1) (xorBytes (if n = 0 then x else aesMix x) (roundKey w k))

/-- A block of 16 bytes enciphered. -/
def aesBlock (w : List (List Nat)) (b : List Nat) : List Nat := aesRounds w 14 1 (xorBytes b (roundKey w 0))

/-! ## The mode -/

/-- The number of a list of bytes, the first one highest, and the n bytes of a number. -/
def beNum (l : List Nat) : Nat := l.foldl (fun a b => 256 * a + b) 0
def beBytes (n v : Nat) : List Nat := ((toBytes n v).map (·.toNat)).reverse

/-- The product in the field of the tag, over the first n bits of the first factor. -/
def ghashMul (x : Nat) : Nat → Nat → Nat
  | 0, _ => 0
  | n + 1, v =>
    Nat.xor (if x / 2 ^ n % 2 = 1 then v else 0) (ghashMul x n (if v % 2 = 1 then Nat.xor (v / 2) (0xE1 * 2 ^ 120) else v / 2))

/-- A list of bytes in blocks of 16, the last one filled with zeros. -/
def blocks16 : Nat → List Nat → List Nat
  | 0, _ => []
  | n + 1, l => if l.isEmpty then [] else beNum ((l.take 16 ++ List.replicate 16 0).take 16) :: blocks16 n (l.drop 16)

/-- The hash of the additional data and of the enciphered text. -/
def ghash (h : Nat) (aad text : List Nat) : Nat :=
  (blocks16 (aad.length + 1) aad ++ blocks16 (text.length + 1) text ++ [8 * aad.length * 2 ^ 64 + 8 * text.length]).foldl
    (fun y b => ghashMul (Nat.xor y b) 128 h) 0

/-- Text enciphered from counter c of an IV of 12 bytes on. -/
def gcmText (w : List (List Nat)) (iv : List Nat) : Nat → Nat → List Nat → List Nat
  | 0, _, _ => []
  | n + 1, c, l =>
    if l.isEmpty then [] else xorBytes (l.take 16) (aesBlock w (iv ++ beBytes 4 c)) ++ gcmText w iv n (c + 1) (l.drop 16)

/-- Text sealed under a key, an IV and additional data: the enciphered text and the tag of 128 bits. -/
def gcmSeal (key iv aad text : List Nat) : List Nat × Nat :=
  let w := aesKey key
  let c := gcmText w iv (text.length + 1) 2 text
  (c, Nat.xor (ghash (beNum (aesBlock w (List.replicate 16 0))) aad c) (beNum (aesBlock w (iv ++ [0, 0, 0, 1]))))

end Sys2Proof.Machine
end

