-- ==== Sys2Proof/WellFormed.lean ====
section
/-!
DEFINITION. Which instructions have a word, and the values of their fields that a chapter calls ILLEGAL although the
field's type holds them (spec/03_encoding.md R54 to R62, R66).
-/
namespace Sys2Proof

/-- The rows that are steps of other agents and have no encoding (spec/95_what_each_step_holds.md). -/
def Instr.hasWord : Instr → Bool
  | .qwaitSatisfied _ => false
  | .engineUnit _ _ => false
  | .streamSymbol _ => false
  | .topenwTimeout _ => false
  | .wfeWake _ => false
  | .realignTimeout _ => false
  | .notifyEntry _ => false
  | .copyChunk _ _ => false
  | .commandCompletion _ => false
  | .armedCommandStart _ => false
  | .sealStart => false
  | .nodeEnd _ => false
  | .deferredDrain _ => false
  | .leaseGrant _ => false
  | .dispatchDecision _ => false
  | .reserving _ => false
  | .prioritySpill _ => false
  | .launch _ => false
  | .heartbeatExpiry _ => false
  | .fenceTestDone _ _ => false
  | .slotSpill _ => false
  | .resumption _ => false
  | .entryTimeout _ _ => false
  | .storeLinePerform _ _ => false
  | .accessResponse _ _ => false
  | .pageWalk _ _ _ _ => false
  | .vexeyAdmission _ _ => false
  | .vexeyWrite _ _ => false
  | .vexeyRead _ => false
  | .readData _ _ => false
  | .vexeyAtomic _ _ => false
  | .atomicData _ _ => false
  | .performed _ => false
  | .clockMessage _ => false
  | .linkFailure _ => false
  | .syncLost => false
  | .syncRegained => false
  | .hostWrite _ _ _ => false
  | .hostRead _ _ _ => false
  | .launchSubmission _ _ _ => false
  | .dmaRequest _ _ _ _ _ => false
  | .interruptLineRaise _ => false
  | .functionReset _ => false
  | .functionReady _ => false
  | .faultRecordPost _ => false
  | .tinv _ => false
  | .invalidationDone => false
  | .spillreq _ => false
  | .nodekill _ => false
  | .leasego _ => false
  | .leaseno _ => false
  | .fenceack _ => false
  | .relasid _ => false
  | .grantEntryWrite _ _ => false
  | .bankModeRequest _ _ _ => false
  | .furlRequest _ _ _ => false
  | .bankSwitchDone _ _ => false
  | .bankReef _ => false
  | .routineLoad _ _ => false
  | .routineUnload _ _ => false
  | .routineLoadDone _ => false
  | .protectionEntryWrite _ _ _ => false
  | .registerWrite _ _ => false
  | .limiterMeasure _ _ => false
  | .attest _ _ => false
  | .park _ => false
  | .resume _ => false
  | .stepSlot _ => false
  | .readMem _ _ => false
  | .writeMem _ _ => false
  | .traceCfg _ => false
  | .counters => false
  | .bootlog => false
  | .traceSample => false
  | .counterSnapshot => false
  | .resetModule _ => false
  | .illegalWord _ => false
  | .windowStart => false
  | .backInvalidateResponse _ => false
  | _ => true

/-- The checks that the types of the fields leave: R54 (SEXT, ZEXT), R55 (SHI), R57 (LEN), R60 (counts, emission), R62
(HREALIGN), R154, R155, R191, R195 (register pairs), R211 (TINFO items). -/
def Instr.wf : Instr → Bool
  | .sext _ _ e w => !(e == .w && w == .w32)
  | .zext _ _ e w => !(e == .w && w == .w32)
  | .shi _ _ _ w n => w == .w64 || n.val < 32
  | .loop _ len => len.val != 0
  | .loopk _ len => len.val != 0
  | .qwait _ n => n.val != 0
  | .qrsv _ n => n.val != 0
  | .qpush _ n => n.val != 0
  | .qpop _ n => n.val != 0
  | .vqnt _ a _ => a.val % 2 == 0
  | .vdqnt d _ _ => d.val % 2 == 0
  | .astep e o _ n _ => n.val != 0 && (e || o.val == 0)
  | .astepx d _ n _ => n.val != 0 && d.val % 2 == 0
  | .acomp d a b => d.val % 2 == 0 && a.val % 2 == 0 && b.val % 2 == 0
  | .asel _ a _ => a.val % 2 == 0
  | .tinfo _ _ i => i.val < 12
  | .hrealign n => n.val != 0
  | _ => true

end Sys2Proof
end

