-- ==== Sys2Proof/Decode.lean ====
section
/-!
DEFINITION. From a word to an instruction, total and rejecting by name, and back (spec/03_encoding.md R49 to R66). Each arm
follows the fields that R50, R69 and the group rules R54 to R62 give the instruction; a field or modifier bit that must be
zero is checked before the fields are read (R52).
-/
namespace Sys2Proof

/-- Why a word encodes no instruction (R66). -/
inductive DecodeError where
  /-- Major 0x00, 0x0A, 0x0B or 0x2A to 0x3E. -/
  | reservedMajor
  /-- A function, operation, condition or sub-operation value not assigned in the group. -/
  | unassigned
  /-- A nonzero field or modifier bit that must be zero. -/
  | reservedField
  /-- A value marked ILLEGAL in R54 to R61. -/
  | illegalValue
  /-- A hint of type 1 to 7 with a payload outside R62. -/
  | hintPayload
  deriving DecidableEq, Repr

/-- What decoding a word answers. -/
abbrev Decoded := Except DecodeError Instr

/-- W (R54). -/
def Width.toBits : Width → Nat
  | .w32 => 0
  | .w64 => 1

/-- W (R54). -/
def Width.ofBits : Nat → Width
  | 0 => .w32
  | _ => .w64

/-- m5[2:1] of SEXT and ZEXT (R54). -/
def ExtFrom.toBits : ExtFrom → Nat
  | .b => 0
  | .h => 1
  | .w => 2

/-- m5[2:1] of SEXT and ZEXT (R54). -/
def ExtFrom.ofBits? : Nat → Option ExtFrom
  | 0 => some .b
  | 1 => some .h
  | 2 => some .w
  | _ => none

/-- imm16[15:14] of SHI (R55). -/
def ShiftKind.toBits : ShiftKind → Nat
  | .shl => 0
  | .shrl => 1
  | .shra => 2

/-- imm16[15:14] of SHI (R55). -/
def ShiftKind.ofBits? : Nat → Option ShiftKind
  | 0 => some .shl
  | 1 => some .shrl
  | 2 => some .shra
  | _ => none

/-- size3 of LD (R58). -/
def LdSize.toBits : LdSize → Nat
  | .bsx => 0
  | .hsx => 1
  | .wsx => 2
  | .d => 3
  | .bzx => 4
  | .hzx => 5
  | .wzx => 6

/-- size3 of LD (R58). -/
def LdSize.ofBits? : Nat → Option LdSize
  | 0 => some .bsx
  | 1 => some .hsx
  | 2 => some .wsx
  | 3 => some .d
  | 4 => some .bzx
  | 5 => some .hzx
  | 6 => some .wzx
  | _ => none

/-- size3 of ST (R58). -/
def StSize.toBits : StSize → Nat
  | .b => 0
  | .h => 1
  | .w => 2
  | .d => 3

/-- size3 of ST (R58). -/
def StSize.ofBits? : Nat → Option StSize
  | 0 => some .b
  | 1 => some .h
  | 2 => some .w
  | 3 => some .d
  | _ => none

/-- ord2 (R58). -/
def Ord.toBits : Ord → Nat
  | .plain => 0
  | .acq => 1
  | .rel => 2
  | .ar => 3

/-- ord2 (R58). -/
def Ord.ofBits : Nat → Ord
  | 0 => .plain
  | 1 => .acq
  | 2 => .rel
  | _ => .ar

/-- A scope (R59, R62). -/
def Scope.toBits : Scope → Nat
  | .sl => 0
  | .co => 1
  | .cl => 2
  | .di => 3
  | .dv => 4
  | .sy => 5

/-- A scope (R59, R62). -/
def Scope.ofBits? : Nat → Option Scope
  | 0 => some .sl
  | 1 => some .co
  | 2 => some .cl
  | 3 => some .di
  | 4 => some .dv
  | 5 => some .sy
  | _ => none

/-- fn6[2:1] of GATH and SCAT (R130). -/
def GSize.toBits : GSize → Nat
  | .w => 0
  | .h => 1
  | .b => 2

/-- fn6[2:1] of GATH and SCAT (R130). -/
def GSize.ofBits? : Nat → Option GSize
  | 0 => some .w
  | 1 => some .h
  | 2 => some .b
  | _ => none

/-- fn6 of AMO (R131). -/
def AmoOp.toBits : AmoOp → Nat
  | .add => 0
  | .and => 1
  | .or => 2
  | .xor => 3
  | .mins => 4
  | .maxs => 5
  | .minz => 6
  | .maxz => 7
  | .swp => 8

/-- fn6 of AMO (R131). -/
def AmoOp.ofBits? : Nat → Option AmoOp
  | 0 => some .add
  | 1 => some .and
  | 2 => some .or
  | 3 => some .xor
  | 4 => some .mins
  | 5 => some .maxs
  | 6 => some .minz
  | 7 => some .maxz
  | 8 => some .swp
  | _ => none

/-- fn6[0] of FADD (R131). -/
def FaddFmt.toBits : FaddFmt → Nat
  | .f32 => 0
  | .bf16 => 1

/-- fn6[0] of FADD (R131). -/
def FaddFmt.ofBits : Nat → FaddFmt
  | 0 => .f32
  | _ => .bf16

/-- m5[1:0], rounding (R59). -/
def Round.toBits : Round → Nat
  | .rn => 0
  | .rz => 1
  | .ru => 2
  | .rd => 3

/-- m5[1:0], rounding (R59). -/
def Round.ofBits : Nat → Round
  | 0 => .rn
  | 1 => .rz
  | 2 => .ru
  | _ => .rd

/-- fn6 of VCMP (R145). -/
def VCmp.toBits : VCmp → Nat
  | .feq => 0
  | .fne => 1
  | .flt => 2
  | .fle => 3
  | .ieq => 4
  | .ine => 5
  | .ilts => 6
  | .iltz => 7

/-- fn6 of VCMP (R145). -/
def VCmp.ofBits : Nat → VCmp
  | 0 => .feq
  | 1 => .fne
  | 2 => .flt
  | 3 => .fle
  | 4 => .ieq
  | 5 => .ine
  | 6 => .ilts
  | _ => .iltz

/-- m5[1:0], element (R59, R146). -/
def Elem.toBits : Elem → Nat
  | .i32 => 0
  | .i16 => 1
  | .i8 => 2

/-- m5[1:0], element (R59, R146). -/
def Elem.ofBits? : Nat → Option Elem
  | 0 => some .i32
  | 1 => some .i16
  | 2 => some .i8
  | _ => none

/-- m5[1:0] of VSCAN (R59). -/
def ScanKind.toBits : ScanKind → Nat
  | .fadd => 0
  | .iadd => 1
  | .fmax => 2
  | .imax => 3

/-- m5[1:0] of VSCAN (R59). -/
def ScanKind.ofBits : Nat → ScanKind
  | 0 => .fadd
  | 1 => .iadd
  | 2 => .fmax
  | _ => .imax

/-- m5[2] of VREDMAX and VREDMIN (R59). -/
def Dom.toBits : Dom → Nat
  | .f => 0
  | .i => 1

/-- m5[2] of VREDMAX and VREDMIN (R59). -/
def Dom.ofBits : Nat → Dom
  | 0 => .f
  | _ => .i
/-- amode2 (R58). -/
def Addr.modeBits : Addr → Nat
  | .plain _ => 0
  | .postImm _ => 1
  | .postReg _ => 2
  | .index _ => 3

/-- off11 (R58). -/
def Addr.offBits : Addr → Nat
  | .plain off => off.val
  | .postImm off => off.val
  | .postReg s => s.val
  | .index s => s.val

/-- The address mode that amode2 and off11 give; in modes 0b10 and 0b11 off11[10:5] must be zero (R58). -/
def Addr.ofBits? (m off : Nat) : Option Addr :=
  match m with
  | 0 => some (.plain (Fin.ofNat 2048 off))
  | 1 => some (.postImm (Fin.ofNat 2048 off))
  | 2 => if off / 32 = 0 then some (.postReg (Fin.ofNat 32 off)) else none
  | _ => if off / 32 = 0 then some (.index (Fin.ofNat 32 off)) else none

/-- Major 0x01 (R53, R69). -/
def decodeAlu (n : Nat) : Decoded :=
  match bits n 10 5 with
  | 0 => if bits n 4 1 = 0 then .ok (.add (Fin.ofNat 32 (bits n 25 21)) (Fin.ofNat 32 (bits n 20 16)) (Fin.ofNat 32 (bits n 15 11)) (Width.ofBits (bits n 0 0))) else .error .reservedField
  | 1 => if bits n 4 1 = 0 then .ok (.sub (Fin.ofNat 32 (bits n 25 21)) (Fin.ofNat 32 (bits n 20 16)) (Fin.ofNat 32 (bits n 15 11)) (Width.ofBits (bits n 0 0))) else .error .reservedField
  | 2 => if bits n 4 1 = 0 then .ok (.mul (Fin.ofNat 32 (bits n 25 21)) (Fin.ofNat 32 (bits n 20 16)) (Fin.ofNat 32 (bits n 15 11)) (Width.ofBits (bits n 0 0))) else .error .reservedField
  | 3 => if bits n 4 1 = 0 then .ok (.mulhs (Fin.ofNat 32 (bits n 25 21)) (Fin.ofNat 32 (bits n 20 16)) (Fin.ofNat 32 (bits n 15 11)) (Width.ofBits (bits n 0 0))) else .error .reservedField
  | 4 => if bits n 4 1 = 0 then .ok (.mulhz (Fin.ofNat 32 (bits n 25 21)) (Fin.ofNat 32 (bits n 20 16)) (Fin.ofNat 32 (bits n 15 11)) (Width.ofBits (bits n 0 0))) else .error .reservedField
  | 5 => if bits n 4 1 = 0 then .ok (.divs (Fin.ofNat 32 (bits n 25 21)) (Fin.ofNat 32 (bits n 20 16)) (Fin.ofNat 32 (bits n 15 11)) (Width.ofBits (bits n 0 0))) else .error .reservedField
  | 6 => if bits n 4 1 = 0 then .ok (.divz (Fin.ofNat 32 (bits n 25 21)) (Fin.ofNat 32 (bits n 20 16)) (Fin.ofNat 32 (bits n 15 11)) (Width.ofBits (bits n 0 0))) else .error .reservedField
  | 7 => if bits n 4 1 = 0 then .ok (.rems (Fin.ofNat 32 (bits n 25 21)) (Fin.ofNat 32 (bits n 20 16)) (Fin.ofNat 32 (bits n 15 11)) (Width.ofBits (bits n 0 0))) else .error .reservedField
  | 8 => if bits n 4 1 = 0 then .ok (.remz (Fin.ofNat 32 (bits n 25 21)) (Fin.ofNat 32 (bits n 20 16)) (Fin.ofNat 32 (bits n 15 11)) (Width.ofBits (bits n 0 0))) else .error .reservedField
  | 9 => if bits n 4 1 = 0 then .ok (.and (Fin.ofNat 32 (bits n 25 21)) (Fin.ofNat 32 (bits n 20 16)) (Fin.ofNat 32 (bits n 15 11)) (Width.ofBits (bits n 0 0))) else .error .reservedField
  | 10 => if bits n 4 1 = 0 then .ok (.or (Fin.ofNat 32 (bits n 25 21)) (Fin.ofNat 32 (bits n 20 16)) (Fin.ofNat 32 (bits n 15 11)) (Width.ofBits (bits n 0 0))) else .error .reservedField
  | 11 => if bits n 4 1 = 0 then .ok (.xor (Fin.ofNat 32 (bits n 25 21)) (Fin.ofNat 32 (bits n 20 16)) (Fin.ofNat 32 (bits n 15 11)) (Width.ofBits (bits n 0 0))) else .error .reservedField
  | 12 => if bits n 4 1 = 0 then .ok (.andn (Fin.ofNat 32 (bits n 25 21)) (Fin.ofNat 32 (bits n 20 16)) (Fin.ofNat 32 (bits n 15 11)) (Width.ofBits (bits n 0 0))) else .error .reservedField
  | 13 => if bits n 4 1 = 0 then .ok (.shl (Fin.ofNat 32 (bits n 25 21)) (Fin.ofNat 32 (bits n 20 16)) (Fin.ofNat 32 (bits n 15 11)) (Width.ofBits (bits n 0 0))) else .error .reservedField
  | 14 => if bits n 4 1 = 0 then .ok (.shrl (Fin.ofNat 32 (bits n 25 21)) (Fin.ofNat 32 (bits n 20 16)) (Fin.ofNat 32 (bits n 15 11)) (Width.ofBits (bits n 0 0))) else .error .reservedField
  | 15 => if bits n 4 1 = 0 then .ok (.shra (Fin.ofNat 32 (bits n 25 21)) (Fin.ofNat 32 (bits n 20 16)) (Fin.ofNat 32 (bits n 15 11)) (Width.ofBits (bits n 0 0))) else .error .reservedField
  | 16 => if bits n 4 1 = 0 then .ok (.rol (Fin.ofNat 32 (bits n 25 21)) (Fin.ofNat 32 (bits n 20 16)) (Fin.ofNat 32 (bits n 15 11)) (Width.ofBits (bits n 0 0))) else .error .reservedField
  | 17 => if bits n 4 1 = 0 then .ok (.mins (Fin.ofNat 32 (bits n 25 21)) (Fin.ofNat 32 (bits n 20 16)) (Fin.ofNat 32 (bits n 15 11)) (Width.ofBits (bits n 0 0))) else .error .reservedField
  | 18 => if bits n 4 1 = 0 then .ok (.maxs (Fin.ofNat 32 (bits n 25 21)) (Fin.ofNat 32 (bits n 20 16)) (Fin.ofNat 32 (bits n 15 11)) (Width.ofBits (bits n 0 0))) else .error .reservedField
  | 19 => if bits n 4 1 = 0 then .ok (.minz (Fin.ofNat 32 (bits n 25 21)) (Fin.ofNat 32 (bits n 20 16)) (Fin.ofNat 32 (bits n 15 11)) (Width.ofBits (bits n 0 0))) else .error .reservedField
  | 20 => if bits n 4 1 = 0 then .ok (.maxz (Fin.ofNat 32 (bits n 25 21)) (Fin.ofNat 32 (bits n 20 16)) (Fin.ofNat 32 (bits n 15 11)) (Width.ofBits (bits n 0 0))) else .error .reservedField
  | 21 => if bits n 4 1 = 0 then .ok (.seq (Fin.ofNat 32 (bits n 25 21)) (Fin.ofNat 32 (bits n 20 16)) (Fin.ofNat 32 (bits n 15 11)) (Width.ofBits (bits n 0 0))) else .error .reservedField
  | 22 => if bits n 4 1 = 0 then .ok (.sne (Fin.ofNat 32 (bits n 25 21)) (Fin.ofNat 32 (bits n 20 16)) (Fin.ofNat 32 (bits n 15 11)) (Width.ofBits (bits n 0 0))) else .error .reservedField
  | 23 => if bits n 4 1 = 0 then .ok (.slts (Fin.ofNat 32 (bits n 25 21)) (Fin.ofNat 32 (bits n 20 16)) (Fin.ofNat 32 (bits n 15 11)) (Width.ofBits (bits n 0 0))) else .error .reservedField
  | 24 => if bits n 4 1 = 0 then .ok (.sltz (Fin.ofNat 32 (bits n 25 21)) (Fin.ofNat 32 (bits n 20 16)) (Fin.ofNat 32 (bits n 15 11)) (Width.ofBits (bits n 0 0))) else .error .reservedField
  | 25 => if bits n 15 11 = 0 then if bits n 4 1 = 0 then .ok (.clz (Fin.ofNat 32 (bits n 25 21)) (Fin.ofNat 32 (bits n 20 16)) (Width.ofBits (bits n 0 0))) else .error .reservedField else .error .reservedField
  | 26 => if bits n 15 11 = 0 then if bits n 4 1 = 0 then .ok (.ctz (Fin.ofNat 32 (bits n 25 21)) (Fin.ofNat 32 (bits n 20 16)) (Width.ofBits (bits n 0 0))) else .error .reservedField else .error .reservedField
  | 27 => if bits n 15 11 = 0 then if bits n 4 1 = 0 then .ok (.popc (Fin.ofNat 32 (bits n 25 21)) (Fin.ofNat 32 (bits n 20 16)) (Width.ofBits (bits n 0 0))) else .error .reservedField else .error .reservedField
  | 28 => if bits n 15 11 = 0 then if bits n 4 3 = 0 then (match ExtFrom.ofBits? (bits n 2 1) with | some e => .ok (.sext (Fin.ofNat 32 (bits n 25 21)) (Fin.ofNat 32 (bits n 20 16)) e (Width.ofBits (bits n 0 0))) | none => .error .illegalValue) else .error .reservedField else .error .reservedField
  | 29 => if bits n 15 11 = 0 then if bits n 4 3 = 0 then (match ExtFrom.ofBits? (bits n 2 1) with | some e => .ok (.zext (Fin.ofNat 32 (bits n 25 21)) (Fin.ofNat 32 (bits n 20 16)) e (Width.ofBits (bits n 0 0))) | none => .error .illegalValue) else .error .reservedField else .error .reservedField
  | 30 => if bits n 15 11 = 0 then if bits n 4 1 = 0 then .ok (.bswp (Fin.ofNat 32 (bits n 25 21)) (Fin.ofNat 32 (bits n 20 16)) (Width.ofBits (bits n 0 0))) else .error .reservedField else .error .reservedField
  | _ => .error .unassigned

/-- Major 0x02 (R53, R69). -/
def decodeAluK (n : Nat) : Decoded :=
  match bits n 5 0 with
  | 0 => if bits n 7 7 = 0 then .ok (.addK (Fin.ofNat 32 (bits n 25 21)) (Fin.ofNat 32 (bits n 20 16)) (Fin.ofNat 256 (bits n 15 8)) (Width.ofBits (bits n 6 6))) else .error .reservedField
  | 1 => if bits n 7 7 = 0 then .ok (.subK (Fin.ofNat 32 (bits n 25 21)) (Fin.ofNat 32 (bits n 20 16)) (Fin.ofNat 256 (bits n 15 8)) (Width.ofBits (bits n 6 6))) else .error .reservedField
  | 2 => if bits n 7 7 = 0 then .ok (.mulK (Fin.ofNat 32 (bits n 25 21)) (Fin.ofNat 32 (bits n 20 16)) (Fin.ofNat 256 (bits n 15 8)) (Width.ofBits (bits n 6 6))) else .error .reservedField
  | 3 => if bits n 7 7 = 0 then .ok (.mulhsK (Fin.ofNat 32 (bits n 25 21)) (Fin.ofNat 32 (bits n 20 16)) (Fin.ofNat 256 (bits n 15 8)) (Width.ofBits (bits n 6 6))) else .error .reservedField
  | 4 => if bits n 7 7 = 0 then .ok (.mulhzK (Fin.ofNat 32 (bits n 25 21)) (Fin.ofNat 32 (bits n 20 16)) (Fin.ofNat 256 (bits n 15 8)) (Width.ofBits (bits n 6 6))) else .error .reservedField
  | 5 => if bits n 7 7 = 0 then .ok (.divsK (Fin.ofNat 32 (bits n 25 21)) (Fin.ofNat 32 (bits n 20 16)) (Fin.ofNat 256 (bits n 15 8)) (Width.ofBits (bits n 6 6))) else .error .reservedField
  | 6 => if bits n 7 7 = 0 then .ok (.divzK (Fin.ofNat 32 (bits n 25 21)) (Fin.ofNat 32 (bits n 20 16)) (Fin.ofNat 256 (bits n 15 8)) (Width.ofBits (bits n 6 6))) else .error .reservedField
  | 7 => if bits n 7 7 = 0 then .ok (.remsK (Fin.ofNat 32 (bits n 25 21)) (Fin.ofNat 32 (bits n 20 16)) (Fin.ofNat 256 (bits n 15 8)) (Width.ofBits (bits n 6 6))) else .error .reservedField
  | 8 => if bits n 7 7 = 0 then .ok (.remzK (Fin.ofNat 32 (bits n 25 21)) (Fin.ofNat 32 (bits n 20 16)) (Fin.ofNat 256 (bits n 15 8)) (Width.ofBits (bits n 6 6))) else .error .reservedField
  | 9 => if bits n 7 7 = 0 then .ok (.andK (Fin.ofNat 32 (bits n 25 21)) (Fin.ofNat 32 (bits n 20 16)) (Fin.ofNat 256 (bits n 15 8)) (Width.ofBits (bits n 6 6))) else .error .reservedField
  | 10 => if bits n 7 7 = 0 then .ok (.orK (Fin.ofNat 32 (bits n 25 21)) (Fin.ofNat 32 (bits n 20 16)) (Fin.ofNat 256 (bits n 15 8)) (Width.ofBits (bits n 6 6))) else .error .reservedField
  | 11 => if bits n 7 7 = 0 then .ok (.xorK (Fin.ofNat 32 (bits n 25 21)) (Fin.ofNat 32 (bits n 20 16)) (Fin.ofNat 256 (bits n 15 8)) (Width.ofBits (bits n 6 6))) else .error .reservedField
  | 12 => if bits n 7 7 = 0 then .ok (.andnK (Fin.ofNat 32 (bits n 25 21)) (Fin.ofNat 32 (bits n 20 16)) (Fin.ofNat 256 (bits n 15 8)) (Width.ofBits (bits n 6 6))) else .error .reservedField
  | 13 => if bits n 7 7 = 0 then .ok (.shlK (Fin.ofNat 32 (bits n 25 21)) (Fin.ofNat 32 (bits n 20 16)) (Fin.ofNat 256 (bits n 15 8)) (Width.ofBits (bits n 6 6))) else .error .reservedField
  | 14 => if bits n 7 7 = 0 then .ok (.shrlK (Fin.ofNat 32 (bits n 25 21)) (Fin.ofNat 32 (bits n 20 16)) (Fin.ofNat 256 (bits n 15 8)) (Width.ofBits (bits n 6 6))) else .error .reservedField
  | 15 => if bits n 7 7 = 0 then .ok (.shraK (Fin.ofNat 32 (bits n 25 21)) (Fin.ofNat 32 (bits n 20 16)) (Fin.ofNat 256 (bits n 15 8)) (Width.ofBits (bits n 6 6))) else .error .reservedField
  | 16 => if bits n 7 7 = 0 then .ok (.rolK (Fin.ofNat 32 (bits n 25 21)) (Fin.ofNat 32 (bits n 20 16)) (Fin.ofNat 256 (bits n 15 8)) (Width.ofBits (bits n 6 6))) else .error .reservedField
  | 17 => if bits n 7 7 = 0 then .ok (.minsK (Fin.ofNat 32 (bits n 25 21)) (Fin.ofNat 32 (bits n 20 16)) (Fin.ofNat 256 (bits n 15 8)) (Width.ofBits (bits n 6 6))) else .error .reservedField
  | 18 => if bits n 7 7 = 0 then .ok (.maxsK (Fin.ofNat 32 (bits n 25 21)) (Fin.ofNat 32 (bits n 20 16)) (Fin.ofNat 256 (bits n 15 8)) (Width.ofBits (bits n 6 6))) else .error .reservedField
  | 19 => if bits n 7 7 = 0 then .ok (.minzK (Fin.ofNat 32 (bits n 25 21)) (Fin.ofNat 32 (bits n 20 16)) (Fin.ofNat 256 (bits n 15 8)) (Width.ofBits (bits n 6 6))) else .error .reservedField
  | 20 => if bits n 7 7 = 0 then .ok (.maxzK (Fin.ofNat 32 (bits n 25 21)) (Fin.ofNat 32 (bits n 20 16)) (Fin.ofNat 256 (bits n 15 8)) (Width.ofBits (bits n 6 6))) else .error .reservedField
  | 21 => if bits n 7 7 = 0 then .ok (.seqK (Fin.ofNat 32 (bits n 25 21)) (Fin.ofNat 32 (bits n 20 16)) (Fin.ofNat 256 (bits n 15 8)) (Width.ofBits (bits n 6 6))) else .error .reservedField
  | 22 => if bits n 7 7 = 0 then .ok (.sneK (Fin.ofNat 32 (bits n 25 21)) (Fin.ofNat 32 (bits n 20 16)) (Fin.ofNat 256 (bits n 15 8)) (Width.ofBits (bits n 6 6))) else .error .reservedField
  | 23 => if bits n 7 7 = 0 then .ok (.sltsK (Fin.ofNat 32 (bits n 25 21)) (Fin.ofNat 32 (bits n 20 16)) (Fin.ofNat 256 (bits n 15 8)) (Width.ofBits (bits n 6 6))) else .error .reservedField
  | 24 => if bits n 7 7 = 0 then .ok (.sltzK (Fin.ofNat 32 (bits n 25 21)) (Fin.ofNat 32 (bits n 20 16)) (Fin.ofNat 256 (bits n 15 8)) (Width.ofBits (bits n 6 6))) else .error .reservedField
  | _ => .error .unassigned

/-- Major 0x0C (R53, R69). -/
def decodeBcc (n : Nat) : Decoded :=
  match bits n 15 13 with
  | 0 => .ok (.beq (Fin.ofNat 32 (bits n 25 21)) (Fin.ofNat 32 (bits n 20 16)) (Fin.ofNat 8192 (bits n 12 0)))
  | 1 => .ok (.bne (Fin.ofNat 32 (bits n 25 21)) (Fin.ofNat 32 (bits n 20 16)) (Fin.ofNat 8192 (bits n 12 0)))
  | 2 => .ok (.blts (Fin.ofNat 32 (bits n 25 21)) (Fin.ofNat 32 (bits n 20 16)) (Fin.ofNat 8192 (bits n 12 0)))
  | 3 => .ok (.bges (Fin.ofNat 32 (bits n 25 21)) (Fin.ofNat 32 (bits n 20 16)) (Fin.ofNat 8192 (bits n 12 0)))
  | 4 => .ok (.bltz (Fin.ofNat 32 (bits n 25 21)) (Fin.ofNat 32 (bits n 20 16)) (Fin.ofNat 8192 (bits n 12 0)))
  | 5 => .ok (.bgez (Fin.ofNat 32 (bits n 25 21)) (Fin.ofNat 32 (bits n 20 16)) (Fin.ofNat 8192 (bits n 12 0)))
  | _ => .error .unassigned

/-- Major 0x0F (R53, R69). -/
def decodeJump (n : Nat) : Decoded :=
  match bits n 10 5 with
  | 0 => if bits n 25 21 = 0 then if bits n 15 11 = 0 then if bits n 4 0 = 0 then .ok (.jr (Fin.ofNat 32 (bits n 20 16))) else .error .reservedField else .error .reservedField else .error .reservedField
  | 1 => if bits n 25 21 = 0 then if bits n 15 11 = 0 then if bits n 4 0 = 0 then .ok (.callr (Fin.ofNat 32 (bits n 20 16))) else .error .reservedField else .error .reservedField else .error .reservedField
  | 2 => if bits n 25 11 = 0 then if bits n 4 0 = 0 then .ok (.ret) else .error .reservedField else .error .reservedField
  | _ => .error .unassigned

/-- Major 0x10 (R53, R69). -/
def decodeLoop (n : Nat) : Decoded :=
  match bits n 15 13 with
  | 0 => if bits n 20 16 = 0 then .ok (.loop (Fin.ofNat 32 (bits n 25 21)) (Fin.ofNat 8192 (bits n 12 0))) else .error .reservedField
  | 1 => if bits n 17 16 = 0 then .ok (.loopk (Fin.ofNat 256 (bits n 25 18)) (Fin.ofNat 8192 (bits n 12 0))) else .error .reservedField
  | 2 => if bits n 25 16 = 0 then if bits n 12 0 = 0 then .ok (.lexit) else .error .reservedField else .error .reservedField
  | 3 => if bits n 25 16 = 0 then if bits n 12 0 = 0 then .ok (.lsave) else .error .reservedField else .error .reservedField
  | 4 => if bits n 25 16 = 0 then if bits n 12 0 = 0 then .ok (.lrst) else .error .reservedField else .error .reservedField
  | _ => .error .unassigned

/-- Major 0x11 (R53, R69). -/
def decodePointer (n : Nat) : Decoded :=
  match bits n 10 5 with
  | 0 => if bits n 25 24 = 0 then if bits n 15 11 = 0 then if bits n 4 0 = 0 then .ok (.pset (Fin.ofNat 8 (bits n 23 21)) (Fin.ofNat 32 (bits n 20 16))) else .error .reservedField else .error .reservedField else .error .reservedField
  | 1 => if bits n 20 19 = 0 then if bits n 15 11 = 0 then if bits n 4 0 = 0 then .ok (.pget (Fin.ofNat 32 (bits n 25 21)) (Fin.ofNat 8 (bits n 18 16))) else .error .reservedField else .error .reservedField else .error .reservedField
  | 2 => if bits n 25 24 = 0 then if bits n 20 19 = 0 then if bits n 4 0 = 0 then .ok (.padd (Fin.ofNat 8 (bits n 23 21)) (Fin.ofNat 8 (bits n 18 16)) (Fin.ofNat 32 (bits n 15 11))) else .error .reservedField else .error .reservedField else .error .reservedField
  | 3 => if bits n 25 24 = 0 then if bits n 20 19 = 0 then if bits n 4 0 = 0 then .ok (.pwalk (Fin.ofNat 8 (bits n 23 21)) (Fin.ofNat 8 (bits n 18 16)) (Fin.ofNat 32 (bits n 15 11))) else .error .reservedField else .error .reservedField else .error .reservedField
  | 4 => if bits n 25 24 = 0 then if bits n 4 0 = 0 then .ok (.pcoord (Fin.ofNat 8 (bits n 23 21)) (Fin.ofNat 32 (bits n 20 16)) (Fin.ofNat 32 (bits n 15 11))) else .error .reservedField else .error .reservedField
  | _ => .error .unassigned

/-- Major 0x16 (R53, R69). -/
def decodeGather (n : Nat) : Decoded :=
  match bits n 10 5 with
  | 0 | 2 | 4 => if bits n 20 19 = 0 then if bits n 4 4 = 0 then (match GSize.ofBits? (bits n 7 6) with | some z => .ok (.gath (Fin.ofNat 32 (bits n 25 21)) (Fin.ofNat 8 (bits n 18 16)) (Fin.ofNat 32 (bits n 15 11)) z (Fin.ofNat 4 (bits n 3 2)) (Ord.ofBits (bits n 1 0))) | none => .error .illegalValue) else .error .reservedField else .error .reservedField
  | 1 | 3 | 5 => if bits n 20 19 = 0 then if bits n 4 4 = 0 then (match GSize.ofBits? (bits n 7 6) with | some z => .ok (.scat (Fin.ofNat 32 (bits n 25 21)) (Fin.ofNat 8 (bits n 18 16)) (Fin.ofNat 32 (bits n 15 11)) z (Fin.ofNat 4 (bits n 3 2)) (Ord.ofBits (bits n 1 0))) | none => .error .illegalValue) else .error .reservedField else .error .reservedField
  | _ => .error .unassigned

/-- Major 0x17 (R53, R69). -/
def decodeAtomic (n : Nat) : Decoded :=
  match bits n 10 5 with
  | 0 | 1 | 2 | 3 | 4 | 5 | 6 | 7 | 8 => if bits n 20 19 = 0 then if bits n 4 3 = 0 then (match AmoOp.ofBits? (bits n 8 5) with | some f => .ok (.amo (Fin.ofNat 32 (bits n 25 21)) (Fin.ofNat 8 (bits n 18 16)) (Fin.ofNat 32 (bits n 15 11)) f (Width.ofBits (bits n 2 2)) (Ord.ofBits (bits n 1 0))) | none => .error .illegalValue) else .error .reservedField else .error .reservedField
  | 9 => if bits n 20 19 = 0 then if bits n 4 3 = 0 then .ok (.cas (Fin.ofNat 32 (bits n 25 21)) (Fin.ofNat 8 (bits n 18 16)) (Fin.ofNat 32 (bits n 15 11)) (Width.ofBits (bits n 2 2)) (Ord.ofBits (bits n 1 0))) else .error .reservedField else .error .reservedField
  | 10 | 11 => if bits n 20 19 = 0 then if bits n 4 2 = 0 then .ok (.fadd (Fin.ofNat 32 (bits n 25 21)) (Fin.ofNat 8 (bits n 18 16)) (Fin.ofNat 32 (bits n 15 11)) (FaddFmt.ofBits (bits n 5 5)) (Ord.ofBits (bits n 1 0))) else .error .reservedField else .error .reservedField
  | _ => .error .unassigned

/-- Major 0x18 (R53, R69). -/
def decodeFence (n : Nat) : Decoded :=
  match bits n 10 5 with
  | 0 => if bits n 25 11 = 0 then if bits n 4 3 = 0 then (match Scope.ofBits? (bits n 2 0) with | some s => .ok (.fenceFull s) | none => .error .illegalValue) else .error .reservedField else .error .reservedField
  | 1 => if bits n 25 11 = 0 then if bits n 4 3 = 0 then (match Scope.ofBits? (bits n 2 0) with | some s => .ok (.fenceAcq s) | none => .error .illegalValue) else .error .reservedField else .error .reservedField
  | 2 => if bits n 25 11 = 0 then if bits n 4 3 = 0 then (match Scope.ofBits? (bits n 2 0) with | some s => .ok (.fenceRel s) | none => .error .illegalValue) else .error .reservedField else .error .reservedField
  | 3 => if bits n 25 11 = 0 then if bits n 4 0 = 4 then .ok (.fencePath) else .error .reservedField else .error .reservedField
  | 4 => if bits n 25 11 = 0 then if bits n 4 0 = 5 then .ok (.fenceWin) else .error .reservedField else .error .reservedField
  | _ => .error .unassigned

/-- Major 0x19 (R53, R69). -/
def decodeQueue (n : Nat) : Decoded :=
  match bits n 3 0 with
  | 0 => if bits n 25 24 = 0 then if bits n 16 4 = 0 then .ok (.qbind (Fin.ofNat 8 (bits n 23 21)) (Fin.ofNat 16 (bits n 20 17))) else .error .reservedField else .error .reservedField
  | 1 => if bits n 25 21 = 0 then if bits n 8 4 = 0 then .ok (.qwait (Fin.ofNat 16 (bits n 20 17)) (Fin.ofNat 256 (bits n 16 9))) else .error .reservedField else .error .reservedField
  | 2 => if bits n 25 21 = 0 then if bits n 8 4 = 0 then .ok (.qrsv (Fin.ofNat 16 (bits n 20 17)) (Fin.ofNat 256 (bits n 16 9))) else .error .reservedField else .error .reservedField
  | 3 => if bits n 25 21 = 0 then if bits n 8 4 = 0 then .ok (.qpush (Fin.ofNat 16 (bits n 20 17)) (Fin.ofNat 256 (bits n 16 9))) else .error .reservedField else .error .reservedField
  | 4 => if bits n 25 21 = 0 then if bits n 8 4 = 0 then .ok (.qpop (Fin.ofNat 16 (bits n 20 17)) (Fin.ofNat 256 (bits n 16 9))) else .error .reservedField else .error .reservedField
  | 5 => if bits n 8 4 = 0 then .ok (.qldv (Fin.ofNat 32 (bits n 25 21)) (Fin.ofNat 16 (bits n 20 17)) (Fin.ofNat 256 (bits n 16 9))) else .error .reservedField
  | 6 => if bits n 8 4 = 0 then .ok (.qstv (Fin.ofNat 32 (bits n 25 21)) (Fin.ofNat 16 (bits n 20 17)) (Fin.ofNat 256 (bits n 16 9))) else .error .reservedField
  | _ => .error .unassigned

/-- Major 0x1A (R53, R69). -/
def decodeVFloat (n : Nat) : Decoded :=
  match bits n 10 5 with
  | 0 => if bits n 4 2 = 0 then .ok (.vadd (Fin.ofNat 32 (bits n 25 21)) (Fin.ofNat 32 (bits n 20 16)) (Fin.ofNat 32 (bits n 15 11)) (Round.ofBits (bits n 1 0))) else .error .reservedField
  | 1 => if bits n 4 2 = 0 then .ok (.vsub (Fin.ofNat 32 (bits n 25 21)) (Fin.ofNat 32 (bits n 20 16)) (Fin.ofNat 32 (bits n 15 11)) (Round.ofBits (bits n 1 0))) else .error .reservedField
  | 2 => if bits n 4 2 = 0 then .ok (.vmul (Fin.ofNat 32 (bits n 25 21)) (Fin.ofNat 32 (bits n 20 16)) (Fin.ofNat 32 (bits n 15 11)) (Round.ofBits (bits n 1 0))) else .error .reservedField
  | 3 => if bits n 4 2 = 0 then .ok (.vfma (Fin.ofNat 32 (bits n 25 21)) (Fin.ofNat 32 (bits n 20 16)) (Fin.ofNat 32 (bits n 15 11)) (Round.ofBits (bits n 1 0))) else .error .reservedField
  | 4 => if bits n 4 2 = 0 then .ok (.vfms (Fin.ofNat 32 (bits n 25 21)) (Fin.ofNat 32 (bits n 20 16)) (Fin.ofNat 32 (bits n 15 11)) (Round.ofBits (bits n 1 0))) else .error .reservedField
  | 5 => if bits n 4 0 = 0 then .ok (.vmin (Fin.ofNat 32 (bits n 25 21)) (Fin.ofNat 32 (bits n 20 16)) (Fin.ofNat 32 (bits n 15 11))) else .error .reservedField
  | 6 => if bits n 4 0 = 0 then .ok (.vmax (Fin.ofNat 32 (bits n 25 21)) (Fin.ofNat 32 (bits n 20 16)) (Fin.ofNat 32 (bits n 15 11))) else .error .reservedField
  | 7 => if bits n 15 11 = 0 then if bits n 4 0 = 0 then .ok (.vabs (Fin.ofNat 32 (bits n 25 21)) (Fin.ofNat 32 (bits n 20 16))) else .error .reservedField else .error .reservedField
  | 8 => if bits n 15 11 = 0 then if bits n 4 0 = 0 then .ok (.vneg (Fin.ofNat 32 (bits n 25 21)) (Fin.ofNat 32 (bits n 20 16))) else .error .reservedField else .error .reservedField
  | 9 => if bits n 4 2 = 0 then .ok (.vdiv (Fin.ofNat 32 (bits n 25 21)) (Fin.ofNat 32 (bits n 20 16)) (Fin.ofNat 32 (bits n 15 11)) (Round.ofBits (bits n 1 0))) else .error .reservedField
  | 10 => if bits n 15 11 = 0 then if bits n 4 2 = 0 then .ok (.vsqrt (Fin.ofNat 32 (bits n 25 21)) (Fin.ofNat 32 (bits n 20 16)) (Round.ofBits (bits n 1 0))) else .error .reservedField else .error .reservedField
  | 11 => if bits n 15 11 = 0 then if bits n 4 2 = 0 then .ok (.vrcp (Fin.ofNat 32 (bits n 25 21)) (Fin.ofNat 32 (bits n 20 16)) (Round.ofBits (bits n 1 0))) else .error .reservedField else .error .reservedField
  | 12 => if bits n 15 11 = 0 then if bits n 4 2 = 0 then .ok (.vrsq (Fin.ofNat 32 (bits n 25 21)) (Fin.ofNat 32 (bits n 20 16)) (Round.ofBits (bits n 1 0))) else .error .reservedField else .error .reservedField
  | 13 => if bits n 15 11 = 0 then if bits n 4 2 = 0 then .ok (.vexp2 (Fin.ofNat 32 (bits n 25 21)) (Fin.ofNat 32 (bits n 20 16)) (Round.ofBits (bits n 1 0))) else .error .reservedField else .error .reservedField
  | 14 => if bits n 15 11 = 0 then if bits n 4 2 = 0 then .ok (.vlog2 (Fin.ofNat 32 (bits n 25 21)) (Fin.ofNat 32 (bits n 20 16)) (Round.ofBits (bits n 1 0))) else .error .reservedField else .error .reservedField
  | _ => .error .unassigned

/-- Major 0x1B (R53, R69). -/
def decodeVCompare (n : Nat) : Decoded :=
  match bits n 10 5 with
  | 0 | 1 | 2 | 3 | 4 | 5 | 6 | 7 => if bits n 4 0 = 0 then .ok (.vcmp (Fin.ofNat 32 (bits n 25 21)) (Fin.ofNat 32 (bits n 20 16)) (Fin.ofNat 32 (bits n 15 11)) (VCmp.ofBits (bits n 7 5))) else .error .reservedField
  | 8 => if bits n 4 0 = 0 then .ok (.vsel (Fin.ofNat 32 (bits n 25 21)) (Fin.ofNat 32 (bits n 20 16)) (Fin.ofNat 32 (bits n 15 11))) else .error .reservedField
  | _ => .error .unassigned

/-- Major 0x1C (R53, R69). -/
def decodeVInt (n : Nat) : Decoded :=
  match bits n 10 5 with
  | 0 => if bits n 4 4 = 0 then if bits n 2 2 = 0 then (match Elem.ofBits? (bits n 1 0) with | some e => .ok (.viadd (Fin.ofNat 32 (bits n 25 21)) (Fin.ofNat 32 (bits n 20 16)) (Fin.ofNat 32 (bits n 15 11)) (bit n 3) e) | none => .error .illegalValue) else .error .reservedField else .error .reservedField
  | 1 => if bits n 4 4 = 0 then if bits n 2 2 = 0 then (match Elem.ofBits? (bits n 1 0) with | some e => .ok (.visub (Fin.ofNat 32 (bits n 25 21)) (Fin.ofNat 32 (bits n 20 16)) (Fin.ofNat 32 (bits n 15 11)) (bit n 3) e) | none => .error .illegalValue) else .error .reservedField else .error .reservedField
  | 2 => if bits n 4 2 = 0 then (match Elem.ofBits? (bits n 1 0) with | some e => .ok (.vimul (Fin.ofNat 32 (bits n 25 21)) (Fin.ofNat 32 (bits n 20 16)) (Fin.ofNat 32 (bits n 15 11)) e) | none => .error .illegalValue) else .error .reservedField
  | 3 => if bits n 4 0 = 0 then .ok (.vand (Fin.ofNat 32 (bits n 25 21)) (Fin.ofNat 32 (bits n 20 16)) (Fin.ofNat 32 (bits n 15 11))) else .error .reservedField
  | 4 => if bits n 4 0 = 0 then .ok (.vor (Fin.ofNat 32 (bits n 25 21)) (Fin.ofNat 32 (bits n 20 16)) (Fin.ofNat 32 (bits n 15 11))) else .error .reservedField
  | 5 => if bits n 4 0 = 0 then .ok (.vxor (Fin.ofNat 32 (bits n 25 21)) (Fin.ofNat 32 (bits n 20 16)) (Fin.ofNat 32 (bits n 15 11))) else .error .reservedField
  | 6 => if bits n 4 2 = 0 then (match Elem.ofBits? (bits n 1 0) with | some e => .ok (.vshl (Fin.ofNat 32 (bits n 25 21)) (Fin.ofNat 32 (bits n 20 16)) (Fin.ofNat 32 (bits n 15 11)) e) | none => .error .illegalValue) else .error .reservedField
  | 7 => if bits n 4 3 = 0 then (match Elem.ofBits? (bits n 1 0) with | some e => .ok (.vshr (Fin.ofNat 32 (bits n 25 21)) (Fin.ofNat 32 (bits n 20 16)) (Fin.ofNat 32 (bits n 15 11)) (bit n 2) e) | none => .error .illegalValue) else .error .reservedField
  | _ => .error .unassigned

/-- Major 0x1D (R53, R69). -/
def decodeVLane (n : Nat) : Decoded :=
  match bits n 10 5 with
  | 0 => if bits n 15 11 = 0 then if bits n 4 0 = 0 then .ok (.vbcast (Fin.ofNat 32 (bits n 25 21)) (Fin.ofNat 32 (bits n 20 16))) else .error .reservedField else .error .reservedField
  | 1 => if bits n 15 11 = 0 then if bits n 4 4 = 0 then .ok (.vextr (Fin.ofNat 32 (bits n 25 21)) (Fin.ofNat 32 (bits n 20 16)) (Fin.ofNat 16 (bits n 3 0))) else .error .reservedField else .error .reservedField
  | 2 => if bits n 15 11 = 0 then if bits n 4 4 = 0 then .ok (.vins (Fin.ofNat 32 (bits n 25 21)) (Fin.ofNat 32 (bits n 20 16)) (Fin.ofNat 16 (bits n 3 0))) else .error .reservedField else .error .reservedField
  | 3 => if bits n 4 0 = 0 then .ok (.vperm (Fin.ofNat 32 (bits n 25 21)) (Fin.ofNat 32 (bits n 20 16)) (Fin.ofNat 32 (bits n 15 11))) else .error .reservedField
  | 4 => if bits n 15 11 = 0 then if bits n 4 2 = 0 then .ok (.vscan (Fin.ofNat 32 (bits n 25 21)) (Fin.ofNat 32 (bits n 20 16)) (ScanKind.ofBits (bits n 1 0))) else .error .reservedField else .error .reservedField
  | _ => .error .unassigned

/-- Major 0x1E (R53, R69). -/
def decodeVReduce (n : Nat) : Decoded :=
  match bits n 10 5 with
  | 0 => if bits n 15 11 = 0 then if bits n 4 2 = 0 then .ok (.vredadd (Fin.ofNat 32 (bits n 25 21)) (Fin.ofNat 32 (bits n 20 16)) (Round.ofBits (bits n 1 0))) else .error .reservedField else .error .reservedField
  | 1 => if bits n 15 11 = 0 then if bits n 4 3 = 0 then if bits n 1 0 = 0 then .ok (.vredmax (Fin.ofNat 32 (bits n 25 21)) (Fin.ofNat 32 (bits n 20 16)) (Dom.ofBits (bits n 2 2))) else .error .reservedField else .error .reservedField else .error .reservedField
  | 2 => if bits n 15 11 = 0 then if bits n 4 3 = 0 then if bits n 1 0 = 0 then .ok (.vredmin (Fin.ofNat 32 (bits n 25 21)) (Fin.ofNat 32 (bits n 20 16)) (Dom.ofBits (bits n 2 2))) else .error .reservedField else .error .reservedField else .error .reservedField
  | 3 => if bits n 15 11 = 0 then if bits n 4 0 = 0 then .ok (.vpopc (Fin.ofNat 32 (bits n 25 21)) (Fin.ofNat 32 (bits n 20 16))) else .error .reservedField else .error .reservedField
  | 4 => if bits n 15 11 = 0 then if bits n 4 0 = 0 then .ok (.vffs (Fin.ofNat 32 (bits n 25 21)) (Fin.ofNat 32 (bits n 20 16))) else .error .reservedField else .error .reservedField
  | _ => .error .unassigned

/-- Major 0x1F (R53, R69). -/
def decodeVConvert (n : Nat) : Decoded :=
  match bits n 10 5 with
  | 0 => if bits n 15 11 = 0 then if bits n 4 2 = 0 then .ok (.vcvt (Fin.ofNat 32 (bits n 25 21)) (Fin.ofNat 32 (bits n 20 16)) (Round.ofBits (bits n 1 0))) else .error .reservedField else .error .reservedField
  | 1 => if bits n 4 0 = 0 then .ok (.vqnt (Fin.ofNat 32 (bits n 25 21)) (Fin.ofNat 32 (bits n 20 16)) (Fin.ofNat 32 (bits n 15 11))) else .error .reservedField
  | 2 => if bits n 4 0 = 0 then .ok (.vdqnt (Fin.ofNat 32 (bits n 25 21)) (Fin.ofNat 32 (bits n 20 16)) (Fin.ofNat 32 (bits n 15 11))) else .error .reservedField
  | _ => .error .unassigned

/-- Major 0x20 (R53, R69). -/
def decodeTile0 (n : Nat) : Decoded :=
  match bits n 6 0 with
  | 0 => if bits n 21 8 = 0 then .ok (.mzero (Fin.ofNat 16 (bits n 25 22)) (Fin.ofNat 2 (bits n 7 7))) else .error .reservedField
  | 1 => if bits n 21 16 = 0 then .ok (.manchor (Fin.ofNat 16 (bits n 25 22)) (Fin.ofNat 256 (bits n 15 8)) (Fin.ofNat 2 (bits n 7 7))) else .error .reservedField
  | 2 => .ok (.mma (Fin.ofNat 16 (bits n 25 22)) (Fin.ofNat 8 (bits n 21 19)) (Fin.ofNat 8 (bits n 18 16)) (Fin.ofNat 256 (bits n 15 8)) (Fin.ofNat 2 (bits n 7 7)))
  | 3 => .ok (.mmas (Fin.ofNat 16 (bits n 25 22)) (Fin.ofNat 8 (bits n 21 19)) (Fin.ofNat 8 (bits n 18 16)) (Fin.ofNat 256 (bits n 15 8)) (Fin.ofNat 2 (bits n 7 7)))
  | _ => .error .unassigned

/-- Major 0x21 (R53, R69). -/
def decodeTile1 (n : Nat) : Decoded :=
  match bits n 6 0 with
  | 0 => if bits n 18 16 = 0 then .ok (.mres (Fin.ofNat 16 (bits n 25 22)) (Fin.ofNat 8 (bits n 21 19)) (Fin.ofNat 256 (bits n 15 8)) (Fin.ofNat 2 (bits n 7 7))) else .error .reservedField
  | 1 => if bits n 21 8 = 0 then .ok (.mresc (Fin.ofNat 16 (bits n 25 22)) (Fin.ofNat 2 (bits n 7 7))) else .error .reservedField
  | 2 => if bits n 21 21 = 0 then .ok (.mrd (Fin.ofNat 16 (bits n 25 22)) (Fin.ofNat 32 (bits n 20 16)) (Fin.ofNat 256 (bits n 15 8)) (Fin.ofNat 2 (bits n 7 7))) else .error .reservedField
  | 3 => if bits n 21 21 = 0 then .ok (.mcmp (Fin.ofNat 16 (bits n 25 22)) (Fin.ofNat 32 (bits n 20 16)) (Fin.ofNat 256 (bits n 15 8)) (Fin.ofNat 2 (bits n 7 7))) else .error .reservedField
  | 4 => if bits n 18 8 = 0 then .ok (.msave (Fin.ofNat 16 (bits n 25 22)) (Fin.ofNat 8 (bits n 21 19)) (Fin.ofNat 2 (bits n 7 7))) else .error .reservedField
  | 5 => if bits n 18 8 = 0 then .ok (.mload (Fin.ofNat 16 (bits n 25 22)) (Fin.ofNat 8 (bits n 21 19)) (Fin.ofNat 2 (bits n 7 7))) else .error .reservedField
  | _ => .error .unassigned

/-- Major 0x22 (R53, R69). -/
def decodeTile2 (n : Nat) : Decoded :=
  match bits n 6 0 with
  | 0 => if bits n 18 8 = 0 then .ok (.mmerge (Fin.ofNat 16 (bits n 25 22)) (Fin.ofNat 8 (bits n 21 19)) (Fin.ofNat 2 (bits n 7 7))) else .error .reservedField
  | 1 => if bits n 25 16 = 0 then if bits n 7 7 = 0 then .ok (.mrstl (Fin.ofNat 256 (bits n 15 8))) else .error .reservedField else .error .reservedField
  | 2 => if bits n 21 8 = 0 then .ok (.mwait (Fin.ofNat 16 (bits n 25 22)) (Fin.ofNat 2 (bits n 7 7))) else .error .reservedField
  | _ => .error .unassigned

/-- Major 0x23 (R53, R69). -/
def decodeStream (n : Nat) : Decoded :=
  match bits n 3 0 with
  | 0 => if bits n 5 4 = 0 then .ok (.astep (bit n 25) (Fin.ofNat 16 (bits n 24 21)) (Fin.ofNat 16 (bits n 20 17)) (Fin.ofNat 256 (bits n 16 9)) (Fin.ofNat 8 (bits n 8 6))) else .error .reservedField
  | 1 => if bits n 5 4 = 0 then .ok (.astepx (Fin.ofNat 32 (bits n 25 21)) (Fin.ofNat 16 (bits n 20 17)) (Fin.ofNat 256 (bits n 16 9)) (Fin.ofNat 8 (bits n 8 6))) else .error .reservedField
  | _ => .error .unassigned

/-- Major 0x24 (R53, R69). -/
def decodeAutomaton (n : Nat) : Decoded :=
  match bits n 10 5 with
  | 0 => if bits n 25 19 = 0 then if bits n 15 11 = 0 then if bits n 4 3 = 0 then .ok (.aload (Fin.ofNat 8 (bits n 18 16)) (Fin.ofNat 8 (bits n 2 0))) else .error .reservedField else .error .reservedField else .error .reservedField
  | 1 => if bits n 25 21 = 0 then if bits n 4 3 = 0 then .ok (.aset (Fin.ofNat 32 (bits n 20 16)) (Fin.ofNat 32 (bits n 15 11)) (Fin.ofNat 8 (bits n 2 0))) else .error .reservedField else .error .reservedField
  | 2 => if bits n 25 21 = 0 then if bits n 15 11 = 0 then if bits n 4 3 = 0 then .ok (.atok (Fin.ofNat 32 (bits n 20 16)) (Fin.ofNat 8 (bits n 2 0))) else .error .reservedField else .error .reservedField else .error .reservedField
  | 3 => if bits n 4 0 = 0 then .ok (.acomp (Fin.ofNat 32 (bits n 25 21)) (Fin.ofNat 32 (bits n 20 16)) (Fin.ofNat 32 (bits n 15 11))) else .error .reservedField
  | 4 => if bits n 4 0 = 0 then .ok (.asel (Fin.ofNat 32 (bits n 25 21)) (Fin.ofNat 32 (bits n 20 16)) (Fin.ofNat 32 (bits n 15 11))) else .error .reservedField
  | 5 => if bits n 25 24 = 0 then if bits n 20 16 = 0 then if bits n 4 3 = 0 then .ok (.amask (Fin.ofNat 8 (bits n 23 21)) (Fin.ofNat 32 (bits n 15 11)) (Fin.ofNat 8 (bits n 2 0))) else .error .reservedField else .error .reservedField else .error .reservedField
  | 6 => if bits n 20 16 = 0 then if bits n 4 3 = 0 then .ok (.aforce (Fin.ofNat 32 (bits n 25 21)) (Fin.ofNat 32 (bits n 15 11)) (Fin.ofNat 8 (bits n 2 0))) else .error .reservedField else .error .reservedField
  | 7 => if bits n 20 11 = 0 then if bits n 4 3 = 0 then .ok (.aget (Fin.ofNat 32 (bits n 25 21)) (Fin.ofNat 8 (bits n 2 0))) else .error .reservedField else .error .reservedField
  | 8 => if bits n 25 21 = 0 then if bits n 15 11 = 0 then if bits n 4 3 = 0 then .ok (.apush (Fin.ofNat 32 (bits n 20 16)) (Fin.ofNat 8 (bits n 2 0))) else .error .reservedField else .error .reservedField else .error .reservedField
  | 9 => if bits n 20 11 = 0 then if bits n 4 3 = 0 then .ok (.apop (Fin.ofNat 32 (bits n 25 21)) (Fin.ofNat 8 (bits n 2 0))) else .error .reservedField else .error .reservedField
  | _ => .error .unassigned

/-- Major 0x25 (R53, R69). -/
def decodeDirectory (n : Nat) : Decoded :=
  match bits n 10 5 with
  | 0 => if bits n 25 19 = 0 then if bits n 15 14 = 0 then if bits n 4 0 = 0 then .ok (.tbind (Fin.ofNat 8 (bits n 18 16)) (Fin.ofNat 8 (bits n 13 11))) else .error .reservedField else .error .reservedField else .error .reservedField
  | 1 => if bits n 25 19 = 0 then if bits n 4 0 = 0 then .ok (.tbindm (Fin.ofNat 8 (bits n 18 16)) (Fin.ofNat 32 (bits n 15 11))) else .error .reservedField else .error .reservedField
  | 2 => if bits n 25 19 = 0 then if bits n 15 11 = 0 then if bits n 4 0 = 0 then .ok (.tunbind (Fin.ofNat 8 (bits n 18 16))) else .error .reservedField else .error .reservedField else .error .reservedField
  | 3 => if bits n 20 19 = 0 then if bits n 15 11 = 0 then if bits n 4 0 = 0 then .ok (.topen (Fin.ofNat 32 (bits n 25 21)) (Fin.ofNat 8 (bits n 18 16))) else .error .reservedField else .error .reservedField else .error .reservedField
  | 4 => if bits n 20 19 = 0 then if bits n 4 0 = 0 then .ok (.topenw (Fin.ofNat 32 (bits n 25 21)) (Fin.ofNat 8 (bits n 18 16)) (Fin.ofNat 32 (bits n 15 11))) else .error .reservedField else .error .reservedField
  | 5 => if bits n 25 21 = 0 then if bits n 15 11 = 0 then if bits n 4 0 = 0 then .ok (.tclose (Fin.ofNat 32 (bits n 20 16))) else .error .reservedField else .error .reservedField else .error .reservedField
  | 6 => if bits n 15 11 = 0 then if bits n 4 4 = 0 then .ok (.tinfo (Fin.ofNat 32 (bits n 25 21)) (Fin.ofNat 32 (bits n 20 16)) (Fin.ofNat 16 (bits n 3 0))) else .error .reservedField else .error .reservedField
  | 7 => if bits n 4 0 = 0 then .ok (.thaddr (Fin.ofNat 32 (bits n 25 21)) (Fin.ofNat 32 (bits n 20 16)) (Fin.ofNat 32 (bits n 15 11))) else .error .reservedField
  | _ => .error .unassigned

/-- Major 0x26 (R53, R69). -/
def decodeGraph (n : Nat) : Decoded :=
  match bits n 10 5 with
  | 0 => if bits n 20 19 = 0 then if bits n 15 11 = 0 then if bits n 4 0 = 0 then .ok (.spawn (Fin.ofNat 32 (bits n 25 21)) (Fin.ofNat 8 (bits n 18 16))) else .error .reservedField else .error .reservedField else .error .reservedField
  | 1 => if bits n 25 11 = 0 then if bits n 4 0 = 0 then .ok (.nend) else .error .reservedField else .error .reservedField
  | 2 => if bits n 25 21 = 0 then if bits n 15 11 = 0 then if bits n 4 0 = 0 then .ok (.nwait (Fin.ofNat 32 (bits n 20 16))) else .error .reservedField else .error .reservedField else .error .reservedField
  | 3 => if bits n 25 21 = 0 then if bits n 15 11 = 0 then if bits n 4 4 = 0 then .ok (.barr (Fin.ofNat 32 (bits n 20 16)) (Fin.ofNat 16 (bits n 3 0))) else .error .reservedField else .error .reservedField else .error .reservedField
  | 4 => (match bits n 4 0 with
    | 0 => if bits n 15 11 = 0 then .ok (.yardAny (Fin.ofNat 32 (bits n 25 21)) (Fin.ofNat 32 (bits n 20 16))) else .error .reservedField
    | 1 => if bits n 15 11 = 0 then .ok (.yardAll (Fin.ofNat 32 (bits n 25 21)) (Fin.ofNat 32 (bits n 20 16))) else .error .reservedField
    | 2 => if bits n 25 11 = 0 then .ok .yardDet else .error .reservedField
    | _ => .error .illegalValue)
  | _ => .error .unassigned

/-- Major 0x27 (R53, R69). -/
def decodeEngine (n : Nat) : Decoded :=
  match bits n 10 5 with
  | 0 => if bits n 25 24 = 0 then if bits n 20 19 = 0 then if bits n 4 4 = 0 then .ok (.cpy (Fin.ofNat 8 (bits n 23 21)) (Fin.ofNat 8 (bits n 18 16)) (Fin.ofNat 32 (bits n 15 11)) (bit n 3) (bit n 2) (bit n 1) (bit n 0)) else .error .reservedField else .error .reservedField else .error .reservedField
  | 1 => if bits n 25 24 = 0 then if bits n 20 19 = 0 then if bits n 4 4 = 0 then .ok (.cpyx (Fin.ofNat 8 (bits n 23 21)) (Fin.ofNat 8 (bits n 18 16)) (Fin.ofNat 32 (bits n 15 11)) (bit n 3) (bit n 2) (bit n 1) (bit n 0)) else .error .reservedField else .error .reservedField else .error .reservedField
  | 2 => if bits n 25 24 = 0 then if bits n 20 19 = 0 then if bits n 4 3 = 0 then .ok (.sealOut (Fin.ofNat 8 (bits n 23 21)) (Fin.ofNat 8 (bits n 18 16)) (Fin.ofNat 32 (bits n 15 11)) (bit n 2) (bit n 1) (bit n 0)) else .error .reservedField else .error .reservedField else .error .reservedField
  | 3 => if bits n 25 21 = 0 then if bits n 4 0 = 0 then .ok (.evcfg (Fin.ofNat 32 (bits n 20 16)) (Fin.ofNat 32 (bits n 15 11))) else .error .reservedField else .error .reservedField
  | 4 => if bits n 25 21 = 0 then if bits n 15 11 = 0 then if bits n 4 0 = 0 then .ok (.evwait (Fin.ofNat 32 (bits n 20 16))) else .error .reservedField else .error .reservedField else .error .reservedField
  | _ => .error .unassigned

/-- Major 0x28 (R53, R69). -/
def decodeGuard (n : Nat) : Decoded :=
  match bits n 10 5 with
  | 0 => if bits n 25 11 = 0 then if bits n 4 2 = 0 then .ok (.gcommit (Fin.ofNat 4 (bits n 1 0))) else .error .reservedField else .error .reservedField
  | 1 => if bits n 25 11 = 0 then if bits n 4 2 = 0 then .ok (.gdrop (Fin.ofNat 4 (bits n 1 0))) else .error .reservedField else .error .reservedField
  | _ => .error .unassigned

/-- Major 0x29 (R53, R69). -/
def decodeSystem (n : Nat) : Decoded :=
  match bits n 7 0 with
  | 0 => if bits n 25 16 = 0 then .ok (.trap (Fin.ofNat 256 (bits n 15 8))) else .error .reservedField
  | 1 => if bits n 25 8 = 0 then .ok (.eret) else .error .reservedField
  | 2 => if bits n 25 8 = 0 then .ok (.uret) else .error .reservedField
  | 3 => if bits n 20 16 = 0 then .ok (.sysr (Fin.ofNat 32 (bits n 25 21)) (Fin.ofNat 256 (bits n 15 8))) else .error .reservedField
  | 4 => if bits n 25 21 = 0 then .ok (.sysw (Fin.ofNat 32 (bits n 20 16)) (Fin.ofNat 256 (bits n 15 8))) else .error .reservedField
  | 5 => if bits n 25 21 = 0 then if bits n 15 8 = 0 then .ok (.swpwp (Fin.ofNat 32 (bits n 20 16))) else .error .reservedField else .error .reservedField
  | 6 => if bits n 25 8 = 0 then .ok (.hbeat) else .error .reservedField
  | 7 => if bits n 25 8 = 0 then .ok (.wfe) else .error .reservedField
  | 8 => if bits n 25 8 = 0 then .ok (.halt) else .error .reservedField
  | 9 => if bits n 25 8 = 0 then .ok (.spill) else .error .reservedField
  | 10 => if bits n 25 19 = 0 then if bits n 15 8 = 0 then .ok (.wmon (Fin.ofNat 8 (bits n 18 16))) else .error .reservedField else .error .reservedField
  | 11 => if bits n 20 8 = 0 then .ok (.rdtime (Fin.ofNat 32 (bits n 25 21))) else .error .reservedField
  | 12 => if bits n 20 8 = 0 then .ok (.rdwin (Fin.ofNat 32 (bits n 25 21))) else .error .reservedField
  | 13 => .ok (.permix (Fin.ofNat 32 (bits n 25 21)) (Fin.ofNat 32 (bits n 20 16)) (Fin.ofNat 256 (bits n 15 8)))
  | _ => .error .unassigned

/-- Major 0x3F (R53, R69). -/
def decodeHint (n : Nat) : Decoded :=
  match bits n 25 22 with
  | 0 => .ok (.hnop (Fin.ofNat 4194304 (bits n 21 0)))
  | 8 | 9 | 10 | 11 | 12 | 13 | 14 | 15 => .ok (.hintType8to15 (Fin.ofNat 8 (bits n 24 22)) (Fin.ofNat 4194304 (bits n 21 0)))
  | 1 => .ok (.himm (Fin.ofNat 4194304 (bits n 21 0)))
  | 2 => if bits n 3 0 = 0 then if bits n 21 17 < 13 ∧ bits n 16 12 < 13 ∧ bits n 11 7 < 13 then .ok (.hfmt (Fin.ofNat 13 (bits n 21 17)) (Fin.ofNat 13 (bits n 16 12)) (Fin.ofNat 13 (bits n 11 7)) (Fin.ofNat 4 (bits n 6 5)) (bit n 4)) else .error .hintPayload else .error .hintPayload
  | 3 => if bits n 21 3 = 0 then (match Scope.ofBits? (bits n 2 0) with | some s => .ok (.hscope s) | none => .error .hintPayload) else .error .hintPayload
  | 4 => .ok (.hrealign (Fin.ofNat 4194304 (bits n 21 0)))
  | 5 => if bits n 21 2 = 0 then .ok (.hpromo (Fin.ofNat 4 (bits n 1 0))) else .error .hintPayload
  | 6 => if bits n 21 2 = 0 then .ok (.hguard (Fin.ofNat 4 (bits n 1 0))) else .error .hintPayload
  | 7 => if bits n 21 0 = 0 then .ok (.hnt) else .error .hintPayload
  | _ => .error .unassigned

/-- The group of a word by its major opcode (R53). -/
def decodeMajor (n : Nat) : Decoded :=
  match bits n 31 26 with
  | 1 => decodeAlu n
  | 2 => decodeAluK n
  | 3 => .ok (.addi (Fin.ofNat 32 (bits n 25 21)) (Fin.ofNat 32 (bits n 20 16)) (Fin.ofNat 65536 (bits n 15 0)))
  | 4 => .ok (.andi (Fin.ofNat 32 (bits n 25 21)) (Fin.ofNat 32 (bits n 20 16)) (Fin.ofNat 65536 (bits n 15 0)))
  | 5 => .ok (.ori (Fin.ofNat 32 (bits n 25 21)) (Fin.ofNat 32 (bits n 20 16)) (Fin.ofNat 65536 (bits n 15 0)))
  | 6 => .ok (.xori (Fin.ofNat 32 (bits n 25 21)) (Fin.ofNat 32 (bits n 20 16)) (Fin.ofNat 65536 (bits n 15 0)))
  | 7 => .ok (.slti (Fin.ofNat 32 (bits n 25 21)) (Fin.ofNat 32 (bits n 20 16)) (Fin.ofNat 65536 (bits n 15 0)))
  | 8 => .ok (.sltiu (Fin.ofNat 32 (bits n 25 21)) (Fin.ofNat 32 (bits n 20 16)) (Fin.ofNat 65536 (bits n 15 0)))
  | 9 => if bits n 12 6 = 0 then (match ShiftKind.ofBits? (bits n 15 14) with | some t => .ok (.shi (Fin.ofNat 32 (bits n 25 21)) (Fin.ofNat 32 (bits n 20 16)) t (Width.ofBits (bits n 13 13)) (Fin.ofNat 64 (bits n 5 0))) | none => .error .illegalValue) else .error .reservedField
  | 12 => decodeBcc n
  | 13 => .ok (.jmp (Fin.ofNat 67108864 (bits n 25 0)))
  | 14 => .ok (.call (Fin.ofNat 67108864 (bits n 25 0)))
  | 15 => decodeJump n
  | 16 => decodeLoop n
  | 17 => decodePointer n
  | 18 => (match LdSize.ofBits? (bits n 17 15) with | some s => (match Addr.ofBits? (bits n 14 13) (bits n 10 0) with | some adr => .ok (.ld (Fin.ofNat 32 (bits n 25 21)) (Fin.ofNat 8 (bits n 20 18)) s adr (Ord.ofBits (bits n 12 11))) | none => .error .illegalValue) | none => .error .illegalValue)
  | 19 => (match StSize.ofBits? (bits n 17 15) with | some s => (match Addr.ofBits? (bits n 14 13) (bits n 10 0) with | some adr => .ok (.st (Fin.ofNat 32 (bits n 25 21)) (Fin.ofNat 8 (bits n 20 18)) s adr (Ord.ofBits (bits n 12 11))) | none => .error .illegalValue) | none => .error .illegalValue)
  | 20 => if bits n 17 15 = 0 then (match Addr.ofBits? (bits n 14 13) (bits n 10 0) with | some adr => .ok (.ldv (Fin.ofNat 32 (bits n 25 21)) (Fin.ofNat 8 (bits n 20 18)) adr (Ord.ofBits (bits n 12 11))) | none => .error .illegalValue) else .error .reservedField
  | 21 => if bits n 17 15 = 0 then (match Addr.ofBits? (bits n 14 13) (bits n 10 0) with | some adr => .ok (.stv (Fin.ofNat 32 (bits n 25 21)) (Fin.ofNat 8 (bits n 20 18)) adr (Ord.ofBits (bits n 12 11))) | none => .error .illegalValue) else .error .reservedField
  | 22 => decodeGather n
  | 23 => decodeAtomic n
  | 24 => decodeFence n
  | 25 => decodeQueue n
  | 26 => decodeVFloat n
  | 27 => decodeVCompare n
  | 28 => decodeVInt n
  | 29 => decodeVLane n
  | 30 => decodeVReduce n
  | 31 => decodeVConvert n
  | 32 => decodeTile0 n
  | 33 => decodeTile1 n
  | 34 => decodeTile2 n
  | 35 => decodeStream n
  | 36 => decodeAutomaton n
  | 37 => decodeDirectory n
  | 38 => decodeGraph n
  | 39 => decodeEngine n
  | 40 => decodeGuard n
  | 41 => decodeSystem n
  | 63 => decodeHint n
  | _ => .error .reservedMajor

/-- The instruction a word encodes, or why it encodes none (R66). -/
def decode (w : Word) : Decoded :=
  match decodeMajor w.toNat with
  | .ok i => if i.wf then .ok i else .error (if bits w.toNat 31 26 = 63 then .hintPayload else .illegalValue)
  | .error e => .error e

/-- A word from its fixed bits and its fields, each with the number of its lowest bit (R50). -/
def fields (base : Nat) (l : List (Nat × Nat)) : Nat := l.foldl (fun acc p => acc + p.1 * 2 ^ p.2) base

/-- The number that the word of an instruction holds (R50, R69); 0 for the rows that have no word. -/
def encodeNat : Instr → Nat
  | .add d a b w => fields 0x04000000 [(d.val, 21), (a.val, 16), (b.val, 11), (w.toBits, 0)]
  | .sub d a b w => fields 0x04000020 [(d.val, 21), (a.val, 16), (b.val, 11), (w.toBits, 0)]
  | .mul d a b w => fields 0x04000040 [(d.val, 21), (a.val, 16), (b.val, 11), (w.toBits, 0)]
  | .mulhs d a b w => fields 0x04000060 [(d.val, 21), (a.val, 16), (b.val, 11), (w.toBits, 0)]
  | .mulhz d a b w => fields 0x04000080 [(d.val, 21), (a.val, 16), (b.val, 11), (w.toBits, 0)]
  | .divs d a b w => fields 0x040000A0 [(d.val, 21), (a.val, 16), (b.val, 11), (w.toBits, 0)]
  | .divz d a b w => fields 0x040000C0 [(d.val, 21), (a.val, 16), (b.val, 11), (w.toBits, 0)]
  | .rems d a b w => fields 0x040000E0 [(d.val, 21), (a.val, 16), (b.val, 11), (w.toBits, 0)]
  | .remz d a b w => fields 0x04000100 [(d.val, 21), (a.val, 16), (b.val, 11), (w.toBits, 0)]
  | .and d a b w => fields 0x04000120 [(d.val, 21), (a.val, 16), (b.val, 11), (w.toBits, 0)]
  | .or d a b w => fields 0x04000140 [(d.val, 21), (a.val, 16), (b.val, 11), (w.toBits, 0)]
  | .xor d a b w => fields 0x04000160 [(d.val, 21), (a.val, 16), (b.val, 11), (w.toBits, 0)]
  | .andn d a b w => fields 0x04000180 [(d.val, 21), (a.val, 16), (b.val, 11), (w.toBits, 0)]
  | .shl d a b w => fields 0x040001A0 [(d.val, 21), (a.val, 16), (b.val, 11), (w.toBits, 0)]
  | .shrl d a b w => fields 0x040001C0 [(d.val, 21), (a.val, 16), (b.val, 11), (w.toBits, 0)]
  | .shra d a b w => fields 0x040001E0 [(d.val, 21), (a.val, 16), (b.val, 11), (w.toBits, 0)]
  | .rol d a b w => fields 0x04000200 [(d.val, 21), (a.val, 16), (b.val, 11), (w.toBits, 0)]
  | .mins d a b w => fields 0x04000220 [(d.val, 21), (a.val, 16), (b.val, 11), (w.toBits, 0)]
  | .maxs d a b w => fields 0x04000240 [(d.val, 21), (a.val, 16), (b.val, 11), (w.toBits, 0)]
  | .minz d a b w => fields 0x04000260 [(d.val, 21), (a.val, 16), (b.val, 11), (w.toBits, 0)]
  | .maxz d a b w => fields 0x04000280 [(d.val, 21), (a.val, 16), (b.val, 11), (w.toBits, 0)]
  | .seq d a b w => fields 0x040002A0 [(d.val, 21), (a.val, 16), (b.val, 11), (w.toBits, 0)]
  | .sne d a b w => fields 0x040002C0 [(d.val, 21), (a.val, 16), (b.val, 11), (w.toBits, 0)]
  | .slts d a b w => fields 0x040002E0 [(d.val, 21), (a.val, 16), (b.val, 11), (w.toBits, 0)]
  | .sltz d a b w => fields 0x04000300 [(d.val, 21), (a.val, 16), (b.val, 11), (w.toBits, 0)]
  | .clz d a w => fields 0x04000320 [(d.val, 21), (a.val, 16), (w.toBits, 0)]
  | .ctz d a w => fields 0x04000340 [(d.val, 21), (a.val, 16), (w.toBits, 0)]
  | .popc d a w => fields 0x04000360 [(d.val, 21), (a.val, 16), (w.toBits, 0)]
  | .sext d a e w => fields 0x04000380 [(d.val, 21), (a.val, 16), (e.toBits, 1), (w.toBits, 0)]
  | .zext d a e w => fields 0x040003A0 [(d.val, 21), (a.val, 16), (e.toBits, 1), (w.toBits, 0)]
  | .bswp d a w => fields 0x040003C0 [(d.val, 21), (a.val, 16), (w.toBits, 0)]
  | .addK d a k w => fields 0x08000000 [(d.val, 21), (a.val, 16), (k.val, 8), (w.toBits, 6)]
  | .subK d a k w => fields 0x08000001 [(d.val, 21), (a.val, 16), (k.val, 8), (w.toBits, 6)]
  | .mulK d a k w => fields 0x08000002 [(d.val, 21), (a.val, 16), (k.val, 8), (w.toBits, 6)]
  | .mulhsK d a k w => fields 0x08000003 [(d.val, 21), (a.val, 16), (k.val, 8), (w.toBits, 6)]
  | .mulhzK d a k w => fields 0x08000004 [(d.val, 21), (a.val, 16), (k.val, 8), (w.toBits, 6)]
  | .divsK d a k w => fields 0x08000005 [(d.val, 21), (a.val, 16), (k.val, 8), (w.toBits, 6)]
  | .divzK d a k w => fields 0x08000006 [(d.val, 21), (a.val, 16), (k.val, 8), (w.toBits, 6)]
  | .remsK d a k w => fields 0x08000007 [(d.val, 21), (a.val, 16), (k.val, 8), (w.toBits, 6)]
  | .remzK d a k w => fields 0x08000008 [(d.val, 21), (a.val, 16), (k.val, 8), (w.toBits, 6)]
  | .andK d a k w => fields 0x08000009 [(d.val, 21), (a.val, 16), (k.val, 8), (w.toBits, 6)]
  | .orK d a k w => fields 0x0800000A [(d.val, 21), (a.val, 16), (k.val, 8), (w.toBits, 6)]
  | .xorK d a k w => fields 0x0800000B [(d.val, 21), (a.val, 16), (k.val, 8), (w.toBits, 6)]
  | .andnK d a k w => fields 0x0800000C [(d.val, 21), (a.val, 16), (k.val, 8), (w.toBits, 6)]
  | .shlK d a k w => fields 0x0800000D [(d.val, 21), (a.val, 16), (k.val, 8), (w.toBits, 6)]
  | .shrlK d a k w => fields 0x0800000E [(d.val, 21), (a.val, 16), (k.val, 8), (w.toBits, 6)]
  | .shraK d a k w => fields 0x0800000F [(d.val, 21), (a.val, 16), (k.val, 8), (w.toBits, 6)]
  | .rolK d a k w => fields 0x08000010 [(d.val, 21), (a.val, 16), (k.val, 8), (w.toBits, 6)]
  | .minsK d a k w => fields 0x08000011 [(d.val, 21), (a.val, 16), (k.val, 8), (w.toBits, 6)]
  | .maxsK d a k w => fields 0x08000012 [(d.val, 21), (a.val, 16), (k.val, 8), (w.toBits, 6)]
  | .minzK d a k w => fields 0x08000013 [(d.val, 21), (a.val, 16), (k.val, 8), (w.toBits, 6)]
  | .maxzK d a k w => fields 0x08000014 [(d.val, 21), (a.val, 16), (k.val, 8), (w.toBits, 6)]
  | .seqK d a k w => fields 0x08000015 [(d.val, 21), (a.val, 16), (k.val, 8), (w.toBits, 6)]
  | .sneK d a k w => fields 0x08000016 [(d.val, 21), (a.val, 16), (k.val, 8), (w.toBits, 6)]
  | .sltsK d a k w => fields 0x08000017 [(d.val, 21), (a.val, 16), (k.val, 8), (w.toBits, 6)]
  | .sltzK d a k w => fields 0x08000018 [(d.val, 21), (a.val, 16), (k.val, 8), (w.toBits, 6)]
  | .addi d a i => fields 0x0C000000 [(d.val, 21), (a.val, 16), (i.val, 0)]
  | .andi d a i => fields 0x10000000 [(d.val, 21), (a.val, 16), (i.val, 0)]
  | .ori d a i => fields 0x14000000 [(d.val, 21), (a.val, 16), (i.val, 0)]
  | .xori d a i => fields 0x18000000 [(d.val, 21), (a.val, 16), (i.val, 0)]
  | .slti d a i => fields 0x1C000000 [(d.val, 21), (a.val, 16), (i.val, 0)]
  | .sltiu d a i => fields 0x20000000 [(d.val, 21), (a.val, 16), (i.val, 0)]
  | .shi d a t w n => fields 0x24000000 [(d.val, 21), (a.val, 16), (t.toBits, 14), (w.toBits, 13), (n.val, 0)]
  | .beq a b o => fields 0x30000000 [(a.val, 21), (b.val, 16), (o.val, 0)]
  | .bne a b o => fields 0x30002000 [(a.val, 21), (b.val, 16), (o.val, 0)]
  | .blts a b o => fields 0x30004000 [(a.val, 21), (b.val, 16), (o.val, 0)]
  | .bges a b o => fields 0x30006000 [(a.val, 21), (b.val, 16), (o.val, 0)]
  | .bltz a b o => fields 0x30008000 [(a.val, 21), (b.val, 16), (o.val, 0)]
  | .bgez a b o => fields 0x3000A000 [(a.val, 21), (b.val, 16), (o.val, 0)]
  | .jmp o => fields 0x34000000 [(o.val, 0)]
  | .call o => fields 0x38000000 [(o.val, 0)]
  | .jr a => fields 0x3C000000 [(a.val, 16)]
  | .callr a => fields 0x3C000020 [(a.val, 16)]
  | .ret => 0x3C000040
  | .loop a len => fields 0x40000000 [(a.val, 21), (len.val, 0)]
  | .loopk k len => fields 0x40002000 [(k.val, 18), (len.val, 0)]
  | .lexit => 0x40004000
  | .lsave => 0x40006000
  | .lrst => 0x40008000
  | .pset d a => fields 0x44000000 [(d.val, 21), (a.val, 16)]
  | .pget d a => fields 0x44000020 [(d.val, 21), (a.val, 16)]
  | .padd d a b => fields 0x44000040 [(d.val, 21), (a.val, 16), (b.val, 11)]
  | .pwalk d a b => fields 0x44000060 [(d.val, 21), (a.val, 16), (b.val, 11)]
  | .pcoord d a b => fields 0x44000080 [(d.val, 21), (a.val, 16), (b.val, 11)]
  | .ld d p s adr o => fields 0x48000000 [(d.val, 21), (p.val, 18), (s.toBits, 15), (adr.modeBits, 13), (adr.offBits, 0), (o.toBits, 11)]
  | .st d p s adr o => fields 0x4C000000 [(d.val, 21), (p.val, 18), (s.toBits, 15), (adr.modeBits, 13), (adr.offBits, 0), (o.toBits, 11)]
  | .ldv d p adr o => fields 0x50000000 [(d.val, 21), (p.val, 18), (adr.modeBits, 13), (adr.offBits, 0), (o.toBits, 11)]
  | .stv d p adr o => fields 0x54000000 [(d.val, 21), (p.val, 18), (adr.modeBits, 13), (adr.offBits, 0), (o.toBits, 11)]
  | .gath d a b z x o => fields 0x58000000 [(d.val, 21), (a.val, 16), (b.val, 11), (z.toBits, 6), (x.val, 2), (o.toBits, 0)]
  | .scat d a b z x o => fields 0x58000020 [(d.val, 21), (a.val, 16), (b.val, 11), (z.toBits, 6), (x.val, 2), (o.toBits, 0)]
  | .amo d a b f w o => fields 0x5C000000 [(d.val, 21), (a.val, 16), (b.val, 11), (f.toBits, 5), (w.toBits, 2), (o.toBits, 0)]
  | .cas d a b w o => fields 0x5C000120 [(d.val, 21), (a.val, 16), (b.val, 11), (w.toBits, 2), (o.toBits, 0)]
  | .fadd d a b f o => fields 0x5C000140 [(d.val, 21), (a.val, 16), (b.val, 11), (f.toBits, 5), (o.toBits, 0)]
  | .fenceFull s => fields 0x60000000 [(s.toBits, 0)]
  | .fenceAcq s => fields 0x60000020 [(s.toBits, 0)]
  | .fenceRel s => fields 0x60000040 [(s.toBits, 0)]
  | .fencePath => 0x60000064
  | .fenceWin => 0x60000085
  | .qbind d q => fields 0x64000000 [(d.val, 21), (q.val, 17)]
  | .qwait q n => fields 0x64000001 [(q.val, 17), (n.val, 9)]
  | .qrsv q n => fields 0x64000002 [(q.val, 17), (n.val, 9)]
  | .qpush q n => fields 0x64000003 [(q.val, 17), (n.val, 9)]
  | .qpop q n => fields 0x64000004 [(q.val, 17), (n.val, 9)]
  | .qldv d q n => fields 0x64000005 [(d.val, 21), (q.val, 17), (n.val, 9)]
  | .qstv d q n => fields 0x64000006 [(d.val, 21), (q.val, 17), (n.val, 9)]
  | .vadd d a b r => fields 0x68000000 [(d.val, 21), (a.val, 16), (b.val, 11), (r.toBits, 0)]
  | .vsub d a b r => fields 0x68000020 [(d.val, 21), (a.val, 16), (b.val, 11), (r.toBits, 0)]
  | .vmul d a b r => fields 0x68000040 [(d.val, 21), (a.val, 16), (b.val, 11), (r.toBits, 0)]
  | .vfma d a b r => fields 0x68000060 [(d.val, 21), (a.val, 16), (b.val, 11), (r.toBits, 0)]
  | .vfms d a b r => fields 0x68000080 [(d.val, 21), (a.val, 16), (b.val, 11), (r.toBits, 0)]
  | .vmin d a b => fields 0x680000A0 [(d.val, 21), (a.val, 16), (b.val, 11)]
  | .vmax d a b => fields 0x680000C0 [(d.val, 21), (a.val, 16), (b.val, 11)]
  | .vabs d a => fields 0x680000E0 [(d.val, 21), (a.val, 16)]
  | .vneg d a => fields 0x68000100 [(d.val, 21), (a.val, 16)]
  | .vdiv d a b r => fields 0x68000120 [(d.val, 21), (a.val, 16), (b.val, 11), (r.toBits, 0)]
  | .vsqrt d a r => fields 0x68000140 [(d.val, 21), (a.val, 16), (r.toBits, 0)]
  | .vrcp d a r => fields 0x68000160 [(d.val, 21), (a.val, 16), (r.toBits, 0)]
  | .vrsq d a r => fields 0x68000180 [(d.val, 21), (a.val, 16), (r.toBits, 0)]
  | .vexp2 d a r => fields 0x680001A0 [(d.val, 21), (a.val, 16), (r.toBits, 0)]
  | .vlog2 d a r => fields 0x680001C0 [(d.val, 21), (a.val, 16), (r.toBits, 0)]
  | .vcmp d a b c => fields 0x6C000000 [(d.val, 21), (a.val, 16), (b.val, 11), (c.toBits, 5)]
  | .vsel d a b => fields 0x6C000100 [(d.val, 21), (a.val, 16), (b.val, 11)]
  | .viadd d a b s e => fields 0x70000000 [(d.val, 21), (a.val, 16), (b.val, 11), (s.toNat, 3), (e.toBits, 0)]
  | .visub d a b s e => fields 0x70000020 [(d.val, 21), (a.val, 16), (b.val, 11), (s.toNat, 3), (e.toBits, 0)]
  | .vimul d a b e => fields 0x70000040 [(d.val, 21), (a.val, 16), (b.val, 11), (e.toBits, 0)]
  | .vand d a b => fields 0x70000060 [(d.val, 21), (a.val, 16), (b.val, 11)]
  | .vor d a b => fields 0x70000080 [(d.val, 21), (a.val, 16), (b.val, 11)]
  | .vxor d a b => fields 0x700000A0 [(d.val, 21), (a.val, 16), (b.val, 11)]
  | .vshl d a b e => fields 0x700000C0 [(d.val, 21), (a.val, 16), (b.val, 11), (e.toBits, 0)]
  | .vshr d a b t e => fields 0x700000E0 [(d.val, 21), (a.val, 16), (b.val, 11), (t.toNat, 2), (e.toBits, 0)]
  | .vbcast d a => fields 0x74000000 [(d.val, 21), (a.val, 16)]
  | .vextr d a lane => fields 0x74000020 [(d.val, 21), (a.val, 16), (lane.val, 0)]
  | .vins d a lane => fields 0x74000040 [(d.val, 21), (a.val, 16), (lane.val, 0)]
  | .vperm d a b => fields 0x74000060 [(d.val, 21), (a.val, 16), (b.val, 11)]
  | .vscan d a k => fields 0x74000080 [(d.val, 21), (a.val, 16), (k.toBits, 0)]
  | .vredadd d a r => fields 0x78000000 [(d.val, 21), (a.val, 16), (r.toBits, 0)]
  | .vredmax d a t => fields 0x78000020 [(d.val, 21), (a.val, 16), (t.toBits, 2)]
  | .vredmin d a t => fields 0x78000040 [(d.val, 21), (a.val, 16), (t.toBits, 2)]
  | .vpopc d a => fields 0x78000060 [(d.val, 21), (a.val, 16)]
  | .vffs d a => fields 0x78000080 [(d.val, 21), (a.val, 16)]
  | .vcvt d a r => fields 0x7C000000 [(d.val, 21), (a.val, 16), (r.toBits, 0)]
  | .vqnt d a b => fields 0x7C000020 [(d.val, 21), (a.val, 16), (b.val, 11)]
  | .vdqnt d a b => fields 0x7C000040 [(d.val, 21), (a.val, 16), (b.val, 11)]
  | .mzero t e => fields 0x80000000 [(t.val, 22), (e.val, 7)]
  | .manchor t k e => fields 0x80000001 [(t.val, 22), (k.val, 8), (e.val, 7)]
  | .mma t a b k e => fields 0x80000002 [(t.val, 22), (a.val, 19), (b.val, 16), (k.val, 8), (e.val, 7)]
  | .mmas t a b k e => fields 0x80000003 [(t.val, 22), (a.val, 19), (b.val, 16), (k.val, 8), (e.val, 7)]
  | .mres t a k e => fields 0x84000000 [(t.val, 22), (a.val, 19), (k.val, 8), (e.val, 7)]
  | .mresc t e => fields 0x84000001 [(t.val, 22), (e.val, 7)]
  | .mrd t d k e => fields 0x84000002 [(t.val, 22), (d.val, 16), (k.val, 8), (e.val, 7)]
  | .mcmp t d k e => fields 0x84000003 [(t.val, 22), (d.val, 16), (k.val, 8), (e.val, 7)]
  | .msave t a e => fields 0x84000004 [(t.val, 22), (a.val, 19), (e.val, 7)]
  | .mload t a e => fields 0x84000005 [(t.val, 22), (a.val, 19), (e.val, 7)]
  | .mmerge t a e => fields 0x88000000 [(t.val, 22), (a.val, 19), (e.val, 7)]
  | .mrstl k => fields 0x88000001 [(k.val, 8)]
  | .mwait t e => fields 0x88000002 [(t.val, 22), (e.val, 7)]
  | .astep e o q n g => fields 0x8C000000 [(e.toNat, 25), (o.val, 21), (q.val, 17), (n.val, 9), (g.val, 6)]
  | .astepx d q n g => fields 0x8C000001 [(d.val, 21), (q.val, 17), (n.val, 9), (g.val, 6)]
  | .aload a g => fields 0x90000000 [(a.val, 16), (g.val, 0)]
  | .aset a b g => fields 0x90000020 [(a.val, 16), (b.val, 11), (g.val, 0)]
  | .atok a g => fields 0x90000040 [(a.val, 16), (g.val, 0)]
  | .acomp d a b => fields 0x90000060 [(d.val, 21), (a.val, 16), (b.val, 11)]
  | .asel d a b => fields 0x90000080 [(d.val, 21), (a.val, 16), (b.val, 11)]
  | .amask d b g => fields 0x900000A0 [(d.val, 21), (b.val, 11), (g.val, 0)]
  | .aforce d b g => fields 0x900000C0 [(d.val, 21), (b.val, 11), (g.val, 0)]
  | .aget d g => fields 0x900000E0 [(d.val, 21), (g.val, 0)]
  | .apush a g => fields 0x90000100 [(a.val, 16), (g.val, 0)]
  | .apop d g => fields 0x90000120 [(d.val, 21), (g.val, 0)]
  | .tbind a b => fields 0x94000000 [(a.val, 16), (b.val, 11)]
  | .tbindm a b => fields 0x94000020 [(a.val, 16), (b.val, 11)]
  | .tunbind a => fields 0x94000040 [(a.val, 16)]
  | .topen d a => fields 0x94000060 [(d.val, 21), (a.val, 16)]
  | .topenw d a b => fields 0x94000080 [(d.val, 21), (a.val, 16), (b.val, 11)]
  | .tclose a => fields 0x940000A0 [(a.val, 16)]
  | .tinfo d a i => fields 0x940000C0 [(d.val, 21), (a.val, 16), (i.val, 0)]
  | .thaddr d a b => fields 0x940000E0 [(d.val, 21), (a.val, 16), (b.val, 11)]
  | .spawn d a => fields 0x98000000 [(d.val, 21), (a.val, 16)]
  | .nend => 0x98000020
  | .nwait a => fields 0x98000040 [(a.val, 16)]
  | .barr a c => fields 0x98000060 [(a.val, 16), (c.val, 0)]
  | .yardAny d a => fields 0x98000080 [(d.val, 21), (a.val, 16)]
  | .yardAll d a => fields 0x98000081 [(d.val, 21), (a.val, 16)]
  | .yardDet => 0x98000082
  | .cpy d a b l n r q => fields 0x9C000000 [(d.val, 21), (a.val, 16), (b.val, 11), (l.toNat, 3), (n.toNat, 2), (r.toNat, 1), (q.toNat, 0)]
  | .cpyx d a b l n r q => fields 0x9C000020 [(d.val, 21), (a.val, 16), (b.val, 11), (l.toNat, 3), (n.toNat, 2), (r.toNat, 1), (q.toNat, 0)]
  | .sealOut d a b n r q => fields 0x9C000040 [(d.val, 21), (a.val, 16), (b.val, 11), (n.toNat, 2), (r.toNat, 1), (q.toNat, 0)]
  | .evcfg a b => fields 0x9C000060 [(a.val, 16), (b.val, 11)]
  | .evwait a => fields 0x9C000080 [(a.val, 16)]
  | .gcommit g => fields 0xA0000000 [(g.val, 0)]
  | .gdrop g => fields 0xA0000020 [(g.val, 0)]
  | .trap c => fields 0xA4000000 [(c.val, 8)]
  | .eret => 0xA4000001
  | .uret => 0xA4000002
  | .sysr d i => fields 0xA4000003 [(d.val, 21), (i.val, 8)]
  | .sysw a i => fields 0xA4000004 [(a.val, 16), (i.val, 8)]
  | .swpwp a => fields 0xA4000005 [(a.val, 16)]
  | .hbeat => 0xA4000006
  | .wfe => 0xA4000007
  | .halt => 0xA4000008
  | .spill => 0xA4000009
  | .wmon a => fields 0xA400000A [(a.val, 16)]
  | .rdtime d => fields 0xA400000B [(d.val, 21)]
  | .rdwin d => fields 0xA400000C [(d.val, 21)]
  | .permix d a k => fields 0xA400000D [(d.val, 21), (a.val, 16), (k.val, 8)]
  | .hnop p => fields 0xFC000000 [(p.val, 0)]
  | .hintType8to15 t p => fields 0xFE000000 [(t.val, 22), (p.val, 0)]
  | .himm p => fields 0xFC400000 [(p.val, 0)]
  | .hfmt a b o s x => fields 0xFC800000 [(a.val, 17), (b.val, 12), (o.val, 7), (s.val, 5), (x.toNat, 4)]
  | .hscope s => fields 0xFCC00000 [(s.toBits, 0)]
  | .hrealign n => fields 0xFD000000 [(n.val, 0)]
  | .hpromo p => fields 0xFD400000 [(p.val, 0)]
  | .hguard g => fields 0xFD800000 [(g.val, 0)]
  | .hnt => 0xFDC00000
  | _ => 0

/-- The word of an instruction. -/
def encode (i : Instr) : Word := BitVec.ofNat 32 (encodeNat i)

/-- The instruction in a word whose bits are w, numbered as spec/opcode_table.json numbers them. Every Hyzer word has 32
bits (R49), so bits above nbits are zero. -/
def decodeTableWord (nbits w : Nat) : Option Instr :=
  match decode (BitVec.ofNat 32 (w % 2 ^ nbits)) with
  | .ok i => some i
  | .error _ => none

end Sys2Proof
end

