-- ==== Sys2Proof/Config.lean ====
section
/-!
DEFINITION. What the part fixes (spec/00_scope.md R2) and the free values, each an opaque constant that nothing in Lean can
evaluate. A free value that must be fresh each time is applied to the counter State.fresh.
-/
namespace Sys2Proof.Config

/-- Cores of the module (R2). -/
def cores : Nat := 8192
/-- Clusters of the module (R2). -/
def clusters : Nat := 128
/-- Bytes of a core's LM (R2). -/
def lmBytes : Nat := 131072
/-- Bytes of a cluster's SRAM (R2). -/
def sramBytes : Nat := 4194304
/-- Bytes of the module's HBM (R2). -/
def hbmBytes : Nat := 1099511627776
/-- Bytes of a workspace (R11). -/
def wsBytes : Nat := 0xB00
/-- The reset heartbeat interval (R27). -/
def hbivlReset : Nat := 1048576
/-- Store-buffer entries of a core (R127). -/
def sbEntries : Nat := 8
/-- Cycles after which a store-buffer entry is sent (R127). -/
def sbTimeout : Nat := 512
/-- Entries of a ready pool and of a deferred list (R260). -/
def poolEntries : Nat := 4096
def deferredEntries : Nat := 256
/-- Nodes a lease unit works on at a time (R261). -/
def leaseUnitNodes : Nat := 64
/-- The quantum of deficit round robin (R264). -/
def quantum : Int := 1048576
/-- Records a cluster's fault unit and the directory hold (R309, R289). -/
def faultUnitRecords : Nat := 32
def directoryRecords : Nat := 256
/-- Table limits of the directory (R213, R293). -/
def nameLimit : Nat := 65536
def objectLimit : Nat := 131072
def openLimit : Nat := 1048576
def waitLimit : Nat := 4096
/-- Bytes of a cluster's commit buffer (R272). -/
def commitBytes : Nat := 65536
/-- Commands a copy engine and the seal engine queue (R224, R358). -/
def copyQueue : Nat := 16
def sealQueue : Nat := 512
/-- Instruction words of a routine store (R325). -/
def routineWords : Nat := 16384

/-- FREE VALUE (log 2). Which of several possible next steps comes next: the manual orders them no further (R5). -/
opaque pick : Nat → Nat
/-- FREE VALUE (log 18). How many cycles above its least value a cost that the manual bounds takes (R5). -/
opaque latency : Nat → Nat
/-- FREE VALUE (log 19). EVAL of a trap whose cause the manual gives no value for (R27, R236). -/
opaque openEval : Nat → BitVec 64
/-- FREE VALUE (log 21). What a host or a peer package answers to a read that a unit of the module makes inside one step. -/
opaque remoteByte : Nat → Nat → BitVec 8
/-- FREE VALUE (log 30). Whether a fetch of a word that has been written since the launch takes its old form (R68). -/
opaque oldForm : Nat → Bool
/-- FREE VALUE (log 29). The correction of TIME in a microsecond: 0, 1 or 2 for a nanosecond less, none, or one more (R338). -/
opaque slew : Nat → Nat
/-- FREE VALUE (log 32). Whether a fenced core passes its built-in test (R274). -/
opaque testPasses : Nat → Bool
/-- FREE VALUE (log 33). Whether a message takes a place of the last flit that waits on its link, or begins a new one (R335). -/
opaque packs : Nat → Bool
/-- FREE VALUE (log 128). The link that an answer to another package takes (log 128). -/
opaque answerLink : Nat → Nat
/-- FREE VALUE (log 105). Whether a copy is granted a reservation for data that a slice forwards before its CRC check (R314). -/
opaque forwards : Nat → Bool
/-- FREE VALUE (log 104). The key of a world, and the group key of a world's packages, since the n-th module start: 32 bytes (R353,
R355). -/
opaque worldKey : Nat → BitVec 4 → List (BitVec 8)
opaque groupKey : Nat → BitVec 4 → List (BitVec 8)
/-- FREE VALUE (log 104). The bytes of a line that a slice holds sealed for a world, read through a leaf of another world. -/
opaque foreignByte : Nat → Nat → BitVec 8
/-- FREE VALUE (log 106). What the answer to another package's read carries that this module's firewall denies, or that meets a word
which cannot be corrected. -/
opaque deniedByte : Nat → Nat → BitVec 8
/-- FREE VALUE (log 9). The carry word that a promotion leaves in an element (R89). -/
opaque carryWord : Nat → BitVec 96
/-- FREE VALUE (log 10). The signature bytes and the first bytes of the hashed key of a seal record (R358). -/
opaque sealSignature : Nat → List (BitVec 8) → List (BitVec 8)
opaque sealKeyId : List (BitVec 8)
/-- FREE VALUE (log 10). The signature under attestation evidence (R357). -/
opaque attestSignature : Nat → List (BitVec 8) → List (BitVec 8)
/-- FREE VALUE (log 10). The measurement of the monitor image (R357). -/
opaque monitorMeasurement : List (BitVec 8)
/-- FREE VALUE (log 11). The index a new object takes among the free ones (R298, "the directory's choice"). -/
opaque objectIndex : Nat → Nat
/-- FREE VALUE (log 12). The placement chosen among the free ones (R266). -/
opaque placement : Nat → Nat
/-- FREE VALUE (log 13). The line a fill of the cluster cache and the entry a fill of a TLB replaces (R303, R321). -/
opaque victim : Nat → Nat
/-- FREE VALUE (log 14). The number of router links, where their snapshots lie, and what their counters have
counted between two latches (R364). -/
opaque linkCount : Nat
opaque snapshotFrame : Nat
opaque linkGain : Nat → Nat → BitVec 32
/-- FREE VALUE (log 14). The soft errors corrected in a die since they were last asked for, which nothing else shows (R314). -/
opaque softGain : Nat → Nat → Nat
/-- FREE VALUE (log 118). A bus address behind port 1 is memory of the host that the management endpoint serves, and not of the devices
below the root port beside it (R344, R346). -/
opaque managementHost : Nat → Bool
/-- FREE VALUE (log 15). What the n-th module start meets (R366). -/
opaque bootScript : Nat → BootScript
/-- FREE VALUE (log 16). The bytes of a save area whose spill met a node end (R313). -/
opaque undefinedByte : Nat → BitVec 8
/-- FREE VALUE (log 17). What a device answers to a configuration read through ECAM (R344). -/
opaque ecamData : Nat → Nat → BitVec 64

end Sys2Proof.Config
end

