-- ==== Sys2Proof/Machine/State.lean ====
section
/-!
DEFINITION. The state of the Decax module as plain data (spec/01_machine_state.md and the chapters that INVENTORY.md's
State list names). A module has 65,536 slots, 8,192 cores and 128 clusters; State lists only those that differ from their
reset values.
-/
namespace Sys2Proof.Machine

/-! ## Values -/

/-- Memory: bytes at flat addresses, strictly rising, none zero (an unlisted byte reads zero). `Home.key` gives the flat
address of a byte of HBM, of a core's LM, of a cluster's SRAM or of a transform slot's LM. -/
abbrev Memory := List Host.Cell

/-- What an address that Memory does not list reads as: zero. DESIGN CHOICE, unsafe: the manual gives no contents of LM,
SRAM and HBM at power-on (log 1). -/
def Memory.unlisted : Byte := 0

/-- The canonical form: addresses strictly rising, no entry equal to what an unlisted address reads as. -/
def Memory.wf : Memory → Bool
  | [] => true
  | [(_, b)] => b != Memory.unlisted
  | (a, b) :: (a', b') :: rest => b != Memory.unlisted && decide (a < a') && Memory.wf ((a', b') :: rest)

/-- The cause codes of R31. -/
inductive Cause where
  | illegal | priv | align | lease | wsalias | world | operand | autoStack | autoTable | window | heartbeat | mcheck
  | trapi | directory | qtimeout | badhdr | roster
  deriving DecidableEq, Repr

/-- A place where a byte is performed (R244), or where an access leaves the module. -/
inductive Home where
  /-- The LM of a core. -/
  | lm (core off : Nat)
  /-- The SRAM of a cluster. -/
  | sram (cl off : Nat)
  /-- The memory-side slice in front of this module's HBM. -/
  | hbm (pa : Nat)
  /-- Host memory behind a port (R341). -/
  | host (port bus : Nat)
  /-- HBM of a peer package (R336). -/
  | peer (pkg pa : Nat)
  /-- Control space (R304). -/
  | ctl (pa : Nat)
  /-- The LM of a transform slot (R326). -/
  | xlm (unit off : Nat)
  deriving DecidableEq, Repr

/-- The sharing class of a page (R246); `own` is the class the manual calls PRIVATE. -/
inductive Share where
  | own | shared | hostcoh
  deriving DecidableEq, Repr

/-- STATUS (R29); PPB is the OR of HPEND and is no field of its own. Bit t - 1 of hpend stands for hint type t. -/
structure Status where
  priv : BitVec 2
  uie : Bool
  inui : Bool
  gout : BitVec 4
  hpend : BitVec 7
  hdup : Bool
  hscope : BitVec 3
  hguard : BitVec 2
  hpromo : BitVec 2
  deriving DecidableEq, Repr

/-- The three payload words of pending hints (R21). -/
structure Payloads where
  himm : BitVec 22
  hfmt : BitVec 22
  hreal : BitVec 22
  deriving DecidableEq, Repr

/-- An active loop-stack entry (R19). -/
structure LoopEntry where
  len : BitVec 13
  count : BitVec 48
  start : VAddr
  deriving DecidableEq, Repr

/-- The contents of a workspace (R11), held in the register cache while the slot is resident (R15, R16). -/
structure Workspace where
  s : Vector DWord 32
  p : Vector DWord 8
  v : Vector VecWord 32
  q : Vector QWord 16
  loopSave : Vector QWord 4
  shadow : Vector DWord 8
  statusSave : DWord
  himmSave : DWord
  hfmtSave : DWord
  hrealSave : DWord
  deriving DecidableEq, Repr

/-- A zero-filled workspace (R13). -/
def Workspace.zero : Workspace :=
  { s := Vector.replicate 32 0, p := Vector.replicate 8 0, v := Vector.replicate 32 0, q := Vector.replicate 16 0,
    loopSave := Vector.replicate 4 0, shadow := Vector.replicate 8 0, statusSave := 0, himmSave := 0, hfmtSave := 0,
    hrealSave := 0 }

/-! ## What a slot waits for -/

/-- A leaf of a translation table (R301): its level, the index of the page it maps (the virtual address without the page's
own bits), its word and the physical address it lies at. -/
structure Leaf where
  level : Nat
  vpn : Nat
  word : DWord
  addr : Nat
  deriving DecidableEq, Repr

/-- One access of a load, gather, scatter or atomic (R124 to R131): its home, its effective address, its size, and the leaf
that maps a global address. -/
structure LaneReq where
  home : Home
  ea : DWord
  n : Nat
  leaf : Option Leaf
  deriving DecidableEq, Repr

/-- Where the value of an access goes. -/
inductive AccessDest where
  /-- LD into s register d, extended from n bytes by sign or by zeros (R125). -/
  | load (d : Reg) (n : Nat) (sx : Bool)
  /-- LDV into v register d. -/
  | vector (d : Reg)
  /-- GATH into v register d. -/
  | gather (d : Reg)
  /-- AMO, CAS and FADD: the old value goes to s register d (R131). -/
  | atomic (d : Reg) (req : AtomicReq)
  deriving DecidableEq, Repr

/-- A load or atomic on its way: it completes with ACCESS_RESPONSE, READ_DATA or ATOMIC_DATA. -/
structure AccessReq where
  /-- The accesses still to be performed, in order. -/
  lanes : List LaneReq
  /-- What those before them read. -/
  got : List (List Byte)
  dest : AccessDest
  /-- The pointer update of a post-increment mode (R123). -/
  upd : Option (PReg × DWord)
  acq : Option Scope
  hnt : Bool
  /-- The tag of the Vexey request that carries the next access, once admitted (R335). -/
  tag : Option Nat
  deriving DecidableEq, Repr

/-- The lane bookkeeping of ASTEPX (R199, R200). -/
structure RunLane where
  ran : Bool
  start : Nat
  alive : Bool
  miss : Bool
  touch : Bool
  emits : Nat
  base : Nat
  low : Nat
  /-- Its blind steps (R200, R209). -/
  blind : Nat
  deriving DecidableEq, Repr

/-- An ASTEP or ASTEPX being stepped by the Automaton Engine (R195 to R200). -/
structure StreamJob where
  group : Nat
  qin : QReg
  qout : Option QReg
  n : Nat
  done : Nat
  /-- The register pair and the lanes of an ASTEPX. -/
  run : Option (Reg × List RunLane)
  /-- Bytes already written to the output slot at POS. -/
  outFill : Nat
  /-- Emissions of symbols already stepped that still wait for room. -/
  pendingOut : List (BitVec 32)
  /-- The input slot the engine holds was acquired (R196). -/
  acquired : Bool
  /-- The instruction was taken up again after a spill: the slot's PC is already the next word (R208). -/
  resumed : Bool
  /-- The instruction's word (R208). -/
  word : Word
  /-- The first cycle in which the next symbol may be stepped: one for each cycle, ring waits apart (R209). -/
  paced : Nat
  /-- The address of the read that a Vexey port does not admit (R48, R138). -/
  port : Option DWord
  deriving DecidableEq, Repr

/-- Why a word that cannot complete yet stays at issue (R312): it issues again with its operands as they then stand. -/
inductive Stall where
  | tile | node | event | pool | commitBuffer | commit | queue | notify | waitTable | faultUnit | nendWork | fence
  | fabric | yard
  /-- The word's own access waits for a Vexey port (R138). -/
  | port (ea : DWord)
  deriving DecidableEq, Repr

/-- What a slot is doing between two issues. -/
inductive Wait where
  | none
  /-- A load, gather or atomic on its way. -/
  | access (r : AccessReq)
  /-- QWAIT or QRSV (R136). -/
  | ring (q : QReg) (n : Nat) (producer : Bool)
  /-- A word that will issue again. -/
  | stall (why : Stall)
  /-- BARR: arrived in round r of counter c (R221). -/
  | barrier (c round : Nat)
  /-- TOPENW (R215): destination, name, cycle of the timeout. -/
  | name (d : Reg) (name : Nat) (until_ : Nat)
  /-- WFE (R234). -/
  | monitor
  /-- ASTEP, ASTEPX (R196). -/
  | stream (j : StreamJob)
  /-- FENCE.win until window w begins (R133). -/
  | window (w : Nat)
  /-- The realignment of R47 until a cycle. -/
  | realign (until_ : Nat)
  /-- SPILL has completed, and the spill engine has still to take the slot (R233). -/
  | spill
  deriving DecidableEq, Repr

/-- Whether a slot holds a thread and whether it issues. -/
inductive RunState where
  | vacant | running | parked | halted
  /-- The member has executed NEND and stopped issuing (R219). -/
  | ended
  deriving DecidableEq, Repr

/-- Where a STEP of a parked slot stands (R361): none is asked, the word is due, or it has begun. -/
inductive Stepping where
  | no | due | begun
  /-- A PARK has been asked for while a word is in flight: the slot parks once the word has completed (R362). -/
  | parking
  deriving DecidableEq, Repr

/-- The role of a member in its yard (R30). -/
inductive Role where
  | leader | follower | detached
  deriving DecidableEq, Repr

/-- A word the halyard carries to a follower, with its address, the cycle in which it arrives, and the leader's next PC once
the leader has completed it (R269). The leader's pending hints are those of the hint words before it, which are carried as
well. -/
structure Forwarded where
  pc : VAddr
  word : Word
  next : Option VAddr
  ready : Nat
  /-- The follower has completed the word and has still to compare its next PC (R270). -/
  ran : Bool
  deriving DecidableEq, Repr

/-- A completed `.nfy` command not yet taken (R39, R227). -/
structure Notify where
  ucause : DWord
  acq : Option Scope
  deriving DecidableEq, Repr

/-- The monitor of WMON (R234): the pointer armed, its line, and whether a write tripped it. -/
structure Monitor where
  ptr : DWord
  line : Home
  tripped : Bool
  deriving DecidableEq, Repr

/-- What a word in flight has claimed and does not own yet (R34, R36): a tile of an engine, or a lane group; or a place among those who
wait for the directory (R289). -/
inductive Claim where
  | tile (e t : Nat)
  | group (g : Nat)
  | directory
  deriving DecidableEq, Repr

/-- A thread in its slot (R10, R27 to R30, R38). -/
structure Thread where
  id : SlotId
  run : RunState
  node : Nat
  role : Role
  rank : Nat
  width : Nat
  kind : Bool
  prio : BitVec 2
  stage : BitVec 8
  pc : VAddr
  wp : Nat
  ws : Workspace
  /-- Active entries, innermost first (R19). -/
  loops : List LoopEntry
  status : Status
  pay : Payloads
  epc : DWord
  ecause : DWord
  eval : DWord
  utvec : DWord
  uivec : DWord
  upc : DWord
  ucause : DWord
  stvec : DWord
  hbivl : DWord
  hbcnt : Nat
  asid : BitVec 16
  world : BitVec 4
  mrstl : DWord
  savea : DWord
  monitor : Option Monitor
  notifies : List Notify
  wait : Wait
  nextIssue : Nat
  /-- A notify held over a spill or park is taken only after the first resumed word (R39). -/
  justResumed : Bool
  /-- The realignment of the pending HREALIGN has ended (R47). -/
  realigned : Bool
  /-- A parked slot lets one word issue (R361, STEP). -/
  stepping : Stepping
  fifo : List Forwarded
  lastWindow : Option Nat
  /-- Store-buffer lines from which earlier loads took bytes (R252). -/
  readLines : List Home
  /-- The halyard has carried the word in flight to the followers (R269). -/
  sent : Bool
  /-- A word has issued and is not completed. -/
  inWord : Bool
  /-- That word: a stalled one issues again as it was fetched. -/
  word : Word
  /-- The instruction met one residue mismatch and issues again (R95). -/
  retried : Bool
  /-- The instruction met a second mismatch, and its record waits for room in the fault unit (R95, R309). -/
  failed : Bool
  /-- HBCNT has reached HBIVL in a wait for a Vexey port, which ended in WINDOW and not in a fence, and no HBEAT has come since
  (R48, R274). -/
  hbMet : Bool
  /-- The line of text that the fetch port delivered last (R271). -/
  line : Option Home
  /-- What a store or SCAT that stalls has done already: lanes of a SCAT, or 1 for a store that an acquire awaits. -/
  progress : Nat
  /-- The window words that the instruction in flight has read: each is read once, at issue (R162). -/
  geo : List DWord
  /-- A supervisor trap has been entered and no ERET has left it: what Typel samples as a handler (R363). -/
  handling : Bool
  /-- What the instruction in flight has claimed at its issue: a claim that ends with it unless it completes (R34, R36, R174, R317). -/
  claims : List Claim
  deriving DecidableEq, Repr

/-! ## Nodes -/

/-- Where a node stands (R260, R276). -/
inductive Phase where
  | deferred | leasing
  /-- A leased page is not resident and the record is posted (R261). -/
  | pageWait
  | ready | placed | running | spilled | ended
  deriving DecidableEq, Repr

/-- A granted lease range and the translations pinned for it (R261, R302). -/
structure Grant where
  base : Nat
  len : Nat
  rw : Bool
  pins : List Leaf
  obj : Option Nat
  deriving DecidableEq, Repr

/-- A cause that ends a node, with the reporting member and words of R367. -/
structure Ending where
  cause : Cause
  cls : BitVec 8
  member : SlotId
  pc : DWord
  eval : DWord
  /-- Core (0,0) of slot 0 stands for no member: an end before launch. -/
  before : Bool
  /-- The row of R367's table that gives the reporting member, from 0: of two ends in one cycle the first row applies. -/
  row : Nat
  deriving DecidableEq, Repr

/-- What is still to be done of a node's end (R219). -/
inductive EndStep where
  /-- Its engine commands are settled (R219, R359). -/
  | settle
  /-- What it held is cleared. -/
  | clear
  /-- Every line of its members is performed. -/
  | release
  /-- The status record is written. -/
  | status
  /-- The status record is performed: its host is signalled (R343), and the end is reported (R309). -/
  | signal
  /-- The successor list is read. -/
  | list
  /-- DEPS of these successors is decremented in turn. -/
  | deps (left : List DWord)
  /-- The successors that are due are submitted in turn. -/
  | submit
  deriving DecidableEq, Repr

/-- A node that has ended: its cause, if one ended it, the PC of its status record, what comes next, and the successors whose DEPS
has reached zero (R219). -/
structure Finishing where
  cause : Option Ending
  pc : DWord
  step : EndStep
  due : List DWord
  deriving DecidableEq, Repr

/-- A member's place, and what happened to it. -/
structure Member where
  id : SlotId
  ended : Bool
  spilled : Bool
  deriving DecidableEq, Repr

/-- A tile engine's instruction (R158, R159). -/
inductive TileOp where
  | mzero | manchor | mma | mmas | mres | mresc | msave | mload | mmerge
  deriving DecidableEq, Repr

/-- An outstanding tile instruction (R159, R160): its tile, word, pointers, window words, formats of HFMT, promotion
interval, and the units done. -/
structure TileJob where
  slot : SlotId
  node : Nat
  op : TileOp
  tile : Nat
  word : Word
  pc : VAddr
  pa : DWord
  pb : DWord
  win : List DWord
  fmtA : Nat
  fmtB : Nat
  fmtO : Nat
  scale : Nat
  side : Bool
  promo : Nat
  done : Nat
  /-- The step met a residue mismatch and is repeated (R96). -/
  retried : Bool
  /-- Slots whose instructions have done a unit since its last one (R160). -/
  served : List SlotId
  deriving DecidableEq, Repr

/-- One accumulator element (R85): V = trunc96(S + C), the carry word C and the flags. The sum word S is V - C. -/
structure TileElem where
  v : BitVec 96
  c : BitVec 96
  ovf : Bool
  inx : Bool
  nan : Bool
  infp : Bool
  infn : Bool
  deriving DecidableEq, Repr

/-- An accumulator tile (R34, R85): owner, anchor, form (R169), and the elements by index 32 i + j; an element not listed is zero. -/
structure Tile where
  owner : Option SlotId
  av : Bool
  a : Int
  canon : Bool
  elems : List (Nat × TileElem)
  deriving DecidableEq, Repr

/-- A lane of the Automaton Engine (R36, R190): the stack's top is the head. -/
structure Lane where
  state : Nat
  rej : Bool
  stack : List Nat
  deriving DecidableEq, Repr

/-- The header of an automaton image (R186). -/
structure Image where
  pda : Bool
  n : Nat
  c : Nat
  token : Bool
  t : Nat
  limit : Nat
  v : Nat
  cmap : Nat
  trans : Nat
  outt : Nat
  mask : Nat
  len : Nat
  deriving DecidableEq, Repr

/-- A lane group (R183 to R185). -/
structure LaneGroup where
  owner : Option SlotId
  base : DWord
  img : Image
  xout : DWord
  xstr : Nat
  icur : Nat
  lanes : List Lane
  deriving DecidableEq, Repr

/-- A line of an image in a cluster's transition cache or mask cache (R207): the image, its address space, and the line. -/
structure ImageLine where
  cl : Nat
  mask : Bool
  asid : BitVec 16
  image : DWord
  line : Nat
  data : VecWord
  deriving DecidableEq, Repr

/-! ## Engine commands -/

/-- The kind of an engine command (R223). -/
inductive CmdKind where
  | cpy | cpyx | seal_
  deriving DecidableEq, Repr

/-- Where a command stands. -/
inductive CmdState where
  | queued | running
  /-- It has a completion code and waits for COMMAND_COMPLETION. -/
  | finishing (code : Nat)
  /-- Completed under a guard: its pulse and notify are held (R230). -/
  | held (code : Nat)
  deriving DecidableEq, Repr

/-- An engine command (R223 to R230). -/
structure Cmd where
  id : Nat
  kind : CmdKind
  slot : SlotId
  node : Nat
  /-- Cluster of the issuer and copy engine 0 to 3; SEAL commands are the seal engine's. -/
  cl : Nat
  engine : Nat
  src : DWord
  dst : DWord
  len : Nat
  routine : Nat
  tag : Nat
  arm : Bool
  term : Nat
  cnt : Bool
  ctr : Nat
  clr : Bool
  nfy : Bool
  acq : Bool
  scope : Scope
  hnt : Bool
  guard : Option Nat
  st : CmdState
  /-- Source bytes of the chunks done; for CPYX those written to the input ring. -/
  pos : Nat
  /-- Bytes of the chunk in progress already read, and how many of them are written. The expansion of R328 keeps its whole
  output here. -/
  buf : List Byte
  sent : Nat
  /-- Since when the chunk waits for a Vexey port (R138). -/
  since : Option Nat
  /-- When the engine was idle at issue: the cycle by which a source line that its slice holds is read (R137, R258). -/
  readBy : Option Nat
  /-- For CPYX: slots drained to the destination. -/
  drained : Nat
  pc : VAddr
  /-- The source or destination is a FIFO-mode ring (R324). -/
  fifoSrc : Bool
  fifoDst : Bool
  /-- An integrity failure was met once (R314). -/
  retried : Bool
  /-- The term that it is armed on was true at the start of a cycle (R229, R332). -/
  termMet : Bool
  /-- The output bound B of a transform, as it stood at issue (R325, R327). -/
  bound : Nat
  /-- Its writes stay in a reservation of the commit buffer until every read has passed its check (R314), the output so far, and the
  code it completes with once that is written. -/
  early : Bool
  output : List Byte
  fate : Option Nat
  deriving DecidableEq, Repr

/-- A write of a guarded command in the commit buffer (R272). -/
structure HeldWrite where
  slot : SlotId
  node : Nat
  guard : Nat
  cmd : Nat
  home : Home
  /-- The pointer it was written through. -/
  ea : DWord
  /-- A count of a ring (R136). -/
  ring : Bool
  n : Nat
  data : Nat
  deriving DecidableEq, Repr

/-- A reservation of the commit buffer (R272). -/
structure Reservation where
  cl : Nat
  slot : SlotId
  node : Nat
  guard : Nat
  bytes : Nat
  /-- The command that it is made for is not queued yet. -/
  pending : Bool
  deriving DecidableEq, Repr

/-- A crossbar counter (R228). -/
structure Counter where
  node : Option Nat
  value : Nat
  source : Nat
  slot : SlotId
  deriving DecidableEq, Repr

/-- A pulse that has reached the crossbar in this cycle (R332): of a command, which names a counter, or of a slot's instruction of a
source. -/
structure Pulse where
  cl : Nat
  ctr : Option Nat
  slot : SlotId
  source : Nat
  deriving DecidableEq, Repr

/-- A crossbar term (R228). -/
structure Term where
  node : Option Nat
  conds : DWord
  deriving DecidableEq, Repr

/-- A barrier counter (R221). -/
structure Barrier where
  node : Option Nat
  count : Nat
  arrived : Nat
  round : Nat
  deriving DecidableEq, Repr

/-! ## Memory hardware -/

/-- A store-buffer entry (R127, R245). A store to the LM of another core or to SRAM, whose message has left, is an entry
that is sent from the start and takes none of the 8 places. -/
structure SbEntry where
  line : Home
  share : Share
  mask : BitVec 64
  data : VecWord
  born : Nat
  sent : Bool
  /-- Its place in the order in which the core has sent its messages, from 1 (R127); 0 before it is sent. -/
  order : Nat
  /-- A count of a ring (R136), which a FIFO-mode bank takes into its control block (R321). -/
  ring : Bool
  /-- Slots whose stores it holds. -/
  writers : List Nat
  /-- The address spaces through which they were made (R306). -/
  asids : List (BitVec 16)
  world : BitVec 4
  /-- The target world of the line's page (R347, R353). -/
  target : BitVec 4
  /-- The line's address as a global-virtual pointer (R138). -/
  va : DWord
  /-- The line waits for a Vexey port (R138). -/
  waiting : Bool
  deriving DecidableEq, Repr

/-- A line of a cluster cache (R246, R321). -/
structure CacheLine where
  cl : Nat
  /-- The cache-mode bank that is its way. -/
  bank : Nat
  line : Home
  share : Share
  data : VecWord
  deriving DecidableEq, Repr

/-- Which TLB holds a translation (R303). -/
inductive TlbUnit where
  | itlb (core : Nat)
  | dtlb (core : Nat)
  | l2 (cl : Nat)
  deriving DecidableEq, Repr

/-- A cached translation of an address space. -/
structure TlbEntry where
  unit : TlbUnit
  asid : BitVec 16
  leaf : Leaf
  /-- It was refilled from a translation that a lease pins, and serves the accesses of leases alone (R303, R306). -/
  pinned : Bool
  deriving DecidableEq, Repr

/-- BANKCTL and BANKST of a bank and its bound-descriptor count (R320, R321). -/
structure Bank where
  assign : BitVec 32
  world : BitVec 4
  fcap : BitVec 4
  discard : Bool
  furl : Bool
  reqMode : BitVec 2
  refused : Bool
  furled : Bool
  mode : BitVec 2
  bound : Nat
  /-- The switch in progress: the mode and power it ends in (R322). -/
  switching : Option (BitVec 2 × Bool)
  /-- Stores that wait for the end of the switch (R323). -/
  held : List DWord
  deriving DecidableEq, Repr

/-- A routine of a cluster's store (R325). -/
structure Routine where
  cl : Nat
  num : Nat
  oadd : Nat
  omul : Nat
  words : List Word
  deriving DecidableEq, Repr

/-- RSNUM, RSST and the load in progress of a cluster's routine store (R320, R325). -/
structure RoutineCtl where
  rsnum : DWord
  busy : Bool
  fail : Bool
  /-- The image's physical address and the routine number of a load in progress. -/
  loading : Option (Nat × Nat)
  deriving DecidableEq, Repr

/-- A fault ring (R305, R309). -/
structure Ring where
  base : DWord
  log2 : DWord
  prod : BitVec 32
  cons : DWord
  deriving DecidableEq, Repr

/-- The unit that holds a record until its ring takes it (R309). -/
inductive RecordUnit where
  | fault (cl : Nat)
  | lease (die : Nat)
  | directory
  | port
  deriving DecidableEq, Repr

/-- A fault record (R309): its ring and its four words. -/
structure FaultRecord where
  unit : RecordUnit
  ring : Nat
  w0 : DWord
  w1 : DWord
  w2 : DWord
  w3 : DWord
  deriving DecidableEq, Repr

/-- A range of a core's LM that a node holds until it ends: a constant window, or a workspace (R352). -/
structure LmOwner where
  core : Nat
  off : Nat
  len : Nat
  node : Nat
  world : BitVec 4
  deriving DecidableEq, Repr

/-- What is particular to a core (R305, R310, R351, R268). -/
structure Core where
  fenced : Bool
  testing : Bool
  cstvec : DWord
  entries : List DWord
  lastTurn : Nat
  /-- The first cycle in which a slot of the core may take the next turn. -/
  nextTurn : Nat
  /-- Records about the core for which the fault unit of its cluster has no room yet (R309). -/
  owed : List FaultRecord
  deriving DecidableEq, Repr

/-! ## Directory -/

/-- A bound name (R213, R214): its 16 bytes as a number, and its object. -/
structure NameRec where
  name : Nat
  obj : Nat
  deriving DecidableEq, Repr

/-- Who waits for a directory operation (R289): a slot's word, the lease unit for a node, a node's end, the k-th message of a core with
a store to the directory's page (R283), or a debugger's WRITE to it. -/
inductive DirClient where
  | slot (id : SlotId)
  | lease (node : Nat)
  | end_ (node : Nat)
  | store (core order : Nat)
  | debug
  deriving DecidableEq, Repr

/-- A live object (R286, R288). -/
structure ObjRec where
  idx : Nat
  bound : Bool
  opens : Nat
  leases : Nat
  asid : BitVec 16
  ns : Nat
  fmt : DWord
  dims : List (BitVec 32)
  extents : List (DWord × Nat)
  len : Nat
  desc : DWord
  /-- SCOFF and SIDEOFF of the descriptor (R286). -/
  offsets : DWord
  deriving DecidableEq, Repr

/-- An open-table entry (R292); obj is none while it stands on the free list. -/
structure OpenEntry where
  idx : Nat
  gen : BitVec 24
  obj : Option Nat
  asid : BitVec 16
  deriving DecidableEq, Repr

/-- A TOPENW in the wait table (R293). -/
structure NameWait where
  slot : SlotId
  name : Nat
  asid : BitVec 16
  world : BitVec 4
  deriving DecidableEq, Repr

/-- The tensor directory (spec/16_directory.md). -/
structure Directory where
  grants : List (Nat × BitVec 128)
  names : List NameRec
  objs : List ObjRec
  opens : List OpenEntry
  /-- Entries never used stand from here up. -/
  unused : Nat
  /-- Freed entries, least recently freed first. -/
  freed : List Nat
  waits : List NameWait
  /-- Who waits while 256 records are held, in the order of arrival (R289). -/
  queue : List DirClient
  deriving DecidableEq, Repr

/-! ## Scheduler -/

/-- Deficit round robin of one class of a die (R264). -/
structure ClassList where
  active : List (BitVec 16)
  ptr : Option (BitVec 16)
  deficits : List (BitVec 16 × Int)
  deriving DecidableEq, Repr

/-- A reservation of a placement: of a node that was passed over for long (R265), or of one for which a running node is
spilled (R275). -/
structure Reserving where
  node : Nat
  cl : Nat
  slot : Nat
  victim : Option Nat
  deriving DecidableEq, Repr

/-- What is particular to a die (R260, R263 to R265, R365). -/
structure Die where
  pool : List Nat
  deferred : List Nat
  classes : List ClassList
  reserving : List Reserving
  nextDecision : Nat
  allowance : Nat
  deriving DecidableEq, Repr

/-- A member saved in its save area (R311, R312): what the area holds is read back from there on resumption, and what the hardware
keeps beside it stands here: the slot's place and identity, which tiles and groups it had, and the commands' notifies (log 24). -/
structure SavedMember where
  thr : Thread
  det : Bool
  lbl : Bool
  tiles : List (Nat × Nat × Tile)
  groups : List (Nat × LaneGroup)
  jobs : List (Nat × TileJob)
  window : List DWord
  area : Nat
  /-- The cycle in which it was saved. -/
  savedAt : Nat
  /-- Cycles that its resumption has waited for its tiles and lane groups (R35, R36). -/
  waited : Nat
  deriving DecidableEq, Repr

/-- A node of the module (R217, R218, R260). -/
structure Node where
  id : Nat
  record : DWord
  entry : VAddr
  cblk : DWord
  ltab : DWord
  succ : DWord
  stat : DWord
  savea : DWord
  width : Nat
  service : Bool
  prio : BitVec 2
  stage : BitVec 8
  world : BitVec 4
  asid : BitVec 16
  die : Nat
  phase : Phase
  /-- Cycle in which it became READY first (R263). -/
  readyAt : Nat
  /-- Cycle since which no placement has fitted (R265, R275). -/
  passedSince : Option Nat
  /-- Cycle in which it began to wait for a placement: READY, or spilled (R264). -/
  waitsFrom : Nat
  grants : List Grant
  members : List Member
  saved : List SavedMember
  reserved : List (Nat × Nat)
  ending : Option Ending
  /-- The cycle in which that cause ended it (R367). -/
  endedAt : Nat
  ends : Option Finishing
  /-- The banks of the rings that its members' descriptors are bound to, one for each binding counted (R321). -/
  binds : List (Nat × Nat)
  msix : Option (Nat × Nat)
  /-- Members the spill engine has still to take, and when the spill began (R310, R312). -/
  spillAsked : List SlotId
  spillAt : Nat
  /-- Cycle of the launch (R275). -/
  launchedAt : Nat
  /-- Cycle, rank and address of the NEND that came last (R367). -/
  nendAt : Nat
  nendRank : Nat
  nendPc : DWord
  /-- Words of HBM written since the launch, with what they held at the launch: text is fetched in either form (R68). -/
  oldText : List (Nat × Word)
  deriving DecidableEq, Repr

/-! ## Fabric, hosts, trust, Typel -/

/-- Who makes a request of a Vexey port besides the store buffers and the loads of slots. -/
inductive Agent where
  /-- A word of a slot that reads at homes, or a tile or automaton step that holds the slot. -/
  | slot (id : SlotId)
  /-- An outstanding instruction of a tile engine on a tile (R159). -/
  | tile (id : SlotId) (engine tile : Nat)
  /-- An engine command. -/
  | cmd (id : Nat)
  /-- The hardware that begins or ends a node. -/
  | node (id : Nat)
  /-- A host port, for a host or a device. -/
  | port (port : Nat)
  /-- The walker that revives the page of the entry at an address (R307). -/
  | walker (addr : Nat)
  deriving DecidableEq, Repr

/-- What a Vexey request carries (R337). -/
inductive VexeyReq where
  /-- A sent store-buffer line of a core. -/
  | line (core : Nat) (e : SbEntry)
  /-- The next access of a slot's load or atomic. -/
  | access (slot : SlotId)
  /-- A read of the next chunk of an engine command. -/
  | chunk (cmd : Nat)
  /-- A line read, an atomic, or a write, of another agent. -/
  | read (a : Agent)
  | atomic (a : Agent)
  | write (a : Agent)
  deriving DecidableEq, Repr

/-- A message with its payload, as it leaves on a link (R335); a sealed one's payload is the sealed form (R355). -/
structure Packet where
  msg : Message
  payload : VecWord
  /-- The operation of an atomic. -/
  atomic : Option AtomicReq
  deriving DecidableEq, Repr

/-- An admitted Vexey request that is not yet acknowledged (R248, R337). -/
structure VexeyItem where
  req : VexeyReq
  pkg : Nat
  world : BitVec 4
  tag : Nat
  window : Nat
  link : Nat
  /-- The cluster that asked, and the line it asked for: a write or an atomic that has been performed leaves no older copy of the
  line there (R246). -/
  cl : Nat
  line : Home
  /-- The cluster's copy of the line may be newer than what the answer brings (R245, R251). -/
  stale : Bool
  /-- The cluster has acquired since: the answer's SHARED line does not enter its cache (R246). -/
  past : Bool
  /-- An answer whose tag failed has come, and the request has been made once more (R314, R353). -/
  retried : Bool
  /-- What was sent, for the standby link to send again (R337). -/
  sent : Packet
  deriving DecidableEq, Repr

/-- A line that another package has answered an agent with, until the agent's step takes it: the line as read, or the old value of
an atomic. -/
structure PeerLine where
  who : Agent
  line : Home
  atomic : Bool
  /-- The answer's tag failed a second time (R314, R353). -/
  broken : Bool
  data : VecWord
  deriving DecidableEq, Repr

/-- The flits queued on a link (R337): when the last one will have left, in sevenths of a nanosecond, and its messages. -/
structure LinkQueue where
  link : Nat
  until7 : Nat
  fill : Nat
  deriving DecidableEq, Repr

/-- The revival of a discarded page on another package (R307): the leaf, and the lines zero-filled so far. -/
structure Revival where
  leaf : Leaf
  lines : Nat
  deriving DecidableEq, Repr

/-- A line of this module's HBM that a slice holds sealed for a protected world (R353), with its metadata. -/
structure SealedLine where
  line : Nat
  world : BitVec 4
  meta_ : Sealing
  /-- Its tag fails: the line was changed from outside (R353). -/
  broken : Bool
  deriving DecidableEq, Repr

/-- What the module sends outside. -/
inductive OutMsg where
  /-- A Vexey message with its payload, on a first-hop link where this package chooses one (R334). -/
  | vexey (link : Option Nat) (p : Packet)
  /-- The completion of a host or device read: `none` is Unsupported Request, and `abort` Completer Abort (R345, R346). -/
  | readData (port : Nat) (data : Option (List Byte))
  | abort (port : Nat)
  /-- A posted write to host memory (R341). -/
  | hostWrite (port bus n data : Nat)
  /-- A non-posted read of host memory (R341). -/
  | hostRead (port bus n : Nat)
  | hostAtomic (port bus : Nat) (req : AtomicReq)
  /-- A configuration read or write of an ECAM region, at an offset in the port's 256 MiB (R344). -/
  | configRead (port off : Nat)
  | configWrite (port off : Nat) (data : DWord)
  | msix (port vec : Nat)
  | snoop (pa : Nat)
  /-- A debug session's answer (R361); a refusal without a cause is one for want of consent or of a slot. -/
  | evidence (bytes : List Byte)
  | debugData (bytes : List Byte)
  | refusedDebug (world : BitVec 4) (reason : Option Cause)
  | counters (hits misses : List Nat) (soft allowance : List Nat) (snapshot : Nat)
  | bootlog (entries : List (BitVec 128))
  | told (slot : SlotId)
  deriving DecidableEq, Repr

/-- The links and host ports (R334 to R346). -/
structure Fabric where
  wincfg : BitVec 4
  sync : Bool
  ofs : BitVec 32
  syncAt : Nat
  goodSince : Option Nat
  pkgid : BitVec 8
  hpcfg : BitVec 8
  routes : List (Nat × DWord)
  lwcfg : List (Nat × DWord)
  reqmap : List (Nat × DWord)
  failed : List Nat
  items : List VexeyItem
  /-- Lines answered and not yet taken. -/
  got : List PeerLine
  /-- The flits that wait on the links. -/
  queues : List LinkQueue
  /-- Pages of other packages that are being zero-filled. -/
  revivals : List Revival
  lastWindow : Nat
  inReset : List Nat
  /-- Lines of this module's HBM that a host may hold, each with the host's port (R341). -/
  hostLines : List (Nat × Nat)
  irq : List Nat
  ecam : List (Nat × DWord)
  /-- The requests that the ports have received and that are not done: of port p a launch under p, a device's write under 2 + p with the
  bytes that are done, a device's read under 4 + p, a host's write under 6 + p. -/
  begun : List (Nat × Nat)
  deriving DecidableEq, Repr

/-- The trust page (R348). -/
structure Trust where
  fwrow : List (BitVec 32)
  prot : BitVec 16
  dcons : BitVec 16
  lock : Bool
  roster : List (BitVec 256)
  /-- The egress counter of each cluster (R353). -/
  egress : List (Nat × Nat)
  deriving DecidableEq, Repr

/-- Typel (spec/23_debug_power_boot.md). -/
structure Typel where
  journal : List (BitVec 128)
  closed : Bool
  starts : Nat
  booted : Bool
  /-- A step gave up: the module stays halted (R366). -/
  gaveUp : Bool
  /-- The personality, and whether port 1 bifurcates into a root port and a management endpoint (R344). -/
  selfHosted : Bool
  optionStrap : Bool
  trace : TraceCfg
  lastSample : Nat
  produced : Nat
  lost : Nat
  cursors : List (Nat × Nat)
  snapSeq : Nat
  lastSnap : Nat
  /-- The link counters as last latched, modulo 2^32, in the order of a snapshot's entries (R364). -/
  links : List (BitVec 32)
  /-- The corrected soft errors counted for each die (R314, R361). -/
  soft : List (Nat × Nat)
  deriving DecidableEq, Repr

/-- System registers of the fault and spill page (R305). -/
structure Ctl where
  atbase : DWord
  tinv : List DWord
  rings : List (Nat × Ring)
  records : List FaultRecord
  deriving DecidableEq, Repr

/-! ## The module -/

/-- The state of the module. -/
structure State where
  /-- The slot whose word is being executed; the other occupied slots stand in `others`. -/
  thr : Thread
  others : List Thread
  mem : Memory
  nodes : List Node
  nextNode : BitVec 32
  cores : List (Nat × Core)
  /-- Windows and workspaces of nodes that have not ended, latest first (R352). -/
  owners : List LmOwner
  dies : List (Nat × Die)
  sb : List (Nat × List SbEntry)
  cache : List CacheLine
  /-- The lines of HBM that the memory-side slices hold, latest first (R329). -/
  slices : List Nat
  /-- The lines in the instruction cache of a cluster's fetch port, latest first (R271). -/
  icache : List (Nat × Home × Nat)
  tlb : List TlbEntry
  tlbHits : List (Nat × Nat)
  tlbMisses : List (Nat × Nat)
  banks : List ((Nat × Nat) × Bank)
  reefed : List BankId
  /-- The cycle of the latest access to a bank of LM or SRAM (R365). -/
  touched : List (BankId × Nat)
  tiles : List ((Nat × Nat × Nat) × Tile)
  jobs : List ((Nat × Nat) × List TileJob)
  groups : List ((Nat × Nat) × LaneGroup)
  /-- The transition and mask caches of the Automaton Engines, latest first (R207). -/
  images : List ImageLine
  cmds : List Cmd
  nextCmd : Nat
  heldWrites : List HeldWrite
  reservations : List Reservation
  counters : List ((Nat × Nat) × Counter)
  terms : List ((Nat × Nat) × Term)
  /-- The terms that were true at the start of the cycle, and the pulses of the cycle (R332). -/
  trueTerms : List (Nat × Nat)
  pulsed : List Pulse
  barriers : List ((Nat × Nat) × Barrier)
  routines : List Routine
  routineCtl : List (Nat × RoutineCtl)
  spillQueue : List SlotId
  dir : Directory
  ctl : Ctl
  fabric : Fabric
  trust : Trust
  typel : Typel
  serviceCores : List Nat
  /-- 8-byte words of memory, by flat address / 8, that SECDED cannot correct until a write replaces them (R314). -/
  bad : List Nat
  /-- Lines of HBM held sealed (R353). -/
  seals : List SealedLine
  /-- How many of the next checks of a result mismatch (R95, R96): an input from outside, as an upset of the hardware is. -/
  upset : Nat
  clock : Nat
  time : DWord
  /-- The counter the free values are applied to (the model's own). -/
  fresh : Nat
  /-- Steps of the outside world that come next (the model's own). -/
  inbox : List Instr
  /-- What the module has sent outside, newest first (the model's own). -/
  outbox : List OutMsg
  deriving DecidableEq, Repr

/-! ## Reasons to stop -/

/-- Why the machine stops with a fault: the manual has no behaviour that stops the module, so there is no reason (safe). -/
inductive Fault where
  deriving DecidableEq, Repr

/-- Why the machine gives no meaning. -/
inductive Refusal where
  /-- An instruction without a meaning in this model (none is left). Safe. -/
  | notModelled (mnemonic : String)
  /-- A step of another agent, named by its row, that cannot come about in this state: it names a slot, node, command,
  message or unit that does not wait for it, or its condition does not hold. The manual has no such step there. Safe. -/
  | eventNotEnabled (row : String)
  deriving DecidableEq, Repr

/-! ## Reset -/

/-- STATUS at launch of a compute node (R38). -/
def Status.zero : Status :=
  { priv := 0, uie := false, inui := false, gout := 0, hpend := 0, hdup := false, hscope := 0, hguard := 0, hpromo := 0 }

/-- No hint payload. -/
def Payloads.zero : Payloads := { himm := 0, hfmt := 0, hreal := 0 }

/-- A slot no thread occupies, with every register at its launch or reset value (R27, R38). -/
def Thread.vacant (id : SlotId) : Thread :=
  { id := id, run := .vacant, node := 0, role := .leader, rank := 0, width := 1, kind := false, prio := 0, stage := 0,
    pc := 0, wp := 0x4000 + 0xB00 * id.slot, ws := Workspace.zero, loops := [], status := Status.zero, pay := Payloads.zero,
    handling := false, epc := 0, ecause := 0, eval := 0, utvec := 0, uivec := 0, upc := 0, ucause := 0, stvec := 0,
    hbivl := BitVec.ofNat 64 Config.hbivlReset, hbcnt := 0, asid := 0, world := 0, mrstl := 0, savea := 0, monitor := none,
    notifies := [], wait := .none, nextIssue := 0, justResumed := false, realigned := false, stepping := .no, fifo := [],
    lastWindow := none, readLines := [], sent := false, inWord := false, word := 0, retried := false,
    failed := false, hbMet := false, line := none, progress := 0, geo := [], claims := [] }

/-- A bank at reset: cache mode, target world 1 (R320). -/
def Bank.reset : Bank :=
  { assign := 0, world := 1, fcap := 0, discard := false, furl := false, reqMode := 0, refused := false, furled := false,
    mode := 0, bound := 0, switching := none, held := [] }

/-- A core at reset. -/
def Core.reset : Core :=
  { fenced := false, testing := false, cstvec := 0, entries := List.replicate 8 0, lastTurn := 7, nextTurn := 0, owed := [] }

/-- A die at reset (R264, R365). -/
def Die.reset : Die :=
  { pool := [], deferred := [],
    classes := List.replicate 4 { active := [], ptr := none, deficits := [] }, reserving := [], nextDecision := 0,
    allowance := 16 }

/-- An unowned, zeroed tile (R34, R85). -/
def Tile.zero : Tile := { owner := none, av := false, a := 0, canon := true, elems := [] }

/-- A zero element. -/
def TileElem.zero : TileElem :=
  { v := 0, c := 0, ovf := false, inx := false, nan := false, infp := false, infn := false }

/-- A lane after ALOAD (R185). -/
def Lane.zero : Lane := { state := 0, rej := false, stack := [] }

/-- No image. -/
def Image.none : Image :=
  { pda := false, n := 1, c := 1, token := false, t := 1, limit := 0, v := 1, cmap := 0, trans := 0, outt := 0, mask := 0,
    len := 0 }

/-- An unowned lane group (R36). -/
def LaneGroup.zero : LaneGroup :=
  { owner := none, base := 0, img := Image.none, xout := 0, xstr := 0, icur := 0, lanes := List.replicate 16 Lane.zero }

/-- A crossbar counter, a term and a barrier counter that no node has claimed. -/
def Counter.idle : Counter := { node := none, value := 0, source := 0, slot := ⟨0, 0⟩ }
def Term.idle : Term := { node := none, conds := 0 }
def Barrier.idle : Barrier := { node := none, count := 0, arrived := 0, round := 0 }

/-- A ring not configured (R309). -/
def Ring.reset : Ring := { base := 0, log2 := 0, prod := 0, cons := 0 }

/-- A routine store in which nothing is loaded (R325). -/
def RoutineCtl.reset : RoutineCtl := { rsnum := 0, busy := false, fail := false, loading := none }

/-- The directory at reset (R284, R292). -/
def Directory.reset : Directory :=
  { grants := [], names := [], objs := [], opens := [], unused := 1, freed := [], waits := [], queue := [] }

/-- The links and host ports at reset (R334). -/
def Fabric.reset : Fabric :=
  { wincfg := 3, sync := false, ofs := 0, syncAt := 0, goodSince := none, pkgid := 0, hpcfg := 0x11, routes := [],
    lwcfg := [], reqmap := [], failed := [], items := [], got := [], queues := [], revivals := [], lastWindow := 0, inReset := [], hostLines := [], irq := [], begun := [],
    ecam := [] }

/-- The trust page before Typel loads it (R348): FWROW 0 always reads all ones. -/
def Trust.reset : Trust :=
  { fwrow := 0xFFFFFFFF :: List.replicate 15 0, prot := 0, dcons := 0, lock := false, roster := List.replicate 16 0, egress := [] }

/-- Typel before the first start (R363, R364, R366). -/
def Typel.reset : Typel :=
  { journal := [], closed := true, starts := 0, booted := false, gaveUp := false, selfHosted := false,
    optionStrap := false,
    trace := { on := false, period := 1024, clusters := [], base := 0, m := 8, intervalNs := 100000 },
    lastSample := 0, produced := 0, lost := 0, cursors := [], snapSeq := 0, lastSnap := 0, links := [], soft := [] }

/-- The default service mask: core (0,0) of each cluster (R9). -/
def defaultServiceCores : List Nat := (List.range Config.clusters).map (64 * ·)

/-- The module right after reset: no thread occupies a slot, every bank is in cache mode, no memory is written, and Typel has
not begun to start the module (R366). -/
def State.reset : State :=
  { thr := Thread.vacant ⟨0, 0⟩, others := [], mem := [], nodes := [], nextNode := 1, cores := [], owners := [], dies := [], sb := [],
    cache := [], slices := [], icache := [], tlb := [], tlbHits := [], tlbMisses := [], banks := [], reefed := [], touched := [], tiles := [], jobs := [],
    groups := [], images := [], cmds := [], nextCmd := 0, heldWrites := [], reservations := [], counters := [], terms := [], trueTerms := [], pulsed := [],
    barriers := [], routines := [], routineCtl := [], spillQueue := [], dir := Directory.reset,
    ctl := { atbase := 0, tinv := [], rings := [], records := [] }, fabric := Fabric.reset, trust := Trust.reset,
    typel := Typel.reset, serviceCores := defaultServiceCores, bad := [], seals := [], upset := 0, clock := 0, time := 0, fresh := 0, inbox := [],
    outbox := [] }

end Sys2Proof.Machine
end

