-- ==== Sys2Proof/Machine/Memory.lean ====
section
/-!
DEFINITION. Reading and writing bytes of memory in its canonical form (spec/12_ordering.md R244, spec/00_scope.md R6:
multi-byte values are little-endian).
-/
namespace Sys2Proof.Machine

/-- The byte at a flat address. -/
def Memory.get : Memory → Nat → Byte
  | [], _ => Memory.unlisted
  | (a, b) :: m, k => if a = k then b else if k < a then Memory.unlisted else Memory.get m k

/-- One byte written; writing what an unlisted address reads as removes the entry. -/
def Memory.set : Memory → Nat → Byte → Memory
  | [], k, v => if v = Memory.unlisted then [] else [(k, v)]
  | (a, b) :: m, k, v =>
    if k < a then (if v = Memory.unlisted then (a, b) :: m else (k, v) :: (a, b) :: m)
    else if k = a then (if v = Memory.unlisted then m else (k, v) :: m)
    else (a, b) :: Memory.set m k v

/-- n bytes from a flat address up. -/
def Memory.read (m : Memory) (k : Nat) : Nat → List Byte
  | 0 => []
  | n + 1 => m.get k :: Memory.read m (k + 1) n

/-- Bytes written from a flat address up. -/
def Memory.write (m : Memory) (k : Nat) : List Byte → Memory
  | [] => m
  | b :: l => Memory.write (m.set k b) (k + 1) l

/-- n bytes from a flat address up made zero. -/
def Memory.clear (m : Memory) (k n : Nat) : Memory := m.filter (fun c => c.1 < k || k + n ≤ c.1)

/-- A little-endian number of n bytes. -/
def Memory.num (m : Memory) (k n : Nat) : Nat := ofBytes (m.read k n)

/-- The flat address of a byte that is performed in this module's memories; none elsewhere (R244). -/
def Home.key : Home → Option Nat
  | .hbm pa => some pa
  | .lm c off => some (2 ^ 40 + c * 2 ^ 17 + off)
  | .sram cl off => some (2 ^ 41 + cl * 2 ^ 22 + off)
  | .xlm u off => some (2 ^ 42 + u * 2 ^ 15 + off)
  | .host _ _ => none
  | .peer _ _ => none
  | .ctl _ => none

/-- The home i bytes further on. -/
def Home.plus : Home → Nat → Home
  | .lm c off, i => .lm c (off + i)
  | .sram cl off, i => .sram cl (off + i)
  | .hbm pa, i => .hbm (pa + i)
  | .host p b, i => .host p (b + i)
  | .peer p pa, i => .peer p (pa + i)
  | .ctl pa, i => .ctl (pa + i)
  | .xlm u off, i => .xlm u (off + i)

/-- The offset of a home within its memory. -/
def Home.off : Home → Nat
  | .lm _ o => o
  | .sram _ o => o
  | .hbm o => o
  | .host _ o => o
  | .peer _ o => o
  | .ctl o => o
  | .xlm _ o => o

/-- The home with another offset. -/
def Home.withOff : Home → Nat → Home
  | .lm c _, o => .lm c o
  | .sram cl _, o => .sram cl o
  | .hbm _, o => .hbm o
  | .host p _, o => .host p o
  | .peer p _, o => .peer p o
  | .ctl _, o => .ctl o
  | .xlm u _, o => .xlm u o

/-- The 64-byte line that holds a home. -/
def Home.line (h : Home) : Home := h.withOff (h.off / 64 * 64)

/-- A global home (R244): memory-side, host or peer. -/
def Home.isGlobal : Home → Bool
  | .hbm _ => true
  | .host _ _ => true
  | .peer _ _ => true
  | .ctl _ => false
  | .lm _ _ => false
  | .sram _ _ => false
  | .xlm _ _ => false

/-- The number that n bytes of a home hold; zero for a home outside this module's memories. -/
def State.readHome (s : State) (h : Home) (n : Nat) : Nat :=
  match h.key with
  | some k => s.mem.num k n
  | none => 0

/-- The bytes of a home. -/
def State.readBytes (s : State) (h : Home) (n : Nat) : List Byte :=
  match h.key with
  | some k => s.mem.read k n
  | none => List.replicate n 0

/-- Bytes stored at a home of this module, with no other effect. -/
def State.poke (s : State) (h : Home) (l : List Byte) : State :=
  match h.key with
  | some k => { s with mem := s.mem.write k l }
  | none => s

/-- Bytes of a home made zero. -/
def State.zeroHome (s : State) (h : Home) (n : Nat) : State :=
  match h.key with
  | some k => { s with mem := s.mem.clear k n, bad := s.bad.filter (fun w => !(decide (k ≤ 8 * w) && decide (8 * w + 8 ≤ k + n))) }
  | none => s

/-! ## Association lists of plain data -/

/-- The value a list gives a key, or a default. -/
def assocD {α β : Type} [DecidableEq α] (l : List (α × β)) (k : α) (d : β) : β :=
  match l.find? (fun p => p.1 = k) with
  | some p => p.2
  | none => d

/-- A list with a key set. -/
def assocSet {α β : Type} [DecidableEq α] (l : List (α × β)) (k : α) (v : β) : List (α × β) :=
  (k, v) :: l.filter (fun p => p.1 ≠ k)

end Sys2Proof.Machine
end

