-- ==== Sys2Proof/Machine/Flags.lean ====
section
/-!
DEFINITION. STATUS and the pending hints (spec/01_machine_state.md R21, R29; spec/03_encoding.md R62). Hyzer has no
condition flags: a comparison writes the word 1 or 0 (R98), and what an instruction leaves pending stands in STATUS.
-/
namespace Sys2Proof.Machine

/-- STATUS as a word (R29); bit 2, PPB, is the OR of HPEND. -/
def Status.toWord (st : Status) : DWord :=
  BitVec.ofNat 64 (st.priv.toNat + (if st.hpend = 0 then 0 else 4) + 8 * st.uie.toNat + 16 * st.inui.toNat
    + 2 ^ 5 * st.gout.toNat + 2 ^ 9 * st.hpend.toNat + 2 ^ 16 * st.hpromo.toNat + 2 ^ 18 * st.hguard.toNat
    + 2 ^ 20 * st.hscope.toNat + 2 ^ 23 * st.hdup.toNat)

/-- The fields of a STATUS word (R29). -/
def Status.ofWord (w : DWord) : Status :=
  { priv := w.extractLsb' 0 2, uie := w.getLsbD 3, inui := w.getLsbD 4, gout := w.extractLsb' 5 4,
    hpend := w.extractLsb' 9 7, hdup := w.getLsbD 23, hscope := w.extractLsb' 20 3, hguard := w.extractLsb' 18 2,
    hpromo := w.extractLsb' 16 2 }

/-- The STATUS word without its pending hints: HPEND, HDUP, PPB and the value fields are zero (R22). -/
def statusWithoutHints (w : DWord) : DWord := w &&& ~~~0xFFFE04

/-- Hint type t (1 to 7) is pending. -/
def Status.pending (st : Status) (t : Nat) : Bool := st.hpend.getLsbD (t - 1)

/-- STATUS with no pending hint (R21). -/
def Status.clearHints (st : Status) : Status :=
  { st with hpend := 0, hdup := false, hscope := 0, hguard := 0, hpromo := 0 }

/-- The thread with no pending hint. -/
def Thread.clearHints (t : Thread) : Thread :=
  { t with status := t.status.clearHints, pay := Payloads.zero, realigned := false }

/-- Hint type t becomes pending; a second one of its type sets HDUP (R21). -/
def Status.record (st : Status) (t : Nat) : Status :=
  { st with hdup := st.hdup || st.pending t, hpend := st.hpend ||| BitVec.ofNat 7 (2 ^ (t - 1)) }

/-- The mask of HPEND with one bit. -/
def hintBit (t : Nat) : BitVec 7 := BitVec.ofNat 7 (2 ^ (t - 1))

/-- The mask of a condition. -/
def hintIf (b : Bool) (t : Nat) : BitVec 7 := if b then hintBit t else 0

/-- The hint types an instruction can use, beside HREALIGN (R62). -/
def ownHints : Instr → BitVec 7
  | .addi .. | .andi .. | .ori .. | .xori .. | .slti .. | .sltiu .. => hintBit 1
  | .beq .. | .bne .. | .blts .. | .bges .. | .bltz .. | .bgez .. => hintBit 1
  | .mma .. | .mmas .. => hintBit 2 ||| hintBit 5
  | .mres .. | .vcvt .. | .vqnt .. | .vdqnt .. => hintBit 2
  | .ld _ _ _ _ o | .st _ _ _ _ o | .ldv _ _ _ o | .stv _ _ _ o | .gath _ _ _ _ _ o | .scat _ _ _ _ _ o =>
    hintIf (o ≠ .plain) 3 ||| hintBit 7
  | .amo .. | .cas .. | .fadd .. => hintBit 3
  | .cpy _ _ _ _ _ r q | .cpyx _ _ _ _ _ r q => hintIf (r || q) 3 ||| hintBit 6 ||| hintBit 7
  | .sealOut _ _ _ _ r q => hintIf (r || q) 3
  | _ => 0

/-- The hint types an instruction can use (R62): HREALIGN by every one. -/
def usableHints (i : Instr) : BitVec 7 := ownHints i ||| hintBit 4

/-- The instruction meets two hints of one type, or a pending hint that it cannot use (R21, R66). -/
def hintFault (i : Instr) (st : Status) : Bool := st.hdup || (st.hpend &&& ~~~ usableHints i) != 0

/-- The scope of an access with an ordering (R62, R128): HSCOPE's, else device. -/
def Status.scope (st : Status) : Scope :=
  if st.pending 3 then (Scope.ofBits? st.hscope.toNat).getD .dv else .dv

/-- An acquire at this scope acts on the cluster cache (R128). -/
def wideScope : Scope → Bool
  | .sl => false
  | .co => false
  | .cl => false
  | .di => true
  | .dv => true
  | .sy => true

end Sys2Proof.Machine
end

