-- ==== Sys2Proof/Machine/Ops.lean ====
section
/-!
DEFINITION. The operations that every instruction shares: a slot's registers, its next PC and the back edge
(spec/05_scalar_control.md R111, R112), the completion of a word, fault records (spec/18_faults_preemption.md R309), the end
of a node by a cause, and taking and leaving a trap (spec/10_system_instr.md R236 to R238).
-/
namespace Sys2Proof.Machine

/-- The outcome of a step. -/
abbrev Out := Host.Outcome State Fault Refusal

/-! ## Places -/

/-- The cluster of a core; a transform slot stands at 8,192 + 4 x cluster + engine. -/
def clusterOf (core : Nat) : Nat := if core < 8192 then core / 64 else (core - 8192) / 4

/-- The die of a core. -/
def dieOf (core : Nat) : Nat := clusterOf core / 16

/-- A transform slot (R326). -/
def isTransform (id : SlotId) : Bool := 8192 ≤ id.core

/-- The coordinate word of a core (R26). -/
def coordWord (core : Nat) : Nat :=
  core / 1024 * 2 ^ 16 + core / 256 % 4 * 2 ^ 12 + core / 64 % 4 * 2 ^ 8 + core / 8 % 8 * 2 ^ 4 + core % 8

/-- The core that a coordinate word names. -/
def coordCore (w : Nat) : Nat :=
  1024 * bits w 18 16 + 256 * bits w 13 12 + 64 * bits w 9 8 + 8 * bits w 6 4 + bits w 2 0

/-- A byte of a slot's own LM. -/
def ownLm (id : SlotId) (off : Nat) : Home :=
  if isTransform id then .xlm (id.core - 8192) off else .lm id.core off

/-- The cause code of R31. -/
def Cause.code : Cause → Nat
  | .illegal => 0x01
  | .priv => 0x02
  | .align => 0x03
  | .lease => 0x04
  | .wsalias => 0x05
  | .world => 0x06
  | .operand => 0x07
  | .autoStack => 0x08
  | .autoTable => 0x09
  | .window => 0x0A
  | .heartbeat => 0x0B
  | .mcheck => 0x0C
  | .trapi => 0x0D
  | .directory => 0x0E
  | .qtimeout => 0x0F
  | .badhdr => 0x10
  | .roster => 0x11

/-- The cause a code names, if any (R31). -/
def causeOfCode : Nat → Option Cause
  | 0x01 => some .illegal
  | 0x02 => some .priv
  | 0x03 => some .align
  | 0x04 => some .lease
  | 0x05 => some .wsalias
  | 0x06 => some .world
  | 0x07 => some .operand
  | 0x08 => some .autoStack
  | 0x09 => some .autoTable
  | 0x0A => some .window
  | 0x0B => some .heartbeat
  | 0x0C => some .mcheck
  | 0x0D => some .trapi
  | 0x0E => some .directory
  | 0x0F => some .qtimeout
  | 0x10 => some .badhdr
  | 0x11 => some .roster
  | _ => none

/-- The ALIGN classes of R31. -/
def badptr : BitVec 8 := 1
def misalign : BitVec 8 := 2
def badTarget : BitVec 8 := 3
def wsplace : BitVec 8 := 4

/-! ## Threads -/

/-- The slots that hold a thread. -/
def State.threads (s : State) : List Thread :=
  (if s.thr.run = .vacant then [] else [s.thr]) ++ s.others

/-- The thread of a slot. -/
def State.thread? (s : State) (id : SlotId) : Option Thread :=
  if s.thr.id = id then (if s.thr.run = .vacant then none else some s.thr) else s.others.find? (fun t => t.id = id)

/-- A thread put back into its slot. -/
def State.setThread (s : State) (t : Thread) : State :=
  if s.thr.id = t.id then { s with thr := t }
  else { s with others := s.others.map (fun u => if u.id = t.id then t else u) }

/-- A thread put into a slot that no thread occupies. -/
def State.addThread (s : State) (t : Thread) : State :=
  if s.thr.run = .vacant then { s with thr := t } else { s with others := s.others ++ [t] }

/-- A slot that no thread occupies any more. -/
def State.dropThread (s : State) (id : SlotId) : State :=
  if s.thr.id = id then { s with thr := Thread.vacant id }
  else { s with others := s.others.filter (fun t => t.id ≠ id) }

/-- The state with slot id as the one whose word is executed; none when no thread stands there. -/
def State.focus (s : State) (id : SlotId) : Option State :=
  if s.thr.id = id then (if s.thr.run = .vacant then none else some s)
  else match s.others.find? (fun t => t.id = id) with
    | none => none
    | some t =>
      let rest := s.others.filter (fun u => u.id ≠ id)
      some { s with thr := t, others := if s.thr.run = .vacant then rest else s.thr :: rest }

/-! ## Registers of a thread (R10, R14) -/

/-- A scalar register; s0 reads zero. -/
def Thread.sreg (t : Thread) (r : Reg) : DWord := if r = 0 then 0 else t.ws.s[r]

/-- A scalar register written; a write to s0 is discarded. -/
def Thread.setS (t : Thread) (r : Reg) (v : DWord) : Thread :=
  if r = 0 then t else { t with ws := { t.ws with s := t.ws.s.set r.val v r.isLt } }

/-- A pointer register. -/
def Thread.preg (t : Thread) (r : PReg) : DWord := t.ws.p[r]

/-- A pointer register written. -/
def Thread.setP (t : Thread) (r : PReg) (v : DWord) : Thread :=
  { t with ws := { t.ws with p := t.ws.p.set r.val v r.isLt } }

/-- A vector register. -/
def Thread.vreg (t : Thread) (r : Reg) : VecWord := t.ws.v[r]

/-- A vector register written. -/
def Thread.setV (t : Thread) (r : Reg) (v : VecWord) : Thread :=
  { t with ws := { t.ws with v := t.ws.v.set r.val v r.isLt } }

/-- A circular-buffer descriptor. -/
def Thread.qreg (t : Thread) (r : QReg) : QWord := t.ws.q[r]

/-- A circular-buffer descriptor written. -/
def Thread.setQ (t : Thread) (r : QReg) (v : QWord) : Thread :=
  { t with ws := { t.ws with q := t.ws.q.set r.val v r.isLt } }

/-- The state with a register of the executing slot written. -/
def State.setS (s : State) (r : Reg) (v : DWord) : State := { s with thr := s.thr.setS r v }
def State.setP (s : State) (r : PReg) (v : DWord) : State := { s with thr := s.thr.setP r v }
def State.setV (s : State) (r : Reg) (v : VecWord) : State := { s with thr := s.thr.setV r v }
def State.setQ (s : State) (r : QReg) (v : QWord) : State := { s with thr := s.thr.setQ r v }

/-! ## The loop stack and the next PC -/

/-- END of a loop entry: the address of the first word after the body (R110). -/
def LoopEntry.endAddr (e : LoopEntry) : VAddr := e.start + BitVec.ofNat 55 (4 * e.len.toNat)

/-- The address lies in the body of the entry. DEDUCED (log 102): addresses are counted modulo 2^55, so that a body at the top of the
address space goes on at 0. -/
def LoopEntry.holds (e : LoopEntry) (t : VAddr) : Bool := (t - e.start).toNat < 4 * e.len.toNat

/-- The back edge at a PC reached by sequential flow, RET, ERET, URET or the skip of a loop (R111): the loop stack,
innermost first, and the PC after it. -/
def backEdge : List LoopEntry → VAddr → List LoopEntry × VAddr
  | [], pc => ([], pc)
  | e :: l, pc =>
    if e.endAddr = pc then
      if e.count = 0 then backEdge l pc else ({ e with count := e.count - 1 } :: l, e.start)
    else (e :: l, pc)

/-- The unwinding of a taken branch (R112). -/
def unwind : List LoopEntry → VAddr → List LoopEntry
  | [], _ => []
  | e :: l, t => if e.holds t then e :: l else unwind l t

/-- The thread at the PC that arrives by sequential flow, with the back edge taken. -/
def Thread.arrive (t : Thread) (pc : VAddr) : Thread :=
  { t with loops := (backEdge t.loops pc).1, pc := (backEdge t.loops pc).2 }

/-- The address of the following word. -/
def Thread.following (t : Thread) : VAddr := t.pc + 4

/-- A loop entry as it is saved (R19). -/
def LoopEntry.toWord (e : LoopEntry) : QWord :=
  BitVec.ofNat 128 (2 ^ 127 + 2 ^ 112 * e.len.toNat + 2 ^ 64 * e.count.toNat + e.start.toNat)

/-- Whether a saved entry has V set, and whether it breaks R114. -/
def savedActive (w : QWord) : Bool := w.getLsbD 127
def savedBad (w : QWord) : Bool :=
  w.extractLsb' 112 13 = 0 || w.extractLsb' 0 2 != 0 || w.extractLsb' 125 2 != 0 || w.extractLsb' 55 9 != 0

/-- The entry that a save word holds. -/
def LoopEntry.ofWord (w : QWord) : LoopEntry :=
  { len := w.extractLsb' 112 13, count := w.extractLsb' 64 48, start := w.extractLsb' 0 55 }

/-- The save area of a loop stack given innermost first: entry 0 is the outermost, and inactive entries are zeros (R19). -/
def saveLoops (l : List LoopEntry) : Vector QWord 4 :=
  let r := l.reverse.map LoopEntry.toWord
  #v[r.getD 0 0, r.getD 1 0, r.getD 2 0, r.getD 3 0]

/-- The entries of a save area in order, as long as V is set; none when an entry breaks R114. -/
def loadEntries : List QWord → Option (List LoopEntry)
  | [] => some []
  | w :: l =>
    if savedActive w then
      if savedBad w then none else (loadEntries l).map (LoopEntry.ofWord w :: ·)
    else if l.any savedActive then none else some []

/-- The loop stack that a save area holds, innermost first; none when it is malformed (R114). -/
def loadLoops (v : Vector QWord 4) : Option (List LoopEntry) := (loadEntries v.toList).map List.reverse

/-! ## Completing a word -/

/-- The thread once its word has completed, with its next issue due at a cycle: hints are consumed (R21). -/
def Thread.done (t : Thread) (due : Nat) : Thread :=
  { t.clearHints with wait := .none, nextIssue := due, justResumed := false, retried := false, progress := 0, geo := [], claims := [] }

/-- The word completes and the next one follows after n cycles. -/
def retire (n : Nat) (s : State) : Out :=
  .next { s with thr := (s.thr.done (s.clock + n)).arrive s.thr.following }

/-- The word completes and control passes to t with no back edge and no unwinding. -/
def retireAt (t : VAddr) (n : Nat) (s : State) : Out :=
  .next { s with thr := { s.thr.done (s.clock + n) with pc := t } }

/-- The word completes and control arrives at t, where a back edge may be taken (R111). -/
def retireArriving (t : VAddr) (n : Nat) (s : State) : Out :=
  .next { s with thr := (s.thr.done (s.clock + n)).arrive t }

/-- The word completes as a taken branch to t (R112). -/
def retireTaken (t : VAddr) (n : Nat) (s : State) : Out :=
  .next { s with thr := { s.thr.done (s.clock + n) with pc := t, loops := unwind s.thr.loops t } }

/-- A hint word completes: what is pending stays pending (R21), and its issue takes 8 cycles. -/
def retireHint (s : State) : Out :=
  .next { s with thr := (Thread.arrive { s.thr with wait := .none, nextIssue := s.clock + 8, justResumed := false } s.thr.following) }

/-- A number of cycles between two bounds: a free value (log 18). -/
def State.cycles (s : State) (lo hi : Nat) : Nat := lo + Config.latency s.fresh % (hi - lo + 1)

/-- The state with one free value used. -/
def State.used (s : State) : State := { s with fresh := s.fresh + 1 }

/-- The word completes, its next issue between lo and hi cycles later (R5). -/
def retireWithin (lo hi : Nat) (s : State) : Out := retire (s.cycles lo hi) s.used

/-- The word cannot complete yet; it stays at issue and issues again (R312). -/
def stallFor (w : Stall) (s : State) : Out := .next { s with thr := { s.thr with wait := .stall w } }

/-- The word waits for a step of another unit. -/
def waitFor (w : Wait) (s : State) : Out := .next { s with thr := { s.thr with wait := w } }

/-- A wait of a thread ends as given; where the slot made a STEP, it only stalls no longer, and parks again at the word (R362). -/
def Thread.stepOr (t : Thread) (go : Thread) : Thread := if t.stepping = .begun then { t with wait := .stall .waitTable } else go

/-- A step of another slot's word inside this one; a step that stops leaves the state as it was. -/
def State.within (s : State) (id : SlotId) (f : State → Out) : State :=
  match s.focus id with
  | none => s
  | some t =>
    match f t with
    | .next u => (u.focus s.thr.id).getD u
    | .fault _ => s
    | .refused _ => s

/-- A step of a unit on the thread of a slot; the slot in focus stays the same. -/
def onSlot (row : String) (id : SlotId) (s : State) (f : State → Out) : Out :=
  match s.focus id with
  | none => .refused (.eventNotEnabled row)
  | some t =>
    match f t with
    | .next u => .next ((u.focus s.thr.id).getD u)
    | .fault x => .fault x
    | .refused x => .refused x

/-! ## Claims (R34, R36) -/

/-- The owner of a tile or lane group of a cluster. -/
def State.ownerOf (s : State) (cl : Nat) : Claim → Option SlotId
  | .tile e t => ((s.tiles.find? (fun x => x.1 = (cl, e, t))).bind (fun x => x.2.owner))
  | .group g => ((s.groups.find? (fun x => x.1 = (cl, g))).bind (fun x => x.2.owner))
  | .directory => none

/-- The slot to which a tile or lane group of a cluster belongs: its owner, or the one whose word in flight has claimed it. -/
def State.holder (s : State) (cl : Nat) (c : Claim) : Option SlotId :=
  (s.ownerOf cl c).or ((s.threads.find? (fun t => clusterOf t.id.core = cl && t.claims.contains c)).map (·.id))

/-- The word in flight of the executing slot claims it, if it has not yet. -/
def State.claimed (s : State) (c : Claim) : State :=
  if s.thr.claims.contains c then s else { s with thr := { s.thr with claims := c :: s.thr.claims } }

/-- The executing slot may claim it: nobody holds it, or its own claim stands. -/
def State.claimable (s : State) (cl : Nat) (c : Claim) : Bool :=
  match s.holder cl c with
  | none => true
  | some id => id = s.thr.id

/-! ## Fault records (R309) -/

/-- The ring of an address space. -/
def State.ringOf (s : State) (asid : BitVec 16) : Nat :=
  (asid.toNat * 0x9E37) % 2 ^ 16 / 2 ^ (16 - s.serviceCores.length.log2)

/-- The ring of a cluster's service core. -/
def State.clusterRing (s : State) (cl : Nat) : Nat := s.serviceCores.findIdx (fun c => c / 64 = cl)

/-- Word 0 of a record. -/
def recordWord0 (info : Nat) (asid : BitVec 16) (sub cause : Nat) : DWord :=
  BitVec.ofNat 64 (info % 2 ^ 16 * 2 ^ 32 + asid.toNat * 2 ^ 16 + sub * 2 ^ 8 + cause)

/-- A record handed to the unit that holds it until its ring takes it. -/
def State.post (s : State) (r : FaultRecord) : State :=
  { s with ctl := { s.ctl with records := s.ctl.records ++ [r] } }

/-- The records a unit holds. -/
def State.held (s : State) (u : RecordUnit) : Nat := s.ctl.records.countP (fun r => r.unit = u)

/-- A cluster's fault unit holds 32 records and takes no more (R309). -/
def State.faultUnitFull (s : State) (cl : Nat) : Bool := decide (Config.faultUnitRecords ≤ s.held (.fault cl))

/-- The state with the records a cluster's fault unit holds one longer: a record about an address space. -/
def State.postFault (s : State) (cl : Nat) (asid : BitVec 16) (info sub cause w1 w2 w3 : Nat) : State :=
  s.post { unit := .fault cl, ring := s.ringOf asid, w0 := recordWord0 info asid sub cause, w1 := BitVec.ofNat 64 w1,
           w2 := BitVec.ofNat 64 w2, w3 := BitVec.ofNat 64 w3 }

/-! ## Nodes -/

/-- The node with an id. -/
def State.node? (s : State) (id : Nat) : Option Node := s.nodes.find? (fun n => n.id = id && n.phase ≠ .ended)

/-- A node is at its end: a cause has ended it, or its end is in progress. -/
def Node.closing (n : Node) : Bool := n.ending.isSome || n.ends.isSome

/-- The members of a node take no more part: its end is in progress, or a cause of an earlier cycle has ended it. In the cycle of the
cause the other members go on, since of several that qualify the lowest-ranked one reports (R367, log 91). -/
def State.shut (s : State) (n : Node) : Bool := n.closing && !(n.ends.isNone && n.endedAt = s.clock)

/-- A node put back. -/
def State.setNode (s : State) (n : Node) : State :=
  { s with nodes := s.nodes.map (fun m => if m.id = n.id then n else m) }

/-- Of two causes in one cycle the first row of R367's table applies, and in one row the lowest rank. -/
def Node.reportsBefore (n : Node) (e old : Ending) : Bool :=
  let rank := fun (e : Ending) => n.members.findIdx (fun m => m.id = e.member)
  decide (e.row < old.row) || (e.row = old.row && decide (rank e < rank old))

/-- The node takes this end: it has none, or one of this cycle that this one goes before. A node whose end is in progress takes none. -/
def State.takesEnd (s : State) (e : Ending) (n : Node) : Bool :=
  match n.ending with
  | none => n.ends.isNone
  | some old => n.ends.isNone && n.endedAt = s.clock && n.reportsBefore e old

/-- A node ends by a cause: that of the first cycle stands, and NODE_END does the rest (R219, R367). -/
def State.endNode (s : State) (id : Nat) (e : Ending) : State :=
  { s with nodes := s.nodes.map (fun n => if n.id = id && s.takesEnd e n then { n with ending := some e, endedAt := s.clock } else n) }

/-- A node that has not written its status record yet (R220). -/
def Node.unreported (n : Node) : Bool :=
  match n.ends with
  | none => true
  | some f => match f.step with
    | .settle => true
    | .clear => true
    | .release => true
    | .status => true
    | .signal => true
    | .list => false
    | .deps _ => false
    | .submit => false

/-- World w is protected (R348). -/
def State.protectedWorld (s : State) (w : BitVec 4) : Bool := s.trust.prot.getLsbD w.toNat

/-- The node of the executing slot ends by a cause that its word raises (R299): the word has no effect, and waits for nothing any
more. A cause that carries no value reports 0 (R367). -/
def endBy (c : Cause) (cls : BitVec 8) (v : Option DWord) (s : State) : Out :=
  .next ({ s with thr := { s.thr with wait := .none, claims := [] } }.endNode s.thr.node
    { cause := c, cls := cls, member := s.thr.id, pc := s.thr.pc.setWidth 64, eval := v.getD 0, before := false, row := 1 })

/-! ## Taking a trap (R236, R237) -/

/-- STVEC as the slot holds it: 0 in a protected world (R350). -/
def State.stvecOf (s : State) (t : Thread) : DWord := if s.protectedWorld t.world then 0 else t.stvec

/-- What both entries save: STATUS with its hints, the payloads and the loop stack; then none is left live. -/
def Thread.saveLive (t : Thread) : Thread :=
  { t.clearHints with
    ws := { t.ws with statusSave := t.status.toWord, himmSave := t.pay.himm.setWidth 64, hfmtSave := t.pay.hfmt.setWidth 64,
                      hrealSave := t.pay.hreal.setWidth 64, loopSave := saveLoops t.loops },
    loops := [] }

/-- Cycles from the start of an entry or exit to the next word: 16, or 24 with a loop stack (R236, R239). -/
def entryCycles (l : List LoopEntry) : Nat := if l.isEmpty then 16 else 24

/-- The PC that a 64-bit register names: PC holds 55 bits and is word-aligned (R10), so bits [63:55] and [1:0] are dropped
(log 23). -/
def pcOf (v : DWord) : VAddr := (v &&& ~~~3).setWidth 55

/-- A supervisor trap entered (R236): cause, ALIGN class, value, return address, due cycle. -/
def Thread.enterTrap (t : Thread) (c : Cause) (cls : BitVec 8) (v e vec : DWord) (due : Nat) : Thread :=
  { t.saveLive with
    epc := e, ecause := BitVec.ofNat 64 (c.code + 2 ^ 8 * cls.toNat), eval := v,
    status := { t.status.clearHints with priv := 1, uie := false, inui := false }, handling := true,
    pc := pcOf vec, wait := .none, nextIssue := due, justResumed := false, retried := false, progress := 0, geo := [], claims := [] }

/-- An integrity failure has the command reissued: the first one. A command with a ring as source or destination cannot be, since what
it has taken from the ring or given to it stays so (R314, log 58). -/
def Cmd.reissues (x : Cause) (c : Cmd) : Bool := x = .mcheck && !c.retried && !c.fifoSrc && !c.fifoDst

/-- A command begun again from its first chunk (R314). -/
def Cmd.restart (c : Cmd) : Cmd :=
  { c with retried := true, pos := 0, buf := [], sent := 0, since := none, drained := 0, output := [], fate := none }

/-- A command that fails with a code. What stands in an early reservation is written first, except after an integrity failure, which
begins the command again once (R314). -/
def Cmd.failWith (c : Cmd) (x : Cause) : Cmd :=
  if c.reissues x then c.restart
  else if c.early && c.fate.isNone && x ≠ .mcheck && !c.output.isEmpty then { c with fate := some x.code, buf := [], sent := 0 }
  else { c with st := .finishing x.code }

/-- The command whose routine a transform slot runs (R326). -/
def Cmd.runsIn (c : Cmd) (core : Nat) : Bool := c.kind = .cpyx && c.st = .running && 8192 + 4 * c.cl + c.engine = core

/-- The routine of a transform slot ends with a completion code (R327): its command completes with that code, and the slot
is free. A command that is reissued holds no writes any more (R314). -/
def State.failRoutine (s : State) (c : Cause) : State :=
  { s with
    cmds := s.cmds.map (fun m => if m.runsIn s.thr.id.core then m.failWith c else m)
    heldWrites := s.heldWrites.filter (fun w =>
      !s.cmds.any (fun m => m.id = w.cmd && m.runsIn s.thr.id.core && m.reissues c))
    thr := Thread.vacant s.thr.id }

/-- A supervisor trap with a return address whose entry begins n cycles from now (R236): with STVEC 0 the node ends with the
cause, and in a transform slot the command completes with it. Where the manual gives the cause no value, EVAL is a free value
(log 19). -/
def trapAfter (n : Nat) (c : Cause) (cls : BitVec 8) (v : Option DWord) (e : DWord) (s : State) : Out :=
  if isTransform s.thr.id then .next (s.failRoutine c)
  else if s.stvecOf s.thr = 0 then endBy c cls v s
  else
    let due := s.clock + n + entryCycles s.thr.loops
    match v with
    | some x => .next { s with thr := s.thr.enterTrap c cls x e (s.stvecOf s.thr) due }
    | none => .next { s.used with thr := s.thr.enterTrap c cls (Config.openEval s.fresh) e (s.stvecOf s.thr) due }

/-- A supervisor trap whose entry begins now. -/
def trapTo (c : Cause) (cls : BitVec 8) (v : Option DWord) (e : DWord) (s : State) : Out := trapAfter 0 c cls v e s

/-- A precise fault of the executing word (R299): its hints are consumed, it has no effect, and EPC is its address. -/
def fault (c : Cause) (cls : BitVec 8) (v : Option DWord) (s : State) : Out :=
  trapTo c cls v (s.thr.pc.setWidth 64) { s with thr := { s.thr.clearHints with retried := false, progress := 0, geo := [], claims := [] } }

/-- The word of an instruction as EVAL of an ILLEGAL fault (R66). -/
def illegal (i : Instr) (s : State) : Out := fault .illegal 0 (some ((encode i).setWidth 64)) s

/-- An ILLEGAL fault at a hint word: what is pending stays (R62). -/
def illegalKeeping (w : Word) (s : State) : Out := trapTo .illegal 0 (some (w.setWidth 64)) (s.thr.pc.setWidth 64) s

/-- The exchange of s24 to s31 with their shadows (R237). -/
def Workspace.exchange (w : Workspace) : Workspace :=
  { w with
    s := Vector.ofFn (fun i => if h : 24 ≤ i.val then w.shadow[i.val - 24]'(by omega) else w.s[i])
    shadow := Vector.ofFn (fun i => w.s[i.val + 24]'(by omega)) }

/-- A user trap or a notify entered (R237): return address, cause word, vector, due cycle. -/
def Thread.enterUser (t : Thread) (e : VAddr) (cause vec : DWord) (due : Nat) : Thread :=
  { t.saveLive with
    upc := e.setWidth 64, ucause := cause, ws := t.saveLive.ws.exchange,
    status := { t.status.clearHints with inui := true },
    pc := pcOf vec, wait := .none, nextIssue := due, justResumed := false, retried := false, progress := 0, geo := [], claims := [] }

/-- AUTO_STACK (R237, R39): a user trap while UTVEC is not 0 and INUI is 0, else redirected to the supervisor with a
record. The return address is the next word, and the entry begins when the word completes, n cycles from now (R236). -/
def userTrap (n : Nat) (c : Cause) (cause v : DWord) (e : VAddr) (s : State) : Out :=
  if s.thr.utvec ≠ 0 ∧ s.thr.status.inui = false then
    .next { s with thr := s.thr.enterUser e cause s.thr.utvec (s.clock + n + entryCycles s.thr.loops) }
  else if s.stvecOf s.thr = 0 then endBy c 0 (some v) s
  else if s.faultUnitFull (clusterOf s.thr.id.core) then stallFor .faultUnit s
  else trapAfter n c 0 (some v) (e.setWidth 64)
    (s.postFault (clusterOf s.thr.id.core) s.thr.asid s.thr.id.slot 0x00 c.code
      (2 ^ 32 * s.thr.node + coordWord s.thr.id.core) s.thr.pc.toNat v.toNat)

/-! ## Integrity (R95, R96, R314) -/

/-- One of the n bytes at a home lies in a word that SECDED cannot correct. -/
def State.badAt (s : State) (h : Home) (n : Nat) : Bool :=
  match h.key with
  | some k => s.bad.any (fun w => decide (k < 8 * w + 8) && decide (8 * w < k + n))
  | none => false

/-- The kind of an integrity failure in its record (R309, SUB 0x04). -/
def integrityKind : Home → Nat
  | .hbm _ => 2
  | _ => 1

/-- A second failure of what a core consumes: a SUB 0x04 record, and the node ends with MCHECK (R314, R315). While the
fault unit is full the slot stalls (R309). -/
def machineCheck (kind pa : Nat) (s : State) : Out :=
  if isTransform s.thr.id then .next (s.failRoutine .mcheck)
  else if s.faultUnitFull (clusterOf s.thr.id.core) then stallFor .faultUnit s
  else endBy .mcheck 0 none (s.postFault (clusterOf s.thr.id.core) s.thr.asid 0 0x04 Cause.mcheck.code
    (2 ^ 32 * s.thr.node + coordWord s.thr.id.core) pa kind)

/-- The cost of a repeated word: a vector instruction's own count (R156), and 8 cycles for any other (R95, R116). -/
def repeatCycles : Instr → Nat
  | .vrcp .. | .vrsq .. | .vexp2 .. | .vlog2 .. | .vscan .. | .vredadd .. | .vredmax .. | .vredmin .. | .vdqnt .. => 16
  | .vdiv .. | .vsqrt .. => 24
  | .vqnt .. => 32
  | _ => 8

/-- A residue mismatch (R95, R96): the first issues the instruction again at its own cost, the second ends the node. -/
def residueMismatch (i : Instr) (s : State) : Out :=
  if s.thr.retried then machineCheck 0 0 { s with upset := s.upset - 1, thr := { s.thr with failed := true } }
  else .next { s with upset := s.upset - 1, thr := { s.thr with retried := true, nextIssue := s.clock + repeatCycles i } }

/-! ## The start of every word -/

/-- A member of the same node in another slot. -/
def State.members (s : State) (node : Nat) : List Thread := s.threads.filter (fun t => t.node = node)

/-- The other members of the executing slot's yard. -/
def State.yard (s : State) : List Thread :=
  s.others.filter (fun t => t.node = s.thr.node && t.run ≠ .vacant && !isTransform t.id)

/-- A detached member stands at the leader's PC with the leader's loop stack, between two words (R47). -/
def meets (leader m : Thread) : Bool :=
  m.pc == leader.pc && m.loops == leader.loops &&
    (match m.wait with
     | .none => true
     | .realign _ => true
     | _ => false)

/-- A detached member that rejoins as a follower. -/
def Thread.rejoin (m : Thread) : Thread := { m with role := .follower, fifo := [], wait := .none, inWord := false }

/-- The detached members of the executing slot's yard that have not ended. -/
def State.detachedMembers (s : State) : List Thread :=
  s.yard.filter (fun t => t.role = .detached && t.run ≠ .ended)

/-- A detached member of the yard stands in its save area: it has not reached the leader's PC (R47). -/
def State.detachedAway (s : State) : Bool :=
  (s.node? s.thr.node).any (fun n => n.saved.any (·.det))

/-- Every detached member of the yard has met the leader (R47). -/
def State.allMet (s : State) : Bool := s.detachedMembers.all (meets s.thr) && !s.detachedAway

/-- Every detached member that meets the leader rejoins, and the leader's stall is over (R47). -/
def State.rejoinMet (s : State) : State :=
  { s with
    others := s.others.map (fun m => if m.node = s.thr.node && !isTransform m.id && m.role = .detached && m.run ≠ .ended && meets s.thr m
      then m.rejoin else m)
    thr := { s.thr with realigned := true, wait := .none } }

/-- Every detached member that waits at its own HREALIGN where the leader stalls rejoins (R47). -/
def State.rejoinWaiting (s : State) : State :=
  let waits := fun (m : Thread) => match m.wait with
    | .realign _ => true
    | _ => false
  { s with
    others := s.others.map (fun m => if m.node = s.thr.node && !isTransform m.id && m.role = .detached && m.run ≠ .ended && waits m
      && meets s.thr m then m.rejoin else m) }

/-- HREALIGN's timeout as a cycle (R47). -/
def State.realignEnd (s : State) : Nat := s.clock + s.thr.pay.hreal.toNat

/-- The realignment before the word that follows HREALIGN (R47): none is left to wait for, or the slot stalls. -/
def realign (s : State) (body : State → Out) : Out :=
  if s.thr.status.pending 4 = false ∨ s.thr.realigned ∨ isTransform s.thr.id then body s
  else match s.thr.role with
    | .leader =>
      if s.allMet then body s.rejoinMet else waitFor (.realign s.realignEnd) s.rejoinWaiting
    | .detached =>
      match s.others.find? (fun l => l.node = s.thr.node && l.role = .leader) with
      | some l =>
        (match l.wait with
         | .realign _ => if meets l s.thr then .next { s with thr := s.thr.rejoin } else waitFor (.realign s.realignEnd) s
         | _ => waitFor (.realign s.realignEnd) s)
      | none => waitFor (.realign s.realignEnd) s
    | .follower => body s

/-- Results that the residue code or a duplicate unit checks (R95, R96): those of the scalar, address and vector units, among them
the comparators of branches and the adders of targets, links, loop ends, ring counts and addresses, unless they are written to s0. -/
def checkedResult : Instr → Bool
  | .add d .. | .sub d .. | .mul d .. | .mulhs d .. | .mulhz d .. | .divs d .. | .divz d .. | .rems d .. | .remz d ..
  | .and d .. | .or d .. | .xor d .. | .andn d .. | .shl d .. | .shrl d .. | .shra d .. | .rol d .. | .mins d ..
  | .maxs d .. | .minz d .. | .maxz d .. | .seq d .. | .sne d .. | .slts d .. | .sltz d .. | .clz d .. | .ctz d ..
  | .popc d .. | .sext d .. | .zext d .. | .bswp d ..
  | .addK d .. | .subK d .. | .mulK d .. | .mulhsK d .. | .mulhzK d .. | .divsK d .. | .divzK d .. | .remsK d ..
  | .remzK d .. | .andK d .. | .orK d .. | .xorK d .. | .andnK d .. | .shlK d .. | .shrlK d .. | .shraK d .. | .rolK d ..
  | .minsK d .. | .maxsK d .. | .minzK d .. | .maxzK d .. | .seqK d .. | .sneK d .. | .sltsK d .. | .sltzK d ..
  | .addi d .. | .andi d .. | .ori d .. | .xori d .. | .slti d .. | .sltiu d .. | .shi d .. => d ≠ 0
  | .pget d .. | .permix d .. => d ≠ 0
  | .beq .. | .bne .. | .blts .. | .bges .. | .bltz .. | .bgez .. | .jmp .. | .call .. | .callr .. | .loop .. | .loopk .. => true
  | .qwait .. | .qrsv .. | .qpush .. | .qpop .. | .qldv .. | .qstv .. => true
  | .pset .. | .padd .. | .pwalk .. | .pcoord .. | .ld .. | .st .. | .ldv .. | .stv .. | .gath .. | .scat .. => true
  | .vadd .. | .vsub .. | .vmul .. | .vfma .. | .vfms .. | .vmin .. | .vmax .. | .vabs .. | .vneg .. | .vdiv .. | .vsqrt ..
  | .vrcp .. | .vrsq .. | .vexp2 .. | .vlog2 .. | .vcmp .. | .vsel .. | .viadd .. | .visub .. | .vimul .. | .vand ..
  | .vor .. | .vxor .. | .vshl .. | .vshr .. | .vbcast .. | .vins .. | .vperm .. | .vscan .. | .vcvt .. | .vqnt ..
  | .vdqnt .. => true
  | .vextr d .. | .vredadd d .. | .vredmax d .. | .vredmin d .. | .vpopc d .. | .vffs d .. => d ≠ 0
  | _ => false

/-- The words a transform slot may run (R326): majors 0x01 to 0x15, 0x19 without QBIND, 0x1A to 0x1F, NEND, HBEAT, RDTIME
and hints. -/
def routineWord (i : Instr) : Bool :=
  let m := (encode i).toNat / 2 ^ 26
  match i with
  | .nend | .hbeat | .rdtime .. => true
  | .qbind .. => false
  | _ => (1 ≤ m && m ≤ 0x15) || (0x19 ≤ m && m ≤ 0x1F) || m = 0x3F

/-- The order of faults of R67 and the realignment of R47 at the start of every non-hint word: ILLEGAL, which also a further
condition of the instruction may give; then PRIV; then the body decides its own faults. -/
def issueWith (i : Instr) (bad : State → Bool) (level : Nat) (s : State) (body : State → Out) : Out :=
  if hintFault i s.thr.status || bad s || (isTransform s.thr.id && !routineWord i) then illegal i s
  else if s.thr.status.priv.toNat < level then fault .priv 0 none s
  else if s.thr.failed then machineCheck 0 0 s
  else if 0 < s.upset && checkedResult i then residueMismatch i s
  else realign s body

/-- The start of a word that every level may execute. -/
def issue (i : Instr) (s : State) (body : State → Out) : Out := issueWith i (fun _ => false) 0 s body

/-- A step of another unit that cannot come about in this state. -/
def notEnabled (row : String) : Out := .refused (.eventNotEnabled row)

end Sys2Proof.Machine
end

