-- ==== Sys2Proof/Machine/Operands.lean ====
section
/-!
DEFINITION. The operands of words: widths (spec/05_scalar_control.md R97), immediates (spec/02_idioms.md R46), branch targets
(spec/03_encoding.md R51), window words (spec/01_machine_state.md R24), pointers and their arithmetic
(spec/06_memory_instr.md R119, R120) and the address modes (R123).
-/
namespace Sys2Proof.Machine

/-! ## Widths -/

/-- N of R97. -/
def widthBits : Width → Nat
  | .w32 => 32
  | .w64 => 64

/-- trunc_N of a register (R97), as a number. -/
def truncW (w : Width) (x : DWord) : Nat := x.toNat % 2 ^ widthBits w

/-- An N-bit number read as signed. -/
def signedW (w : Width) (x : DWord) : Int := toSigned (widthBits w) x.toNat

/-- The value written for an N-bit result: sign-extended to 64 bits (R97). -/
def writeW (w : Width) (r : Nat) : DWord := sext64 (widthBits w) r

/-! ## The formats of a pending HFMT (R63) -/

/-- The payload of HFMT, or zero when none is pending. -/
def Thread.hfmt (t : Thread) : Nat := if t.status.pending 2 then t.pay.hfmt.toNat else 0
def fmtA (h : Nat) : Nat := bits h 21 17
def fmtB (h : Nat) : Nat := bits h 16 12
def fmtO (h : Nat) : Nat := bits h 11 7
def fmtScaleMode (h : Nat) : Nat := bits h 6 5
def fmtSideBit (h : Nat) : Bool := bit h 4

/-- Code 0 selects a default. -/
def fmtOr (c d : Nat) : Nat := if c = 0 then d else c

/-! ## Immediates and targets -/

/-- The immediate of an F-RI word: imm16, or 38 bits after HIMM (R46, R103). -/
def immediate (t : Thread) (i : Fin 65536) : DWord :=
  if t.status.pending 1 then sext64 38 (t.pay.himm.toNat * 2 ^ 16 + i.val) else sext64 16 i.val

/-- The offset in words of a branch: off13, or 35 bits after HIMM (R46, R105). -/
def branchWords (t : Thread) (o : Fin 8192) : Int :=
  if t.status.pending 1 then toSigned 35 (t.pay.himm.toNat * 2 ^ 13 + o.val) else toSigned 13 o.val

/-- A target so many words from the word's own address, modulo 2^55 (R51, R106). -/
def targetAt (t : Thread) (words : Int) : VAddr := t.pc + BitVec.ofInt 55 (4 * words)

/-! ## The constant window -/

/-- Where word k of the executing slot's window lies (R24). -/
def windowHome (id : SlotId) (k : Nat) : Home := ownLm id (0x800 * id.slot + 8 * k)

/-- win[k] (R24). -/
def State.win (s : State) (k : Nat) : DWord := BitVec.ofNat 64 (s.readHome (windowHome s.thr.id k) 8)

/-- n window words from k read, with an integrity failure met (R314). -/
def withWindow (k n : Nat) (s : State) (body : State → Out) : Out :=
  if s.badAt (windowHome s.thr.id k) (8 * n) then machineCheck 1 0 s else body s

/-! ## Pointers (R17, R119, R120) -/

/-- The space of a pointer. -/
def ptrSpace (p : DWord) : Nat := bits p.toNat 63 61

/-- The core an LM pointer names, numbered as in R351. -/
def ptrCore (p : DWord) : Nat :=
  1024 * bits p.toNat 60 58 + 256 * bits p.toNat 57 56 + 64 * bits p.toNat 55 54 + 8 * bits p.toNat 53 51
    + bits p.toNat 50 48

/-- The cluster an SRAM pointer names. -/
def ptrCluster (p : DWord) : Nat := 16 * bits p.toNat 60 58 + 4 * bits p.toNat 57 56 + bits p.toNat 55 54

/-- The offset of an LM pointer, of an SRAM pointer, and the address of a global one. -/
def ptrLmOff (p : DWord) : Nat := bits p.toNat 16 0
def ptrSramOff (p : DWord) : Nat := bits p.toNat 21 0
def ptrVa (p : DWord) : VAddr := p.setWidth 55

/-- The granule of a walk in bytes (R119). -/
def ptrGranule (p : DWord) : Nat := 2 ^ (bits p.toNat 29 26 + 3)

/-- An LM pointer some span of which is above 1. -/
def ptrWalks (p : DWord) : Bool := bits p.toNat 39 30 != 0

/-- One walked coordinate stays below its limit (R119). -/
def spanFits (c span limit : Nat) : Bool := decide (c - c % span + span ≤ limit)

/-- A pointer is valid (R119). -/
def ptrValid (p : DWord) : Bool :=
  let n := p.toNat
  match ptrSpace p with
  | 0 =>
    bits n 47 40 = 0 && bits n 25 17 = 0 && decide (bits n 29 26 ≤ 13) && spanFits (bits n 50 48) (bits n 39 37 + 1) 8
      && spanFits (bits n 53 51) (bits n 36 34 + 1) 8 && spanFits (bits n 55 54) (bits n 33 32 + 1) 4
      && spanFits (bits n 57 56) (bits n 31 30 + 1) 4
  | 1 => bits n 53 22 = 0
  | 2 => bits n 60 55 = 0
  | _ => false

/-- The global-virtual pointer to an address (R17). -/
def vaPtr (va : Nat) : DWord := BitVec.ofNat 64 (2 * 2 ^ 61 + va % 2 ^ 55)

/-- A pointer to a byte of a core's LM, with no walk. -/
def lmPtr (core off : Nat) : DWord :=
  BitVec.ofNat 64 (bits core 12 10 * 2 ^ 58 + bits core 9 8 * 2 ^ 56 + bits core 7 6 * 2 ^ 54 + bits core 5 3 * 2 ^ 51
    + bits core 2 0 * 2 ^ 48 + off % 2 ^ 17)

/-- adv of a core-LM pointer (R120): the digits run core x, core y, cluster x, cluster y, then the offset. -/
def advLm (n : Nat) (inc : Int) : Nat :=
  let g := bits n 29 26 + 3
  let xs := bits n 39 37 + 1
  let ys := bits n 36 34 + 1
  let cxs := bits n 33 32 + 1
  let cys := bits n 31 30 + 1
  let cx := bits n 50 48
  let cy := bits n 53 51
  let clx := bits n 55 54
  let cly := bits n 57 56
  let t0 := bits n 16 0 / 2 ^ g
  let t1 := cly % cys + cys * t0
  let t2 := clx % cxs + cxs * t1
  let t3 := cy % ys + ys * t2
  let t4 := cx % xs + xs * t3
  let l : Int := (bits n 16 0 % 2 ^ g + 2 ^ g * t4 : Nat) + inc
  let lo := l % (2 ^ g : Nat)
  let u0 := l / (2 ^ g : Nat)
  let u1 := u0 / (xs : Nat)
  let u2 := u1 / (ys : Nat)
  let u3 := u2 / (cxs : Nat)
  let u4 := u3 / (cys : Nat)
  bits n 60 58 * 2 ^ 58 + (cly - cly % cys + (u3 % (cys : Nat)).toNat) * 2 ^ 56
    + (clx - clx % cxs + (u2 % (cxs : Nat)).toNat) * 2 ^ 54 + (cy - cy % ys + (u1 % (ys : Nat)).toNat) * 2 ^ 51
    + (cx - cx % xs + (u0 % (xs : Nat)).toNat) * 2 ^ 48 + bits n 47 17 * 2 ^ 17 + wrap 17 (u4 * (2 ^ g : Nat) + lo)

/-- adv (R120). A reserved space code is left as it is: such a pointer is never used (R119). -/
def adv (p : DWord) (inc : Int) : DWord :=
  match ptrSpace p with
  | 0 => BitVec.ofNat 64 (advLm p.toNat inc)
  | 1 => BitVec.ofNat 64 (bits p.toNat 63 22 * 2 ^ 22 + wrap 22 (ptrSramOff p + inc))
  | 2 => BitVec.ofNat 64 (bits p.toNat 63 55 * 2 ^ 55 + wrap 55 ((ptrVa p).toNat + inc))
  | _ => p

/-- The byte address that alignment is judged by (R124 step 2). -/
def ptrByte (p : DWord) : Nat :=
  match ptrSpace p with
  | 0 => ptrLmOff p
  | 1 => ptrSramOff p
  | _ => (ptrVa p).toNat

/-- An access of n bytes is aligned (R124 step 2). -/
def ptrAligned (p : DWord) (n : Nat) : Bool :=
  ptrByte p % n = 0 && (ptrSpace p != 0 || !ptrWalks p || decide (n ≤ ptrGranule p))

/-- A pointer is usable by a slot: valid, and in a transform slot only of its own LM (R119, R326). -/
def ptrUsable (id : SlotId) (p : DWord) : Bool :=
  if isTransform id then decide (p.toNat < 0x8000) else ptrValid p

/-! ## Address modes (R123) -/

/-- The pointer that an access through p uses as its address: EA, or p itself when p is not valid (R119), so that the access
then faults (log 36). -/
def through (id : SlotId) (p ea : DWord) : DWord := if ptrUsable id ea && !ptrUsable id p then p else ea

/-- EA and the pointer after a successful access. -/
def effective (t : Thread) (p : PReg) : Addr → DWord × Option (PReg × DWord)
  | .plain off => (through t.id (t.preg p) (adv (t.preg p) (toSigned 11 off.val)), none)
  | .postImm off => (t.preg p, some (p, adv (t.preg p) (toSigned 11 off.val)))
  | .postReg r => (t.preg p, some (p, adv (t.preg p) (t.sreg r).toInt))
  | .index r => (through t.id (t.preg p) (adv (t.preg p) (t.sreg r).toInt), none)

/-- The pointer update of a post-increment mode applied. -/
def Thread.update (t : Thread) : Option (PReg × DWord) → Thread
  | none => t
  | some (p, v) => t.setP p v

/-- Bytes of a load of size3 (R58). -/
def ldBytes : LdSize → Nat
  | .bsx => 1
  | .hsx => 2
  | .wsx => 4
  | .d => 8
  | .bzx => 1
  | .hzx => 2
  | .wzx => 4

/-- A load extends by sign (R125). -/
def ldSigned : LdSize → Bool
  | .bsx => true
  | .hsx => true
  | .wsx => true
  | .d => false
  | .bzx => false
  | .hzx => false
  | .wzx => false

/-- Bytes of a store of size3 (R58). -/
def stBytes : StSize → Nat
  | .b => 1
  | .h => 2
  | .w => 4
  | .d => 8

/-- Bytes of an element of GATH and SCAT (R130). -/
def gBytes : GSize → Nat
  | .w => 4
  | .h => 2
  | .b => 1

/-- An ordering acquires, or releases (R128). -/
def ordAcquires : Ord → Bool
  | .plain => false
  | .acq => true
  | .rel => false
  | .ar => true
def ordReleases : Ord → Bool
  | .plain => false
  | .acq => false
  | .rel => true
  | .ar => true

end Sys2Proof.Machine
end

