-- ==== Sys2Proof/Machine/Frames.lean ====
section
/-!
DEFINITION. Entries of translation tables (spec/18_faults_preemption.md R301, spec/20_engines_memory.md R329), the leaves that
map a frame of HBM, and the worlds of its pages. A request that comes with a physical address meets the firewall with the
world of the frame's leaf (spec/22_trust.md R347, R349, R356), which stands in the translation tables.
-/
namespace Sys2Proof.Machine

/-! ## Entries of translation tables (R301) -/

/-- The address bits a leaf of a level leaves to the page. -/
def pageBits : Nat → Nat
  | 1 => 42
  | 2 => 29
  | _ => 16

/-- Fields of an entry. -/
def pteWorld (w : DWord) : BitVec 4 := w.extractLsb' 52 4
def ptePfn (w : DWord) : Nat := bits w.toNat 51 16
def pteMtype (w : DWord) : Nat := bits w.toNat 13 12
def pteDisc (w : DWord) : Bool := w.getLsbD 9
def pteComp (w : DWord) : Bool := w.getLsbD 8
def pteUser (w : DWord) : Bool := w.getLsbD 5
def pteExec (w : DWord) : Bool := w.getLsbD 4
def pteWrite (w : DWord) : Bool := w.getLsbD 3
def pteRead (w : DWord) : Bool := w.getLsbD 2

/-- The sharing class of a page; the reserved code is malformed (R301). -/
def pteShare (w : DWord) : Share :=
  match bits w.toNat 11 10 with
  | 0 => .own
  | 1 => .shared
  | _ => .hostcoh

/-- The physical address that a leaf gives a virtual one (R300). -/
def Leaf.pa (l : Leaf) (va : Nat) : Nat := ptePfn l.word * 2 ^ 16 + va % 2 ^ pageBits l.level

/-- The leaf maps a virtual address. -/
def Leaf.covers (l : Leaf) (va : Nat) : Bool := va / 2 ^ pageBits l.level = l.vpn

/-- A frame lies where its memory type puts it (R304, R329, R336, R341). -/
def frameOk (w : DWord) (pa : Nat) : Bool :=
  match pteMtype w with
  | 0 => bits pa 51 40 = 0
  | 1 => bits pa 51 49 = 0
  | 2 => bits pa 43 40 = 0
  | _ => bits pa 51 44 = 0xFF && bits w.toNat 11 10 = 2 && !pteComp w && !pteDisc w

/-- A leaf of a level is well formed (R301, reason 7). -/
def leafOk (level : Nat) (w : DWord) : Bool :=
  bits w.toNat 63 56 = 0 && bits w.toNat 15 14 = 0 && bits w.toNat 11 10 != 3 && (!pteWrite w || pteRead w)
    && (level = 3 || (!pteDisc w && !pteComp w)) && (!pteComp w || pteMtype w = 0)
    && (level != 2 || bits w.toNat 28 16 = 0) && (level != 1 || bits w.toNat 41 16 = 0)
    && frameOk w (ptePfn w * 2 ^ 16)

/-- An entry that points to the next table is well formed (R301). -/
def pointerOk (w : DWord) : Bool :=
  bits w.toNat 63 56 = 0 && bits w.toNat 55 52 = 0 && bits w.toNat 15 2 = 0 && decide (ptePfn w * 2 ^ 16 < Config.hbmBytes)

/-- A word of a table, read at its home. -/
def State.pte (s : State) (addr : Nat) : DWord := BitVec.ofNat 64 (s.mem.num addr 8)

/-! ## Worlds (R349) -/

/-- The ASID root word (R300). -/
def State.rootWord (s : State) (asid : BitVec 16) : DWord := s.pte (bits s.ctl.atbase.toNat 51 19 * 2 ^ 19 + 8 * asid.toNat)

/-- FWROW of a world. -/
def State.fwRow (s : State) (r : BitVec 4) : BitVec 32 := if r = 0 then 0xFFFFFFFF else s.trust.fwrow.getD r.toNat 0

/-- A read, and a write, of world r to target world t (R349); a cleared copy writes under R354. -/
def State.mayRead (s : State) (r t : BitVec 4) : Bool :=
  (s.fwRow r).getLsbD t.toNat && (!s.protectedWorld t || r = t || r = 0)
def State.mayWrite (s : State) (r t : BitVec 4) (cleared : Bool) : Bool :=
  if cleared && s.protectedWorld r then ((s.fwRow r).getLsbD (16 + t.toNat) && !s.protectedWorld t) || t = r
  else (s.fwRow r).getLsbD (16 + t.toNat) && (!s.protectedWorld t || r = t || r = 0)
    && (!s.protectedWorld r || t = r || r = 0)

/-! ## The leaves of a frame -/

/-- Neighbouring equal numbers made one. -/
def dedup : List Nat → List Nat
  | [] => []
  | a :: l => match dedup l with
    | [] => [a]
    | b :: m => if a = b then b :: m else a :: b :: m

/-- The nonzero 8-byte words of a range of HBM. -/
def State.wordsIn (s : State) (base len : Nat) : List DWord :=
  (dedup ((s.mem.filter (fun c => decide (base ≤ c.1) && decide (c.1 < base + len))).map (fun c => c.1 / 8))).map (fun a => s.pte (8 * a))

/-- The leaves below the tables of a level, with their levels. -/
def State.leavesBelow (s : State) : Nat → Nat → List Nat → List (Nat × DWord)
  | 0, _, _ => []
  | fuel + 1, level, tables =>
    let words := (tables.flatMap (fun t => s.wordsIn t 65536)).filter (·.getLsbD 0)
    (words.filter (·.getLsbD 1)).map (fun w => (level, w)) ++
      s.leavesBelow fuel (level + 1) ((words.filter (fun w => !w.getLsbD 1 && pointerOk w)).map (fun w => ptePfn w * 2 ^ 16))

/-- The leaves of some address spaces. -/
def State.leavesOf (s : State) (asids : List (BitVec 16)) : List (Nat × DWord) :=
  s.leavesBelow 3 1 (((asids.map s.rootWord).filter (·.getLsbD 0)).map (fun w => ptePfn w * 2 ^ 16))

/-- The leaves of all address spaces. -/
def State.allLeaves (s : State) : List (Nat × DWord) :=
  let roots := (s.wordsIn (bits s.ctl.atbase.toNat 51 19 * 2 ^ 19) 0x80000).filter (·.getLsbD 0)
  s.leavesBelow 3 1 (roots.map (fun w => ptePfn w * 2 ^ 16))

/-- The leaf maps a byte of module HBM. -/
def leafMaps (pa : Nat) (l : Nat × DWord) : Bool :=
  pteMtype l.2 = 0 && leafOk l.1 l.2 && decide (ptePfn l.2 * 2 ^ 16 ≤ pa) && decide (pa < ptePfn l.2 * 2 ^ 16 + 2 ^ pageBits l.1)

/-- The worlds of the leaves that map a byte of HBM; a byte that none maps counts as world 1's (log 28). -/
def State.frameWorlds (s : State) (pa : Nat) : List (BitVec 4) :=
  match (s.allLeaves.filter (leafMaps pa)).map (fun l => pteWorld l.2) with
  | [] => [1]
  | l => l

/-- The firewall admits an access to n bytes of HBM by a physical address: every leaf of its frames lets it. -/
def State.admitsFrames (s : State) (r : BitVec 4) (pa n : Nat) (rd wr : Bool) : Bool :=
  ((List.range (n / 65536 + 2)).map (fun i => min (pa + 65536 * i) (pa + n - 1))).all (fun a =>
    (s.frameWorlds a).all (fun t => (!rd || s.mayRead r t) && (!wr || s.mayWrite r t false)))

end Sys2Proof.Machine
end

