-- ==== Sys2Proof/Machine/Perform.lean ====
section
/-!
DEFINITION. A write performed at its home (spec/12_ordering.md R244, R251, R256): the bank that it wakes
(spec/20_engines_memory.md R322, R323), the monitors that it trips (spec/10_system_instr.md R234), the words that it makes good
(spec/18_faults_preemption.md R314) and the text that it changes (spec/03_encoding.md R68).
-/
namespace Sys2Proof.Machine

/-- What a core holds beside its slots. -/
def State.core (s : State) (i : Nat) : Core := assocD s.cores i Core.reset

/-- A core put back. -/
def State.setCore (s : State) (i : Nat) (c : Core) : State := { s with cores := assocSet s.cores i c }

/-- A bank of a cluster. -/
def State.bank (s : State) (cl b : Nat) : Bank := assocD s.banks (cl, b) Bank.reset

/-- A bank put back. -/
def State.setBank (s : State) (cl b : Nat) (k : Bank) : State := { s with banks := assocSet s.banks (cl, b) k }

/-- Two ranges of n and m bytes overlap. -/
def overlaps (a n b m : Nat) : Bool := decide (a < b + m) && decide (b < a + n)

/-- The bank of a byte of LM or SRAM. -/
def Home.bankId : Home → Option BankId
  | .lm c off => some (.lm c (off / 8192))
  | .sram cl off => some (.sram cl (off / 65536))
  | _ => none

/-- An access wakes the bank that it reaches: a reefed one, and a furled one, which is powered again (R249, R323). -/
def State.wakeBank (s : State) (h : Home) : State :=
  let s := { s with
    reefed := s.reefed.filter (fun b => some b ≠ h.bankId)
    touched := match h.bankId with
      | some b => assocSet s.touched b s.clock
      | none => s.touched }
  match h with
  | .sram cl off =>
    let b := s.bank cl (off / 65536)
    if b.furled then s.setBank cl (off / 65536) { b with furled := false, furl := false } else s
  | _ => s

/-- A word of the constant window read by ALUK or LOOPK: the cycles that the read adds, 8 where it waits for a refresh or for a reefed
bank, which it wakes (R116). -/
def State.windowWait (s : State) (k : Nat) : Nat × State :=
  let h := windowHome s.thr.id k
  (if s.reefed.any (fun b => some b = h.bankId) then 8 else 8 * (Config.latency s.fresh % 2), s.used.wakeBank h)

/-! ## Performing a write at its home -/

/-- Monitors armed on a line that a write reaches trip (R234, R256). -/
def Thread.trip (h : Home) (n : Nat) (t : Thread) : Thread :=
  match t.monitor with
  | none => t
  | some m =>
    if m.line.withOff 0 = h.withOff 0 && overlaps h.off n m.line.off 64 then
      { t with monitor := some { m with tripped := true } }
    else t

/-- The 4-byte words that n bytes at an address touch. -/
def wordsAt (pa n : Nat) : List Nat := (List.range ((pa + n + 3) / 4 - pa / 4)).map (pa / 4 + ·)

/-- A leaf lets a node fetch from its frame as it stands there: X, and U for a compute node, neither discarded nor compressed (R68). -/
def textWord (service : Bool) (w : DWord) : Bool := pteExec w && (service || pteUser w) && !pteDisc w && !pteComp w

/-- The leaves through which a node fetches: those of its address space and of its members', and those that its leases pin (R68,
R302). -/
def State.textLeaves (s : State) (n : Node) : List (Nat × DWord) :=
  ((s.leavesOf (n.asid :: (s.threads.filter (fun t => t.node = n.id)).map (·.asid))) ++
    (n.grants.flatMap (·.pins)).map (fun l => (l.level, l.word))).filter (fun l => textWord n.service l.2)

/-- A running node remembers what a word of its text held at the launch: the first write to the word notes it (R68). What is no text of
the node when it is written is not noted. -/
def Node.noteText (m : Memory) (words : List Nat) (text : List (Nat × DWord)) (n : Node) : Node :=
  if n.phase = .running || n.phase = .spilled || !n.saved.isEmpty then
    { n with oldText := words.foldl (fun l w =>
        if l.any (fun x => x.1 = w) || !text.any (leafMaps (4 * w)) then l else (w, BitVec.ofNat 32 (m.num (4 * w) 4)) :: l) n.oldText }
  else n

/-- A write to HBM is noted by the nodes that run. -/
def State.noteText (s : State) (h : Home) (n : Nat) : State :=
  match h with
  | .hbm pa => { s with nodes := s.nodes.map (fun x => Node.noteText s.mem (wordsAt pa n) (s.textLeaves x) x) }
  | _ => s

/-- What is sent to a host's memory behind a port gets no answer and is discarded while the function that the host reaches the module by
is in reset; devices below a root port are untouched by it (R346, log 118). -/
def State.hostSilent (s : State) (port bus : Nat) : Bool :=
  s.fabric.inReset.contains port && (!s.typel.selfHosted || Config.managementHost bus)

/-- A write performed at its home: the bytes, the words and the sealed lines that it replaces whole (R314, R353), and the monitors it
trips. A write to
host memory is a posted write that the port sends, or is discarded while the port's function is in reset (R341, R346). -/
def State.perform (s : State) (h : Home) (l : List Byte) : State :=
  let n := l.length
  let s := ((s.wakeBank h).noteText h n).poke h l
  let bad := match h.key with
    | some k => s.bad.filter (fun w => !(decide (k ≤ 8 * w) && decide (8 * w + 8 ≤ k + n)))
    | none => s.bad
  let seals := match h with
    | .hbm pa => s.seals.filter (fun x => !(decide (pa ≤ 64 * x.line) && decide (64 * x.line + 64 ≤ pa + n)))
    | _ => s.seals
  let out := match h with
    | .host p b => if s.hostSilent p b then s.outbox else .hostWrite p b n (ofBytes l) :: s.outbox
    | _ => s.outbox
  { s with thr := s.thr.trip h n, others := s.others.map (Thread.trip h n), bad := bad, seals := seals, outbox := out }

/-- Monitors armed on the lines that n bytes at a home touch trip (R234, R256). -/
def State.tripAt (s : State) (h : Home) (n : Nat) : State :=
  { s with thr := s.thr.trip h n, others := s.others.map (Thread.trip h n) }

/-- n zeros performed at a home. -/
def State.performZeros (s : State) (h : Home) (n : Nat) : State :=
  (((s.wakeBank h).noteText h n).zeroHome h n).tripAt h n

end Sys2Proof.Machine
end

