-- ==== Sys2Proof/Machine/Sealing.lean ====
section
/-!
DEFINITION. The lines of a protected world: what stands sealed in HBM, what opening it gives, and a write performed at its home
for a world (spec/22_trust.md R353, R355).
-/
namespace Sys2Proof.Machine

/-- Bytes put into a line's value from an offset. -/
def linePut (v : VecWord) (off : Nat) (l : List Byte) : VecWord :=
  let old := toBytes 64 v.toNat
  BitVec.ofNat 512 (ofBytes (old.take off ++ l ++ old.drop (off + l.length)))

/-- The mask of n bytes from an offset of a line. -/
def byteMask (off n : Nat) : BitVec 64 := BitVec.ofNat 64 ((2 ^ n - 1) * 2 ^ off)

/-- The 64-byte lines of a range of HBM. -/
def lineList (pa n : Nat) : List Nat := (List.range ((pa + n + 63) / 64 - pa / 64)).map (pa / 64 + ·)

/-- The IV of a cluster's next message for a world: the cluster index and the world in 32 bits, and the cluster's egress counter,
which counts on (R353). Ports that send for no cluster count as cluster 128 (log 104). -/
def State.nextIv (s : State) (cl : Nat) (w : BitVec 4) : BitVec 96 × State :=
  let n := assocD s.trust.egress cl 0
  (BitVec.ofNat 96 ((16 * cl + w.toNat) * 2 ^ 64 + n % 2 ^ 64), { s with trust := { s.trust with egress := assocSet s.trust.egress cl (n + 1) } })

/-- Text sealed for a world under a key (R353): the tag of 64 bits covers the text, its address and the world. -/
def sealText (key : List (BitVec 8)) (iv : BitVec 96) (w : BitVec 4) (addr : Nat) (text : List Byte) : List Byte × Sealing :=
  let nums := fun (l : List Byte) => l.map (·.toNat)
  let r := gcmSeal (nums key) (beBytes 12 iv.toNat) (beBytes 8 addr ++ [w.toNat]) (nums text)
  (r.1.map (BitVec.ofNat 8), { iv := iv, tag := BitVec.ofNat 64 (r.2 / 2 ^ 64) })

/-- The world that a line is sealed for. -/
def State.sealedFor (s : State) (line : Nat) : Option SealedLine := s.seals.find? (fun x => x.line = line)

/-- A line of a range has a tag that fails (R353). -/
def State.tagFails (s : State) (h : Home) (n : Nat) : Bool :=
  match h with
  | .hbm pa => (lineList pa n).any (fun k => (s.sealedFor k).any (·.broken))
  | _ => false

/-- The bytes of a range read through a leaf: those of a line sealed for another world are free values, since the manual does not say
what its slice then gives (log 104). -/
def State.openedBytes (s : State) (w : BitVec 4) (h : Home) (n : Nat) : List Byte :=
  let l := s.readBytes h n
  match h with
  | .hbm pa =>
    l.mapIdx (fun i b => if (s.sealedFor ((pa + i) / 64)).any (fun x => x.world ≠ w) then Config.foreignByte s.fresh (pa + i) else b)
  | _ => l

/-- The lines of a range opened for a write by a world: where another world has sealed one, what the write leaves of it is what
opening it gives (R353, log 104). -/
def State.openFor (s : State) (w : BitVec 4) (h : Home) (n : Nat) : State :=
  match h with
  | .hbm pa => (lineList pa n).foldl (fun s k =>
      if (s.sealedFor k).any (fun x => x.world ≠ w) then s.used.poke (.hbm (64 * k)) (s.openedBytes w (.hbm (64 * k)) 64) else s) s
  | _ => s

/-- A line of HBM stored sealed for a world, its IV and tag beside it (R353). A tag that failed still fails after a write of a part of
the line; a write of the whole line has removed it (State.perform). -/
def State.sealLine (w : BitVec 4) (cl : Nat) (s : State) (line : Nat) : State :=
  let (iv, s) := s.nextIv cl w
  let m := (sealText (Config.worldKey s.typel.starts w) iv w (64 * line) (s.readBytes (.hbm (64 * line)) 64)).2
  { s with seals := { line := line, world := w, meta_ := m, broken := (s.sealedFor line).any (·.broken) } ::
      s.seals.filter (fun x => x.line ≠ line) }

/-- n bytes at a home have been written by a cluster for a target world: a protected world's lines of HBM stand sealed (R353). -/
def State.sealAt (s : State) (cl : Nat) (w : BitVec 4) (h : Home) (n : Nat) : State :=
  match h with
  | .hbm pa =>
    if s.protectedWorld w then (lineList pa n).foldl (State.sealLine w cl) s
    else { s with seals := s.seals.filter (fun x => x.broken || !(lineList pa n).contains x.line) }
  | _ => s

/-- A write of a cluster performed at a home for a target world (R244, R353). -/
def State.performFor (s : State) (cl : Nat) (w : BitVec 4) (h : Home) (l : List Byte) : State :=
  ((s.openFor w h l.length).perform h l).sealAt cl w h l.length

end Sys2Proof.Machine
end

