-- ==== Sys2Proof/Machine/Translate.lean ====
section
/-!
DEFINITION. Address translation, TLBs, discarded and compressed pages (spec/18_faults_preemption.md R300 to R308,
spec/20_engines_memory.md R329 to R331) and the firewall (spec/22_trust.md R347 to R355).
-/
namespace Sys2Proof.Machine

/-! ## Walks (R300 to R302) -/

/-- A walk from the table of a level down (R300 to R302): the leaf, or the level and reason of the failure. The walker reads as world 1
(R347): an entry that the firewall does not let it read counts as one with V = 0. DESIGN CHOICE (log 126). -/
def State.walkFrom (s : State) (va table : Nat) : Nat → Nat → Except (Nat × Nat) Leaf
  | _, 0 => .error (3, 7)
  | level, fuel + 1 =>
    let addr := table + 8 * (va / 2 ^ pageBits level % 2 ^ 13)
    let w := s.pte addr
    if w.getLsbD 0 = false || !s.admitsFrames 1 addr 8 true false then .error (level, 1)
    else if w.getLsbD 1 then
      if leafOk level w && frameOk w (ptePfn w * 2 ^ 16 + va % 2 ^ pageBits level) then
        .ok { level := level, vpn := va / 2 ^ pageBits level, word := w, addr := addr }
      else .error (level, 7)
    else if level = 3 || !pointerOk w then .error (level, 7)
    else s.walkFrom va (ptePfn w * 2 ^ 16) (level + 1) fuel

/-- A full walk (R300). A root word with V = 0 decides the failure at level 0. -/
def State.walk (s : State) (asid : BitVec 16) (va : Nat) : Except (Nat × Nat) Leaf :=
  let r := s.rootWord asid
  let at_ := bits s.ctl.atbase.toNat 51 19 * 2 ^ 19 + 8 * asid.toNat
  if r.getLsbD 0 && s.admitsFrames 1 at_ 8 true false && decide (ptePfn r * 2 ^ 16 < Config.hbmBytes) then s.walkFrom va (ptePfn r * 2 ^ 16) 1 3
  else .error (0, 1)

/-- The access kind of a translation word (R302). -/
def kindCode : AccessKind → Nat
  | .load => 0
  | .store => 1
  | .fetch => 2
  | .atomic => 3
  | .engRead => 3
  | .engWrite => 3

/-- A translation word (R302). -/
def transWord (level : Nat) (k : AccessKind) (reason va : Nat) : DWord :=
  BitVec.ofNat 64 (level * 2 ^ 61 + kindCode k * 2 ^ 59 + reason * 2 ^ 55 + va % 2 ^ 55)

/-- An access of this kind reads, and writes. -/
def kindReads : AccessKind → Bool
  | .load => true
  | .engRead => true
  | .atomic => false
  | .store => false
  | .fetch => false
  | .engWrite => false
def kindWrites : AccessKind → Bool
  | .store => true
  | .atomic => true
  | .engWrite => true
  | .load => false
  | .fetch => false
  | .engRead => false

/-- The reason a leaf does not permit an access, in the order of R302's table. -/
def leafDenies (w : DWord) (k : AccessKind) (user : Bool) : Option Nat :=
  if kindReads k && !pteRead w then some 2
  else if kindWrites k && !pteWrite w then some 3
  else if k = .fetch && !pteExec w then some 4
  else if user && !pteUser w then some 5
  else if kindWrites k && pteComp w then some 6
  else none

/-! ## TLBs (R303) -/

/-- The entries a TLB holds at most. -/
def tlbSize : TlbUnit → Nat
  | .itlb _ => 16
  | .dtlb _ => 32
  | .l2 _ => 4096

/-- The leaf a TLB holds for an address. -/
def State.tlbFind (s : State) (u : TlbUnit) (asid : BitVec 16) (va : Nat) : Option Leaf :=
  (s.tlb.find? (fun e => e.unit = u && e.asid = asid && !e.pinned && e.leaf.covers va)).map (·.leaf)

/-- An entry filled into a TLB; a full one replaces some entry of it (log 13). -/
def State.tlbEnter (s : State) (x : TlbEntry) : State :=
  let mine := s.tlb.filter (fun e => e.unit = x.unit)
  let old := mine.filter (fun e => !(e.asid = x.asid && e.pinned = x.pinned && e.leaf.vpn = x.leaf.vpn && e.leaf.level = x.leaf.level))
  let rest := s.tlb.filter (fun e => e.unit ≠ x.unit)
  if old.length < tlbSize x.unit then { s with tlb := x :: old ++ rest }
  else { s.used with tlb := x :: old.eraseIdx (Config.victim s.fresh % old.length) ++ rest }

/-- A leaf that a walk has found filled into a TLB. -/
def State.tlbFill (s : State) (u : TlbUnit) (asid : BitVec 16) (l : Leaf) : State :=
  s.tlbEnter { unit := u, asid := asid, leaf := l, pinned := false }

/-- One more hit, or one more miss, of a cluster's TLBs (R303). -/
def State.countTlb (s : State) (cl : Nat) (hit : Bool) : State :=
  if hit then { s with tlbHits := assocSet s.tlbHits cl (assocD s.tlbHits cl 0 + 1) }
  else { s with tlbMisses := assocSet s.tlbMisses cl (assocD s.tlbMisses cl 0 + 1) }

/-- An entry changed at its home: bits cleared, and bits set by an atomic OR; the TLBs' copies of the leaf follow. What a lease has
pinned stays as it is (R301, R302). The walker writes as world 1 (R347): where the firewall does not let it, the entry stays as it is
(log 126). -/
def State.setLeaf (s : State) (l : Leaf) (off on : DWord) : State :=
  if !s.admitsFrames 1 l.addr 8 true true then s else
  let fix := fun (m : Leaf) => if m.addr = l.addr then { m with word := (m.word &&& ~~~off) ||| on } else m
  let s := s.perform (.hbm l.addr) (toBytes 8 ((s.pte l.addr &&& ~~~off) ||| on).toNat)
  { s with tlb := s.tlb.map (fun e => if e.pinned then e else { e with leaf := fix e.leaf }) }

/-- A leaf met by a walk, with A set where it lies (R301). -/
def State.markAccessed (s : State) (l : Leaf) : Leaf × State :=
  if l.word.getLsbD 6 then (l, s) else ({ l with word := l.word ||| 0x40 }, s.setLeaf l 0 0x40)

/-- The translation of an address for a slot or engine of a cluster (R302, R303): its own TLB, then the cluster's L2 TLB,
then a walk, which fills both. -/
def State.translate (s : State) (u : TlbUnit) (cl : Nat) (asid : BitVec 16) (va : Nat) (k : AccessKind) (user : Bool) :
    Except DWord Leaf × State :=
  let judge := fun (l : Leaf) (s : State) =>
    if !frameOk l.word (l.pa va) then ((.error (transWord l.level k 7 va) : Except DWord Leaf), s)
    else match leafDenies l.word k user with
    | some r => (.error (transWord l.level k r va), s)
    | none => (.ok l, s)
  match s.tlbFind u asid va with
  | some l => judge l (s.countTlb cl true)
  | none =>
    match s.tlbFind (.l2 cl) asid va with
    | some l => judge l ((s.countTlb cl false).tlbFill u asid l)
    | none =>
      match s.walk asid va with
      | .error (level, reason) => (.error (transWord level k reason va), s.countTlb cl false)
      | .ok l =>
        let (l, s) := (s.countTlb cl false).markAccessed l
        judge l ((s.tlbFill (.l2 cl) asid l).tlbFill u asid l)

/-- An access through a translation that a lease pins (R302, R303): the pin translates; a TLB that does not hold it misses and is
refilled from it. -/
def State.touchPin (s : State) (u : TlbUnit) (cl : Nat) (asid : BitVec 16) (l : Leaf) : State :=
  let holds := fun (u : TlbUnit) => s.tlb.any (fun e => e.unit = u && e.asid = asid && e.pinned && e.leaf = l)
  let fill := fun (s : State) (u : TlbUnit) => s.tlbEnter { unit := u, asid := asid, leaf := l, pinned := true }
  if holds u then s.countTlb cl true
  else if holds (.l2 cl) then fill (s.countTlb cl false) u
  else fill (fill (s.countTlb cl false) (.l2 cl)) u

/-- The home of an address of a leaf (R244). -/
def Leaf.home (l : Leaf) (va : Nat) : Home :=
  let pa := l.pa va
  match pteMtype l.word with
  | 0 => .hbm pa
  | 1 => .host (bits pa 48 48) (bits pa 47 0)
  | 2 => .peer (bits pa 51 44) (bits pa 39 0)
  | _ => .ctl pa

/-! ## Discarded and compressed pages -/

/-- The page of the leaf still reads as discarded: its revival, which leaves the entry with DISC clear and otherwise as it was but for A
and D, has not come (R307). An entry that software has since rewritten does not count: the translation is in force until it is dropped
(R306). -/
def State.discarded (s : State) (l : Leaf) : Bool :=
  let w := s.pte l.addr
  pteDisc l.word && !(!pteDisc w && w &&& ~~~(0x2C0 : DWord) = l.word &&& ~~~(0x2C0 : DWord))

/-- The frame of a 64 KiB page lies in these lines; no cluster keeps a copy of them (R307). -/
def State.dropFrame (s : State) (h : Home) : State :=
  { s with cache := s.cache.filter (fun c => !(c.line.withOff 0 = h.withOff 0 && decide (h.off ≤ c.line.off) && decide (c.line.off < h.off + 65536))) }

/-- What a frame of 64 KiB held is fetched no more (R307): no node's text has an older form there. -/
def State.dropOldText (s : State) (h : Home) : State :=
  match h with
  | .hbm pa => { s with nodes := s.nodes.map (fun n =>
      { n with oldText := n.oldText.filter (fun x => !(decide (pa ≤ 4 * x.1) && decide (4 * x.1 < pa + 65536))) }) }
  | _ => s

/-- The first write to a discarded page (R307): the frame is zero-filled at its home, DISC is cleared and D is set. Zeros for host
memory leave as one posted write. The firewall is not asked about the zeros, which the page reads already (log 126). -/
def State.revive (s : State) (l : Leaf) : State :=
  if s.discarded l then
    let h := l.home (l.vpn * 2 ^ 16)
    let s := match h with
      | .host p b => if s.hostSilent p b then s else ({ s with outbox := .hostWrite p b 65536 0 :: s.outbox }).tripAt h 65536
      | h => (s.performZeros h 65536).sealAt Config.clusters (pteWorld l.word) h 65536
    ((s.dropFrame h).dropOldText h).setLeaf l 0x200 0x80
  else s

/-- The first write through a leaf sets D, and revives a discarded page (R301, R307). -/
def State.markDirty (s : State) (l : Leaf) : State :=
  if s.discarded l then s.revive l else if l.word.getLsbD 7 then s else s.setLeaf l 0 0x80

/-- A sector's bytes from its record: the bytes of the bitmap's ones, in ascending order (R330). -/
def unpackSector (bitmap : Nat) (l : List Byte) : Nat → List Byte
  | 0 => []
  | n + 1 =>
    if bitmap % 2 = 1 then l.headD 0 :: unpackSector (bitmap / 2) l.tail n else 0 :: unpackSector (bitmap / 2) l n

/-- A sector of an image in the format of R330: its 64 bytes, or none when its map entry is malformed. mapLen and len are
the lengths of the padded map and of the whole image. -/
def expandSector (img : List Byte) (mapLen len i : Nat) : Option (List Byte) :=
  let o := ofBytes ((img.drop (2 * i)).take 2)
  if o = 0xFFFF then some (List.replicate 64 0)
  else
    let r := img.drop (8 * o)
    let bitmap := ofBytes (r.take 8)
    if mapLen ≤ 8 * o ∧ 8 * o + 8 ≤ len ∧ 8 * o + 8 + popcount 64 bitmap ≤ len then some (unpackSector bitmap (r.drop 8) 64)
    else none

/-- A number of n bytes that the base die reads for a page of a world (R331, R353). -/
def State.openedNum (s : State) (w : BitVec 4) (pa n : Nat) : Nat := ofBytes (s.openedBytes w (.hbm pa) n)

/-- What the base die reads for a sector of a compressed page: its map entry, and its record where the entry is well formed: address
and length (R331). -/
def State.sectorPieces (s : State) (w : BitVec 4) (frame i : Nat) : List (Nat × Nat) :=
  let o := s.openedNum w (frame + 2 * i) 2
  (frame + 2 * i, 2) ::
    (if o ≠ 0xFFFF ∧ 2048 ≤ 8 * o ∧ 8 * o + 8 ≤ 65536 then
      [(frame + 8 * o, min (65536 - 8 * o) (8 + popcount 64 (s.openedNum w (frame + 8 * o) 8)))]
     else [])

/-- What SECDED cannot correct of a sector, and what fails its tag (R314, R331, R353). -/
def State.sectorBad (s : State) (w : BitVec 4) (frame i : Nat) : Bool := (s.sectorPieces w frame i).any (fun x => s.badAt (.hbm x.1) x.2)
def State.sectorTagFails (s : State) (w : BitVec 4) (frame i : Nat) : Bool :=
  (s.sectorPieces w frame i).any (fun x => s.tagFails (.hbm x.1) x.2)

/-- A sector of a compressed page at its frame (R331). -/
def State.expandAt (s : State) (w : BitVec 4) (frame i : Nat) : Option (List Byte) :=
  let o := s.openedNum w (frame + 2 * i) 2
  if s.sectorBad w frame i || s.sectorTagFails w frame i then none
  else if o = 0xFFFF then some (List.replicate 64 0)
  else
    let bitmap := s.openedNum w (frame + 8 * o) 8
    if 2048 ≤ 8 * o ∧ 8 * o + 8 + popcount 64 bitmap ≤ 65536 then
      some (unpackSector bitmap (s.openedBytes w (.hbm (frame + 8 * o + 8)) 64) 64)
    else none

/-! ## The firewall (R347 to R355) -/

/-- The world that owns a byte of LM through a slot: its window, or a workspace, until the node has ended (R352). -/
def State.lmOwner (s : State) (core off : Nat) : Option (BitVec 4) :=
  match s.threads.find? (fun t => t.id.core = core &&
      ((0x800 * t.id.slot ≤ off && off < 0x800 * t.id.slot + 0x800) || (t.wp ≤ off && off < t.wp + Config.wsBytes))) with
  | some t => some t.world
  | none => (s.owners.find? (fun r => r.core = core && r.off ≤ off && off < r.off + r.len)).map (·.world)

/-- The protection entry that covers a byte of LM (R351): the lowest-numbered valid one. -/
def State.protection (s : State) (core off : Nat) : Option DWord :=
  (s.core core).entries.find? (fun e => e.getLsbD 63 && decide (64 * bits e.toNat 10 0 ≤ off)
    && decide (off < 64 * bits e.toNat 23 12))

/-- The target world of a byte (R347): of SRAM its bank's, of LM its owner's or its entry's, of a global address its
leaf's. -/
def State.targetWorld (s : State) (h : Home) (l : Option Leaf) : BitVec 4 :=
  match h with
  | .lm core off =>
    (match s.lmOwner core off with
     | some w => w
     | none => match s.protection core off with
       | some e => e.extractLsb' 56 4
       | none => 1)
  | .sram cl off => (s.bank cl (off / 65536)).world
  | _ => match l with
    | some l => pteWorld l.word
    | none => 1

/-- A protection entry permits the access to worlds other than 0 (R351). -/
def State.entryPermits (s : State) (r : BitVec 4) (h : Home) (rd wr : Bool) : Bool :=
  match h with
  | .lm core off =>
    (match s.lmOwner core off with
     | some _ => true
     | none => match s.protection core off with
       | some e => r = 0 || ((!rd || e.getLsbD 62) && (!wr || e.getLsbD 61))
       | none => true)
  | _ => true

/-- A protected world's request may leave for the package of a home (R355). -/
def State.onRoster (s : State) (r : BitVec 4) : Home → Bool
  | .peer p _ => !s.protectedWorld r || (s.trust.roster.getD r.toNat 0).getLsbD p
  | _ => true

/-- The firewall admits an access (R349). -/
def State.admits (s : State) (r : BitVec 4) (h : Home) (l : Option Leaf) (rd wr cleared : Bool) : Bool :=
  match h with
  | .xlm _ _ => true
  | _ =>
    let t := s.targetWorld h l
    (!rd || s.mayRead r t) && (!wr || s.mayWrite r t cleared) && s.entryPermits r h rd wr

end Sys2Proof.Machine
end

