-- ==== Sys2Proof/Machine/Vexey.lean ====
section
/-!
DEFINITION. What leaves the module: the Vexey ports' admission of a request (spec/12_ordering.md R248, spec/21_fabric_host.md R335 to
R337), the sealing of a protected world's data (spec/22_trust.md R353, R355), and a unit's reads at a home, here, in a host or in
another package.
-/
namespace Sys2Proof.Machine

/-- A message sent out of the module. -/
def State.emit (s : State) (m : OutMsg) : State := { s with outbox := m :: s.outbox }

/-! ## Reading at a home -/

/-- The bytes of a range read where it is performed; none on an integrity failure. A discarded page reads zeros (R307), a
compressed one is expanded (R308, R331). -/
def State.readLane (s : State) (r : LaneReq) : Option (List Byte) :=
  match r.leaf with
  | some l =>
    if s.discarded l then some (List.replicate r.n 0)
    else if pteComp l.word then
      (s.expandAt (pteWorld l.word) (ptePfn l.word * 2 ^ 16) (r.home.off % 65536 / 64)).map (fun b => (b.drop (r.home.off % 64)).take r.n)
    else if s.badAt r.home r.n || s.tagFails r.home r.n then none
    else some (s.openedBytes (pteWorld l.word) r.home r.n)
  | none => if s.badAt r.home r.n then none else some (s.readBytes r.home r.n)

/-- What an integrity failure of a range reports (R309, R353). -/
def State.laneKind (s : State) (r : LaneReq) : Nat :=
  match r.leaf with
  | some l =>
    if pteComp l.word then
      let i := r.home.off % 65536 / 64
      if s.sectorBad (pteWorld l.word) (ptePfn l.word * 2 ^ 16) i then 2
      else if s.sectorTagFails (pteWorld l.word) (ptePfn l.word * 2 ^ 16) i then 4
      else 3
    else if s.badAt r.home r.n then integrityKind r.home
    else match r.home with
      | .peer _ _ => 4
      | _ => if s.tagFails r.home r.n then 4 else integrityKind r.home
  | none => integrityKind r.home

/-! ## Windows and routes (R248, R334) -/

/-- The window length in ns and the window number (R248, R334). -/
def State.windowNs (s : State) : Nat := 1024 * (s.fabric.wincfg.toNat + 1)
def State.windowNow (s : State) : Nat := s.time.toNat / s.windowNs

def routeValid (r : DWord) : Bool := r.getLsbD 63
def routePrimary (r : DWord) : Nat := bits r.toNat 62 59
def routeStandby (r : DWord) : Nat := bits r.toNat 58 55
def routeHasStandby (r : DWord) : Bool := r.getLsbD 54
def routeLat (r : DWord) : Nat := bits r.toNat 15 0

/-- The route to a package. -/
def State.route (s : State) (pkg : Nat) : DWord := assocD s.fabric.routes pkg 0

/-- The first-hop link that a request to a package takes: the primary one, or the standby one while the primary has
failed. -/
def State.linkTo (s : State) (pkg : Nat) : Option Nat :=
  let r := s.route pkg
  if !routeValid r then none
  else if !s.fabric.failed.contains (routePrimary r) then some (routePrimary r)
  else if routeHasStandby r && !s.fabric.failed.contains (routeStandby r) then some (routeStandby r)
  else none

/-! ## Links (R335, R337) -/

/-- The flits of a link. -/
def State.queueOf (s : State) (link : Nat) : LinkQueue :=
  (s.fabric.queues.find? (fun q => q.link = link)).getD { link := link, until7 := 0, fill := 0 }

/-- The flits queued on a link now: one leaves in 8/7 ns. -/
def State.flitsOn (s : State) (link : Nat) : Nat := ceilDiv ((s.queueOf link).until7 - 7 * s.time.toNat) 8

/-- One more message on a link: a flit carries three, and one that has not begun to leave may take it (log 33). -/
def State.queueOn (s : State) (link : Nat) : State :=
  let q := s.queueOf link
  let now := 7 * s.time.toNat
  let q := if now + 8 < q.until7 && q.fill < 3 && Config.packs s.fresh then { q with fill := q.fill + 1 }
    else { q with until7 := max q.until7 now + 8, fill := 1 }
  { s.used with fabric := { s.fabric with queues := q :: s.fabric.queues.filter (fun x => x.link ≠ link) } }

/-- A message sent on a link, or, where this package chooses none, on the one that the links' own routing gives it: a free value
(log 128). -/
def State.sendOn (s : State) (link : Option Nat) (p : Packet) : State :=
  (s.queueOn (link.getD (Config.answerLink s.fresh % 16))).emit (.vexey link p)

/-- The operands of an atomic. -/
def atomicOperands : AtomicReq → List Byte
  | .amo _ _ b => toBytes 8 b.toNat
  | .cas _ e n => toBytes 8 e.toNat ++ toBytes 8 n.toNat
  | .fadd _ b => toBytes 8 b.toNat
  | .dec => []

/-- The text of a message: a line that is written or answered, or the operands of an atomic. -/
def messageText (m : Message) (payload : VecWord) (atomic : Option AtomicReq) : List Byte :=
  match atomic with
  | some r => atomicOperands r
  | none => if m.op = 1 ∨ m.op = 3 ∨ m.op = 5 then toBytes 64 payload.toNat else []

/-- A message as it leaves: for a protected world it is sealed under the group key (R353, R355). -/
def State.packet (s : State) (cl : Nat) (m : Message) (payload : VecWord) (atomic : Option AtomicReq) : Packet × State :=
  if s.protectedWorld m.world then
    let (iv, s) := s.nextIv cl m.world
    let (c, x) := sealText (Config.groupKey s.typel.starts m.world) iv m.world m.pa.toNat (messageText m payload atomic)
    ({ msg := { m with sealed_ := some x }, payload := BitVec.ofNat 512 (ofBytes c), atomic := atomic }, s)
  else ({ msg := m, payload := payload, atomic := atomic }, s)

/-- The payload of a message that has arrived, opened where it is a protected world's; none where its tag fails (R353, R355). -/
def State.openMessage (s : State) (m : Message) (payload : VecWord) (atomic : Option AtomicReq) : Option VecWord :=
  if s.protectedWorld m.world then
    match m.sealed_ with
    | none => none
    | some x =>
      let key := Config.groupKey s.typel.starts m.world
      let shut := messageText m payload atomic
      let text := if atomic.isSome then shut else (sealText key x.iv m.world m.pa.toNat shut).1
      if (sealText key x.iv m.world m.pa.toNat text).2.tag = x.tag then some (BitVec.ofNat 512 (ofBytes text)) else none
  else some payload

/-! ## Admission (R337, R339) -/

/-- The flits queued ahead of a request to a package. -/
def State.flitsTo (s : State) (pkg : Nat) : Nat :=
  match s.linkTo pkg with
  | some link => s.flitsOn link
  | none => 0

/-- The test of R337 at the present time. -/
def State.inTime (s : State) (pkg : Nat) : Bool :=
  decide (s.time.toNat + ceilDiv ((s.flitsTo pkg + 1) * 8) 7 + routeLat (s.route pkg) ≤ (s.windowNow + 2) * s.windowNs)

/-- The tags in use towards a package, and the first one free. -/
def State.tagsTo (s : State) (pkg : Nat) : List Nat := (s.fabric.items.filter (fun i => i.pkg = pkg)).map (·.tag)
def freeTag (used : List Nat) : Nat → Nat → Option Nat
  | 0, _ => none
  | n + 1, t => if used.contains t then freeTag used n (t + 1) else some t

/-- The cluster that an agent works in; the ports and what begins and ends a node count as 128. -/
def State.agentCluster (s : State) : Agent → Nat
  | .slot id => clusterOf id.core
  | .tile id _ _ => clusterOf id.core
  | .cmd id => ((s.cmds.find? (fun c => c.id = id)).map (·.cl)).getD Config.clusters
  | .node _ => Config.clusters
  | .port _ => Config.clusters
  | .walker _ => Config.clusters

/-- The cluster that a request comes from. -/
def State.requestCluster (s : State) : VexeyReq → Nat
  | .line core _ => clusterOf core
  | .access slot => clusterOf slot.core
  | .chunk id => s.agentCluster (.cmd id)
  | .read a => s.agentCluster a
  | .atomic a => s.agentCluster a
  | .write a => s.agentCluster a

/-- The header of a request (R335). -/
def requestHeader (op : Nat) (mask : BitVec 64) (world : BitVec 4) (tag pkg pa : Nat) : Message :=
  { mask := mask, op := BitVec.ofNat 4 op, world := world, tag := BitVec.ofNat 8 tag, pkg := BitVec.ofNat 8 pkg,
    pa := BitVec.ofNat 40 pa }

/-- A request of an operation about address pa of a package admitted now and sent: its tag and the state that holds it; none while the
port cannot admit it. -/
def State.admitRequest (s : State) (req : VexeyReq) (op pkg pa : Nat) (mask : BitVec 64) (world : BitVec 4) (payload : VecWord)
    (atomic : Option AtomicReq) : Option (Nat × State) :=
  if s.fabric.sync && s.inTime pkg then
    match s.linkTo pkg, freeTag (s.tagsTo pkg) 256 0 with
    | some link, some tag =>
      let cl := s.requestCluster req
      let (p, s) := s.packet cl (requestHeader op mask world tag pkg pa) payload atomic
      let item : VexeyItem :=
        { req := req, pkg := pkg, world := world, tag := tag, window := s.windowNow, link := link, cl := cl,
          line := .peer pkg (pa / 64 * 64), stale := false, past := false, retried := false, sent := p }
      let s := { s with fabric := { s.fabric with items := s.fabric.items ++ [item] } }
      some (tag, s.sendOn (some link) p)
    | _, _ => none
  else none

/-- A write of at most a line that an agent makes at another package; none while the port cannot admit it. -/
def State.admitWrite (s : State) (a : Agent) (pkg pa : Nat) (world : BitVec 4) (l : List Byte) : Option State :=
  (s.admitRequest (.write a) 1 pkg (pa / 64 * 64) (byteMask (pa % 64) l.length) world (linePut 0 (pa % 64) l) none).map (·.2)

/-- Writes of an agent that their homes have not acknowledged. -/
def State.writesOut (s : State) (a : Agent) : Bool := s.fabric.items.any (fun i => i.req = .write a)

/-! ## Reads of agents at other packages -/

/-- What an agent's read, or atomic, at another package gives. -/
inductive PeerStep where
  | got (v : VecWord)
  /-- The tag of the answer fails (R353). -/
  | broken
  /-- It cannot be had yet: for want of admission, or of an answer; and the state in which the request has just been sent. -/
  | hold (fabric : Bool) (next : Option State)

/-- A line that another package holds, or the old value of an atomic there: taken from its answer, asked for, or awaited. -/
def State.peerStep (s : State) (a : Agent) (world : BitVec 4) (pkg pa : Nat) (atomic : Option AtomicReq) : PeerStep :=
  let line := Home.peer pkg (pa / 64 * 64)
  let req : VexeyReq := if atomic.isSome then .atomic a else .read a
  match s.fabric.got.find? (fun g => g.who = a && g.line = line && g.atomic = atomic.isSome) with
  | some g => if g.broken then .broken else .got g.data
  | none =>
    if s.fabric.items.any (fun i => i.req = req && i.line = line) then .hold false none
    else match s.admitRequest req (if atomic.isSome then 4 else 2) pkg (if atomic.isSome then pa else pa / 64 * 64) 0 world 0 atomic with
      | some (_, t) => .hold false (some t)
      | none => .hold true none

/-- What answers an agent has not taken is no longer wanted. -/
def State.dropGot (s : State) (a : Agent) : State :=
  { s with fabric := { s.fabric with got := s.fabric.got.filter (fun g => g.who ≠ a) } }

/-! ## Memory-side slices (R329) -/

/-- The channel of an address of HBM, and the set of its slice. -/
def channelOf (pa : Nat) : Nat := Nat.xor (Nat.xor (bits pa 16 8) (bits pa 25 17)) (Nat.xor (bits pa 34 26) (bits pa 39 35))
def sliceSet (pa : Nat) : Nat × Nat := (channelOf pa, bits pa 27 17 * 4 + bits pa 7 6)

/-- The slice of a line of HBM holds it. -/
def State.inSlice (s : State) (pa : Nat) : Bool := s.slices.contains (pa / 64)

/-- A line of HBM read by a core or an engine stands in its slice; some line of a full set of 16 makes room (R329, log 13). -/
def State.sliceFill (s : State) (h : Home) : State :=
  match h with
  | .hbm pa =>
    if s.inSlice pa then s
    else
      let mine := s.slices.filter (fun l => sliceSet (64 * l) = sliceSet pa)
      if mine.length < 16 then { s with slices := pa / 64 :: s.slices }
      else
        let gone := mine.getD (Config.victim s.fresh % 16) 0
        { s.used with slices := pa / 64 :: s.slices.filter (· ≠ gone) }
  | _ => s

/-- What an agent reads is allocated in the slices, but under HNT (R225, R329). -/
def State.allocates (s : State) : Agent → Bool
  | .slot id => !(s.thread? id).any (fun t => t.status.pending 7)
  | .tile .. => true
  | .cmd id => !s.cmds.any (fun c => c.id = id && c.hnt)
  | .node _ => false
  | .port _ => false
  | .walker _ => false

/-- What a unit's read at a home gives. -/
inductive HomeRead where
  | bytes (l : List Byte) (s : State)
  /-- An integrity failure. -/
  | broken
  | hold (fabric : Bool) (next : Option State)

/-- The revival of the leaf's page, which another package holds, has begun and not ended: an access to the page waits for it (R307). -/
def State.reviving (s : State) (l : Leaf) : Bool := s.discarded l && s.fabric.revivals.any (fun x => x.leaf.addr = l.addr)

/-- A range read by an agent at its home. A host's answer is a free value, all ones while the port's function is in reset (log 21,
R346). -/
def State.readFor (s : State) (a : Agent) (world : BitVec 4) (r : LaneReq) : HomeRead :=
  if r.leaf.any s.reviving then .hold false none
  else if r.leaf.any s.discarded then .bytes (List.replicate r.n 0) s
  else match r.home with
    | .host p b =>
      if s.hostSilent p b then .bytes (List.replicate r.n 0xFF) s
      else .bytes ((List.range r.n).map (Config.remoteByte s.fresh)) (s.used.emit (.hostRead p b r.n))
    | .peer pkg pa =>
      (match s.peerStep a world pkg pa none with
       | .got v => .bytes (((toBytes 64 v.toNat).drop (pa % 64)).take r.n) s
       | .broken => .broken
       | .hold f t => .hold f t)
    | _ => match s.readLane r with
      | some l => .bytes l (if s.allocates a then s.sliceFill r.home else s)
      | none => .broken

/-! ## The revival of a page on another package (R307) -/

/-- A write through this leaf must wait for the revival of its page, which another package holds: the state in which it has begun.
None where nothing has to be waited for. -/
def State.revivalOf (s : State) (r : LaneReq) : Option State :=
  match r.home, r.leaf with
  | .peer _ _, some l =>
    if !s.discarded l then none
    else if s.fabric.revivals.any (fun x => x.leaf.addr = l.addr) then some s
    else some { s with fabric := { s.fabric with revivals := s.fabric.revivals ++ [{ leaf := l, lines := 0 }] } }
  | _, _ => none

/-- The next line of a revival zero-filled by the walker, as world 1 (R347); once every line is performed the leaf is changed. -/
def State.reviveNext (s : State) (x : Revival) : Option State :=
  let put := fun (s : State) (l : List Revival) => { s with fabric := { s.fabric with revivals := l } }
  let others := s.fabric.revivals.filter (fun y => y.leaf.addr ≠ x.leaf.addr)
  match x.leaf.home (x.leaf.vpn * 2 ^ 16) with
  | .peer pkg pa =>
    if x.lines < 1024 then
      (s.admitWrite (.walker x.leaf.addr) pkg (pa + 64 * x.lines) 1 (List.replicate 64 0)).map
        (fun t => put t ({ x with lines := x.lines + 1 } :: others))
    else if s.writesOut (.walker x.leaf.addr) then none
    else some (((put s others).dropFrame (.peer pkg pa)).setLeaf x.leaf 0x200 0x80)
  | _ => none

end Sys2Proof.Machine
end

