-- ==== Sys2Proof/Machine/Access.lean ====
section
/-!
DEFINITION. Accesses: the checks of spec/06_memory_instr.md R124, the store buffer (R127), the cluster cache and the orderings
of R128 (spec/12_ordering.md R244 to R256), the home's own checks, and what an atomic does at the home (R131).
-/
namespace Sys2Proof.Machine

/-! ## What the home itself checks (R124 steps 6 and 7, R15, R274, R323) -/

/-- The answer of a home. -/
inductive HomeCheck where
  | ok
  /-- The bank switches: the access waits until SWITCHING clears (R323). -/
  | wait
  | refuse (c : Cause)
  deriving DecidableEq, Repr

/-- A workspace of a resident slot overlaps a range of a core's LM (R15). A debugger is not refused a parked slot's
workspace (R362). -/
def State.meetsWorkspace (s : State) (core off n : Nat) (debug : Bool) : Bool :=
  s.threads.any (fun t => t.id.core = core && overlaps off n t.wp Config.wsBytes && !(debug && t.run = .parked))

/-- The checks made at a home for an access of n bytes from a core. -/
def State.homeCheck (s : State) (fromCore : Option Nat) (h : Home) (n : Nat) (store debug : Bool) : HomeCheck :=
  match h with
  | .lm core off =>
    if (s.core core).fenced && fromCore ≠ some core then .refuse .heartbeat
    else if s.meetsWorkspace core off n debug then .refuse .wsalias
    else .ok
  | .xlm unit off => if s.meetsWorkspace (8192 + unit) off n debug then .refuse .wsalias else .ok
  | .sram cl off =>
    let b := s.bank cl (off / 65536)
    if b.switching.isSome then .wait
    else if b.mode = 0 then .refuse .operand
    else if store && b.mode = 2 && decide (off % 65536 < 64) then .refuse .operand
    else .ok
  | _ => .ok

/-! ## The cluster cache (R246, R321) -/

/-- The ways of a cluster's cache: its banks in cache mode that are powered. -/
def State.cacheWays (s : State) (cl : Nat) : List Nat :=
  (List.range 64).filter (fun b => let k := s.bank cl b; k.mode = 0 && !k.furled && k.switching.isNone)

/-- The line of a cluster's cache, if present. -/
def State.cached (s : State) (cl : Nat) (line : Home) : Option CacheLine :=
  s.cache.find? (fun c => c.cl = cl && c.line = line)

/-- A cluster's copy of a line dropped. -/
def State.cacheDrop (s : State) (cl : Nat) (line : Home) : State :=
  { s with cache := s.cache.filter (fun c => !(c.cl = cl && c.line = line)) }

/-- A line's value with the masked bytes of another. -/
def lineMerge (v : VecWord) (mask : BitVec 64) (w : VecWord) : VecWord :=
  BitVec.ofNat 512 (ofBytes ((List.range 64).map (fun i =>
    if mask.getLsbD i then BitVec.ofNat 8 (w.toNat / 2 ^ (8 * i)) else BitVec.ofNat 8 (v.toNat / 2 ^ (8 * i)))))

/-- A cluster's copy of a line updated by a store of its cores, where it is present (R127). -/
def State.cacheUpdate (s : State) (cl : Nat) (line : Home) (mask : BitVec 64) (v : VecWord) : State :=
  { s with cache := s.cache.map (fun c => if c.cl = cl ∧ c.line = line then { c with data := lineMerge c.data mask v } else c) }

/-- A line read from its home enters the cluster cache; a full set replaces some line of it (R126, R321, log 13). -/
def State.cacheFill (s : State) (cl : Nat) (line : Home) (share : Share) (v : VecWord) : State :=
  let ways := s.cacheWays cl
  if ways.isEmpty then s
  else
    let s := s.cacheDrop cl line
    let mine := fun (c : CacheLine) => c.cl = cl && c.line.off / 64 % 1024 = line.off / 64 % 1024
    let empty := ways.filter (fun b => !s.cache.any (fun c => mine c && c.bank = b))
    let room := if empty.isEmpty then ways else empty
    let b := room.getD (Config.victim s.fresh % room.length) 0
    { s.used with
      cache := { cl := cl, bank := b, line := line, share := share, data := v } :: s.cache.filter (fun c => !(mine c && c.bank = b)) }

/-- An acquire (R128, R246): at die, device and system scope the cluster drops its SHARED lines, and what answers its requests of before
the acquire bring of such lines enters it no more. -/
def State.acquire (s : State) (core : Nat) (sc : Scope) : State :=
  if wideScope sc then
    { s with
      cache := s.cache.filter (fun c => !(c.cl = clusterOf core && c.share = .shared))
      fabric := { s.fabric with items := s.fabric.items.map (fun i => if i.cl = clusterOf core then { i with past := true } else i) } }
  else s

/-- Writes of hosts, or of devices behind their ports, that a port has received and that are still to be performed (R247). -/
def State.hostsPending (s : State) : Bool := s.fabric.begun.any (fun x => x.1 / 2 = 1 || x.1 / 2 = 3)

/-- An acquire at system scope waits at its issue for the writes that the host ports have received (R247). -/
def hostsThen (sc : Option Scope) (s : State) (body : State → Out) : Out :=
  if sc = some .sy && s.hostsPending then stallFor .fence s else body s

/-- An acquire that may not be asked for. -/
def State.acquireIf (s : State) (core : Nat) : Option Scope → State
  | none => s
  | some sc => s.acquire core sc

/-! ## The store buffer (R127, R245) -/

/-- The entries of a core, oldest first. -/
def State.sbOf (s : State) (core : Nat) : List SbEntry := assocD s.sb core []

/-- The entries of a core replaced. -/
def State.setSb (s : State) (core : Nat) (l : List SbEntry) : State := { s with sb := assocSet s.sb core l }

/-- The byte at an offset of a line as the core's store buffer holds it: the latest store's (R126, R245). -/
def State.sbByte (s : State) (core : Nat) (line : Home) (i : Nat) : Option Byte :=
  ((s.sbOf core).reverse.find? (fun e => e.line = line && e.mask.getLsbD i)).map
    (fun e => BitVec.ofNat 8 (e.data.toNat / 2 ^ (8 * i)))

/-- The store buffer holds every byte, or some byte, of a range within one line. -/
def State.sbHolds (s : State) (core : Nat) (h : Home) (n : Nat) : Bool :=
  (List.range n).all (fun i => (s.sbByte core h.line (h.off % 64 + i)).isSome)
def State.sbTouches (s : State) (core : Nat) (h : Home) (n : Nat) : Bool :=
  (List.range n).any (fun i => (s.sbByte core h.line (h.off % 64 + i)).isSome)

/-- Bytes of a range with those that the store buffer holds in their place (R126). -/
def State.overlay (s : State) (core : Nat) (h : Home) (l : List Byte) : List Byte :=
  l.mapIdx (fun i b => (s.sbByte core h.line (h.off % 64 + i)).getD b)

/-- An entry takes one of the 8 places: it is not sent, or waits for a Vexey port (R127, R138). -/
def SbEntry.occupies (e : SbEntry) : Bool := !e.sent || e.waiting

/-- The place that the next message of a core takes in the order of sending (R127). -/
def nextOrder (l : List SbEntry) : Nat := (l.map (·.order)).foldl max 0 + 1

/-- An entry becomes sent as the k-th message; one to a peer waits for admission. -/
def SbEntry.sendAs (k : Nat) (e : SbEntry) : SbEntry :=
  if e.sent then e
  else match e.line with
    | .peer _ _ => { e with sent := true, order := k, waiting := true }
    | _ => { e with sent := true, order := k }

/-- The entries of a list that match sent one after the other, from the k-th message on. -/
def sendFrom (p : SbEntry → Bool) : Nat → List SbEntry → List SbEntry
  | _, [] => []
  | k, e :: l => if p e && !e.sent then e.sendAs k :: sendFrom p (k + 1) l else e :: sendFrom p k l

/-- The oldest entry that takes a place is sent as the k-th message (R127: a ninth line needs an entry); one that waits for a Vexey
port already stays (R138). -/
def sendOldest (k : Nat) : List SbEntry → List SbEntry
  | [] => []
  | e :: l => if e.occupies then e.sendAs k :: l else e :: sendOldest k l

/-- A new entry at the end of a core's buffer; one whose bytes are all written is sent. -/
def sbAppend (l : List SbEntry) (e : SbEntry) : List SbEntry :=
  l ++ [if e.mask = BitVec.allOnes 64 then e.sendAs (nextOrder l) else e]

/-- The entry of the line that has not left takes the bytes of a later store (R127, R138). -/
def sbMerge (l : List SbEntry) (n : SbEntry) : List SbEntry :=
  l.map (fun e => if e.line = n.line ∧ e.occupies then
    let e := { e with mask := e.mask ||| n.mask, data := lineMerge e.data n.mask n.data,
                      writers := if e.writers.contains (n.writers.headD 0) then e.writers else n.writers ++ e.writers,
                      asids := if e.asids.contains (n.asids.headD 0) then e.asids else n.asids ++ e.asids }
    if e.mask = BitVec.allOnes 64 then e.sendAs (nextOrder l) else e else e)

/-- A global store enters the store buffer (R127); none when it must wait for a place (R138). -/
def State.sbStore (s : State) (core : Nat) (e : SbEntry) : Option State :=
  let l := s.sbOf core
  if l.any (fun x => x.line = e.line && x.occupies) then some (s.setSb core (sbMerge l e))
  else if l.countP SbEntry.occupies < Config.sbEntries then some (s.setSb core (sbAppend l e))
  else
    let l := sendOldest (nextOrder l) l
    if l.countP SbEntry.occupies < Config.sbEntries then some (s.setSb core (sbAppend l e)) else none

/-- Entries that match are sent. -/
def State.sbSend (s : State) (core : Nat) (p : SbEntry → Bool) : State :=
  s.setSb core (sendFrom p (nextOrder (s.sbOf core)) (s.sbOf core))

/-- A store that leaves at issue as a message to another LM, to SRAM or to control space (R127). -/
def State.sbMessage (s : State) (core : Nat) (e : SbEntry) : State :=
  s.setSb core (s.sbOf core ++ [e.sendAs (nextOrder (s.sbOf core))])

/-- The entry that a release of a slot covers (R128, R252): one that holds its stores, or, at die, device and system scope,
one from which its earlier loads took bytes. -/
def covered (t : Thread) (sc : Scope) (e : SbEntry) : Bool :=
  e.writers.contains t.id.slot || (wideScope sc && t.readLines.contains e.line)

/-- A release at a scope (R128, R133): at slot and core scope an access is performed once it has completed; at every wider
scope the covered entries are sent and their acknowledgements awaited. -/
def releaseThen (sc : Scope) (s : State) (body : State → Out) : Out :=
  match sc with
  | .sl => body s
  | .co => body s
  | _ =>
    if (s.sbOf s.thr.id.core).any (covered s.thr sc) then
      stallFor (if (s.sbOf s.thr.id.core).any (fun e => covered s.thr sc e && e.waiting) then .fabric else .fence)
        (s.sbSend s.thr.id.core (covered s.thr sc))
    else body { s with thr := { s.thr with readLines := if wideScope sc then [] else s.thr.readLines } }

/-- FENCE.path (R133): every line that holds a global store of the slot is sent, and its acknowledgement awaited. -/
def pathThen (s : State) (body : State → Out) : Out :=
  let mine := fun (e : SbEntry) => e.writers.contains s.thr.id.slot && e.line.isGlobal
  if (s.sbOf s.thr.id.core).any mine then
    stallFor (if (s.sbOf s.thr.id.core).any (fun e => mine e && e.waiting) then .fabric else .fence)
      (s.sbSend s.thr.id.core mine)
  else body s

/-- A release that an ordering may ask for. -/
def releaseIf (b : Bool) (sc : Scope) (s : State) (body : State → Out) : Out :=
  if b then releaseThen sc s body else body s

/-! ## The checks of R124, steps 1 to 5 -/

/-- The node's leases that let an access, or for a write only the `rw` ones. -/
def leasesFor (n : Node) (rw : Bool) : List Grant := n.grants.filter (fun g => !rw || g.rw)

/-- Some lease of the node holds the whole range (R185). -/
def grantFor (n : Node) (va len : Nat) (rw : Bool) : Bool :=
  (leasesFor n rw).any (fun g => decide (g.base ≤ va) && decide (va + len ≤ g.base + g.len))

/-- The end of what leases hold from an address on without a gap, as far as one more of them reaches. -/
def leasedTo (l : List Grant) (va : Nat) : Nat :=
  l.foldl (fun e g => if g.base ≤ va ∧ va < g.base + g.len then max e (g.base + g.len) else e) va

/-- Every byte of the range lies in a lease range of the node, writable if asked; neighbouring leases may share the range (R124
step 3). -/
def leased (n : Node) (va len : Nat) (rw : Bool) : Bool :=
  let l := leasesFor n rw
  decide (va + len ≤ l.foldl (fun e _ => leasedTo l e) va)

/-- The leaf that a lease, or for a write an `rw` lease, pins for an address that it holds (R302). -/
def pinFor (n : Node) (va : Nat) (write : Bool) : Option Leaf :=
  ((leasesFor n write).filter (fun g => decide (g.base ≤ va) && decide (va < g.base + g.len))).flatMap (·.pins) |>.find? (fun l => l.covers va)

/-- Access bits of a kind for the firewall: an atomic reads and writes (R349). -/
def fwReads : AccessKind → Bool
  | .load => true
  | .fetch => true
  | .atomic => true
  | .engRead => true
  | .store => false
  | .engWrite => false
def fwWrites : AccessKind → Bool
  | .store => true
  | .atomic => true
  | .engWrite => true
  | .load => false
  | .fetch => false
  | .engRead => false

/-- The regions of control space (R304): the directory, fault, engine and link pages 0 to 3, the interrupt addresses 4, the
trust and monitor pages 5 and 6, and the ECAM regions 7. -/
def ctlRegion (pa : Nat) : Option Nat :=
  if 0xFFF0000000000 ≤ pa ∧ pa < 0xFFF0000E00000 then some ((pa - 0xFFF0000000000) / 0x200000)
  else if 0xFFE0000000000 ≤ pa ∧ pa < 0xFFE0020000000 then some 7
  else none

/-- The worlds a region admits (R283, R351): 0 and 1, and to write the monitor page only 0. -/
def ctlAdmits (w : BitVec 4) (write : Bool) (pa : Nat) : Bool :=
  w = 0 || (w = 1 && !(write && ctlRegion pa = some 6)) || (ctlRegion pa).isNone

/-- The only accesses that control space accepts: aligned loads and stores of 8 bytes to one of its regions (R283, R304). -/
def ctlAccepts (k : AccessKind) (n pa : Nat) : Bool := n = 8 && (k = .load || k = .store) && (ctlRegion pa).isSome

/-- Whose access is checked: a slot's, with its tile and automaton instructions; an engine command's; or a cleared copy's
(R354). -/
inductive Asker where
  | slot | command | cleared
  deriving DecidableEq, Repr

/-- The firewall's step (R124 step 5, R355), and what a region of control space accepts (R304); a store to it sets D of its leaf (R301). An engine command meets the
roster only as it runs (R355), and control space never. -/
def firewallThen (m : Asker) (ea : DWord) (k : AccessKind) (r : LaneReq) (s : State) (body : LaneReq → State → Out) : Out :=
  if s.admits s.thr.world r.home r.leaf (fwReads k) (fwWrites k) (m = .cleared) && (m ≠ .slot || s.onRoster s.thr.world r.home) then
    match r.home with
    | .ctl pa =>
      if m ≠ .slot then fault .operand 0 (some ea) s
      else if !ctlAdmits s.thr.world (fwWrites k) pa then fault .world 0 (some ea) s
      else if ctlAccepts k r.n pa then body r (if fwWrites k then r.leaf.elim s s.markDirty else s)
      else fault .align misalign (some ea) s
    | _ => body r s
  else fault .world 0 (some ea) s

/-- Steps 3 and 4 for a global address: the leases of a compute node and its pinned translations, or the translation of a
service node (R124, R302). -/
def globalThen (m : Asker) (ea : DWord) (n : Nat) (k : AccessKind) (s : State) (body : LaneReq → State → Out) : Out :=
  let va := (ptrVa ea).toNat
  let viaTlb := fun (s : State) =>
    match s.translate (.dtlb s.thr.id.core) (clusterOf s.thr.id.core) s.thr.asid va k (s.thr.status.priv = 0) with
    | (.error w, s) => fault .lease 0 (some w) s
    | (.ok l, s) => firewallThen m ea k { home := l.home va, ea := ea, n := n, leaf := some l } s body
  if s.thr.kind then viaTlb s
  else match s.node? s.thr.node with
    | none => endBy .lease 0 (some (transWord 0 k 8 va)) s
    | some node =>
      if !leased node va n (kindWrites k) then endBy .lease 0 (some (transWord 0 k 8 va)) s
      else
        match pinFor node va (kindWrites k) with
        | some l =>
          firewallThen m ea k { home := l.home va, ea := ea, n := n, leaf := some l }
            (s.touchPin (.dtlb s.thr.id.core) (clusterOf s.thr.id.core) s.thr.asid l) body
        | none => viaTlb s

/-- Steps 3 to 5 of R124 for n bytes at EA. -/
def spaceThen (m : Asker) (ea : DWord) (n : Nat) (k : AccessKind) (s : State) (body : LaneReq → State → Out) : Out :=
  match ptrSpace ea with
  | 0 =>
    let h := if isTransform s.thr.id then .xlm (s.thr.id.core - 8192) (ptrLmOff ea) else .lm (ptrCore ea) (ptrLmOff ea)
    firewallThen m ea k { home := h, ea := ea, n := n, leaf := none } s body
  | 1 => firewallThen m ea k { home := .sram (ptrCluster ea) (ptrSramOff ea), ea := ea, n := n, leaf := none } s body
  | _ => globalThen m ea n k s body

/-- Steps 1 to 5 of R124 for an access of n bytes at EA. -/
def accessThen (ea : DWord) (n : Nat) (k : AccessKind) (s : State) (body : LaneReq → State → Out) : Out :=
  if !ptrUsable s.thr.id ea then fault .align badptr (some ea) s
  else if !ptrAligned ea n then fault .align misalign (some ea) s
  else spaceThen .slot ea n k s body

/-- The checks of steps 1 to 5 for a list of addresses, the first one first (R130). -/
def lanesThen (n : Nat) (k : AccessKind) : List DWord → State → List LaneReq → (List LaneReq → State → Out) → Out
  | [], s, acc, body => body acc.reverse s
  | ea :: l, s, acc, body => accessThen ea n k s fun r s => lanesThen n k l s (r :: acc) body

/-! ## Reading at a home -/

/-- The whole line of a range as its home holds it, for a fill of the cluster cache; none where a word of it cannot be corrected. -/
def State.readLine (s : State) (r : LaneReq) : Option VecWord :=
  (s.readLane { r with home := r.home.line, n := 64 }).map (fun l => BitVec.ofNat 512 (ofBytes l))

/-- The sharing class of an access's page. -/
def laneShare (r : LaneReq) : Share :=
  match r.leaf with
  | some l => pteShare l.word
  | none => .own

/-- A load's line remembered while the core's store buffer gave it bytes (R252). -/
def State.noteRead (s : State) (r : LaneReq) : State :=
  if r.home.isGlobal && s.sbTouches s.thr.id.core r.home r.n then
    { s with thr := { s.thr with readLines := r.home.line :: s.thr.readLines } }
  else s

/-- The bytes of a load that are at hand at once: in the slot's own LM, whole in the core's store buffer, or in the cluster
cache (R126). -/
def State.atHand (s : State) (r : LaneReq) (hnt : Bool) : Option (List Byte) :=
  if r.leaf.any s.discarded then none
  else match r.home with
  | .lm core _ => if core = s.thr.id.core then s.readLane r else none
  | .xlm _ _ => s.readLane r
  | .sram _ _ => none
  | .ctl _ => none
  | h =>
    let zeros := List.replicate r.n (0 : Byte)
    if s.sbHolds s.thr.id.core h r.n then some (s.overlay s.thr.id.core h zeros)
    else if laneShare r = .hostcoh || hnt then none
    else match s.cached (clusterOf s.thr.id.core) h.line with
      | some c => some (s.overlay s.thr.id.core h (((toBytes 64 c.data.toNat).drop (h.off % 64)).take r.n))
      | none => none

/-- The unit at which messages from one core are performed in the order sent (R127): an LM, a bank, a slice, a port or a
package. -/
def homeUnit : Home → Nat × Nat
  | .lm c _ => (0, c)
  | .sram cl o => (1, 64 * cl + o / 65536)
  | .hbm pa => (2, channelOf pa)
  | .host p _ => (3, p)
  | .peer p _ => (4, p)
  | .ctl _ => (5, 0)
  | .xlm u _ => (6, u)

/-- A message of the core to the same home is still to be performed. -/
def State.earlierMessage (s : State) (core : Nat) (h : Home) : Bool :=
  (s.sbOf core).any (fun e => e.sent && homeUnit e.line = homeUnit h)

/-- A host may hold a line. -/
def State.mayHold (s : State) (line : Nat) : Bool := s.fabric.hostLines.any (fun x => x.1 = line)

/-- A frame of HBM is mapped as HOSTCOH: hosts may cache its lines (R341). -/
def State.frameCoherent (s : State) (pa : Nat) : Bool := (s.allLeaves.filter (leafMaps pa)).any (fun l => pteShare l.2 = .hostcoh)

/-- An access by physical address to n bytes of HBM waits for the answer of a host, other than the one behind the port it came by, to the
snoop of a line (R341). -/
def State.awaitsHosts (s : State) (own : Option Nat) (pa n : Nat) : Bool :=
  s.fabric.hostLines.any (fun x => some x.2 ≠ own && decide (pa / 64 ≤ x.1) && decide (64 * x.1 < pa + n) && s.frameCoherent (64 * x.1))

/-- The line of an access is one that a host may hold: the slice first waits for the answer to its back-invalidate snoop
(R341). -/
def State.snooped (s : State) (r : LaneReq) : Bool :=
  match r.home with
  | .hbm pa => laneShare r = .hostcoh && s.mayHold (pa / 64)
  | _ => false

/-- A word that needs the bytes of a range from its home while it issues: the home's own checks, the core's earlier messages to it
(R250), a host's answer (R341) and, for another package, the answer of its port (R138). -/
def homeBytesThen (r : LaneReq) (s : State) (body : List Byte → State → Out) : Out :=
  match s.homeCheck (some s.thr.id.core) r.home r.n false false with
  | .wait => stallFor .fence s
  | .refuse c => fault c 0 (some r.ea) s
  | .ok =>
    if s.earlierMessage s.thr.id.core r.home || s.snooped r then stallFor .fence s
    else match (s.wakeBank r.home).readFor (.slot s.thr.id) s.thr.world r with
      | .bytes l s => body l s
      | .broken => machineCheck (s.laneKind r) r.home.off s
      | .hold f t => stallFor (if f then .port r.ea else .fence) (t.getD s)

/-- What a read at a home leaves: a global line's copy in the cluster is not older than what has been read (R251). -/
def State.readAtHome (s : State) (r : LaneReq) : State :=
  if r.home.isGlobal then s.cacheDrop (clusterOf s.thr.id.core) r.home.line else s

/-- n bytes at EA read by an instruction that needs them at once: as a load reads them (R126), the checks of R124 first. -/
def readThen (ea : DWord) (n : Nat) (s : State) (body : List Byte → State → Out) : Out :=
  accessThen ea n .load s fun r s =>
    match r.home, s.atHand r false with
    | .hbm _, some l => body l (s.noteRead r)
    | .host _ _, some l => body l (s.noteRead r)
    | .peer _ _, some l => body l (s.noteRead r)
    | _, _ => homeBytesThen r s fun l s => body (s.overlay s.thr.id.core r.home l) ((s.noteRead r).readAtHome r)

/-- The same for a list of addresses; the bytes are joined. -/
def readAllThen (n : Nat) : List DWord → State → List Byte → (List Byte → State → Out) → Out
  | [], s, acc, body => body acc s
  | ea :: l, s, acc, body => readThen ea n s fun b s => readAllThen n l s (acc ++ b) body

/-! ## Storing -/

/-- A store-buffer entry for bytes of the executing slot. -/
def State.sbEntry (s : State) (r : LaneReq) (l : List Byte) (ring : Bool) : SbEntry :=
  { line := r.home.line, share := laneShare r, mask := byteMask (r.home.off % 64) l.length,
    data := linePut 0 (r.home.off % 64) l, born := s.clock, sent := false, order := 0, ring := ring, writers := [s.thr.id.slot], asids := [s.thr.asid],
    world := s.thr.world,
    target := s.targetWorld r.home r.leaf,
    va := vaPtr ((ptrVa r.ea).toNat / 64 * 64), waiting := false }

/-- A page is marked by the first write through its leaf (R301). -/
def State.markWrite (s : State) (r : LaneReq) : State :=
  match r.leaf with
  | some l => s.markDirty l
  | none => s

/-- Bytes of the executing slot stored (R127): at once in its own LM, as a message to another LM or to SRAM, or into the store
buffer. The refusal of a home is a precise trap (R124). A release store's line is sent at once (R128). -/
def storeThen (r : LaneReq) (l : List Byte) (release : Bool) (s : State) (body : State → Out) : Out :=
  let core := s.thr.id.core
  match s.homeCheck (some core) r.home r.n true false with
  | .wait => stallFor .fence s
  | .refuse c => fault c 0 (some r.ea) s
  | .ok =>
    let own : Bool := match r.home with
      | .lm c _ => c == core
      | .xlm _ _ => true
      | _ => false
    if own then body (s.perform r.home l)
    else if r.home.isGlobal then
      match s.revivalOf r with
      | some t => stallFor .fence t
      | none =>
        match (s.markWrite r).sbStore core (s.sbEntry r l false) with
        | none => stallFor .fabric (s.setSb core (sendOldest (nextOrder (s.sbOf core)) (s.sbOf core)))
        | some s => body (if release then s.sbSend core (fun e => e.line = r.home.line) else s)
    else body (s.sbMessage core (s.sbEntry r l false))

/-- The runs of ones of a mask of 64 bits: start and length, from bit i on. -/
def maskRuns (mask : BitVec 64) : Nat → Nat → List (Nat × Nat)
  | 0, _ => []
  | fuel + 1, i =>
    if mask.getLsbD i then
      match maskRuns mask fuel (i + 1) with
      | (j, k) :: l => if j = i + 1 then (i, k + 1) :: l else (i, 1) :: (j, k) :: l
      | [] => [(i, 1)]
    else maskRuns mask fuel (i + 1)

/-- The bytes of a line that a mask selects, performed at the line's home. -/
def State.performMasked (s : State) (line : Home) (mask : BitVec 64) (v : VecWord) : State :=
  (maskRuns mask 64 0).foldl (fun s r => s.perform (line.plus r.1) (((toBytes 64 v.toNat).drop r.1).take r.2)) s

/-- The same for a cluster's write for a target world (R353). -/
def State.performMaskedFor (s : State) (cl : Nat) (w : BitVec 4) (line : Home) (mask : BitVec 64) (v : VecWord) : State :=
  ((s.openFor w line 64).performMasked line mask v).sealAt cl w line 64

/-- The messages on their way to homes that match, performed in the order in which each core has sent them (R127). It goes before
whatever makes those homes refuse an access: a workspace that comes to lie there, a bank's switch, a fenced core. So no message meets
a refusal after its store has issued, and each of R124 is a precise trap (log 27). -/
def State.performSent (s : State) (p : Home → Bool) : State :=
  let goes := fun (e : SbEntry) => e.sent && !e.waiting && !e.line.isGlobal && p e.line
  s.sb.foldl (fun s x =>
    ((x.2.filter goes).foldl (fun s e => s.performMasked e.line e.mask e.data) s).setSb x.1 (x.2.filter (fun e => !goes e))) s

/-- The LM of a core, and a bank of a cluster, as the homes of messages. -/
def inLm (core : Nat) : Home → Bool
  | .lm c _ => c == core
  | _ => false
def inBank (cl b : Nat) (h : Home) : Bool := h.bankId == some (.sram cl b)

/-! ## Atomics at the home (R131) -/

/-- Bytes of an atomic. -/
def atomicBytes : AtomicReq → Nat
  | .amo _ w _ => widthBits w / 8
  | .cas w _ _ => widthBits w / 8
  | .fadd .f32 _ => 4
  | .fadd .bf16 _ => 2
  | .dec => 4

/-- The function of an AMO on N-bit values. -/
def amoF : AmoOp → Width → DWord → DWord → Nat
  | .add, w, a, b => (truncW w a + truncW w b) % 2 ^ widthBits w
  | .and, w, a, b => truncW w (a &&& b)
  | .or, w, a, b => truncW w (a ||| b)
  | .xor, w, a, b => truncW w (a ^^^ b)
  | .mins, w, a, b => if signedW w b < signedW w a then truncW w b else truncW w a
  | .maxs, w, a, b => if signedW w a < signedW w b then truncW w b else truncW w a
  | .minz, w, a, b => min (truncW w a) (truncW w b)
  | .maxz, w, a, b => max (truncW w a) (truncW w b)
  | .swp, w, _, b => truncW w b

/-- DEPS one less, and none where it is zero (R219). -/
def depsLess (old : Nat) : Option Nat := if old = 0 then none else some (old - 1)

/-- What an atomic writes, given the old value; none when a CAS fails. -/
def atomicNew : AtomicReq → Nat → Option Nat
  | .amo op w b, old => some (amoF op w (BitVec.ofNat 64 old) b)
  | .cas w e n, old => if old = truncW w e then some (truncW w n) else none
  | .fadd .f32 b, old => some (fp32.round .rn (Fp.add .rn (fp32.decode old) (fp32.decode (b.toNat % 2 ^ 32))))
  | .fadd .bf16 b, old => some (bf16.round .rn (Fp.add .rn (bf16.decode old) (bf16.decode (b.toNat % 2 ^ 16))))
  | .dec, old => depsLess old

/-- What an atomic returns: the old value sign-extended, or zero-extended for FADD. -/
def atomicResult : AtomicReq → Nat → DWord
  | .amo _ w _, old => writeW w old
  | .cas w _ _, old => writeW w old
  | .fadd _ _, old => BitVec.ofNat 64 old
  | .dec, old => BitVec.ofNat 64 old

/-- Monitors armed on the line of an atomic that is performed outside this module's memory trip where it writes (R234, R256). -/
def State.tripWritten (s : State) (h : Home) (req : AtomicReq) (old : List Byte) : State :=
  if (atomicNew req (ofBytes old)).isSome then s.tripAt h (atomicBytes req) else s

/-- An atomic of a cluster performed at a home of this module, whose target world is w: the old value and the state after its
write. -/
def State.atomicAt (s : State) (cl : Nat) (w : BitVec 4) (h : Home) (req : AtomicReq) : Nat × State :=
  let n := atomicBytes req
  let old := ofBytes (s.openedBytes w h n)
  match atomicNew req old with
  | some v => (old, s.performFor cl w h (toBytes n v))
  | none => (old, s.wakeBank h)

/-! ## A load or atomic completes -/

/-- The destination of an access written from what its lanes read. -/
def State.writeDest (s : State) (dest : AccessDest) (vals : List Nat) : State :=
  match dest with
  | .load d n sx => s.setS d (if sx then sext64 (8 * n) (vals.headD 0) else BitVec.ofNat 64 (vals.headD 0))
  | .vector d => s.setV d (BitVec.ofNat 512 (vals.headD 0))
  | .gather d => s.setV d (ofLanes (vals.map (BitVec.ofNat 32 ·)))
  | .atomic d req => s.setS d (atomicResult req (vals.headD 0))

/-- The slot's access has its values: destination, pointer update, acquire, completion (R125, R126, R128). -/
def finishAccess (dest : AccessDest) (upd : Option (PReg × DWord)) (acq : Option Scope) (vals : List Nat) (due : Nat)
    (s : State) : Out :=
  let s := (s.writeDest dest vals).acquireIf s.thr.id.core acq
  let s := { s with thr := s.thr.update upd }
  .next { s with thr := (s.thr.done due).arrive s.thr.following }

end Sys2Proof.Machine
end

