-- ==== Sys2Proof/Machine/Directory.lean ====
section
/-!
DEFINITION. The tensor directory: its operations (spec/16_directory.md R283 to R294) and its instructions
(spec/10_system_instr.md R213 to R216).
-/
namespace Sys2Proof.Machine

/-! ## Names, grants, objects -/

/-- The namespace of a name (R213). -/
def nameNs (name : Nat) : Nat := name % 2 ^ 16

/-- A grant entry (R284). -/
def Directory.grant (d : Directory) (ns : Nat) : BitVec 128 := assocD d.grants ns 0

/-- The rights of an address space and world in a namespace (R285): to bind, and to open. -/
def mayBind (g : BitVec 128) (asid : BitVec 16) (world : BitVec 4) : Bool :=
  g.getLsbD 63 && g.extractLsb' 48 4 = world && g.extractLsb' 0 16 = asid
def mayOpen (g : BitVec 128) (asid : BitVec 16) (world : BitVec 4) : Bool :=
  g.getLsbD 63 && g.extractLsb' 48 4 = world && (g.extractLsb' 0 16 = asid ||
    (asid != 0 && (g.extractLsb' 64 16 = asid || g.extractLsb' 80 16 = asid || g.extractLsb' 96 16 = asid ||
      g.extractLsb' 112 16 = asid)))

/-- The object a name is bound to. -/
def Directory.lookup (d : Directory) (name : Nat) : Option Nat := (d.names.find? (fun n => n.name = name)).map (·.obj)

/-- An object by its index. -/
def Directory.obj? (d : Directory) (i : Nat) : Option ObjRec := d.objs.find? (fun o => o.idx = i)

/-- An object changed. -/
def Directory.updObj (d : Directory) (i : Nat) (f : ObjRec → ObjRec) : Directory :=
  { d with objs := d.objs.map (fun o => if o.idx = i then f o else o) }

/-- The fields of a format word (R286). -/
def fmtExtents (f : Nat) : Nat := bits f 21 18 + 1
def fmtRank (f : Nat) : Nat := bits f 7 5
def fmtScl (f : Nat) : Nat := bits f 9 8
def fmtSide (f : Nat) : Bool := bit f 10
def fmtElem (f : Nat) : Nat := bits f 4 0

/-- A descriptor as it is read: 8 words, then two for each extent (R286). -/
structure Desc where
  fmt : DWord
  dims : List (BitVec 32)
  extents : List (DWord × Nat)
  len : Nat
  /-- SCOFF and SIDEOFF. -/
  offsets : DWord
  deriving DecidableEq, Repr

/-- Word i of bytes. -/
def wordAt (l : List Byte) (i : Nat) : Nat := ofBytes ((l.drop (8 * i)).take 8)

/-- The blocks of 32 of a tensor's scales along the last or the first dimension (R81, R286). -/
def scaleBlocks (scl : Nat) (dims : List Nat) : Nat :=
  match scl with
  | 1 => (dims.dropLast.foldl (· * ·) 1) * ceilDiv (dims.getLastD 1) 32
  | _ => ceilDiv (dims.headD 1) 32 * (dims.tail.foldl (· * ·) 1)

/-- The descriptor that bytes hold; none when it is malformed (R287). -/
def parseDesc (l : List Byte) : Option Desc :=
  let f := wordAt l 0
  let rank := fmtRank f
  let dimWords := (List.range 6).map (fun i => wordAt l (i + 1))
  let dims := dimWords.take rank
  let e := fmtExtents f
  let ext := (List.range e).map (fun i => (BitVec.ofNat 64 (wordAt l (8 + 2 * i)), wordAt l (9 + 2 * i)))
  let len := (ext.map (·.2)).foldl (· + ·) 0
  let scOff := bits (wordAt l 7) 31 0
  let sideOff := bits (wordAt l 7) 63 32
  let blocks := scaleBlocks (fmtScl f) dims
  let packed := ceilDiv (dims.foldl (· * ·) 1 * fmtBits (fmtElem f)) 8
  if bits f 63 22 = 0 ∧ bits f 17 11 = 0 ∧ fmtScl f ≠ 3 ∧ 1 ≤ rank ∧ rank ≤ 6 ∧ 1 ≤ fmtElem f ∧ fmtElem f ≤ 12
      ∧ dims.all (fun d => decide (0 < d ∧ d < 2 ^ 32)) ∧ (dimWords.drop rank).all (· = 0)
      ∧ (fmtSide f = false ∨ fmtScl f ≠ 0)
      ∧ ext.all (fun x => ptrSpace x.1 = 2 && ptrValid x.1 && decide (x.1.toNat % 64 = 0) && decide (0 < x.2)
          && decide (x.2 < 2 ^ 48) && decide (x.2 % 64 = 0))
      ∧ packed ≤ len
      ∧ (fmtScl f = 0 ∨ (scOff ≠ 0 ∧ scOff + 2 * blocks ≤ len)) ∧ (fmtSide f = false ∨ (sideOff ≠ 0 ∧ sideOff + 16 * blocks ≤ len))
  then some { fmt := BitVec.ofNat 64 f, dims := dimWords.map (BitVec.ofNat 32 ·), extents := ext, len := len,
              offsets := BitVec.ofNat 64 (wordAt l 7) }
  else none

/-! ## Handles (R37, R292) -/

/-- A handle. -/
def handleOf (obj : Nat) (gen : BitVec 24) (idx : Nat) : DWord :=
  BitVec.ofNat 64 (obj % 2 ^ 17 * 2 ^ 44 + gen.toNat * 2 ^ 20 + idx % 2 ^ 20)

/-- The object of a handle for an address space, or the reason it is refused (R213). -/
def Directory.check (d : Directory) (asid : BitVec 16) (h : DWord) : Except Nat ObjRec :=
  if bits h.toNat 63 61 ≠ 0 then .error 2
  else match d.opens.find? (fun o => o.idx = bits h.toNat 19 0) with
    | none => .error 1
    | some o =>
      if o.obj ≠ some (bits h.toNat 60 44) ∨ o.gen.toNat ≠ bits h.toNat 43 20 then .error 1
      else if o.asid ≠ asid then .error 3
      else match d.obj? (bits h.toNat 60 44) with
        | none => .error 1
        | some r => .ok r

/-- An open entry allocated on an object: never-used entries in ascending index, then the least recently freed; none when
the table is full (R292). -/
def Directory.allocate (d : Directory) (obj : Nat) (asid : BitVec 16) : Option (DWord × Directory) :=
  if d.unused < Config.openLimit then
    some (handleOf obj 0 d.unused,
      { (d.updObj obj (fun o => { o with opens := o.opens + 1 })) with
        unused := d.unused + 1
        opens := d.opens ++ [{ idx := d.unused, gen := 0, obj := some obj, asid := asid }] })
  else match d.freed with
    | [] => none
    | i :: rest =>
      match d.opens.find? (fun o => o.idx = i) with
      | none => none
      | some e =>
        some (handleOf obj e.gen i,
          { (d.updObj obj (fun o => { o with opens := o.opens + 1 })) with
            freed := rest
            opens := d.opens.map (fun o => if o.idx = i then { o with obj := some obj, asid := asid } else o) })

/-- An open entry freed: its generation rises and it joins the tail of the free list (R292). -/
def Directory.free (d : Directory) (i : Nat) : Directory :=
  match d.opens.find? (fun o => o.idx = i && o.obj.isSome) with
  | none => d
  | some e =>
    { (d.updObj (e.obj.getD 0) (fun o => { o with opens := o.opens - 1 })) with
      opens := d.opens.map (fun o => if o.idx = i then { o with gen := o.gen + 1, obj := none } else o)
      freed := d.freed ++ [i] }

/-! ## Operations on the state -/

/-- The directory replaced. -/
def State.withDir (s : State) (d : Directory) : State := { s with dir := d }

/-- The directory holds 256 records and performs no further operation (R289). -/
def State.dirBlocked (s : State) : Bool := decide (Config.directoryRecords ≤ s.held .directory)

/-- A client still waits for the operation it has asked for. -/
def State.stillWaits (s : State) : DirClient → Bool
  | .slot id => (s.thread? id).any (fun t => t.run = .running && t.claims.contains .directory && !(s.node? t.node).any Node.closing)
  | .lease n => s.nodes.any (fun m => m.id = n && m.phase = .leasing && m.ending.isNone)
  | .end_ n => s.nodes.any (fun m => m.id = n && m.ends.isSome)
  | .store core k => (s.sbOf core).any (fun e => e.sent && e.order = k)
  | .debug => s.inbox.any (fun i => match i with
      | .writeMem .. => true
      | _ => false)

/-- Whose turn a directory operation is: while 256 records are held, nobody's; after that theirs who have waited, in the order of
arrival, each one's turn coming up as the one before it has gone on (R289). -/
def State.dirTurn (s : State) (c : DirClient) : Bool :=
  !s.dirBlocked && (match s.dir.queue.find? (fun x => x = c || s.stillWaits x) with
    | none => true
    | some x => x = c)

/-- No operation that has arrived before waits (R283, R289). -/
def State.dirFree (s : State) : Bool := !s.dirBlocked && !s.dir.queue.any s.stillWaits

/-- A client that must wait joins the queue once. -/
def State.dirAwait (s : State) (c : DirClient) : State :=
  if s.dir.queue.contains c && s.stillWaits c then s
  else { s with dir := { s.dir with queue := (s.dir.queue.filter (fun x => x ≠ c && s.stillWaits x)) ++ [c] } }

/-- A client that has come to its turn and waits for something else keeps its place: the first. -/
def State.dirFirst (s : State) (c : DirClient) : State := { s with dir := { s.dir with queue := c :: s.dir.queue.filter (· ≠ c) } }

/-- A client has had its turn. -/
def State.dirServed (s : State) (c : DirClient) : State := { s with dir := { s.dir with queue := s.dir.queue.filter (· ≠ c) } }

/-- Live objects: those that stand, and those whose reclaim record still waits (R289). -/
def State.liveObjects (s : State) : Nat := s.dir.objs.length + s.held .directory

/-- The reclaim record of an object (R289). -/
def reclaimRecord (s : State) (o : ObjRec) : FaultRecord :=
  { unit := .directory, ring := s.ringOf o.asid, w0 := recordWord0 o.ns o.asid 0x01 0x0E,
    w1 := BitVec.ofNat 64 (o.len % 2 ^ 48),
    w2 := BitVec.ofNat 64 o.idx, w3 := o.desc }

/-- Every object that is not bound, not open and not leased is reclaimed (R288, R289). Where one operation reclaims several, their records
come in the order of the table, the newest object first, and the directory then holds as many as there are, be they more than 256
together. DESIGN CHOICE (log 129). -/
def State.reclaim (s : State) : State :=
  let gone := s.dir.objs.filter (fun o => !o.bound && o.opens = 0 && o.leases = 0)
  let s' := gone.foldl (fun t o => t.post (reclaimRecord s o)) s
  { s' with dir := { s.dir with objs := s.dir.objs.filter (fun o => !(!o.bound && o.opens = 0 && o.leases = 0)) } }

/-- A slot's word that waited completes with a value for a scalar register and an acquire at device scope. -/
def finishWait (d : Reg) (v : DWord) (s : State) : Out :=
  retire 8 ((s.setS d v).acquire s.thr.id.core .dv)

/-- The destination of a TOPENW that waits. -/
def nameDest (t : Thread) : Option Reg :=
  match t.wait with
  | .name d _ _ => some d
  | _ => none

/-- The waits for names (R293): a node that ends leaves none. -/
def State.nameWaits (s : State) : List NameWait :=
  s.dir.waits.filter (fun w => !s.threads.any (fun t => t.id = w.slot && (s.node? t.node).any Node.closing))

/-- A wait for a name ends (R293): with a value, or with DIRECTORY and EVAL 7. -/
def State.endNameWait (s : State) (slot : SlotId) (r : Option DWord) : State :=
  let s := s.withDir { s.dir with waits := s.dir.waits.filter (fun w => w.slot ≠ slot) }
  s.within slot fun t =>
    match nameDest t.thr with
    | none => .next t
    | some d => match r with
      | some v => finishWait d v t
      | none => fault .directory 0 (some 7) t

/-- A slot that made a STEP of a TOPENW, once the stall is over (R362): the word is to issue again. -/
def State.reissueName (s : State) (slot : SlotId) : State :=
  (s.withDir { s.dir with waits := s.dir.waits.filter (fun w => w.slot ≠ slot) }).within slot (stallFor .waitTable)

/-- A thread is in the word of a STEP. -/
def State.stepsOne (s : State) (slot : SlotId) : Bool := (s.thread? slot).any (fun t => t.stepping = .begun)

/-- A wait for a name ends with a value (R293), or the slot steps again (R362). -/
def State.answerName (s : State) (slot : SlotId) (r : Option DWord) : State :=
  if s.stepsOne slot then s.reissueName slot else s.endNameWait slot r

/-- One waiting TOPENW meets the binding of its name (R293). -/
def State.satisfyWait (s : State) (obj : Nat) (w : NameWait) : State :=
  if s.stepsOne w.slot then s.reissueName w.slot
  else if mayOpen (s.dir.grant (nameNs w.name)) w.asid w.world then
    match s.dir.allocate obj w.asid with
    | some (h, d) => (s.withDir d).endNameWait w.slot (some h)
    | none => s.endNameWait w.slot none
  else s.endNameWait w.slot (some 0)

/-- The name's object is superseded, and the name is no longer bound (R214, R288). -/
def Directory.unbind (d : Directory) (name : Nat) : Directory :=
  match d.lookup name with
  | none => d
  | some i => { (d.updObj i (fun o => { o with bound := false })) with names := d.names.filter (fun n => n.name ≠ name) }

/-- The first index from i on that no object has. -/
def freeIndex (used : List Nat) : Nat → Nat → Nat
  | 0, i => i
  | n + 1, i => if used.contains i then freeIndex used n ((i + 1) % Config.objectLimit) else i

/-- One entry of a binding (R214): a name, and the descriptor with its address, or none to unbind. -/
structure BindEntry where
  name : Nat
  desc : Option (DWord × Desc)
  deriving DecidableEq, Repr

/-- A free name bound to a new object; the waits on it are satisfied in the same operation, those that began first before the others
(R288, R293; their order is a DESIGN CHOICE, log 129). -/
def State.bindOne (s : State) (e : BindEntry) : State :=
  match e.desc with
  | none => s
  | some (addr, d) =>
    let dir := s.dir
    let i := freeIndex (dir.objs.map (·.idx)) dir.objs.length (Config.objectIndex s.fresh % Config.objectLimit)
    let o : ObjRec := { idx := i, bound := true, opens := 0, leases := 0, asid := s.thr.asid, ns := nameNs e.name,
                        fmt := d.fmt, dims := d.dims, extents := d.extents, len := d.len, desc := addr, offsets := d.offsets }
    let s := s.used.withDir { dir with objs := o :: dir.objs, names := { name := e.name, obj := i } :: dir.names }
    (s.nameWaits.filter (fun w => w.name = e.name)).foldl (fun s w => s.satisfyWait i w) s

/-- What the names held is superseded, and reclaimed where nothing holds it: its index is free for the new objects (R288, R294). -/
def State.unbindNames (s : State) (l : List BindEntry) : State := (s.withDir (l.foldl (fun d e => d.unbind e.name) s.dir)).reclaim

/-- A binding of several names in one directory operation (R214). -/
def State.bindAll (s : State) (l : List BindEntry) : State := l.foldl State.bindOne (s.unbindNames l)

/-- The tables that a binding would fill beyond their limits, every reclaim in it counted (R213, R294). -/
def bindOverflow (s : State) (l : List BindEntry) : Option Nat :=
  let new := l.filter (fun e => e.desc.isSome)
  let fresh := new.filter (fun e => (s.dir.lookup e.name).isNone)
  let lost := l.filter (fun e => (s.dir.lookup e.name).isSome)
  let gone := lost.filter (fun e => match s.dir.lookup e.name with
    | some i => (s.dir.obj? i).any (fun o => o.opens = 0 && o.leases = 0)
    | none => false)
  let dropped := lost.filter (fun e => e.desc.isNone)
  if Config.nameLimit < s.dir.names.length + fresh.length - dropped.length then some 5
  else if Config.objectLimit < s.liveObjects + new.length - gone.length then some 6
  else none

/-- The executing slot has its turn. -/
def State.dirEntered (s : State) : State :=
  let s := s.dirServed (.slot s.thr.id)
  { s with thr := { s.thr with claims := s.thr.claims.filter (· ≠ .directory) } }

/-- The executing slot holds a place in the queue. -/
def State.dirClaimed (s : State) : State := s.claimed .directory

/-- A directory word that stalls for its operands keeps its turn; one that waits at issue for room in the wait table does not. -/
def Thread.keepsTurn (t : Thread) : Bool :=
  match t.wait with
  | .stall .waitTable => false
  | .stall _ => true
  | _ => false

/-- An operation that must not pass the directory while it holds 256 records, nor those that have waited for it (R289). -/
def directoryThen (s : State) (body : State → Out) : Out :=
  if s.dirTurn (.slot s.thr.id) then
    match body s.dirEntered with
    | .next u => .next (if u.thr.keepsTurn then (u.dirFirst (.slot u.thr.id)).dirClaimed else u)
    | .fault x => .fault x
    | .refused x => .refused x
  else stallFor .waitTable (s.dirAwait (.slot s.thr.id)).dirClaimed

/-- A DIRECTORY fault with its reason (R213). -/
def directoryFault (reason : Nat) (s : State) : Out := fault .directory 0 (some (BitVec.ofNat 64 reason)) s

/-- The name at a pointer (R213), 16 bytes at a 16-byte-aligned address. -/
def nameThen (p : DWord) (s : State) (body : Nat → State → Out) : Out :=
  readThen p 16 s fun l s => if bits (ofBytes l) 127 120 ≠ 0 then directoryFault 2 s else body (ofBytes l) s

/-- The 16-byte pieces of a descriptor from piece a to piece b. -/
def descPieces (p : DWord) (a b : Nat) : List DWord := (List.range (b - a)).map (fun i => adv p (16 * (a + i) : Nat))

/-- The descriptor at a pointer (R286, R287). -/
def descThen (p : DWord) (s : State) (body : Desc → State → Out) : Out :=
  if !ptrValid p || ptrSpace p ≠ 2 || p.toNat % 64 ≠ 0 then directoryFault 8 s
  else
    readAllThen 16 (descPieces p 0 4) s [] fun h s =>
      readAllThen 16 (descPieces p 4 (4 + fmtExtents (wordAt h 0))) s h fun l s =>
        match parseDesc l with
        | none => directoryFault 8 s
        | some d => body d s

/-! ## Instructions -/

/-- The binding itself, once every entry has passed its checks. -/
def bindThen (l : List BindEntry) (cost : Nat) (s : State) : Out :=
  match bindOverflow s l with
  | some r => directoryFault r s
  | none => let t := s.bindAll l; retireWithin 8 cost t

/-- TBIND (R214). -/
def execTbind (a b : PReg) (s : State) : Out :=
  issue (.tbind a b) s fun s => releaseThen .dv s fun s => directoryThen s fun s =>
    nameThen (s.thr.preg a) s fun name s =>
      if !mayBind (s.dir.grant (nameNs name)) s.thr.asid s.thr.world then directoryFault 4 s
      else descThen (s.thr.preg b) s fun d s => bindThen [{ name := name, desc := some (s.thr.preg b, d) }] 700 s

/-- The entries of a TBINDM read and checked one after the other; nothing changes before all have passed (R214). -/
def entriesThen (p : DWord) : Nat → Nat → State → List BindEntry → (List BindEntry → State → Out) → Out
  | 0, _, s, acc, body => body acc.reverse s
  | n + 1, i, s, acc, body =>
    readThen (adv p (32 * i : Nat)) 16 s fun l s =>
      readThen (adv p (32 * i + 16 : Nat)) 16 s fun m s =>
        let name := ofBytes l
        let ptr := BitVec.ofNat 64 (wordAt m 0)
        if wordAt m 1 ≠ 0 ∨ bits name 127 120 ≠ 0 then directoryFault 2 s
        else if !mayBind (s.dir.grant (nameNs name)) s.thr.asid s.thr.world then directoryFault 4 s
        else if acc.any (fun e => e.name = name) then directoryFault 9 s
        else if ptr = 0 then entriesThen p n (i + 1) s ({ name := name, desc := none } :: acc) body
        else descThen ptr s fun d s => entriesThen p n (i + 1) s ({ name := name, desc := some (ptr, d) } :: acc) body

/-- TBINDM (R214). -/
def execTbindm (a : PReg) (b : Reg) (s : State) : Out :=
  issue (.tbindm a b) s fun s => releaseThen .dv s fun s => directoryThen s fun s =>
    let n := (s.thr.sreg b).toNat
    if n = 0 ∨ 16 < n then fault .operand 0 none s
    else entriesThen (s.thr.preg a) n 0 s [] fun l s => bindThen l (700 + 40 * n) s

/-- TUNBIND (R214). -/
def execTunbind (a : PReg) (s : State) : Out :=
  issue (.tunbind a) s fun s => releaseThen .dv s fun s => directoryThen s fun s =>
    nameThen (s.thr.preg a) s fun name s =>
      if !mayBind (s.dir.grant (nameNs name)) s.thr.asid s.thr.world then directoryFault 4 s
      else retireWithin 8 700 (s.bindAll [{ name := name, desc := none }])

/-- An open of a bound name (R215). -/
def openBound (cost : Nat) (d : Reg) (obj : Nat) (s : State) : Out :=
  match s.dir.allocate obj s.thr.asid with
  | none => directoryFault 7 s
  | some (h, dir) => retireWithin 8 cost (((s.withDir dir).setS d h).acquire s.thr.id.core .dv)

/-- TOPEN (R215). -/
def execTopen (d : Reg) (a : PReg) (s : State) : Out :=
  issue (.topen d a) s fun s => directoryThen s fun s =>
    nameThen (s.thr.preg a) s fun name s =>
      if !mayOpen (s.dir.grant (nameNs name)) s.thr.asid s.thr.world then directoryFault 4 s
      else match s.dir.lookup name with
        | some obj => openBound 700 d obj s
        | none => retireWithin 8 700 ((s.setS d 0).acquire s.thr.id.core .dv)

/-- TOPENW (R215, R293): with no binding yet, the slot enters the wait table, or waits at issue while it is full. DESIGN CHOICE
(log 112): sb[63:32] must be zero, and the manual names no fault for other values: OPERAND. -/
def execTopenw (d : Reg) (a : PReg) (b : Reg) (s : State) : Out :=
  issue (.topenw d a b) s fun s => directoryThen s fun s =>
    let t := (s.thr.sreg b).toNat
    if 2 ^ 32 ≤ t then fault .operand 0 none s
    else nameThen (s.thr.preg a) s fun name s =>
      if !mayOpen (s.dir.grant (nameNs name)) s.thr.asid s.thr.world then directoryFault 4 s
      else match s.dir.lookup name with
        | some obj => openBound (if t = 0 then 700 else 8) d obj s
        | none =>
          if t = 0 then retireWithin 8 700 ((s.setS d 0).acquire s.thr.id.core .dv)
          else if Config.waitLimit ≤ s.nameWaits.length then stallFor .waitTable s
          else waitFor (.name d name (s.clock + t)) (s.withDir { s.dir with
            waits := s.dir.waits ++ [{ slot := s.thr.id, name := name, asid := s.thr.asid, world := s.thr.world }] })

/-- TOPENW_TIMEOUT (R215): the wait of a slot times out with sd := 0. -/
def execTopenwTimeout (slot : SlotId) (s : State) : Out :=
  match s.thread? slot with
  | some t =>
    (match t.wait with
     | .name _ _ due =>
       if s.clock < due || (s.node? t.node).any Node.closing then notEnabled "TOPENW_TIMEOUT"
       else .next (s.answerName slot (some 0))
     | _ => notEnabled "TOPENW_TIMEOUT")
  | none => notEnabled "TOPENW_TIMEOUT"

/-- Work of the slot's engines that TCLOSE waits for (R291): copy, seal, tile and automaton instructions. -/
def State.slotWorks (s : State) (id : SlotId) : Bool :=
  s.cmds.any (fun c => c.slot = id && c.node = s.thr.node && (match c.st with
    | .held _ => false
    | _ => true)) || s.jobs.any (fun j => j.2.any (fun x => x.slot = id))

/-- TCLOSE (R215, R291). -/
def execTclose (a : Reg) (s : State) : Out :=
  issue (.tclose a) s fun s =>
    if s.slotWorks s.thr.id then stallFor .tile s
    else releaseThen .dv s fun s => directoryThen s fun s =>
      match s.dir.check s.thr.asid (s.thr.sreg a) with
      | .error r => directoryFault r s
      | .ok _ => retireWithin 8 700 (s.withDir (s.dir.free (bits (s.thr.sreg a).toNat 19 0))).reclaim

/-- An item of TINFO (R216). -/
def infoItem (o : ObjRec) (i : Nat) : DWord :=
  match i with
  | 0 => o.fmt
  | 7 => BitVec.ofNat 64 o.extents.length
  | 8 => BitVec.ofNat 64 o.len
  | 9 => boolWord o.bound
  | 10 => BitVec.ofNat 64 o.opens
  | 11 => BitVec.ofNat 64 o.leases
  | k => (o.dims.getD (k - 1) 0).setWidth 64

/-- TINFO (R216). -/
def execTinfo (d a : Reg) (i : Fin 16) (s : State) : Out :=
  issue (.tinfo d a i) s fun s => directoryThen s fun s =>
    match s.dir.check s.thr.asid (s.thr.sreg a) with
    | .error r => directoryFault r s
    | .ok o => retireWithin 8 700 (s.setS d (infoItem o i.val))

/-- The address of byte n of extents laid end to end (R216, R286). -/
def extentAddr : List (DWord × Nat) → Nat → Option DWord
  | [], _ => none
  | (p, len) :: l, n => if n < len then some (adv p (n : Nat)) else extentAddr l (n - len)

/-- THADDR (R216). -/
def execThaddr (d a b : Reg) (s : State) : Out :=
  issue (.thaddr d a b) s fun s => directoryThen s fun s =>
    match s.dir.check s.thr.asid (s.thr.sreg a) with
    | .error r => directoryFault r s
    | .ok o =>
      match extentAddr o.extents (s.thr.sreg b).toNat with
      | none => fault .operand 0 none s
      | some p => retireWithin 8 700 (s.setS d p)

/-! ## The control page (R283, R284, R292) -/

/-- The waits whose rights a store to a grant entry removes end with sd := 0 (R293). -/
def State.endUngranted (s : State) (ns : Nat) : State :=
  (s.nameWaits.filter (fun w => nameNs w.name = ns && !mayOpen (s.dir.grant ns) w.asid w.world)).foldl
    (fun s w => s.answerName w.slot (some 0)) s

/-- A store to a word of a grant entry (R284): the reserved bits stay zero. -/
def State.writeGrant (s : State) (off : Nat) (v : DWord) : State :=
  let ns := off / 16
  let old := s.dir.grant ns
  let new : BitVec 128 :=
    if off % 16 < 8 then BitVec.ofNat 128 (bits old.toNat 127 64 * 2 ^ 64 + (v &&& 0x800F00000000FFFF).toNat)
    else BitVec.ofNat 128 (v.toNat * 2 ^ 64 + old.toNat % 2 ^ 64)
  let s := s.withDir { s.dir with grants := assocSet s.dir.grants ns new }
  let s :=
    if old.getLsbD 63 && !new.getLsbD 63 then
      ((s.withDir ((s.dir.names.filter (fun n => nameNs n.name = ns)).foldl (fun d n => d.unbind n.name) s.dir))).reclaim
    else s
  s.endUngranted ns

/-- GRANT_ENTRY_WRITE (R284). -/
def execGrantEntryWrite (off : Nat) (v : DWord) (s : State) : Out :=
  if off < 0x100000 ∧ off % 8 = 0 ∧ s.dirFree then .next (s.writeGrant off v) else notEnabled "GRANT_ENTRY_WRITE"

/-- RELASID (R283, R292): every open of an address space is closed; its entries join the free list in ascending index. DESIGN CHOICE
(log 129). -/
def State.relasid (s : State) (v : DWord) : State :=
  if 2 ^ 16 ≤ v.toNat then s
  else
    let mine := s.dir.opens.filter (fun o => o.asid.toNat = v.toNat && o.obj.isSome)
    (s.withDir (mine.foldl (fun d o => d.free o.idx) s.dir)).reclaim

/-- RELASID (R283). -/
def execRelasid (v : DWord) (s : State) : Out :=
  if !s.dirFree then notEnabled "RELASID" else .next (s.relasid v)

end Sys2Proof.Machine
end

