-- ==== Sys2Proof/Machine/Ring.lean ====
section
/-!
DEFINITION. Circular buffers (spec/06_memory_instr.md R134 to R136, spec/01_machine_state.md R20, spec/20_engines_memory.md
R321).
-/
namespace Sys2Proof.Machine

/-! ## Descriptors (R135) -/

def qBase (q : QWord) : DWord := q.extractLsb' 64 64
def qBound (q : QWord) : Bool := q.getLsbD 63
def qRole (q : QWord) : Nat := bits q.toNat 62 61
def qFifo (q : QWord) : Bool := q.getLsbD 60
def qCapLog (q : QWord) : Nat := bits q.toNat 59 56
def qPos (q : QWord) : Nat := bits q.toNat 31 0

/-- CAP of a descriptor. -/
def qCap (q : QWord) : Nat := 2 ^ qCapLog q

/-- A descriptor with another POS. -/
def qWithPos (q : QWord) (n : Nat) : QWord := BitVec.ofNat 128 (bits q.toNat 127 32 * 2 ^ 32 + n % 2 ^ 32)

/-- The FIFO-mode bank whose start a pointer names, with its CAPLOG2 (R321). -/
def State.fifoAt (s : State) (p : DWord) : Option Nat :=
  if ptrSpace p = 1 ∧ ptrSramOff p % 65536 = 0 then
    let b := s.bank (ptrCluster p) (ptrSramOff p / 65536)
    if b.mode = 2 then some b.fcap.toNat else none
  else none

/-- The checks that QBIND makes on a descriptor (R20, R135, R136, R321). -/
def State.qOk (s : State) (q : QWord) : Bool :=
  let base := qBase q
  qBound q && (qRole q = 1 || qRole q = 2) && bits q.toNat 55 32 = 0
    && (1 ≤ qCapLog q && qCapLog q ≤ (if qFifo q then 9 else 11))
    && (ptrSpace base = 0 || ptrSpace base = 1) && ptrValid base && base.toNat % 64 = 0 && !(ptrSpace base = 0 && ptrWalks base)
    && decide (ptrByte base + 64 + 64 * qCap q ≤ (if ptrSpace base = 0 then 2 ^ 17 else 2 ^ 22))
    && (match s.fifoAt base with
        | some c => qFifo q && c = qCapLog q
        | none => !qFifo q)

/-- The address of slot i of a ring (R134). -/
def ringSlot (q : QWord) (i : Nat) : DWord := adv (qBase q) (64 + 64 * (i % qCap q) : Nat)

/-- A bound descriptor of the wanted role, checked again at its use (R20, R136). -/
def ringThen (r : QReg) (role : Nat) (limit : Nat → Nat) (n : Nat) (s : State) (body : QWord → State → Out) : Out :=
  let q := s.thr.qreg r
  if !s.qOk q || qRole q ≠ role || limit (qCap q) < n then fault .operand 0 none s else body q s

/-! ## The counts at the ring's home (R134) -/

/-- The home of the control block of a ring, as the executing slot reaches it. -/
def controlThen (q : QWord) (k : AccessKind) (s : State) (body : LaneReq → State → Out) : Out :=
  accessThen (qBase q) 8 k s fun r s =>
    match s.homeCheck (some s.thr.id.core) r.home 8 false false with
    | .wait => stallFor .fence s
    | .refuse c => fault c 0 (some (qBase q)) s
    | .ok =>
      if s.earlierMessage s.thr.id.core r.home then stallFor .fence s
      else if s.badAt r.home 8 then machineCheck 1 r.home.off s
      else body r (s.wakeBank r.home)

/-- TAIL and HEAD at a control block's home. -/
def State.ringTail (s : State) (h : Home) : Nat := s.readHome h 4
def State.ringHead (s : State) (h : Home) : Nat := s.readHome (h.plus 4) 4

/-- TAIL less HEAD, and CAP less that: counts are taken modulo 2^32 (R134, R136). -/
def ringGap (tail head : Nat) : Nat := (tail + (2 ^ 32 - head % 2 ^ 32)) % 2 ^ 32
def ringRoom (cap tail head : Nat) : Nat := (cap + 2 ^ 32 - ringGap tail head) % 2 ^ 32

/-- The slots a consumer has filled before it, and the room a producer has (R136). -/
def filledSlots (q : QWord) (tail : Nat) : Nat := ringGap tail (qPos q)
def freeSlots (q : QWord) (head : Nat) : Nat := ringRoom (qCap q) (qPos q) head

/-- The wait of QWAIT, or of QRSV, is over. -/
def State.ringReady (s : State) (q : QWord) (h : Home) (n : Nat) (producer : Bool) : Bool :=
  if producer then decide (n ≤ freeSlots q (s.ringHead h)) else decide (n ≤ filledSlots q (s.ringTail h))

/-- A count written at the ring's home as an aligned 4-byte store of its own (R136). -/
def countThen (q : QWord) (off v : Nat) (s : State) (body : State → Out) : Out :=
  controlThen q .store s fun r s =>
    let r : LaneReq := { r with home := r.home.plus off, n := 4 }
    let own : Bool := match r.home with
      | .lm c _ => c == s.thr.id.core
      | .xlm _ _ => true
      | _ => false
    if own then body (s.perform r.home (toBytes 4 (v % 2 ^ 32)))
    else body (s.sbMessage s.thr.id.core (s.sbEntry r (toBytes 4 (v % 2 ^ 32)) true))

/-! ## Instructions -/

/-- The bank that a ring lies in, if in SRAM. -/
def ringBank (q : QWord) : Option (Nat × Nat) :=
  if qBound q ∧ ptrSpace (qBase q) = 1 then some (ptrCluster (qBase q), ptrSramOff (qBase q) / 65536) else none

/-- One descriptor more, or less, is bound to a ring in a bank (R321). -/
def State.countBound (s : State) (b : Option (Nat × Nat)) (f : Nat → Nat) : State :=
  match b with
  | none => s
  | some (cl, i) => s.setBank cl i { s.bank cl i with bound := f (s.bank cl i).bound }

/-- A descriptor of the executing slot's node is bound to a ring in the bank `new` in place of one in `old` (R321): a descriptor that
SWPWP has brought has not been counted, and is not counted out (log 127). -/
def State.rebind (s : State) (old new : Option (Nat × Nat)) : State :=
  let out := old.filter (fun b => (s.node? s.thr.node).any (fun n => n.binds.contains b))
  let keep := fun (n : Node) =>
    if n.id = s.thr.node then { n with binds := new.toList ++ (out.elim n.binds n.binds.erase) } else n
  { (s.countBound out (· - 1)).countBound new (· + 1) with nodes := s.nodes.map keep }

/-- The bound of R137 on a load by a pointer. -/
def loadBound (id : SlotId) (p : DWord) : Nat :=
  let from_ := fun (cl : Nat) => if cl = clusterOf id.core then 24 else if cl / 16 = dieOf id.core then 96 else 320
  match ptrSpace p with
  | 0 => if isTransform id then 24 else from_ (clusterOf (ptrCore p))
  | 1 => from_ (ptrCluster p)
  | _ => 900

/-- QBIND (R136, R321). -/
def execQbind (d : PReg) (q : QReg) (s : State) : Out :=
  issue (.qbind d q) s fun s =>
    readThen (s.thr.preg d) 16 s fun l s =>
      let new : QWord := BitVec.ofNat 128 (ofBytes l)
      if s.qOk new then
        retireWithin 8 (loadBound s.thr.id (s.thr.preg d)) ((s.rebind (ringBank (s.thr.qreg q)) (ringBank new)).setQ q new)
      else fault .operand 0 none s

/-- QWAIT and QRSV (R136): an acquire at device scope once the count is there. -/
def ringWait (q : QReg) (n : Nat) (producer : Bool) (s : State) : Out :=
  ringThen q (if producer then 2 else 1) id n s fun d s =>
    controlThen d .load s fun r s =>
      if s.ringReady d r.home n producer then
        retireWithin 8 (loadBound s.thr.id (qBase d)) (s.acquire s.thr.id.core .dv)
      else waitFor (.ring q n producer) s

/-- QWAIT (R136). -/
def execQwait (q : QReg) (n : Fin 256) (s : State) : Out := issue (.qwait q n) s (ringWait q n.val false)
/-- QRSV (R136). -/
def execQrsv (q : QReg) (n : Fin 256) (s : State) : Out := issue (.qrsv q n) s (ringWait q n.val true)

/-- The output bound B of the command whose routine the executing transform slot runs (R325, R327). -/
def State.routineB (s : State) : Nat := ((s.cmds.find? (fun c => c.runsIn s.thr.id.core)).map (·.bound)).getD 0

/-- The bytes of output a transform slot may publish (R327): B + 63. -/
def State.routineBound (s : State) : Nat := s.routineB + 63

/-- QPUSH (R136): a release, then TAIL. In a transform slot a push past the bound ends the routine with OPERAND (R327). -/
def execQpush (q : QReg) (n : Fin 256) (s : State) : Out :=
  issue (.qpush q n) s fun s => ringThen q 2 id n.val s fun d s =>
    if isTransform s.thr.id && decide (s.routineBound < 64 * (qPos d + n.val)) then fault .operand 0 none s
    else releaseThen .dv s fun s =>
      countThen d 0 (qPos d + n.val) s fun s => retire 8 (s.setQ q (qWithPos d (qPos d + n.val)))

/-- QPOP (R136): a release, then HEAD. -/
def execQpop (q : QReg) (n : Fin 256) (s : State) : Out :=
  issue (.qpop q n) s fun s => ringThen q 1 id n.val s fun d s => releaseThen .dv s fun s =>
    countThen d 4 (qPos d + n.val) s fun s => retire 8 (s.setQ q (qWithPos d (qPos d + n.val)))

/-- QLDV (R136): slot POS + n, read as LDV reads it. -/
def execQldv (d : Reg) (q : QReg) (n : Fin 256) (s : State) : Out :=
  issue (.qldv d q n) s fun s => ringThen q 1 (· - 1) n.val s fun r s =>
    accessThen (ringSlot r (qPos r + n.val)) 64 .load s fun l s =>
      match s.homeCheck (some s.thr.id.core) l.home 64 false false with
      | .wait => stallFor .fence s
      | .refuse c => fault c 0 (some l.ea) s
      | .ok =>
        match s.atHand l false with
        | some b => retireWithin 8 24 (s.setV d (BitVec.ofNat 512 (ofBytes b)))
        | none =>
          if s.badAt l.home 64 then machineCheck (s.laneKind l) l.home.off s
          else .next { s with thr := { s.thr with
            wait := .access { lanes := [l], got := [], dest := .vector d, upd := none, acq := none, hnt := false, tag := none }
            nextIssue := s.clock + 8 } }

/-- QSTV (R136): slot POS + n, written as STV writes it. -/
def execQstv (d : Reg) (q : QReg) (n : Fin 256) (s : State) : Out :=
  issue (.qstv d q n) s fun s => ringThen q 2 (· - 1) n.val s fun r s =>
    accessThen (ringSlot r (qPos r + n.val)) 64 .store s fun l s =>
      storeThen l (toBytes 64 (s.thr.vreg d).toNat) false s (retire 8)

/-- QWAIT_SATISFIED (R136): a stalled QWAIT or QRSV finds its count, acquires and completes. -/
def execQwaitSatisfied (slot : SlotId) (s : State) : Out :=
  match s.focus slot with
  | none => notEnabled "QWAIT_SATISFIED"
  | some f =>
    match f.thr.wait with
    | .ring q n producer =>
      (match ringWait q n producer f with
       | .next u =>
         if u.thr.wait = .ring q n producer then notEnabled "QWAIT_SATISFIED" else .next ((u.focus s.thr.id).getD u)
       | o => o)
    | _ => notEnabled "QWAIT_SATISFIED"

end Sys2Proof.Machine
end

