-- ==== Sys2Proof/Machine/LoadStore.lean ====
section
/-!
DEFINITION. Loads, stores, gather, scatter, atomics and fences as a slot issues them (spec/06_memory_instr.md R123 to R133),
and the timeout of a store-buffer entry (R127).
-/
namespace Sys2Proof.Machine

/-! ## A line leaves for its package (R337) -/

/-- The slots whose stores a line holds remember the window in which it was sent (R133). -/
def State.noteWindow (s : State) (core : Nat) (writers : List Nat) : State :=
  let note := fun (t : Thread) =>
    if t.id.core = core ∧ writers.contains t.id.slot then { t with lastWindow := some s.windowNow } else t
  { s with thr := note s.thr, others := s.others.map note }

/-- A line that its core sent earlier to the same home still waits for its port (R127). -/
def waitsBefore (l : List SbEntry) (e : SbEntry) : Bool :=
  l.any (fun x => x.waiting && homeUnit x.line = homeUnit e.line && decide (x.order < e.order))

/-- The k-th line of a core leaves for its package, behind those sent earlier; none while its port cannot admit it. -/
def State.admitEntry (s : State) (core k : Nat) : Option State :=
  let l := s.sbOf core
  match l[k]? with
  | none => none
  | some e =>
    match e.line with
    | .peer pkg pa =>
      let e' := { e with waiting := false }
      if !e.waiting || waitsBefore l e then none
      else (s.admitRequest (.line core e') 1 pkg pa e.mask e.world e.data none).map
        (fun x => (x.2.setSb core (l.set k e')).noteWindow core e.writers)
    | _ => none

/-! ## Loads and atomics at issue -/

/-- What an attempt to perform one access of a load or atomic gives. -/
inductive LaneStep where
  /-- Its bytes, and the state after it. -/
  | value (l : List Byte) (s : State)
  /-- It cannot be performed yet. -/
  | hold
  /-- The home refuses it (R124). -/
  | refused (c : Cause)
  /-- A second integrity failure (R314). -/
  | broken

/-- A load's access that can be performed at once: in the slot's own LM, from the core's store buffer or from the cluster
cache (R126). None when it must go to its home. -/
def State.laneNow (s : State) (r : LaneReq) (hnt : Bool) : Option LaneStep :=
  let own := fun (_ : Unit) =>
    match s.homeCheck (some s.thr.id.core) r.home r.n false false with
    | .wait => LaneStep.hold
    | .refuse c => .refused c
    | .ok => match s.readLane r with
      | some l => .value l (s.wakeBank r.home)
      | none => .broken
  match r.home with
  | .lm core _ => if core = s.thr.id.core then some (own ()) else none
  | .xlm _ _ => some (own ())
  | _ => (s.atHand r hnt).map (fun l => .value l (s.noteRead r))

/-- An atomic on the slot's own LM (R131). -/
def State.atomicNow (s : State) (r : LaneReq) (req : AtomicReq) : LaneStep :=
  match s.homeCheck (some s.thr.id.core) r.home r.n true false with
  | .wait => .hold
  | .refuse c => .refused c
  | .ok =>
    if s.badAt r.home r.n then .broken
    else let (old, s) := s.atomicAt (clusterOf s.thr.id.core) 1 r.home req; .value (toBytes r.n old) s

/-- The access is an atomic's. -/
def atomicOf : AccessDest → Option AtomicReq
  | .atomic _ req => some req
  | .load .. => none
  | .vector _ => none
  | .gather _ => none

/-- The access of a load or atomic that can be performed at once. -/
def State.nowStep (s : State) (dest : AccessDest) (r : LaneReq) (hnt : Bool) : Option LaneStep :=
  match atomicOf dest with
  | none => s.laneNow r hnt
  | some req => match r.home with
    | .lm core _ => if core = s.thr.id.core then some (s.atomicNow r req) else none
    | .xlm _ _ => some (s.atomicNow r req)
    | _ => none

/-- The bound of R137 on an access whose bytes are at hand: a global one from the store buffer or the cluster cache, or the slot's own
LM. -/
def State.handBound (s : State) (r : LaneReq) : Nat :=
  if r.home.isGlobal then (if s.sbHolds s.thr.id.core r.home r.n then 8 else 40) else 24

/-- The bound of R137 on an instruction all of whose accesses are at hand: its slowest lane's, and 16 more for GATH or 4 for an
atomic. -/
def State.nearBound (s : State) (dest : AccessDest) (lanes : List LaneReq) : Nat :=
  (lanes.map s.handBound).foldl max 8 + (match dest with
    | .gather _ => 16
    | .atomic _ _ => 4
    | .load .. => 0
    | .vector _ => 0)

/-- The cycle in which an instruction with a bound of R137 lets the slot issue again. -/
def State.nearDue (s : State) (bound : Nat) : Nat := s.clock + s.cycles 8 bound

/-- A load or atomic at issue: the accesses that are at hand are performed, and the slot waits for the others (R126). -/
def startAccess (bound : Nat) (dest : AccessDest) (upd : Option (PReg × DWord)) (acq : Option Scope) (hnt : Bool) :
    List LaneReq → List (List Byte) → State → Out
  | [], got, s => finishAccess dest upd acq (got.reverse.map ofBytes) (s.nearDue bound) s.used
  | r :: rest, got, s =>
    match s.nowStep dest r hnt with
    | some (.value l s) => startAccess bound dest upd acq hnt rest (l :: got) s
    | some .hold => stallFor .fence s
    | some (.refused c) => fault c 0 (some r.ea) s
    | some .broken => machineCheck (s.laneKind r) r.home.off s
    | none => .next { s with thr := { s.thr with
        wait := .access { lanes := r :: rest, got := got, dest := dest, upd := upd, acq := acq, hnt := hnt, tag := none }
        nextIssue := s.clock + 8 } }

/-- The scope of an acquire that an ordering asks for. -/
def acquireScope (o : Ord) (t : Thread) : Option Scope := if ordAcquires o then some t.status.scope else none

/-- A load of one access (R125). -/
def loadOne (ea : DWord) (n : Nat) (dest : AccessDest) (upd : Option (PReg × DWord)) (o : Ord) (s : State) : Out :=
  accessThen ea n .load s fun r s => releaseIf (ordReleases o) s.thr.status.scope s fun s =>
    hostsThen (acquireScope o s.thr) s fun s => startAccess (s.nearBound dest [r]) dest upd (acquireScope o s.thr) (s.thr.status.pending 7) [r] [] s

/-- LD (R123, R125). -/
def execLd (d : Reg) (p : PReg) (z : LdSize) (adr : Addr) (o : Ord) (s : State) : Out :=
  issue (.ld d p z adr o) s fun s =>
    loadOne (effective s.thr p adr).1 (ldBytes z) (.load d (ldBytes z) (ldSigned z)) (effective s.thr p adr).2 o s

/-- LDV (R123, R125). -/
def execLdv (d : Reg) (p : PReg) (adr : Addr) (o : Ord) (s : State) : Out :=
  issue (.ldv d p adr o) s fun s =>
    loadOne (effective s.thr p adr).1 64 (.vector d) (effective s.thr p adr).2 o s

/-- The address of lane j of a gather or scatter (R130). -/
def laneAddrs (t : Thread) (a : PReg) (b : Reg) (x : Fin 4) : List DWord :=
  (lanes (t.vreg b)).map (fun l => through t.id (t.preg a) (adv (t.preg a) (toSigned 32 l.toNat * 2 ^ x.val)))

/-- GATH (R130). -/
def execGath (d : Reg) (a : PReg) (b : Reg) (z : GSize) (x : Fin 4) (o : Ord) (s : State) : Out :=
  issue (.gath d a b z x o) s fun s =>
    lanesThen (gBytes z) .load (laneAddrs s.thr a b x) s [] fun l s =>
      releaseIf (ordReleases o) s.thr.status.scope s fun s =>
        hostsThen (acquireScope o s.thr) s fun s => startAccess (s.nearBound (.gather d) l) (.gather d) none (acquireScope o s.thr) (s.thr.status.pending 7) l [] s

/-- An atomic (R131, R132): the line that the core's store buffer holds is sent before it. -/
def atomicInstr (d : Reg) (a : PReg) (req : AtomicReq) (o : Ord) (s : State) : Out :=
  accessThen (s.thr.preg a) (atomicBytes req) .atomic s fun r s => releaseIf (ordReleases o) s.thr.status.scope s fun s =>
    match s.revivalOf r with
    | some t => stallFor .fence t
    | none => hostsThen (acquireScope o s.thr) s fun s =>
      startAccess (s.nearBound (.atomic d req) [r]) (.atomic d req) none (acquireScope o s.thr) false [r] []
        (s.sbSend s.thr.id.core (fun e => e.line = r.home.line))

/-- AMO (R131). -/
def execAmo (d : Reg) (a : PReg) (b : Reg) (f : AmoOp) (w : Width) (o : Ord) (s : State) : Out :=
  issue (.amo d a b f w o) s fun s => atomicInstr d a (.amo f w (s.thr.sreg b)) o s
/-- CAS (R131). -/
def execCas (d : Reg) (a : PReg) (b : Reg) (w : Width) (o : Ord) (s : State) : Out :=
  issue (.cas d a b w o) s fun s => atomicInstr d a (.cas w (s.thr.sreg d) (s.thr.sreg b)) o s
/-- FADD (R131). -/
def execFadd (d : Reg) (a : PReg) (b : Reg) (f : FaddFmt) (o : Ord) (s : State) : Out :=
  issue (.fadd d a b f o) s fun s => atomicInstr d a (.fadd f (s.thr.sreg b)) o s

/-! ## Stores -/

/-- A scope at which a completed access is performed only at its home (R128). -/
def beyondCore : Scope → Bool
  | .sl => false
  | .co => false
  | .cl => true
  | .di => true
  | .dv => true
  | .sy => true

/-- The bound of R137 on a store: 8, or 24 where a ninth line must first send the oldest entry. -/
def State.storeBound (s : State) (r : LaneReq) : Nat :=
  let l := s.sbOf s.thr.id.core
  if r.home.isGlobal && !l.any (fun e => e.line = r.home.line && e.occupies) && decide (Config.sbEntries ≤ l.countP SbEntry.occupies)
  then 24 else 8

/-- What a store with an acquire waits for: the admission of a line that holds its bytes, or that line's acknowledgement (R128,
R138). -/
def acquireStall (l : List SbEntry) (mine : SbEntry → Bool) : Stall :=
  match l.find? (fun e => mine e && e.waiting) with
  | some e => .port e.va
  | none => .fence

/-- The end of a store, its bytes stored: with an acquire it is first performed at the scope (R128). -/
def storeEnd (bound : Nat) (r : LaneReq) (upd : Option (PReg × DWord)) (o : Ord) (s : State) : Out :=
  let core := s.thr.id.core
  let mine := fun (e : SbEntry) => e.line = r.home.line && e.writers.contains s.thr.id.slot
  if ordAcquires o && beyondCore s.thr.status.scope && (s.sbOf core).any mine then
    stallFor (acquireStall (s.sbOf core) mine) { s.sbSend core mine with thr := { s.thr with progress := 1 } }
  else if acquireScope o s.thr = some .sy && s.hostsPending then stallFor .fence { s with thr := { s.thr with progress := 1 } }
  else
    let s := s.acquireIf core (acquireScope o s.thr)
    retireWithin 8 bound { s with thr := s.thr.update upd }

/-- A store of n bytes at EA (R125, R127). -/
def storeOne (ea : DWord) (l : List Byte) (upd : Option (PReg × DWord)) (o : Ord) (s : State) : Out :=
  accessThen ea l.length .store s fun r s =>
    if s.thr.progress = 1 then storeEnd 8 r upd o s
    else releaseIf (ordReleases o) s.thr.status.scope s fun s =>
      storeThen r l (ordReleases o) s fun t => storeEnd (s.storeBound r) r upd o t

/-- ST (R123, R125). -/
def execSt (d : Reg) (p : PReg) (z : StSize) (adr : Addr) (o : Ord) (s : State) : Out :=
  issue (.st d p z adr o) s fun s =>
    storeOne (effective s.thr p adr).1 (toBytes (stBytes z) (s.thr.sreg d).toNat) (effective s.thr p adr).2 o s

/-- STV (R123, R125). -/
def execStv (d : Reg) (p : PReg) (adr : Addr) (o : Ord) (s : State) : Out :=
  issue (.stv d p adr o) s fun s =>
    storeOne (effective s.thr p adr).1 (toBytes 64 (s.thr.vreg d).toNat) (effective s.thr p adr).2 o s

/-- A lane of a scatter is refused by its home. -/
def State.laneRefused (s : State) (r : LaneReq) : Option Cause :=
  match s.homeCheck (some s.thr.id.core) r.home r.n true false with
  | .refuse c => some c
  | .wait => none
  | .ok => none

/-- Room for a line of a scatter: where no place is free, the oldest entry leaves now, if its port admits it. -/
def State.makeRoom (s : State) (line : Home) : State :=
  let core := s.thr.id.core
  let l := s.sbOf core
  if !line.isGlobal || l.any (fun e => e.line = line && e.occupies) || decide (l.countP SbEntry.occupies < Config.sbEntries) then s
  else ((s.setSb core (sendOldest (nextOrder l) l)).admitEntry core (l.findIdx SbEntry.occupies)).getD s

/-- The lanes of a scatter stored in lane order, those refused left out (R130). -/
def scatLanes (release : Bool) : List (LaneReq × List Byte) → State → (State → Out) → Out
  | [], s, body => body s
  | (r, l) :: rest, s, body =>
    if (s.laneRefused r).isSome then scatLanes release rest s body
    else storeThen r l release (s.makeRoom r.home.line) fun s => scatLanes release rest s body

/-- The lines of other packages for which a scatter needs places in the store buffer. -/
def State.scatPlaces (s : State) (l : List LaneReq) : Nat :=
  let lines := (l.map (·.home.line)).filter (fun h => (match h with
    | .peer _ _ => true
    | _ => false) && !(s.sbOf s.thr.id.core).any (fun e => e.line = h && e.occupies))
  (lines.foldl (fun a h => if a.contains h then a else h :: a) []).length

/-- The oldest entries sent, as many of those that take a place as must leave for k places to be free. -/
def sendForPlaces (k : Nat) (l : List SbEntry) : List SbEntry :=
  let need := l.countP SbEntry.occupies + min k Config.sbEntries - Config.sbEntries
  sendFrom (((l.filter SbEntry.occupies).take need).contains ·) (nextOrder l) l

/-- A scatter waits for places: for the oldest entry that is still to be admitted, or, where none is, for the admission of its own first
line to another package (R138, log 48). -/
def scatHeld (l : List LaneReq) (s : State) : Out :=
  let core := s.thr.id.core
  let s := s.setSb core (sendForPlaces (s.scatPlaces l) (s.sbOf core))
  let away := l.find? (fun r => match r.home with
    | .peer _ _ => true
    | _ => false)
  match away with
  | some r =>
    stallFor (if (s.sbOf core).any (·.waiting) then .fabric else .port (vaPtr ((ptrVa r.ea).toNat / 64 * 64))) s
  | none => stallFor .fabric s

/-- A scatter that must wait has stored no lane yet (R138, log 48): of what it has tried only the revival that it has begun is left
(R307). -/
def scatWhole (l : List LaneReq) (s : State) (o : Out) : Out :=
  match o with
  | .next u =>
    (match u.thr.wait with
     | .stall w =>
       let t := { s with fabric := { s.fabric with revivals := u.fabric.revivals } }
       if u.thr.progress = 16 then o else if w = .fabric then scatHeld l t else stallFor w t
     | _ => o)
  | o => o

/-- A scatter whose lanes are stored: with an acquire it waits until they are performed (R128). -/
def scatStored (bound : Nat) (l : List LaneReq) (o : Ord) (s : State) : Out :=
  let core := s.thr.id.core
  let mine := fun (e : SbEntry) => l.any (fun r => e.line = r.home.line) && e.writers.contains s.thr.id.slot
  if ordAcquires o && beyondCore s.thr.status.scope && (s.sbOf core).any mine then
    stallFor (acquireStall (s.sbOf core) mine) { s.sbSend core mine with thr := { s.thr with progress := 16 } }
  else if acquireScope o s.thr = some .sy && s.hostsPending then stallFor .fence { s with thr := { s.thr with progress := 16 } }
  else retireWithin 8 bound (s.acquireIf core (acquireScope o s.thr))

/-- The end of a scatter: the trap of the lowest refused lane (R130), or its completion. -/
def scatEnd (bound : Nat) (l : List LaneReq) (o : Ord) (s : State) : Out :=
  match l.find? (fun r => (s.laneRefused r).isSome) with
  | some r => fault ((s.laneRefused r).getD .wsalias) 0 (some r.ea) s
  | none => scatStored bound l o s

/-- The bound of R137 on a scatter: 16 plus its slowest lane's. -/
def State.scatBound (s : State) (l : List LaneReq) : Nat := 16 + (l.map s.storeBound).foldl max 8

/-- SCAT (R130). -/
def execScat (d : Reg) (a : PReg) (b : Reg) (z : GSize) (x : Fin 4) (o : Ord) (s : State) : Out :=
  issue (.scat d a b z x o) s fun s =>
    lanesThen (gBytes z) .store (laneAddrs s.thr a b x) s [] fun l s =>
      let data := (lanes (s.thr.vreg d)).map (fun v => toBytes (gBytes z) v.toNat)
      if s.thr.progress = 16 then scatStored 24 l o s
      else releaseIf (ordReleases o) s.thr.status.scope s fun s =>
        scatWhole l s (scatLanes (ordReleases o) (l.zip data) s fun t => scatEnd (s.scatBound l) l o t)

/-! ## Fences (R133) -/

/-- FENCE.full (R133). -/
def execFenceFull (sc : Scope) (s : State) : Out :=
  issue (.fenceFull sc) s fun s => releaseThen sc s fun s => hostsThen (some sc) s fun s => retire 8 (s.acquire s.thr.id.core sc)

/-- FENCE.acq (R133): every earlier load has returned its value, one word being in flight. -/
def execFenceAcq (sc : Scope) (s : State) : Out :=
  issue (.fenceAcq sc) s fun s => hostsThen (some sc) s fun s => retire 8 (s.acquire s.thr.id.core sc)

/-- FENCE.rel (R133). -/
def execFenceRel (sc : Scope) (s : State) : Out :=
  issue (.fenceRel sc) s fun s => releaseThen sc s fun s => retire 8 s

/-- FENCE.path (R133). -/
def execFencePath (s : State) : Out :=
  issue .fencePath s fun s => pathThen s fun s => retire 8 s

/-- FENCE.win (R133): window W + 2 must have begun, W being the latest window in which the slot sent a write across Vexey. -/
def execFenceWin (s : State) : Out :=
  issue .fenceWin s fun s => releaseThen .sy s fun s => hostsThen (some .sy) s fun s =>
    match s.thr.lastWindow with
    | none => retire 8 (s.acquire s.thr.id.core .sy)
    | some w =>
      if w + 2 ≤ s.windowNow then retire 8 (s.acquire s.thr.id.core .sy) else waitFor (.window (w + 2)) s

/-! ## The timeout of an entry -/

/-- ENTRY_TIMEOUT (R127): the k-th entry of a core is sent 512 cycles after its first store. -/
def execEntryTimeout (core k : Nat) (s : State) : Out :=
  match (s.sbOf core)[k]? with
  | some e =>
    if e.sent = false ∧ e.born + Config.sbTimeout ≤ s.clock then
      .next (s.setSb core ((s.sbOf core).set k (e.sendAs (nextOrder (s.sbOf core)))))
    else notEnabled "ENTRY_TIMEOUT"
  | none => notEnabled "ENTRY_TIMEOUT"

end Sys2Proof.Machine
end

