-- ==== Sys2Proof/Machine/EngineAccess.lean ====
section
/-!
DEFINITION. What the engines of a cluster share: the ranges an instruction or command declares and their checks
(spec/08_tile_instr.md R163, spec/10_system_instr.md R224), an engine's reads and writes at the homes (R161, R225), pulses of
the event crossbar (R228), and the admission of a request by a Vexey port (spec/21_fabric_host.md R337).
-/
namespace Sys2Proof.Machine

/-! ## Ranges checked at issue -/

/-- The pieces of n bytes from an address up, cut at each multiple of g bytes: the first piece is shorter when the address
is not a multiple. -/
def cutPieces (g : Nat) : Nat → Nat → Nat → List (Nat × Nat)
  | 0, _, _ => []
  | fuel + 1, at_, n =>
    if n = 0 then []
    else let m := min n (g - at_ % g); (at_, m) :: cutPieces g fuel (at_ + m) (n - m)

/-- The pieces of a range, each within one line of LM, one bank of SRAM or one page (R4, R301): offset and length. -/
def rangePieces (p : DWord) (n : Nat) : List (Nat × Nat) :=
  let g := if ptrSpace p = 0 then (if ptrWalks p then min 64 (ptrGranule p) else 64) else 65536
  (cutPieces g (n / g + 2) (ptrByte p) n).map (fun x => (x.1 - ptrByte p, x.2))

/-- Step 7 of R124 for a piece: its bank is in scratch or FIFO mode (R321). -/
def bankThen (r : LaneReq) (store : Bool) (s : State) (body : State → Out) : Out :=
  match r.home with
  | .sram cl off =>
    let b := s.bank cl (off / 65536)
    if b.switching.isSome then stallFor .fence s
    else if b.mode = 0 || (store && b.mode = 2 && decide (off % 65536 < 64)) then fault .operand 0 (some r.ea) s
    else body s
  | _ => body s

/-- The pieces of a range checked in order (R124 steps 3 to 5, and 7 where asked). -/
def piecesThen (m : Asker) (p : DWord) (k : AccessKind) (step7 : Bool) : List (Nat × Nat) → State → (State → Out) → Out
  | [], s, body => body s
  | (o, n) :: l, s, body =>
    spaceThen m (adv p (o : Nat)) n k s fun r s =>
      if step7 then bankThen r (k = .engWrite) s fun s => piecesThen m p k step7 l s body
      else piecesThen m p k step7 l s body

/-- A range checked under steps 1 and 3 to 5 of R124, and 7 where asked. DESIGN CHOICE (log 136): step 2 asks nothing of a range, which
has no access size; its chunks are cut at lines and granules. -/
def rangeThen (m : Asker) (p : DWord) (n : Nat) (k : AccessKind) (step7 : Bool) (s : State) (body : State → Out) : Out :=
  if !ptrUsable s.thr.id p then fault .align badptr (some p) s
  else piecesThen m p k step7 (rangePieces p n) s body

/-- Several ranges checked in order. -/
def rangesThen (m : Asker) (k : AccessKind) (step7 : Bool) : List (DWord × Nat) → State → (State → Out) → Out
  | [], s, body => body s
  | (p, n) :: l, s, body => rangeThen m p n k step7 s fun s => rangesThen m k step7 l s body

/-! ## An engine's accesses (R161, R225) -/

/-- On whose behalf an engine accesses memory: a slot, its node and its world. -/
structure EngineUser where
  slot : SlotId
  node : Nat
  world : BitVec 4
  asid : BitVec 16
  /-- Whose requests cross Vexey. -/
  who : Agent
  /-- The access counts as one of a user-level slot, so that U of the leaf is asked for (R342). -/
  user : Bool := false
  deriving DecidableEq, Repr

/-- The user of an engine that works for a slot's node. -/
def State.engineUser (s : State) (slot : SlotId) (node : Nat) : EngineUser :=
  match s.node? node with
  | some n => { slot := slot, node := node, world := n.world, asid := n.asid, who := .slot slot }
  | none => { slot := slot, node := node, world := 0, asid := 0, who := .slot slot }

/-- What one access of an engine gives. -/
inductive EngineStep where
  | done (l : List Byte) (s : State)
  /-- It cannot be performed yet: for want of a port's admission, or of something else; and the state in which what it needs has just
  been asked for. -/
  | hold (fabric : Bool) (next : Option State)
  /-- Its cause and address; of an integrity failure the kind and the address that its record names (R309). -/
  | fail (c : Cause) (ea : DWord) (kind pa : Nat)

/-- The home of n bytes for an engine: a pinned translation first, then the cluster's TLBs and a walk (R302, R303). -/
def State.engineLane (s : State) (u : EngineUser) (ea : DWord) (n : Nat) (k : AccessKind) :
    Except (Cause × DWord) LaneReq × State :=
  match ptrSpace ea with
  | 0 => (.ok { home := .lm (ptrCore ea) (ptrLmOff ea), ea := ea, n := n, leaf := none }, s)
  | 1 => (.ok { home := .sram (ptrCluster ea) (ptrSramOff ea), ea := ea, n := n, leaf := none }, s)
  | _ =>
    let va := (ptrVa ea).toNat
    match (s.node? u.node).bind (fun n => pinFor n va (kindWrites k)) with
    | some l =>
      (.ok { home := l.home va, ea := ea, n := n, leaf := some l },
        s.touchPin (.l2 (clusterOf u.slot.core)) (clusterOf u.slot.core) u.asid l)
    | none =>
      match s.translate (.l2 (clusterOf u.slot.core)) (clusterOf u.slot.core) u.asid va k u.user with
      | (.ok l, s) => (.ok { home := l.home va, ea := ea, n := n, leaf := some l }, s)
      | (.error w, s) => (.error (.lease, w), s)

/-- An engine reads n bytes at their home: firewall, home checks, bytes. A second integrity failure gives MCHECK (R314). -/
def State.engineRead (s : State) (u : EngineUser) (ea : DWord) (n : Nat) : EngineStep :=
  match s.engineLane u ea n .engRead with
  | (.error (c, w), _) => .fail c w 0 0
  | (.ok r, s) =>
    if !(s.admits u.world r.home r.leaf true false false && s.onRoster u.world r.home) then .fail .world ea 0 0
    else if s.snooped r then .hold false none
    else match s.homeCheck none r.home n false false with
      | .wait => .hold false none
      | .refuse c => .fail c ea 0 0
      | .ok => match (s.wakeBank r.home).readFor u.who u.world r with
        | .bytes l s => .done l s
        | .broken => .fail .mcheck ea (s.laneKind r) r.home.off
        | .hold f t => .hold f t

/-- Bytes written at their home by hardware of a cluster on behalf of a world, once the home has admitted the write: the line is
dropped from the cluster's cache (R246), and a write to a peer leaves when the port admits it. -/
def State.hardwareWrite (s : State) (a : Agent) (cl : Nat) (world : BitVec 4) (r : LaneReq) (l : List Byte) : EngineStep :=
  if s.snooped r then .hold false none
  else match s.revivalOf r with
    | some t => .hold false (some t)
    | none =>
      let s := (s.cacheDrop cl r.home.line).markWrite r
      match r.home with
      | .peer pkg pa =>
        (match s.admitWrite a pkg pa world l with
         | some t => .done [] t
         | none => .hold true none)
      | h => .done [] (s.performFor cl (s.targetWorld h r.leaf) h l)

/-- Where an engine's write of n bytes goes, once its home takes it; or why it does not. -/
def State.engineTarget (s : State) (u : EngineUser) (ea : DWord) (n : Nat) (cleared : Bool) : Except EngineStep (LaneReq × State) :=
  match s.engineLane u ea n .engWrite with
  | (.error (c, w), _) => .error (.fail c w 0 0)
  | (.ok r, s) =>
    if !(s.admits u.world r.home r.leaf false true cleared && s.onRoster u.world r.home) then .error (.fail .world ea 0 0)
    else if s.snooped r then .error (.hold false none)
    else match s.homeCheck none r.home n true false with
      | .wait => .error (.hold false none)
      | .refuse c => .error (.fail c ea 0 0)
      | .ok => .ok (r, s)

/-- An engine writes bytes at their home and drops the line from its cluster's cache (R161, R225). A write to a peer leaves
when the port admits it. `cleared` marks a copy that carries the output to a world under R354. -/
def State.engineWrite (s : State) (u : EngineUser) (ea : DWord) (l : List Byte) (cleared : Bool) : EngineStep :=
  match s.engineTarget u ea l.length cleared with
  | .error e => e
  | .ok (r, s) => s.hardwareWrite u.who (clusterOf u.slot.core) u.world r l

/-- The pieces of one access all find homes that take them, so that an access of which a byte is refused writes no byte (R15). -/
def State.engineWritable (s : State) (u : EngineUser) (p : DWord) (cleared : Bool) : List (Nat × Nat) → EngineStep
  | [] => .done [] s
  | (o, n) :: l =>
    match s.engineTarget u (adv p (o : Nat)) n cleared with
    | .error e => e
    | .ok (r, t) => match t.revivalOf r with
      | some t => .hold false (some t)
      | none => s.engineWritable u p cleared l

/-- A count of a ring written by an engine as its own 4-byte store (R136); a FIFO-mode bank takes it into its registers. -/
def State.engineCount (s : State) (u : EngineUser) (base : DWord) (off v : Nat) (cleared : Bool) : EngineStep :=
  match s.engineLane u (adv base (off : Nat)) 4 .engWrite with
  | (.error (c, w), _) => .fail c w 0 0
  | (.ok r, s) =>
    if !s.admits u.world r.home r.leaf false true cleared then .fail .world base 0 0
    else match s.homeCheck none r.home 4 false false with
      | .wait => .hold false none
      | .refuse c => .fail c base 0 0
      | .ok => .done [] (s.perform r.home (toBytes 4 (v % 2 ^ 32)))

/-- The pieces of a range read one after the other, their bytes joined. -/
def engineReadPieces (u : EngineUser) (p : DWord) : List (Nat × Nat) → List Byte → State → EngineStep
  | [], acc, s => .done acc s
  | (o, n) :: l, acc, s =>
    match s.engineRead u (adv p (o : Nat)) n with
    | .done b s => engineReadPieces u p l (acc ++ b) s
    | .hold f t => .hold f t
    | .fail c ea k pa => .fail c ea k pa

/-- The pieces of a range that an engine accesses line by line, and granule by granule where its pointer walks (R120). -/
def linePieces (p : DWord) (n : Nat) : List (Nat × Nat) :=
  let g := if ptrSpace p = 0 && ptrWalks p then min 64 (ptrGranule p) else 64
  (cutPieces g (n / g + 2) (ptrByte p) n).map (fun x => (x.1 - ptrByte p, x.2))

/-- A range of n bytes read by an engine. -/
def State.engineReadRange (s : State) (u : EngineUser) (p : DWord) (n : Nat) : EngineStep :=
  engineReadPieces u p (linePieces p n) [] s

/-- The pieces of a range written one after the other. -/
def engineWritePieces (u : EngineUser) (p : DWord) (bytes : List Byte) : List (Nat × Nat) → State → EngineStep
  | [], s => .done [] s
  | (o, n) :: l, s =>
    match s.engineWrite u (adv p (o : Nat)) ((bytes.drop o).take n) false with
    | .done _ s => engineWritePieces u p bytes l s
    | .hold f t => .hold f t
    | .fail c ea k pa => .fail c ea k pa

/-- Bytes written by an engine from an address up, line by line. -/
def State.engineWriteRange (s : State) (u : EngineUser) (p : DWord) (bytes : List Byte) : EngineStep :=
  match s.engineWritable u p false (linePieces p bytes.length) with
  | .done _ _ => engineWritePieces u p bytes (linePieces p bytes.length) s
  | e => e

/-! ## The event crossbar (R226, R228, R332) -/

/-- A counter of a cluster, and the same put back. -/
def State.counter (s : State) (cl i : Nat) : Counter := assocD s.counters (cl, i) Counter.idle
def State.setCounter (s : State) (cl i : Nat) (c : Counter) : State := { s with counters := assocSet s.counters (cl, i) c }

/-- A term of a cluster. -/
def State.term (s : State) (cl i : Nat) : Term := assocD s.terms (cl, i) Term.idle

/-- One more pulse: saturating at 2^32 - 1. -/
def Counter.bump (c : Counter) : Counter := { c with value := min (c.value + 1) (2 ^ 32 - 1) }

/-- The pulse of a command that names a counter: only a counter of source 0 counts it. -/
def State.pulse (s : State) (cl i : Nat) : State :=
  let c := s.counter cl i
  let s := { s with pulsed := { cl := cl, ctr := some i, slot := ⟨0, 0⟩, source := 0 } :: s.pulsed }
  if c.source = 0 then s.setCounter cl i c.bump else s

/-- A completion of a slot's tile or automaton instruction, counted by the counters of that source which the slot
configured. -/
def State.pulseSource (s : State) (slot : SlotId) (source : Nat) : State :=
  { s with
    pulsed := { cl := clusterOf slot.core, ctr := none, slot := slot, source := source } :: s.pulsed
    counters := s.counters.map (fun x =>
      if x.1.1 = clusterOf slot.core ∧ x.2.source = source ∧ x.2.slot = slot ∧ x.2.node.isSome then (x.1, x.2.bump) else x) }

/-- The pulses of this cycle that a counter counts: an EVCFG of the same cycle is applied before them (R332). -/
def State.pulsesOf (s : State) (cl i : Nat) (c : Counter) : Nat :=
  s.pulsed.countP (fun p => p.cl = cl && (if c.source = 0 then p.ctr = some i else p.ctr = none && p.source = c.source && p.slot = c.slot))

/-- Condition q of a term. -/
def State.condTrue (s : State) (cl : Nat) (conds : DWord) (q : Nat) : Bool :=
  let f := bits conds.toNat (16 * q + 15) (16 * q)
  !bit f 15 || decide (f % 2 ^ 10 ≤ (s.counter cl (bits f 14 10)).value)

/-- A term is true: some condition is enabled, and every enabled one holds (R228). -/
def State.termTrue (s : State) (cl i : Nat) : Bool :=
  let c := (s.term cl i).conds
  [0, 1, 2, 3].any (fun q => bit c.toNat (16 * q + 15)) && [0, 1, 2, 3].all (s.condTrue cl c)

end Sys2Proof.Machine
end

