-- ==== Sys2Proof/Machine/Tile.lean ====
section
/-!
DEFINITION. The tile engines: exact accumulation (spec/04_numbers.md R85 to R94), the tile instructions and the units in
which the engines perform them (spec/08_tile_instr.md R158 to R182).
-/
namespace Sys2Proof.Machine

/-! ## Elements -/

/-- V of an element as an integer. -/
def TileElem.int (e : TileElem) : Int := toSigned 96 e.v.toNat

/-- The sum word (R85). -/
def TileElem.sumWord (e : TileElem) : BitVec 96 := e.v - e.c

/-- The flags byte (R172). -/
def TileElem.flags (e : TileElem) : Nat :=
  16 * e.ovf.toNat + 8 * e.inx.toNat + 4 * e.nan.toNat + 2 * e.infp.toNat + e.infn.toNat

/-- Flags of a byte set in addition to those an element has. -/
def TileElem.orFlags (e : TileElem) (n : Nat) : TileElem :=
  { e with ovf := e.ovf || bit n 4, inx := e.inx || bit n 3, nan := e.nan || bit n 2, infp := e.infp || bit n 1,
           infn := e.infn || bit n 0 }

/-- An element of a tile. -/
def Tile.elem (t : Tile) (i : Nat) : TileElem := assocD t.elems i TileElem.zero

/-- An element put into a list in ascending order of its index. -/
def putElem : List (Nat × TileElem) → Nat → TileElem → List (Nat × TileElem)
  | [], i, e => [(i, e)]
  | (j, f) :: l, i, e => if i < j then (i, e) :: (j, f) :: l else if i = j then (i, e) :: l else (j, f) :: putElem l i e

/-- An element replaced. -/
def Tile.put (t : Tile) (i : Nat) (e : TileElem) : Tile := { t with elems := putElem t.elems i e }

/-! ## Exact shifts -/

/-- floor(m x 2^e / 2^q). -/
def floorShift (m : Int) (e q : Int) : Int := if q ≤ e then m * 2 ^ (e - q).toNat else m / 2 ^ (q - e).toNat

/-- m x 2^e is a multiple of 2^q. -/
def shiftExact (m : Int) (e q : Int) : Bool := if q ≤ e then true else m % 2 ^ (q - e).toNat = 0

/-- The window's limit: 2^95 (R88). -/
def tileLimit : Int := 2 ^ 95

/-- Every element with OVF = 0 moved down by d bits, its carries resolved (R88, R165). -/
def Tile.rebase (t : Tile) (d : Nat) : Tile :=
  { t with
    a := t.a + d
    elems := t.elems.map (fun x =>
      if x.2.ovf then x
      else (x.1, { x.2 with v := BitVec.ofInt 96 (x.2.int / 2 ^ d), c := 0, inx := x.2.inx || x.2.int % 2 ^ d ≠ 0 })) }

/-! ## Promotion (R88) -/

/-- The value a step gives to an element: its index, and I x 2^e. -/
structure StepValue where
  idx : Nat
  i : Int
  e : Int
  deriving DecidableEq, Repr

/-- Element and step value fit the window when the tile is moved down by d bits. -/
def Tile.fits (t : Tile) (d : Nat) (y : StepValue) : Bool :=
  let e := t.elem y.idx
  e.ovf || decide ((e.int / 2 ^ d + floorShift y.i y.e (t.a + d - 64)).natAbs < tileLimit.natAbs)

/-- The smallest d from d on with which every element fits, or the first one past the highest anchor. -/
def Tile.shiftFor (t : Tile) (ys : List StepValue) : Nat → Nat → Nat
  | 0, d => d
  | n + 1, d => if ys.all (t.fits d) || decide (511 < t.a + d) then d else t.shiftFor ys n (d + 1)

/-- A step value added to its element: saturating with OVF, else with a free split into sum and carry word (R89, log 9). -/
def Tile.addValue (t : Tile) (fresh : Nat) (y : StepValue) : Tile :=
  let e := t.elem y.idx
  if e.ovf then t
  else
    let x := floorShift y.i y.e (t.a - 64)
    let e := { e with inx := e.inx || !shiftExact y.i y.e (t.a - 64) }
    let sum := e.int + x
    if tileLimit.natAbs ≤ sum.natAbs then
      t.put y.idx { e with ovf := true, v := BitVec.ofInt 96 (if 0 < sum then tileLimit - 1 else -(tileLimit - 1)), c := 0 }
    else t.put y.idx { e with v := BitVec.ofInt 96 sum, c := Config.carryWord (1024 * fresh + y.idx) }

/-- Promotion of a step's values (R88). -/
def Tile.promote (t : Tile) (fresh : Nat) (ys : List StepValue) : Tile :=
  let t :=
    if ys.all (t.fits 0) then t
    else t.rebase (min (t.shiftFor ys 1024 1) (511 - t.a).toNat)
  ys.foldl (fun t y => t.addValue fresh y) t

/-! ## A step (R86, R87) -/

/-- The flags that products set. -/
def productFlags (l : List Fp) : Nat :=
  (if l.any (· = .nan) then 4 else 0) + (if l.any (· = .inf false) then 2 else 0) + (if l.any (· = .inf true) then 1 else 0)

/-- The finite nonzero products as signed dyadic numbers. -/
def finiteProducts (l : List Fp) : List (Int × Int) :=
  l.filterMap (fun p => match p with
    | .fin neg m e => if m = 0 then none else some (signedMag neg m, e)
    | .nan => none
    | .inf _ => none)

/-- floor(log2 |m x 2^e|). -/
def flog2Dyadic (x : Int × Int) : Int := (x.1.natAbs.log2 : Int) + x.2

/-- The largest of a list of numbers that is not empty. -/
def maxInt : List Int → Int
  | [] => 0
  | [x] => x
  | x :: l => max x (maxInt l)

/-- The inner sum of an element (R87): its value, and whether a floor discarded something. -/
def innerSum (idx : Nat) (ps : List (Int × Int)) : StepValue × Bool :=
  let e := maxInt (ps.map flog2Dyadic)
  ({ idx := idx, i := (ps.map (fun p => floorShift p.1 p.2 (e - 31))).foldl (· + ·) 0, e := e - 31 },
   ps.any (fun p => !shiftExact p.1 p.2 (e - 31)))

/-- A step with the products of each element (R87). -/
def Tile.step (t : Tile) (fresh : Nat) (products : List (Nat × List Fp)) : Tile :=
  let t := products.foldl (fun t x =>
    if productFlags x.2 = 0 then t else t.put x.1 ((t.elem x.1).orFlags (productFlags x.2))) t
  let t := { t with canon := false }
  let live := (products.map (fun x => (x.1, finiteProducts x.2))).filter (fun x => !x.2.isEmpty)
  if live.isEmpty then t
  else
    let top := maxInt (live.map (fun x => maxInt (x.2.map flog2Dyadic)))
    let t := if t.av then t else { t with av := true, a := max (min (9 + top) 511) (-512) }
    let sums := live.map (fun x => innerSum x.1 x.2)
    let t := sums.foldl (fun t x => if x.2 then t.put x.1.idx ((t.elem x.1.idx).orFlags 8) else t) t
    t.promote fresh (sums.map (·.1))

/-! ## Merging and resolving (R92, R94) -/

/-- A second accumulator merged into a tile (R92): anchor, and V and flags of its elements. DEDUCED (log 50): the flags are joined
first, so that an element whose OVF comes from the source keeps its own V as it stands, neither added to nor shifted, and the
source's saturated value is dropped. -/
def Tile.merge (t : Tile) (fresh : Nat) (av : Bool) (a : Int) (src : List (Nat × Int × Nat)) : Tile :=
  let t := src.foldl (fun t x => if x.2.2 = 0 then t else t.put x.1 ((t.elem x.1).orFlags x.2.2)) t
  let t := { t with canon := false }
  if !av then t
  else
    let t := if !t.av then { t with av := true, a := a } else if t.a < a then t.rebase (a - t.a).toNat else t
    let t := src.foldl (fun t x => if shiftExact x.2.1 a t.a then t else t.put x.1 ((t.elem x.1).orFlags 8)) t
    let ys := (src.map (fun x => ({ idx := x.1, i := floorShift x.2.1 a t.a, e := t.a - 64 } : StepValue))).filter (·.i ≠ 0)
    t.promote fresh ys

/-- The value of an element rounded into an output format (R94): code 1 to 4 of R63. -/
def Tile.resolve (t : Tile) (i code : Nat) : Nat :=
  let e := t.elem i
  if e.nan || (e.infp && e.infn) then fmtNan code
  else if e.infp then fmtInf code false
  else if e.infn then fmtInf code true
  else if e.ovf then (if code = 4 then (if e.int < 0 then 0xFF else 0x7F) else fmtInf code (e.int < 0))
  else if !t.av || e.v = 0 then 0
  else fmtRound code .rn (e.int < 0) e.int.natAbs 1 (t.a - 64)

/-! ## Tiles of the state -/

/-- A tile of an engine. -/
def State.tile (s : State) (cl e t : Nat) : Tile := assocD s.tiles (cl, e, t) Tile.zero

/-- A tile put back. -/
def State.setTile (s : State) (cl e t : Nat) (x : Tile) : State :=
  { s with tiles := assocSet s.tiles (cl, e, t) x }

/-- The outstanding instructions of an engine, the one served next first. -/
def State.engineJobs (s : State) (cl e : Nat) : List TileJob := assocD s.jobs (cl, e) []
def State.setJobs (s : State) (cl e : Nat) (l : List TileJob) : State := { s with jobs := assocSet s.jobs (cl, e) l }

/-- The slot's outstanding instruction on an engine (R159). -/
def State.outstanding (s : State) (id : SlotId) (e : Nat) : Option TileJob :=
  (s.engineJobs (clusterOf id.core) e).find? (fun j => j.slot = id)

/-! ## Issue (R159) -/

/-- The ownership check of R34 (stage 1 of R159). The instructions that claim take an unowned tile. -/
def ownerThen (e t : Nat) (claims : Bool) (s : State) (body : State → Out) : Out :=
  let cl := clusterOf s.thr.id.core
  if (s.tile cl e t).owner = some s.thr.id then body s
  else if claims && s.claimable cl (.tile e t) then body (s.claimed (.tile e t))
  else fault .operand 0 none s

/-- Stage 2 of R159: the slot's outstanding instruction on the engine completes first. -/
def engineFreeThen (e : Nat) (s : State) (body : State → Out) : Out :=
  if (s.outstanding s.thr.id e).isSome then stallFor .tile s else body s

/-- Earlier LM and SRAM stores of the slot are performed first (R161). -/
def localStoresThen (s : State) (body : State → Out) : Out :=
  if (s.sbOf s.thr.id.core).any (fun x => x.writers.contains s.thr.id.slot && x.line.bankId.isSome) then stallFor .fence s
  else body s

/-- A tile instruction as the executing slot sends it. -/
def State.newJob (s : State) (i : Instr) (t : Fin 16) (op : TileOp) : TileJob :=
  { slot := s.thr.id, node := s.thr.node, op := op, tile := t.val, word := encode i, pc := s.thr.pc, pa := 0, pb := 0,
    win := [], fmtA := 0, fmtB := 0, fmtO := 0, scale := 0, side := false,
    promo := if s.thr.status.pending 5 then 2 ^ s.thr.status.hpromo.toNat else 1, done := 0, retried := false, served := [] }

/-- The tile that the instruction in flight has claimed is the slot's (R34). -/
def State.ownClaim (s : State) : State :=
  let cl := clusterOf s.thr.id.core
  s.thr.claims.foldl (fun u c => match c with
    | .tile e t => u.setTile cl e t { u.tile cl e t with owner := some s.thr.id }
    | .group _ => u
    | .directory => u) s

/-- The instruction enters the engine's round, and the slot goes on. -/
def sendJob (e : Fin 2) (j : TileJob) (lo hi : Nat) (s : State) : Out :=
  let cl := clusterOf s.thr.id.core
  retireWithin lo hi (s.ownClaim.setJobs cl e.val (s.engineJobs cl e.val ++ [j]))

/-- MZERO (R164). -/
def execMzero (t : Fin 16) (e : Fin 2) (s : State) : Out :=
  issue (.mzero t e) s fun s => ownerThen e t true s fun s => engineFreeThen e s fun s =>
    sendJob e (s.newJob (.mzero t e) t .mzero) 8 8 s

/-- MANCHOR (R165): the window value is a signed anchor, which only rises. DESIGN CHOICE (log 107): EVAL is the window value also where
the anchor would fall. -/
def execManchor (t : Fin 16) (k : Fin 256) (e : Fin 2) (s : State) : Out :=
  issue (.manchor t k e) s fun s => ownerThen e t true s fun s => engineFreeThen e s fun s =>
    withWindow k.val 1 s fun s =>
      let cl := clusterOf s.thr.id.core
      let v := (s.win k.val).toInt
      let x := s.tile cl e t
      if v < -512 ∨ 511 < v ∨ (x.av ∧ v < x.a) then fault .operand 0 (some (s.win k.val)) s
      else sendJob e { s.newJob (.manchor t k e) t .manchor with win := [s.win k.val] } 8 8 s

/-! ## Operands (R162, R163, R166) -/

/-- A format that an operand of MMA and MMAS accepts (R166). -/
def operandFmt (c : Nat) : Bool := 2 ≤ c && c ≤ 11

/-- The depth of a step (R166). -/
def stepDepth (a b : Nat) : Nat :=
  let m := max (fmtBits a) (fmtBits b)
  if m = 16 then 16 else if m = 8 then 64 else 128

/-- Fields of the geometry words (R162). -/
def geoM (w : DWord) : Nat := bits w.toNat 5 0
def geoN (w : DWord) : Nat := bits w.toNat 13 8
def geoK (w : DWord) : Nat := bits w.toNat 31 16
def geoSc (w : DWord) : Nat := bits w.toNat 47 32
def geoA (w : DWord) : Nat := bits w.toNat 31 0
def geoB (w : DWord) : Nat := bits w.toNat 63 32

/-- An operand of a matrix product: its pointer, stride, rows, format, depth, scale count, the offsets of its scales and
side lists, and whether it has them (R163). -/
structure TileOperand where
  p : DWord
  stride : Nat
  rows : Nat
  fmt : Nat
  depth : Nat
  sc : Nat
  scaled : Bool
  side : Bool
  scaleOff : Int
  sideOff : Int
  deriving DecidableEq, Repr

/-- The operand A, and the operand B, of an instruction. -/
def TileJob.opA (j : TileJob) : TileOperand :=
  let w := j.win.getD 0 0
  { p := j.pa, stride := geoA (j.win.getD 1 0), rows := geoM w, fmt := j.fmtA, depth := geoK w, sc := geoSc w,
    scaled := bit j.scale 0, side := j.side && bit j.scale 0, scaleOff := toSigned 32 (geoA (j.win.getD 2 0)),
    sideOff := toSigned 32 (geoB (j.win.getD 2 0)) }
def TileJob.opB (j : TileJob) : TileOperand :=
  let w := j.win.getD 0 0
  { p := j.pb, stride := geoB (j.win.getD 1 0), rows := geoN w, fmt := j.fmtB, depth := geoK w, sc := geoSc w,
    scaled := bit j.scale 1, side := j.side && bit j.scale 1, scaleOff := toSigned 32 (geoA (j.win.getD 3 0)),
    sideOff := toSigned 32 (geoB (j.win.getD 3 0)) }

/-- The packed length of a row. -/
def TileOperand.rowBytes (o : TileOperand) : Nat := ceilDiv (o.depth * fmtBits o.fmt) 8

/-- The address of a row, of the scales of a row from a block on, and of the side list of a block (R163). -/
def TileOperand.row (o : TileOperand) (i : Nat) : DWord := adv o.p (i * o.stride : Nat)
def TileOperand.scaleAt (o : TileOperand) (i b : Nat) : DWord := adv o.p (o.scaleOff + (2 * (o.sc * i + b) : Nat))
def TileOperand.sideAt (o : TileOperand) (i b : Nat) : DWord := adv o.p (o.sideOff + (16 * (o.sc * i + b) : Nat))

/-- The ranges an operand declares, with the alignment of each (R163). DESIGN CHOICE (log 108): within one step of R163 the first range
that fails in the order rows, scales, side lists, and A before B, gives EVAL. -/
def TileOperand.ranges (o : TileOperand) : List (DWord × Nat × Nat) :=
  let rows := List.range o.rows
  rows.map (fun i => (o.row i, o.rowBytes, 8))
    ++ (if o.scaled then rows.map (fun i => (o.scaleAt i 0, 2 * o.sc, 2)) else [])
    ++ (if o.side then rows.flatMap (fun i => (List.range o.sc).map (fun b => (o.sideAt i b, 16, 16))) else [])

/-- A range meets its alignment and lies within one granule of a walked pointer (R163 step 3). -/
def rangeFits (r : DWord × Nat × Nat) : Bool :=
  ptrByte r.1 % r.2.2 = 0 &&
    (ptrSpace r.1 != 0 || !ptrWalks r.1 || decide (ptrByte r.1 % ptrGranule r.1 + r.2.1 ≤ ptrGranule r.1))

/-- Steps 3 and 4 of R163. -/
def declaredThen (k : AccessKind) (l : List (DWord × Nat × Nat)) (s : State) (body : State → Out) : Out :=
  match l.find? (fun r => !rangeFits r) with
  | some r => fault .align misalign (some r.1) s
  | none => rangesThen .slot k true (l.map (fun r => (r.1, r.2.1))) s body

/-- The field limits of word k of a product (R162), and of MRES. -/
def geoOk (w : DWord) : Bool :=
  bits w.toNat 63 48 = 0 && bits w.toNat 15 14 = 0 && bits w.toNat 7 6 = 0 && 1 ≤ geoN w && geoN w ≤ 32 && 1 ≤ geoM w
    && geoM w ≤ 32
def productGeoOk (scaled : Bool) (w : DWord) : Bool :=
  geoOk w && geoK w != 0 && geoSc w = (if scaled then ceilDiv (geoK w) 32 else 0)

/-- A stride of rows (R163 step 2). -/
def strideOk (rows stride len unit : Nat) : Bool := decide (rows ≤ 1) || (stride % unit = 0 && decide (len ≤ stride))

/-- The ILLEGAL conditions of MMA and MMAS (R166). -/
def mmaBad (scaled : Bool) (s : State) : Bool :=
  let h := s.thr.hfmt
  !operandFmt (fmtOr (fmtA h) 6) || !operandFmt (fmtOr (fmtB h) 6) || fmtO h != 0
    || (!scaled && (fmtScaleMode h != 0 || fmtSideBit h))

/-- The window words of an instruction, k being within its limit: a word that waits at issue keeps what it has read (R162). -/
def geoWords (k n : Nat) (s : State) (body : List DWord → State → Out) : Out :=
  if 256 < k + n then fault .operand 0 (some (BitVec.ofNat 64 k)) s
  else if s.thr.geo.length = n then body s.thr.geo s
  else withWindow k n s fun s =>
    let w := (List.range n).map (fun i => s.win (k + i))
    body w { s with thr := { s.thr with geo := w } }

/-- A matrix product of the executing slot with the window words that it has read (R162, R166). -/
def State.productJob (s : State) (i : Instr) (t : Fin 16) (a b : PReg) (w : List DWord) (scaled : Bool) : TileJob :=
  let h := s.thr.hfmt
  { s.newJob i t (if scaled then .mmas else .mma) with
    pa := s.thr.preg a, pb := s.thr.preg b, win := w, fmtA := fmtOr (fmtA h) 6, fmtB := fmtOr (fmtB h) 6,
    scale := if scaled then (if fmtScaleMode h = 0 then 3 else fmtScaleMode h) else 0, side := scaled && fmtSideBit h }

/-- MMA and MMAS (R166, R167): the checks of R163, then the instruction is sent. -/
def matrixProduct (i : Instr) (t : Fin 16) (a b : PReg) (k : Fin 256) (e : Fin 2) (scaled : Bool) (s : State) : Out :=
  issueWith i (mmaBad scaled) 0 s fun s => ownerThen e t false s fun s =>
    geoWords k.val (if scaled then 4 else 2) s fun w s =>
      let j := s.productJob i t a b w scaled
      let w0 := w.getD 0 0
      let w1 := w.getD 1 0
      if !productGeoOk scaled w0 then fault .operand 0 (some w0) s
      else if !strideOk (geoM w0) (geoA w1) j.opA.rowBytes 8 || !strideOk (geoN w0) (geoB w1) j.opB.rowBytes 8 then
        fault .operand 0 (some w1) s
      else declaredThen .engRead (j.opA.ranges ++ j.opB.ranges) s fun s =>
        engineFreeThen e s fun s => localStoresThen s fun s =>
          sendJob e j (if scaled then 24 else 16) (if scaled then 24 else 16) s

/-- MMA (R167). -/
def execMma (t : Fin 16) (a b : PReg) (k : Fin 256) (e : Fin 2) (s : State) : Out :=
  matrixProduct (.mma t a b k e) t a b k e false s
/-- MMAS (R167). -/
def execMmas (t : Fin 16) (a b : PReg) (k : Fin 256) (e : Fin 2) (s : State) : Out :=
  matrixProduct (.mmas t a b k e) t a b k e true s

/-! ## Resolving, reading, comparing -/

/-- The ILLEGAL conditions of MRES (R168). -/
def mresBad (s : State) : Bool :=
  let h := s.thr.hfmt
  !(1 ≤ fmtOr (fmtO h) 1 && fmtOr (fmtO h) 1 ≤ 4) || fmtA h != 0 || fmtB h != 0 || fmtScaleMode h != 0 || fmtSideBit h

/-- MRES (R168). -/
def execMres (t : Fin 16) (a : PReg) (k : Fin 256) (e : Fin 2) (s : State) : Out :=
  issueWith (.mres t a k e) mresBad 0 s fun s => ownerThen e t false s fun s => geoWords k.val 2 s fun w s =>
    let o := fmtOr (fmtO s.thr.hfmt) 1
    let size := fmtBits o / 8
    let w0 := w.getD 0 0
    let w1 := w.getD 1 0
    let len := geoN w0 * size
    if !geoOk w0 then fault .operand 0 (some w0) s
    else if !strideOk (geoM w0) (geoA w1) len size then fault .operand 0 (some w1) s
    else declaredThen .engWrite ((List.range (geoM w0)).map (fun i => (adv (s.thr.preg a) (i * geoA w1 : Nat), len, size))) s
      fun s => engineFreeThen e s fun s =>
        sendJob e { s.newJob (.mres t a k e) t .mres with pa := s.thr.preg a, win := w, fmtO := o } 16 16 s

/-- MRESC (R169). -/
def execMresc (t : Fin 16) (e : Fin 2) (s : State) : Out :=
  issue (.mresc t e) s fun s => ownerThen e t false s fun s => engineFreeThen e s fun s =>
    sendJob e (s.newJob (.mresc t e) t .mresc) 8 8 s

/-- The element that a window word names (R170). -/
def windowElem (w : DWord) : Nat := bits w.toNat 9 0

/-- A tile instruction that the slot waits for until sd is written completes (R159, R181). -/
def tileResult (e : Nat) (d : Reg) (v : DWord) (s : State) : Out :=
  retireWithin 11 4096 ((s.setS d v).pulseSource s.thr.id (e + 1))

/-- What MRD returns (R170). -/
def mrdValue (t : Tile) (w : DWord) : DWord :=
  let e := t.elem (windowElem w)
  match bits w.toNat 17 16 with
  | 0 => e.v.setWidth 64
  | 1 => BitVec.ofInt 64 (e.int / 2 ^ 64)
  | _ => BitVec.ofInt 64 (t.a * 2 ^ 16 + (256 * t.av.toNat + e.flags : Nat))

/-- MRD (R170). -/
def execMrd (t : Fin 16) (d : Reg) (k : Fin 256) (e : Fin 2) (s : State) : Out :=
  issue (.mrd t d k e) s fun s => ownerThen e t false s fun s => withWindow k.val 1 s fun s =>
    let w := s.win k.val
    if bits w.toNat 63 18 ≠ 0 ∨ bits w.toNat 15 10 ≠ 0 ∨ bits w.toNat 17 16 = 3 then fault .operand 0 none s
    else engineFreeThen e s fun s => tileResult e d (mrdValue (s.tile (clusterOf s.thr.id.core) e t) w) s

/-- What MCMP returns (R171). -/
def mcmpValue (t : Tile) (w : DWord) : DWord :=
  let e := t.elem (windowElem w)
  let c := fp32.decode (bits w.toNat 63 32)
  if c = .nan || e.nan || (e.infp && e.infn) then 2
  else
    let x : Fp :=
      if e.infp then .inf false else if e.infn then .inf true
      else if t.av then .fin (e.int < 0) e.int.natAbs (t.a - 64) else .fin false 0 0
    if x.lt c then -1 else if c.lt x then 1 else 0

/-- MCMP (R171). -/
def execMcmp (t : Fin 16) (d : Reg) (k : Fin 256) (e : Fin 2) (s : State) : Out :=
  issue (.mcmp t d k e) s fun s => ownerThen e t false s fun s => withWindow k.val 1 s fun s =>
    let w := s.win k.val
    if bits w.toNat 31 10 ≠ 0 then fault .operand 0 none s
    else engineFreeThen e s fun s => tileResult e d (mcmpValue (s.tile (clusterOf s.thr.id.core) e t) w) s

/-! ## Images (R172) -/

/-- Bytes of an element record, and of an image. -/
def recordBytes (canon : Bool) : Nat := if canon then 16 else 32
def imageBytes (canon : Bool) : Nat := 16 + 1024 * recordBytes canon

/-- The header of a tile's image. -/
def imageHeader (t : Tile) : List Byte :=
  toBytes 16 (0xACC1 * 2 ^ 48 + (if t.canon then 2 else 1) * 2 ^ 32 + 2 ^ 10 * t.av.toNat + wrap 10 t.a)

/-- The record of an element. -/
def elemRecord (canon : Bool) (e : TileElem) : List Byte :=
  if canon then toBytes 12 e.v.toNat ++ toBytes 4 e.flags
  else toBytes 12 e.sumWord.toNat ++ toBytes 12 e.c.toNat ++ toBytes 8 e.flags

/-- The records of row i. -/
def rowRecords (t : Tile) (i : Nat) : List Byte :=
  (List.range 32).flatMap (fun j => elemRecord t.canon (t.elem (32 * i + j)))

/-- The whole image of a tile. -/
def tileImage (t : Tile) : List Byte := imageHeader t ++ (List.range 32).flatMap (rowRecords t)

/-- A header's form, AV and A; none when it is malformed (R174). -/
def parseHeader (n : Nat) : Option (Bool × Bool × Int) :=
  if bits n 127 64 = 0 ∧ bits n 63 48 = 0xACC1 ∧ bits n 47 40 = 0 ∧ bits n 31 11 = 0 ∧ (bits n 39 32 = 1 ∨ bits n 39 32 = 2)
  then some (bits n 39 32 = 2, bit n 10, toSigned 10 (bits n 9 0)) else none

/-- The element that a record holds; the reserved bytes are ignored. DESIGN CHOICE (log 131): what software has made against R85's
invariants (a value of -2^95, elements under AV = 0) is loaded as it stands. -/
def parseRecord (canon : Bool) (l : List Byte) : TileElem :=
  let a := BitVec.ofNat 96 (ofBytes (l.take 12))
  let c := if canon then 0 else BitVec.ofNat 96 (ofBytes ((l.drop 12).take 12))
  ({ TileElem.zero with v := a + c, c := c }).orFlags (ofBytes ((l.drop (if canon then 12 else 24)).take 1))

/-- The elements of a row of records. -/
def parseRow (canon : Bool) (i : Nat) (l : List Byte) : List (Nat × TileElem) :=
  (List.range 32).map (fun j => (32 * i + j, parseRecord canon (l.drop (recordBytes canon * j))))

/-- The place of an image: 64-byte aligned, with its ranges checked (R163, R172). -/
def imageThen (p : DWord) (n : Nat) (k : AccessKind) (s : State) (body : State → Out) : Out :=
  if ptrByte p % 64 ≠ 0 then fault .align misalign (some p) s else rangeThen .slot p n k true s body

/-- MSAVE (R173). Its image takes the form that the tile has once the slot's instruction on the engine is done: until then only what every
form covers is checked (R163). -/
def execMsave (t : Fin 16) (a : PReg) (e : Fin 2) (s : State) : Out :=
  issue (.msave t a e) s fun s => ownerThen e t false s fun s =>
    let x := s.tile (clusterOf s.thr.id.core) e t
    if (s.outstanding s.thr.id e).isSome then imageThen (s.thr.preg a) (imageBytes true) .engWrite s (stallFor .tile)
    else imageThen (s.thr.preg a) (imageBytes x.canon) .engWrite s fun s =>
      sendJob e { s.newJob (.msave t a e) t .msave with pa := s.thr.preg a } 8 8 s

/-- The header of an image read by the slot's engine, before the slot's next issue (R174, R175). A workspace met at the home ends the
node (R163). -/
def headerThen (p : DWord) (s : State) (body : Bool → DWord → State → Out) : Out :=
  match s.engineRead (s.engineUser s.thr.id s.thr.node) p 16 with
  | .hold f t => stallFor (if f then .port p else .fence) (t.getD s)
  | .fail c ea kind pa =>
    if c = .mcheck then machineCheck kind pa s
    else if c = .wsalias then endBy .wsalias 0 (some ea) s
    else fault c 0 (some ea) s
  | .done l s =>
    match parseHeader (ofBytes l) with
    | none => fault .operand 0 none s
    | some (canon, _, _) => body canon (BitVec.ofNat 64 (ofBytes l)) s

/-- The image that an instruction reads (R163, R172): what every form of it covers is checked first, then the slot's instruction on the
engine and its stores are awaited, and the header tells what else is to be checked. -/
def loadThen (e : Nat) (p : DWord) (s : State) (body : DWord → State → Out) : Out :=
  imageThen p (imageBytes true) .engRead s fun s => engineFreeThen e s fun s => localStoresThen s fun s =>
    headerThen p s fun canon h s => rangeThen .slot p (imageBytes canon) .engRead true s (body h)

/-- MLOAD (R174): a malformed header leaves the tile as it was, unowned if it was so. -/
def execMload (t : Fin 16) (a : PReg) (e : Fin 2) (s : State) : Out :=
  issue (.mload t a e) s fun s => ownerThen e t true s fun s =>
    let p := s.thr.preg a
    loadThen e p s fun h s => sendJob e { s.newJob (.mload t a e) t .mload with pa := p, win := [h] } 8 908 s

/-- MMERGE (R175): it never claims. -/
def execMmerge (t : Fin 16) (a : PReg) (e : Fin 2) (s : State) : Out :=
  issue (.mmerge t a e) s fun s => ownerThen e t false s fun s =>
    let p := s.thr.preg a
    loadThen e p s fun h s => sendJob e { s.newJob (.mmerge t a e) t .mmerge with pa := p, win := [h] } 8 908 s

/-- MRSTL (R177). -/
def execMrstl (k : Fin 256) (s : State) : Out :=
  issue (.mrstl k) s fun s => withWindow k.val 1 s fun s =>
    let v := s.win k.val
    if v.extractLsb' 0 2 = 0 ∧ v.extractLsb' 55 9 = 0 then retire 8 { s with thr := { s.thr with mrstl := v } }
    else fault .operand 0 none s

/-- MWAIT (R176). -/
def execMwait (t : Fin 16) (e : Fin 2) (s : State) : Out :=
  issue (.mwait t e) s fun s =>
    match s.outstanding s.thr.id e with
    | some j => if j.tile = t.val then stallFor .tile s else retire 8 s
    | none => retire 8 s

/-! ## Progress (R178) -/

/-- RPR of an engine for a slot. -/
def State.rpr (s : State) (id : SlotId) (e : Nat) : DWord :=
  match s.outstanding id e with
  | none => 0
  | some j =>
    let w := j.word.toNat
    BitVec.ofNat 64 (2 ^ 63 + j.tile * 2 ^ 59 + (bits w 31 26 - 0x20) * 2 ^ 57 + bits w 6 0 * 2 ^ 50 + j.done % 2 ^ 32)

/-! ## Units (R160) -/

/-- The regular steps and the correction steps of a product (R91, R167). -/
def TileJob.regularSteps (j : TileJob) : Nat := ceilDiv j.opA.depth (stepDepth j.fmtA j.fmtB)
def TileJob.perBlock (j : TileJob) : Nat := j.opA.side.toNat + j.opB.side.toNat
def TileJob.units (j : TileJob) : Nat :=
  match j.op with
  | .mma => j.regularSteps
  | .mmas => j.regularSteps + j.perBlock * j.opA.sc
  | .mzero => 1
  | .manchor => 1
  | .mres => 32
  | .mresc => 32
  | .msave => 32
  | .mload => 32
  | .mmerge => 32

/-- What the bytes of several ranges give. -/
inductive Gathered where
  | got (l : List (List Byte)) (s : State)
  | hold (next : Option State)
  | fail (c : Cause) (ea : DWord) (kind pa : Nat)

/-- Several ranges read by an engine in order. -/
def gatherRanges (u : EngineUser) : List (DWord × Nat) → List (List Byte) → State → Gathered
  | [], acc, s => .got acc.reverse s
  | (p, n) :: l, acc, s =>
    match s.engineReadRange u p n with
    | .done b s => gatherRanges u l (b :: acc) s
    | .hold _ t => .hold t
    | .fail c ea k pa => .fail c ea k pa

/-- The ranges that a step reads of an operand for depths k0 to k1 - 1: rows, then scales, then side lists of block blk. -/
def TileOperand.stepRanges (o : TileOperand) (k0 k1 : Nat) (vals sides : Bool) : List (DWord × Nat) :=
  let rows := List.range o.rows
  let w := fmtBits o.fmt
  (if vals then rows.map (fun i => (adv (o.row i) (k0 * w / 8 : Nat), ceilDiv (k1 * w) 8 - k0 * w / 8)) else [])
    ++ (if vals && o.scaled then rows.map (fun i => (o.scaleAt i (k0 / 32), 2 * ((k1 - 1) / 32 - k0 / 32 + 1))) else [])
    ++ (if sides && o.side then rows.map (fun i => (o.sideAt i (k0 / 32), 16)) else [])

/-- Row i of what a step has read: the values times their scales, depth k0 first. -/
def TileOperand.values (o : TileOperand) (k0 k1 : Nat) (data : List (List Byte)) (i : Nat) : List Fp :=
  let w := fmtBits o.fmt
  let n := ofBytes (data.getD i [])
  let sc := ofBytes (data.getD (o.rows + i) [])
  (List.range (k1 - k0)).map (fun k =>
    let v := fmtValue o.fmt (element n w k)
    if o.scaled then Fp.mul v (scaleValue (element sc 16 ((k0 + k) / 32 - k0 / 32))) else v)

/-- The valid side entries of row i for a block of n elements (R83, R167). -/
def sideEntries (n : Nat) (l : List Byte) : List (Nat × Fp) :=
  ((List.range 4).map (fun q => element (ofBytes l) 32 q)).filterMap (fun w =>
    if bit w 31 ∧ bits w 20 16 < n then some (bits w 20 16, bf16.decode (w % 2 ^ 16)) else none)

/-- The element pairs of a product. -/
def TileJob.pairs (j : TileJob) : List (Nat × Nat) :=
  (List.range j.opA.rows).flatMap (fun i => (List.range j.opB.rows).map (fun k => (i, k)))

/-- What one unit gives. -/
inductive UnitResult where
  | ok (t : Tile) (s : State)
  /-- It cannot be done yet; the state in which what it needs has just been asked for. -/
  | hold (next : Option State)
  | fail (c : Cause) (ea : DWord) (kind pa : Nat)

/-- A step on the products of what has been read. -/
def unitStep (t : Tile) (s : State) (products : List (Nat × List Fp)) : UnitResult := .ok (t.step s.fresh products) s.used

/-- Regular step r (R167). -/
def regularUnit (u : EngineUser) (j : TileJob) (t : Tile) (r : Nat) (s : State) : UnitResult :=
  let ks := stepDepth j.fmtA j.fmtB
  let k0 := r * ks
  let k1 := min j.opA.depth (k0 + ks)
  match gatherRanges u (j.opA.stepRanges k0 k1 true false) [] s with
  | .hold n => .hold n
  | .fail c ea k pa => .fail c ea k pa
  | .got da s =>
    match gatherRanges u (j.opB.stepRanges k0 k1 true false) [] s with
    | .hold n => .hold n
    | .fail c ea k pa => .fail c ea k pa
    | .got db s =>
      let av := (List.range j.opA.rows).map (j.opA.values k0 k1 da)
      let bv := (List.range j.opB.rows).map (j.opB.values k0 k1 db)
      unitStep t s (j.pairs.map (fun x => (32 * x.1 + x.2, (av.getD x.1 []).zipWith Fp.mul (bv.getD x.2 []))))

/-- The correction step of A for a block (R84, R167). -/
def correctA (u : EngineUser) (j : TileJob) (t : Tile) (blk : Nat) (s : State) : UnitResult :=
  let k0 := 32 * blk
  let k1 := min j.opA.depth (k0 + 32)
  match gatherRanges u (j.opA.stepRanges k0 k1 false true) [] s with
  | .hold n => .hold n
  | .fail c ea k pa => .fail c ea k pa
  | .got da s =>
    match gatherRanges u (j.opB.stepRanges k0 k1 true true) [] s with
    | .hold n => .hold n
    | .fail c ea k pa => .fail c ea k pa
    | .got db s =>
      let sideB := fun (c : Nat) =>
        if j.opB.side then sideEntries (k1 - k0) (db.getD ((if j.opB.scaled then 2 else 1) * j.opB.rows + c) []) else []
      let full := fun (c : Nat) (k : Nat) => ((sideB c).filter (fun x => x.1 = k)).foldl (fun a x => Fp.add .rn a x.2)
        ((j.opB.values k0 k1 db c).getD k (.fin false 0 0))
      unitStep t s (j.pairs.map (fun x =>
        (32 * x.1 + x.2, (sideEntries (k1 - k0) (da.getD x.1 [])).map (fun y => Fp.mul y.2 (full x.2 y.1)))))

/-- The correction step of B for a block (R84, R167). -/
def correctB (u : EngineUser) (j : TileJob) (t : Tile) (blk : Nat) (s : State) : UnitResult :=
  let k0 := 32 * blk
  let k1 := min j.opA.depth (k0 + 32)
  match gatherRanges u (j.opA.stepRanges k0 k1 true false) [] s with
  | .hold n => .hold n
  | .fail c ea k pa => .fail c ea k pa
  | .got da s =>
    match gatherRanges u (j.opB.stepRanges k0 k1 false true) [] s with
    | .hold n => .hold n
    | .fail c ea k pa => .fail c ea k pa
    | .got db s =>
      unitStep t s (j.pairs.map (fun x =>
        (32 * x.1 + x.2, (sideEntries (k1 - k0) (db.getD x.2 [])).map (fun y =>
          Fp.mul ((j.opA.values k0 k1 da x.1).getD y.1 (.fin false 0 0)) y.2))))

/-- Unit number `done` of a product (R91). -/
def productUnit (u : EngineUser) (j : TileJob) (t : Tile) (s : State) : UnitResult :=
  if j.done < j.regularSteps then regularUnit u j t j.done s
  else
    let c := j.done - j.regularSteps
    let blk := c / max 1 j.perBlock
    if j.opA.side && c % max 1 j.perBlock = 0 then correctA u j t blk s else correctB u j t blk s

/-- An engine's write as a unit that leaves the tile unchanged. -/
def writeUnit (t : Tile) : EngineStep → UnitResult
  | .done _ s => .ok t s
  | .hold _ n => .hold n
  | .fail c ea k pa => .fail c ea k pa

/-- The values that row i of an image holds, for a merge (R92). -/
def rowValues (canon : Bool) (i : Nat) (l : List Byte) : List (Nat × Int × Nat) :=
  (parseRow canon i l).map (fun x => (x.1, x.2.int, x.2.flags))

/-- Row j.done of the image that an instruction reads. -/
def rowThen (u : EngineUser) (j : TileJob) (canon : Bool) (s : State) (body : List Byte → State → UnitResult) : UnitResult :=
  match s.engineReadRange u (adv j.pa (16 + 32 * recordBytes canon * j.done : Nat)) (32 * recordBytes canon) with
  | .done l s => body l s
  | .hold _ n => .hold n
  | .fail c ea k pa => .fail c ea k pa

/-- One unit of an outstanding instruction on its tile (R160, R164 to R175). -/
def tileUnit (u : EngineUser) (j : TileJob) (t : Tile) (s : State) : UnitResult :=
  match j.op with
  | .mzero => .ok { Tile.zero with owner := t.owner } s
  | .manchor =>
    let v := (j.win.getD 0 0).toInt
    if !t.av then .ok { t with av := true, a := v, canon := t.canon || decide (v ≠ t.a) } s
    else .ok { t.rebase (v - t.a).toNat with canon := true } s
  | .mma => productUnit u j t s
  | .mmas => productUnit u j t s
  | .mres =>
    let w := j.win.getD 0 0
    if geoM w ≤ j.done then .ok t s
    else writeUnit t (s.engineWriteRange u (adv j.pa (j.done * geoA (j.win.getD 1 0) : Nat))
      ((List.range (geoN w)).flatMap (fun c => toBytes (fmtBits j.fmtO / 8) (t.resolve (32 * j.done + c) j.fmtO))))
  | .mresc =>
    let lo := 32 * j.done
    .ok { t with
      canon := t.canon || j.done = 31
      elems := t.elems.map (fun x => if lo ≤ x.1 ∧ x.1 < lo + 32 then (x.1, { x.2 with c := 0 }) else x) } s
  | .msave =>
    let b := 32 * recordBytes t.canon
    if j.done = 0 then writeUnit t (s.engineWriteRange u j.pa (imageHeader t ++ rowRecords t 0))
    else writeUnit t (s.engineWriteRange u (adv j.pa (16 + b * j.done : Nat)) (rowRecords t j.done))
  | .mload =>
    match parseHeader (j.win.getD 0 0).toNat with
    | none => .ok t s
    | some (canon, av, a) =>
      let t := if j.done = 0 then { Tile.zero with owner := t.owner, av := av, a := a, canon := canon } else t
      rowThen u j canon s fun l s => .ok { t with elems := t.elems ++ parseRow canon j.done l } s
  | .mmerge =>
    match parseHeader (j.win.getD 0 0).toNat with
    | none => .ok t s
    | some (canon, av, a) => rowThen u j canon s fun l s => .ok (t.merge s.fresh av a (rowValues canon j.done l)) s.used

/-- An engine instruction's failure ends its node, naming its member and word (R182, R367); a second integrity failure also
posts its record, with its kind and address (R309, R314). -/
def State.engineFails (s : State) (slot : SlotId) (node : Nat) (pc : VAddr) (c : Cause) (ea : DWord) (kind pa : Nat) : State :=
  let s := if c = .mcheck then
      s.postFault (clusterOf slot.core) (s.engineUser slot node).asid 0 0x04 Cause.mcheck.code
        (2 ^ 32 * node + coordWord slot.core) pa kind
    else s
  s.endNode node { cause := c, cls := 0, member := slot, pc := pc.setWidth 64, eval := if c = .mcheck then 0 else ea,
                   before := false, row := 1 }

/-- On whose behalf an instruction accesses memory. -/
def State.jobUser (s : State) (e : Fin 2) (j : TileJob) : EngineUser :=
  { s.engineUser j.slot j.node with who := .tile j.slot e.val j.tile }

/-- The instruction computes steps, whose adders are checked (R96). -/
def TileJob.steps (j : TileJob) : Bool := j.op = .mma || j.op = .mmas

/-- One unit of an instruction with the check of R96: a step that meets a mismatch is repeated once, before its promotion, and the second
mismatch ends the node with the record of R315. -/
def checkedUnit (u : EngineUser) (j : TileJob) (t : Tile) (s : State) : UnitResult :=
  match tileUnit u j t s with
  | .ok t' s' =>
    if 0 < s.upset && j.steps then
      if j.retried then .fail .mcheck 0 0 0 else .ok t { s with upset := s.upset - 1 }
    else .ok t' s'
  | r => r

/-- The instruction after a unit has passed: one more is done, or the step is to be repeated. -/
def TileJob.after (j : TileJob) (s : State) : TileJob :=
  if 0 < s.upset && j.steps && !j.retried then { j with retried := true } else { j with done := j.done + 1, retried := false }

/-- The slot of an instruction has done a unit: the others count it until they do one of their own (R160). -/
def TileJob.sawUnit (id : SlotId) (j : TileJob) : TileJob := { j with served := if j.served.contains id then j.served else id :: j.served }

/-- The slot's instruction is done: its next one is another one. -/
def TileJob.forgets (id : SlotId) (j : TileJob) : TileJob := { j with served := j.served.filter (· ≠ id) }

/-- Between two units of one instruction each other one does at most one (R160). -/
def unitAllowed (id : SlotId) (l : List TileJob) : Bool := l.all (fun j => decide (j.units ≤ j.done) || !j.served.contains id)

/-- The round of an engine (R160): the first of its instructions that can go on does a unit and goes to the end. One that must
wait for a place or for room for its record, or whose node ends, does none. An instruction whose units are done is outstanding until
its last write has been performed (R159). -/
def roundUnit (cl : Nat) (e : Fin 2) : List TileJob → List TileJob → State → Out
  | _, [], _ => notEnabled "ENGINE_UNIT"
  | before, j :: rest, s =>
    let u := s.jobUser e j
    let skip := fun (_ : Unit) => roundUnit cl e (before ++ [j]) rest s
    let others := before ++ rest
    let running := others.filter (fun x => !(s.node? x.node).any s.shut)
    let finish := fun (s : State) => (s.setJobs cl e.val (others.map (TileJob.forgets j.slot))).pulseSource j.slot (e.val + 1)
    if (s.node? j.node).any s.shut then skip ()
    else if j.units ≤ j.done then if s.writesOut u.who then skip () else .next (finish s)
    else if !unitAllowed j.slot running then skip ()
    else match checkedUnit u j (s.tile cl e.val j.tile) s with
    | .hold (some n) => .next n
    | .hold none => skip ()
    | .fail c ea kind pa =>
      if c = .mcheck && s.faultUnitFull cl then skip ()
      else
        let s := if c = .mcheck && kind = 0 then { s with upset := s.upset - 1 } else s
        .next (((s.setJobs cl e.val (others.map (TileJob.forgets j.slot))).dropGot u.who).engineFails j.slot j.node j.pc c ea kind pa)
    | .ok t s' =>
      let j' := j.after s
      let s' := (s'.setTile cl e.val j.tile t).dropGot u.who
      if j.units ≤ j'.done && !s'.writesOut u.who then .next (finish s')
      else .next (s'.setJobs cl e.val (others.map (TileJob.sawUnit j.slot) ++ [{ j' with served := [] }]))

/-- ENGINE_UNIT (R160): the next unit of the engine's round. -/
def execEngineUnit (cl : Nat) (e : Fin 2) (s : State) : Out := roundUnit cl e [] (s.engineJobs cl e.val) s

end Sys2Proof.Machine
end

