-- ==== Sys2Proof/Machine/Automaton.lean ====
section
/-!
DEFINITION. The Automaton Engine: images, lanes, the control group and the stream group (spec/09_automaton_instr.md R183 to
R210).
-/
namespace Sys2Proof.Machine

/-! ## Groups (R183) -/

/-- The effective group. -/
def effGroup (t : Thread) (g : Fin 8) : Nat := (g.val + t.rank) % 8

/-- A lane group of a cluster, and the same put back. -/
def State.group (s : State) (cl g : Nat) : LaneGroup := assocD s.groups (cl, g) LaneGroup.zero
def State.setGroup (s : State) (cl g : Nat) (x : LaneGroup) : State := { s with groups := assocSet s.groups (cl, g) x }

/-- The group of the executing slot, which must own it. -/
def groupThen (g : Fin 8) (s : State) (body : Nat → LaneGroup → State → Out) : Out :=
  let G := effGroup s.thr g
  let x := s.group (clusterOf s.thr.id.core) G
  if x.owner = some s.thr.id then body G x s else fault .operand 0 none s

/-- The executing slot's group replaced. -/
def State.putGroup (s : State) (G : Nat) (x : LaneGroup) : State := s.setGroup (clusterOf s.thr.id.core) G x

/-- The group has an owner of an address space, and binds this image. -/
def State.binds (s : State) (asid : BitVec 16) (image : DWord) (x : LaneGroup) : Bool :=
  x.base = image && (match x.owner with
    | some id => (s.thread? id).any (fun t => t.asid = asid)
    | none => false)

/-- A line of the engine's caches is dropped when no group of the cluster binds its image (R207). -/
def State.dropImages (s : State) : State :=
  { s with images := s.images.filter (fun l => s.groups.any (fun g => g.1.1 = l.cl && s.binds l.asid l.image g.2)) }

/-! ## Images (R184 to R188) -/

/-- Bytes of a mask row (R187). -/
def Image.maskBytes (i : Image) : Nat := 64 * ceilDiv i.v 512

/-- The header that eight words hold; none when a check of R186 fails. -/
def parseImage (l : List Byte) : Option Image :=
  let w := fun i => wordAt l i
  let pda := bit (w 0) 32
  let i : Image := { pda := pda, n := bits (w 0) 31 16 + 1, c := bits (w 0) 15 8 + 1, token := bit (w 0) 0,
                     t := bits (w 1) 55 48 + 1, limit := bits (w 1) 46 40, v := bits (w 1) 17 0 + 1, cmap := w 2,
                     trans := w 3, outt := w 4, mask := w 5, len := w 6 }
  let tableOk := fun (off n : Nat) (must : Bool) => (off = 0 && !must) || (off != 0 && off % 64 = 0 && decide (off + n ≤ i.len))
  let keys := if pda then i.n * i.t else i.n
  if bits (w 0) 63 48 = 0xA17B ∧ bits (w 0) 47 40 = 1 ∧ bits (w 0) 39 33 = 0 ∧ bits (w 0) 7 1 = 0
      ∧ bits (w 1) 63 56 = 0 ∧ bits (w 1) 47 47 = 0 ∧ bits (w 1) 39 18 = 0 ∧ w 7 = 0
      ∧ (if pda then 2 ≤ i.t ∧ 1 ≤ i.limit ∧ i.limit ≤ 64 else i.t = 1 ∧ i.limit = 0)
      ∧ tableOk i.cmap (if i.token then i.v else 256) true
      ∧ tableOk i.trans (4 * i.n * i.c * i.t) true ∧ tableOk i.outt (4 * i.n) false
      ∧ tableOk i.mask (keys * i.maskBytes) false
  then some i else none

/-- A binding record (R184): image, form, XOUT, XSTR; none when it is malformed. -/
def parseBinding (l : List Byte) : Option (DWord × Bool × DWord × Nat) :=
  let img := BitVec.ofNat 64 (wordAt l 0)
  let hform := bit (wordAt l 1) 0
  let xout := BitVec.ofNat 64 (wordAt l 2)
  let xstr := bits (wordAt l 3) 15 0
  let xoutOk : Bool := ptrValid xout && (ptrSpace xout = 1 || (ptrSpace xout = 0 && !ptrWalks xout)) && xout.toNat % 4 = 0
  if wordAt l 1 / 2 = 0 ∧ wordAt l 3 / 2 ^ 16 = 0 ∧ wordAt l 4 = 0 ∧ wordAt l 5 = 0 ∧ wordAt l 6 = 0 ∧ wordAt l 7 = 0
      ∧ (hform ∨ (ptrSpace img = 2 ∧ ptrValid img ∧ img.toNat % 64 = 0)) ∧ xoutOk ∧ xstr % 4 = 0
  then some (img, hform, xout, xstr) else none

/-- The base of an image (R185). -/
def imageBase (img : DWord) (hform : Bool) (s : State) (body : DWord → State → Out) : Out :=
  if !hform then body img s
  else directoryThen s fun s =>
    match s.dir.check s.thr.asid img with
    | .error r => directoryFault r s
    | .ok o => match extentAddr o.extents 0 with
      | none => fault .autoTable 0 none s
      | some p => body p s

/-- ALOAD claims an unowned group at its issue, also while it waits for what it reads, as a tile is claimed (R34, R36): the group becomes
the slot's with its binding, and stays unowned where a check fails. -/
def groupClaimThen (G : Nat) (s : State) (body : State → Out) : Out :=
  let cl := clusterOf s.thr.id.core
  if (s.group cl G).owner = some s.thr.id then body s
  else if s.claimable cl (.group G) then body (s.claimed (.group G))
  else fault .operand 0 none s

/-- ALOAD (R185). -/
def execAload (a : PReg) (g : Fin 8) (s : State) : Out :=
  issue (.aload a g) s fun s =>
    let G := effGroup s.thr g
    groupClaimThen G s fun s => readThen (s.thr.preg a) 64 s fun l s =>
      match parseBinding l with
      | none => fault .operand 0 (some (s.thr.preg a)) s
      | some (img, hform, xout, xstr) =>
        imageBase img hform s fun base s => readThen base 64 s fun h s =>
          match parseImage h with
          | none => fault .autoTable 0 none s
          | some i =>
            let va := (ptrVa base).toNat
            let leased : Bool := match s.node? s.thr.node with
              | some n => grantFor n va i.len false
              | none => false
            if leased then
              retireWithin 16 1816 (s.putGroup G
                { LaneGroup.zero with owner := some s.thr.id, base := base, img := i, xout := xout, xstr := xstr }).dropImages
            else endBy .lease 0 (some (transWord 0 .engRead 8 va)) s

/-! ## Lane words (R190, R192, R193) -/

/-- The top stack symbol, or 0. -/
def Lane.top (l : Lane) : Nat := l.stack.headD 0

/-- The lane word (R190). -/
def Lane.word (l : Lane) : BitVec 32 :=
  BitVec.ofNat 32 (l.top * 2 ^ 24 + l.rej.toNat * 2 ^ 23 + l.stack.length * 2 ^ 16 + l.state)

/-- The lane that a lane of va and one of vb set, if it passes the checks of R192. -/
def asetLane (i : Image) (x y : Nat) : Option Lane :=
  let d := bits x 22 16
  let e := fun k => bits y (8 * k + 7) (8 * k)
  if bits x 30 24 = 0 ∧ bits y 31 24 = 0 ∧ bits x 15 0 < i.n ∧ d ≤ 3 ∧ d ≤ i.limit
      ∧ [0, 1, 2].all (fun k => if k < d then 1 ≤ e k && decide (e k < i.t) else e k = 0)
  then some { state := bits x 15 0, rej := bit x 23, stack := ((List.range d).map e).reverse } else none

/-- The lanes after ASET; none when some lane fails. -/
def asetLanes (i : Image) : List Lane → List (Nat × Nat) → Option (List Lane)
  | l :: ls, (x, y) :: ws =>
    if bit x 31 then (asetLanes i ls ws).map (l :: ·)
    else (asetLane i x y).bind (fun n => (asetLanes i ls ws).map (n :: ·))
  | _, _ => some []

/-- The lanes of a vector register as numbers. -/
def laneNats (v : VecWord) : List Nat := (lanes v).map BitVec.toNat

/-- ASET (R192). -/
def execAset (a b : Reg) (g : Fin 8) (s : State) : Out :=
  issue (.aset a b g) s fun s => groupThen g s fun G x s =>
    match asetLanes x.img x.lanes ((laneNats (s.thr.vreg a)).zip (laneNats (s.thr.vreg b))) with
    | none => fault .operand 0 none s
    | some ls => retire 8 (s.putGroup G { x with lanes := ls })

/-- AGET (R193). -/
def execAget (d : Reg) (g : Fin 8) (s : State) : Out :=
  issue (.aget d g) s fun s => groupThen g s fun _ x s => retire 8 (s.setV d (ofLanes (x.lanes.map Lane.word)))

/-- UCAUSE of AUTO_STACK (R205). -/
def stackCause (done sym G lane : Nat) : DWord :=
  BitVec.ofNat 64 (done % 256 * 2 ^ 34 + sym % 2 ^ 18 * 2 ^ 16 + G * 2 ^ 12 + lane * 2 ^ 8 + 0x08)

/-- AUTO_STACK of a word that completes n cycles from now (R205, R237): its hints are consumed, and the return address is the following word. -/
def stackTrap (n : Nat) (w : DWord) (e : VAddr) (s : State) : Out :=
  userTrap n .autoStack w w e { s with thr := { s.thr.clearHints with retried := false } }

/-- The lanes of APUSH that push: index, lane, symbol word. -/
def pushers (ls : List Lane) (ws : List Nat) : List (Nat × Lane × Nat) :=
  ((List.range 16).zip (ls.zip ws)).filter (fun x => !bit x.2.2 31 && !x.2.1.rej)

/-- APUSH (R193): every lane that is not passed over is checked first; a lane at LIMIT traps, and no lane is pushed. -/
def execApush (a : Reg) (g : Fin 8) (s : State) : Out :=
  issue (.apush a g) s fun s => groupThen g s fun G x s =>
    let ws := laneNats (s.thr.vreg a)
    let go := pushers x.lanes ws
    if !x.img.pda || go.any (fun p => bits p.2.2 30 8 != 0 || p.2.2 % 256 = 0 || decide (x.img.t ≤ p.2.2 % 256)) then
      fault .operand 0 none s
    else match go.find? (fun p => decide (x.img.limit ≤ p.2.1.stack.length)) with
      | some p => stackTrap 8 (stackCause 0 (p.2.2 % 256) G p.1) s.thr.following s
      | none =>
        retire 8 (s.putGroup G { x with lanes := (x.lanes.zip ws).map (fun p =>
          if bit p.2 31 || p.1.rej then p.1 else { p.1 with stack := p.2 % 256 :: p.1.stack }) })

/-- APOP (R193). -/
def execApop (d : Reg) (g : Fin 8) (s : State) : Out :=
  issue (.apop d g) s fun s => groupThen g s fun G x s =>
    if !x.img.pda then fault .operand 0 none s
    else
      let out := x.lanes.map (fun l => if l.rej then (0 : BitVec 32) else BitVec.ofNat 32 l.top)
      let ls := x.lanes.map (fun l => if l.rej then l else { l with stack := l.stack.tail })
      retire 8 ((s.putGroup G { x with lanes := ls }).setV d (ofLanes out))

/-! ## Steps of a lane (R189) -/

/-- Fields of a transition entry (R188). -/
def entNext (e : Nat) : Nat := bits e 15 0
def entEmit (e : Nat) : Bool := bit e 16
def entRej (e : Nat) : Bool := bit e 17
def entAct (e : Nat) : Nat := bits e 19 18
def entSym (e : Nat) : Nat := bits e 27 20

/-- An entry is well formed (R188, R189). -/
def entryOk (i : Image) (e : Nat) : Bool :=
  bits e 31 28 = 0 && decide (entNext e < i.n) && (i.pda || (entAct e = 0 && entSym e = 0))
    && (!(entAct e = 1 || entAct e = 3) || (1 ≤ entSym e && decide (entSym e < i.t)))

/-- What one step of a lane gives. -/
inductive LaneMove where
  /-- The lane after it, and whether it emits the token of the state it leaves. -/
  | moved (l : Lane) (emit : Bool)
  | overflow
  | malformed
  deriving DecidableEq, Repr

/-- A lane that is not rejected steps by an entry (R189). -/
def stepLane (i : Image) (l : Lane) (e : Nat) : LaneMove :=
  if !entryOk i e then .malformed
  else if entRej e then .moved { l with rej := true } false
  else if entAct e = 1 ∧ l.stack.length = i.limit then .overflow
  else if 2 ≤ entAct e ∧ l.stack = [] then .moved { l with rej := true } false
  else
    let st := match entAct e with
      | 0 => l.stack
      | 1 => entSym e :: l.stack
      | 2 => l.stack.tail
      | _ => entSym e :: l.stack.tail
    .moved { l with state := entNext e, stack := st } (entEmit e)

/-- The transition entry of a lane on a class: its offset in the image (R187). -/
def entryOff (i : Image) (state c t : Nat) : Nat := i.trans + 4 * ((state * i.c + c) * i.t + (if i.pda then t else 0))

/-- Why an engine's step comes to no end: it must wait, or it fails. -/
inductive EngineStop where
  | hold (fabric : Bool) (next : Option State)
  | fail (c : Cause) (ea : DWord) (kind pa : Nat)

/-- A malformed table (R189). -/
def EngineStop.table : EngineStop := .fail .autoTable 0 0 0

/-- Lines that the transition cache, and the mask cache, of a cluster holds (R207): 256 KiB and 512 KiB. -/
def imageLines (mask : Bool) : Nat := if mask then 8192 else 4096

/-- A line of an image put into a cluster's cache; a full one replaces some line of it (log 13). -/
def State.fillImage (s : State) (l : ImageLine) : State :=
  let mine := s.images.filter (fun x => x.cl = l.cl && x.mask = l.mask)
  let rest := s.images.filter (fun x => !(x.cl = l.cl && x.mask = l.mask))
  if mine.length < imageLines l.mask then { s with images := l :: mine ++ rest }
  else { s.used with images := l :: mine.eraseIdx (Config.victim s.fresh % mine.length) ++ rest }

/-- Line k of a group's image, from the cluster's cache, which fills from the home. It is not coherent (R207). DESIGN CHOICE (log 111):
a line that is in the cache is used as it stands there, also where the image has been written since. -/
def State.imageLine (s : State) (u : EngineUser) (x : LaneGroup) (mask : Bool) (k : Nat) : Except EngineStop (List Byte × State) :=
  let cl := clusterOf u.slot.core
  match s.images.find? (fun l => l.cl = cl && l.mask = mask && l.asid = u.asid && l.image = x.base && l.line = k) with
  | some l => .ok (toBytes 64 l.data.toNat, s)
  | none => match s.engineRead u (adv x.base (64 * k : Nat)) 64 with
    | .done b s =>
      .ok (b, s.fillImage { cl := cl, mask := mask, asid := u.asid, image := x.base, line := k, data := BitVec.ofNat 512 (ofBytes b) })
    | .hold f n => .error (.hold f n)
    | .fail c ea kind pa => .error (.fail c ea kind pa)

/-- A number of n bytes at an offset of the group's image; it lies in one line. -/
def imageRead (u : EngineUser) (x : LaneGroup) (off n : Nat) (s : State) : Except EngineStop (Nat × State) :=
  match s.imageLine u x false (off / 64) with
  | .ok (l, s) => .ok (ofBytes ((l.drop (off % 64)).take n), s)
  | .error e => .error e

/-- The class of a symbol (R187); a class of C or more is malformed (R189). -/
def classOf (u : EngineUser) (x : LaneGroup) (sym : Nat) (s : State) : Except EngineStop (Nat × State) :=
  match imageRead u x (x.img.cmap + sym) 1 s with
  | .ok (c, s) => if c < x.img.c then .ok (c, s) else .error .table
  | .error e => .error e

/-- The entry of a state, class and top. -/
def entryOf (u : EngineUser) (x : LaneGroup) (state c t : Nat) (s : State) : Except EngineStop (Nat × State) :=
  imageRead u x (entryOff x.img state c t) 4 s

/-- The token id that a state emits (R187, R189). -/
def tokenOf (u : EngineUser) (x : LaneGroup) (state : Nat) (s : State) : Except EngineStop (Nat × State) :=
  if x.img.outt = 0 then .error .table
  else match imageRead u x (x.img.outt + 4 * state) 4 s with
    | .ok (t, s) => if t < 2 ^ 18 then .ok (t, s) else .error .table
    | .error e => .error e

/-- The moves of lanes, each on its class; none of them is applied yet. A lane that is passed over or rejected stays:
its class is never looked up, so a malformed class of its symbol does not end the node. DESIGN CHOICE (log 133). -/
def laneMoves (u : EngineUser) (x : LaneGroup) : List (Lane × Option Nat) → List LaneMove → State →
    Except EngineStop (List LaneMove × State)
  | [], acc, s => .ok (acc.reverse, s)
  | (l, none) :: rest, acc, s => laneMoves u x rest (.moved l false :: acc) s
  | (l, some sym) :: rest, acc, s =>
    if l.rej then laneMoves u x rest (.moved l false :: acc) s
    else match classOf u x sym s with
      | .error e => .error e
      | .ok (c, s) => match entryOf u x l.state c l.top s with
        | .error e => .error e
        | .ok (e, s) =>
          let m := stepLane x.img l e
          if m = .malformed then .error .table else laneMoves u x rest (m :: acc) s

/-- The lane after a move. -/
def moveLane (l : Lane) : LaneMove → Lane
  | .moved m _ => m
  | .overflow => l
  | .malformed => l

/-- Lanes after their moves. -/
def movedLanes (ls : List Lane) (ms : List LaneMove) : List Lane := (ls.zip ms).map (fun p => moveLane p.1 p.2)

/-- The lowest lane that would overflow. -/
def overflowing (ms : List LaneMove) : Option Nat :=
  if ms.any (· = .overflow) then some (ms.findIdx (· = .overflow)) else none

/-- A symbol lane of ATOK breaks R194. -/
def symbolBad (i : Image) (x : Nat) : Bool :=
  bits x 30 18 != 0 || (if i.token then decide (i.v ≤ bits x 17 0) else bits x 17 8 != 0)

/-- A group's step ends the executing slot's node (R189, R206). -/
def stepEnds (c : Cause) (ea : DWord) (kind pa : Nat) (s : State) : Out :=
  if c = .mcheck then machineCheck kind pa s else endBy c 0 (if c = .autoTable then none else some ea) s

/-- A word whose group's step comes to no end waits at issue, or ends the node. -/
def stopWord (ea : DWord) (e : EngineStop) (s : State) : Out :=
  match e with
  | .hold f n => stallFor (if f then .port ea else .fence) (n.getD s)
  | .fail c ea kind pa => stepEnds c ea kind pa s

/-- ATOK (R194). -/
def execAtok (a : Reg) (g : Fin 8) (s : State) : Out :=
  issue (.atok a g) s fun s => groupThen g s fun G x s =>
    let ws := laneNats (s.thr.vreg a)
    let indexed := (List.range 16).zip ws
    match indexed.find? (fun p => !bit p.2 31 && symbolBad x.img p.2) with
    | some p => fault .operand 0 (some (BitVec.ofNat 64 (p.2 * 2 ^ 32 + p.1))) s
    | none =>
      let u := s.engineUser s.thr.id s.thr.node
      match laneMoves u x (x.lanes.zip (ws.map (fun w => if bit w 31 then none else some (bits w 17 0)))) [] s with
      | .error e => stopWord x.base e s
      | .ok (ms, s) =>
        match overflowing ms with
        | some j => stackTrap 16 (stackCause 0 (bits (ws.getD j 0) 17 0) G j) s.thr.following s
        | none => retireWithin 16 1016 (s.putGroup G { x with lanes := movedLanes x.lanes ms })

/-! ## Maps (R200 to R202) -/

/-- A lane of a map: its even and its odd word. -/
def mappingLanes (t : Thread) (r : Reg) : List (Nat × Nat) := (laneNats (t.vreg r)).zip (laneNats (t.vreg (pairReg r)))
where
  /-- The odd register of a pair. -/
  pairReg (r : Reg) : Reg := r + 1

def mapV (p : Nat × Nat) : Bool := bit p.2 31
def mapStart (p : Nat × Nat) : Nat := bits p.1 31 16
def mapEnd (p : Nat × Nat) : Nat := bits p.1 15 0

/-- One lane of ACOMP (R201). -/
def composeLane (b : List (Nat × Nat)) (a : Nat × Nat) : Nat × Nat :=
  if !mapV a then (0, 0)
  else if bit a.2 29 || bit a.2 30 then a
  else match b.find? (fun x => mapV x && mapStart x = mapEnd a) with
    | none => (a.1, bits a.2 31 31 * 2 ^ 31 + 2 ^ 30 + bits a.2 29 0)
    | some y =>
      let push := bits a.2 23 20 + bits y.2 23 20
      let miss := bit y.2 30 || bit y.2 28 || decide (8 < push)
      (bits a.1 31 16 * 2 ^ 16 + mapEnd y,
       2 ^ 31 + miss.toNat * 2 ^ 30 + bits y.2 29 29 * 2 ^ 29 + bits a.2 28 24 * 2 ^ 24 + min push 8 * 2 ^ 20
         + bits a.2 19 8 * 2 ^ 8 + min 255 (bits a.2 7 0 + bits y.2 7 0))

/-- A pair of registers written with a map. -/
def State.setMap (s : State) (d : Reg) (l : List (Nat × Nat)) : State :=
  (s.setV d (ofLanes (l.map (fun x => BitVec.ofNat 32 x.1)))).setV (d + 1) (ofLanes (l.map (fun x => BitVec.ofNat 32 x.2)))

/-- ACOMP (R201). -/
def execAcomp (d a b : Reg) (s : State) : Out :=
  issue (.acomp d a b) s fun s =>
    retire 16 (s.setMap d ((mappingLanes s.thr a).map (composeLane (mappingLanes s.thr b))))

/-- What ASEL writes (R202). -/
def selectLanes (m : List (Nat × Nat)) (start : Nat) : List (BitVec 32) :=
  let hit := fun (x : Nat × Nat) => mapV x && mapStart x = start
  match m.find? hit with
  | some x => [BitVec.ofNat 32 (m.findIdx hit), BitVec.ofNat 32 x.1, BitVec.ofNat 32 x.2] ++ List.replicate 13 0
  | none => [0xFFFFFFFF, 0, 0x40000000] ++ List.replicate 13 0

/-- ASEL (R202). -/
def execAsel (d a b : Reg) (s : State) : Out :=
  issue (.asel d a b) s fun s =>
    if bits (s.thr.sreg b).toNat 63 16 ≠ 0 then fault .operand 0 none s
    else retire 16 (s.setV d (ofLanes (selectLanes (mappingLanes s.thr a) (s.thr.sreg b).toNat)))

/-! ## Masks (R203, R204) -/

/-- The offset of a lane's mask row in the image (R187). -/
def maskOff (i : Image) (l : Lane) : Nat := i.mask + (if i.pda then l.state * i.t + l.top else l.state) * i.maskBytes

/-- Bytes of a row with the bits from V up made zero. -/
def clipRow (v : Nat) (l : List Byte) : List Byte :=
  l.mapIdx (fun k b => if 8 * k + 8 ≤ v then b else if v ≤ 8 * k then 0 else BitVec.ofNat 8 (b.toNat % 2 ^ (v - 8 * k)))

/-- Segments of the group's mask row at an offset of the image, through the mask cache. -/
def maskSegments (u : EngineUser) (x : LaneGroup) (off : Nat) : List Nat → List Byte → State → Except EngineStop (List Byte × State)
  | [], acc, s => .ok (acc, s)
  | k :: l, acc, s =>
    match s.imageLine u x true (off / 64 + k) with
    | .ok (b, s) => maskSegments u x off l (acc ++ b) s
    | .error e => .error e

/-- The mask row of the lane that sb names (R203): zeros for a rejected lane. -/
def maskThen (g : Fin 8) (b : Reg) (s : State) (body : LaneGroup → List Byte → State → Out) : Out :=
  groupThen g s fun _ x s =>
    let j := (s.thr.sreg b).toNat
    if 16 ≤ j ∨ x.img.mask = 0 then fault .operand 0 none s
    else
      let l := x.lanes.getD j Lane.zero
      if l.rej then body x (List.replicate x.img.maskBytes 0) s
      else match maskSegments (s.engineUser s.thr.id s.thr.node) x (maskOff x.img l) (List.range (ceilDiv x.img.v 512)) [] s with
        | .ok (r, s) => body x (clipRow x.img.v r) s
        | .error e => stopWord x.base e s

/-- The segments of a mask row from the i-th on written; what has been written stays (R203). -/
def maskWrites (u : EngineUser) (p : DWord) : List (List Byte) → Nat → State → (State → Out) → Out
  | [], _, s, body => body s
  | b :: l, i, s, body =>
    if i < s.thr.progress then maskWrites u p l (i + 1) s body
    else match s.engineWrite u (adv p (64 * i : Nat)) b false with
      | .done _ s => maskWrites u p l (i + 1) { s with thr := { s.thr with progress := i + 1 } } body
      | .hold f n => stallFor (if f then .port (adv p (64 * i : Nat)) else .fence) (n.getD s)
      | .fail c ea kind pa => stepEnds c ea kind pa s

/-- A mask row cut into its segments. -/
def segments (r : List Byte) : List (List Byte) := (List.range (r.length / 64)).map (fun i => (r.drop (64 * i)).take 64)

/-- AMASK (R203): the writes are performed before the slot's next issue. Each segment may miss the mask cache (R208, R209). -/
def execAmask (d : PReg) (b : Reg) (g : Fin 8) (s : State) : Out :=
  issue (.amask d b g) s fun s => maskThen g b s fun x r s =>
    let p := s.thr.preg d
    let u := s.engineUser s.thr.id s.thr.node
    let write := fun (s : State) => maskWrites u p (segments r) 0 s fun s =>
      if s.writesOut u.who then stallFor .fence s
      else retireWithin (8 + ceilDiv x.img.v 512) (908 + 1001 * ceilDiv x.img.v 512) s
    if 0 < s.thr.progress then write s
    else if ptrUsable s.thr.id p && !ptrAligned p 64 then fault .align misalign (some p) s
    else rangeThen .slot p r.length .engWrite true s write

/-- The forced token of a row (R204). -/
def forcedToken (r : List Byte) : DWord :=
  let n := ofBytes r
  if popcount (8 * r.length) n = 1 then BitVec.ofNat 64 (lowestBit (8 * r.length) n) else BitVec.allOnes 64

/-- AFORCE (R204). -/
def execAforce (d b : Reg) (g : Fin 8) (s : State) : Out :=
  issue (.aforce d b g) s fun s => maskThen g b s fun x r s =>
    retireWithin (8 + ceilDiv x.img.v 512) (8 + 1001 * ceilDiv x.img.v 512) (s.setS d (forcedToken r))

/-! ## Streams (R195 to R199) -/

/-- The bank of a ring or output area lies in scratch or FIFO mode, for the use of an engine (R124 step 7). -/
def areaThen (p : DWord) (s : State) (body : State → Out) : Out :=
  bankThen { home := if ptrSpace p = 1 then .sram (ptrCluster p) (ptrSramOff p) else .lm (ptrCore p) (ptrLmOff p), ea := p,
             n := 4, leaf := none } false s body

/-- The stream begins: the slot is held while the engine steps (R207). -/
def startStream (j : StreamJob) (s : State) : Out := waitFor (.stream j) { s with thr := { s.thr with nextIssue := s.clock + 8 } }

/-- A stream job of an instruction. -/
def State.newStream (s : State) (i : Instr) (G : Nat) (qin : QReg) (qout : Option QReg) (n : Nat)
    (run : Option (Reg × List RunLane)) : StreamJob :=
  { word := encode i, paced := s.clock, port := none, group := G, qin := qin, qout := qout, n := n, done := 0, run := run, outFill := 0, pendingOut := [], acquired := false,
    resumed := false }

/-- ASTEP (R197). -/
def execAstep (e : Bool) (o : Fin 16) (q : QReg) (n : Fin 256) (g : Fin 8) (s : State) : Out :=
  issue (.astep e o q n g) s fun s => groupThen g s fun G _ s => ringThen q 1 (fun c => c) 0 s fun d s =>
    areaThen (qBase d) s fun s =>
      if e then
        ringThen o 2 (fun c => c) 0 s fun d s => areaThen (qBase d) s fun s =>
          startStream (s.newStream (.astep e o q n g) G q (some o) n.val none) s
      else startStream (s.newStream (.astep e o q n g) G q none n.val none) s

/-- The start of a run lane (R199). DESIGN CHOICE (log 110): bits [30:16] of the start lane, which the manual says are zero, are not
looked at. -/
def runLane (i : Image) (l : Lane) (w : Nat) : RunLane :=
  let ran : Bool := !bit w 31 && decide (bits w 15 0 < i.n)
  { ran := ran, start := bits w 15 0, alive := ran, miss := false, touch := false, emits := 0, base := l.stack.length,
    low := l.stack.length, blind := 0 }

/-- ASTEPX (R199). -/
def execAstepx (d : Reg) (q : QReg) (n : Fin 256) (g : Fin 8) (s : State) : Out :=
  issue (.astepx d q n g) s fun s => groupThen g s fun G x s => ringThen q 1 (fun c => c) 0 s fun r s =>
    areaThen (qBase r) s fun s =>
      if x.xstr < 4 * n.val then fault .operand 0 none s
      else areaThen x.xout s fun s =>
        let runs := (x.lanes.zip (laneNats (s.thr.vreg d))).map (fun p => runLane x.img p.1 p.2)
        let ls := (x.lanes.zip runs).map (fun p => if p.2.ran then { p.1 with state := p.2.start, rej := false } else p.1)
        startStream (s.newStream (.astepx d q n g) G q none n.val (some (d, runs))) (s.putGroup G { x with lanes := ls })

/-- The bytes of a symbol of an image. -/
def symbolBytes (i : Image) : Nat := if i.token then 4 else 1

/-- The address of the stream instruction, and that of the word after it. -/
def streamPc (j : StreamJob) (t : Thread) : VAddr := if j.resumed then t.pc - 4 else t.pc
def streamNext (j : StreamJob) (t : Thread) : VAddr := if j.resumed then t.pc else t.following

/-- A stream that comes to no end of its step: it waits, remembering the address that a Vexey port does not admit, or ends the node with
the address of its word (R367). DESIGN CHOICE (log 134): a WINDOW fault in that wait has the address of the word as EPC, or, of a stream
that was saved and resumed, that of the next word; the symbols stepped stay stepped. -/
def streamStop (j : StreamJob) (ea : DWord) (e : EngineStop) (s : State) : Out :=
  match e with
  | .hold _ (some n) => .next n
  | .hold false none => notEnabled "STREAM_SYMBOL"
  | .hold true none =>
    (match s.thr.wait with
     | .stream k =>
       if k.port = some ea then notEnabled "STREAM_SYMBOL"
       else .next { s with thr := { s.thr with wait := .stream { k with port := some ea } } }
     | _ => notEnabled "STREAM_SYMBOL")
  | .fail c ea kind pa =>
    if c = .mcheck && s.faultUnitFull (clusterOf s.thr.id.core) then notEnabled "STREAM_SYMBOL"
    else .next (s.engineFails s.thr.id s.thr.node (streamPc j s.thr) c (if c = .autoTable then 0 else ea) kind pa)

/-- A release of the slot by the engine (R196, R197): covered lines are sent, and the engine waits for them. A line that a Vexey port
does not admit is what the slot then waits for (R138). -/
def streamRelease (j : StreamJob) (s : State) (body : State → Out) : Out :=
  let l := (s.sbOf s.thr.id.core).filter (covered s.thr .dv)
  if l.isEmpty then body { s with thr := { s.thr with readLines := [] } }
  else if l.all (·.sent) then
    match l.find? (·.waiting) with
    | some e => streamStop j e.va (.hold true none) s
    | none => notEnabled "STREAM_SYMBOL"
  else .next (s.sbSend s.thr.id.core (covered s.thr .dv))

/-- What an engine's access at an address gives to a stream. -/
def streamStep (j : StreamJob) (ea : DWord) (r : EngineStep) (body : List Byte → State → Out) (s : State) : Out :=
  match r with
  | .done l s => body l s
  | .hold f n => streamStop j ea (.hold f n) s
  | .fail c ea kind pa => streamStop j ea (.fail c ea kind pa) s

/-- The job of the stalled slot replaced. -/
def keepStream (j : StreamJob) (s : State) : Out := .next { s with thr := { s.thr with wait := .stream j } }

/-- The map pair of an ASTEPX (R200). -/
def runMap (ls : List Lane) (runs : List RunLane) : List (Nat × Nat) :=
  (ls.zip runs).map (fun p =>
    let r := p.2
    let pops := r.base - r.low
    let push := p.1.stack.length - r.low
    if !r.ran then (0, 0)
    else (r.start * 2 ^ 16 + p.1.state,
      2 ^ 31 + (r.miss || decide (8 < pops) || decide (8 < push)).toNat * 2 ^ 30 + p.1.rej.toNat * 2 ^ 29
        + r.touch.toNat * 2 ^ 28 + min pops 8 * 2 ^ 24 + min push 8 * 2 ^ 20 + min r.emits 255))

/-- The map written, where the instruction is an ASTEPX. -/
def State.writeRun (s : State) (j : StreamJob) (x : LaneGroup) : State :=
  match j.run with
  | some (d, runs) => s.setMap d (runMap x.lanes runs)
  | none => s

/-- The output slot padded and published as QPUSH publishes it (R197). -/
def publishThen (u : EngineUser) (j : StreamJob) (s : State) (body : StreamJob → State → Out) : Out :=
  match j.qout with
  | none => body j s
  | some o =>
    if j.outFill = 0 then body j s
    else
      let q := s.thr.qreg o
      let pad := List.replicate (64 - j.outFill) (0xFF : Byte)
      let at_ := adv (ringSlot q (qPos q)) (j.outFill : Nat)
      streamStep j at_ (s.engineWriteRange u at_ pad) (s := s) fun _ s =>
        streamRelease j s fun s =>
          streamStep j (qBase q) (s.engineCount u (qBase q) 0 (qPos q + 1) false) (s := s) fun _ s =>
            body { j with outFill := 0 } (s.setQ o (qWithPos q (qPos q + 1)))

/-- One pending word written to the output slot, which is published when it is full (R197). -/
def emitWord (u : EngineUser) (j : StreamJob) (w : BitVec 32) (rest : List (BitVec 32)) (s : State) : Out :=
  match j.qout with
  | none => keepStream { j with pendingOut := [] } s
  | some o =>
    let q := s.thr.qreg o
    let at_ := adv (ringSlot q (qPos q)) (j.outFill : Nat)
    streamStep j (qBase q) (s.engineRead u (adv (qBase q) 4) 4) (s := s) fun h s =>
      if j.outFill = 0 ∧ freeSlots q (ofBytes h) < 1 then notEnabled "STREAM_SYMBOL"
      else streamStep j at_ (s.engineWrite u at_ (toBytes 4 w.toNat) false) (s := s) fun _ s =>
        let j := { j with outFill := j.outFill + 4, pendingOut := rest, paced := s.clock + 1 }
        if j.outFill < 64 then keepStream j s else publishThen u j s keepStream

/-- The least and the greatest number of blind steps that cost time: run lanes that have merged step as one (R199, R209). -/
def blindSteps (j : StreamJob) : Nat × Nat :=
  match j.run with
  | some (_, runs) => ((runs.map (·.blind)).foldl max 0, (runs.map (·.blind)).foldl (· + ·) 0)
  | none => (0, 0)

/-- The stream completes (R197, R199): the slot may issue again 8 + n cycles after its issue, the waits for its rings added, or later
(R209). One that was resumed arrives now at the word after it (R111, R208). -/
def finishStream (u : EngineUser) (j : StreamJob) (x : LaneGroup) (s : State) : Out :=
  publishThen u j s fun j s =>
    let s := (s.writeRun j x).pulseSource s.thr.id 3
    let (lo, hi) := blindSteps j
    let least := j.paced + 8 + ceilDiv x.img.t 16 * s.cycles lo hi
    let due := max (max s.thr.nextIssue least) s.clock + s.used.cycles 0 900
    let s := s.used.used
    if j.resumed then .next { s with thr := { s.thr with wait := .none, nextIssue := due }.arrive s.thr.pc }
    else .next { s with thr := (s.thr.done due).arrive s.thr.following }

/-- The stream stops at a symbol (R198): the partial slot is published and the map written, then the trap is taken with the
address of the following word. One that posts a record waits for room in the fault unit (R309). -/
def stopStream (u : EngineUser) (j : StreamJob) (x : LaneGroup) (records : Bool) (s : State) (trap : VAddr → State → Out) : Out :=
  if records && s.faultUnitFull (clusterOf s.thr.id.core) then notEnabled "STREAM_SYMBOL"
  else publishThen u j s fun j s =>
    trap (streamNext j s.thr) { (s.writeRun j x) with
      thr := { (s.writeRun j x).thr with
        pc := streamPc j s.thr, wait := .none, status := s.thr.status.clearHints, pay := Payloads.zero } }

/-- AUTO_STACK of the slot is redirected to its supervisor, with a record (R39, R309). -/
def State.redirects (s : State) : Bool := (s.thr.utvec = 0 || s.thr.status.inui) && s.stvecOf s.thr != 0

/-- The symbol at the group's cursor has been stepped: the cursor moves, and a slot consumed whole is released (R196). -/
def consumed (u : EngineUser) (j : StreamJob) (x : LaneGroup) (s : State) : Out :=
  let cl := clusterOf s.thr.id.core
  let icur := x.icur + symbolBytes x.img
  let j := { j with done := j.done + 1, paced := s.clock + 1 }
  if icur < 64 then keepStream j (s.setGroup cl j.group { x with icur := icur })
  else
    let q := s.thr.qreg j.qin
    streamRelease j s fun s =>
      streamStep j (qBase q) (s.engineCount u (qBase q) 4 (qPos q + 1) false) (s := s) fun _ s =>
        keepStream { j with acquired := false }
          ((s.setGroup cl j.group { x with icur := 0 }).setQ j.qin (qWithPos q (qPos q + 1)))

/-- The tokens that the moves of an ASTEP emit, in lane order (R197). -/
def emissions (u : EngineUser) (x : LaneGroup) : List (Nat × Lane × LaneMove) → List (BitVec 32) → State →
    Except EngineStop (List (BitVec 32) × State)
  | [], acc, s => .ok (acc.reverse, s)
  | (j, l, .moved _ true) :: rest, acc, s =>
    (match tokenOf u x l.state s with
     | .ok (t, s) => emissions u x rest (BitVec.ofNat 32 (j * 2 ^ 24 + t) :: acc) s
     | .error e => .error e)
  | (_, _, .moved _ false) :: rest, acc, s => emissions u x rest acc s
  | (_, _, .overflow) :: rest, acc, s => emissions u x rest acc s
  | (_, _, .malformed) :: rest, acc, s => emissions u x rest acc s

/-- One symbol of an ASTEP (R197, R198). Where one lane would overflow and another emits from a malformed word, the overflow is met.
DESIGN CHOICE (log 133). -/
def astepSymbol (u : EngineUser) (j : StreamJob) (x : LaneGroup) (sym : Nat) (s : State) : Out :=
  match laneMoves u x (x.lanes.map (fun l => (l, some sym))) [] s with
  | .error e => streamStop j x.base e s
  | .ok (ms, s) =>
    match overflowing ms with
    | some k => stopStream u j x s.redirects s (fun e s => stackTrap 0 (stackCause j.done sym j.group k) e s)
    | none =>
      let x' := { x with lanes := movedLanes x.lanes ms }
      match j.qout with
      | none => consumed u j x' s
      | some _ =>
        match emissions u x ((List.range 16).zip (x.lanes.zip ms)) [] s with
        | .ok (out, s) => consumed u { j with pendingOut := out } x' s
        | .error e => streamStop j x.base e s

/-- The entries of every top from t down agree with the one taken (R200). -/
def sameForAllTops (u : EngineUser) (x : LaneGroup) (state c e : Nat) : Nat → State → Except EngineStop (Bool × State)
  | 0, s => .ok (true, s)
  | t + 1, s =>
    match entryOf u x state c t s with
    | .ok (e', s) => if e' = e then sameForAllTops u x state c e t s else .ok (false, s)
    | .error k => .error k

/-- A run lane that steps by an entry (R199, R200): its token is written to XOUT. DEDUCED (log 135): a pop-push at the lowest depth takes
one more symbol from below, so it reaches a depth one lower. -/
def runEntry (u : EngineUser) (x : LaneGroup) (j : Nat) (l : Lane) (r : RunLane) (touch : Bool) (e : Nat) (s : State) :
    Except EngineStop (Lane × RunLane × State) :=
  match stepLane x.img l e with
  | .malformed => .error .table
  | .overflow => .ok (l, { r with alive := false, miss := true, touch := r.touch || touch }, s)
  | .moved l' emit =>
    let pops : Bool := !l'.rej && 2 ≤ entAct e
    let r := { r with touch := r.touch || touch, low := if pops then min r.low (l.stack.length - 1) else r.low }
    if !emit then .ok (l', r, s)
    else match tokenOf u x l.state s with
      | .error e => .error e
      | .ok (t, s) =>
        match s.engineWrite u (adv x.xout (j * x.xstr + 4 * r.emits : Nat)) (toBytes 4 t) false with
        | .done _ s => .ok (l', { r with emits := r.emits + 1 }, s)
        | .hold f n => .error (.hold f n)
        | .fail c ea kind pa => .error (.fail c ea kind pa)

/-- One run lane on a symbol (R199). -/
def runStep (u : EngineUser) (x : LaneGroup) (j : Nat) (l : Lane) (r : RunLane) (sym : Nat) (s : State) :
    Except EngineStop (Lane × RunLane × State) :=
  if !r.alive || l.rej then .ok (l, r, s)
  else match classOf u x sym s with
    | .error e => .error e
    | .ok (c, s) =>
      match entryOf u x l.state c l.top s with
      | .error e => .error e
      | .ok (e, s) =>
        if x.img.pda && decide (l.stack.length ≤ r.base) then
          match sameForAllTops u x l.state c e x.img.t s with
          | .ok (same, s) => runEntry u x j l { r with blind := r.blind + 1 } (!same) e s
          | .error k => .error k
        else runEntry u x j l r false e s

/-- The run lanes on a symbol, lane 0 first. -/
def runLanes (u : EngineUser) (x : LaneGroup) (sym : Nat) : List (Nat × Lane × RunLane) → List (Lane × RunLane) → State →
    Except EngineStop (List (Lane × RunLane) × State)
  | [], acc, s => .ok (acc.reverse, s)
  | (j, l, r) :: rest, acc, s =>
    match runStep u x j l r sym s with
    | .ok (l, r, s) => runLanes u x sym rest ((l, r) :: acc) s
    | .error e => .error e

/-- One symbol of an ASTEPX (R199). -/
def astepxSymbol (u : EngineUser) (j : StreamJob) (d : Reg) (runs : List RunLane) (x : LaneGroup) (sym : Nat) (s : State) : Out :=
  match runLanes u x sym ((List.range 16).zip (x.lanes.zip runs)) [] s with
  | .ok (l, s) => consumed u { j with run := some (d, l.map (·.2)) } { x with lanes := l.map (·.1) } s
  | .error e => streamStop j x.base e s

/-- The next symbol of a stream (R196): the slot it lies in must be covered by TAIL, and its first read acquires. -/
def nextSymbol (u : EngineUser) (j : StreamJob) (x : LaneGroup) (s : State) : Out :=
  let q := s.thr.qreg j.qin
  streamStep j (qBase q) (s.engineRead u (qBase q) 4) (s := s) fun t s =>
    if filledSlots q (ofBytes t) < 1 then notEnabled "STREAM_SYMBOL"
    else
      let s := if j.acquired then s else s.acquire s.thr.id.core .dv
      let j := { j with acquired := true }
      let at_ := adv (ringSlot q (qPos q)) (x.icur : Nat)
      streamStep j at_ (s.engineRead u at_ (symbolBytes x.img)) (s := s) fun l s =>
        let w := ofBytes l
        if x.img.token && decide (2 ^ 18 ≤ w ∨ x.img.v ≤ w) then
          stopStream u j x false s (fun e s =>
            trapTo .operand 0 (some (BitVec.ofNat 64 (w * 2 ^ 32 + j.done))) (e.setWidth 64)
              { s with thr := { s.thr with retried := false } })
        else match j.run with
          | none => astepSymbol u j x w s
          | some (d, runs) => astepxSymbol u j d runs x w s

/-- STREAM_SYMBOL (R196): one step of the engine for a slot held in ASTEP or ASTEPX: a pending word is emitted, or the next
symbol is stepped, or the instruction completes. Once the node ends, it stops (R219). -/
def execStreamSymbol (slot : SlotId) (s : State) : Out :=
  onSlot "STREAM_SYMBOL" slot s fun s =>
    if (s.node? s.thr.node).any s.shut then notEnabled "STREAM_SYMBOL"
    else match s.thr.wait with
    | .stream j =>
      let j := { j with port := none }
      let u := s.engineUser s.thr.id s.thr.node
      let x := s.group (clusterOf s.thr.id.core) j.group
      (match j.pendingOut with
       | w :: rest => emitWord u j w rest s
       | [] => 
         if j.done = j.n then finishStream u j x s
         else if s.clock < j.paced then notEnabled "STREAM_SYMBOL"
         else nextSymbol u j x s)
    | _ => notEnabled "STREAM_SYMBOL"

end Sys2Proof.Machine
end

