-- ==== Sys2Proof/Machine/Sha.lean ====
section
/-!
DEFINITION. SHA-384 (named by spec/22_trust.md R357, R358). The manual names the hash and does not define it: the algorithm is
that of the published Secure Hash Standard. PRESUMED (log 22).
-/
namespace Sys2Proof.Machine

/-- The largest x below 2^n with x^k ≤ v, from the value found so far. -/
def rootBits (k v : Nat) : Nat → Nat → Nat
  | 0, x => x
  | n + 1, x => rootBits k v n (if (x + 2 ^ n) ^ k ≤ v then x + 2 ^ n else x)

/-- The primes below 410: the first 80. -/
def shaPrimes : List Nat :=
  ((List.range 410).drop 2).filter (fun p => ((List.range 21).drop 2).all (fun d => p = d || p % d != 0))

/-- The first 64 bits of the fractional parts of the cube roots of the primes. -/
def shaRound : List Nat := shaPrimes.map (fun p => rootBits 3 (p * 2 ^ 192) 70 0 % 2 ^ 64)

/-- The first 64 bits of the fractional parts of the square roots of the ninth to the sixteenth prime. -/
def shaStart : List Nat := ((shaPrimes.drop 8).take 8).map (fun p => rootBits 2 (p * 2 ^ 128) 70 0 % 2 ^ 64)

/-- A word rotated right. -/
def rotr (x n : Nat) : Nat := x / 2 ^ n + x % 2 ^ n * 2 ^ (64 - n)

/-- The functions of the message schedule and of a round. -/
def shaS0 (x : Nat) : Nat := Nat.xor (Nat.xor (rotr x 28) (rotr x 34)) (rotr x 39)
def shaS1 (x : Nat) : Nat := Nat.xor (Nat.xor (rotr x 14) (rotr x 18)) (rotr x 41)
def shaM0 (x : Nat) : Nat := Nat.xor (Nat.xor (rotr x 1) (rotr x 8)) (x / 2 ^ 7)
def shaM1 (x : Nat) : Nat := Nat.xor (Nat.xor (rotr x 19) (rotr x 61)) (x / 2 ^ 6)
def shaCh (x y z : Nat) : Nat := Nat.xor (Nat.land x y) (Nat.land (2 ^ 64 - 1 - x) z)
def shaMaj (x y z : Nat) : Nat := Nat.xor (Nat.xor (Nat.land x y) (Nat.land x z)) (Nat.land y z)

/-- The message schedule, latest word first, n words longer. -/
def shaSchedule : Nat → List Nat → List Nat
  | 0, w => w
  | n + 1, w =>
    shaSchedule n ((shaM1 (w.getD 1 0) + w.getD 6 0 + shaM0 (w.getD 14 0) + w.getD 15 0) % 2 ^ 64 :: w)

/-- The eight working words. -/
structure ShaWords where
  a : Nat
  b : Nat
  c : Nat
  d : Nat
  e : Nat
  f : Nat
  g : Nat
  h : Nat
  deriving DecidableEq, Repr

/-- One round. -/
def shaStep (v : ShaWords) (kw : Nat × Nat) : ShaWords :=
  let t1 := v.h + shaS1 v.e + shaCh v.e v.f v.g + kw.1 + kw.2
  let t2 := shaS0 v.a + shaMaj v.a v.b v.c
  { a := (t1 + t2) % 2 ^ 64, b := v.a, c := v.b, d := v.c, e := (v.d + t1) % 2 ^ 64, f := v.e, g := v.f, h := v.g }

/-- A big-endian number of a list of bytes, and back. -/
def ofBytesBig (l : List Byte) : Nat := l.foldl (fun n b => 256 * n + b.toNat) 0
def toBytesBig (n v : Nat) : List Byte := (toBytes n v).reverse

/-- One block of 128 bytes compressed. -/
def shaBlock (h : ShaWords) (block : List Byte) : ShaWords :=
  let w := ((List.range 16).map (fun i => ofBytesBig ((block.drop (8 * i)).take 8))).reverse
  let r := (shaRound.zip (shaSchedule 64 w).reverse).foldl shaStep h
  { a := (h.a + r.a) % 2 ^ 64, b := (h.b + r.b) % 2 ^ 64, c := (h.c + r.c) % 2 ^ 64, d := (h.d + r.d) % 2 ^ 64,
    e := (h.e + r.e) % 2 ^ 64, f := (h.f + r.f) % 2 ^ 64, g := (h.g + r.g) % 2 ^ 64, h := (h.h + r.h) % 2 ^ 64 }

/-- The blocks of a padded message. -/
def shaBlocks : Nat → List Byte → ShaWords → ShaWords
  | 0, _, h => h
  | n + 1, l, h => shaBlocks n (l.drop 128) (shaBlock h (l.take 128))

/-- SHA-384 of bytes: 48 bytes. -/
def sha384 (m : List Byte) : List Byte :=
  let zeros := (239 - m.length % 128) % 128
  let padded := m ++ [0x80] ++ List.replicate zeros 0 ++ toBytesBig 16 (8 * m.length)
  let s := fun i => shaStart.getD i 0
  let r := shaBlocks (padded.length / 128) padded
    { a := s 0, b := s 1, c := s 2, d := s 3, e := s 4, f := s 5, g := s 6, h := s 7 }
  [r.a, r.b, r.c, r.d, r.e, r.f].flatMap (toBytesBig 8)

end Sys2Proof.Machine
end

