-- ==== Sys2Proof/Machine/Engine.lean ====
section
/-!
DEFINITION. Engine commands: CPY, CPYX and SEAL with their queues, chunks and completions (spec/10_system_instr.md R223 to R227,
spec/20_engines_memory.md R324 to R328, spec/22_trust.md R354 to R360), the event crossbar (R228, R229, R332) and guards
(R230, spec/14_scheduler.md R272).
-/
namespace Sys2Proof.Machine

/-! ## Issue (R223, R224, R272) -/

/-- The control word of a command. -/
structure ControlWord where
  routine : Nat
  tag : Nat
  arm : Bool
  term : Nat
  cnt : Bool
  ctr : Nat
  len : Nat
  deriving DecidableEq, Repr

/-- The fields of a control word (R223). -/
def controlWord (w : DWord) : ControlWord :=
  { routine := bits w.toNat 63 48, tag := bits w.toNat 47 43, arm := bit w.toNat 42, term := bits w.toNat 41 38,
    cnt := bit w.toNat 37, ctr := bits w.toNat 36 32, len := bits w.toNat 31 0 }

/-- OMUL and OADD of a routine of a cluster; routine 0xF001 is always present (R325, R328). -/
def State.routineSize (s : State) (cl n : Nat) : Option (Nat × Nat) :=
  if n = 0xF001 then some (0, 65536)
  else (s.routines.find? (fun r => r.cl = cl && r.num = n)).map (fun r => (r.omul, r.oadd))

/-- The output bound B (R325). -/
def outputBound (size : Nat × Nat) (len : Nat) : Nat := roundUp (len * size.1 / 16 + size.2) 64

/-- The routine of a command is loaded; only CPYX names one (R224, R325). -/
def State.routineOk (s : State) (k : CmdKind) (cl n : Nat) : Bool :=
  if k = .cpyx then (s.routineSize cl n).isSome else n = 0

/-- Bytes that a command may write at its destination. -/
def State.destLen (s : State) (k : CmdKind) (cl routine len : Nat) : Nat :=
  match k with
  | .cpy => len
  | .cpyx => outputBound ((s.routineSize cl routine).getD (0, 0)) len
  | .seal_ => 320

/-- An element of the crossbar is claimed by another node than the executing slot's. -/
def State.claimedByOther (s : State) (o : Option Nat) : Bool := o.isSome && o ≠ some s.thr.node

/-- The range of a command's end: the whole ring of a FIFO-mode bank, or as many bytes as named. -/
def endLen (fifo : Option Nat) (n : Nat) : Nat :=
  match fifo with
  | some c => 64 + 64 * 2 ^ c
  | none => n

/-- The ranges of a command checked (R224). -/
def commandRanges (k : CmdKind) (src dst : DWord) (n m : Nat) (clr : Bool) (s : State) (body : State → Out) : Out :=
  let w := if clr then Asker.cleared else .command
  match k with
  | .seal_ =>
    rangeThen .command src n .engRead false s fun s => rangeThen .command dst 64 .engRead false s fun s =>
      rangeThen .command (adv dst 64) 256 .engWrite false s body
  | _ => rangeThen .command src n .engRead false s fun s => rangeThen w dst m .engWrite false s body

/-- Bytes of the commit buffer that a condition selects. -/
def State.reservedBytes (s : State) (p : Reservation → Bool) : Nat :=
  ((s.reservations.filter p).map (·.bytes)).foldl (· + ·) 0

/-- Bytes of the commit buffer that commands forwarded before their CRC check hold in a cluster (R314). -/
def State.earlyBytes (s : State) (cl : Nat) : Nat :=
  ((s.cmds.filter (fun c => c.early && c.cl = cl)).map (fun c => roundUp c.bound 64)).foldl (· + ·) 0

/-- The executing slot's reservation for a command that waits to be queued. -/
def State.pendingFor (s : State) (r : Reservation) : Bool := r.pending && r.slot = s.thr.id && r.node = s.thr.node

/-- What faults a guarded command before it waits for anything (R272). -/
def guardOk (guard : Option Nat) (dst : DWord) (len : Nat) (s : State) (body : State → Out) : Out :=
  match guard with
  | none => body s
  | some _ =>
    if ptrSpace dst = 2 then fault .operand 0 (some dst) s
    else if Config.commitBytes < roundUp len 64
        + s.reservedBytes (fun r => r.slot = s.thr.id && r.node = s.thr.node && !s.pendingFor r) then fault .operand 0 none s
    else body s

/-- The reservation of a guarded command (R272): made once, however long the command then waits for its queue. -/
def guardThen (guard : Option Nat) (len : Nat) (s : State) (body : State → Out) : Out :=
  match guard with
  | none => body s
  | some g =>
    let cl := clusterOf s.thr.id.core
    let new : Reservation :=
      { cl := cl, slot := s.thr.id, node := s.thr.node, guard := g, bytes := roundUp len 64, pending := true }
    if s.reservations.contains new then body s
    else
      let others := s.reservations.filter (fun r => !s.pendingFor r)
      if Config.commitBytes < new.bytes + s.earlyBytes cl + ((others.filter (fun r => r.cl = cl)).map (·.bytes)).foldl (· + ·) 0 then
        stallFor .commitBuffer s
      else body { s with
        reservations := others ++ [new]
        thr := { s.thr with status := { s.thr.status with gout := s.thr.status.gout ||| BitVec.ofNat 4 (2 ^ g) } } }

/-- Commands in a copy engine's queue. -/
def State.queueLen (s : State) (cl e : Nat) : Nat :=
  s.cmds.countP (fun c => c.cl = cl && c.engine = e && c.kind ≠ .seal_ && (match c.st with
    | .held _ => false
    | _ => true))

/-- The copy engine with the shortest queue, the lower-numbered one on a tie (R224). -/
def State.shortest (s : State) (cl : Nat) : Nat :=
  [1, 2, 3].foldl (fun best e => if s.queueLen cl e < s.queueLen cl best then e else best) 0

/-- The queue that takes the command is full. -/
def State.queueFull (s : State) (k : CmdKind) (cl : Nat) : Bool :=
  match k with
  | .seal_ => decide (Config.sealQueue ≤ s.cmds.countP (fun c => c.kind = .seal_))
  | _ => decide (Config.copyQueue ≤ s.queueLen cl (s.shortest cl))

/-- `.nfy` commands of the executing slot that are outstanding, with the notifies not yet taken (R39, R226). -/
def State.notifiesDue (s : State) : Nat :=
  s.cmds.countP (fun c => c.slot = s.thr.id && c.node = s.thr.node && c.nfy) + s.thr.notifies.length

/-- A copy or transform whose source a slice may forward before its CRC check (R314): its whole output fits a reservation of 16 KiB
that the cluster commit buffer has room for, its ends are no rings, and its ranges do not overlap. Whether it is granted one is a free
value (log 105). -/
def State.forwards (s : State) (k : CmdKind) (src dst : DWord) (len out cl : Nat) : Bool :=
  k ≠ .seal_ && decide (out ≤ 16384) && (s.fifoAt src).isNone && (s.fifoAt dst).isNone && ptrSpace src = 2
    && decide (roundUp out 64 + s.earlyBytes cl + s.reservedBytes (fun r => r.cl = cl) ≤ Config.commitBytes)
    && !(ptrSpace dst = 2 && overlaps (ptrByte src) len (ptrByte dst) out) && Config.forwards s.fresh

/-- A command of a copy engine. -/
def Cmd.ofEngine (cl e : Nat) (c : Cmd) : Bool := c.cl = cl && c.engine = e && c.kind ≠ .seal_

/-- A command queued; one of LENGTH 0 that is not armed completes at once (R223). -/
def State.enqueue (s : State) (k : CmdKind) (src dst : DWord) (w : ControlWord) (guard : Option Nat) (l n q : Bool) : State :=
  let cl := clusterOf s.thr.id.core
  let c : Cmd :=
    { id := s.nextCmd, kind := k, slot := s.thr.id, node := s.thr.node, cl := cl, engine := s.shortest cl, src := src,
      dst := dst, len := w.len, routine := w.routine, tag := w.tag, arm := w.arm, term := w.term, cnt := w.cnt,
      ctr := w.ctr, clr := l, nfy := n, acq := q, scope := s.thr.status.scope, hnt := s.thr.status.pending 7,
      guard := guard, st := if w.len = 0 ∧ w.arm = false then .finishing 0 else .queued, pos := 0, buf := [], sent := 0,
      since := none, readBy := if s.cmds.any (Cmd.ofEngine cl (s.shortest cl)) then none else some (s.clock + 360), drained := 0, pc := s.thr.pc, fifoSrc := k ≠ .seal_ && (s.fifoAt src).isSome,
      fifoDst := k ≠ .seal_ && (s.fifoAt dst).isSome, retried := false, termMet := false,
      bound := s.destLen k cl w.routine w.len,
      early := guard.isNone && s.forwards k src dst w.len (s.destLen k cl w.routine w.len) cl, output := [], fate := none }
  { s.used with
    cmds := s.cmds ++ [c], nextCmd := s.nextCmd + 1
    reservations := s.reservations.map (fun r => if s.pendingFor r then { r with pending := false } else r) }

/-- A command at issue (R224): its checks, its waits, its release (R225), and its place in a queue. DESIGN CHOICE (log 113): a counter
or a term that CNT or ARM does not select is not named by the command, so its claim is not asked for. DESIGN CHOICE (log 136): the
control word is looked at first, then the source range, then the destination. -/
def command (k : CmdKind) (d a : PReg) (b : Reg) (l n r q : Bool) (s : State) : Out :=
  let w := controlWord (s.thr.sreg b)
  let src := s.thr.preg a
  let dst := s.thr.preg d
  let cl := clusterOf s.thr.id.core
  let fs := if k = .seal_ then none else s.fifoAt src
  let fd := if k = .seal_ then none else s.fifoAt dst
  let guard := if s.thr.status.pending 6 then some s.thr.status.hguard.toNat else none
  let out := s.destLen k cl w.routine w.len
  if !s.routineOk k cl w.routine || (w.cnt && s.claimedByOther (s.counter cl w.ctr).node)
      || (w.arm && s.claimedByOther (s.term cl w.term).node) || ((fs.isSome || fd.isSome) && w.len % 64 ≠ 0) then
    fault .operand 0 none s
  else
    commandRanges k src dst (endLen fs w.len) (endLen fd out) l s fun s =>
      guardOk guard dst out s fun s => releaseIf r s.thr.status.scope s fun s => guardThen guard out s fun s =>
        if n && decide (8 ≤ s.notifiesDue) then stallFor .notify s
        else if s.queueFull k cl then stallFor .queue s
        else retire 8 (s.enqueue k src dst w guard l n q)

/-- CPY (R223 to R226). -/
def execCpy (d a : PReg) (b : Reg) (l n r q : Bool) (s : State) : Out :=
  issue (.cpy d a b l n r q) s fun s => command .cpy d a b l n r q s
/-- CPYX (R326). -/
def execCpyx (d a : PReg) (b : Reg) (l n r q : Bool) (s : State) : Out :=
  issue (.cpyx d a b l n r q) s fun s => command .cpyx d a b l n r q s
/-- SEAL (R358). -/
def execSealOut (d a : PReg) (b : Reg) (n r q : Bool) (s : State) : Out :=
  issue (.sealOut d a b n r q) s fun s => command .seal_ d a b false n r q s

/-! ## Chunks (R225, R324) -/

/-- A command put back. -/
def State.putCmd (s : State) (c : Cmd) : State := { s with cmds := s.cmds.map (fun x => if x.id = c.id then c else x) }

/-- On whose behalf a command accesses memory. -/
def State.cmdUser (s : State) (c : Cmd) : EngineUser := { s.engineUser c.slot c.node with who := .cmd c.id }

/-- What an attempt at the next chunk gives. -/
inductive CmdStep where
  | go (c : Cmd) (s : State)
  | hold
  /-- The chunk waits for a Vexey port. -/
  | fabric (c : Cmd) (s : State)
  /-- What the step needs has just been asked for. -/
  | asked (s : State)
  | fail (x : Cause)

/-- A step of a command that cannot go on: for want of a port, or of something else, or with its request just made. -/
def CmdStep.waits (c : Cmd) (s : State) (fabric : Bool) (next : Option State) : CmdStep :=
  match next with
  | some t => .asked t
  | none => if fabric then .fabric c s else .hold

/-- What an access of an engine that does not go on makes of its command's step. -/
def EngineStep.ofCmd (c : Cmd) (s : State) : EngineStep → CmdStep
  | .done _ t => .go c t
  | .hold f t => .waits c s f t
  | .fail x _ _ _ => .fail x

/-- Bytes of the chunk in progress. -/
def Cmd.chunkLen (c : Cmd) : Nat := min 64 (c.len - c.pos)

/-- The control block of a FIFO-mode ring, its CAP, and the counts held back for it in the commit buffer. -/
def fifoHome (p : DWord) : Home := .sram (ptrCluster p) (ptrSramOff p)
def State.fifoCap (s : State) (p : DWord) : Nat := 2 ^ ((s.fifoAt p).getD 0)
def State.heldCounts (s : State) (h : Home) : Nat := s.heldWrites.countP (fun w => w.home = h)

/-- TAIL and HEAD of a FIFO-mode ring as the commands that drive it count them. -/
def State.fifoTail (s : State) (p : DWord) : Nat := s.readHome (fifoHome p) 4 + s.heldCounts (fifoHome p)
def State.fifoHead (s : State) (p : DWord) : Nat :=
  s.readHome ((fifoHome p).plus 4) 4 + s.heldCounts ((fifoHome p).plus 4)

/-- A count of a FIFO-mode ring written by a command, held under a guard once the firewall and the bank take it. -/
def State.cmdCount (s : State) (c : Cmd) (base : DWord) (off v : Nat) : CmdStep :=
  match c.guard with
  | some g =>
    let h := (fifoHome base).plus off
    if !s.admits (s.cmdUser c).world h none false true c.clr then .fail .world
    else match s.homeCheck none h 4 false false with
      | .wait => .hold
      | .refuse x => .fail x
      | .ok => .go c { s with heldWrites := s.heldWrites ++
          [{ slot := c.slot, node := c.node, guard := g, cmd := c.id, home := h, ea := base, ring := true, n := 4, data := v % 2 ^ 32 }] }
  | none =>
    match s.engineCount (s.cmdUser c) base off v c.clr with
    | .done _ s => .go c s
    | .hold f t => .waits c s f t
    | .fail x _ _ _ => .fail x

/-- The home of an access lies on another package. -/
def peerHome : Except (Cause × DWord) LaneReq → Bool
  | .error _ => false
  | .ok r => match r.home with
    | .peer _ _ => true
    | _ => false

/-- The pieces of a chunk not yet read, read in order. A piece on another package waits for its data (R335). -/
def readPieces (u : EngineUser) (p : DWord) : List (Nat × Nat) → Cmd → State → CmdStep
  | [], c, s => .go c s
  | (o, n) :: l, c, s =>
    if o < c.buf.length then readPieces u p l c s
    else
      let lane := s.engineLane u (adv p (o : Nat)) n .engRead
      match lane.1 with
      | .error x => .fail x.1
      | .ok r =>
        if !s.admits u.world r.home r.leaf true false false then .fail .world
        else if !s.onRoster u.world r.home then .fail .roster
        else if peerHome lane.1 then .fabric c s
        else match s.engineRead u (adv p (o : Nat)) n with
          | .done b s => readPieces u p l { c with buf := c.buf ++ b } s
          | .hold f t => .waits c s f t
          | .fail x _ _ _ => .fail x

/-- The pointer of the chunk in progress at the source; none while a FIFO-mode ring is empty (R324). -/
def State.sourcePtr (s : State) (c : Cmd) : Option DWord :=
  if c.fifoSrc then
    if ringGap (s.readHome (fifoHome c.src) 4) (s.fifoHead c.src) ≠ 0 then
      some (adv c.src (64 + 64 * (s.fifoHead c.src % s.fifoCap c.src) : Nat))
    else none
  else some (adv c.src (c.pos : Nat))

/-- The chunk in progress read whole. -/
def State.readChunk (s : State) (u : EngineUser) (c : Cmd) : CmdStep :=
  if c.buf.length = c.chunkLen then .go c s
  else match s.sourcePtr c with
    | none => .hold
    | some p =>
      match readPieces u p (linePieces p c.chunkLen) c s with
      | .go c s => if c.fifoSrc then s.cmdCount c c.src 4 (s.fifoHead c.src + 1) else .go c s
      | r => r

/-- The pieces of bytes not yet written, written in order; under a guard they are held in the commit buffer (R272). -/
def writePieces (u : EngineUser) (p : DWord) (bytes : List Byte) : List (Nat × Nat) → Cmd → State → CmdStep
  | [], c, s => .go c s
  | (o, n) :: l, c, s =>
    let b := (bytes.drop o).take n
    let ea := adv p (o : Nat)
    if o < c.sent then writePieces u p bytes l c s
    else match c.guard with
      | some g =>
        (match s.engineTarget u ea n c.clr with
         | .error e => e.ofCmd c s
         | .ok (r, s) =>
           writePieces u p bytes l { c with sent := o + n } { s with heldWrites := s.heldWrites ++
             [{ slot := c.slot, node := c.node, guard := g, cmd := c.id, home := r.home, ea := ea, ring := false, n := n,
                data := ofBytes b }] })
      | none =>
        match s.engineWrite u ea b c.clr with
        | .done _ s => writePieces u p bytes l { c with sent := o + n } s
        | e => e.ofCmd c s

/-- The pointer of chunk i at the destination; none while a FIFO-mode ring is full (R324). -/
def State.destPtr (s : State) (c : Cmd) (i : Nat) : Option DWord :=
  if c.fifoDst then
    if ringRoom (s.fifoCap c.dst) (s.fifoTail c.dst) (s.readHome ((fifoHome c.dst).plus 4) 4) ≠ 0 then
      some (adv c.dst (64 + 64 * (s.fifoTail c.dst % s.fifoCap c.dst) : Nat))
    else none
  else some (adv c.dst (64 * i : Nat))

/-- Chunk i written whole at the destination: it is one access, of which no byte is written where a byte is refused (R15, R226). -/
def State.writeChunk (s : State) (u : EngineUser) (c : Cmd) (i : Nat) (bytes : List Byte) : CmdStep :=
  match s.destPtr c i with
  | none => .hold
  | some p =>
    let pieces := linePieces p bytes.length
    match s.engineWritable u p c.clr (pieces.filter (fun x => decide (c.sent ≤ x.1))) with
    | .done _ _ =>
      (match writePieces u p bytes pieces c s with
       | .go c s => if c.fifoDst then s.cmdCount c c.dst 0 (s.fifoTail c.dst + 1) else .go c s
       | r => r)
    | e => e.ofCmd c s

/-- Every byte of the destination lies on the roster (R355); a seal writes its record 64 bytes on (R358). -/
def State.rosterOk (s : State) (u : EngineUser) (c : Cmd) : Bool :=
  let d := if c.kind = .seal_ then adv c.dst 64 else c.dst
  !s.protectedWorld u.world || ptrSpace d ≠ 2 ||
    (rangePieces d (if c.kind = .seal_ then 256 else c.bound)).all (fun x =>
      match (s.engineLane u (adv d (x.1 : Nat)) x.2 .engWrite).1 with
      | .ok r => s.onRoster u.world r.home
      | .error _ => true)

/-- A chunk of a command's output put into its early reservation (R314). -/
def Cmd.keep (c : Cmd) (l : List Byte) : Cmd := { c with output := c.output ++ l, since := none }

/-- The next chunk of an early reservation written to its home once every read has passed; then the command completes with its code
(R314). -/
def State.commitChunk (s : State) (u : EngineUser) (c : Cmd) (code : Nat) : CmdStep :=
  if c.output.length ≤ 64 * c.drained then .go { c with st := .finishing code } s
  else match s.writeChunk u c c.drained ((c.output.drop (64 * c.drained)).take 64) with
    | .go c s =>
      .go { c with drained := c.drained + 1, sent := 0, since := none,
                   st := if c.output.length ≤ 64 * (c.drained + 1) then .finishing code else c.st } s
    | r => r

/-- The next chunk of a copy. -/
def State.cpyChunk (s : State) (u : EngineUser) (c : Cmd) : CmdStep :=
  match s.readChunk u c with
  | .go c s =>
    if c.early then
      let pos := c.pos + c.chunkLen
      .go { c.keep c.buf with pos := pos, buf := [], fate := if c.len ≤ pos then some 0 else none } s
    else (match s.writeChunk u c (c.pos / 64) c.buf with
     | .go c s =>
       let pos := c.pos + c.chunkLen
       .go { c with pos := pos, buf := [], sent := 0, since := none, st := if c.len ≤ pos then .finishing 0 else c.st } s
     | r => r)
  | r => r

/-! ## Transform slots (R326, R327) -/

/-- The transform unit of a command, and its slot. -/
def Cmd.unit (c : Cmd) : Nat := 4 * c.cl + c.engine
def Cmd.transform (c : Cmd) : SlotId := ⟨8192 + c.unit, 0⟩

/-- A ring descriptor over the transform LM: CAP 16. -/
def transformRing (base role : Nat) : QWord := BitVec.ofNat 128 (base * 2 ^ 64 + 2 ^ 63 + role * 2 ^ 61 + 4 * 2 ^ 56)

/-- The slot at the start of a routine (R326). -/
def State.startRoutine (s : State) (u : EngineUser) (c : Cmd) : State :=
  let words := toBytes 8 c.len ++ toBytes 8 c.bound ++ toBytes 8 c.src.toNat ++ toBytes 8 c.dst.toNat
  let s := (s.zeroHome (.xlm c.unit 0) 0x800).poke (.xlm c.unit 0x40) words
  let s := (s.zeroHome (.xlm c.unit 0x5000) 8).zeroHome (.xlm c.unit 0x5800) 8
  let q := ((Workspace.zero.q.set 0 (transformRing 0x5000 1)).set 1 (transformRing 0x5800 2))
  s.addThread { Thread.vacant c.transform with
    run := .running, node := c.node, asid := u.asid, world := u.world, ws := { Workspace.zero with q := q }, nextIssue := s.clock }

/-- A command that completes with a code, its transform slot freed. -/
def State.endCmd (s : State) (c : Cmd) (code : Nat) : State :=
  let s := s.putCmd { c with st := .finishing code }
  if c.kind = .cpyx ∧ (s.thread? c.transform).isSome then s.dropThread c.transform else s

/-- One chunk fed into the input ring, its last slot padded with zeros. -/
def State.feed (s : State) (u : EngineUser) (c : Cmd) : CmdStep :=
  let tail := s.readHome (.xlm c.unit 0x5000) 4
  if ringGap tail (s.readHome (.xlm c.unit 0x5004) 4) < 16 then
    match s.readChunk u c with
    | .go c s =>
      let s := s.poke (.xlm c.unit (0x5040 + 64 * (tail % 16))) ((c.buf ++ List.replicate 64 0).take 64)
      .go { c with pos := c.pos + c.chunkLen, buf := [], since := none } (s.poke (.xlm c.unit 0x5000) (toBytes 4 (tail + 1)))
    | r => r
  else .hold

/-- One published slot drained to the destination: n bytes of it. -/
def State.drain (s : State) (u : EngineUser) (c : Cmd) (n : Nat) : CmdStep :=
  let l := s.readBytes (.xlm c.unit (0x5840 + 64 * (c.drained % 16))) n
  match (if c.early then .go (c.keep l) s else s.writeChunk u c c.drained l) with
  | .go c s =>
    .go { c with drained := c.drained + 1, sent := 0, since := none } (s.poke (.xlm c.unit 0x5804) (toBytes 4 (c.drained + 1)))
  | r => r

/-- Bytes that the routine has given the engine to write so far: whole slots, and after NEND exactly s3 bytes. -/
def State.published (s : State) (t : Thread) (c : Cmd) : Nat :=
  if t.run = .ended then (t.sreg 3).toNat else 64 * s.readHome (.xlm c.unit 0x5800) 4

/-- The next chunk of a transform. -/
def State.cpyxChunk (s : State) (u : EngineUser) (c : Cmd) : CmdStep :=
  match s.thread? c.transform with
  | none => .go { c with st := .running } (s.startRoutine u c)
  | some t =>
    let total := s.published t c
    if 64 * c.drained < total then s.drain u c (min 64 (total - 64 * c.drained))
    else if t.run = .ended then
      .go (if c.early then { c with fate := some 0, drained := 0 } else { c with st := .finishing 0 }) (s.dropThread c.transform)
    else if c.pos < c.len then s.feed u c
    else .hold

/-! ## The expansion routine (R328, R330) -/

/-- The sectors of an image, if every entry is well formed. -/
def expandAll (img : List Byte) (mapLen len : Nat) : Nat → Nat → Option (List Byte)
  | 0, _ => some []
  | n + 1, i =>
    match expandSector img mapLen len i, expandAll img mapLen len n (i + 1) with
    | some a, some b => some (a ++ b)
    | _, _ => none

/-- The output of routine 0xF001 for a source, or none when a check fails. -/
def expandStream (src : List Byte) (bound : Nat) : Option (List Byte) :=
  let w := wordAt src 0
  let sectors := bits w 41 32 + 1
  let plen := bits w 31 0
  if bits w 63 48 = 0xC0D1 ∧ bits w 47 42 = 0 ∧ (List.range 6).all (fun i => wordAt src (i + 2) = 0) ∧ 64 ≤ src.length
      ∧ src.length = 64 + plen ∧ bits (wordAt src 1) 63 32 * bits (wordAt src 1) 31 0 = 64 * sectors ∧ 64 * sectors ≤ bound then
    expandAll (src.drop 64) (roundUp (2 * sectors) 8) plen sectors 0
  else none

/-- A source read whole and checked: its sectors are there to be written, or the command fails. -/
def State.expandWhole (s : State) (c : Cmd) (src : List Byte) : CmdStep :=
  match expandStream src c.bound with
  | none => .fail .badhdr
  | some out => .go { c with buf := out, pos := c.len } s

/-- The next slot of a FIFO-mode ring taken as source of an expansion (R324). -/
def State.expandSlot (s : State) (u : EngineUser) (c : Cmd) : CmdStep :=
  match s.sourcePtr c with
  | none => .hold
  | some p =>
    match s.engineRead u p 64 with
    | .hold f t => .waits c s f t
    | .fail x _ _ _ => .fail x
    | .done l s =>
      match s.cmdCount { c with buf := c.buf ++ l, pos := c.pos + 64 } c.src 4 (s.fifoHead c.src + 1) with
      | .go c s => if c.len ≤ c.pos then s.expandWhole c c.buf else .go c s
      | r => r

/-- The next step of an expansion: the source read and checked whole, slot by slot where it is a ring, then a sector for each
step. -/
def State.expandChunk (s : State) (u : EngineUser) (c : Cmd) : CmdStep :=
  if c.fifoSrc && decide (c.pos < c.len) then s.expandSlot u c
  else if c.buf.isEmpty then
    match s.engineReadRange u c.src c.len with
    | .hold f t => .waits c s f t
    | .fail x _ _ _ => .fail x
    | .done l s => (s.dropGot u.who).expandWhole c l
  else
    match s.writeChunk u c c.drained ((c.buf.drop (64 * c.drained)).take 64) with
    | .go c s =>
      let n := c.drained + 1
      .go { c with drained := n, sent := 0, since := none, st := if c.buf.length ≤ 64 * n then .finishing 0 else c.st } s
    | r => r

/-! ## Steps of the copy engines -/

/-- The next chunk of a command; before the first one the whole destination meets the roster (R355). -/
def State.chunk (s : State) (c : Cmd) : CmdStep :=
  let u := s.cmdUser c
  if c.pos = 0 && c.drained = 0 && !s.rosterOk u c then .fail .roster
  else match c.fate with
  | some code => s.commitChunk u c code
  | none => match c.kind with
    | .cpyx => if c.routine = 0xF001 then s.expandChunk u c else s.cpyxChunk u c
    | _ => s.cpyChunk u c

/-- HBIVL of the slot that issued a command, as its thread has it or, while that is spilled, its save area (R226, R312). -/
def State.cmdInterval (s : State) (c : Cmd) : Nat :=
  match (s.thread? c.slot).filter (fun t => t.node = c.node) with
  | some t => t.hbivl.toNat
  | none => match ((s.node? c.node).bind (fun n => n.saved.find? (fun m => m.thr.id = c.slot))) with
    | some m => m.thr.hbivl.toNat
    | none => Config.hbivlReset

/-- A command reissued as a whole: what it holds in the commit buffer is discarded, and its routine starts again (R314). -/
def State.reissue (s : State) (c : Cmd) : State :=
  let s := { s.putCmd c.restart with heldWrites := s.heldWrites.filter (fun w => w.cmd ≠ c.id) }
  (if c.kind = .cpyx ∧ (s.thread? c.transform).isSome then s.dropThread c.transform else s).dropGot (.cmd c.id)

/-- A command after an attempt at its next chunk: the first integrity failure has it reissued, or, where a ring does not allow that,
has the chunk done again (R314, log 58); and a wait for a Vexey port lasts HBIVL cycles at most (R138). -/
def State.afterChunk (row : String) (c : Cmd) (r : CmdStep) (s : State) : Out :=
  match r with
  | .go c s => .next (s.putCmd c)
  | .hold => notEnabled row
  | .asked t => .next (t.putCmd { c with since := none })
  | .fail x =>
    if c.reissues x then .next (s.reissue c)
    else if c.early then
      .next (if (s.thread? c.transform).isSome then (s.putCmd (c.failWith x)).dropThread c.transform else s.putCmd (c.failWith x))
    else if x = .mcheck ∧ c.retried = false then
      .next ((s.putCmd { c with retried := true, buf := if c.fifoSrc then c.buf else [] }).dropGot (.cmd c.id))
    else .next (s.endCmd c x.code)
  | .fabric c' s' =>
    if s.fabric.items.any (fun i => i.req = .chunk c.id || i.req = .read (.cmd c.id)) then notEnabled row
    else match c.since with
    | none => .next (s'.putCmd { c' with since := some s.clock })
    | some t =>
      if s.cmdInterval c ≤ s.clock - t then .next (s.endCmd c Cause.window.code)
      else if c' = c then notEnabled row else .next (s'.putCmd c')

/-- The node of a command is ending: none of its commands starts, goes on or completes any more (R219, R359), but for a chunk that has
been written in part. -/
def State.cmdStopped (s : State) (c : Cmd) : Bool := (s.node? c.node).any Node.closing && c.sent = 0

/-- The command an engine works on: the running one, or the first one in its queue that waits for no term (R332). -/
def State.engineCmd (s : State) (mine : Cmd → Bool) : Option Cmd :=
  match s.cmds.find? (fun c => mine c && c.st = .running) with
  | some c => if s.cmdStopped c then none else some c
  | none => (s.cmds.find? (fun c => mine c && c.st = .queued && !c.arm && !s.cmdStopped c)).map (fun c => { c with st := .running })

/-- COPY_CHUNK (R225): a copy engine's next chunk. -/
def execCopyChunk (cl : Nat) (e : Fin 4) (s : State) : Out :=
  match s.engineCmd (Cmd.ofEngine cl e.val) with
  | none => notEnabled "COPY_CHUNK"
  | some c => s.afterChunk "COPY_CHUNK" c (s.chunk c)

/-- An access that misses in the slice of an address is still to be performed there. -/
def State.missAhead (s : State) (pa : Nat) : Bool :=
  s.threads.any (fun t => match t.wait with
    | .access r => r.lanes.head?.any (fun x => match x.home with
        | .hbm p => channelOf p = channelOf pa && !s.inSlice p
        | _ => false)
    | _ => false)

/-- The first chunk of a command whose engine was idle is due: its source line lies in its slice, no miss goes before it there, and the
bound of R137 on a hit has passed (R258). -/
def State.chunkDue (s : State) (c : Cmd) : Bool :=
  c.readBy.any (fun d => decide (d ≤ s.clock)) && (c.st = .queued || c.st = .running) && c.pos = 0 && c.kind = .cpy && !c.arm &&
    (match (s.engineLane (s.cmdUser c) c.src 64 .engRead).1 with
     | .ok r => (match r.home with
        | .hbm pa => s.inSlice pa && !s.missAhead pa
        | _ => false)
     | .error _ => false)

/-- ARMED_COMMAND_START (R229, R332): a command whose term was true starts when its engine is free, those of one term in the
order of the queue. -/
def execArmedCommandStart (cmd : Nat) (s : State) : Out :=
  match s.cmds.find? (fun c => c.id = cmd && c.st = .queued && c.arm && c.termMet) with
  | none => notEnabled "ARMED_COMMAND_START"
  | some c =>
    let mine := fun (x : Cmd) => if c.kind = .seal_ then x.kind = .seal_ else x.ofEngine c.cl c.engine
    if s.cmdStopped c || s.cmds.any (fun x => mine x && (x.st = .running || (x.st = .queued && x.arm && x.term = c.term && x.cl = c.cl && decide (x.id < c.id))))
    then notEnabled "ARMED_COMMAND_START"
    else .next (s.putCmd { c with st := if c.len = 0 then .finishing 0 else .running })

/-! ## Sealing (R358 to R360) -/

/-- A list made n bytes long. -/
def fitBytes (n : Nat) (l : List Byte) : List Byte := (List.range n).map (fun i => l.getD i 0)

/-- A seal record (R358): kind, world, node, cause, length and digest. -/
def State.sealRecord (s : State) (kind : Nat) (world : BitVec 4) (node cause len : Nat) (d : List Byte) : List Byte :=
  let head := toBytes 8 (0x5E01 * 2 ^ 48 + kind * 2 ^ 40 + world.toNat * 2 ^ 36 + node % 2 ^ 32) ++ toBytes 8 s.time.toNat
    ++ toBytes 8 (s.fabric.pkgid.toNat * 2 ^ 40 + cause * 2 ^ 32 + len) ++ List.replicate 8 0 ++ d
  head ++ fitBytes 96 (Config.sealSignature s.fresh head) ++ fitBytes 16 Config.sealKeyId ++ List.replicate 64 0

/-- A seal command performed: metadata and data read at their homes, the record written. -/
def State.sealStep (s : State) (c : Cmd) : CmdStep :=
  let u := s.cmdUser c
  if !s.rosterOk u c then .fail .roster
  else match s.engineReadRange u c.dst 64 with
  | .hold f t => .waits c s f t
  | .fail x _ _ _ => .fail x
  | .done m s =>
    match s.engineReadRange u c.src c.len with
    | .hold f t => .waits c s f t
    | .fail x _ _ _ => .fail x
    | .done l s =>
      match s.used.engineWriteRange u (adv c.dst 64) (s.sealRecord 1 u.world c.node 0 c.len (sha384 (m ++ l))) with
      | .hold f t => .waits c s f t
      | .fail x _ _ _ => .fail x
      | .done _ s => .go { c with st := .finishing 0 } (s.dropGot u.who)

/-- SEAL_START (R358): the seal engine serves the next command. -/
def execSealStart (s : State) : Out :=
  match s.engineCmd (fun c => c.kind = .seal_) with
  | none => notEnabled "SEAL_START"
  | some c => s.afterChunk "SEAL_START" c (s.sealStep c)

/-- The abort record that a seal command of a node that a cause ends writes in place of its seal record (R359). -/
def State.abortStep (s : State) (cause : Nat) (c : Cmd) : CmdStep :=
  let u := s.cmdUser c
  if !s.rosterOk u c then .fail .roster
  else match s.engineReadRange u c.dst 64 with
  | .hold f t => .waits c s f t
  | .fail x _ _ _ => .fail x
  | .done m s =>
    match s.used.engineWriteRange u (adv c.dst 64) (s.sealRecord 2 u.world c.node cause 0 (sha384 m)) with
    | .hold f t => .waits c s f t
    | .fail x _ _ _ => .fail x
    | .done _ s => .go c (s.dropGot u.who)

/-! ## Completion (R226, R227) -/

/-- The word of a notify (R227). -/
def notifyWord (c : Cmd) (code : Nat) : DWord :=
  BitVec.ofNat 64 (2 ^ 63 + c.tag * 2 ^ 16 + (if c.kind = .seal_ then 2 ^ 8 else 0) + code)

/-- A notify given to the slot that issued a command, or to its saved state while it is spilled (R39). -/
def State.giveNotify (s : State) (c : Cmd) (code : Nat) : State :=
  let add := fun (t : Thread) =>
    if t.id = c.slot ∧ t.node = c.node then
      { t with notifies := t.notifies ++ [{ ucause := notifyWord c code, acq := if c.acq then some c.scope else none }] }
    else t
  { s with
    thr := add s.thr
    others := s.others.map add
    nodes := s.nodes.map (fun n => { n with saved := n.saved.map (fun m => { m with thr := add m.thr }) }) }

/-- The pulse and the notify of a completed command, which then is gone. -/
def State.announce (s : State) (c : Cmd) (code : Nat) : State :=
  let s := if c.cnt then s.pulse c.cl c.ctr else s
  let s := if c.nfy then s.giveNotify c code else s
  { s with cmds := s.cmds.filter (fun x => x.id ≠ c.id) }

/-- The node of a command that fails without `.nfy` ends (R226, R367). -/
def State.cmdFails (s : State) (c : Cmd) (code : Nat) : State :=
  match causeOfCode code with
  | none => s
  | some x =>
    if c.nfy then s
    else s.endNode c.node { cause := x, cls := 0, member := c.slot, pc := c.pc.setWidth 64, eval := adv c.src (c.pos : Nat),
                            before := false, row := 2 }

/-- COMMAND_COMPLETION (R226): every write of the command is acknowledged; under a guard the pulse and the notify are held. -/
def execCommandCompletion (cmd : Nat) (s : State) : Out :=
  match s.cmds.find? (fun c => c.id = cmd) with
  | none => notEnabled "COMMAND_COMPLETION"
  | some c =>
    match c.st with
    | .finishing code =>
      if s.writesOut (.cmd c.id) || s.fabric.items.any (fun i => i.req = .chunk c.id) || (s.node? c.node).any Node.closing then
        notEnabled "COMMAND_COMPLETION"
      else
        let s := s.cmdFails c code
        if c.guard.isSome then .next (s.putCmd { c with st := .held code }) else .next (s.announce c code)
    | _ => notEnabled "COMMAND_COMPLETION"

/-! ## The event crossbar (R228, R229) -/

/-- EVCFG (R228). -/
def execEvcfg (a b : Reg) (s : State) : Out :=
  issue (.evcfg a b) s fun s =>
    let x := (s.thr.sreg a).toNat
    let y := s.thr.sreg b
    let cl := clusterOf s.thr.id.core
    if bits x 63 6 ≠ 0 then fault .operand 0 none s
    else if bit x 5 then
      if bit x 4 || s.claimedByOther (s.term cl (x % 16)).node then fault .operand 0 none s
      else retire 8 { s with terms := assocSet s.terms (cl, x % 16) { node := some s.thr.node, conds := y } }
    else if bits y.toNat 63 34 ≠ 0 || s.claimedByOther (s.counter cl (x % 32)).node then fault .operand 0 none s
    else
      let new : Counter := { node := some s.thr.node, value := bits y.toNat 31 0, source := bits y.toNat 33 32, slot := s.thr.id }
      retire 8 (s.setCounter cl (x % 32) { new with value := min (new.value + s.pulsesOf cl (x % 32) new) (2 ^ 32 - 1) })

/-- EVWAIT (R229): terms are evaluated from the counters as they stood at the start of the cycle (R332). -/
def execEvwait (a : Reg) (s : State) : Out :=
  issue (.evwait a) s fun s =>
    let m := (s.thr.sreg a).toNat
    if m = 0 ∨ 2 ^ 16 ≤ m then fault .operand 0 none s
    else if (List.range 16).any (fun i => bit m i && s.trueTerms.contains (clusterOf s.thr.id.core, i)) then
      retire 8 (s.acquire s.thr.id.core .dv)
    else stallFor .event s

/-! ## Guards (R230, R272) -/

/-- Commands of the executing slot under a guard. -/
def State.guarded (s : State) (g : Nat) (c : Cmd) : Bool := c.slot = s.thr.id && c.node = s.thr.node && c.guard = some g

/-- The reservation of a guard freed, its held writes gone, and its GOUT bit cleared. -/
def State.closeGuard (s : State) (g : Nat) : State :=
  { s with
    reservations := s.reservations.filter (fun r => !(r.slot = s.thr.id && r.node = s.thr.node && r.guard = g))
    heldWrites := s.heldWrites.filter (fun w => !(w.slot = s.thr.id && w.node = s.thr.node && w.guard = g))
    thr := { s.thr with status := { s.thr.status with gout := s.thr.status.gout &&& ~~~ BitVec.ofNat 4 (2 ^ g) } } }

/-- The held writes of a guard: command by command in the order of issue, each in chunk order. -/
def State.heldOf (s : State) (g : Nat) : List HeldWrite :=
  let mine := s.heldWrites.filter (fun w => w.slot = s.thr.id && w.node = s.thr.node && w.guard = g)
  ((s.cmds.filter (s.guarded g)).map (·.id)).flatMap (fun i => mine.filter (fun w => w.cmd = i))

/-- What the home of a held write says to it now (R15, R323); a count of a ring is no store to its control block. -/
def State.heldCheck (s : State) (w : HeldWrite) : HomeCheck := s.homeCheck none w.home w.n (!w.ring) false

/-- The held writes of a guard performed. -/
def State.performHeld (s : State) (g : Nat) : State :=
  (s.heldOf g).foldl (fun s w => s.perform w.home (toBytes w.n w.data)) s

/-- The held writes of a guard may be performed: none meets a bank that switches, and a home that refuses one makes a precise trap of
it, with nothing performed (R15, R124, log 59). -/
def heldThen (g : Nat) (s : State) (body : State → Out) : Out :=
  if (s.heldOf g).any (fun w => s.heldCheck w = .wait) then stallFor .commit s
  else match (s.heldOf g).findSome? (fun w => match s.heldCheck w with
      | .refuse c => some (c, w.ea)
      | _ => none) with
    | some (c, ea) => fault c 0 (some ea) s
    | none => body s

/-- The held pulses and notifies of a guard released. -/
def State.announceHeld (s : State) (g : Nat) : State :=
  (s.cmds.filter (s.guarded g)).foldl (fun s c => match c.st with
    | .held code => s.announce c code
    | _ => s) s

/-- GCOMMIT (R230). -/
def execGcommit (g : Fin 4) (s : State) : Out :=
  issue (.gcommit g) s fun s =>
    if s.cmds.any (fun c => s.guarded g.val c && (match c.st with
        | .held _ => false
        | _ => true)) then stallFor .commit s
    else heldThen g.val s fun s => retire 8 (((s.performHeld g.val).announceHeld g.val).closeGuard g.val)

/-- Commands cancelled: they are gone, and their transform slots are free. -/
def State.cancel (s : State) (p : Cmd → Bool) : State :=
  let s := (s.cmds.filter p).foldl (fun s c => if c.kind = .cpyx ∧ c.st = .running ∧ (s.thread? c.transform).isSome then s.dropThread c.transform else s) s
  { s with cmds := s.cmds.filter (fun c => !p c) }

/-- GDROP (R230). -/
def execGdrop (g : Fin 4) (s : State) : Out :=
  issue (.gdrop g) s fun s => retire 8 ((s.cancel (s.guarded g.val)).closeGuard g.val)

end Sys2Proof.Machine
end

