-- ==== Sys2Proof/Machine/Banks.lean ====
section
/-!
DEFINITION. SRAM bank modes, furling and reefing, and the routine stores (spec/20_engines_memory.md R320 to R325,
spec/23_debug_power_boot.md R365).
-/
namespace Sys2Proof.Machine

/-! ## Registers (R320) -/

/-- BANKCTL and BANKST of a bank. -/
def Bank.ctlWord (b : Bank) : DWord :=
  BitVec.ofNat 64 (b.assign.toNat * 2 ^ 32 + b.world.toNat * 2 ^ 16 + b.fcap.toNat * 2 ^ 4 + b.discard.toNat * 8
    + b.furl.toNat * 4 + b.reqMode.toNat)
def Bank.statusWord (b : Bank) : DWord :=
  BitVec.ofNat 64 (b.refused.toNat * 16 + b.furled.toNat * 8 + b.switching.isSome.toNat * 4 + b.mode.toNat)

/-- The routine store's registers, and its free words (R325). -/
def State.routineReg (s : State) (cl : Nat) : RoutineCtl := assocD s.routineCtl cl RoutineCtl.reset
def State.setRoutineReg (s : State) (cl : Nat) (r : RoutineCtl) : State := { s with routineCtl := assocSet s.routineCtl cl r }
def State.freeWords (s : State) (cl : Nat) (but : Nat) : Nat :=
  Config.routineWords - ((s.routines.filter (fun r => r.cl = cl && r.num ≠ but)).map (fun r => r.words.length)).foldl (· + ·) 0
def State.rsstWord (s : State) (cl : Nat) : DWord :=
  BitVec.ofNat 64 (s.freeWords cl 0 * 2 ^ 16 + (s.routineReg cl).fail.toNat * 2 + (s.routineReg cl).busy.toNat)

/-! ## Work that touches a bank (R322) -/

/-- A range has a byte in a bank. -/
def rangeTouches (cl b : Nat) (r : DWord × Nat) : Bool :=
  (rangePieces r.1 r.2).any (fun x => let q := adv r.1 (x.1 : Nat)
    ptrSpace q = 1 && ptrCluster q = cl && ptrSramOff q / 65536 = b)

/-- The ranges of a command that has not completed. -/
def State.cmdRanges (s : State) (c : Cmd) : List (DWord × Nat) :=
  match c.st with
  | .held _ => []
  | _ => match c.kind with
    | .seal_ => [(c.src, c.len), (c.dst, 64), (adv c.dst 64, 256)]
    | _ =>
      [(c.src, endLen (if c.fifoSrc then s.fifoAt c.src else none) c.len),
       (c.dst, endLen (if c.fifoDst then s.fifoAt c.dst else none) c.bound)]

/-- The ranges of an outstanding tile instruction, whose tile is in canonical form or not. -/
def TileJob.declared (j : TileJob) (canon : Bool) : List (DWord × Nat) :=
  let image := fun (canon : Bool) => [(j.pa, imageBytes canon)]
  match j.op with
  | .mma => (j.opA.ranges ++ j.opB.ranges).map (fun r => (r.1, r.2.1))
  | .mmas => (j.opA.ranges ++ j.opB.ranges).map (fun r => (r.1, r.2.1))
  | .mres =>
    (List.range (geoM (j.win.getD 0 0))).map (fun i =>
      (adv j.pa (i * geoA (j.win.getD 1 0) : Nat), geoN (j.win.getD 0 0) * (fmtBits j.fmtO / 8)))
  | .msave => image canon
  | .mload => image (bits (j.win.getD 0 0).toNat 39 32 = 2)
  | .mmerge => image (bits (j.win.getD 0 0).toNat 39 32 = 2)
  | .mzero => []
  | .manchor => []
  | .mresc => []

/-- The ranges of an instruction that the Automaton Engine steps, given the thread's groups. -/
def streamRanges (group : Nat → LaneGroup) (t : Thread) : List (DWord × Nat) :=
  match t.wait with
  | .stream j =>
    let x := group j.group
    let ring := fun (r : QReg) => let q := t.qreg r; (qBase q, 64 + 64 * qCap q)
    [(x.base, x.img.len), ring j.qin] ++ (match j.qout with
      | some r => [ring r]
      | none => []) ++ (if j.run.isSome && x.xstr ≠ 0 then [(x.xout, 16 * x.xstr)] else [])
  | _ => []

/-- The ranges that a word declares which waits at issue (R322): it is outstanding from its issue on. -/
def State.stalledRanges (s : State) (t : Thread) : List (DWord × Nat) :=
  let product := fun (i : Instr) (x : Fin 16) (a b : PReg) (scaled : Bool) =>
    (s.focus t.id).elim [] (fun f => (f.productJob i x a b t.geo scaled).declared false)
  let command := fun (k : CmdKind) (d a : PReg) (b : Reg) =>
    let w := controlWord (t.sreg b)
    let cl := clusterOf t.id.core
    [(t.preg a, endLen (s.fifoAt (t.preg a)) w.len), (t.preg d, endLen (s.fifoAt (t.preg d)) (s.destLen k cl w.routine w.len))]
  match t.wait, t.inWord, decode t.word with
  | .stall _, true, .ok (.amask d _ g) =>
    [(t.preg d, 64 * ceilDiv (s.group (clusterOf t.id.core) (effGroup t g)).img.v 512)]
  | .stall _, true, .ok (.cpy d a b _ _ _ _) => command .cpy d a b
  | .stall _, true, .ok (.cpyx d a b _ _ _ _) => command .cpyx d a b
  | .stall _, true, .ok (.sealOut d a b _ _ _) => [(t.preg a, (controlWord (t.sreg b)).len), (t.preg d, 320)]
  | .stall _, true, .ok (.mma x a b k e) => product (.mma x a b k e) x a b false
  | .stall _, true, .ok (.mmas x a b k e) => product (.mmas x a b k e) x a b true
  | .stall _, true, .ok (.mres _ a _ _) =>
    let w := t.geo.getD 0 0
    let o := fmtOr (fmtO t.hfmt) 1
    (List.range (geoM w)).map (fun i => (adv (t.preg a) (i * geoA (t.geo.getD 1 0) : Nat), geoN w * (fmtBits o / 8)))
  | .stall _, true, .ok (.msave _ a _) => [(t.preg a, imageBytes true)]
  | .stall _, true, .ok (.mload _ a _) => [(t.preg a, imageBytes true)]
  | .stall _, true, .ok (.mmerge _ a _) => [(t.preg a, imageBytes true)]
  | _, _, _ => []

/-- The ranges of the tile and automaton instructions of a spilled member: they are outstanding until they complete (R322). -/
def SavedMember.ranges (m : SavedMember) : List (DWord × Nat) :=
  m.jobs.flatMap (fun j => j.2.declared (((m.tiles.find? (fun x => x.1 = j.1 && x.2.1 = j.2.tile)).map (·.2.2.canon)).getD true))
    ++ streamRanges (fun g => ((m.groups.find? (fun x => x.1 = g)).map (·.2)).getD LaneGroup.zero) m.thr

/-- Outstanding work touches a bank. -/
def State.bankBusy (s : State) (cl b : Nat) : Bool :=
  s.cmds.any (fun c => (s.cmdRanges c).any (rangeTouches cl b))
    || s.jobs.any (fun j => j.2.any (fun x => (x.declared (s.tile j.1.1 j.1.2 x.tile).canon).any (rangeTouches cl b)))
    || s.threads.any (fun t => (streamRanges (s.group (clusterOf t.id.core)) t ++ s.stalledRanges t).any (rangeTouches cl b))
    || s.nodes.any (fun n => n.saved.any (fun m => m.ranges.any (rangeTouches cl b)))

/-! ## BANKCTL stores (R322, R323) -/

/-- The request of a store is refused: as the row of the bank's mode says, but for a furled bank that is only powered again. -/
def State.bankRefuses (s : State) (cl b : Nat) (k : Bank) (mode : BitVec 2) : Bool :=
  let base : Home := .sram cl (65536 * b)
  if k.mode = 0 || (k.furled && mode = k.mode) then false
  else k.assign != 0 || k.bound != 0 || s.bankBusy cl b
    || (k.mode = 2 && !k.discard && s.readHome base 4 ≠ s.readHome (base.plus 4) 4)

/-- A store to BANKCTL: what is on its way to the bank is performed, the store's fields are written, then its request is judged against
them. One with MODE 3 is ignored, and one that meets a switch is held until it ends. -/
def State.writeBankctl (s : State) (cl b : Nat) (v : DWord) : State :=
  if v.extractLsb' 0 2 = 3 then s
  else if (s.bank cl b).switching.isSome then s.setBank cl b { s.bank cl b with held := (s.bank cl b).held ++ [v] }
  else
    let s := s.performSent (inBank cl b)
    let k := s.bank cl b
    let k := { k with assign := v.extractLsb' 32 32, world := v.extractLsb' 16 4, fcap := v.extractLsb' 4 4,
                      discard := v.getLsbD 3 }
    let mode := v.extractLsb' 0 2
    let furl := v.getLsbD 2
    if mode = k.mode ∧ furl = k.furled then s.setBank cl b { k with reqMode := mode, furl := furl }
    else
      if s.bankRefuses cl b k mode then s.setBank cl b { k with refused := true }
      else { s.setBank cl b { k with refused := false, reqMode := mode, furl := furl, switching := some (mode, furl) } with
        cache := s.cache.filter (fun c => !(c.cl = cl && c.bank = b)) }

/-- BANK_MODE_REQUEST (R322). -/
def execBankModeRequest (cl : Nat) (bank : Fin 64) (v : DWord) (s : State) : Out :=
  if cl < Config.clusters then .next (s.writeBankctl cl bank.val v) else notEnabled "BANK_MODE_REQUEST"

/-- FURL_REQUEST (R322): a store that leaves the requested mode as it is. -/
def execFurlRequest (cl : Nat) (bank : Fin 64) (v : DWord) (s : State) : Out :=
  if cl < Config.clusters ∧ v.extractLsb' 0 2 = (s.bank cl bank.val).reqMode then .next (s.writeBankctl cl bank.val v)
  else notEnabled "FURL_REQUEST"

/-- BANK_SWITCH_DONE (R322, R323): the bank is in its new mode, its contents are zeros, and held stores are performed. -/
def execBankSwitchDone (cl : Nat) (bank : Fin 64) (s : State) : Out :=
  let k := s.bank cl bank.val
  match k.switching with
  | none => notEnabled "BANK_SWITCH_DONE"
  | some (mode, furl) =>
    let s := s.zeroHome (.sram cl (65536 * bank.val)) 65536
    let s := s.setBank cl bank.val { k with mode := mode, furled := furl, switching := none, held := [] }
    .next (k.held.foldl (fun s v => s.writeBankctl cl bank.val v) s)

/-- A bank exists (R2). -/
def bankExists : BankId → Bool
  | .lm core bank => decide (core < Config.cores) && decide (bank < 16)
  | .sram cl bank => decide (cl < Config.clusters) && decide (bank < 64)

/-- A bank has been idle for 1,024 cycles (R365). -/
def State.bankIdle (s : State) (bank : BankId) : Bool := decide (assocD s.touched bank 0 + 1024 ≤ s.clock)

/-- BANK_REEF (R365): an idle bank is reefed; only timing tells (R323, log 124). -/
def execBankReef (bank : BankId) (s : State) : Out :=
  if bankExists bank ∧ s.reefed.contains bank = false ∧ s.bankIdle bank then .next { s with reefed := bank :: s.reefed }
  else notEnabled "BANK_REEF"

/-! ## Routine stores (R325) -/

/-- NW, OADD and OMUL of an image's header; none when it is malformed. -/
def routineHeader (l : List Byte) : Option (Nat × Nat × Nat) :=
  let w := wordAt l 0
  let x := wordAt l 1
  if bits w 63 48 = 0x7E01 ∧ bits w 47 16 = 0 ∧ 1 ≤ bits w 15 0 ∧ bits w 15 0 ≤ Config.routineWords ∧ bits x 31 16 = 0
      ∧ (List.range 6).all (fun i => wordAt l (i + 2) = 0) then some (bits w 15 0, bits x 63 32, bits x 15 0)
  else none

/-- A store to RSLOAD (R325): an unload is done at once; a load is begun. A store that finds BUSY set, or no routine number, is
ignored. -/
def State.writeRsload (s : State) (cl : Nat) (v : DWord) : State :=
  let r := s.routineReg cl
  let n := bits r.rsnum.toNat 7 0
  if r.busy || n = 0 then s
  else if bit r.rsnum.toNat 8 then { s with routines := s.routines.filter (fun x => !(x.cl = cl && x.num = n)) }
  else s.setRoutineReg cl { r with busy := true, fail := false, loading := some (bits v.toNat 51 6 * 64, n) }

/-- ROUTINE_LOAD (R325). -/
def execRoutineLoad (cl : Nat) (v : DWord) (s : State) : Out :=
  if cl < Config.clusters ∧ bit (s.routineReg cl).rsnum.toNat 8 = false then .next (s.writeRsload cl v)
  else notEnabled "ROUTINE_LOAD"

/-- ROUTINE_UNLOAD (R325). -/
def execRoutineUnload (cl : Nat) (v : DWord) (s : State) : Out :=
  if cl < Config.clusters ∧ bit (s.routineReg cl).rsnum.toNat 8 then .next (s.writeRsload cl v)
  else notEnabled "ROUTINE_UNLOAD"

/-- A range lies in HBM and can be read whole. -/
def State.readableAt (s : State) (pa n : Nat) : Bool := decide (pa + n ≤ Config.hbmBytes) && !s.badAt (.hbm pa) n

/-- The code words of an image in memory. -/
def State.imageWords (s : State) (pa n : Nat) : List Word := (List.range n).map (fun i => BitVec.ofNat 32 (s.mem.num (pa + 64 + 4 * i) 4))

/-- ROUTINE_LOAD_DONE (R325): the header is checked, and once no command names the routine its words are copied. An image that
cannot be read, or that does not lie in HBM, is refused as a malformed one is (log 117). -/
def execRoutineLoadDone (cl : Nat) (s : State) : Out :=
  let r := s.routineReg cl
  let failed : Out := .next (s.setRoutineReg cl { r with busy := false, fail := true, loading := none })
  match r.loading with
  | none => notEnabled "ROUTINE_LOAD_DONE"
  | some (pa, n) =>
    if !s.readableAt pa 64 then failed
    else match routineHeader (s.mem.read pa 64) with
      | none => failed
      | some (nw, oadd, omul) =>
        if s.freeWords cl n < nw then failed
        else if s.cmds.any (fun c => c.kind = .cpyx && c.cl = cl && c.routine = n && (c.st = .queued || c.st = .running)) then
          notEnabled "ROUTINE_LOAD_DONE"
        else if !s.readableAt (pa + 64) (4 * nw) then failed
        else
          let new : Routine := { cl := cl, num := n, oadd := oadd, omul := omul, words := s.imageWords pa nw }
          .next { s.setRoutineReg cl { r with busy := false, loading := none } with
            routines := new :: s.routines.filter (fun x => !(x.cl = cl && x.num = n)) }

end Sys2Proof.Machine
end

