-- ==== Sys2Proof/Machine/Control.lean ====
section
/-!
DEFINITION. Branches, jumps and the loop stack (spec/05_scalar_control.md R105 to R114), and the pointer group
(spec/06_memory_instr.md R118 to R122).
-/
namespace Sys2Proof.Machine

/-- A conditional branch (R105): taken, it unwinds the loop stack (R112). -/
def branch (i : Instr) (taken : DWord → DWord → Bool) (a b : Reg) (o : Fin 8192) (s : State) : Out :=
  issue i s fun s =>
    if taken (s.thr.sreg a) (s.thr.sreg b) then retireTaken (targetAt s.thr (branchWords s.thr o)) 8 s else retire 8 s

/-- BEQ (R105). -/
def execBeq (a b : Reg) (o : Fin 8192) (s : State) : Out := branch (.beq a b o) (fun x y => x = y) a b o s
/-- BNE (R105). -/
def execBne (a b : Reg) (o : Fin 8192) (s : State) : Out := branch (.bne a b o) (fun x y => x ≠ y) a b o s
/-- BLTS (R105). -/
def execBlts (a b : Reg) (o : Fin 8192) (s : State) : Out := branch (.blts a b o) (fun x y => x.toInt < y.toInt) a b o s
/-- BGES (R105). -/
def execBges (a b : Reg) (o : Fin 8192) (s : State) : Out := branch (.bges a b o) (fun x y => y.toInt ≤ x.toInt) a b o s
/-- BLTZ (R105). -/
def execBltz (a b : Reg) (o : Fin 8192) (s : State) : Out := branch (.bltz a b o) (fun x y => x.toNat < y.toNat) a b o s
/-- BGEZ (R105). -/
def execBgez (a b : Reg) (o : Fin 8192) (s : State) : Out := branch (.bgez a b o) (fun x y => y.toNat ≤ x.toNat) a b o s

/-- The offset of an F-J word (R106). -/
def jumpWords (o : Fin 67108864) : Int := toSigned 26 o.val

/-- JMP (R106): a taken jump, which unwinds (R112). -/
def execJmp (o : Fin 67108864) (s : State) : Out :=
  issue (.jmp o) s fun s => retireTaken (targetAt s.thr (jumpWords o)) 8 s

/-- The thread with its link register written (R106, R107). -/
def State.link (s : State) : State := s.setS 31 (s.thr.following.setWidth 64)

/-- CALL (R106): the link is written, and no loop entry is popped (R112). -/
def execCall (o : Fin 67108864) (s : State) : Out :=
  issue (.call o) s fun s => retireAt (targetAt s.thr (jumpWords o)) 8 s.link

/-- A register target is legal: word-aligned, within 55 bits (R107). -/
def targetOk (t : DWord) : Bool := t.extractLsb' 0 2 = 0 && t.extractLsb' 55 9 = 0

/-- JR (R107). -/
def execJr (a : Reg) (s : State) : Out :=
  issue (.jr a) s fun s =>
    if targetOk (s.thr.sreg a) then retireTaken ((s.thr.sreg a).setWidth 55) 8 s
    else fault .align badTarget (some (s.thr.sreg a)) s

/-- CALLR (R107): the target is read before the link is written. -/
def execCallr (a : Reg) (s : State) : Out :=
  issue (.callr a) s fun s =>
    if targetOk (s.thr.sreg a) then retireAt ((s.thr.sreg a).setWidth 55) 8 s.link
    else fault .align badTarget (some (s.thr.sreg a)) s

/-- RET (R107): an arrival, which takes a back edge and pops nothing (R111). -/
def execRet (s : State) : Out :=
  issue .ret s fun s =>
    if targetOk (s.thr.sreg 31) then retireArriving ((s.thr.sreg 31).setWidth 55) 8 s
    else fault .align badTarget (some (s.thr.sreg 31)) s

/-! ## Loops -/

/-- END of a loop word at the thread's PC (R110). -/
def loopEnd (t : Thread) (len : Fin 8192) : VAddr := t.following + BitVec.ofNat 55 (4 * len.val)

/-- The push of R110 for a count n, at most 2^48, with its cost. -/
def pushLoop (n : Nat) (len : Fin 8192) (cost : Nat) (s : State) : Out :=
  if 2 ^ 48 < n then fault .operand 0 (some (BitVec.ofNat 64 n)) s
  else if n = 0 then retireArriving (loopEnd s.thr len) cost s
  else
    .next { s with
      thr := { s.thr.done (s.clock + cost) with
        loops := { len := BitVec.ofNat 13 len.val, count := BitVec.ofNat 48 (n - 1), start := s.thr.following } :: s.thr.loops
        pc := s.thr.following } }

/-- The depth check of R110, an ILLEGAL condition. -/
def loopsFull (s : State) : Bool := decide (4 ≤ s.thr.loops.length)

/-- LOOP (R110). -/
def execLoop (a : Reg) (len : Fin 8192) (s : State) : Out :=
  issueWith (.loop a len) loopsFull 0 s fun s => pushLoop (s.thr.sreg a).toNat len 8 s

/-- LOOPK (R110): the count is win[k]. -/
def execLoopk (k : Fin 256) (len : Fin 8192) (s : State) : Out :=
  issueWith (.loopk k len) loopsFull 0 s fun s => withWindow k.val 1 s fun s =>
    let (late, u) := s.windowWait k.val
    pushLoop (s.win k.val).toNat len (8 + late) u

/-- LEXIT (R113). -/
def execLexit (s : State) : Out :=
  issue .lexit s fun s => retire 8 { s with thr := { s.thr with loops := s.thr.loops.tail } }

/-- LSAVE (R114). -/
def execLsave (s : State) : Out :=
  issue .lsave s fun s =>
    retire 8 { s with thr := { s.thr with ws := { s.thr.ws with loopSave := saveLoops s.thr.loops } } }

/-- LRST (R114). -/
def execLrst (s : State) : Out :=
  issue .lrst s fun s =>
    match loadLoops s.thr.ws.loopSave with
    | none => fault .operand 0 none s
    | some l => retire 8 { s with thr := { s.thr with loops := l } }

/-! ## Pointers -/

/-- PSET (R118). -/
def execPset (d : PReg) (a : Reg) (s : State) : Out :=
  issue (.pset d a) s fun s => retire 8 (s.setP d (s.thr.sreg a))

/-- PGET (R118). -/
def execPget (d : Reg) (a : PReg) (s : State) : Out :=
  issue (.pget d a) s fun s => retire 8 (s.setS d (s.thr.preg a))

/-- A pointer written if it is valid (R119). -/
def writePointer (d : PReg) (p : DWord) (s : State) : Out :=
  if ptrValid p then retire 8 (s.setP d p) else fault .align badptr (some p) s

/-- PADD (R118, R120). -/
def execPadd (d : PReg) (a : PReg) (b : Reg) (s : State) : Out :=
  issue (.padd d a b) s fun s =>
    if ptrValid (s.thr.preg a) then writePointer d (adv (s.thr.preg a) (s.thr.sreg b).toInt) s
    else fault .align badptr (some (s.thr.preg a)) s

/-- A pointer with bits [39:26] replaced (R121). -/
def withWalk (p : DWord) (w : Nat) : DWord :=
  BitVec.ofNat 64 (bits p.toNat 63 40 * 2 ^ 40 + w % 2 ^ 14 * 2 ^ 26 + bits p.toNat 25 0)

/-- PWALK (R121). -/
def execPwalk (d : PReg) (a : PReg) (b : Reg) (s : State) : Out :=
  issue (.pwalk d a b) s fun s =>
    if ptrSpace (s.thr.preg a) ≠ 0 ∨ bits (s.thr.sreg b).toNat 63 14 ≠ 0 then fault .operand 0 none s
    else if ptrValid (s.thr.preg a) then writePointer d (withWalk (s.thr.preg a) (s.thr.sreg b).toNat) s
    else fault .align badptr (some (s.thr.preg a)) s

/-- A coordinate word has no bit outside its fields (R26, R122). -/
def coordOk (n : Nat) : Bool :=
  bits n 63 19 = 0 && bits n 15 14 = 0 && bits n 11 10 = 0 && bits n 7 7 = 0 && bits n 3 3 = 0

/-- The pointer PCOORD builds (R122). -/
def coordPtr (c off : Nat) : DWord :=
  BitVec.ofNat 64 (bits c 18 16 * 2 ^ 58 + bits c 13 12 * 2 ^ 56 + bits c 9 8 * 2 ^ 54 + bits c 6 4 * 2 ^ 51
    + bits c 2 0 * 2 ^ 48 + off % 2 ^ 17)

/-- PCOORD (R122). -/
def execPcoord (d : PReg) (a b : Reg) (s : State) : Out :=
  issue (.pcoord d a b) s fun s =>
    if coordOk (s.thr.sreg a).toNat ∧ (s.thr.sreg b).toNat < 2 ^ 17 then
      writePointer d (coordPtr (s.thr.sreg a).toNat (s.thr.sreg b).toNat) s
    else fault .operand 0 none s

end Sys2Proof.Machine
end

