-- ==== Sys2Proof/Machine/Graph.lean ====
section
/-!
DEFINITION. Nodes and their graph: SPAWN, NEND, NWAIT, BARR, YARD and the end of a node (spec/10_system_instr.md R217 to R222,
spec/14_scheduler.md R260, spec/18_faults_preemption.md R309, R367, spec/21_fabric_host.md R343).
-/
namespace Sys2Proof.Machine

/-! ## Node records (R217) -/

/-- A pointer of a record is 0 or global-virtual. -/
def recordPtrOk (n : Nat) : Bool := n = 0 || (bits n 63 55 = 0x80)

/-- The node that a record's 128 bytes describe, without id or die, and its DEPS; none when it is malformed. -/
def parseNode (l : List Byte) (p : DWord) : Option (Node × Nat) :=
  let w := wordAt l
  let width := bits (w 5) 47 43
  if bits (w 0) 63 55 = 0 ∧ bits (w 0) 1 0 = 0 ∧ recordPtrOk (w 1) ∧ w 1 % 64 = 0 ∧ recordPtrOk (w 2) ∧ recordPtrOk (w 3)
      ∧ bits (w 4) 63 32 = 0 ∧ bits (w 5) 63 48 = 0 ∧ bits (w 5) 31 0 = 0 ∧ bits (w 6) 63 20 = 0
      ∧ bits (w 7) 63 52 = 0 ∧ w 7 % 4096 = 0 ∧ recordPtrOk (w 8) ∧ bits (w 9) 63 32 = 0
      ∧ (List.range 6).all (fun i => w (10 + i) = 0) ∧ 1 ≤ width ∧ width ≤ 16 then
    some ({ id := 0, record := p, entry := BitVec.ofNat 55 (w 0), cblk := BitVec.ofNat 64 (w 1), ltab := BitVec.ofNat 64 (w 2),
            succ := BitVec.ofNat 64 (w 3), stat := BitVec.ofNat 64 (w 8), savea := BitVec.ofNat 64 (w 7), width := width,
            service := bit (w 5) 42, prio := BitVec.ofNat 2 (bits (w 5) 41 40), stage := BitVec.ofNat 8 (bits (w 5) 39 32),
            world := BitVec.ofNat 4 (bits (w 6) 19 16), asid := BitVec.ofNat 16 (w 6), die := 0, phase := .leasing, readyAt := 0,
            passedSince := none, waitsFrom := 0, grants := [], members := [], saved := [], reserved := [], ending := none, endedAt := 0,
            ends := none, binds := [], msix := none,
            spillAsked := [], spillAt := 0, launchedAt := 0, nendAt := 0, nendRank := 0, nendPc := 0,
            oldText := [] }, w 4)
  else none

/-- The check of a record for its submitter (R218): the node, or the cause. -/
def checkRecord (user : Bool) (world : BitVec 4) (asid : BitVec 16) (l : List Byte) (p : DWord) : Except Cause Node :=
  match parseNode l p with
  | none => .error .operand
  | some (n, deps) =>
    if deps ≠ 0 ∨ p.toNat % 128 ≠ 0 then .error .operand
    else if user ∧ n.service then .error .priv
    else if user ∧ (n.world ≠ world ∨ n.asid ≠ asid) then .error .world
    else .ok n

/-! ## Dies and pools (R260) -/

/-- A die's pool and dispatcher. -/
def State.die (s : State) (d : Nat) : Die := assocD s.dies d Die.reset
def State.setDie (s : State) (d : Nat) (x : Die) : State := { s with dies := assocSet s.dies d x }

/-- The ready pool, and the deferred list, of a die is full. -/
def State.poolFull (s : State) (d : Nat) : Bool := decide (Config.poolEntries ≤ (s.die d).pool.length)
def State.deferredFull (s : State) (d : Nat) : Bool := decide (Config.deferredEntries ≤ (s.die d).deferred.length)

/-- The id of the next node: ids are nonzero (R218). -/
def State.nodeId (s : State) : BitVec 32 := if s.nextNode = 0 then 1 else s.nextNode

/-- A node that has passed its checks enters a die's pool, or its deferred list while the pool is full. -/
def State.admitNode (s : State) (d : Nat) (n : Node) : State :=
  let id := s.nodeId.toNat
  let x := s.die d
  let full := s.poolFull d
  { s.setDie d (if full then { x with deferred := x.deferred ++ [id] } else { x with pool := x.pool ++ [id] }) with
    nextNode := s.nodeId + 1
    nodes := s.nodes ++ [{ n with id := id, die := d, phase := if full then .deferred else .leasing }] }

/-! ## SPAWN (R218) -/

/-- n bytes at EA read at their home under the checks of R124, the store buffer passed over. -/
def homeReadThen (ea : DWord) (n : Nat) (s : State) (body : LaneReq → List Byte → State → Out) : Out :=
  accessThen ea n .load s fun r s => homeBytesThen r s fun l s => body r l (s.readAtHome r)

/-- The hardware's write of a node's id into word 9 of its record has been made: the word completes once it is performed. -/
def spawned (d : Reg) (id : Nat) (s : State) : Out :=
  if s.writesOut (.slot s.thr.id) then stallFor .fence { s with thr := { s.thr with progress := id } }
  else retireWithin 8 1000 (s.setS d (BitVec.ofNat 64 id))

/-- SPAWN (R218). -/
def execSpawn (d : Reg) (a : PReg) (s : State) : Out :=
  issue (.spawn d a) s fun s =>
    if s.thr.progress ≠ 0 then spawned d s.thr.progress s
    else releaseThen .dv s fun s =>
      let p := s.thr.preg a
      let die := dieOf s.thr.id.core
      homeReadThen p 64 s fun _ l s => homeReadThen (adv p 64) 64 s fun r m s =>
        match checkRecord (s.thr.status.priv = 0) s.thr.world s.thr.asid (l ++ m) p with
        | .error c => fault c 0 none s
        | .ok n =>
          if s.poolFull die then stallFor .pool s
          else
            let id := s.nodeId.toNat
            match s.hardwareWrite (.slot s.thr.id) (clusterOf s.thr.id.core) s.thr.world { r with home := r.home.plus 8, n := 8 }
                (toBytes 8 id) with
            | .done _ t => spawned d id (t.admitNode die n)
            | .hold f t => stallFor (if f then .port p else .fence) (t.getD s)
            | .fail c ea _ _ => fault c 0 (some ea) s

/-! ## NEND (R219, R327) -/

/-- NEND cancels the slot's armed commands that have not started. -/
def State.cancelArmed (s : State) : State :=
  s.cancel (fun c => c.slot = s.thr.id && c.node = s.thr.node && c.arm && c.st = .queued)

/-- A member that has executed NEND stops issuing; the node remembers which NEND came last (R367). -/
def State.memberEnds (s : State) : State :=
  let mark := fun (n : Node) =>
    let later := n.nendAt < s.clock || s.thr.rank < n.nendRank
    { n with
      members := n.members.map (fun m => if m.id = s.thr.id then { m with ended := true } else m)
      nendAt := s.clock
      nendRank := if later then s.thr.rank else n.nendRank
      nendPc := if later then s.thr.pc.setWidth 64 else n.nendPc }
  { s with
    thr := { s.thr.done s.clock with run := .ended }
    nodes := s.nodes.map (fun n => if n.id = s.thr.node then mark n else n) }

/-- NEND in a transform slot (R327): the output length in s3 must not exceed what was published, nor B. -/
def routineEnds (s : State) : Out :=
  let n := (s.thr.sreg 3).toNat
  if 64 * s.readHome (ownLm s.thr.id 0x5800) 4 < n ∨ s.routineB < n then fault .operand 0 none s
  else .next { s with thr := { s.thr.done s.clock with run := .ended } }

/-- NEND (R219): tile instructions, engine commands, its own release; then the member stops issuing. -/
def execNend (s : State) : Out :=
  issue .nend s fun s =>
    if isTransform s.thr.id then routineEnds s
    else if s.jobs.any (fun j => j.2.any (fun x => x.slot = s.thr.id)) then stallFor .nendWork s
    else
      let s := s.cancelArmed
      if s.cmds.any (fun c => c.slot = s.thr.id && c.node = s.thr.node && (match c.st with
          | .held _ => false
          | _ => true)) then stallFor .nendWork s
      else releaseThen .dv s fun s => .next s.memberEnds

/-- NWAIT (R220): the node has not written its status record yet. -/
def execNwait (a : Reg) (s : State) : Out :=
  issue (.nwait a) s fun s =>
    if (s.node? (s.thr.sreg a).toNat).any Node.unreported then stallFor .node s else retire 8 (s.acquire s.thr.id.core .dv)

/-! ## BARR (R221) -/

/-- A barrier counter of a cluster. -/
def State.barrier (s : State) (cl c : Nat) : Barrier := assocD s.barriers (cl, c) Barrier.idle
def State.setBarrier (s : State) (cl c : Nat) (b : Barrier) : State := { s with barriers := assocSet s.barriers (cl, c) b }

/-- A waiter of a round completes its BARR; of a slot that made a STEP only the stall ends, and it parks again at the word (R362). -/
def Thread.leaveBarrier (now c round : Nat) (t : Thread) : Thread :=
  if t.wait = .barrier c round then t.stepOr ((t.done (now + 8)).arrive t.following) else t

/-- The last arrival of a round: every waiter resumes with an acquire at cluster scope, and the counter reopens. -/
def State.openBarrier (s : State) (cl c : Nat) (b : Barrier) : State :=
  let leave := fun (t : Thread) => if clusterOf t.id.core = cl ∧ t.node = s.thr.node then t.leaveBarrier s.clock c b.round else t
  { s.setBarrier cl c { b with node := some s.thr.node, count := 0, arrived := 0, round := b.round + 1 } with
    others := s.others.map leave }

/-- BARR (R221). -/
def execBarr (a : Reg) (c : Fin 16) (s : State) : Out :=
  issue (.barr a c) s fun s =>
    let n := (s.thr.sreg a).toNat
    let cl := clusterOf s.thr.id.core
    let b := s.barrier cl c.val
    if n = 0 || 512 < n || s.claimedByOther b.node || (b.arrived ≠ 0 && b.count ≠ n) then fault .operand 0 none s
    else releaseThen .cl s fun s =>
      if b.arrived + 1 = n then retire 8 ((s.openBarrier cl c.val b).acquire s.thr.id.core .cl)
      else waitFor (.barrier c.val b.round)
        (s.setBarrier cl c.val { b with node := some s.thr.node, count := n, arrived := b.arrived + 1 })

/-! ## YARD (R222) -/

/-- The attached followers of the executing slot's yard that still execute words. -/
def State.attached (s : State) : List Thread := s.yard.filter (fun t => t.role = .follower && t.run ≠ .ended)

/-- A follower stands at the word and has given its vote. -/
def voting (pc : VAddr) (t : Thread) : Bool := t.pc = pc && t.wait = .stall .yard && t.progress = 0

/-- A vote (R222): the leader and its attached followers meet at the word; the leader counts, and each then writes the
outcome. A detached member votes alone. -/
def vote (i : Instr) (all_ : Bool) (d a : Reg) (s : State) : Out :=
  issue i s fun s =>
    match s.thr.role with
    | .detached => retire 16 (s.setS d (boolWord (s.thr.sreg a != 0)))
    | .follower =>
      if 2 ≤ s.thr.progress then retire 16 (s.setS d (BitVec.ofNat 64 (s.thr.progress - 2))) else stallFor .yard s
    | .leader =>
      if s.attached.all (voting s.thr.pc) then
        let votes := (s.thr :: s.attached).map (fun t => t.sreg a != 0)
        let r := if all_ then votes.all (fun b => b) else votes.any (fun b => b)
        let tell := fun (t : Thread) =>
          if t.node = s.thr.node ∧ t.role = .follower ∧ t.run ≠ .ended then { t with progress := 2 + r.toNat } else t
        retire 16 ({ s with others := s.others.map tell }.setS d (boolWord r))
      else stallFor .yard s

/-- YARD.any (R222). -/
def execYardAny (d a : Reg) (s : State) : Out := vote (.yardAny d a) false d a s
/-- YARD.all (R222). -/
def execYardAll (d a : Reg) (s : State) : Out := vote (.yardAll d a) true d a s

/-- YARD.det (R222): a follower detaches and fetches on its own from the next word. -/
def execYardDet (s : State) : Out :=
  issue .yardDet s fun s =>
    match s.thr.role with
    | .follower => retire 16 { s with thr := { s.thr with role := .detached, fifo := [] } }
    | .leader => retire 16 s
    | .detached => retire 16 s

/-! ## NODE_END (R219) -/

/-- On whose behalf the hardware accesses memory for a node. -/
def State.nodeUser (n : Node) : EngineUser :=
  let core := ((n.members.map (·.id.core)).headD (1024 * n.die))
  { slot := ⟨core, 0⟩, node := n.id, world := n.world, asid := n.asid, who := .node n.id }

/-- The unit that holds a node's end records (R309). -/
def Node.recordUnit (n : Node) : RecordUnit :=
  match n.members with
  | [] => .lease n.die
  | m :: _ => .fault (clusterOf m.id.core)

/-- A record about a node's address space. -/
def State.nodeRecord (s : State) (n : Node) (info sub cause : Nat) (w1 w2 w3 : Nat) : State :=
  s.post { unit := n.recordUnit, ring := s.ringOf n.asid, w0 := recordWord0 info n.asid sub cause, w1 := BitVec.ofNat 64 w1,
           w2 := BitVec.ofNat 64 w2, w3 := BitVec.ofNat 64 w3 }

/-- The threads of a node's members. -/
def State.nodeThreads (s : State) (id : Nat) : List Thread := s.threads.filter (fun t => t.node = id && !isTransform t.id)

/-- The members whose stores may stand in a store buffer: those in their slots and those that are spilled, which leaves their lines where
they are. -/
def State.storers (s : State) (id : Nat) : List Thread :=
  s.nodeThreads id ++ (s.nodes.filter (fun n => n.id = id)).flatMap (fun n => n.saved.map (·.thr))

/-- Store-buffer entries that the release of a node's end covers (R128, R252). -/
def State.nodeLines (s : State) (id : Nat) (p : SbEntry → Bool) : Bool :=
  (s.storers id).any (fun t => (s.sbOf t.id.core).any (fun x => covered t .dv x && p x))

/-- The agents that work for the members of a node. -/
def Node.agent (n : Node) : Agent → Bool
  | .slot id => n.members.any (fun m => m.id = id)
  | .tile id _ _ => n.members.any (fun m => m.id = id)
  | .node id => id = n.id
  | .cmd _ => false
  | .port _ => false
  | .walker _ => false

/-- Writes of those agents that another package has still to perform. -/
def State.nodeWrites (s : State) (n : Node) : Bool :=
  s.fabric.items.any (fun i => match i.req with
    | .write a => n.agent a
    | _ => false)

/-- What those agents have asked for, or been answered with, is no longer wanted. -/
def State.dropAgents (s : State) (p : Agent → Bool) : State :=
  { s with fabric := { s.fabric with
    got := s.fabric.got.filter (fun g => !p g.who)
    items := s.fabric.items.map (fun i => match i.req with
      | .read a => if p a then { i with stale := true } else i
      | _ => i) } }

/-- Guards still outstanding are dropped (R230). -/
def State.dropGuards (s : State) (id : Nat) : State :=
  { s with reservations := s.reservations.filter (fun r => r.node ≠ id), heldWrites := s.heldWrites.filter (fun w => w.node ≠ id) }

/-- Bound descriptors counted out of their banks (R321). -/
def State.unbindAll (s : State) (l : List (Nat × Nat)) : State := l.foldl (fun s b => s.countBound (some b) (· - 1)) s

/-- Tiles, lane groups, barrier counters and crossbar claims of a node cleared (R34, R36, R219 step 1). -/
def State.clearClaims (s : State) (id : Nat) : State :=
  let mine := (s.nodeThreads id).map (·.id)
  let owned := fun (o : Option SlotId) => match o with
    | some x => mine.contains x
    | none => false
  State.dropImages { s with
    tiles := s.tiles.filter (fun x => !owned x.2.owner)
    groups := s.groups.filter (fun x => !owned x.2.owner)
    jobs := s.jobs.map (fun x => (x.1, x.2.filter (fun j => j.node ≠ id)))
    barriers := s.barriers.filter (fun x => x.2.node ≠ some id)
    counters := s.counters.filter (fun x => x.2.node ≠ some id)
    terms := s.terms.filter (fun x => x.2.node ≠ some id) }

/-- The node's leases end (R261, R288). -/
def State.endLeases (s : State) (n : Node) : State :=
  let d := (n.grants.filterMap (·.obj)).foldl (fun d o => d.updObj o (fun x => { x with leases := x.leases - 1 })) s.dir
  (s.withDir d).reclaim

/-- The node is gone: its slots are free, and no list of a unit names it. -/
def State.forget (s : State) (n : Node) : State :=
  let ids := (s.nodeThreads n.id).map (·.id)
  let s := ids.foldl (fun s id => s.dropThread id) s
  let x := s.die n.die
  let x := { x with pool := x.pool.filter (· ≠ n.id), deferred := x.deferred.filter (· ≠ n.id),
                    reserving := x.reserving.filter (fun r => r.node ≠ n.id) }
  { s.setDie n.die x with
    nodes := s.nodes.filter (fun m => m.id ≠ n.id)
    spillQueue := s.spillQueue.filter (fun i => !ids.contains i)
    owners := s.owners.filter (fun o => o.node ≠ n.id)
    dir := { s.dir with waits := s.dir.waits.filter (fun w => !ids.contains w.slot) } }

/-- The end report of a node by a cause: a SUB 0x00 record (R309, R367); its word 3 is 0 in a protected world (R350). -/
def State.endRecord (s : State) (n : Node) (e : Ending) : State :=
  let info := if e.before then 0 else e.member.slot + 2 ^ 8 * e.cls.toNat
  s.nodeRecord n info 0x00 e.cause.code (2 ^ 32 * n.id + (if e.before then 0 else coordWord e.member.core)) e.pc.toNat
    (if s.protectedWorld n.world then 0 else e.eval.toNat)

/-- MSI-X after the status record (R343); dropped while the port's function is in reset (R346). -/
def State.signalHost (s : State) (n : Node) : State :=
  match n.msix with
  | none => s
  | some (port, vec) => if s.fabric.inReset.contains port then s else s.emit (.msix port vec)

/-- The debug sessions that parked a member of the node are told (R362). -/
def State.tellSessions (s : State) (id : Nat) : State :=
  (s.nodeThreads id).foldl (fun s t => if t.run = .parked then s.emit (.told t.id) else s) s

/-- What the node held is cleared: bound descriptors, tiles, groups, counters, claims and guards, and what its members have asked of
other packages. -/
def State.clearNode (s : State) (n : Node) : State :=
  (((s.unbindAll n.binds).clearClaims n.id).dropGuards n.id).dropAgents n.agent

/-- Every member of a node has executed NEND. -/
def Node.allEnded (n : Node) : Bool := n.phase = .running && n.members.all (·.ended)

/-- The lines that the release of a node's end covers sent. -/
def State.sendNodeLines (s : State) (id : Nat) : State :=
  (s.storers id).foldl (fun s t => s.sbSend t.id.core (covered t .dv)) s

/-- The base of a member's save area: physical, aligned to 4 KiB (R311). -/
def Thread.area (t : Thread) : Nat := bits t.savea.toNat 51 12 * 2 ^ 12 + t.rank * 0x110000

/-- The spill engine of the slot's cluster serves this slot: requests are taken in order of arrival (R312). -/
def State.beingSpilled (s : State) (slot : SlotId) : Bool :=
  s.spillQueue.find? (fun i => clusterOf i.core = clusterOf slot.core) = some slot

/-- A part of a save area that lies in HBM becomes a free value. -/
def State.undefineArea (s : State) (pa n : Nat) : State :=
  if pa + n ≤ Config.hbmBytes then
    s.used.perform (.hbm pa) ((List.range n).map (fun i => Config.undefinedByte (0x200000 * s.fresh + i)))
  else s

/-- A spill that meets the node's end is abandoned, and what its area holds, with every image that the slot's tiles and groups may
have there, is a free value (R313, log 16). -/
def State.abandonSpill (s : State) (n : Node) : State :=
  n.spillAsked.foldl (fun s id =>
    match s.thread? id with
    | none => s
    | some t =>
      if s.beingSpilled id then
        let owned := fun (o : Option SlotId) => decide (o = some id)
        let tiles := ((s.tiles.map (·.2)).filter (fun x => owned x.owner)).map (fun x => roundUp (imageBytes x.canon) 64)
        let groups := ((s.groups.map (·.2)).filter (fun x => owned x.owner)).length
        s.undefineArea t.area (0x1480 + tiles.foldl (· + ·) 0 + 1344 * groups)
      else s) s

/-! ### The steps of a node's end, one after the other (R219) -/

/-- The end of a node goes on with a step. -/
def State.endAt (s : State) (n : Node) (f : Finishing) : State :=
  { s with nodes := s.nodes.map (fun m => if m.id = n.id then { m with ends := some f } else m) }

/-- A command of the node has written a part of its chunk: it stops at the next chunk boundary (R219). -/
def State.midChunk (s : State) (id : Nat) : Bool := s.cmds.any (fun c => c.node = id && c.st = .running && c.sent ≠ 0)

/-- Engine commands settled (R219, R359): copies and transforms stop without pulse or notify, and each seal that has not completed
writes an abort record first, unless that fails. A node that ends by NEND has only held ones left. -/
def settleStep (n : Node) (f : Finishing) (s : State) : Out :=
  match f.cause with
  | none => .next ((s.cancel (fun c => c.node = n.id)).endAt n { f with step := .clear })
  | some e =>
    if s.midChunk n.id then notEnabled "NODE_END"
    else match s.cmds.find? (fun c => c.node = n.id && c.kind = .seal_ && (c.st = .queued || c.st = .running)) with
      | none => .next (((s.cancel (fun c => c.node = n.id)).abandonSpill n).endAt n { f with step := .clear })
      | some c =>
        match s.abortStep e.cause.code c with
        | .go _ t => .next (t.cancel (fun x => x.id = c.id))
        | .asked t => .next t
        | .hold => notEnabled "NODE_END"
        | .fabric _ _ => notEnabled "NODE_END"
        | .fail x =>
          if x = .mcheck ∧ c.retried = false then .next ((s.putCmd { c with retried := true }).dropGot (.cmd c.id))
          else .next (s.cancel (fun x => x.id = c.id))

/-- Every write that the end releases is performed; then the node's leases end, in the order of the directory's operations, so that no
reclaim record is posted before (R289, R290). -/
def releaseStep (n : Node) (f : Finishing) (s : State) : Out :=
  if s.nodeLines n.id (fun x => !x.sent) then .next (s.sendNodeLines n.id)
  else if s.nodeLines n.id (fun _ => true) || s.nodeWrites n then notEnabled "NODE_END"
  else if n.grants.all (fun g => g.obj.isNone) then .next (s.endAt n { f with step := .status })
  else if s.dirTurn (.end_ n.id) then .next (((s.dirServed (.end_ n.id)).endLeases n).endAt n { f with step := .status })
  else if s.dir.queue.contains (.end_ n.id) then notEnabled "NODE_END"
  else .next (s.dirAwait (.end_ n.id))

/-- The status record (R217, R343): NODEID, DONE, the cause, and a PC. A STAT that its world may not write takes none. -/
def statusStep (n : Node) (f : Finishing) (s : State) : Out :=
  let done := fun (s : State) => Host.Outcome.next (s.endAt n { f with step := .signal })
  let code := match f.cause with
    | some e => e.cause.code
    | none => 0
  if n.stat = 0 then done s
  else match s.engineWriteRange (State.nodeUser n) n.stat (toBytes 8 (n.id * 2 ^ 32 + 2 ^ 8 + code) ++ toBytes 8 f.pc.toNat) with
    | .done _ t => done t
    | .fail _ _ _ _ => done s
    | .hold _ (some t) => .next t
    | .hold _ none => notEnabled "NODE_END"

/-- The cluster's fault unit takes no record about the node now (R309). -/
def State.recordsFull (s : State) (n : Node) : Bool :=
  match n.recordUnit with
  | .fault cl => s.faultUnitFull cl
  | .lease _ => false
  | .directory => false
  | .port => false

/-- The status record is performed: MSI-X, the record of an end by a cause, and the word to the debug sessions follow it. -/
def signalStep (n : Node) (f : Finishing) (s : State) : Out :=
  if s.writesOut (.node n.id) then notEnabled "NODE_END"
  else match f.cause with
    | none => .next ((s.signalHost n).endAt n { f with step := .list })
    | some e =>
      if s.recordsFull n then notEnabled "NODE_END"
      else .next ((((s.signalHost n).endRecord n e).tellSessions n.id).forget n)

/-- The pointers of a successor list: the first zero entry ends it. -/
def succPtrs (l : List Byte) : Nat → Nat → List DWord
  | 0, _ => []
  | k + 1, i => if wordAt l i = 0 then [] else BitVec.ofNat 64 (wordAt l i) :: succPtrs l k (i + 1)

/-- The successor list of a node that ended by NEND; one that cannot be read has no successors (log 67). -/
def listStep (n : Node) (f : Finishing) (s : State) : Out :=
  let done := fun (l : List DWord) (s : State) => Host.Outcome.next ((s.dropGot (.node n.id)).endAt n { f with step := .deps l })
  if n.succ = 0 then done [] s
  else match s.engineReadRange (State.nodeUser n) n.succ 128 with
    | .done l t => done (succPtrs l 16 0) t
    | .fail _ _ _ _ => done [] s
    | .hold _ (some t) => .next t
    | .hold _ none => notEnabled "NODE_END"

/-- A successor's record refused, or its DEPS found zero (R219). -/
def State.successorRecord (s : State) (n : Node) (info : Nat) (c : Cause) (succ p : Nat) : State :=
  s.nodeRecord n info 0x05 c.code succ p 0

/-- What the work on one successor gives. -/
inductive SuccStep where
  | done (s : State)
  /-- Its DEPS has reached zero. -/
  | due (s : State)
  /-- It cannot be done yet; and the state in which what it needs has been asked for. -/
  | hold (next : Option State)

/-- What the old value of DEPS decides; the record about one that was zero names the successor by its NODEID. -/
def State.decremented (s : State) (n : Node) (p : DWord) (old : Nat) : SuccStep :=
  if old = 1 then .due s
  else if old ≠ 0 then .done s
  else match s.engineRead (State.nodeUser n) (adv p 72) 4 with
    | .done l s => .done (s.successorRecord n 0 .operand (ofBytes l) p.toNat)
    | .fail _ _ _ _ => .done (s.successorRecord n 0 .operand 0 p.toNat)
    | .hold _ t => .hold t

/-- DEPS of one successor decremented at its home by one atomic operation (R219 step 3). A pointer that is misformed, that does not
translate, or whose home refuses the access has no DEPS to decrement: a record with INFO 1 carries the cause (log 114). -/
def State.decrement (s : State) (n : Node) (p : DWord) : SuccStep :=
  let u := State.nodeUser n
  let refused := fun (c : Cause) (s : State) => SuccStep.done (s.successorRecord n 1 c 0 p.toNat)
  if !ptrValid p || p.toNat % 4 ≠ 0 then refused .align s
  else match s.engineLane u (adv p 32) 4 .atomic with
    | (.error (c, _), s) => refused c s
    | (.ok r, s) =>
      if !(s.admits u.world r.home r.leaf true true false && s.onRoster u.world r.home) then refused .world s
      else if s.snooped r then .hold none
      else match s.homeCheck none r.home 4 true false with
        | .wait => .hold none
        | .refuse c => refused c s
        | .ok =>
          match s.revivalOf r with
          | some t => .hold (some t)
          | none =>
            match r.home with
            | .peer pkg pa =>
              (match s.peerStep u.who u.world pkg pa (some .dec) with
               | .got v => (s.markWrite r).decremented n p (v.toNat % 2 ^ 32)
               | .broken => refused .mcheck s
               | .hold _ t => .hold t)
            | .host port bus =>
              if s.hostSilent port bus then .done s
              else
                let old := (List.range 4).map (Config.remoteByte s.fresh)
                (((s.markWrite r).used.emit (.hostAtomic port bus .dec)).tripWritten r.home .dec old).decremented n p (ofBytes old)
            | .ctl _ => refused .operand s
            | h =>
              let s := s.markWrite r
              if s.badAt h 4 || s.tagFails h 4 then refused .mcheck s
              else
                let cl := clusterOf u.slot.core
                let (old, s) := (s.cacheDrop cl h.line).atomicAt cl (s.targetWorld h r.leaf) h .dec
                s.decremented n p old

/-- The next successor's DEPS. -/
def depsStep (n : Node) (f : Finishing) (l : List DWord) (s : State) : Out :=
  match l with
  | [] => .next (s.endAt n { f with step := .submit })
  | p :: rest =>
    if s.recordsFull n then notEnabled "NODE_END"
    else match s.decrement n p with
    | .done t => .next ((t.dropGot (.node n.id)).endAt n { f with step := .deps rest })
    | .due t => .next ((t.dropGot (.node n.id)).endAt n { f with step := .deps rest, due := f.due ++ [p] })
    | .hold (some t) => .next t
    | .hold none => notEnabled "NODE_END"

/-- A successor whose DEPS has reached zero is checked as SPAWN checks it, and submitted once the pool or the deferred list has room
(R219 step 4, R260). -/
def State.submitSuccessor (s : State) (n : Node) (p : DWord) : SuccStep :=
  let u := State.nodeUser n
  let refused := fun (c : Cause) => SuccStep.done (s.successorRecord n 1 c 0 p.toNat)
  match s.engineReadRange u p 128 with
  | .hold _ t => .hold t
  | .fail c _ _ _ => refused c
  | .done l s =>
    match checkRecord (!n.service) n.world n.asid l p with
    | .error c => refused c
    | .ok m =>
      if s.poolFull n.die && s.deferredFull n.die then .hold none
      else match s.engineLane u (adv p 72) 8 .engRead with
        | (.error (c, _), _) => refused c
        | (.ok r, s) =>
          match s.hardwareWrite u.who (clusterOf u.slot.core) u.world r (toBytes 8 s.nodeId.toNat) with
          | .done _ t => .done (t.admitNode n.die m)
          | .hold _ t => .hold t
          | .fail c _ _ _ => refused c

/-- The next successor that is due, or the node's end is complete. -/
def submitStep (n : Node) (f : Finishing) (s : State) : Out :=
  match f.due with
  | [] => .next (s.forget n)
  | p :: rest =>
    if s.recordsFull n then notEnabled "NODE_END"
    else match s.submitSuccessor n p with
    | .done t => .next ((t.dropGot (.node n.id)).endAt n { f with due := rest })
    | .due t => .next t
    | .hold (some t) => .next t
    | .hold none => notEnabled "NODE_END"

/-- The next step of a node's end. -/
def endingStep (n : Node) (f : Finishing) (s : State) : Out :=
  match f.step with
  | .settle => settleStep n f s
  | .clear => .next ((s.clearNode n).endAt n { f with step := .release })
  | .release => releaseStep n f s
  | .status => statusStep n f s
  | .signal => signalStep n f s
  | .list => listStep n f s
  | .deps l => depsStep n f l s
  | .submit => submitStep n f s

/-- How a node's end begins: by its cause, or once every member has executed NEND. -/
def Node.finishing (n : Node) : Option Finishing :=
  match n.ending with
  | some e => some { cause := some e, pc := e.pc, step := .settle, due := [] }
  | none => if n.allEnded then some { cause := none, pc := n.nendPc, step := .settle, due := [] } else none

/-- NODE_END (R219): the next step of the end of a node, which begins after the cycle of its cause (R367). -/
def execNodeEnd (node : Nat) (s : State) : Out :=
  match s.node? node with
  | none => notEnabled "NODE_END"
  | some n =>
    match n.ends with
    | some f => endingStep n f s
    | none => match n.finishing with
      | some f => if n.ending.isSome && !s.shut n then notEnabled "NODE_END" else .next (s.endAt n f)
      | none => notEnabled "NODE_END"

end Sys2Proof.Machine
end

