-- ==== Sys2Proof/Machine/Lease.lean ====
section
/-!
DEFINITION. The deferred list and the lease unit of a die (spec/14_scheduler.md R260 to R262, spec/10_system_instr.md R217).
-/
namespace Sys2Proof.Machine

/-- DEFERRED_DRAIN (R260): the head of the deferred list enters the pool. -/
def execDeferredDrain (d : Nat) (s : State) : Out :=
  let x := s.die d
  match x.deferred with
  | [] => notEnabled "DEFERRED_DRAIN"
  | id :: rest =>
    if s.poolFull d then notEnabled "DEFERRED_DRAIN"
    else match s.node? id with
      | none => .next (s.setDie d { x with deferred := rest })
      | some n => .next ((s.setDie d { x with deferred := rest, pool := x.pool ++ [id] }).setNode { n with phase := .leasing })

/-! ## Lease entries (R217) -/

/-- A lease entry with V set. -/
structure LeaseEntry where
  base : DWord
  rw : Bool
  hform : Bool
  len : Nat
  deriving DecidableEq, Repr

/-- The entries with V set of a lease table's bytes; none when one has a reserved bit set or, with HFORM 0, length 0 (R262). -/
def leaseEntries (l : List Byte) : Nat → Option (List LeaseEntry)
  | 0 => some []
  | k + 1 =>
    let w := wordAt l (2 * (7 - k) + 1)
    let b := wordAt l (2 * (7 - k))
    if !bit w 63 then leaseEntries l k
    else if bits w 60 48 ≠ 0 ∨ (bit w 61 = false ∧ (bits b 63 55 ≠ 0x80 ∨ bits w 47 0 = 0)) then none
    else (leaseEntries l k).map
      ({ base := BitVec.ofNat 64 b, rw := bit w 62, hform := bit w 61, len := bits w 47 0 } :: ·)

/-- The ranges of an object's first n bytes, extent by extent. -/
def extentRanges : List (DWord × Nat) → Nat → List (Nat × Nat)
  | [], _ => []
  | (p, len) :: l, n => if n = 0 then [] else ((ptrVa p).toNat, min n len) :: extentRanges l (n - len)

/-! ## Pinning (R261, R262, R302) -/

/-- What the lease unit makes of a table, or of a part of it. -/
inductive Leasing (α : Type) where
  | ok (v : α) (s : State)
  /-- A page cannot be had as it stands: the node waits, and this is the translation word of its record. -/
  | waits (w : DWord)
  /-- The node ends before launch. -/
  | ends (c : Cause)
  /-- What the unit needs is not at hand; and the state in which it has just been asked for. -/
  | hold (next : Option State)

/-- The reason of R302 for which a page does not let a lease have what it asks for. -/
def leaseDenies (user rw : Bool) (w : DWord) : Option Nat :=
  if !pteRead w then some 2 else if rw && !pteWrite w then some 3 else if user && !pteUser w then some 5 else none

/-- A leaf pinned as it stands: A set, and D for an `rw` lease; a discarded page is revived (R261, R301). -/
def State.pinLeaf (s : State) (l : Leaf) (rw : Bool) : Leaf × State :=
  let s := s.setLeaf l 0 0x40
  let s := if pteDisc l.word then s.revive l else s
  let s := if rw && !(s.pte l.addr).getLsbD 7 then s.setLeaf l 0 0x80 else s
  ({ l with word := s.pte l.addr }, s)

/-- The pages of a range pinned from an address up. A page of control space, or for `rw` a compressed one, ends the node (R262,
R304). -/
def pinPages (asid : BitVec 16) (user rw : Bool) (fin : Nat) : Nat → Nat → List Leaf → State → Leasing (List Leaf)
  | 0, _, acc, s => .ok acc.reverse s
  | fuel + 1, va, acc, s =>
    if fin ≤ va then .ok acc.reverse s
    else match s.walk asid va with
      | .error (level, reason) => .waits (transWord level .engRead reason va)
      | .ok l =>
        let next := (l.vpn + 1) * 2 ^ pageBits l.level
        if (rw && pteComp l.word) || pteMtype l.word = 3 then .ends .lease
        else match leaseDenies user rw l.word with
          | some r => .waits (transWord l.level .engRead r va)
          | none =>
            if !frameOk l.word (l.pa (min next fin - 1)) then .waits (transWord l.level .engRead 7 va)
            else match s.revivalOf { home := l.home va, ea := vaPtr va, n := 1, leaf := some l } with
              | some t => .hold (some t)
              | none => let (m, s) := s.pinLeaf l rw; pinPages asid user rw fin fuel next (m :: acc) s

/-- The grants of a list of ranges; past the end of the address space no page is resident (log 80). -/
def grantRanges (asid : BitVec 16) (user rw : Bool) : List (Nat × Nat) → Option Nat → List Grant → State → Leasing (List Grant)
  | [], _, acc, s => .ok acc.reverse s
  | (base, len) :: l, obj, acc, s =>
    if 2 ^ 55 < base + len then .waits (transWord 0 .engRead 1 0)
    else match pinPages asid user rw (base + len) (len / 65536 + 2) base [] s with
      | .waits w => .waits w
      | .ends c => .ends c
      | .hold t => .hold t
      | .ok pins s => grantRanges asid user rw l none ({ base := base, len := len, rw := rw, pins := pins, obj := obj } :: acc) s

/-- The entries of a table granted in order. -/
def grantEntries (n : Node) : List LeaseEntry → List Grant → State → Leasing (List Grant)
  | [], acc, s => .ok acc s
  | e :: l, acc, s =>
    let add := fun (ranges : List (Nat × Nat)) (obj : Option Nat) =>
      match grantRanges n.asid (!n.service) e.rw ranges obj [] s with
      | .waits w => Leasing.waits w
      | .ends c => .ends c
      | .hold t => .hold t
      | .ok g s => grantEntries n l (acc ++ g) s
    if e.hform then
      match s.dir.check n.asid e.base with
      | .error _ => .ends .directory
      | .ok o => if o.len < e.len then .ends .lease else add (extentRanges o.extents (if e.len = 0 then o.len else e.len)) (some o.idx)
    else add [((ptrVa e.base).toNat, e.len)] none

/-- The lease unit reads a table as world 1 (R347). -/
def leaseUser (n : Node) : EngineUser := { State.nodeUser n with world := 1, slot := ⟨1024 * n.die, 0⟩ }

/-- The lease table of a node read. One that cannot be read keeps the node waiting (R262, log 80). -/
def State.readTable (s : State) (n : Node) : Leasing (List Byte) :=
  if n.ltab = 0 then .ok (List.replicate 128 0) s
  else match s.engineReadRange (leaseUser n) n.ltab 128 with
    | .done l s => .ok l (s.dropGot (leaseUser n).who)
    | .hold _ t => .hold t
    | .fail .lease w _ _ => .waits w
    | .fail _ _ _ _ => .waits (transWord 0 .engRead 1 (ptrVa n.ltab).toNat)

/-- The service cores of a cluster, and its compute cores. -/
def State.isService (s : State) (core : Nat) : Bool := s.serviceCores.contains core
def State.coresOf (s : State) (cl : Nat) (service : Bool) : List Nat :=
  ((List.range 64).map (64 * cl + ·)).filter (fun c => s.isService c = service)

/-- No cluster can ever hold the node (R266, R277). -/
def State.tooWide (s : State) (n : Node) : Bool :=
  (List.range Config.clusters).all (fun cl => decide ((s.coresOf cl n.service).length < n.width))

/-- A node that ends before launch (R262): NODE_END writes its status record. -/
def State.endBefore (s : State) (n : Node) (c : Cause) : State :=
  s.endNode n.id { cause := c, cls := 0, member := ⟨0, 0⟩, pc := 0, eval := 0, before := true, row := 0 }

/-- The node waits for the OS: its record says which page it waits for, and why (R261, R309). -/
def State.awaitPage (s : State) (n : Node) (w : DWord) : State :=
  (s.post { unit := .lease n.die, ring := s.ringOf n.asid, w0 := recordWord0 0 n.asid 0x02 0, w1 := BitVec.ofNat 64 (2 ^ 32 * n.id),
            w2 := 0, w3 := w }).setNode { n with phase := .pageWait }

/-- Nodes for which a die's lease unit waits. -/
def State.pageWaits (s : State) (d : Nat) : Nat := s.nodes.countP (fun n => n.die = d && n.phase = .pageWait)

/-- Every entry is granted: the node becomes READY, and its leases count in their objects (R261, R288). -/
def State.becomeReady (s : State) (n : Node) (g : List Grant) : State :=
  let d := (g.filterMap (·.obj)).foldl (fun d o => d.updObj o (fun x => { x with leases := x.leases + 1 })) s.dir
  (s.withDir d).setNode { n with phase := .ready, readyAt := s.clock, waitsFrom := s.clock, grants := g }

/-- The entries of a node's table granted; those that name objects are one directory operation, which has its turn (R289). -/
def grantTable (n : Node) (es : List LeaseEntry) (s : State) : Out :=
  if es.any (·.hform) && !s.dirTurn (.lease n.id) then
    if s.dir.queue.contains (.lease n.id) then notEnabled "LEASE_GRANT" else .next (s.dirAwait (.lease n.id))
  else
    let s := s.dirServed (.lease n.id)
    match grantEntries n es [] s with
    | .waits w => .next (s.awaitPage n w)
    | .ends c => .next (s.endBefore n c)
    | .hold (some t) => .next (if es.any (·.hform) then t.dirFirst (.lease n.id) else t)
    | .hold none => notEnabled "LEASE_GRANT"
    | .ok g t => .next (t.becomeReady n g)

/-- LEASE_GRANT (R261, R262): the lease unit works through a node's table. -/
def execLeaseGrant (node : Nat) (s : State) : Out :=
  match s.node? node with
  | none => notEnabled "LEASE_GRANT"
  | some n =>
    if n.phase ≠ .leasing ∨ n.closing ∨ Config.leaseUnitNodes ≤ s.pageWaits n.die then notEnabled "LEASE_GRANT"
    else if s.tooWide n then .next (s.endBefore n .operand)
    else match s.readTable n with
      | .hold (some t) => .next t
      | .hold none => notEnabled "LEASE_GRANT"
      | .waits w => .next (s.awaitPage n w)
      | .ends c => .next (s.endBefore n c)
      | .ok l t =>
        match leaseEntries l 8 with
        | none => .next (s.endBefore n .operand)
        | some es => grantTable n es t

end Sys2Proof.Machine
end

