-- ==== Sys2Proof/Machine/Sched.lean ====
section
/-!
DEFINITION. The dispatcher of a die and the launch of a node (spec/14_scheduler.md R263 to R267, R275,
spec/01_machine_state.md R13, R25, R26, R38).
-/
namespace Sys2Proof.Machine

/-! ## Places (R266, R276) -/

/-- A node has been given this slot and does not run there yet. -/
def Node.placedOn (n : Node) (id : SlotId) : Bool :=
  n.phase = .placed && n.members.any (fun m => m.id = id && !m.ended && (n.saved.isEmpty || m.spilled))

/-- A slot that no node occupies, on a core in service. -/
def State.slotFree (s : State) (id : SlotId) : Bool :=
  !(s.core id.core).fenced && (s.thread? id).isNone && !s.nodes.any (·.placedOn id)

/-- Another node's reservation of a cluster at a slot index (R265, R275). -/
def State.reservedByOther (s : State) (d node cl slot : Nat) : Bool :=
  (s.die d).reserving.any (fun r => r.cl = cl && r.slot = slot && r.node ≠ node)

/-- The free cores of a kind of a cluster at a slot index. -/
def State.freeCores (s : State) (cl slot : Nat) (service : Bool) : List Nat :=
  (s.coresOf cl service).filter (fun c => s.slotFree ⟨c, slot⟩)

/-- The clusters of a die with the slot indices. -/
def dieSlots (d : Nat) : List (Nat × Nat) := (List.range 16).flatMap (fun q => (List.range 8).map (fun x => (16 * d + q, x)))

/-- The place for which a running node was spilled: the waiting node goes there (R275). -/
def State.spilledFor (s : State) (n : Node) (cl slot : Nat) : Bool :=
  let mine := (s.die n.die).reserving.filter (fun r => r.node = n.id && r.victim.isSome)
  mine.isEmpty || mine.any (fun r => r.cl = cl && r.slot = slot)

/-- Where a node can be placed: cluster, slot index and the free cores there (R266). -/
def State.placements (s : State) (n : Node) : List (Nat × Nat × List Nat) :=
  (((dieSlots n.die).filter (fun x => !s.reservedByOther n.die n.id x.1 x.2 && s.spilledFor n x.1 x.2)).map
    (fun x => (x.1, x.2, s.freeCores x.1 x.2 n.service))).filter (fun x => decide (n.width ≤ x.2.2.length))

/-- Some k of a list of cores in ascending order; which ones is free (log 12). -/
def pickCores (f : Nat → Nat) : Nat → List Nat → List Nat
  | _, [] => []
  | k, c :: l => if k = 0 then [] else if l.length < k ∨ f c % 2 = 0 then c :: pickCores f (k - 1) l else pickCores f k l

/-- The placement chosen for a node (R266, log 12): the slots of its members in order of rank. -/
def State.choosePlace (s : State) (n : Node) : Option (List SlotId) :=
  let opts := s.placements n
  match opts[Config.placement (16384 * s.fresh) % opts.length]? with
  | none => none
  | some (_, slot, cores) =>
    some ((pickCores (fun c => Config.placement (16384 * s.fresh + 1 + c)) n.width cores).map (fun c => ⟨c, slot⟩))

/-! ## Who waits (R263, R276) -/

/-- The node is READY. -/
def Node.waits (n : Node) : Bool := n.phase = .ready && !n.closing

/-- The node has spilled members, none that is still being spilled, and waits to resume. -/
def Node.resumes (n : Node) : Bool :=
  !n.saved.isEmpty && n.spillAsked.isEmpty && !n.closing && (n.phase = .spilled || n.phase = .running)

/-- The slots that a resuming node needs. -/
def Node.home (n : Node) : List SlotId := (n.members.filter (·.spilled)).map (·.id)

/-- A resuming node's own slots are free and not reserved for others. -/
def State.homeFree (s : State) (n : Node) : Bool :=
  n.home.all (fun id => s.slotFree id && !s.reservedByOther n.die n.id (clusterOf id.core) id.slot)

/-- A waiting node has a placement. -/
def State.fits (s : State) (n : Node) : Bool := if n.resumes then s.homeFree n else !(s.placements n).isEmpty

/-- The nodes of a die that wait. -/
def State.waiting (s : State) (d : Nat) : List Node := s.nodes.filter (fun n => n.die = d && (n.waits || n.resumes))

/-- The better of two nodes by a list of keys, the lower first. -/
def lexLess : List Nat → List Nat → Bool
  | [], _ => false
  | _ :: _, [] => true
  | a :: l, b :: m => decide (a < b) || (a == b && lexLess l m)

/-- The node with the least key. -/
def leastBy (key : Node → List Nat) : List Node → Option Node
  | [] => none
  | n :: l => match leastBy key l with
    | none => some n
    | some m => if lexLess (key m) (key n) then some m else some n

/-! ## Deficit round robin (R264) -/

/-- D of an address space. -/
def ClassList.deficit (c : ClassList) (a : BitVec 16) : Int := assocD c.deficits a 0
def ClassList.setDeficit (c : ClassList) (a : BitVec 16) (d : Int) : ClassList := { c with deficits := assocSet c.deficits a d }

/-- The pointer moves onto an address space. -/
def ClassList.onto (c : ClassList) (a : BitVec 16) : ClassList :=
  { c.setDeficit a (min (c.deficit a + Config.quantum) Config.quantum) with ptr := some a }

/-- The listed address spaces after one, in list order, wrapping at the tail. -/
def ClassList.after (c : ClassList) (a : BitVec 16) : List (BitVec 16) :=
  (c.active.dropWhile (· ≠ a)).tail ++ c.active.takeWhile (· ≠ a)

/-- An address space without waiting nodes leaves the list. -/
def ClassList.leave (here : List (BitVec 16)) (c : ClassList) (a : BitVec 16) : ClassList :=
  if here.contains a then c
  else
    let c := if c.ptr = some a then
        match (c.after a).filter here.contains with
        | b :: _ => c.onto b
        | [] => { c with ptr := none }
      else c
    { c.setDeficit a (min (c.deficit a) 0) with active := c.active.filter (· ≠ a) }

/-- An address space joins the tail; the pointer of an empty list moves onto it. -/
def ClassList.join (c : ClassList) (a : BitVec 16) : ClassList :=
  if c.active.contains a then c
  else
    let c := { c with active := c.active ++ [a] }
    if c.ptr = none then c.onto a else c

/-- Nodes sorted by a key. -/
def insertNode (key : Node → List Nat) (n : Node) : List Node → List Node
  | [] => [n]
  | m :: l => if lexLess (key n) (key m) then n :: m :: l else m :: insertNode key n l
def sortNodes (key : Node → List Nat) (l : List Node) : List Node := l.foldr (insertNode key) []

/-- The address spaces of waiting nodes in the order they join: by cycle, then by ASID. -/
def joiners (l : List Node) : List (BitVec 16) := (sortNodes (fun n => [n.waitsFrom, n.asid.toNat]) l).map (·.asid)

/-- The list of a class brought up to date with the nodes that wait. -/
def ClassList.relist (c : ClassList) (nodes : List Node) : ClassList :=
  let here := nodes.map (·.asid)
  (joiners nodes).foldl ClassList.join (c.active.foldl (ClassList.leave here) c)

/-- The round from the designated address space on: the first one that can be served. -/
def ClassList.serve (can : BitVec 16 → Bool) : List (BitVec 16) → ClassList → Option (BitVec 16) × ClassList
  | [], c => (none, c)
  | a :: l, c =>
    let c := if c.ptr = some a ∧ l.length = c.active.length then c else c.onto a
    if 0 < c.deficit a ∧ can a then (some a, c) else ClassList.serve can l c

/-- One class asked for an address space to serve; the advance may come back to where it began. -/
def ClassList.choose (c : ClassList) (can : BitVec 16 → Bool) : Option (BitVec 16) × ClassList :=
  match c.ptr with
  | none => (none, c)
  | some a => c.serve can (a :: c.after a ++ [a])

/-- The key of a compute node within its address space, and of a service node (R263). -/
def computeKey (n : Node) : List Nat := [n.stage.toNat, n.readyAt, n.id]
def serviceKey (n : Node) : List Nat := [n.prio.toNat, n.stage.toNat, n.readyAt, n.id]

/-- The classes asked in order; each keeps what the round did to it. -/
def chooseClass (nodes : List Node) : Nat → List ClassList → Option Node × List ClassList
  | _, [] => (none, [])
  | k, c :: l =>
    let mine := nodes.filter (fun n => n.prio.toNat = k)
    match c.choose (fun a => mine.any (fun n => n.asid = a)) with
    | (some a, c) => (leastBy computeKey (mine.filter (fun n => n.asid = a)), c :: l)
    | (none, c) => let r := chooseClass nodes (k + 1) l; (r.1, c :: r.2)

/-! ## A decision (R263) -/

/-- The node leaves for its slots: its pool entry is free. What is reserved for it stays so until it launches (R265). -/
def State.place (s : State) (n : Node) : State :=
  let x := s.die n.die
  let s := s.setDie n.die { x with pool := x.pool.filter (· ≠ n.id) }
  if n.resumes then s.setNode { n with phase := .placed, passedSince := none, spillAt := s.clock }
  else match s.choosePlace n with
    | none => s
    | some ids =>
      s.used.setNode { n with
        phase := .placed
        passedSince := none
        launchedAt := s.clock
        members := ids.map (fun id => { id := id, ended := false, spilled := false }) }

/-- A READY node for which no placement fits remembers since when (R265, R275). -/
def State.notePassed (s : State) (d : Nat) : State :=
  { s with nodes := s.nodes.map (fun n =>
      if n.die = d ∧ n.waits then { n with passedSince := if s.fits n then none else some (n.passedSince.getD s.clock) } else n) }

/-- DISPATCH_DECISION (R263): at most one compute node and one service node leave for their slots. -/
def execDispatchDecision (d : Nat) (s : State) : Out :=
  let x := s.die d
  let all_ := s.waiting d
  if s.clock < x.nextDecision ∨ s.trust.lock = false ∨ (all_ = [] ∧ x.classes.all (fun c => c.active.isEmpty)) then
    notEnabled "DISPATCH_DECISION"
  else
    let compute := all_.filter (fun n => !n.service)
    let lists := x.classes.mapIdx (fun k c => c.relist (compute.filter (fun n => n.prio.toNat = k)))
    let (c, lists) := chooseClass (compute.filter s.fits) 0 lists
    let v := leastBy serviceKey ((all_.filter (·.service)).filter s.fits)
    let s := (s.notePassed d).setDie d { x with classes := lists, nextDecision := s.clock + 16 }
    let put := fun (s : State) (n : Option Node) => match n.bind (fun n => s.node? n.id) with
      | some n => s.place n
      | none => s
    .next (put (put s c) v)

/-! ## Reservation and priority (R265, R275) -/

/-- The cluster and slot index with the most free cores, the lowest first on a tie. -/
def mostFree : List (Nat × Nat × Nat) → Option (Nat × Nat × Nat)
  | [] => none
  | x :: l => match mostFree l with
    | none => some x
    | some y => if x.2.2 < y.2.2 then some y else some x

/-- RESERVING (R265): each die has at most one reserving node for each class. -/
def execReserving (node : Nat) (s : State) : Out :=
  match s.node? node with
  | none => notEnabled "RESERVING"
  | some n =>
    let x := s.die n.die
    let taken := x.reserving.any (fun r => r.victim = none && (r.node = n.id ||
      (match s.node? r.node with
       | some m => m.prio = n.prio
       | none => false)))
    if !n.waits || taken || !(n.passedSince.any (fun t => decide (t + 65536 ≤ s.clock))) then notEnabled "RESERVING"
    else match mostFree ((dieSlots n.die).map (fun y => (y.1, y.2, (s.freeCores y.1 y.2 n.service).length))) with
      | none => notEnabled "RESERVING"
      | some (cl, slot, _) =>
        .next (s.setDie n.die { x with reserving := x.reserving ++ [{ node := n.id, cl := cl, slot := slot, victim := none }] })

/-- Each member of the node has a save area (R311): its slot's SAVEA, which a SYSW may have changed (R28), once its slot is launched,
and the record's before. -/
def State.spillable (s : State) (n : Node) : Bool :=
  if n.saved.isEmpty && (s.nodeThreads n.id).isEmpty then n.savea != 0
  else (s.nodeThreads n.id).all (fun t => t.run = .ended || t.savea != 0)

/-- A cluster and slot index at which the slots that a victim has and the free ones hold a waiting node. -/
def State.roomWith (s : State) (n v : Node) : Option (Nat × Nat) :=
  (dieSlots n.die).find? (fun x =>
    let got := v.members.filter (fun m => clusterOf m.id.core = x.1 && m.id.slot = x.2 && (s.thread? m.id).any (fun t => t.node = v.id))
    !got.isEmpty && !s.reservedByOther n.die n.id x.1 x.2 && decide (n.width ≤ (s.freeCores x.1 x.2 false).length + got.length))

/-- The tiles, groups and outstanding tile instructions of a slot cleared. -/
def State.dropOwned (s : State) (id : SlotId) : State :=
  State.dropImages { s with
    tiles := s.tiles.filter (fun x => x.2.owner ≠ some id)
    groups := s.groups.filter (fun x => x.2.owner ≠ some id)
    jobs := s.jobs.map (fun x => (x.1, x.2.filter (fun j => j.slot ≠ id))) }

/-- A member that has ended leaves its slot, and what it owned is cleared; its bound descriptors stay counted until its node ends
(R310, R321). -/
def State.freeEnded (s : State) (node : Nat) (id : SlotId) : State :=
  match (s.thread? id).filter (fun t => t.node = node) with
  | none => s
  | some _ => (s.dropOwned id).dropThread id

/-- The spill of every member of a node that is still running; those that have ended leave their slots (R310). -/
def State.askSpill (s : State) (n : Node) : State :=
  let ids := (n.members.filter (fun m => !m.ended && (!m.spilled || n.phase = .placed) && !n.spillAsked.contains m.id)).map (·.id)
  if ids = [] then s
  else
    let s := ((n.members.filter (·.ended)).map (·.id)).foldl (fun s id => s.freeEnded n.id id) s
    let asked := fun (m : Node) => if m.id = n.id then { m with spillAsked := m.spillAsked ++ ids, spillAt := s.clock } else m
    { s with
      nodes := s.nodes.map asked
      spillQueue := s.spillQueue ++ ids.filter (fun i => !s.spillQueue.contains i) }

/-- The running node that a priority spill takes: the highest class number first, then the most recently launched. -/
def State.victimFor (s : State) (n : Node) : Option Node :=
  (leastBy (fun v => [3 - v.prio.toNat, s.clock - v.launchedAt, v.id])
    (s.nodes.filter (fun v => v.die = n.die && v.phase = .running && !v.service && decide (n.prio.toNat < v.prio.toNat)
      && !v.closing && v.spillAsked.isEmpty && s.spillable v && v.members.any (fun m => !m.ended && !m.spilled)
      && (s.roomWith n v).isSome)))

/-- PRIORITY_SPILL (R275). -/
def execPrioritySpill (node : Nat) (s : State) : Out :=
  match s.node? node with
  | none => notEnabled "PRIORITY_SPILL"
  | some n =>
    let x := s.die n.die
    let going := x.reserving.any (fun r => r.node = n.id && (match r.victim.bind s.node? with
      | some v => !v.spillAsked.isEmpty
      | none => false))
    if n.service || !n.waits || going || !(n.passedSince.any (fun t => decide (t + 4096 ≤ s.clock))) || s.fits n then
      notEnabled "PRIORITY_SPILL"
    else match s.victimFor n with
      | none => notEnabled "PRIORITY_SPILL"
      | some v => match s.roomWith n v with
        | none => notEnabled "PRIORITY_SPILL"
        | some (cl, slot) =>
          let kept := x.reserving.filter (fun r => !(r.node = n.id && r.victim.isSome))
          .next ((s.setDie n.die { x with
            reserving := kept ++ [{ node := n.id, cl := cl, slot := slot, victim := some v.id }] }).askSpill v)

/-! ## Launch (R267) -/

/-- The identity words of a member (R26). -/
def identityWords (n : Node) (block : List Byte) (rank : Nat) (id : SlotId) : List Nat :=
  [coordWord id.core, id.slot, rank, n.width, n.stage.toNat, n.id, (wordAt block 6 + rank) % 2 ^ 64,
   if wordAt block 7 = 0 then n.width else wordAt block 7]

/-- A member's thread at its first issue (R38). -/
def launchThread (n : Node) (cstvec : DWord) (rank : Nat) (id : SlotId) (now : Nat) : Thread :=
  { Thread.vacant id with
    run := .running
    node := n.id
    role := if rank = 0 then .leader else .follower
    rank := rank
    width := n.width
    kind := n.service
    prio := n.prio
    stage := n.stage
    pc := n.entry
    status := { Status.zero with priv := if n.service then 1 else 0 }
    stvec := cstvec
    asid := n.asid
    world := n.world
    savea := n.savea
    nextIssue := now }

/-- A range of a core's LM belongs to a node from now on (R352). -/
def State.owned (s : State) (n : Node) (core off len : Nat) : State :=
  { s with owners := { core := core, off := off, len := len, node := n.id, world := n.world } :: s.owners }

/-- Steps 1 to 4 for one member: its world owns the window and the workspace (R352), and what is on its way to the core's LM is
performed before they are filled; then workspace, window, acquire, state. -/
def State.launchMember (s : State) (n : Node) (block : List Byte) (rank : Nat) (id : SlotId) : State :=
  let t := launchThread n (s.core id.core).cstvec rank id s.clock
  let s := ((s.performSent (inLm id.core)).owned n id.core (0x800 * id.slot) 0x800).owned n id.core t.wp Config.wsBytes
  let s := s.performZeros (.lm id.core t.wp) Config.wsBytes
  let s := s.perform (.lm id.core (0x800 * id.slot)) ((identityWords n block rank id).flatMap (toBytes 8) ++ block.drop 64)
  (s.acquire id.core .dv).addThread t

/-- The constant block of a node read at its home. -/
def State.readBlock (s : State) (n : Node) : EngineStep :=
  if n.cblk = 0 then .done (List.replicate 2048 0) s else s.engineReadRange (State.nodeUser n) n.cblk 2048

/-- The members of a node launched in order of rank. -/
def launchAll (n : Node) (block : List Byte) : List SlotId → Nat → State → State
  | [], _, s => s
  | id :: l, rank, s => launchAll n block l (rank + 1) (s.launchMember n block rank id)

/-- How a node that ends from outside its slots is reported (R367): member 0 with the word it would issue next, or no member while
it has not launched. -/
def State.outsideEnding (s : State) (n : Node) (c : Cause) : Ending :=
  let before : Ending := { cause := c, cls := 0, member := ⟨0, 0⟩, pc := 0, eval := 0, before := true, row := 0 }
  if !(n.phase = .running || n.phase = .spilled || !n.saved.isEmpty) then before
  else match n.members with
    | [] => before
    | m :: _ =>
      let pc := match (s.thread? m.id).filter (fun t => t.node = n.id) with
        | some t => t.pc.setWidth 64
        | none => match n.saved.find? (fun x => x.thr.id = m.id) with
          | some x => x.thr.pc.setWidth 64
          | none => n.nendPc
      { cause := c, cls := 0, member := m.id, pc := pc, eval := 0, before := false, row := 5 }

/-- An integrity failure of hardware that works for a node posts its record (R309, R314). -/
def State.nodeBroken (s : State) (n : Node) (kind pa : Nat) : State :=
  s.nodeRecord n 0 0x04 Cause.mcheck.code (2 ^ 32 * n.id + coordWord ((n.members.map (·.id.core)).headD 0)) pa kind

/-- LAUNCH (R267, R348): every member becomes ready to issue in one cycle. A constant block that the node's world cannot read
ends the node before launch (log 31). -/
def execLaunch (node : Nat) (s : State) : Out :=
  match s.node? node with
  | none => notEnabled "LAUNCH"
  | some n =>
    if n.phase ≠ .placed ∨ n.saved ≠ [] ∨ n.closing ∨ s.trust.lock = false then notEnabled "LAUNCH"
    else match s.readBlock n with
      | .hold _ (some t) => .next t
      | .hold _ none => notEnabled "LAUNCH"
      | .fail .mcheck _ kind pa =>
        if s.recordsFull n then notEnabled "LAUNCH"
        else .next ((s.nodeBroken n kind pa).endBefore n .mcheck)
      | .fail c _ _ _ => .next (s.endBefore n c)
      | .done block t =>
        let x := t.die n.die
        let t := (t.dropGot (.node n.id)).setDie n.die { x with reserving := x.reserving.filter (fun r => r.node ≠ n.id) }
        .next (launchAll n block (n.members.map (·.id)) 0 (t.setNode { n with phase := .running }))

end Sys2Proof.Machine
end

