-- ==== Sys2Proof/Machine/Workspace.lean ====
section
/-!
DEFINITION. The 2,816 bytes of a workspace (spec/01_machine_state.md R11): as the register cache writes them back and fills
itself from them (R15, R16).
-/
namespace Sys2Proof.Machine

/-- Registers of k bytes each, one after the other. -/
def regBytes (k : Nat) (l : List Nat) : List Byte := l.flatMap (toBytes k)

/-- A workspace as the bytes from WP up (R11). -/
def Workspace.bytes (w : Workspace) : List Byte :=
  regBytes 8 (w.s.toList.map BitVec.toNat) ++ regBytes 8 (w.p.toList.map BitVec.toNat)
    ++ regBytes 16 (w.loopSave.toList.map BitVec.toNat) ++ regBytes 16 (w.q.toList.map BitVec.toNat)
    ++ regBytes 8 (w.shadow.toList.map BitVec.toNat)
    ++ regBytes 8 [w.statusSave.toNat, w.himmSave.toNat, w.hfmtSave.toNat, w.hrealSave.toNat]
    ++ List.replicate 32 0 ++ regBytes 64 (w.v.toList.map BitVec.toNat)

/-- The k bytes at an offset of a workspace. -/
def fieldAt (l : List Byte) (off k : Nat) : Nat := ofBytes ((l.drop off).take k)

/-- The workspace that 2,816 bytes hold (R11); s0 is zero whatever stands there (R14, R16). -/
def Workspace.ofBytes (l : List Byte) : Workspace :=
  { s := Vector.ofFn (fun i => if i.val = 0 then 0 else BitVec.ofNat 64 (fieldAt l (8 * i.val) 8))
    p := Vector.ofFn (fun i => BitVec.ofNat 64 (fieldAt l (0x100 + 8 * i.val) 8))
    v := Vector.ofFn (fun i => BitVec.ofNat 512 (fieldAt l (0x300 + 64 * i.val) 64))
    q := Vector.ofFn (fun i => BitVec.ofNat 128 (fieldAt l (0x180 + 16 * i.val) 16))
    loopSave := Vector.ofFn (fun i => BitVec.ofNat 128 (fieldAt l (0x140 + 16 * i.val) 16))
    shadow := Vector.ofFn (fun i => BitVec.ofNat 64 (fieldAt l (0x280 + 8 * i.val) 8))
    statusSave := BitVec.ofNat 64 (fieldAt l 0x2C0 8)
    himmSave := BitVec.ofNat 64 (fieldAt l 0x2C8 8)
    hfmtSave := BitVec.ofNat 64 (fieldAt l 0x2D0 8)
    hrealSave := BitVec.ofNat 64 (fieldAt l 0x2D8 8) }

/-- The registers of a thread with its workspace filled again from LM: a debugger may have written there (R362). -/
def State.refilled (s : State) (t : Thread) : Thread :=
  { t with ws := Workspace.ofBytes (s.readBytes (.lm t.id.core t.wp) Config.wsBytes) }

end Sys2Proof.Machine
end

