-- ==== Sys2Proof/Machine/System.lean ====
section
/-!
DEFINITION. The system group, the hints, and what a slot does between two words (spec/10_system_instr.md R231 to R240,
spec/01_machine_state.md R21 to R39, spec/03_encoding.md R62 to R66, spec/02_idioms.md R47).
-/
namespace Sys2Proof.Machine

/-! ## System registers (R27 to R30) -/

/-- The code of a role (R30). -/
def Role.code : Role → Nat
  | .leader => 0
  | .follower => 1
  | .detached => 2

/-- YST and NODE (R30). -/
def Thread.yst (t : Thread) : DWord := BitVec.ofNat 64 (2 ^ 8 * t.width + 2 ^ 4 * t.rank + t.role.code)
def Thread.nodeReg (t : Thread) : DWord :=
  BitVec.ofNat 64 (2 ^ 42 * t.kind.toNat + 2 ^ 40 * t.prio.toNat + 2 ^ 32 * t.stage.toNat + t.node)

/-- The system register with an index (R27). -/
def State.sysReg (s : State) : Nat → Option DWord
  | 0x00 => some s.thr.status.toWord
  | 0x01 => some (BitVec.ofNat 64 s.thr.wp)
  | 0x02 => some s.thr.epc
  | 0x03 => some s.thr.ecause
  | 0x04 => some s.thr.eval
  | 0x05 => some s.thr.utvec
  | 0x06 => some s.thr.uivec
  | 0x07 => some s.thr.upc
  | 0x08 => some s.thr.ucause
  | 0x09 => some (s.stvecOf s.thr)
  | 0x0A => some s.thr.hbivl
  | 0x0B => some (BitVec.ofNat 64 s.thr.hbcnt)
  | 0x0C => some (BitVec.ofNat 64 s.thr.loops.length)
  | 0x0D => some s.thr.yst
  | 0x0E => some s.thr.nodeReg
  | 0x0F => some (s.thr.asid.setWidth 64)
  | 0x10 => some (s.thr.world.setWidth 64)
  | 0x11 => some s.time
  | 0x12 => some (BitVec.ofNat 64 s.windowNow)
  | 0x13 => some (s.rpr s.thr.id 0)
  | 0x14 => some (s.rpr s.thr.id 1)
  | 0x15 => some s.thr.mrstl
  | 0x16 => some s.thr.savea
  | _ => none

/-- Registers that user level may not read, and may not write (R27). -/
def readLevel (i : Nat) : Nat := if [0x02, 0x03, 0x04, 0x09].contains i then 1 else 0
def writeLevel (i : Nat) : Nat := if [0x02, 0x03, 0x04, 0x09, 0x0A, 0x0F, 0x16].contains i then 1 else 0

/-- Registers that no level may write. -/
def readOnly (i : Nat) : Bool := [0x01, 0x0B, 0x0C, 0x0D, 0x0E, 0x10, 0x11, 0x12, 0x13, 0x14].contains i

/-- SYSR (R27, R231). -/
def execSysr (d : Reg) (i : Fin 256) (s : State) : Out :=
  issueWith (.sysr d i) (fun _ => decide (0x16 < i.val)) (readLevel i.val) s fun s => retire 8 (s.setS d ((s.sysReg i.val).getD 0))

/-- The payload saves that hint types without a bit in a mask lose. -/
def Workspace.editHints (w : Workspace) (m : DWord) : Workspace :=
  let keep := fun (t : Nat) => m.getLsbD (8 + t)
  let st := w.statusSave
  let pend := (st &&& 0xFE00) &&& m
  let st := (st &&& ~~~0xFE04) ||| pend ||| (if pend = 0 then 0 else 4)
  let st := if keep 3 then st else st &&& ~~~0x700000
  let st := if keep 5 then st else st &&& ~~~0x30000
  let st := if keep 6 then st else st &&& ~~~0xC0000
  let st := if m.getLsbD 23 then st else st &&& ~~~0x800000
  { w with
    statusSave := st
    himmSave := if keep 1 then w.himmSave else 0
    hfmtSave := if keep 2 then w.hfmtSave else 0
    hrealSave := if keep 4 then w.hrealSave else 0 }

/-- SYSW STATUS (R231): UIE, and at supervisor level the hints saved in the workspace. -/
def Thread.writeStatusReg (t : Thread) (v : DWord) : Thread :=
  { t with
    status := { t.status with uie := v.getLsbD 3 }
    ws := if t.status.priv = 0 then t.ws else t.ws.editHints v }

/-- The hints saved in the workspace are discarded (R22, R231). -/
def Thread.dropSavedHints (t : Thread) : Thread :=
  { t with ws := { t.ws with statusSave := statusWithoutHints t.ws.statusSave } }

/-- The thread with a system register written; none when the value is refused (R28). STVEC of a protected world ignores a
write (R350). -/
def State.writeSys (s : State) (i : Nat) (v : DWord) : Option Thread :=
  let t := s.thr
  match i with
  | 0x00 => some (t.writeStatusReg v)
  | 0x02 => some { t.dropSavedHints with epc := v }
  | 0x03 => some { t with ecause := v }
  | 0x04 => some { t with eval := v }
  | 0x05 => some { t with utvec := v }
  | 0x06 => some { t with uivec := v }
  | 0x07 => some { t.dropSavedHints with upc := v }
  | 0x08 => some { t with ucause := v }
  | 0x09 => some (if s.protectedWorld t.world then t else { t with stvec := v })
  | 0x0A => if 2 ^ 12 ≤ v.toNat ∧ v.toNat ≤ 2 ^ 32 then some { t with hbivl := v, hbcnt := 0, hbMet := false } else none
  | 0x0F => some { t with asid := v.setWidth 16 }
  | 0x15 => some { t with mrstl := v }
  | 0x16 => some { t with savea := v }
  | _ => some t

/-- SYSW (R27, R28, R231). -/
def execSysw (a : Reg) (i : Fin 256) (s : State) : Out :=
  issueWith (.sysw a i) (fun _ => decide (0x16 < i.val) || readOnly i.val) (writeLevel i.val) s fun s =>
    match s.writeSys i.val (s.thr.sreg a) with
    | none => fault .operand 0 none s
    | some t => retire 8 { s with thr := t }

/-- RDTIME (R231). -/
def execRdtime (d : Reg) (s : State) : Out := issue (.rdtime d) s fun s => retire 8 (s.setS d s.time)

/-- RDWIN (R231). -/
def execRdwin (d : Reg) (s : State) : Out := issue (.rdwin d) s fun s => retire 8 (s.setS d (BitVec.ofNat 64 s.windowNow))

/-! ## SWPWP (R12, R232) -/

/-- A place for a workspace of a slot breaks R12, or overlaps the current one (R232): a workspace stays live until its node ends, also
while its member is spilled or has ended. -/
def State.wpBad (s : State) (v : Nat) : Bool :=
  let n := Config.wsBytes
  let id := s.thr.id
  v % 64 != 0 || decide (v < 0x4000) || decide (0x1F500 < v) || overlaps v n s.thr.wp n
    || (List.range 8).any (fun i => i != id.slot && overlaps v n (0x4000 + 0xB00 * i) n)
    || s.others.any (fun t => t.id.core = id.core && overlaps v n t.wp n)
    || s.nodes.any (fun m => m.id != s.thr.node && m.reserved.any (fun r => r.1 = id.core && overlaps v n r.2 n))
    || s.nodes.any (fun m => m.saved.any (fun x => x.thr.id.core = id.core && x.thr.id ≠ id && overlaps v n x.thr.wp n))
    || s.owners.any (fun r => r.node != s.thr.node && r.core = id.core && overlaps v n r.off r.len)

/-- The executing slot moves to another workspace: what is on its way to the core's LM is performed, the old workspace is written back
and stays reserved to the node, whose world owns the new one (R352). -/
def State.moveWorkspace (s : State) (v : Nat) : State :=
  let core := s.thr.id.core
  let s := s.performSent (inLm core)
  let s := s.perform (.lm core s.thr.wp) s.thr.ws.bytes
  let keep := fun (n : Node) =>
    if n.id = s.thr.node then { n with reserved := (core, s.thr.wp) :: n.reserved.filter (fun r => r ≠ (core, v)) } else n
  { s with
    nodes := s.nodes.map keep
    owners := { core := core, off := v, len := Config.wsBytes, node := s.thr.node, world := s.thr.world } :: s.owners
    thr := { s.thr with wp := v, ws := Workspace.ofBytes (s.readBytes (.lm core v) Config.wsBytes) } }

/-- SWPWP (R232). -/
def execSwpwp (a : Reg) (s : State) : Out :=
  issue (.swpwp a) s fun s =>
    let v := (s.thr.sreg a).toNat
    if s.wpBad v then fault .align wsplace (some (s.thr.sreg a)) s
    else if s.badAt (.lm s.thr.id.core v) Config.wsBytes then machineCheck 1 v s
    else retireWithin 8 96 (s.moveWorkspace v)

/-! ## Traps and returns (R233, R236 to R238) -/

/-- TRAP (R233): the return address is the next word, and entry begins as the word completes. -/
def execTrap (c : Fin 256) (s : State) : Out :=
  issue (.trap c) s fun s =>
    trapAfter 8 .trapi 0 (some (BitVec.ofNat 64 c.val)) (s.thr.following.setWidth 64)
      { s with thr := { s.thr.clearHints with retried := false, progress := 0, geo := [], claims := [] } }

/-- The STATUS save word has a reserved bit set, PRIV 2, or a higher level than the present one (R238). -/
def savedStatusBad (t : Thread) : Bool :=
  let st := t.ws.statusSave
  st.extractLsb' 24 40 != 0 || st.extractLsb' 0 2 = 2 || decide (t.status.priv.toNat < (st.extractLsb' 0 2).toNat)

/-- The state that a handler returns to (R22, R238): STATUS from its save word with the live GOUT, the payloads, the loop
stack, and arrival at the return address. -/
def Thread.leaveHandler (t : Thread) (l : List LoopEntry) (pc : VAddr) (due : Nat) : Thread :=
  Thread.arrive { t.done due with
    status := { Status.ofWord t.ws.statusSave with gout := t.status.gout }
    pay := { himm := t.ws.himmSave.setWidth 22, hfmt := t.ws.hfmtSave.setWidth 22, hreal := t.ws.hrealSave.setWidth 22 }
    loops := l } pc

/-- ERET (R238). -/
def execEret (s : State) : Out :=
  issueWith .eret (fun _ => false) 1 s fun s =>
    if savedStatusBad s.thr then fault .operand 0 none s
    else match loadLoops s.thr.ws.loopSave with
      | none => fault .operand 0 none s
      | some l => .next { s with thr := { s.thr.leaveHandler l (pcOf s.thr.epc) (s.clock + entryCycles l) with handling := false } }

/-- URET (R238). -/
def execUret (s : State) : Out :=
  issue .uret s fun s =>
    if savedStatusBad s.thr ∨ s.thr.status.inui = false ∨ s.thr.ws.statusSave.extractLsb' 0 2 ≠ s.thr.status.priv then
      fault .operand 0 none s
    else match loadLoops s.thr.ws.loopSave with
      | none => fault .operand 0 none s
      | some l =>
        let t := s.thr.leaveHandler l (pcOf s.thr.upc) (s.clock + entryCycles l)
        .next { s with thr := { t with ws := t.ws.exchange } }

/-- The notifies of a slot may be taken (R39, R227). -/
def Thread.takesNotify (t : Thread) : Bool :=
  t.run = .running && t.status.uie && !t.status.inui && t.uivec != 0 && !t.notifies.isEmpty && !t.justResumed

/-- A slot stands between two words, or in WFE, which a user interrupt ends (R234). -/
def Thread.between (t : Thread) (now : Nat) : Bool :=
  match t.wait with
  | .none => decide (t.nextIssue ≤ now)
  | .monitor => true
  | _ => false

/-- The thread once a user interrupt has ended the WFE it waits in. -/
def Thread.pastWfe (t : Thread) (now : Nat) : Thread := if t.wait = .monitor then (t.done now).arrive t.following else t

/-- NOTIFY_ENTRY (R39, R237): the pending notifies are taken one at a time in the order of completion; `.acq` is made then
(R225). An interrupted follower detaches (R270). -/
def execNotifyEntry (slot : SlotId) (s : State) : Out :=
  onSlot "NOTIFY_ENTRY" slot s fun s =>
    if !s.thr.takesNotify || !s.thr.between s.clock || isTransform s.thr.id then notEnabled "NOTIFY_ENTRY"
    else match s.thr.notifies with
      | [] => notEnabled "NOTIFY_ENTRY"
      | n :: rest =>
        if n.acq = some .sy && s.hostsPending then notEnabled "NOTIFY_ENTRY" else
        let t := s.thr.pastWfe s.clock
        let u := t.enterUser t.pc n.ucause t.uivec (s.clock + entryCycles t.loops)
        let follows : Bool := u.role = .follower
        .next ({ s with thr := { u with
            notifies := rest
            role := if follows then .detached else u.role
            fifo := if follows then [] else u.fifo } }.acquireIf s.thr.id.core n.acq)

/-! ## HBEAT, HALT, SPILL (R233) -/

/-- HBEAT (R233, R274): a leader's also resets every attached follower. -/
def execHbeat (s : State) : Out :=
  issue .hbeat s fun s =>
    let reset := fun (t : Thread) => if t.node = s.thr.node ∧ t.role = .follower ∧ t.run ≠ .ended then { t with hbcnt := 0, hbMet := false } else t
    let others := if s.thr.role = .leader ∧ !isTransform s.thr.id then s.others.map reset else s.others
    retire 8 { s with others := others, thr := { s.thr with hbcnt := 0, hbMet := false } }

/-- Ring i of a service core (R309). -/
def State.ring (s : State) (i : Nat) : Ring := assocD s.ctl.rings i Ring.reset
def State.setRing (s : State) (i : Nat) (r : Ring) : State := { s with ctl := { s.ctl with rings := assocSet s.ctl.rings i r } }

/-- An interrupt line of a core is high: its ring holds records, or a device raised it (R309, R345). -/
def State.lineHigh (s : State) (core : Nat) : Bool :=
  s.isService core &&
    (let i := s.serviceCores.findIdx (· = core)
     s.fabric.irq.contains i || (s.ring i).prod.setWidth 64 != (s.ring i).cons)

/-- Halted slots of a core go on (R233). -/
def State.wakeHalted (s : State) (core : Nat) : State :=
  let wake := fun (t : Thread) => if t.id.core = core ∧ t.run = .halted then { t with run := .running, nextIssue := s.clock } else t
  { s with thr := wake s.thr, others := s.others.map wake }

/-- HALT (R233): with a line of the core high the slot goes on at once. -/
def execHalt (s : State) : Out :=
  issueWith .halt (fun _ => false) 1 s fun s =>
    if s.lineHigh s.thr.id.core then retire 8 s
    else .next { s with thr := { (s.thr.done s.clock).arrive s.thr.following with run := .halted } }

/-- The other members detach from a member that is spilled on its own, and it from them (R313). -/
def State.divergeAlone (s : State) : State :=
  let leave := fun (t : Thread) =>
    if t.node = s.thr.node ∧ t.role = .follower ∧ s.thr.role = .leader then { t with role := .detached, fifo := [] } else t
  { s with thr := { s.thr with role := .detached, fifo := [] }, others := s.others.map leave }

/-- SPILL (R233, R311): the spill engine is asked for the slot, which issues nothing more before it is taken. -/
def execSpill (s : State) : Out :=
  issue .spill s fun s =>
    if s.thr.savea = 0 then fault .operand 0 none s
    else
      let id := s.thr.id
      let ask := fun (n : Node) =>
        if n.id = s.thr.node then
          { n with spillAsked := n.spillAsked.filter (· ≠ id) ++ [id], spillAt := if n.spillAsked.isEmpty then s.clock else n.spillAt }
        else n
      let s := { s with
        nodes := s.nodes.map ask
        spillQueue := if s.spillQueue.contains id then s.spillQueue else s.spillQueue ++ [id]
        thr := { (s.thr.done (s.clock + 8)).arrive s.thr.following with wait := .spill } }
      .next s.divergeAlone

/-! ## Monitors (R234) -/

/-- WMON (R234). DEDUCED: the pointer is checked as a load of one byte would be, since the rule names neither a kind nor a size of
access (log 115). -/
def execWmon (a : PReg) (s : State) : Out :=
  issue (.wmon a) s fun s =>
    accessThen (s.thr.preg a) 1 .load s fun r s =>
      retire 8 { s with thr := { s.thr with monitor := some { ptr := s.thr.preg a, line := r.home.line, tripped := false } } }

/-- WFE completes: the monitor is disarmed, and WFE acts as an acquire at device scope. -/
def wakeUp (s : State) : Out := retire 8 ({ s with thr := { s.thr with monitor := none } }.acquire s.thr.id.core .dv)

/-- WFE (R234). -/
def execWfe (s : State) : Out :=
  issue .wfe s fun s =>
    match s.thr.monitor with
    | none => retire 8 s
    | some m => if m.tripped then wakeUp s else waitFor .monitor s

/-- WFE_WAKE (R256): the monitor of a slot in WFE has tripped. -/
def execWfeWake (slot : SlotId) (s : State) : Out :=
  onSlot "WFE_WAKE" slot s fun s =>
    if s.thr.wait = .monitor ∧ s.thr.run = .running ∧ s.thr.monitor.any (·.tripped) then wakeUp s else notEnabled "WFE_WAKE"

/-! ## PERMIX (R235) -/

def mix (z : DWord) : DWord :=
  let z := (z ^^^ (z >>> 30)) * 0xBF58476D1CE4E5B9
  let z := (z ^^^ (z >>> 27)) * 0x94D049BB133111EB
  z ^^^ (z >>> 31)

/-- b: the smallest even number from 2 up with 2^b ≥ N. -/
def permBits (n : Nat) : Nat → Nat → Nat
  | 0, b => b
  | fuel + 1, b => if n ≤ 2 ^ b then b else permBits n fuel (b + 2)

/-- The keys. -/
def permKeys (seed epoch : DWord) : List DWord := (List.range 4).map (fun j => mix (seed ^^^ mix (epoch + BitVec.ofNat 64 j)))

/-- One pass over the index. -/
def permPass (keys : List DWord) (h x : Nat) : Nat :=
  let r := keys.foldl (fun p k => (p.2, Nat.xor p.1 ((mix (k ^^^ BitVec.ofNat 64 p.2)).toNat % 2 ^ h))) (x / 2 ^ h, x % 2 ^ h)
  r.1 * 2 ^ h + r.2

/-- Passes until the index is below N: the index and their number. -/
def permute (keys : List DWord) (h n : Nat) : Nat → Nat → Nat → Nat × Nat
  | 0, x, p => (x, p)
  | fuel + 1, x, p =>
    let y := permPass keys h x
    if y < n then (y, p + 1) else permute keys h n fuel y (p + 1)

/-- PERMIX (R235, R239). -/
def execPermix (d a : Reg) (k : Fin 256) (s : State) : Out :=
  issue (.permix d a k) s fun s =>
    if 253 < k.val then fault .operand 0 none s
    else withWindow k.val 3 s fun s =>
      let n := (s.win k.val).toNat
      let i := (s.thr.sreg a).toNat
      if n = 0 ∨ 2 ^ 48 < n ∨ n ≤ i then fault .operand 0 none s
      else
        let b := permBits n 24 2
        let r := permute (permKeys (s.win (k.val + 1)) (s.win (k.val + 2))) (b / 2) n (2 ^ b - n + 1) i 0
        retire (8 + 8 * r.2) (s.setS d (BitVec.ofNat 64 r.1))

/-! ## Hints (R21, R62) -/

/-- A hint of type t executes: it becomes pending (R21). A transform slot runs hints too (R326). -/
def hint (t : Nat) (f : Status → Status) (g : Payloads → Payloads) (s : State) : Out :=
  retireHint { s with thr := { s.thr with status := f (s.thr.status.record t), pay := g s.thr.pay } }

/-- HNOP (R62): it records nothing. -/
def execHnop (_p : Fin 4194304) (s : State) : Out := retireHint s
/-- Hint types 8 to 15 (R62): as HNOP. -/
def execHintType8to15 (_t : Fin 8) (_p : Fin 4194304) (s : State) : Out := retireHint s
/-- HIMM (R21, R62). -/
def execHimm (p : Fin 4194304) (s : State) : Out := hint 1 (fun x => x) (fun y => { y with himm := BitVec.ofNat 22 p.val }) s
/-- HFMT (R62, R63). -/
def execHfmt (a b o : Fin 13) (sc : Fin 4) (x : Bool) (s : State) : Out :=
  hint 2 (fun x => x) (fun y => { y with hfmt := BitVec.ofNat 22 (2 ^ 17 * a.val + 2 ^ 12 * b.val + 2 ^ 7 * o.val + 2 ^ 5 * sc.val + 2 ^ 4 * x.toNat) }) s
/-- HSCOPE (R21, R62). -/
def execHscope (sc : Scope) (s : State) : Out := hint 3 (fun x => { x with hscope := BitVec.ofNat 3 (Scope.toBits sc) }) (fun y => y) s
/-- HREALIGN (R21, R47, R62). -/
def execHrealign (n : Fin 4194304) (s : State) : Out :=
  hint 4 (fun x => x) (fun y => { y with hreal := BitVec.ofNat 22 n.val }) { s with thr := { s.thr with realigned := false } }
/-- HPROMO (R62, R90). -/
def execHpromo (p : Fin 4) (s : State) : Out := hint 5 (fun x => { x with hpromo := BitVec.ofNat 2 p.val }) (fun y => y) s
/-- HGUARD (R62, R230). -/
def execHguard (g : Fin 4) (s : State) : Out := hint 6 (fun x => { x with hguard := BitVec.ofNat 2 g.val }) (fun y => y) s
/-- HNT (R62). -/
def execHnt (s : State) : Out := hint 7 (fun x => x) (fun y => y) s

/-- ILLEGAL_WORD (R66): a word that encodes no instruction faults ILLEGAL; at a hint word what is pending stays, and at any
other it is consumed (R21, R62). -/
def execIllegalWord (w : Word) (s : State) : Out :=
  match decode w with
  | .ok _ => notEnabled "ILLEGAL_WORD"
  | .error _ => if w.toNat / 2 ^ 26 = 0x3F then illegalKeeping w s else fault .illegal 0 (some (w.setWidth 64)) s

/-- REALIGN_TIMEOUT (R47): the slot goes on; the members that have not met the leader stay detached. Those that have rejoin. -/
def execRealignTimeout (slot : SlotId) (s : State) : Out :=
  onSlot "REALIGN_TIMEOUT" slot s fun s =>
    match s.thr.wait with
    | .realign until_ =>
      if s.clock < until_ ∨ s.thr.run ≠ .running then notEnabled "REALIGN_TIMEOUT"
      else if s.thr.role = .leader then .next s.rejoinMet
      else .next { s with thr := { s.thr with wait := .none, realigned := true } }
    | _ => notEnabled "REALIGN_TIMEOUT"

end Sys2Proof.Machine
end

