-- ==== Sys2Proof/Machine/Spill.lean ====
section
/-!
DEFINITION. Taking a slot away and giving it back: SLOT_SPILL and RESUMPTION (spec/18_faults_preemption.md R310 to R313,
spec/08_tile_instr.md R179, spec/09_automaton_instr.md R208, spec/14_scheduler.md R276).
-/
namespace Sys2Proof.Machine

/-! ## The save area (R311) -/

/-- Zeros that pad bytes to a multiple of 64. -/
def padLine (l : List Byte) : List Byte := l ++ List.replicate (roundUp l.length 64 - l.length) 0

/-- How far an ASTEPX has come on a lane, in 12 bytes, and the same read back (log 24). -/
def runLaneBits (r : RunLane) : Nat :=
  r.ran.toNat + 2 * r.alive.toNat + 4 * r.miss.toNat + 8 * r.touch.toNat + 2 ^ 4 * (r.start % 2 ^ 16) + 2 ^ 20 * (r.emits % 2 ^ 16)
    + 2 ^ 36 * (r.base % 2 ^ 8) + 2 ^ 44 * (r.low % 2 ^ 8) + 2 ^ 52 * (r.blind % 2 ^ 32)
def runLaneOf (w : Nat) : RunLane :=
  { ran := bit w 0, alive := bit w 1, miss := bit w 2, touch := bit w 3, start := bits w 19 4, emits := bits w 35 20,
    base := bits w 43 36, low := bits w 51 44, blind := bits w 83 52 }

/-- A lane in a group image: state, reject bit, depth, the progress of an ASTEPX and the stack from its bottom (log 24: R208 gives the
sizes only). -/
def laneImage (l : Lane) (r : Option RunLane) : List Byte :=
  toBytes 2 l.state ++ toBytes 1 l.rej.toNat ++ toBytes 1 l.stack.length ++ toBytes 12 ((r.map runLaneBits).getD 0)
    ++ (l.stack.reverse.map (BitVec.ofNat 8 ·) ++ List.replicate 64 0).take 64

/-- The lane that an image holds. -/
def laneOf (l : List Byte) : Lane :=
  { state := ofBytes (l.take 2), rej := bit (ofBytes ((l.drop 2).take 1)) 0,
    stack := (((l.drop 16).take (ofBytes ((l.drop 3).take 1))).map (·.toNat)).reverse }

/-- The stream instruction that steps a group of the thread. -/
def groupStream (t : Thread) (g : Nat) : Option StreamJob :=
  match t.wait with
  | .stream j => if j.group = g then some j else none
  | _ => none

/-- The handles of a stream instruction: its ring of input, and one more than that of output. -/
def streamHandles (j : StreamJob) : Nat := j.qin.val + 16 * (j.qout.map (·.val + 1)).getD 0

/-- A group image of 1,344 bytes (R208, log 24): binding, ICUR and the progress of a stream in 64 bytes, then 80 for each lane. -/
def groupImage (g : LaneGroup) (j : Option StreamJob) : List Byte :=
  let of := fun (f : StreamJob → Nat) => (j.map f).getD 0
  let runs := ((j.bind (·.run)).map (·.2)).getD []
  ([g.base.toNat, g.xout.toNat, g.xstr, g.icur, of (fun j => j.word.toNat + 2 ^ 32 * streamHandles j), of (·.n), of (·.done),
    of (fun j => j.outFill + 2 ^ 32 * j.acquired.toNat)].flatMap (toBytes 8)) ++ (g.lanes.mapIdx (fun i l => laneImage l runs[i]?)).flatten

/-- The group that an image holds; the image of its automaton is bound as it was. -/
def groupOf (g : LaneGroup) (l : List Byte) : LaneGroup :=
  { g with
    base := BitVec.ofNat 64 (wordAt l 0), xout := BitVec.ofNat 64 (wordAt l 1), xstr := wordAt l 2, icur := wordAt l 3
    lanes := (List.range 16).map (fun i => laneOf ((l.drop (64 + 80 * i)).take 80)) }

/-- The progress of a stream that a group image holds. -/
def streamOf (j : StreamJob) (l : List Byte) : StreamJob :=
  { j with
    word := BitVec.ofNat 32 (wordAt l 4)
    qin := Fin.ofNat 16 (bits (wordAt l 4) 35 32)
    qout := if bits (wordAt l 4) 40 36 = 0 then none else some (Fin.ofNat 16 (bits (wordAt l 4) 40 36 - 1))
    n := wordAt l 5
    done := wordAt l 6
    outFill := bits (wordAt l 7) 31 0
    acquired := bit (wordAt l 7) 32
    run := j.run.map (fun r => (r.1, (List.range r.2.length).map (fun i => runLaneOf (ofBytes ((l.drop (68 + 80 * i)).take 12))))) }

/-- What a member owns: tiles of the two engines in ascending order, lane groups in ascending order, and its outstanding
tile instructions. -/
def State.ownTiles (s : State) (id : SlotId) : List (Nat × Nat × Tile) :=
  (List.range 2).flatMap (fun e => (List.range 16).filterMap (fun t =>
    let x := s.tile (clusterOf id.core) e t
    if x.owner = some id then some (e, t, x) else none))
def State.ownGroups (s : State) (id : SlotId) : List (Nat × LaneGroup) :=
  (List.range 8).filterMap (fun g =>
    let x := s.group (clusterOf id.core) g
    if x.owner = some id then some (g, x) else none)
def State.ownJobs (s : State) (id : SlotId) : List (Nat × TileJob) :=
  (List.range 2).filterMap (fun e => (s.outstanding id e).map (fun j => (e, j)))

/-- A 256-byte header (R311). -/
def areaHeader (t : Thread) (lbl : Bool) (tiles : List (Nat × Nat × Tile)) (groups : List (Nat × LaneGroup))
    (jobs : List (Nat × TileJob)) : List Byte :=
  let eng := (jobs.map (fun j => 2 ^ j.1)).sum
  let tmap := (tiles.map (fun x => 2 ^ (16 * x.1 + x.2.1))).sum
  let gmap := (groups.map (fun x => 2 ^ x.1)).sum
  let det : Bool := t.role = .detached
  let mptr := match t.monitor with
    | some m => m.ptr.toNat
    | none => 0
  let armed : Bool := t.monitor.any (fun m => !m.tripped)
  let words := [0x5B01 * 2 ^ 48 + 2 ^ 8 * tiles.length + 2 ^ 4 * groups.length + 8 * lbl.toNat + 4 * det.toNat + eng, t.pc.toNat, t.wp,
    t.status.toWord.toNat, t.pay.himm.toNat, t.pay.hfmt.toNat, t.pay.hreal.toNat, t.hbcnt]
  let after := [t.mrstl.toNat, mptr, armed.toNat, 2 ^ 32 * gmap + tmap, t.epc.toNat, t.ecause.toNat, t.eval.toNat,
    t.utvec.toNat, t.uivec.toNat, t.upc.toNat, t.ucause.toNat, t.stvec.toNat, t.hbivl.toNat, t.asid.toNat, 0, 0]
  words.flatMap (toBytes 8) ++ regBytes 16 ((saveLoops t.loops).toList.map BitVec.toNat) ++ after.flatMap (toBytes 8)

/-- A stopped-instruction record (R311). DESIGN CHOICE: the place of a window word that an instruction does not read holds zero, and
the first place of an MLOAD or MMERGE the header of its image (log 109). -/
def jobRecord (s : State) (id : SlotId) (e : Nat) (j : TileJob) : List Byte :=
  ([j.word.toNat, j.pa.toNat, j.pb.toNat] ++ (List.range 4).map (fun i => (j.win.getD i 0).toNat) ++ [(s.rpr id e).toNat]).flatMap (toBytes 8)

/-- The stopped instruction that a record holds. -/
def jobOf (j : TileJob) (l : List Byte) : TileJob :=
  { j with
    word := BitVec.ofNat 32 (wordAt l 0), pa := BitVec.ofNat 64 (wordAt l 1), pb := BitVec.ofNat 64 (wordAt l 2)
    win := j.win.mapIdx (fun i w => if i < 4 then BitVec.ofNat 64 (wordAt l (3 + i)) else w), done := bits (wordAt l 7) 31 0 }

/-- The tile that an image holds, for the slot that owns it. -/
def tileOf (t : Tile) (l : List Byte) : Tile :=
  match parseHeader (ofBytes (l.take 16)) with
  | none => t
  | some (canon, av, a) =>
    { t with
      av := av, a := a, canon := canon
      elems := ((List.range 32).flatMap (fun i => parseRow canon i ((l.drop (16 + 32 * recordBytes canon * i)).take (32 * recordBytes canon)))).filter
        (fun x => x.2 ≠ TileElem.zero) }

/-- The bytes that the image of a tile takes in an area. -/
def tileRoom (t : Tile) : Nat := roundUp (imageBytes t.canon) 64

/-- The tile and group images of a save area, in order. -/
def areaImages (t : Thread) (tiles : List (Nat × Nat × Tile)) (groups : List (Nat × LaneGroup)) : List Byte :=
  tiles.flatMap (fun x => padLine (tileImage x.2.2)) ++ groups.flatMap (fun x => groupImage x.2 (groupStream t x.1))

/-- Tiles, and groups, taken from the images that follow one another. -/
def tilesOf : List (Nat × Nat × Tile) → List Byte → List (Nat × Nat × Tile) × List Byte
  | [], l => ([], l)
  | (e, t, x) :: rest, l => let r := tilesOf rest (l.drop (tileRoom x)); ((e, t, tileOf x (l.take (tileRoom x))) :: r.1, r.2)
def groupsOf : List (Nat × LaneGroup) → List Byte → List (Nat × LaneGroup × List Byte)
  | [], _ => []
  | (g, x) :: rest, l => (g, groupOf x (l.take 1344), l.take 1344) :: groupsOf rest (l.drop 1344)

/-- The bytes of a member's area. -/
def SavedMember.areaLen (m : SavedMember) : Nat :=
  0x1480 + (m.tiles.map (fun x => tileRoom x.2.2)).foldl (· + ·) 0 + 1344 * m.groups.length

/-- The area lies in HBM, and the firewall lets the node's world read, or write, its bytes (R311, log 78). -/
def State.areaOk (s : State) (n : Node) (pa len : Nat) (write : Bool) : Bool :=
  decide (pa + len ≤ Config.hbmBytes) && s.admitsFrames n.world pa len (!write) write

/-- The world that the frame of an area belongs to. -/
def State.areaWorld (s : State) (pa : Nat) : BitVec 4 := (s.frameWorlds pa).headD 1

/-- Bytes that the spill engine of a cluster writes to an area. -/
def State.writeArea (s : State) (cl pa : Nat) (l : List Byte) : State :=
  s.performFor cl (s.areaWorld pa) (.hbm pa) l

/-! ## SLOT_SPILL -/

/-- A slot stands where the spill engine may take it (R312): between two words, or stalled in an instruction that has not
changed any state yet, or at a symbol boundary of the Automaton Engine. -/
def Thread.spillable (t : Thread) (now : Nat) : Bool :=
  match t.wait with
  | .none => decide (t.nextIssue ≤ now)
  | .spill => decide (t.nextIssue ≤ now)
  | .ring .. => true
  | .name .. => true
  | .monitor => true
  | .stream j => j.pendingOut = []
  | .realign _ => true
  | .stall .tile => true
  | .stall .node => true
  | .stall .event => true
  | .stall .pool => true
  | .stall .commit => true
  | .stall .waitTable => true
  | .stall .yard => t.progress = 0
  | .stall _ => !t.inWord
  | .access _ => false
  | .barrier .. => false
  | .window _ => false

/-- The thread as it is saved: a stalled word issues again on resumption, what it had claimed unowned again (R317); a stream instruction
has consumed its hints and is saved with the address of the next word, where a back edge is taken only when its symbols are done (R111,
R208, R312). -/
def Thread.saved (t : Thread) : Thread :=
  match t.wait with
  | .stream j => if j.resumed then t else { t.done t.nextIssue with pc := t.following, wait := .stream { j with resumed := true } }
  | .none => { t with progress := 0, geo := [], claims := [] }
  | .spill => { t with wait := .none, progress := 0, geo := [], claims := [] }
  | _ => { t with wait := .none, progress := 0, geo := [], claims := [], inWord := false }

/-- The thread at its restart label (R179). -/
def Thread.atLabel (t : Thread) : Thread :=
  { t.clearHints with
    pc := pcOf t.mrstl, loops := [], wait := .none, progress := 0, geo := [], claims := [], inWord := false, sent := false, fifo := [] }

/-- A slot leaves the spill engine's queue, and the directory's wait table (R293). -/
def State.leaveQueue (s : State) (id : SlotId) : State :=
  { s with
    spillQueue := s.spillQueue.filter (· ≠ id)
    dir := { s.dir with waits := s.dir.waits.filter (fun w => w.slot ≠ id) } }

/-- No member of a node runs or is still to run. -/
def Node.allAway (n : Node) : Bool := n.members.all (fun m => m.ended || m.spilled)

/-- A request of the spill engine for a member is over: with the last one a SUB 0x06 record is posted about the member that was saved
last (R310), if any was saved since the spill began. -/
def State.askDone (s : State) (node : Nat) (id : SlotId) : State :=
  match s.node? node with
  | none => s
  | some n =>
    let asked := n.spillAsked.filter (· ≠ id)
    let n := { n with
      spillAsked := asked
      waitsFrom := if asked.isEmpty then s.clock else n.waitsFrom
      phase := if n.allAway && n.phase = .running && !n.saved.isEmpty then .spilled else n.phase }
    let s := s.setNode n
    match (n.saved.filter (fun m => decide (n.spillAt ≤ m.savedAt))).getLast? with
    | some m =>
      if asked.isEmpty then
        s.nodeRecord n 0 0x06 0 (2 ^ 32 * n.id + coordWord m.thr.id.core) m.area (s.clock - n.spillAt)
      else s
    | none => s

/-- The agents that work for a slot. -/
def worksFor (id : SlotId) : Agent → Bool
  | .slot x => x = id
  | .tile x _ _ => x = id
  | .cmd _ => false
  | .node _ => false
  | .port _ => false
  | .walker _ => false

/-- The executing slot saved to its area and freed (R312 steps 3 to 6). An area that the firewall denies ends the node with WORLD. -/
def spillOut (n : Node) (s : State) : Out :=
  let t := if s.thr.run = .parked then s.refilled s.thr else s.thr
  let s := { s with thr := t }
  let id := t.id
  let lbl : Bool := t.mrstl != 0
  let saved := if lbl then t.atLabel else t.saved
  let saved := { saved with run := if t.run = .parked then .running else t.run, stepping := .no }
  let m : SavedMember :=
    { thr := saved, det := saved.role = .detached, lbl := lbl, tiles := if lbl then [] else s.ownTiles id,
      groups := if lbl then [] else s.ownGroups id, jobs := if lbl then [] else s.ownJobs id,
      window := (List.range 256).map (fun k => BitVec.ofNat 64 (s.readHome (windowHome id k) 8)), area := t.area,
      savedAt := s.clock, waited := 0 }
  if !s.areaOk n m.area m.areaLen true then .next (s.endNode n.id (s.outsideEnding n .world))
  else
    let cl := clusterOf id.core
    let head := areaHeader saved lbl m.tiles m.groups m.jobs ++ t.ws.bytes ++ m.window.flatMap (fun w => toBytes 8 w.toNat)
    let s := if t.run = .parked then s.emit (.told id) else s
    let u := s.perform (.lm id.core t.wp) t.ws.bytes
    let u := u.writeArea cl m.area head
    let u := m.jobs.foldl (fun u j => u.writeArea cl (m.area + 0x1400 + 64 * j.1) (jobRecord s id j.1 j.2)) u
    let u := u.writeArea cl (m.area + 0x1480) (areaImages saved m.tiles m.groups)
    let keep := fun (n : Node) =>
      if n.id = t.node then
        { n with
          members := n.members.map (fun x => if x.id = id then { x with spilled := true } else x)
          saved := n.saved ++ [m] }
      else n
    .next ((({ ((u.dropOwned id).dropAgents (worksFor id)) with nodes := u.nodes.map keep }.leaveQueue id).dropThread id).askDone t.node id)

/-- SLOT_SPILL (R312): the spill engine of a cluster takes the first slot of its queue. A member that has executed NEND in the
meantime is not saved; its slot is free (R310). -/
def execSlotSpill (slot : SlotId) (s : State) : Out :=
  if !s.beingSpilled slot || s.faultUnitFull (clusterOf slot.core) then
    notEnabled "SLOT_SPILL"
  else onSlot "SLOT_SPILL" slot s fun s =>
    match s.node? s.thr.node with
    | none => notEnabled "SLOT_SPILL"
    | some n =>
      if n.closing || (n.phase = .placed && !n.saved.isEmpty) then notEnabled "SLOT_SPILL"
      else if s.thr.run = .ended then .next (((s.freeEnded n.id slot).leaveQueue slot).askDone n.id slot)
      else if s.thr.spillable s.clock && !s.awaitsHosts none s.thr.area 0x110000 then spillOut n s
      else notEnabled "SLOT_SPILL"

/-! ## RESUMPTION (R276, R313, R35) -/

/-- The tiles and lane groups that a member had are unowned, and no word has claimed them. -/
def State.canReclaim (s : State) (m : SavedMember) : Bool :=
  let cl := clusterOf m.thr.id.core
  m.tiles.all (fun x => s.holder cl (.tile x.1 x.2.1) = none) && m.groups.all (fun x => s.holder cl (.group x.1) = none)

/-- A member's thread on resumption, from the 0x1480 bytes of its area: an armed monitor counts as tripped (R312); a pending notify
waits for the first word (R39). -/
def SavedMember.thread (m : SavedMember) (l : List Byte) (now : Nat) : Thread :=
  let w := fun (i : Nat) => BitVec.ofNat 64 (wordAt l i)
  let loop := fun (i : Nat) => BitVec.ofNat 128 (fieldAt l (64 + 16 * i) 16)
  { m.thr with
    ws := Workspace.ofBytes ((l.drop 0x100).take Config.wsBytes)
    pc := pcOf (w 1)
    status := Status.ofWord (w 3)
    pay := { himm := (w 4).setWidth 22, hfmt := (w 5).setWidth 22, hreal := (w 6).setWidth 22 }
    hbcnt := (w 7).toNat + m.waited
    loops := (loadLoops #v[loop 0, loop 1, loop 2, loop 3]).getD m.thr.loops
    mrstl := w 16
    epc := w 20, ecause := w 21, eval := w 22, utvec := w 23, uivec := w 24, upc := w 25, ucause := w 26, stvec := w 27, hbivl := w 28
    asid := (w 29).setWidth 16
    nextIssue := now
    justResumed := true
    role := if bit (w 0).toNat 2 then .detached else m.thr.role
    monitor := m.thr.monitor.map (fun x => { x with tripped := true }) }

/-- A member given its slot, workspace, window, tiles, groups and outstanding instructions back, as its area holds them. -/
def State.giveBack (s : State) (n : Node) (m : SavedMember) : State :=
  let id := m.thr.id
  let cl := clusterOf id.core
  let l := s.openedBytes (s.areaWorld m.area) (.hbm m.area) m.areaLen
  let (tiles, rest) := tilesOf m.tiles (l.drop 0x1480)
  let groups := groupsOf m.groups rest
  let t := m.thread l s.clock
  let t := { t with wait := match t.wait with
    | .stream j => .stream (((groups.find? (fun x => x.1 = j.group)).map (fun x => streamOf j x.2.2)).getD j)
    | w => w }
  let s := s.performSent (inLm id.core)
  let s := s.perform (.lm id.core m.thr.wp) t.ws.bytes
  let s := s.perform (.lm id.core (0x800 * id.slot)) ((l.drop 0xC00).take 0x800)
  let s := tiles.foldl (fun s x => s.setTile cl x.1 x.2.1 x.2.2) s
  let s := groups.foldl (fun s x => s.setGroup cl x.1 x.2.1) s
  let s := m.jobs.foldl (fun s j => s.setJobs cl j.1 (s.engineJobs cl j.1 ++ [jobOf { j.2 with served := [] } (l.drop (0x1400 + 64 * j.1))])) s
  (s.addThread t).nodeRecord n 1 0x06 0 (2 ^ 32 * n.id + coordWord id.core) m.area (s.clock - n.spillAt)

/-- A saved member has an area that cannot be read (R315). -/
def State.lostMember (s : State) (n : Node) : Bool :=
  n.saved.any (fun m => s.badAt (.hbm m.area) m.areaLen || s.tagFails (.hbm m.area) m.areaLen)

/-- RESUMPTION (R276): every spilled member goes back to its own core and slot index. -/
def execResumption (node : Nat) (s : State) : Out :=
  match s.node? node with
  | none => notEnabled "RESUMPTION"
  | some n =>
    if n.phase ≠ .placed ∨ n.saved = [] ∨ n.closing ∨ !n.saved.all s.canReclaim ∨
        Config.faultUnitRecords < s.held n.recordUnit + n.saved.length ∨
        n.saved.any (fun m => s.awaitsHosts none m.area m.areaLen) then notEnabled "RESUMPTION"
    else if !n.saved.all (fun m => s.areaOk n m.area m.areaLen false) then .next (s.endNode n.id (s.outsideEnding n .world))
    else if s.lostMember n then .next (s.endNode n.id (s.outsideEnding n .mcheck))
    else
      let back := { n with phase := .running, saved := [], members := n.members.map (fun x => { x with spilled := false }) }
      .next (n.saved.foldl (fun s m => s.giveBack n m) (s.setNode back))

end Sys2Proof.Machine
end

