-- ==== Sys2Proof/Machine/Fence.lean ====
section
/-!
DEFINITION. Heartbeats and fenced cores (spec/14_scheduler.md R273, R274; spec/06_memory_instr.md R138;
spec/18_faults_preemption.md R309, R310, R367).
-/
namespace Sys2Proof.Machine

/-- HBCNT of a slot counts while its node is resident and not finished, also once the member has executed NEND; not while the slot
is parked, halted or spilled (R273, R313). -/
def Thread.counts (t : Thread) : Bool := t.run = .running || t.run = .ended

/-- The slot has stopped for the spill engine that serves it, or is held in BARR or in a stream until it may stop (R312). -/
def Thread.stopping (t : Thread) (now : Nat) : Bool :=
  t.spillable now || (match t.wait with
    | .barrier .. => true
    | .stream _ => true
    | _ => false)

/-- HBCNT of a slot counts in this cycle. -/
def State.counting (s : State) (t : Thread) : Bool := t.counts && !(s.beingSpilled t.id && t.stopping s.clock)

/-- A slot's heartbeat has run out (R274), and no WINDOW has answered it since the last HBEAT (R48, log 103). -/
def State.expired (s : State) (t : Thread) : Bool := s.counting t && !t.hbMet && decide (t.hbivl.toNat ≤ t.hbcnt)

/-- The scope of the release that a waiting word makes (R128, R133); none where it only needs a place for its store. -/
def Thread.releaseScope (t : Thread) : Option Scope :=
  let access := fun (o : Ord) => if ordReleases o && beyondCore t.status.scope then some t.status.scope else none
  match decode t.word with
  | .ok (.st _ _ _ _ o) => access o
  | .ok (.stv _ _ _ o) => access o
  | .ok (.scat _ _ _ _ _ o) => access o
  | .ok (.ld ..) => some t.status.scope
  | .ok (.ldv ..) => some t.status.scope
  | .ok (.gath ..) => some t.status.scope
  | .ok (.amo ..) => some t.status.scope
  | .ok (.cas ..) => some t.status.scope
  | .ok (.fadd ..) => some t.status.scope
  | .ok (.fenceFull sc) => some sc
  | .ok (.fenceRel sc) => some sc
  | .ok .fencePath => some .cl
  | _ => some .sy

/-- The entry of the core's store buffer for whose admission a slot waits (R138): one that its release covers, else the
oldest, whose place a store needs. -/
def State.waitingEntry (s : State) (t : Thread) : Option SbEntry :=
  let l := (s.sbOf t.id.core).filter (·.waiting)
  match t.releaseScope.bind (fun sc => l.find? (covered t sc)) with
  | some e => some e
  | none => l.head?

/-- What a slot's instruction waits for, if it waits for admission by a Vexey port (R138): EVAL of its WINDOW fault. -/
def State.awaitsFabric (s : State) (t : Thread) : Option (Option DWord) :=
  match t.wait with
  | .stall .fabric => some ((s.waitingEntry t).map (·.va))
  | .stall (.port ea) => some (some ea)
  | .stream j => j.port.map some
  | .access r =>
    (match r.lanes with
     | [] => none
     | x :: _ =>
       match (s.sbOf t.id.core).find? (fun e => e.waiting && e.line = x.home.line && (atomicOf r.dest).isSome) with
       | some e => some (some e.va)
       | none => match x.home with
         | .peer _ _ => if r.tag.isNone then some (some x.ea) else none
         | _ => none)
  | _ => none

/-- The end of a node because a member's heartbeat ran out (R367). -/
def heartbeatEnding (c : Cause) (t : Thread) : Ending :=
  { cause := c, cls := 0, member := t.id, pc := t.pc.setWidth 64, eval := 0, before := false, row := 3 }

/-- A node ends because a member's heartbeat ran out (R367). -/
def endByHeartbeat (c : Cause) (t : Thread) (s : State) : State := s.endNode t.node (heartbeatEnding c t)

/-- A member of a node is on a core: its thread stands there, or the node is placed there. -/
def State.memberOn (s : State) (n : Node) (core : Nat) (m : Member) : Bool :=
  m.id.core = core && ((s.thread? m.id).any (fun t => t.node = n.id) || (n.phase = .placed && !m.ended && (n.saved.isEmpty || m.spilled)))

/-- The nodes with a member on a core: those that run there, and those that are placed there. -/
def State.nodesOn (s : State) (core : Nat) : List Node :=
  s.nodes.filter (fun n => !s.shut n && n.members.any (s.memberOn n core))

/-- The word a member would issue next. -/
def State.nextPc (s : State) (n : Node) (id : SlotId) : DWord :=
  match (s.thread? id).filter (fun t => t.node = n.id) with
  | some t => t.pc.setWidth 64
  | none => match n.saved.find? (fun m => m.thr.id = id) with
    | some m => m.thr.pc.setWidth 64
    | none => 0

/-- How a node that a fenced core takes with it is reported (R367): the slot itself for its own node, the lowest-ranked member there
for another, no member for one that has not launched. -/
def State.fenceEnding (s : State) (t : Thread) (n : Node) : Ending :=
  let core := t.id.core
  if n.phase = .placed && n.saved.isEmpty then s.outsideEnding n .heartbeat
  else
    let id := if n.id = t.node then t.id else ((n.members.find? (s.memberOn n core)).map (·.id)).getD ⟨core, 0⟩
    { cause := .heartbeat, cls := 0, member := id, pc := s.nextPc n id, eval := 0, before := false,
      row := if n.id = t.node then 3 else 4 }

/-- The two records of a fenced core for a node it ends (R274, R309). -/
def State.fenceRecords (s : State) (core hb : Nat) (n : Node) : List FaultRecord :=
  let r : FaultRecord :=
    { unit := .fault (clusterOf core), ring := s.ringOf n.asid, w0 := recordWord0 0 n.asid 0x03 Cause.heartbeat.code,
      w1 := BitVec.ofNat 64 (coordWord core), w2 := BitVec.ofNat 64 n.id, w3 := BitVec.ofNat 64 hb }
  let i := s.clusterRing (clusterOf core)
  if i = r.ring then [r] else [r, { r with ring := i }]

/-- Records about a core go to its cluster's fault unit as far as there is room, and the rest as soon as there is (R309). -/
def State.offerOwed (s : State) (core : Nat) : State :=
  let c := s.core core
  let room := Config.faultUnitRecords - s.held (.fault (clusterOf core))
  (c.owed.take room).foldl State.post (s.setCore core { c with owed := c.owed.drop room })

/-- A core is fenced because of a slot (R274): what is on its way to its LM is performed, its unsent store-buffer entries are discarded,
the nodes with a member there end, and each gives its records. -/
def State.fenceCore (s : State) (t : Thread) : State :=
  let core := t.id.core
  let s := s.performSent (inLm core)
  let nodes := s.nodesOn core
  let c := s.core core
  let s := (s.setCore core { c with fenced := true, owed := c.owed ++ nodes.flatMap (s.fenceRecords core t.hbcnt) }).setSb core
    ((s.sbOf core).filter (·.sent))
  (nodes.foldl (fun s n => s.endNode n.id (s.fenceEnding t n)) s).offerOwed core

/-- A saved member whose resumption waits for its tiles or lane groups: the wait counts toward HBCNT (R35, R36). -/
def State.reclaims (s : State) (n : Node) (m : SavedMember) : Bool :=
  n.phase = .placed && !n.saved.isEmpty && !n.closing && !s.canReclaim m

/-- Such a member of a slot, whose heartbeat has run out. -/
def State.lateMember (s : State) (slot : SlotId) : Option SavedMember :=
  (s.nodes.flatMap (fun n => n.saved.filter (fun m => s.reclaims n m))).find?
    (fun m => m.thr.id = slot && !m.thr.hbMet && decide (m.thr.hbivl.toNat ≤ m.thr.hbcnt + m.waited))

/-- A QWAIT or QRSV that stalls before it has read its ring's count: for an earlier message, or for a bank that switches (R48). -/
def Thread.stalledRing (t : Thread) : Bool :=
  match t.wait, decode t.word with
  | .stall _, .ok (.qwait ..) => true
  | .stall _, .ok (.qrsv ..) => true
  | _, _ => false

/-- HEARTBEAT_EXPIRY (R274). -/
def execHeartbeatExpiry (slot : SlotId) (s : State) : Out :=
  match s.lateMember slot with
  | some m => .next (s.fenceCore { m.thr with hbcnt := m.thr.hbcnt + m.waited })
  | none => onSlot "HEARTBEAT_EXPIRY" slot s fun s =>
    let t := s.thr
    if !s.expired t || (s.node? t.node).any (fun n => !s.takesEnd (heartbeatEnding .heartbeat t) n) then notEnabled "HEARTBEAT_EXPIRY"
    else if isTransform slot then
      .next (s.failRoutine (match t.wait with
        | .ring .. => .qtimeout
        | _ => if t.stalledRing then .qtimeout else .heartbeat))
    else match t.wait with
      | .ring .. => .next (endByHeartbeat .qtimeout t s)
      | _ => if t.stalledRing then .next (endByHeartbeat .qtimeout t s) else match s.awaitsFabric t with
        | some v => fault .window 0 v { s with thr := { s.thr with hbMet := true } }
        | none => .next (if (s.core slot.core).fenced then endByHeartbeat .heartbeat t s else s.fenceCore t)

/-- FENCE_TEST_DONE (R274, R309): the built-in test of an acknowledged core ends. -/
def execFenceTestDone (core : Nat) (passed : Bool) (s : State) : Out :=
  let c := s.core core
  if !c.testing then notEnabled "FENCE_TEST_DONE"
  else
    let r : FaultRecord :=
      { unit := .fault (clusterOf core), ring := s.clusterRing (clusterOf core), w0 := recordWord0 (if passed then 0 else 1) 0 0x07 0,
        w1 := BitVec.ofNat 64 (coordWord core), w2 := 0, w3 := 0 }
    .next ((s.setCore core { c with testing := false, fenced := !passed, owed := c.owed ++ [r] }).offerOwed core)

end Sys2Proof.Machine
end

