-- ==== Sys2Proof/Machine/Ctl.lean ====
section
/-!
DEFINITION. Control space (spec/18_faults_preemption.md R304 to R310, spec/16_directory.md R283, spec/20_engines_memory.md R320,
spec/21_fabric_host.md R334, R344, R345, spec/22_trust.md R348, R351): what each register reads as and what a store to it
does.
-/
namespace Sys2Proof.Machine

/-! ## Answers of system software (R305, R306, R310) -/

/-- TINV (R306): an invalidation joins those in progress. -/
def State.writeTinv (s : State) (v : DWord) : State := { s with ctl := { s.ctl with tinv := s.ctl.tinv ++ [v &&& 0xFFFF807FFFFFFFFF] } }

/-- SPILLREQ (R310, R311): every member of a running node that has not executed NEND; a node without save areas cannot be
spilled. -/
def State.writeSpillreq (s : State) (v : DWord) : State :=
  match s.node? (bits v.toNat 31 0) with
  | none => s
  | some n =>
    if (n.phase = .running ∨ n.phase = .placed) ∧ !n.closing ∧ s.spillable n then s.askSpill n else s

/-- NODEKILL (R305): the node ends with a cause; a code that names none changes nothing (log 25). -/
def State.writeNodekill (s : State) (v : DWord) : State :=
  match s.node? (bits v.toNat 31 0), causeOfCode (bits v.toNat 39 32) with
  | some n, some c => s.endNode n.id (s.outsideEnding n c)
  | _, _ => s

/-- LEASEGO (R310): the lease unit retries the node's pages. -/
def State.writeLeasego (s : State) (v : DWord) : State :=
  match s.node? (bits v.toNat 31 0) with
  | some n => if n.phase = .pageWait then s.setNode { n with phase := .leasing } else s
  | none => s

/-- LEASENO (R262, R310): the node ends before launch with LEASE. -/
def State.writeLeaseno (s : State) (v : DWord) : State :=
  match s.node? (bits v.toNat 31 0) with
  | some n => if n.phase = .pageWait ∨ n.phase = .leasing then s.endBefore n .lease else s
  | none => s

/-- FENCEACK (R310): a fenced core begins its built-in test. -/
def State.writeFenceack (s : State) (v : DWord) : State :=
  let c := coordCore v.toNat
  if coordOk v.toNat ∧ (s.core c).fenced then s.setCore c { s.core c with testing := true } else s

/-! ## Protection entries (R351) -/

def entryWorld (e : DWord) : BitVec 4 := e.extractLsb' 56 4
def entryBase (e : DWord) : Nat := bits e.toNat 10 0
def entryLimit (e : DWord) : Nat := bits e.toNat 23 12

/-- A store to an entry that is ignored. -/
def entryBad (e : DWord) : Bool := decide (entryLimit e ≤ entryBase e) || (e &&& 0x10FFFFFFFF000800) != 0

/-- A valid entry covers a line of LM. -/
def entryCovers (e : DWord) (line : Nat) : Bool :=
  e.getLsbD 63 && decide (entryBase e ≤ line) && decide (line < entryLimit e)

/-- An entry of a core replaced, and nothing else. -/
def State.setEntry (s : State) (core k : Nat) (v : DWord) : State :=
  s.setCore core { s.core core with entries := (s.core core).entries.set k v }

/-- A store changes the WORLD of a valid entry, or validates an entry over bytes of another world. -/
def State.entryChanges (s : State) (core : Nat) (old v : DWord) : Bool :=
  (old.getLsbD 63 && entryWorld old != entryWorld v)
    || (List.range 2048).any (fun i => entryCovers v i && s.targetWorld (.lm core (64 * i)) none != entryWorld v)

/-- The lines of a core's LM that a store to an entry has zero-filled first: the covered ones, and every line whose bytes pass from
one world to another (log 69). -/
def State.entryFill (s : State) (core k : Nat) (v : DWord) : List Nat :=
  let old := (s.core core).entries.getD k 0
  let changes := s.entryChanges core old v
  let t := s.setEntry core k v
  (List.range 2048).filter (fun i => (changes && (entryCovers old i || entryCovers v i))
    || s.targetWorld (.lm core (64 * i)) none != t.targetWorld (.lm core (64 * i)) none)

/-- A store to a protection entry. -/
def State.writeEntry (s : State) (core k : Nat) (v : DWord) : State :=
  if entryBad v then s
  else ((s.entryFill core k v).foldl (fun s i => s.performZeros (.lm core (64 * i)) 64) s).setEntry core k v

/-! ## Interrupt lines (R345) -/

/-- The line of service core i raised, and taken down. -/
def State.raiseLine (s : State) (i : Nat) : State :=
  let s := { s with fabric := { s.fabric with irq := if s.fabric.irq.contains i then s.fabric.irq else i :: s.fabric.irq } }
  match s.serviceCores[i]? with
  | some core => s.wakeHalted core
  | none => s
def State.lowerLine (s : State) (i : Nat) : State := { s with fabric := { s.fabric with irq := s.fabric.irq.filter (· ≠ i) } }

/-! ## Reading (R283, R305, R320, R334, R348, R351) -/

/-- A word of a roster, or of a grant entry. -/
def wordOf (n k : Nat) : DWord := BitVec.ofNat 64 (bits n (64 * k + 63) (64 * k))

/-- The directory page. -/
def State.readDirPage (s : State) (off : Nat) : DWord :=
  if off < 0x100000 then wordOf (s.dir.grant (off / 16)).toNat (off / 8 % 2)
  else if off = 0x100008 then BitVec.ofNat 64 s.dir.names.length
  else if off = 0x100010 then BitVec.ofNat 64 s.liveObjects
  else if off = 0x100018 then BitVec.ofNat 64 (s.dir.opens.countP (fun o => o.obj.isSome))
  else 0

/-- The fault and spill page. -/
def State.readFaultPage (s : State) (off : Nat) : DWord :=
  if off = 0 then s.ctl.atbase
  else if off = 0x10 then boolWord (!s.ctl.tinv.isEmpty)
  else if 0x1000 ≤ off ∧ off < 0x10000 then
    let i := (off - 0x1000) / 32
    if i < s.serviceCores.length then
      match (off / 8) % 4 with
      | 0 => (s.ring i).base
      | 1 => (s.ring i).log2
      | 2 => (s.ring i).prod.setWidth 64
      | _ => (s.ring i).cons
    else 0
  else if 0x10000 ≤ off ∧ off < 0x20000 then (s.core ((off - 0x10000) / 8)).cstvec
  else 0

/-- The engine page. -/
def State.readEnginePage (s : State) (off : Nat) : DWord :=
  let cl := off / 0x1000
  let o := off % 0x1000
  if Config.clusters ≤ cl then 0
  else if o < 0x200 then Bank.ctlWord (s.bank cl (o / 8))
  else if o < 0x400 then Bank.statusWord (s.bank cl ((o - 0x200) / 8))
  else if o = 0x400 then (s.routineReg cl).rsnum
  else if o = 0x410 then s.rsstWord cl
  else 0

/-- The link page. -/
def State.readLinkPage (s : State) (off : Nat) : DWord :=
  let f := s.fabric
  if off = 0 then f.wincfg.setWidth 64
  else if off = 8 then BitVec.ofNat 64 (2 ^ 32 * f.ofs.toNat + f.sync.toNat)
  else if off = 0x10 then f.pkgid.setWidth 64
  else if off = 0x18 then f.hpcfg.setWidth 64
  else if 0x1000 ≤ off ∧ off < 0x1800 then s.route ((off - 0x1000) / 8)
  else if 0x2000 ≤ off ∧ off < 0x2200 then assocD f.lwcfg ((off - 0x2000) / 8) 0
  else if 0x80000 ≤ off ∧ off < 0x100000 then assocD f.reqmap ((off - 0x80000) / 8) 0
  else 0

/-- The trust page. -/
def State.readTrustPage (s : State) (off : Nat) : DWord :=
  if off < 0x80 then (s.fwRow (BitVec.ofNat 4 (off / 8))).setWidth 64
  else if off = 0x80 then s.trust.prot.setWidth 64
  else if off = 0x88 then s.trust.dcons.setWidth 64
  else if off = 0x90 then boolWord s.trust.lock
  else if 0x100 ≤ off ∧ off < 0x300 then wordOf (s.trust.roster.getD ((off - 0x100) / 32) 0).toNat ((off - 0x100) / 8 % 4)
  else 0

/-- The monitor page. -/
def State.readMonitorPage (s : State) (off : Nat) : DWord :=
  if off < 0x80000 then (s.core (off / 64)).entries.getD (off / 8 % 8) 0 else 0

/-- The port of an ECAM region, and the offset in it (R344). -/
def ecamPort (pa : Nat) : Nat := pa / 0x10000000 % 2
def ecamOff (pa : Nat) : Nat := pa % 0x10000000

/-- An aligned 8-byte read of control space (R304). The interrupt address of a line reads as its level, and the read takes the line
down (R345, log 26). A configuration read through ECAM gives a free value (log 17); in the endpoint personality there is none. -/
def State.ctlRead (s : State) (pa : Nat) : DWord × State :=
  let off := pa % 0x200000
  match ctlRegion pa with
  | some 0 => (s.readDirPage off, s)
  | some 1 => (s.readFaultPage off, s)
  | some 2 => (s.readEnginePage off, s)
  | some 3 => (s.readLinkPage off, s)
  | some 4 => (boolWord (s.fabric.irq.contains (off / 8)), s.lowerLine (off / 8))
  | some 5 => (s.readTrustPage off, s)
  | some 6 => (s.readMonitorPage off, s)
  | some 7 =>
    if s.typel.selfHosted then (Config.ecamData s.fresh pa, s.used.emit (.configRead (ecamPort pa) (ecamOff pa))) else (0, s)
  | _ => (0, s)

/-! ## Writing -/

/-- A field of a ring, a ring of a service core. -/
def State.writeRing (s : State) (off : Nat) (v : DWord) : State :=
  let i := (off - 0x1000) / 32
  let r := s.ring i
  if s.serviceCores.length ≤ i then s
  else match (off / 8) % 4 with
    | 0 => s.setRing i { r with base := v &&& 0xFFFFFFFFFFFE0 }
    | 1 => s.setRing i { r with log2 := v &&& 0xF }
    | 2 => s
    | _ => s.setRing i { r with cons := v &&& 0xFFFFFFFF }

/-- A store to the fault and spill page (R305). -/
def State.writeFaultPage (s : State) (off : Nat) (v : DWord) : State :=
  if off = 0 then { s with ctl := { s.ctl with atbase := v &&& 0xFFFFFFFF80000 } }
  else if off = 0x08 then s.writeTinv v
  else if off = 0x20 then s.writeSpillreq v
  else if off = 0x28 then s.writeNodekill v
  else if off = 0x30 then s.writeLeasego v
  else if off = 0x38 then s.writeLeaseno v
  else if off = 0x40 then s.writeFenceack v
  else if 0x1000 ≤ off ∧ off < 0x10000 then s.writeRing off v
  else if 0x10000 ≤ off ∧ off < 0x20000 then
    let i := (off - 0x10000) / 8
    s.setCore i { s.core i with cstvec := v &&& 0x7FFFFFFFFFFFFC }
  else s

/-- A store to the directory page (R283). -/
def State.writeDirPage (s : State) (off : Nat) (v : DWord) : State :=
  if off < 0x100000 then s.writeGrant off v else if off = 0x100000 then s.relasid v else s

/-- A store to the engine page (R320). -/
def State.writeEnginePage (s : State) (off : Nat) (v : DWord) : State :=
  let cl := off / 0x1000
  let o := off % 0x1000
  if Config.clusters ≤ cl then s
  else if o < 0x200 then s.writeBankctl cl (o / 8) v
  else if o = 0x400 then s.setRoutineReg cl { s.routineReg cl with rsnum := v &&& 0x1FF }
  else if o = 0x408 then s.writeRsload cl v
  else s

/-- A store to the link page (R334). -/
def State.writeLinkPage (s : State) (off : Nat) (v : DWord) : State :=
  let f := s.fabric
  if off = 0 then if f.sync then s else { s with fabric := { f with wincfg := v.setWidth 4 } }
  else if off = 0x10 then { s with fabric := { f with pkgid := v.setWidth 8 } }
  else if off = 0x18 then { s with fabric := { f with hpcfg := v.setWidth 8 } }
  else if 0x1000 ≤ off ∧ off < 0x1800 then
    { s with fabric := { f with routes := assocSet f.routes ((off - 0x1000) / 8) (v &&& 0xFFC000000000FFFF) } }
  else if 0x2000 ≤ off ∧ off < 0x2200 then
    { s with fabric := { f with lwcfg := assocSet f.lwcfg ((off - 0x2000) / 8) (v &&& 0x800F0000FFFF0007) } }
  else if 0x80000 ≤ off ∧ off < 0x100000 then
    { s with fabric := { f with reqmap := assocSet f.reqmap ((off - 0x80000) / 8) (v &&& 0x800F00000000FFFF) } }
  else s

/-- A configuration write leaves for the port (R344). -/
def State.writeEcam (s : State) (pa : Nat) (v : DWord) : State :=
  if s.typel.selfHosted then
    ({ s with fabric := { s.fabric with ecam := assocSet s.fabric.ecam pa v } }).emit (.configWrite (ecamPort pa) (ecamOff pa) v)
  else s

/-- An aligned 8-byte store to control space performed at its region (R304). The trust page ignores stores (R348); a store to the
interrupt address of a line raises it (R345). -/
def State.ctlWrite (s : State) (pa : Nat) (v : DWord) : State :=
  let off := pa % 0x200000
  match ctlRegion pa with
  | some 0 => s.writeDirPage off v
  | some 1 => s.writeFaultPage off v
  | some 2 => s.writeEnginePage off v
  | some 3 => s.writeLinkPage off v
  | some 4 => s.raiseLine (off / 8)
  | some 6 => if off < 0x80000 then s.writeEntry (off / 64) (off / 8 % 8) v else s
  | some 7 => s.writeEcam pa v
  | _ => s

/-! ## The rows -/

/-- TINV (R306). -/
def execTinv (v : DWord) (s : State) : Out := .next (s.writeTinv v)
/-- SPILLREQ (R310). -/
def execSpillreq (v : DWord) (s : State) : Out := .next (s.writeSpillreq v)
/-- NODEKILL (R305). -/
def execNodekill (v : DWord) (s : State) : Out := .next (s.writeNodekill v)
/-- LEASEGO (R310). -/
def execLeasego (v : DWord) (s : State) : Out := .next (s.writeLeasego v)
/-- LEASENO (R310). -/
def execLeaseno (v : DWord) (s : State) : Out := .next (s.writeLeaseno v)
/-- FENCEACK (R310). -/
def execFenceack (v : DWord) (s : State) : Out := .next (s.writeFenceack v)

/-- PROTECTION_ENTRY_WRITE (R351). -/
def execProtectionEntryWrite (core : Nat) (e : Fin 8) (v : DWord) (s : State) : Out :=
  if core < Config.cores then .next (s.writeEntry core e.val v) else notEnabled "PROTECTION_ENTRY_WRITE"

/-- REGISTER_WRITE (R283): a store to a control register performed at its region. -/
def execRegisterWrite (pa : Nat) (v : DWord) (s : State) : Out :=
  if pa % 8 = 0 ∧ (ctlRegion pa).isSome ∧ (ctlRegion pa ≠ some 0 ∨ s.dirFree) then .next (s.ctlWrite pa v)
  else notEnabled "REGISTER_WRITE"

/-! ## INVALIDATION_DONE (R306) -/

/-- The invalidation names this address of an address space. -/
def tinvNames (v : DWord) (asid : BitVec 16) (vpn16 : Nat) (level : Nat) : Bool :=
  v.extractLsb' 48 16 = asid && (v.getLsbD 47 || bits v.toNat 38 0 / 2 ^ (pageBits level - 16) = vpn16 / 2 ^ (pageBits level - 16))

/-- A TLB entry holds a named translation that no lease pins. -/
def TlbEntry.named (v : DWord) (e : TlbEntry) : Bool :=
  !e.pinned && tinvNames v e.asid (e.leaf.vpn * 2 ^ (pageBits e.leaf.level - 16)) e.leaf.level

/-- An agent may act for an address space: a slot's, a tile's and a command's is its node's, and a port or a walker may act for
any. -/
def State.actsFor (s : State) (asid : BitVec 16) (a : Agent) : Bool :=
  let ofNode := fun (id : Nat) => s.nodes.any (fun n => n.id = id && n.asid = asid)
  let ofSlot := fun (id : SlotId) => s.threads.any (fun t => t.id = id && t.asid = asid)
    || s.nodes.any (fun n => n.asid = asid && n.members.any (fun m => m.id = id))
  match a with
  | .slot id => ofSlot id
  | .tile id _ _ => ofSlot id
  | .cmd id => s.cmds.any (fun c => c.id = id && ofNode c.node)
  | .node id => ofNode id
  | .port _ => true
  | .walker _ => true

/-- An access that may have used a named translation is still to be performed: one that a thread of the address space waits for, a
line of a store buffer with stores made through it, or a request admitted for it. -/
def State.invalidationWaits (s : State) (v : DWord) : Bool :=
  let asid := v.extractLsb' 48 16
  s.threads.any (fun t => t.asid = asid &&
    (match t.wait with
      | .access r => r.lanes.any (fun x => x.leaf.isSome)
      | _ => false))
  || s.sb.any (fun x => x.2.any (fun e => e.asids.contains asid && e.line.isGlobal))
  || s.fabric.items.any (fun i => match i.req with
      | .line _ _ => false
      | .access _ => false
      | .chunk id => s.actsFor asid (.cmd id)
      | .read a => s.actsFor asid a
      | .atomic a => s.actsFor asid a
      | .write a => s.actsFor asid a)

/-- INVALIDATION_DONE (R306): every TLB has dropped the named translations; those that a lease pins stay. -/
def execInvalidationDone (s : State) : Out :=
  match s.ctl.tinv with
  | [] => notEnabled "INVALIDATION_DONE"
  | v :: rest =>
    if s.invalidationWaits v then notEnabled "INVALIDATION_DONE"
    else .next { s with ctl := { s.ctl with tinv := rest }, tlb := s.tlb.filter (fun e => !e.named v) }

end Sys2Proof.Machine
end

