-- ==== Sys2Proof/Machine/Homes.lean ====
section
/-!
DEFINITION. What is performed at the homes on behalf of the slots: store messages, loads and atomics on their way, the answers
of other packages, page walks and the answers of hosts to snoops (spec/06_memory_instr.md R126 to R131, spec/12_ordering.md
R245 to R256, spec/18_faults_preemption.md R301, spec/21_fabric_host.md R335, R341).
-/
namespace Sys2Proof.Machine

/-! ## STORE_LINE_PERFORM (R245) -/

/-- A message of the list to the same home that was sent before this one is still to be performed (R127). -/
def earlierInList (l : List SbEntry) (e : SbEntry) : Bool :=
  l.any (fun x => x.sent && homeUnit x.line = homeUnit e.line && decide (x.order < e.order))

/-- A line at a home of this module, of a host or of control space is written. The home has admitted it when the store issued, and
what would have it refused comes after it (State.performSent). -/
def State.performLine (s : State) (core : Nat) (e : SbEntry) : State :=
  match e.line with
  | .ctl pa =>
    match maskRuns e.mask 64 0 with
    | (o, _) :: _ => s.ctlWrite (pa + o) (BitVec.ofNat 64 (e.data.toNat / 2 ^ (8 * o)))
    | [] => s
  | h => s.performMaskedFor (clusterOf core) e.target h e.mask e.data

/-- A store to RELASID waits for what its slot has stored before, and for what it has read from the core's buffer: the release of those
lines comes first (R252, R290). -/
def State.releasedBefore (s : State) (core : Nat) (e : SbEntry) : Bool :=
  match e.line with
  | .ctl pa => !(ctlRegion pa = some 0 && pa % 0x200000 = 0x100000) ||
      (s.sbOf core).all (fun x => x.order = e.order || decide (e.born < x.born) ||
        !(x.writers.any (e.writers.contains ·) ||
          s.threads.any (fun t => t.id.core = core && e.writers.contains t.id.slot && t.readLines.contains x.line)))
  | _ => true

/-- The message is a store to the directory's page (R283). -/
def SbEntry.toDirectory (e : SbEntry) : Bool :=
  match e.line with
  | .ctl pa => ctlRegion pa = some 0
  | _ => false

/-- A line may be performed now: its bank does not switch, and a host that may hold it has answered (R341). -/
def State.lineReady (s : State) (e : SbEntry) : Bool :=
  match e.line with
  | .sram cl off => (s.bank cl (off / 65536)).switching.isNone
  | .hbm pa => !(e.share = .hostcoh && s.mayHold (pa / 64))
  | .ctl _ => true
  | .peer _ _ => false
  | .lm _ _ => true
  | .host _ _ => true
  | .xlm _ _ => true

/-- STORE_LINE_PERFORM (R245): the k-th message of a core is performed at its home, which updates the cluster's copy and
acknowledges it. A store to the directory's page takes its turn among the directory's operations (R283, R289). -/
def execStoreLinePerform (core k : Nat) (s : State) : Out :=
  let l := s.sbOf core
  match l[k]? with
  | none => notEnabled "STORE_LINE_PERFORM"
  | some e =>
    if !e.sent || e.waiting || earlierInList l e || !s.releasedBefore core e || !s.lineReady e then notEnabled "STORE_LINE_PERFORM"
    else if e.toDirectory && !s.dirTurn (.store core e.order) then
      if s.dir.queue.contains (.store core e.order) then notEnabled "STORE_LINE_PERFORM" else .next (s.dirAwait (.store core e.order))
    else
      let s := s.dirServed (.store core e.order)
      .next (((s.performLine core e).cacheUpdate (clusterOf core) e.line e.mask e.data).setSb core (l.eraseIdx k))

/-! ## Loads and atomics on their way (R126, R131) -/

/-- The value of a lane has arrived: the next lane is awaited, or the access completes. -/
def laneArrives (r : AccessReq) (bytes : List Byte) (s : State) : Out :=
  let got := bytes :: r.got
  match r.lanes.tail with
  | [] => finishAccess r.dest r.upd r.acq (got.reverse.map ofBytes) (max s.clock s.thr.nextIssue) s
  | rest => .next { s with thr := { s.thr with wait := .access { r with lanes := rest, got := got, tag := none } } }

/-- A load's bytes have come from their home: a global line enters the cluster cache (R126), or under HNT only brings a copy that
is there up to date (R246), with the line in its slice (R329), and the store buffer's bytes stand over what the home holds. -/
def State.loadedAt (s : State) (x : LaneReq) (hnt : Bool) (line : Option VecWord) (l : List Byte) : List Byte × State :=
  let core := s.thr.id.core
  if x.home.isGlobal then
    let u := match line with
      | none => s
      | some v => if laneShare x = Share.hostcoh then s
        else if hnt then s.cacheUpdate (clusterOf core) x.home.line (BitVec.allOnes 64) v
        else s.cacheFill (clusterOf core) x.home.line (laneShare x) v
    (s.overlay core x.home l, (if hnt then u else u.sliceFill x.home).noteRead x)
  else (l, s.wakeBank x.home)

/-- A cluster holds, or may read, a newer value of another package's line than the answers to its reads that are on their way
bring: they are asked for again (R245, R251). -/
def State.markStale (s : State) (cl : Nat) (line : Home) : State :=
  let older := fun (g : PeerLine) => match g.who with
    | .slot id => g.line = line && !g.atomic && clusterOf id.core = cl
    | _ => false
  { s with fabric := { s.fabric with
    items := s.fabric.items.map (fun i => if i.cl = cl && i.line = line then { i with stale := true } else i)
    got := s.fabric.got.filter (fun g => !older g) } }

/-- The bytes of a host's answer. -/
def hostBytes (s : State) (port bus n : Nat) (data : VecWord) : List Byte :=
  if s.hostSilent port bus then List.replicate n 0xFF else (toBytes 64 data.toNat).take n

/-- A lane performed at its home; `data` is what a host answers: the line of a page that the cluster cache holds (R246), or the bytes
of another access. None while it cannot be. -/
def laneAtHome (r : AccessReq) (x : LaneReq) (data : VecWord) (s : State) : Out :=
  let core := s.thr.id.core
  let zeros : List Byte := List.replicate x.n 0
  match s.homeCheck (some core) x.home x.n (atomicOf r.dest).isSome false with
  | .wait => notEnabled "ACCESS_RESPONSE"
  | .refuse c => fault c 0 (some x.ea) s
  | .ok =>
    match x.home, atomicOf r.dest with
    | .ctl pa, _ => let (v, s) := s.ctlRead pa; laneArrives r (toBytes 8 v.toNat) s
    | .peer _ _, some _ => notEnabled "ACCESS_RESPONSE"
    | .peer _ _, none =>
      if x.leaf.any s.discarded && !x.leaf.any s.reviving then laneArrives r (s.overlay core x.home zeros) (s.noteRead x)
      else notEnabled "ACCESS_RESPONSE"
    | .host port bus, none =>
      if x.leaf.any s.discarded then laneArrives r (s.overlay core x.home zeros) (s.noteRead x)
      else if s.hostSilent port bus then laneArrives r (s.overlay core x.home (List.replicate x.n 0xFF)) (s.noteRead x)
      else if laneShare x = .hostcoh then
        laneArrives r (s.overlay core x.home ((toBytes 64 data.toNat).take x.n)) ((s.emit (.hostRead port bus x.n)).noteRead x)
      else
        let (b, s) := (s.emit (.hostRead port (bus / 64 * 64) 64)).loadedAt x r.hnt (some data)
          (((toBytes 64 data.toNat).drop (bus % 64)).take x.n)
        laneArrives r b s
    | .host port bus, some req =>
      let old := if x.leaf.any s.discarded then zeros else hostBytes s port bus x.n data
      let s := s.markWrite x
      laneArrives r old (if s.hostSilent port bus then s else (s.emit (.hostAtomic port bus req)).tripWritten x.home req old)
    | h, some req =>
      let s := s.markWrite x
      if s.badAt h x.n || s.tagFails h x.n then machineCheck (s.laneKind x) h.off s
      else
        let (old, s) := (s.cacheDrop (clusterOf core) h.line).atomicAt (clusterOf core) (s.targetWorld h x.leaf) h req
        laneArrives r (toBytes x.n old) s
    | h, none =>
      match s.readLane x with
      | none => machineCheck (s.laneKind x) h.off s
      | some l => let (b, s) := s.loadedAt x r.hnt (s.readLine x) l; laneArrives r b s

/-- ACCESS_RESPONSE (R126): the next access of a slot's load, gather or atomic is performed where its bytes are, and its value
arrives. -/
def execAccessResponse (slot : SlotId) (data : VecWord) (s : State) : Out :=
  onSlot "ACCESS_RESPONSE" slot s fun s =>
    match s.thr.wait with
    | .access r =>
      (match r.lanes with
       | [] => notEnabled "ACCESS_RESPONSE"
       | x :: _ =>
         if r.tag.isSome then notEnabled "ACCESS_RESPONSE"
         else match s.nowStep r.dest x r.hnt with
           | some (.value l s) => laneArrives r l s
           | some .hold => notEnabled "ACCESS_RESPONSE"
           | some (.refused c) => fault c 0 (some x.ea) s
           | some .broken => machineCheck (s.laneKind x) x.home.off s
           | none =>
             if s.earlierMessage slot.core x.home || s.snooped x then notEnabled "ACCESS_RESPONSE" else laneAtHome r x data s)
    | _ => notEnabled "ACCESS_RESPONSE"

/-! ## Answers from other packages (R335) -/

/-- The admitted request that an answer belongs to. -/
def State.itemOf (s : State) (m : Message) : Option VexeyItem :=
  s.fabric.items.find? (fun i => i.pkg = m.pkg.toNat && i.tag = m.tag.toNat)

/-- A request that has been answered. -/
def State.dropItem (s : State) (i : VexeyItem) : State :=
  { s with fabric := { s.fabric with items := s.fabric.items.filter (fun x => !(x.pkg = i.pkg && x.tag = i.tag)) } }

/-- The answer's tag fails for the first time: the request is made once more at its home (R314, R353). -/
def State.askAgain (s : State) (i : VexeyItem) : State :=
  let again := { i with retried := true }
  { s with fabric := { s.fabric with
    items := s.fabric.items.map (fun (x : VexeyItem) => if x.pkg = i.pkg && x.tag = i.tag then again else x) } }.sendOn (some i.link) i.sent

/-- The request is a command's, which is begun again as a whole (R314). -/
def VexeyReq.ofCmd : VexeyReq → Option Nat
  | .chunk id => some id
  | .read (.cmd id) => some id
  | _ => none

/-- The bytes of a slot's answered access given to it; a slot that no longer waits takes none, and a stale read is made again. -/
def answerSlot (row : String) (slot : SlotId) (i : VexeyItem) (line : VecWord) (bytes : LaneReq → List Byte) (s : State) : Out :=
  match (s.dropItem i).focus slot with
  | none => .next (s.dropItem i)
  | some _ =>
    onSlot row slot (s.dropItem i) fun s =>
      match s.thr.wait with
      | .access r =>
        (match r.lanes with
         | x :: _ =>
           if r.tag ≠ some i.tag ∨ x.home.line ≠ i.line then .next s
           else match atomicOf r.dest with
             | some req => laneArrives r (bytes x) (((s.cacheDrop i.cl i.line).markStale i.cl i.line).tripWritten x.home req (bytes x))
             | none =>
               if i.stale then .next { s with thr := { s.thr with wait := .access { r with tag := none } } }
               else
                 let (b, s) := s.loadedAt x r.hnt (if i.past && laneShare x = .shared then none else some line) (bytes x)
                 laneArrives r b (s.markStale i.cl i.line)
         | [] => .next s)
      | _ => .next s

/-- The piece of a command's source that it reads next from another package: its offset in the chunk and its length. -/
def State.nextPiece (s : State) (c : Cmd) : Option (DWord × Nat) :=
  match s.sourcePtr c with
  | none => none
  | some p => ((linePieces p c.chunkLen).find? (fun x => decide (c.buf.length ≤ x.1))).map (fun x => (adv p (x.1 : Nat), x.2))

/-- An answer kept for the step of the agent that asked for it; a stale read is made again. -/
def State.keepAnswer (s : State) (i : VexeyItem) (a : Agent) (atomic : Option AtomicReq) (broken : Bool) (data : VecWord) : State :=
  let s := s.dropItem i
  let g : PeerLine := { who := a, line := i.line, atomic := atomic.isSome, broken := broken, data := data }
  if atomic.isSome || !i.stale then { s with fabric := { s.fabric with got := s.fabric.got ++ [g] } } else s

/-- An answer whose tag has failed again: the word of a slot ends in MCHECK, a command's chunk fails, and another agent's step meets
the failure (R314, R353). -/
def answerBroken (row : String) (i : VexeyItem) (s : State) : Out :=
  match i.req with
  | .access slot =>
    (match (s.dropItem i).focus slot with
     | none => .next (s.dropItem i)
     | some _ =>
       onSlot row slot (s.dropItem i) fun s =>
         match s.thr.wait with
         | .access r => if r.tag = some i.tag then machineCheck 4 i.sent.msg.pa.toNat s else .next s
         | _ => .next s)
  | .chunk id =>
    (match s.cmds.find? (fun c => c.id = id) with
     | none => .next (s.dropItem i)
     | some c => s.afterChunk row c (.fail .mcheck) |> fun o => match o with
       | .next t => .next (t.dropItem i)
       | o => o)
  | .read a => .next (s.keepAnswer i a none true 0)
  | .atomic a => .next (s.keepAnswer i a i.sent.atomic true 0)
  | .line _ _ => notEnabled row
  | .write _ => notEnabled row

/-- An answer opened for the request it belongs to; one whose tag fails has the request made again once (R353). -/
def answered (row : String) (op : BitVec 4) (m : Message) (payload : VecWord) (s : State) (body : VexeyItem → VecWord → Out) : Out :=
  match s.itemOf m with
  | none => notEnabled row
  | some i =>
    if m.op ≠ op then notEnabled row
    else match s.openMessage m payload none with
      | some v => body i v
      | none => if i.retried || i.req.ofCmd.isSome then answerBroken row i s else .next (s.askAgain i)

/-- READ_DATA (R335): the line of an admitted read arrives; a slot, a command's chunk or another agent takes its bytes. -/
def execReadData (m : Message) (payload : VecWord) (s : State) : Out :=
  answered "READ_DATA" 3 m payload s fun i line =>
    let from_ := fun (off n : Nat) => ((toBytes 64 line.toNat).drop (off % 64)).take n
    match i.req with
    | .access slot => answerSlot "READ_DATA" slot i line (fun x => from_ x.home.off x.n) s
    | .read a => .next (s.keepAnswer i a none false line)
    | .chunk id =>
      (match s.cmds.find? (fun c => c.id = id) with
       | none => .next (s.dropItem i)
       | some c =>
         match s.nextPiece c with
         | none => .next (s.dropItem i)
         | some (p, n) => .next ((s.dropItem i).putCmd { c with buf := c.buf ++ from_ (ptrByte p) n, since := none }))
    | .line _ _ => notEnabled "READ_DATA"
    | .atomic _ => notEnabled "READ_DATA"
    | .write _ => notEnabled "READ_DATA"

/-- ATOMIC_DATA (R335): the old value of an admitted atomic arrives. -/
def execAtomicData (m : Message) (payload : VecWord) (s : State) : Out :=
  answered "ATOMIC_DATA" 5 m payload s fun i line =>
    match i.req with
    | .access slot => answerSlot "ATOMIC_DATA" slot i line (fun x => (toBytes 64 line.toNat).take x.n) s
    | .atomic a =>
      let t := (s.keepAnswer i a i.sent.atomic false line).cacheDrop i.cl i.line
      .next (match i.sent.atomic with
        | some req => t.tripWritten (.peer i.pkg i.sent.msg.pa.toNat) req ((toBytes 64 line.toNat).take (atomicBytes req))
        | none => t)
    | .chunk _ => notEnabled "ATOMIC_DATA"
    | .line _ _ => notEnabled "ATOMIC_DATA"
    | .read _ => notEnabled "ATOMIC_DATA"
    | .write _ => notEnabled "ATOMIC_DATA"

/-- The entries of a core without the acknowledged one. -/
def dropEntry (e : SbEntry) (l : List SbEntry) : List SbEntry := l.filter (fun x => !(x.sent && !x.waiting && x.order = e.order))

/-- PERFORMED (R335, R245): an admitted write is acknowledged; the cluster's copy of the line takes a store's bytes, and is dropped
where it may be newer than those (R251) or where an engine wrote (R246). Monitors that this module's slots armed on the line trip: its home has been written (R256). -/
def execPerformed (m : Message) (s : State) : Out :=
  match s.itemOf m with
  | none => notEnabled "PERFORMED"
  | some i =>
    if m.op ≠ 6 then notEnabled "PERFORMED"
    else match i.req with
      | .line core e =>
        let t := s.dropItem i
        let t := if i.stale then t.cacheDrop (clusterOf core) e.line else t.cacheUpdate (clusterOf core) e.line e.mask e.data
        .next (((t.markStale i.cl i.line).tripAt i.line 64).setSb core (dropEntry e (s.sbOf core)))
      | .write _ => .next ((((s.dropItem i).cacheDrop i.cl i.line).markStale i.cl i.line).tripAt i.line 64)
      | .access _ => notEnabled "PERFORMED"
      | .chunk _ => notEnabled "PERFORMED"
      | .read _ => notEnabled "PERFORMED"
      | .atomic _ => notEnabled "PERFORMED"

/-! ## PAGE_WALK (R301, R303) -/

/-- PAGE_WALK (R301): a walker of a cluster reads the tables; A is set, and D for a permitted write, and the cluster's L2 TLB takes
the leaf. A walk that fails leaves nothing behind: whoever accesses the page meets the failure (R302). -/
def execPageWalk (cl : Nat) (asid : BitVec 16) (va : VAddr) (kind : AccessKind) (s : State) : Out :=
  if Config.clusters ≤ cl ∨ (s.tlbFind (.l2 cl) asid va.toNat).isSome then notEnabled "PAGE_WALK"
  else match s.walk asid va.toNat with
    | .error _ => .next s
    | .ok l =>
      let (l, s) := s.markAccessed l
      let s := s.tlbFill (.l2 cl) asid l
      .next (if kindWrites kind && (leafDenies l.word kind false).isNone && !pteDisc l.word then s.markDirty l else s)

/-! ## BACK_INVALIDATE_RESPONSE (R341) -/

/-- BACK_INVALIDATE_RESPONSE (R341): the hosts answer the snoop for a line that they may hold, and hold it no longer. -/
def execBackInvalidateResponse (line : Nat) (s : State) : Out :=
  if s.mayHold line then
    .next ({ s with fabric := { s.fabric with hostLines := s.fabric.hostLines.filter (·.1 ≠ line) } }.emit (.snoop (64 * line)))
  else notEnabled "BACK_INVALIDATE_RESPONSE"

end Sys2Proof.Machine
end

