-- ==== Sys2Proof/Machine/Fabric.lean ====
section
/-!
DEFINITION. The Vexey ports, the messages that arrive from other packages, and the shared clock (spec/21_fabric_host.md R335
to R339, spec/12_ordering.md R248).
-/
namespace Sys2Proof.Machine

/-- A record of the ports, always for ring 0 (R309). -/
def State.postPort (s : State) (sub info : Nat) (w1 w2 w3 : DWord) : State :=
  s.post { unit := .port, ring := 0, w0 := recordWord0 info 0 sub 0, w1 := w1, w2 := w2, w3 := w3 }

/-! ## VEXEY_ADMISSION (R337) -/

/-- The k-th line of a core leaves for its package. -/
def admitLine (core k flits : Nat) (s : State) : Out :=
  match ((s.sbOf core)[k]?.map (·.line) : Option Home) with
  | some (.peer pkg _) =>
    if flits ≠ s.flitsTo pkg then notEnabled "VEXEY_ADMISSION"
    else match s.admitEntry core k with
      | some t => .next t
      | none => notEnabled "VEXEY_ADMISSION"
  | _ => notEnabled "VEXEY_ADMISSION"

/-- The next access of a slot's load or atomic leaves for its package. -/
def admitAccess (slot : SlotId) (flits : Nat) (s : State) : Out :=
  onSlot "VEXEY_ADMISSION" slot s fun s =>
    match s.thr.wait with
    | .access r =>
      (match r.lanes with
       | [] => notEnabled "VEXEY_ADMISSION"
       | x :: _ =>
         match x.home with
         | .peer pkg pa =>
           let req := atomicOf r.dest
           if r.tag.isSome || (s.nowStep r.dest x r.hnt).isSome || flits ≠ s.flitsTo pkg
               || (s.sbOf slot.core).any (fun e => e.waiting && homeUnit e.line = homeUnit x.home) then notEnabled "VEXEY_ADMISSION"
           else match s.admitRequest (.access slot) (if req.isSome then 4 else 2) pkg (if req.isSome then pa else pa / 64 * 64) 0
               s.thr.world 0 req with
             | none => notEnabled "VEXEY_ADMISSION"
             | some (tag, s) => .next { s with thr := { s.thr with wait := .access { r with tag := some tag } } }
         | _ => notEnabled "VEXEY_ADMISSION")
    | _ => notEnabled "VEXEY_ADMISSION"

/-- A request about a command's source is on its way, or its answer has come. -/
def State.chunkAsked (s : State) (id : Nat) : Bool :=
  s.fabric.items.any (fun i => i.req = .chunk id || i.req = .read (.cmd id)) || s.fabric.got.any (fun g => g.who = .cmd id)

/-- The next read of a command's chunk leaves for its package. -/
def admitChunk (id flits : Nat) (s : State) : Out :=
  match s.cmds.find? (fun c => c.id = id) with
  | none => notEnabled "VEXEY_ADMISSION"
  | some c =>
    match s.nextPiece c with
    | none => notEnabled "VEXEY_ADMISSION"
    | some (p, n) =>
      let u := s.cmdUser c
      match (s.engineLane u p n .engRead).1 with
      | .error _ => notEnabled "VEXEY_ADMISSION"
      | .ok x =>
        match x.home with
        | .peer pkg pa =>
          if c.st ≠ .running ∨ c.since = none ∨ s.chunkAsked id ∨ s.cmdStopped c ∨ flits ≠ s.flitsTo pkg then
            notEnabled "VEXEY_ADMISSION"
          else match s.admitRequest (.chunk id) 2 pkg (pa / 64 * 64) 0 u.world 0 none with
            | none => notEnabled "VEXEY_ADMISSION"
            | some (_, s) => .next s
        | _ => notEnabled "VEXEY_ADMISSION"

/-- VEXEY_ADMISSION (R337): a port admits a request; this many flits are queued ahead of it on its first-hop link. -/
def execVexeyAdmission (req : VexeyKey) (flits : Nat) (s : State) : Out :=
  match req with
  | .line core k => admitLine core k flits s
  | .access slot => admitAccess slot flits s
  | .chunk cmd => admitChunk cmd flits s

/-! ## Messages from other packages (R335, R336) -/

/-- A request for another package goes on over this one's route to it, once there is one (R336). -/
def forwardOr (row : String) (p : Packet) (s : State) (body : State → Out) : Out :=
  if p.msg.pkg = s.fabric.pkgid then body s
  else match s.linkTo p.msg.pkg.toNat with
    | some link => .next (s.sendOn (some link) p)
    | none => notEnabled row

/-- The answer to a request: from this package, with the request's tag. -/
def State.answer (s : State) (m : Message) (op : Nat) : Message :=
  { mask := 0, op := BitVec.ofNat 4 op, world := m.world, tag := m.tag, pkg := s.fabric.pkgid, pa := m.pa }

/-- An answer on its way; for a protected world it is sealed (R353). -/
def State.reply (s : State) (m : Message) (op : Nat) (payload : VecWord) : State :=
  let (p, s) := s.packet Config.clusters (s.answer m op) payload none
  s.sendOn none p

/-- The target world of an address of HBM for a request that comes without a leaf. -/
def State.frameWorld (s : State) (pa : Nat) : BitVec 4 := (s.frameWorlds pa).headD 1

/-- A request at its home, once no host may hold the line: one whose tag fails is lost (R353, log 106). -/
def homeThen (row : String) (p : Packet) (s : State) (body : VecWord → State → Out) : Out :=
  forwardOr row p s fun s =>
    if s.awaitsHosts none (p.msg.pa.toNat / 64 * 64) 64 then notEnabled row
    else match s.openMessage p.msg p.payload p.atomic with
      | some v => body v s
      | none => .next s

/-- The bytes of a line that a write's mask selects, as ranges that the firewall admits for the header's world (R347, R349). -/
def State.writeAdmitted (s : State) (m : Message) : Bool :=
  (maskRuns m.mask 64 0).all (fun r => s.admitsFrames m.world (m.pa.toNat / 64 * 64 + r.1) r.2 false true)

/-- VEXEY_WRITE (R336): the masked bytes of a line are performed as one write, and acknowledged. A write that the firewall denies is
discarded and acknowledged (log 106). -/
def execVexeyWrite (m : Message) (payload : VecWord) (s : State) : Out :=
  if m.op ≠ 1 then notEnabled "VEXEY_WRITE"
  else homeThen "VEXEY_WRITE" { msg := m, payload := payload, atomic := none } s fun v s =>
    let line := m.pa.toNat / 64 * 64
    if s.writeAdmitted m then
      .next ((s.performMaskedFor Config.clusters (s.frameWorld line) (.hbm line) m.mask v).reply m 6 0)
    else .next (s.reply m 6 0)

/-- What the answer to a read that is denied, or that meets an integrity failure, carries (log 106). -/
def State.deniedLine (s : State) : VecWord := BitVec.ofNat 512 (ofBytes ((List.range 64).map (Config.deniedByte s.fresh)))

/-- The firewall denies a request, or what it reads cannot be corrected or opened. -/
def State.readDenied (s : State) (m : Message) (pa n : Nat) (wr : Bool) : Bool :=
  !s.admitsFrames m.world pa n true wr || s.badAt (.hbm pa) n || s.tagFails (.hbm pa) n

/-- VEXEY_READ (R335): the line is read at the home. -/
def execVexeyRead (m : Message) (s : State) : Out :=
  if m.op ≠ 2 then notEnabled "VEXEY_READ"
  else homeThen "VEXEY_READ" { msg := m, payload := 0, atomic := none } s fun _ s =>
    let line := m.pa.toNat / 64 * 64
    if s.readDenied m line 64 false then .next (s.used.reply m 3 s.deniedLine)
    else .next (s.reply m 3 (BitVec.ofNat 512 (ofBytes (s.openedBytes (s.frameWorld line) (.hbm line) 64))))

/-- VEXEY_ATOMIC (R335): an atomic is performed at the home and answers the old value. -/
def execVexeyAtomic (m : Message) (req : AtomicReq) (s : State) : Out :=
  if m.op ≠ 4 then notEnabled "VEXEY_ATOMIC"
  else homeThen "VEXEY_ATOMIC" { msg := m, payload := 0, atomic := some req } s fun _ s =>
    let pa := m.pa.toNat
    if s.readDenied m pa (atomicBytes req) true then .next (s.used.reply m 5 s.deniedLine)
    else
      let (old, t) := s.atomicAt Config.clusters (s.frameWorld pa) (.hbm pa) req
      .next (t.reply m 5 (BitVec.ofNat 512 old))

/-! ## The clock (R338, R339) -/

/-- The size of an offset in ns. -/
def offsetSize (ofs : BitVec 32) : Nat := ofs.toInt.natAbs

/-- CLOCK_MESSAGE (R338): a Sync message brings a new estimate of the offset. -/
def execClockMessage (ofs : BitVec 32) (s : State) : Out :=
  let f := s.fabric
  .next { s with fabric := { f with
    ofs := ofs
    syncAt := s.time.toNat
    goodSince := if offsetSize ofs ≤ 100 then some (f.goodSince.getD s.time.toNat) else none } }

/-- No Sync message has arrived for 1 ms. -/
def State.syncSilent (s : State) : Bool := decide (s.fabric.syncAt + 1000000 ≤ s.time.toNat)

/-- SYNC changes, and ring 0 is told (R309, R339). -/
def State.setSync (s : State) (b : Bool) : State :=
  { s with fabric := { s.fabric with sync := b } }.postPort 0x09 (if b then 1 else 0) (s.fabric.ofs.signExtend 64) s.time 0

/-- SYNC_LOST (R339). -/
def execSyncLost (s : State) : Out :=
  if s.fabric.sync ∧ (250 < offsetSize s.fabric.ofs ∨ s.syncSilent) then .next (s.setSync false) else notEnabled "SYNC_LOST"

/-- SYNC_REGAINED (R339): at the first window boundary after the offset has been small for 10 ms. -/
def execSyncRegained (s : State) : Out :=
  if s.fabric.sync = false ∧ s.syncSilent = false ∧ s.fabric.goodSince.any (fun t => decide (t + 10000000 ≤ s.windowNow * s.windowNs)) then
    .next (s.setSync true)
  else notEnabled "SYNC_REGAINED"

/-! ## Failing links (R337) -/

/-- An admitted request whose link has failed is sent over the standby link; without one its delivery bound is not met, which ring 0
is told. -/
def State.rerouteItem (s : State) (i : VexeyItem) : State :=
  let r := s.route i.pkg
  match s.linkTo i.pkg with
  | some l =>
    let moved := fun (x : VexeyItem) => if x.pkg = i.pkg ∧ x.tag = i.tag then { x with link := l } else x
    ({ s with fabric := { s.fabric with items := s.fabric.items.map moved } }).sendOn (some l) i.sent
  | none =>
    s.postPort 0x09 2 (BitVec.ofNat 64 i.pkg) (BitVec.ofNat 64 i.window)
      (BitVec.ofNat 64 (routePrimary r + 2 ^ 4 * routeStandby r + 2 ^ 8 * (routeHasStandby r).toNat))

/-- One request for each package and window. -/
def firstOfWindow : List VexeyItem → List VexeyItem
  | [] => []
  | i :: l => i :: (firstOfWindow l).filter (fun x => !(x.pkg = i.pkg && x.window = i.window))

/-- LINK_FAILURE (R337). -/
def execLinkFailure (link : Fin 16) (s : State) : Out :=
  let s := { s with fabric := { s.fabric with failed := if s.fabric.failed.contains link.val then s.fabric.failed else link.val :: s.fabric.failed } }
  let hit := s.fabric.items.filter (fun i => i.link = link.val)
  let saved := hit.filter (fun i => (s.linkTo i.pkg).isSome)
  let lost := firstOfWindow (hit.filter (fun i => (s.linkTo i.pkg).isNone))
  .next ((saved ++ lost).foldl State.rerouteItem s)

/-- WINDOW_START (R133, R248): a new window has begun; every FENCE.win that waited for it completes as an acquire at system
scope. -/
def execWindowStart (s : State) : Out :=
  let ready := fun (t : Thread) => match t.wait with
    | .window w => decide (w ≤ s.windowNow) && !s.hostsPending
    | _ => false
  match s.threads.filter ready with
  | [] => notEnabled "WINDOW_START"
  | l =>
    let go := fun (t : Thread) => if ready t then t.stepOr ((t.done (s.clock + 8)).arrive t.following) else t
    let u := { s with thr := go s.thr, others := s.others.map go }
    .next (l.foldl (fun s t => s.acquire t.id.core .sy) u)

end Sys2Proof.Machine
end

