-- ==== Sys2Proof/Machine/HostPort.lean ====
section
/-!
DEFINITION. The host ports and devices, and the writing of fault records (spec/21_fabric_host.md R341 to R346,
spec/12_ordering.md R247, spec/18_faults_preemption.md R309).
-/
namespace Sys2Proof.Machine

/-- A port is an endpoint through which a host reaches the module; else it is a root port (R344). -/
def State.isEndpoint (s : State) (port : Nat) : Bool := !s.typel.selfHosted || (s.typel.optionStrap && port = 1)

/-- The world of a port's inbound requests (R334). -/
def State.portWorld (s : State) (port : Nat) : BitVec 4 := s.fabric.hpcfg.extractLsb' (4 * port) 4

/-! ## Host reads and writes of module HBM (R247, R341) -/

/-- Bytes performed at a physical address of HBM; each line stands sealed for the world of its frame, if that is protected (R353). -/
def State.performFrames (s : State) (pa : Nat) (l : List Byte) : State :=
  (lineList pa l.length).foldl (fun s k => s.sealAt Config.clusters (s.frameWorld (64 * k)) (.hbm (64 * k)) 64)
    (((lineList pa l.length).foldl (fun s k => s.openFor (s.frameWorld (64 * k)) (.hbm (64 * k)) 64) s).perform (.hbm pa) l)

/-- Some word of a range of HBM cannot be corrected, or some line not be opened (R314, R353). -/
def State.unreadable (s : State) (pa n : Nat) : Bool := s.badAt (.hbm pa) n || s.tagFails (.hbm pa) n

/-- What the ports have received and not done (State.fabric.begun): something stands under a key, it is put there with the bytes that are
done, and it is done: what its agent has read for it is no longer wanted. -/
def State.hasBegun (s : State) (key : Nat) : Bool := s.fabric.begun.any (fun x => x.1 = key)
def State.begun (s : State) (key n : Nat) : State :=
  { s with fabric := { s.fabric with begun := (key, n) :: s.fabric.begun.filter (fun x => x.1 ≠ key) } }
def State.portDone (s : State) (key : Nat) : State :=
  let s := s.dropGot (.port key)
  { s with fabric := { s.fabric with begun := s.fabric.begun.filter (fun x => x.1 ≠ key) } }

/-- A device's request behind a port is done. -/
def State.deviceDone (s : State) (port : Nat) : State := (s.portDone (2 + port)).portDone (4 + port)

/-- HOST_WRITE (R247): a write that a port has received is performed at its home; one that the firewall denies is discarded
(R349). It waits for another port's host that may hold a line of it (R341). -/
def execHostWrite (port : Fin 2) (pa : Nat) (data : List Byte) (s : State) : Out :=
  if s.isEndpoint port.val = false ∨ data = [] then notEnabled "HOST_WRITE"
  else if pa + data.length ≤ Config.hbmBytes ∧ s.admitsFrames (s.portWorld port.val) pa data.length false true then
    if s.awaitsHosts (some port.val) pa data.length then
      if s.hasBegun (6 + port.val) then notEnabled "HOST_WRITE" else .next (s.begun (6 + port.val) 0)
    else .next ((s.portDone (6 + port.val)).performFrames pa data)
  else .next (s.portDone (6 + port.val))

/-- HOST_READ (R247): the value at the home, or Unsupported Request where the firewall denies it (R349); Completer Abort while
the port's function is in reset (R346), and where the bytes cannot be had intact (log 106). The host may hold the lines from then on (R341). -/
def execHostRead (port : Fin 2) (pa n : Nat) (s : State) : Out :=
  if s.isEndpoint port.val = false ∨ n = 0 then notEnabled "HOST_READ"
  else if s.fabric.inReset.contains port.val then .next (s.emit (.abort port.val))
  else if pa + n ≤ Config.hbmBytes ∧ s.admitsFrames (s.portWorld port.val) pa n true false then
    let f := s.fabric
    if s.awaitsHosts (some port.val) pa n then notEnabled "HOST_READ"
    else if s.unreadable pa n then .next (s.emit (.abort port.val))
    else .next ({ s with fabric := { f with
        hostLines := ((lineList pa n).map (·, port.val)).filter (fun x => !f.hostLines.contains x) ++ f.hostLines } }.emit
      (.readData port.val (some (s.openedBytes (s.frameWorld pa) (.hbm pa) n))))
  else .next (s.emit (.readData port.val none))

/-! ## The launch window (R342) -/

/-- A submission dropped: ring 0 is told why. -/
def State.dropLaunch (s : State) (w port reason cause : Nat) : State :=
  s.postPort 0x08 2 (BitVec.ofNat 64 (w + 2 ^ 8 * port)) (BitVec.ofNat 64 (reason + 2 ^ 8 * cause)) 0

/-- The descriptor's fields are well formed. -/
def descriptorOk (w : Nat → Nat) : Bool :=
  bits (w 0) 63 55 = 0x80 && bits (w 1) 63 17 = 0 && bits (w 1) 15 11 = 0 && (List.range 6).all (fun i => w (2 + i) = 0)

/-- On whose behalf a port reads a record: as a user-level slot of the window's world and address space (R342). -/
def portUser (port die : Nat) (world : BitVec 4) (asid : BitVec 16) : EngineUser :=
  { slot := ⟨1024 * die, 0⟩, node := 0, world := world, asid := asid, who := .port port, user := true }

/-- The node's id written into word 9 of its record by hardware: where the record could be read, as a SPAWN's is (R217, R218). -/
def State.writeNodeId (s : State) (u : EngineUser) (p : DWord) : EngineStep :=
  match s.engineLane u (adv p 72) 8 .engRead with
  | (.ok r, t) => t.hardwareWrite u.who Config.clusters u.world r (toBytes 8 t.nodeId.toNat)
  | (.error (c, w), _) => .fail c w 0 0

/-- The record of a submission read, checked as SPAWN checks it (R218), given its node id and put into the pool. -/
def submit (port w die : Nat) (world : BitVec 4) (asid : BitVec 16) (f : Nat → Nat) (s : State) : Out :=
  let p := BitVec.ofNat 64 (f 0)
  let u := portUser port die world asid
  let drop := fun (s : State) (c : Cause) => Host.Outcome.next ((s.portDone port).dropLaunch w port 4 c.code)
  let hold := fun (t : Option State) => match t with
    | some t => Host.Outcome.next (t.begun port 0)
    | none => notEnabled "LAUNCH_SUBMISSION"
  match s.engineReadRange u p 128 with
  | .hold _ t => hold t
  | .fail c _ _ _ => drop s c
  | .done l t =>
    match checkRecord true world asid l p with
    | .error c => drop t c
    | .ok n =>
      match t.writeNodeId u p with
      | .done _ v => .next ((v.portDone port).admitNode die { n with msix := if bit (f 1) 16 then some (port, bits (f 1) 10 0) else none })
      | .hold _ v => hold v
      | .fail c _ _ _ => drop t c

/-- LAUNCH_SUBMISSION (R342): a posted write to BAR0. While the pool is full, or the function is in reset, the port takes none. -/
def execLaunchSubmission (port : Fin 2) (off : Nat) (data : List Byte) (s : State) : Out :=
  let w := off / 0x1000
  let cfg := assocD s.fabric.lwcfg w 0
  let die := bits cfg.toNat 2 0
  let f := wordAt data
  if s.isEndpoint port.val = false ∨ s.fabric.inReset.contains port.val ∨ 64 ≤ w then notEnabled "LAUNCH_SUBMISSION"
  else if data.length ≠ 64 ∨ off % 64 ≠ 0 then .next (s.dropLaunch w port.val 1 0)
  else if !cfg.getLsbD 63 then .next (s.dropLaunch w port.val 2 0)
  else if s.poolFull die then notEnabled "LAUNCH_SUBMISSION"
  else if !descriptorOk f then .next (s.dropLaunch w port.val 3 0)
  else submit port.val w die (cfg.extractLsb' 48 4) (cfg.extractLsb' 16 16) f s

/-! ## Devices below root ports (R345) -/

/-- The pieces of a DMA range, with their leaves; or the translation word of the first failure. -/
def dmaLanes (asid : BitVec 16) (k : AccessKind) : List (Nat × Nat) → State → List LaneReq → Except DWord (List LaneReq) × State
  | [], s, acc => (.ok acc.reverse, s)
  | (va, n) :: l, s, acc =>
    match s.walk asid va with
    | .error (level, reason) => (.error (transWord level k reason va), s)
    | .ok x =>
      match leafDenies x.word k false with
      | some reason => (.error (transWord x.level k reason va), s)
      | none =>
        let (x, s) := s.markAccessed x
        dmaLanes asid k l s ({ home := x.home va, ea := vaPtr va, n := n, leaf := some x } :: acc)

/-- A refused DMA request: ring 0 is told, and a read completes with Unsupported Request. -/
def State.refuseDma (s : State) (port : Nat) (rid : BitVec 16) (read : Bool) (w : DWord) : State :=
  let s := s.postPort 0x08 3 (BitVec.ofNat 64 (rid.toNat + 2 ^ 16 * port)) 0 w
  if read then s.emit (.readData port none) else s

/-- The bytes of DMA lanes read one after the other; nothing is kept where one must wait. -/
def dmaRead (a : Agent) (world : BitVec 4) : List LaneReq → List Byte → State → HomeRead
  | [], acc, s => .bytes acc s
  | r :: l, acc, s =>
    match s.readFor a world r with
    | .bytes b s => dmaRead a world l (acc ++ b) s
    | .broken => .broken
    | .hold f t => .hold f t

/-- How far a write of DMA lanes comes: the bytes written, and the state; and, where it must wait, what it has asked for. -/
def dmaWrite (a : Agent) (world : BitVec 4) : List LaneReq → List Byte → Nat → State → Nat × State × Bool
  | [], _, n, s => (n, s, false)
  | r :: l, b, n, s =>
    match r.home with
    | .ctl pa => dmaWrite a world l (b.drop r.n) (n + r.n) (s.raiseLine (pa % 0x200000 / 8))
    | _ => match s.hardwareWrite a Config.clusters world r (b.take r.n) with
      | .done _ s => dmaWrite a world l (b.drop r.n) (n + r.n) s
      | .hold _ t => (n, t.getD s, t.isSome)
      | .fail .. => dmaWrite a world l (b.drop r.n) (n + r.n) s

/-- A request of a device may reach its home: the firewall lets it (R345); no port sends it on to the other one (R340); of control
space only a write to an interrupt address does. -/
def State.dmaAdmits (s : State) (port : Nat) (world : BitVec 4) (read : Bool) (r : LaneReq) : Bool :=
  s.admits world r.home r.leaf read (!read) false && s.onRoster world r.home
    && (match r.home with
        | .ctl pa => !read && ctlRegion pa = some 4
        | .host p _ => p = port
        | _ => true)

/-- The agent that works for the devices behind a port. -/
def deviceAgent (port : Nat) : Agent := .port (2 + port)

/-- A device's read: its completion carries the bytes, or tells that the firewall denies them, or that they cannot be had intact
(log 106). -/
def dmaReads (port : Nat) (world : BitVec 4) (l : List LaneReq) (s : State) : Out :=
  if l.any s.snooped then notEnabled "DMA_REQUEST"
  else if l.all (s.dmaAdmits port world true) then
    match dmaRead (deviceAgent port) world l [] (l.foldl (fun s r => s.wakeBank r.home) s) with
    | .bytes b t => .next ((t.deviceDone port).emit (.readData port (some b)))
    | .broken => .next ((s.deviceDone port).emit (.abort port))
    | .hold _ (some t) => .next (t.begun (4 + port) 0)
    | .hold _ none => notEnabled "DMA_REQUEST"
  else .next ((s.deviceDone port).emit (.readData port none))

/-- A device's write, as far as it can be performed now; the rest waits in its place, and so does the request until other packages have
acknowledged what went to them: the port's next write comes after it (R247). -/
def dmaWrites (port : Nat) (world : BitVec 4) (l : List LaneReq) (data : List Byte) (s : State) : Out :=
  if l.all (s.dmaAdmits port world false) then
    let done := assocD s.fabric.begun (2 + port) 0
    let (n, t, asked) := dmaWrite (deviceAgent port) world l (data.drop done) 0 s
    if data.length ≤ done + n ∧ t.writesOut (deviceAgent port) = false then .next (t.deviceDone port)
    else if n = 0 ∧ !asked then notEnabled "DMA_REQUEST"
    else .next (t.begun (2 + port) (done + n))
  else .next (s.deviceDone port)

/-- DMA_REQUEST (R345): a device reads rd bytes, or writes data, at a virtual address. No page lies past the end of the address space
(log 80). -/
def execDmaRequest (port : Fin 2) (rid : BitVec 16) (va : VAddr) (rd : Nat) (data : List Byte) (s : State) : Out :=
  let map := assocD s.fabric.reqmap rid.toNat 0
  let read : Bool := data = []
  let n := if read then rd else data.length
  let k : AccessKind := if read then .engRead else .engWrite
  let world : BitVec 4 := map.extractLsb' 48 4
  if s.typel.selfHosted = false ∨ n = 0 then notEnabled "DMA_REQUEST"
  else if !map.getLsbD 63 then .next ((s.deviceDone port.val).refuseDma port.val rid read 0)
  else if 2 ^ 55 < va.toNat + n then .next ((s.deviceDone port.val).refuseDma port.val rid read (transWord 0 k 1 0))
  else
    let done := assocD s.fabric.begun (2 + port.val) 0
    match dmaLanes (map.setWidth 16) k (cutPieces 64 (n / 64 + 2) (va.toNat + done) (n - done)) s [] with
    | (.error w, s) => .next ((s.deviceDone port.val).refuseDma port.val rid read w)
    | (.ok l, s) => if read then dmaReads port.val world l s else dmaWrites port.val world l data s

/-- INTERRUPT_LINE_RAISE (R345): a device's message raises the line of a service core. -/
def execInterruptLineRaise (line : Nat) (s : State) : Out :=
  if line < s.serviceCores.length then .next (s.raiseLine line) else notEnabled "INTERRUPT_LINE_RAISE"

/-! ## Reset of a function (R346) -/

/-- A launch window must be enabled again after the reset. -/
def State.closeWindows (s : State) : State :=
  { s with fabric := { s.fabric with lwcfg := s.fabric.lwcfg.map (fun x => (x.1, x.2 &&& 0x7FFFFFFFFFFFFFFF)) } }

/-- FUNCTION_RESET (R346). -/
def execFunctionReset (port : Fin 2) (s : State) : Out :=
  if s.isEndpoint port.val = false ∨ s.fabric.inReset.contains port.val then notEnabled "FUNCTION_RESET"
  else
    let f := s.fabric
    .next ({ s with fabric := { f with inReset := port.val :: f.inReset } }.closeWindows.postPort 0x08 0 (BitVec.ofNat 64 port.val) 0 0)

/-- FUNCTION_READY (R346). -/
def execFunctionReady (port : Fin 2) (s : State) : Out :=
  let f := s.fabric
  if f.inReset.contains port.val then
    .next ({ s with fabric := { f with inReset := f.inReset.filter (· ≠ port.val) } }.postPort 0x08 1 (BitVec.ofNat 64 port.val) 0 0)
  else notEnabled "FUNCTION_READY"

/-! ## Fault records (R309) -/

/-- The first record bound for a ring, and the others. -/
def takeRecord (ring : Nat) : List FaultRecord → Option (FaultRecord × List FaultRecord)
  | [] => none
  | r :: l => if r.ring = ring then some (r, l) else (takeRecord ring l).map (fun x => (x.1, r :: x.2))

/-- A ring takes another record: it is configured and not full. -/
def Ring.takes (r : Ring) : Bool :=
  decide (6 ≤ r.log2.toNat) && decide (r.log2.toNat ≤ 15) && (r.prod - r.cons.setWidth 32).toNat != 2 ^ r.log2.toNat

/-- Where the next record of a ring lies. -/
def Ring.slot (r : Ring) : Nat := r.base.toNat + 32 * (r.prod.toNat % 2 ^ r.log2.toNat)

/-- The next record of a ring can be stored: the ring lies in HBM, and the firewall lets world 1 write there (R347, log 119). -/
def State.ringStands (s : State) (r : Ring) : Bool :=
  decide (r.slot + 32 ≤ Config.hbmBytes) && s.admitsFrames 1 r.slot 32 false true

/-- A cluster's fault unit has room for one more record: those that its cores owe come first (R309). -/
def State.unitFreed (s : State) (u : RecordUnit) : State :=
  match u with
  | .fault cl => ((s.cores.map (·.1)).filter (fun c => clusterOf c = cl)).foldl State.offerOwed s
  | _ => s

/-- FAULT_RECORD_POST (R309): the oldest record for a ring is stored, and PROD counts it; the service core's line is high while
PROD and CONS differ, which wakes its halted slots (R233). -/
def execFaultRecordPost (ring : Nat) (s : State) : Out :=
  let r := s.ring ring
  match takeRecord ring s.ctl.records with
  | none => notEnabled "FAULT_RECORD_POST"
  | some (rec, rest) =>
    if !r.takes || !s.ringStands r || s.awaitsHosts none r.slot 32 then notEnabled "FAULT_RECORD_POST"
    else
      let t := s.performFrames r.slot ([rec.w0, rec.w1, rec.w2, rec.w3].flatMap (fun w => toBytes 8 w.toNat))
      let t := (({ t with ctl := { t.ctl with records := rest } }).setRing ring { r with prod := r.prod + 1 }).unitFreed rec.unit
      .next (match s.serviceCores[ring]? with
        | some core => t.wakeHalted core
        | none => t)

end Sys2Proof.Machine
end

