-- ==== Sys2Proof/Machine/Scalar.lean ====
section
/-!
DEFINITION. The scalar instructions: ALU, ALUK, the immediate forms and SHI (spec/05_scalar_control.md R97 to R104).
-/
namespace Sys2Proof.Machine

/-! ## The functions of R98: N-bit operands, an N-bit result -/

/-- A quotient truncated toward zero, and its remainder: Int.tdiv and Int.tmod (R98, R100). -/
def divsF (w : Width) (a b : DWord) : Nat :=
  if truncW w b = 0 then 2 ^ widthBits w - 1 else wrap (widthBits w) ((signedW w a).tdiv (signedW w b))
def divzF (w : Width) (a b : DWord) : Nat :=
  if truncW w b = 0 then 2 ^ widthBits w - 1 else truncW w a / truncW w b
def remsF (w : Width) (a b : DWord) : Nat :=
  if truncW w b = 0 then truncW w a else wrap (widthBits w) ((signedW w a).tmod (signedW w b))
def remzF (w : Width) (a b : DWord) : Nat :=
  if truncW w b = 0 then truncW w a else truncW w a % truncW w b
def addF (w : Width) (a b : DWord) : Nat := (truncW w a + truncW w b) % 2 ^ widthBits w
def subF (w : Width) (a b : DWord) : Nat := wrap (widthBits w) (truncW w a - truncW w b : Int)
def mulF (w : Width) (a b : DWord) : Nat := truncW w a * truncW w b % 2 ^ widthBits w
def mulhsF (w : Width) (a b : DWord) : Nat := wrap (widthBits w) (signedW w a * signedW w b / 2 ^ widthBits w)
def mulhzF (w : Width) (a b : DWord) : Nat := truncW w a * truncW w b / 2 ^ widthBits w
def andF (w : Width) (a b : DWord) : Nat := truncW w (a &&& b)
def orF (w : Width) (a b : DWord) : Nat := truncW w (a ||| b)
def xorF (w : Width) (a b : DWord) : Nat := truncW w (a ^^^ b)
def andnF (w : Width) (a b : DWord) : Nat := truncW w (a &&& ~~~b)
/-- The shift amount: B mod N (R99). -/
def shiftN (w : Width) (b : DWord) : Nat := b.toNat % widthBits w
def shlF (w : Width) (a b : DWord) : Nat := truncW w a * 2 ^ shiftN w b % 2 ^ widthBits w
def shrlF (w : Width) (a b : DWord) : Nat := truncW w a / 2 ^ shiftN w b
def shraF (w : Width) (a b : DWord) : Nat := wrap (widthBits w) (signedW w a / 2 ^ shiftN w b)
def rolF (w : Width) (a b : DWord) : Nat :=
  (truncW w a * 2 ^ shiftN w b % 2 ^ widthBits w) + truncW w a / 2 ^ (widthBits w - shiftN w b)
def minsF (w : Width) (a b : DWord) : Nat := if signedW w b < signedW w a then truncW w b else truncW w a
def maxsF (w : Width) (a b : DWord) : Nat := if signedW w a < signedW w b then truncW w b else truncW w a
def minzF (w : Width) (a b : DWord) : Nat := min (truncW w a) (truncW w b)
def maxzF (w : Width) (a b : DWord) : Nat := max (truncW w a) (truncW w b)
def seqF (w : Width) (a b : DWord) : Nat := if truncW w a = truncW w b then 1 else 0
def sneF (w : Width) (a b : DWord) : Nat := if truncW w a = truncW w b then 0 else 1
def sltsF (w : Width) (a b : DWord) : Nat := if signedW w a < signedW w b then 1 else 0
def sltzF (w : Width) (a b : DWord) : Nat := if truncW w a < truncW w b then 1 else 0
/-- Leading and trailing zero bits: N when A = 0. -/
def clzF (w : Width) (a : DWord) : Nat := if truncW w a = 0 then widthBits w else widthBits w - 1 - (truncW w a).log2
def ctzF (w : Width) (a : DWord) : Nat := lowestBit (widthBits w) (truncW w a)
def popcF (w : Width) (a : DWord) : Nat := popcount (widthBits w) (truncW w a)
/-- The width SEXT and ZEXT extend from. -/
def extBits : ExtFrom → Nat
  | .b => 8
  | .h => 16
  | .w => 32
def sextF (e : ExtFrom) (w : Width) (a : DWord) : Nat := wrap (widthBits w) (toSigned (extBits e) a.toNat)
def zextF (e : ExtFrom) (a : DWord) : Nat := a.toNat % 2 ^ extBits e
def bswpF (w : Width) (a : DWord) : Nat := ofBytes (toBytes (widthBits w / 8) (truncW w a)).reverse

/-- Cycles to the next issue: 24 or 40 for a division (R116). -/
def divCycles : Width → Nat
  | .w32 => 24
  | .w64 => 40

/-! ## The forms -/

/-- A scalar result written and the word completed. -/
def writeScalar (d : Reg) (w : Width) (r n : Nat) (s : State) : Out := retire n (s.setS d (writeW w r))

/-- ALU with two registers (R97). -/
def alu (i : Instr) (f : Width → DWord → DWord → Nat) (d a b : Reg) (w : Width) (n : Nat) (s : State) : Out :=
  issue i s fun s => writeScalar d w (f w (s.thr.sreg a) (s.thr.sreg b)) n s

/-- A unary ALU function (R97). -/
def aluUnary (i : Instr) (f : DWord → Nat) (d a : Reg) (w : Width) (s : State) : Out :=
  issue i s fun s => writeScalar d w (f (s.thr.sreg a)) 8 s

/-- ALUK (R101): the second operand is win[k]; a refresh or a reefed bank makes the read wait (R116). DESIGN CHOICE (log 116): a
division, which R116 counts in two rows, takes its 24 or 40 cycles and what the read adds. -/
def aluk (i : Instr) (f : Width → DWord → DWord → Nat) (d a : Reg) (k : Fin 256) (w : Width) (n : Nat) (s : State) : Out :=
  issue i s fun s => withWindow k.val 1 s fun s =>
    let (late, u) := s.windowWait k.val
    writeScalar d w (f w (s.thr.sreg a) (s.win k.val)) (n + late) u

/-- An immediate form, at 64 bits (R103). -/
def aluImm (i : Instr) (f : DWord → DWord → DWord) (d a : Reg) (imm : Fin 65536) (s : State) : Out :=
  issue i s fun s => retire 8 (s.setS d (f (s.thr.sreg a) (immediate s.thr imm)))

/-- ADD (R98). -/
def execAdd (d a b : Reg) (w : Width) (s : State) : Out := alu (.add d a b w) addF d a b w 8 s
/-- SUB (R98). -/
def execSub (d a b : Reg) (w : Width) (s : State) : Out := alu (.sub d a b w) subF d a b w 8 s
/-- MUL (R98). -/
def execMul (d a b : Reg) (w : Width) (s : State) : Out := alu (.mul d a b w) mulF d a b w 8 s
/-- MULHS (R98). -/
def execMulhs (d a b : Reg) (w : Width) (s : State) : Out := alu (.mulhs d a b w) mulhsF d a b w 8 s
/-- MULHZ (R98). -/
def execMulhz (d a b : Reg) (w : Width) (s : State) : Out := alu (.mulhz d a b w) mulhzF d a b w 8 s
/-- DIVS (R100). -/
def execDivs (d a b : Reg) (w : Width) (s : State) : Out := alu (.divs d a b w) divsF d a b w (divCycles w) s
/-- DIVZ (R100). -/
def execDivz (d a b : Reg) (w : Width) (s : State) : Out := alu (.divz d a b w) divzF d a b w (divCycles w) s
/-- REMS (R100). -/
def execRems (d a b : Reg) (w : Width) (s : State) : Out := alu (.rems d a b w) remsF d a b w (divCycles w) s
/-- REMZ (R100). -/
def execRemz (d a b : Reg) (w : Width) (s : State) : Out := alu (.remz d a b w) remzF d a b w (divCycles w) s
/-- AND (R98). -/
def execAnd (d a b : Reg) (w : Width) (s : State) : Out := alu (.and d a b w) andF d a b w 8 s
/-- OR (R98). -/
def execOr (d a b : Reg) (w : Width) (s : State) : Out := alu (.or d a b w) orF d a b w 8 s
/-- XOR (R98). -/
def execXor (d a b : Reg) (w : Width) (s : State) : Out := alu (.xor d a b w) xorF d a b w 8 s
/-- ANDN (R98). -/
def execAndn (d a b : Reg) (w : Width) (s : State) : Out := alu (.andn d a b w) andnF d a b w 8 s
/-- SHL (R99). -/
def execShl (d a b : Reg) (w : Width) (s : State) : Out := alu (.shl d a b w) shlF d a b w 8 s
/-- SHRL (R99). -/
def execShrl (d a b : Reg) (w : Width) (s : State) : Out := alu (.shrl d a b w) shrlF d a b w 8 s
/-- SHRA (R99). -/
def execShra (d a b : Reg) (w : Width) (s : State) : Out := alu (.shra d a b w) shraF d a b w 8 s
/-- ROL (R99). -/
def execRol (d a b : Reg) (w : Width) (s : State) : Out := alu (.rol d a b w) rolF d a b w 8 s
/-- MINS (R98). -/
def execMins (d a b : Reg) (w : Width) (s : State) : Out := alu (.mins d a b w) minsF d a b w 8 s
/-- MAXS (R98). -/
def execMaxs (d a b : Reg) (w : Width) (s : State) : Out := alu (.maxs d a b w) maxsF d a b w 8 s
/-- MINZ (R98). -/
def execMinz (d a b : Reg) (w : Width) (s : State) : Out := alu (.minz d a b w) minzF d a b w 8 s
/-- MAXZ (R98). -/
def execMaxz (d a b : Reg) (w : Width) (s : State) : Out := alu (.maxz d a b w) maxzF d a b w 8 s
/-- SEQ (R98). -/
def execSeq (d a b : Reg) (w : Width) (s : State) : Out := alu (.seq d a b w) seqF d a b w 8 s
/-- SNE (R98). -/
def execSne (d a b : Reg) (w : Width) (s : State) : Out := alu (.sne d a b w) sneF d a b w 8 s
/-- SLTS (R98). -/
def execSlts (d a b : Reg) (w : Width) (s : State) : Out := alu (.slts d a b w) sltsF d a b w 8 s
/-- SLTZ (R98). -/
def execSltz (d a b : Reg) (w : Width) (s : State) : Out := alu (.sltz d a b w) sltzF d a b w 8 s
/-- CLZ (R98). -/
def execClz (d a : Reg) (w : Width) (s : State) : Out := aluUnary (.clz d a w) (clzF w) d a w s
/-- CTZ (R98). -/
def execCtz (d a : Reg) (w : Width) (s : State) : Out := aluUnary (.ctz d a w) (ctzF w) d a w s
/-- POPC (R98). -/
def execPopc (d a : Reg) (w : Width) (s : State) : Out := aluUnary (.popc d a w) (popcF w) d a w s
/-- BSWP (R98). -/
def execBswp (d a : Reg) (w : Width) (s : State) : Out := aluUnary (.bswp d a w) (bswpF w) d a w s
/-- SEXT (R98). -/
def execSext (d a : Reg) (e : ExtFrom) (w : Width) (s : State) : Out := aluUnary (.sext d a e w) (sextF e w) d a w s
/-- ZEXT (R98). -/
def execZext (d a : Reg) (e : ExtFrom) (w : Width) (s : State) : Out := aluUnary (.zext d a e w) (zextF e) d a w s
/-- ADD with a window word (R101). -/
def execAddK (d a : Reg) (k : Fin 256) (w : Width) (s : State) : Out := aluk (.addK d a k w) addF d a k w 8 s
/-- SUB with a window word (R101). -/
def execSubK (d a : Reg) (k : Fin 256) (w : Width) (s : State) : Out := aluk (.subK d a k w) subF d a k w 8 s
/-- MUL with a window word (R101). -/
def execMulK (d a : Reg) (k : Fin 256) (w : Width) (s : State) : Out := aluk (.mulK d a k w) mulF d a k w 8 s
/-- MULHS with a window word (R101). -/
def execMulhsK (d a : Reg) (k : Fin 256) (w : Width) (s : State) : Out := aluk (.mulhsK d a k w) mulhsF d a k w 8 s
/-- MULHZ with a window word (R101). -/
def execMulhzK (d a : Reg) (k : Fin 256) (w : Width) (s : State) : Out := aluk (.mulhzK d a k w) mulhzF d a k w 8 s
/-- DIVS with a window word (R101). -/
def execDivsK (d a : Reg) (k : Fin 256) (w : Width) (s : State) : Out := aluk (.divsK d a k w) divsF d a k w (divCycles w) s
/-- DIVZ with a window word (R101). -/
def execDivzK (d a : Reg) (k : Fin 256) (w : Width) (s : State) : Out := aluk (.divzK d a k w) divzF d a k w (divCycles w) s
/-- REMS with a window word (R101). -/
def execRemsK (d a : Reg) (k : Fin 256) (w : Width) (s : State) : Out := aluk (.remsK d a k w) remsF d a k w (divCycles w) s
/-- REMZ with a window word (R101). -/
def execRemzK (d a : Reg) (k : Fin 256) (w : Width) (s : State) : Out := aluk (.remzK d a k w) remzF d a k w (divCycles w) s
/-- AND with a window word (R101). -/
def execAndK (d a : Reg) (k : Fin 256) (w : Width) (s : State) : Out := aluk (.andK d a k w) andF d a k w 8 s
/-- OR with a window word (R101). -/
def execOrK (d a : Reg) (k : Fin 256) (w : Width) (s : State) : Out := aluk (.orK d a k w) orF d a k w 8 s
/-- XOR with a window word (R101). -/
def execXorK (d a : Reg) (k : Fin 256) (w : Width) (s : State) : Out := aluk (.xorK d a k w) xorF d a k w 8 s
/-- ANDN with a window word (R101). -/
def execAndnK (d a : Reg) (k : Fin 256) (w : Width) (s : State) : Out := aluk (.andnK d a k w) andnF d a k w 8 s
/-- SHL with a window word (R101). -/
def execShlK (d a : Reg) (k : Fin 256) (w : Width) (s : State) : Out := aluk (.shlK d a k w) shlF d a k w 8 s
/-- SHRL with a window word (R101). -/
def execShrlK (d a : Reg) (k : Fin 256) (w : Width) (s : State) : Out := aluk (.shrlK d a k w) shrlF d a k w 8 s
/-- SHRA with a window word (R101). -/
def execShraK (d a : Reg) (k : Fin 256) (w : Width) (s : State) : Out := aluk (.shraK d a k w) shraF d a k w 8 s
/-- ROL with a window word (R101). -/
def execRolK (d a : Reg) (k : Fin 256) (w : Width) (s : State) : Out := aluk (.rolK d a k w) rolF d a k w 8 s
/-- MINS with a window word (R101). -/
def execMinsK (d a : Reg) (k : Fin 256) (w : Width) (s : State) : Out := aluk (.minsK d a k w) minsF d a k w 8 s
/-- MAXS with a window word (R101). -/
def execMaxsK (d a : Reg) (k : Fin 256) (w : Width) (s : State) : Out := aluk (.maxsK d a k w) maxsF d a k w 8 s
/-- MINZ with a window word (R101). -/
def execMinzK (d a : Reg) (k : Fin 256) (w : Width) (s : State) : Out := aluk (.minzK d a k w) minzF d a k w 8 s
/-- MAXZ with a window word (R101). -/
def execMaxzK (d a : Reg) (k : Fin 256) (w : Width) (s : State) : Out := aluk (.maxzK d a k w) maxzF d a k w 8 s
/-- SEQ with a window word (R101). -/
def execSeqK (d a : Reg) (k : Fin 256) (w : Width) (s : State) : Out := aluk (.seqK d a k w) seqF d a k w 8 s
/-- SNE with a window word (R101). -/
def execSneK (d a : Reg) (k : Fin 256) (w : Width) (s : State) : Out := aluk (.sneK d a k w) sneF d a k w 8 s
/-- SLTS with a window word (R101). -/
def execSltsK (d a : Reg) (k : Fin 256) (w : Width) (s : State) : Out := aluk (.sltsK d a k w) sltsF d a k w 8 s
/-- SLTZ with a window word (R101). -/
def execSltzK (d a : Reg) (k : Fin 256) (w : Width) (s : State) : Out := aluk (.sltzK d a k w) sltzF d a k w 8 s
/-- ADDI (R103). -/
def execAddi (d a : Reg) (i : Fin 65536) (s : State) : Out := aluImm (.addi d a i) (fun a i => a + i) d a i s
/-- ANDI (R103). -/
def execAndi (d a : Reg) (i : Fin 65536) (s : State) : Out := aluImm (.andi d a i) (fun a i => a &&& i) d a i s
/-- ORI (R103). -/
def execOri (d a : Reg) (i : Fin 65536) (s : State) : Out := aluImm (.ori d a i) (fun a i => a ||| i) d a i s
/-- XORI (R103). -/
def execXori (d a : Reg) (i : Fin 65536) (s : State) : Out := aluImm (.xori d a i) (fun a i => a ^^^ i) d a i s
/-- SLTI (R103). -/
def execSlti (d a : Reg) (i : Fin 65536) (s : State) : Out := aluImm (.slti d a i) (fun a i => boolWord (decide (a.toInt < i.toInt))) d a i s
/-- SLTIU (R103). -/
def execSltiu (d a : Reg) (i : Fin 65536) (s : State) : Out := aluImm (.sltiu d a i) (fun a i => boolWord (decide (a.toNat < i.toNat))) d a i s
/-- The function of an SHI. -/
def shiftF : ShiftKind → Width → DWord → DWord → Nat
  | .shl => shlF
  | .shrl => shrlF
  | .shra => shraF

/-- SHI (R104). -/
def execShi (d a : Reg) (t : ShiftKind) (w : Width) (n : Fin 64) (s : State) : Out :=
  issue (.shi d a t w n) s fun s => writeScalar d w (shiftF t w (s.thr.sreg a) (BitVec.ofNat 64 n.val)) 8 s

end Sys2Proof.Machine
end

