-- ==== Sys2Proof/Machine/Typel.lean ====
section
/-!
DEFINITION. Typel: debug sessions, sampling, link counters, the current limiter and start-up (spec/23_debug_power_boot.md),
with consent, evidence and crash dumps (spec/22_trust.md R356, R357). The halt-mode debug module and the serial console make the
requests of a debug session under the same consent (log 120).
-/
namespace Sys2Proof.Machine

/-! ## The current limiter (R365) -/

/-- The limit of a die in milliwatts: the eight compute dies, then the four base dies. -/
def dieLimit (die : Nat) : Nat := if die < 8 then 400000 else 100000

/-- The issue allowance after a measurement. -/
def nextAllowance (limit mw d : Nat) : Nat :=
  if limit < mw then max 8 (d - 2) else if 100 * mw < 95 * limit then min 16 (d + 2) else d

/-- LIMITER_MEASURE (R365). -/
def execLimiterMeasure (die mw : Nat) (s : State) : Out :=
  if 12 ≤ die then notEnabled "LIMITER_MEASURE"
  else
    let x := s.die die
    .next (s.setDie die { x with allowance := nextAllowance (dieLimit die) mw x.allowance })

/-! ## Evidence (R357) -/

/-- The trust page's bytes of FWROW, PROT and DCONS. -/
def State.trustBytes (s : State) : List Byte :=
  ((List.range 18).map (fun i => s.readTrustPage (8 * i))).flatMap (fun w => toBytes 8 w.toNat)

/-- What the evidence of a world holds before its signature: the monitor's measurement, the hash of the configuration, PROT and
DCONS of the world, its roster, and the nonce. -/
def State.evidenceBody (s : State) (w : BitVec 4) (nonce : List Byte) : List Byte :=
  Config.monitorMeasurement ++ sha384 s.trustBytes
    ++ [BitVec.ofNat 8 (s.trust.prot.getLsbD w.toNat).toNat, BitVec.ofNat 8 (s.trust.dcons.getLsbD w.toNat).toNat]
    ++ toBytes 32 (s.trust.roster.getD w.toNat 0).toNat ++ nonce

/-- ATTEST (R357, R361). -/
def execAttest (world : BitVec 4) (nonce : List Byte) (s : State) : Out :=
  if nonce.length ≠ 32 then .next (s.emit (.refusedDebug world none))
  else
    let body := s.evidenceBody world nonce
    .next (s.used.emit (.evidence (body ++ Config.attestSignature s.fresh body)))

/-! ## Consent (R356) -/

/-- A world consents to debug; world 0 never does. -/
def State.consents (s : State) (w : BitVec 4) : Bool := w != 0 && s.trust.dcons.getLsbD w.toNat

/-- A debug request that names a slot: refused where no thread stands, or its world does not consent. -/
def withSlot (slot : SlotId) (s : State) (body : Thread → Out) : Out :=
  match s.thread? slot with
  | none => .next (s.emit (.refusedDebug 0 none))
  | some t => if isTransform slot || !s.consents t.world then .next (s.emit (.refusedDebug t.world none)) else body t

/-! ## Trace records (R363) -/

/-- STATE of a record: parked, stalled, in a handler, or issuing. -/
def Thread.traceState (t : Thread) : Nat :=
  if t.run = .parked then 2
  else if t.run ≠ .running ∨ t.wait ≠ .none then 1
  else if t.status.inui || t.handling || (t.status.priv != 0 && !t.kind) then 3
  else 0

/-- A record of 32 bytes about a slot. -/
def State.traceRecord (s : State) (kind : Nat) (t : Thread) : List Byte :=
  [2 ^ 56 * kind + 2 ^ 48 * t.traceState + 2 ^ 40 * t.id.slot + coordWord t.id.core, t.pc.toNat, s.time.toNat,
    2 ^ 32 * t.node + t.hbcnt % 2 ^ 32].flatMap (toBytes 8)

/-- A lost summary. -/
def State.lostRecord (s : State) : List Byte := [2 ^ 56 * 4, 0, s.time.toNat, 2 ^ 32 * s.typel.lost].flatMap (toBytes 8)

/-- The ring has room: the produced count minus the reader's count is not 2^m - 1. -/
def State.traceRoom (s : State) : Bool :=
  let c := s.typel.trace
  (s.typel.produced + 2 ^ 64 - s.readHome (.hbm (c.base + 8)) 8) % 2 ^ 64 != 2 ^ c.m - 1

/-- The hosts that may hold lines of a range are snooped, and answer at once (R341, log 130). -/
def State.snoopNow (s : State) (pa n : Nat) : State :=
  if s.awaitsHosts none pa n then
    let (mine, rest) := s.fabric.hostLines.partition (fun x => decide (pa / 64 ≤ x.1) && decide (64 * x.1 < pa + n))
    { s with
      fabric := { s.fabric with hostLines := rest }
      outbox := mine.foldl (fun o x => .snoop (64 * x.1) :: o) s.outbox }
  else s

/-- A record written behind the first record slot, which carries the counts, and counted. -/
def State.tracePut (s : State) (l : List Byte) : State :=
  let c := s.typel.trace
  let n := s.typel.produced
  let s := (s.snoopNow (c.base + 32 * (1 + n % (2 ^ c.m - 1))) 32).snoopNow c.base 8
  let s := (s.performFrames (c.base + 32 * (1 + n % (2 ^ c.m - 1))) l).performFrames c.base (toBytes 8 (n + 1))
  { s with typel := { s.typel with produced := n + 1 } }

/-- A record offered to the ring: a summary of what was lost goes before it, and a full ring loses it. -/
def State.traceOffer (s : State) (l : List Byte) : State :=
  let s := if s.typel.lost ≠ 0 ∧ s.traceRoom then
      let u := s.tracePut s.lostRecord
      { u with typel := { u.typel with lost := 0 } }
    else s
  if s.traceRoom then s.tracePut l else { s with typel := { s.typel with lost := s.typel.lost + 1 } }

/-- A park or resume of a slot recorded while its cluster is sampled. -/
def State.traceSlot (s : State) (kind : Nat) (t : Thread) : State :=
  if s.typel.trace.on && s.typel.trace.clusters.contains (clusterOf t.id.core) then s.traceOffer (s.traceRecord kind t) else s

/-! ## PARK, RESUME, STEP (R362) -/

/-- A slot may park: its word in flight has completed, or it stalls in an instruction that is saved with PC there (R312), or its
arrival at a barrier is counted. -/
def Thread.parkable (t : Thread) : Bool :=
  match t.wait with
  | .none => true
  | .spill => true
  | .ring .. => true
  | .name .. => true
  | .monitor => true
  | .realign _ => true
  | .barrier .. => true
  | .stall .node => true
  | .stall .event => true
  | .stall .pool => true
  | .stall .commit => true
  | .stall .waitTable => true
  | .stall _ => !t.inWord
  | .access _ => false
  | .stream _ => false
  | .window _ => false

/-- What a parked slot still waits for. -/
def Thread.parkedWait (t : Thread) : Wait :=
  match t.wait with
  | .barrier c r => .barrier c r
  | .spill => .spill
  | _ => .none

/-- A thread parked: what it stalled in issues again on resumption; a counted arrival and a completed SPILL stand. -/
def Thread.parked (t : Thread) : Thread :=
  { t with
    run := .parked
    stepping := .no
    progress := 0
    claims := []
    geo := []
    wait := t.parkedWait
    inWord := t.inWord && (t.wait = t.parkedWait) }

/-- The executing slot parks: its registers go to its workspace (R16). -/
def State.parkFocus (s : State) : State :=
  let t := s.thr.parked
  let s := s.perform (.lm t.id.core t.wp) t.ws.bytes
  { s with
    thr := { t with monitor := s.thr.monitor }
    dir := { s.dir with waits := s.dir.waits.filter (fun w => w.slot ≠ t.id) } }

/-- One slot parked. -/
def State.parkOne (s : State) (t : Thread) : State := (s.within t.id (fun u => .next u.parkFocus)).traceSlot 2 t.parked

/-- The slots that a PARK of a thread parks: every attached member of its yard, or the detached member alone. -/
def State.parkGroup (s : State) (t : Thread) : List Thread :=
  if t.role = .detached then [t]
  else s.threads.filter (fun u => u.node = t.node && !isTransform u.id && u.role ≠ .detached && (u.run = .running || u.run = .halted))

/-- A slot of the group parks now, or once its word in flight has completed. -/
def State.parkSoon (s : State) (t : Thread) : State :=
  if t.parkable then s.parkOne t else s.setThread { t with stepping := .parking }

/-- PARK (R362): each slot of the group parks as its word in flight completes, and none begins another; the request is done when all are
parked. A slot that is parked already, or that has executed NEND, stays as it is. -/
def execPark (slot : SlotId) (s : State) : Out :=
  withSlot slot s fun t =>
    if (s.parkGroup t).any (fun u => u.stepping = .parking) then notEnabled "PARK"
    else if t.run = .parked ∨ t.run = .ended then .next s
    else .next ((s.parkGroup t).foldl State.parkSoon s)

/-- A slot of whom a PARK has been asked may park now. -/
def Thread.parksNow (t : Thread) : Bool := t.stepping = .parking && t.run = .running && t.parkable

/-- The thread that goes on after a park, its registers filled from its workspace. -/
def State.unparked (s : State) (t : Thread) (step : Stepping) : Thread :=
  { s.refilled t with run := .running, stepping := step, nextIssue := max t.nextIssue s.clock, justResumed := true }

/-- RESUME (R362); it also ends a HALT (R233). -/
def execResume (slot : SlotId) (s : State) : Out :=
  withSlot slot s fun t =>
    match t.run with
    | .parked => .next ((s.setThread (s.unparked t .no)).traceSlot 3 (s.unparked t .no))
    | .halted => .next (s.setThread { t with run := .running, nextIssue := max t.nextIssue s.clock })
    | .vacant => .next s
    | .running => .next s
    | .ended => .next s

/-- STEP (R361): a parked slot may issue one word. -/
def execStepSlot (slot : SlotId) (s : State) : Out :=
  withSlot slot s fun t => if t.run = .parked then .next (s.setThread (s.unparked t .due)) else .next s

/-! ## READ and WRITE (R361) -/

/-- The byte that an address of a debug request names. LM and SRAM have no physical address in the manual; the request names
them by their flat addresses (log 34). -/
def debugHome (pa : Nat) : Option Home :=
  if pa < Config.hbmBytes then some (.hbm pa)
  else if 2 ^ 40 ≤ pa ∧ pa < 2 ^ 40 + Config.cores * Config.lmBytes then
    some (.lm ((pa - 2 ^ 40) / Config.lmBytes) ((pa - 2 ^ 40) % Config.lmBytes))
  else if 2 ^ 41 ≤ pa ∧ pa < 2 ^ 41 + Config.clusters * Config.sramBytes then
    some (.sram ((pa - 2 ^ 41) / Config.sramBytes) ((pa - 2 ^ 41) % Config.sramBytes))
  else if (ctlRegion pa).isSome then some (.ctl pa)
  else none

/-- The worlds of a range of a home, taken at its start and at each of its lines. -/
def State.debugWorlds (s : State) (h : Home) (n : Nat) : List (BitVec 4) :=
  ((List.range (n / 64 + 2)).map (fun i => min (64 * i) (n - 1))).flatMap (fun i =>
    match h with
    | .hbm pa => s.frameWorlds (pa + i)
    | _ => [s.targetWorld (h.plus i) none])

/-- The home of a READ or WRITE of n bytes once consent and the home's own checks have let it (R356, R249). A range that has no home is
refused. -/
def debugThen (row : String) (pa n : Nat) (store : Bool) (s : State) (body : Home → State → Out) : Out :=
  match debugHome pa, debugHome (pa + n - 1) with
  | some h, some last =>
    if n = 0 ∨ 4096 < n ∨ last ≠ h.plus (n - 1) ∨ ((ctlRegion pa).isSome ∧ (n ≠ 8 ∨ pa % 8 ≠ 0)) then
      .next (s.emit (.refusedDebug 0 none))
    else match (s.debugWorlds h n).find? (fun w => !s.consents w) with
      | some w => .next (s.emit (.refusedDebug w none))
      | none =>
        match s.homeCheck none h n store true with
        | .wait => notEnabled row
        | .refuse c => .next (s.emit (.refusedDebug 0 (some c)))
        | .ok =>
          match h with
          | .hbm _ => if s.awaitsHosts none pa n then notEnabled row else body h s
          | .ctl pa =>
            if store && ctlRegion pa = some 0 && !s.dirTurn .debug then
              if s.dir.queue.contains .debug then notEnabled row else .next (s.dirAwait .debug)
            else body h (s.dirServed .debug)
          | _ => body h s
  | _, _ => .next (s.emit (.refusedDebug 0 none))

/-- READ (R361). -/
def execReadMem (pa n : Nat) (s : State) : Out :=
  debugThen "READ" pa n false s fun h s =>
    match h with
    | .ctl pa => let (v, s) := s.ctlRead pa; .next (s.emit (.debugData (toBytes 8 v.toNat)))
    | h => if s.badAt h n || s.tagFails h n then .next (s.emit (.refusedDebug 0 (some .mcheck)))
      else .next ((s.wakeBank h).emit (.debugData (s.openedBytes (s.frameWorld pa) h n)))

/-- WRITE (R361). -/
def execWriteMem (pa : Nat) (data : List Byte) (s : State) : Out :=
  debugThen "WRITE" pa data.length true s fun h s =>
    match h with
    | .ctl pa => .next (s.ctlWrite pa (BitVec.ofNat 64 (ofBytes data)))
    | .hbm pa => .next (s.performFrames pa data)
    | h => .next (s.perform h data)

/-! ## Crash dumps (R356) -/

/-- A 64 KiB frame of HBM or a line of LM in a crash dump: its bytes, or its address and the protected world for which it is left
out. -/
inductive DumpItem where
  | bytes (h : Home) (l : List Byte)
  | omitted (h : Home) (world : BitVec 4)
  deriving DecidableEq, Repr

/-- What a dump holds of n bytes at a home of these worlds. -/
def State.dumpItem (s : State) (h : Home) (n : Nat) (worlds : List (BitVec 4)) : DumpItem :=
  match worlds.find? s.protectedWorld with
  | some w => .omitted h w
  | none => .bytes h (s.readBytes h n)

/-- A frame of HBM counts for every leaf that names it. -/
def State.dumpFrame (s : State) (i : Nat) : DumpItem := s.dumpItem (.hbm (65536 * i)) 65536 (s.frameWorlds (65536 * i))

/-- A line of LM counts for its entry, and for the slot that owns it (R351, R352). -/
def State.dumpLine (s : State) (core i : Nat) : DumpItem :=
  s.dumpItem (.lm core (64 * i)) 64
    (((s.protection core (64 * i)).map entryWorld).toList ++ [s.targetWorld (.lm core (64 * i)) none])

/-- The crash dump of the module as it stands (R356). When the engine runs is not said (log 120). -/
def State.crashDump (s : State) : List DumpItem :=
  (List.range (Config.hbmBytes / 65536)).map s.dumpFrame
    ++ (List.range Config.cores).flatMap (fun c => (List.range (Config.lmBytes / 64)).map (s.dumpLine c))

/-! ## TRACE, COUNTERS, BOOTLOG -/

/-- The configuration keeps the bounds of R363 and R364, and its ring lies in module HBM. -/
def traceOk (c : TraceCfg) : Bool :=
  !c.on || (decide (1024 ≤ c.period) && decide (c.period ≤ 2 ^ 24) && decide (8 ≤ c.m) && decide (c.m ≤ 20) && c.base % 4096 = 0
    && decide (c.base + 32 * 2 ^ c.m ≤ Config.hbmBytes) && decide (10000 ≤ c.intervalNs) && decide (c.intervalNs ≤ 10000000))

/-- TRACE (R363, R364): the ring is memory that the session has written, so its worlds must consent (R356). -/
def execTraceCfg (cfg : TraceCfg) (s : State) : Out :=
  if !traceOk cfg then .next (s.emit (.refusedDebug 0 none))
  else match (if cfg.on then (s.debugWorlds (.hbm cfg.base) (32 * 2 ^ cfg.m)).find? (fun w => !s.consents w) else none) with
    | some w => .next (s.emit (.refusedDebug w none))
    | none =>
      let y := s.typel
      if cfg.on then
        let s := s.performFrames cfg.base (toBytes 8 0)
        .next { s with typel := { y with trace := cfg, lastSample := s.clock, produced := 0, lost := 0, cursors := [] } }
      else .next { s with typel := { y with trace := { y.trace with on := false } } }

/-- Where the link snapshots lie: within module HBM (log 14). -/
def snapshotBase : Nat := 4096 * (Config.snapshotFrame % 2 ^ 27)

/-- COUNTERS (R361, R303, R314, R365, R364). The soft errors corrected since the last request are counted (log 14). -/
def execCounters (s : State) : Out :=
  let each := fun (l : List (Nat × Nat)) => (List.range Config.clusters).map (fun c => assocD l c 0)
  let soft := (List.range 12).map (fun d => assocD s.typel.soft d 0 + Config.softGain s.fresh d)
  let t := { s.used with typel := { s.typel with soft := soft.mapIdx (fun d n => (d, n)) } }
  .next (t.emit (.counters (each s.tlbHits) (each s.tlbMisses) soft ((List.range 12).map (fun d => (s.die d).allowance)) snapshotBase))

/-- BOOTLOG (R361, R366). -/
def execBootlog (s : State) : Out := .next (s.emit (.bootlog s.typel.journal))

/-! ## TRACE_SAMPLE (R363) -/

/-- The place of a slot in its cluster. -/
def sampleIndex (t : Thread) : Nat := 8 * (t.id.core % 64) + t.id.slot

/-- The one of two threads that stands first in ascending core and slot order. -/
def firstSlot : List Thread → Option Thread
  | [] => none
  | t :: l => match firstSlot l with
    | some u => if sampleIndex t ≤ sampleIndex u then some t else some u
    | none => some t

/-- The next slot of a cluster that holds a node, from a place on, wrapping. -/
def State.nextSampled (s : State) (cl from_ : Nat) : Option Thread :=
  let l := s.threads.filter (fun t => !isTransform t.id && clusterOf t.id.core = cl)
  match firstSlot (l.filter (fun t => decide (from_ ≤ sampleIndex t))) with
  | some t => some t
  | none => firstSlot l

/-- One cluster's sample. -/
def State.sampleCluster (s : State) (cl : Nat) : State :=
  match s.nextSampled cl (assocD s.typel.cursors cl 0) with
  | none => s
  | some t =>
    ({ s with typel := { s.typel with cursors := assocSet s.typel.cursors cl (sampleIndex t + 1) } }).traceOffer (s.traceRecord 1 t)

/-- TRACE_SAMPLE (R363). -/
def execTraceSample (s : State) : Out :=
  let y := s.typel
  if y.trace.on ∧ y.lastSample + y.trace.period ≤ s.clock then
    .next (y.trace.clusters.foldl State.sampleCluster { s with typel := { y with lastSample := s.clock } })
  else notEnabled "TRACE_SAMPLE"

/-! ## COUNTER_SNAPSHOT (R364) -/

/-- The number of links a snapshot holds (log 14). -/
def snapshotLinks : Nat := Config.linkCount % 2 ^ 20

/-- Bytes of one of the two buffers. -/
def snapshotBytes : Nat := 64 + 32 * snapshotLinks

/-- The counters of every link at this latch: what they were at the last one, and what they have counted since, modulo 2^32 (R364,
log 14). -/
def State.latchLinks (s : State) : List (BitVec 32) :=
  (List.range (8 * snapshotLinks)).map (fun i => s.typel.links.getD i 0 + Config.linkGain s.fresh i)

/-- The header of 64 bytes and the entries of every link: four pairs of flits and stalls. -/
def State.snapshot (s : State) : List Byte :=
  [0x1C01, s.typel.snapSeq, s.time.toNat, snapshotLinks, 0, 0, 0, 0].flatMap (toBytes 8)
    ++ s.latchLinks.flatMap (fun c => toBytes 4 c.toNat)

/-- Where the next snapshot goes: one of the two buffers. -/
def State.snapshotAt (s : State) : Nat := snapshotBase + snapshotBytes * (s.typel.snapSeq % 2)

/-- COUNTER_SNAPSHOT (R364). -/
def execCounterSnapshot (s : State) : Out :=
  let y := s.typel
  if !y.booted ∨ s.time.toNat < y.lastSnap + y.trace.intervalNs ∨ s.awaitsHosts none s.snapshotAt snapshotBytes then
    notEnabled "COUNTER_SNAPSHOT"
  else
    let u := s.used.performFrames s.snapshotAt s.snapshot
    .next { u with typel := { u.typel with snapSeq := y.snapSeq + 1, lastSnap := s.time.toNat, links := s.latchLinks } }

/-! ## RESET (R366) -/

/-- A journal entry: step, attempt, mode, outcome and TIME. -/
def journalEntry (step attempt mode outcome : Nat) (time : DWord) : BitVec 128 :=
  BitVec.ofNat 128 (2 ^ 64 * time.toNat + 2 ^ 24 * outcome + 2 ^ 16 * mode + 2 ^ 8 * attempt + step)

/-- Entries of a step with an outcome. -/
def journalCount (j : List (BitVec 128)) (step outcome : Nat) : Nat :=
  j.countP (fun e => e.extractLsb' 0 8 = BitVec.ofNat 8 step && e.extractLsb' 24 8 = BitVec.ofNat 8 outcome)

/-- Failed attempts of a step: it was begun and not done. -/
def failedAttempts (j : List (BitVec 128)) (step : Nat) : Nat := journalCount j step 0 - journalCount j step 1

/-- The optional steps, and the alternative modes of a step. -/
def optionalStep (step : Nat) : Bool := [5, 8, 9].contains step
def altModes (step : Nat) : Nat := if step = 3 then 2 else if step = 4 then 1 else 0

/-- How a start ends: all its way, with a step that failed, or by giving up. -/
inductive BootEnd where
  | up
  | failed
  | gaveUp
  deriving DecidableEq, Repr

/-- The steps of a start in order: how it ends, the steps that were done, and the journal they write. -/
def bootSteps (boot : BootScript) (repeated : Bool) :
    List Nat → List Nat → List (BitVec 128) → BootEnd × List Nat × List (BitVec 128)
  | [], done, j => (.up, done, j)
  | step :: l, done, j =>
    let bad := failedAttempts j step
    let mode := min bad (altModes step)
    let entry := fun (outcome : Nat) => journalEntry step (bad + 1) mode outcome boot.timeNs
    if repeated ∧ optionalStep step ∧ bad ≠ 0 then bootSteps boot repeated l done (j ++ [entry 3])
    else if 3 ≤ bad then (.gaveUp, done, j)
    else if !boot.failing.contains step then bootSteps boot repeated l (step :: done) (j ++ [entry 0, entry 1])
    else if optionalStep step then bootSteps boot repeated l done (j ++ [entry 0, entry 2])
    else (if bad + 1 = 3 then .gaveUp else .failed, done, j ++ [entry 0, entry 2])

/-- A boot mask selects a power of two of cores, in ascending order (R309); any other leaves the default mask. -/
def ascending : List Nat → Bool
  | [] => true
  | [a] => decide (a < Config.cores)
  | a :: b :: l => decide (a < b) && ascending (b :: l)
def bootMask (l : List Nat) : List Nat := if l.length = 2 ^ l.length.log2 && ascending l then l else defaultServiceCores

/-- The trust page as Typel loads and locks it (R348). -/
def bootTrust (boot : BootScript) : Trust :=
  { fwrow := 0xFFFFFFFF :: (List.range 15).map (fun i => boot.fwrow.getD (i + 1) 0)
    prot := boot.prot &&& 0xFFFC
    dcons := boot.dcons &&& 0xFFFE
    lock := true
    roster := (List.range 16).map (fun i => boot.roster.getD i 0)
    egress := [] }

/-- The personality (R344): the fuse's, or the strap's where the fuse is blank. -/
def personality (boot : BootScript) : Bool := boot.fuse.getD boot.strap

/-- The first nodes of the released service cores (log 15). -/
def State.release (s : State) (l : List (Fin 8 × DWord × List Byte)) : State :=
  l.foldl (fun s x => match checkRecord false 1 0 x.2.2 x.2.1 with
    | .ok n => s.admitNode x.1.val n
    | .error _ => s) s

/-- A module after a start that has done some steps: every register at its reset value; flash, and what is outside, stand. Step 6
loads and locks the trust page (R348). -/
def State.restarted (s : State) (done : List Nat) (j : List (BitVec 128)) (closed : Bool) (boot : BootScript) : State :=
  { State.reset with
    trust := if done.contains 6 then bootTrust boot else State.reset.trust
    time := boot.timeNs
    fresh := s.fresh
    inbox := s.inbox
    outbox := s.outbox
    typel := { Typel.reset with
      journal := j
      closed := closed
      starts := s.typel.starts + 1
      selfHosted := personality boot
      optionStrap := boot.optionStrap
      lastSnap := boot.timeNs.toNat } }

/-- RESET (R366): a module start. Without step 8 the clocks stay unsynchronised (R339), and without step 9 the host ports stay
as in reset (R346, log 125). -/
def execResetModule (boot : BootScript) (s : State) : Out :=
  let j := if s.typel.closed then [] else s.typel.journal
  match bootSteps boot (!s.typel.closed) ((List.range 11).map (· + 1)) [] j with
  | (.failed, done, j) => .next (s.restarted done j false boot)
  | (.gaveUp, done, j) =>
    let u := s.restarted done j false boot
    .next { u with typel := { u.typel with gaveUp := true } }
  | (.up, done, j) =>
    let u := s.restarted done j true boot
    let synced : Bool := done.contains 8
    let f := u.fabric
    let u := { u with
      serviceCores := bootMask boot.serviceCores
      typel := { u.typel with booted := true }
      fabric := { f with sync := synced, syncAt := boot.timeNs.toNat, inReset := if done.contains 9 then [] else [0, 1] } }
    let u := boot.image.foldl (fun s x => if x.1 < Config.hbmBytes then s.poke (.hbm x.1) [x.2] else s) u
    .next (u.release boot.osNodes)

end Sys2Proof.Machine
end

