-- ==== Sys2Proof/Machine/Vector.lean ====
section
/-!
DEFINITION. The vector instructions (spec/07_vector_instr.md R140 to R157).
-/
namespace Sys2Proof.Machine

/-! ## Lane-wise forms -/

/-- A lane function of one register. -/
def mapLanes (f : Nat → Nat) (a : VecWord) : VecWord := ofLanes ((lanes a).map (fun x => BitVec.ofNat 32 (f x.toNat)))

/-- A lane function of two registers. -/
def mapLanes2 (f : Nat → Nat → Nat) (a b : VecWord) : VecWord :=
  ofLanes (((lanes a).zip (lanes b)).map (fun p => BitVec.ofNat 32 (f p.1.toNat p.2.toNat)))

/-- A lane function of three registers. -/
def mapLanes3 (f : Nat → Nat → Nat → Nat) (a b c : VecWord) : VecWord :=
  ofLanes (((lanes a).zip ((lanes b).zip (lanes c))).map (fun p => BitVec.ofNat 32 (f p.1.toNat p.2.1.toNat p.2.2.toNat)))

/-- A vector result written and the word completed. -/
def writeVector (d : Reg) (v : VecWord) (n : Nat) (s : State) : Out := retire n (s.setV d v)

/-- A vector instruction with two register operands. -/
def vec2 (i : Instr) (f : VecWord → VecWord → VecWord) (d a b : Reg) (n : Nat) (s : State) : Out :=
  issue i s fun s => writeVector d (f (s.thr.vreg a) (s.thr.vreg b)) n s

/-- A vector instruction that also reads its destination. -/
def vec3 (i : Instr) (f : VecWord → VecWord → VecWord → VecWord) (d a b : Reg) (n : Nat) (s : State) : Out :=
  issue i s fun s => writeVector d (f (s.thr.vreg a) (s.thr.vreg b) (s.thr.vreg d)) n s

/-- A vector instruction with one register operand. -/
def vec1 (i : Instr) (f : VecWord → VecWord) (d a : Reg) (n : Nat) (s : State) : Out :=
  issue i s fun s => writeVector d (f (s.thr.vreg a)) n s

/-- A vector instruction that writes a scalar register. -/
def vecToS (i : Instr) (f : VecWord → DWord) (d a : Reg) (n : Nat) (s : State) : Out :=
  issue i s fun s => retire n (s.setS d (f (s.thr.vreg a)))

/-! ## Lane functions on binary32 words -/

/-- The sum, difference, product, and fused forms, rounded once (R142). -/
def addS (r : Round) (x y : Nat) : Nat := fp32.round r (Fp.add r (fp32.decode x) (fp32.decode y))
def subS (r : Round) (x y : Nat) : Nat := fp32.round r (Fp.add r (fp32.decode x) (fp32.decode y).neg)
def mulS (r : Round) (x y : Nat) : Nat := fp32.round r (Fp.mul (fp32.decode x) (fp32.decode y))
def fmaS (r : Round) (x y z : Nat) : Nat :=
  fp32.round r (Fp.add r (Fp.mul (fp32.decode x) (fp32.decode y)) (fp32.decode z))
def fmsS (r : Round) (x y z : Nat) : Nat :=
  fp32.round r (Fp.add r (Fp.mul (fp32.decode x) (fp32.decode y)).neg (fp32.decode z))
def divS (r : Round) (x y : Nat) : Nat := divRound fp32 r (fp32.decode x) (fp32.decode y)
def sqrtS (r : Round) (x : Nat) : Nat := sqrtRound fp32 r (fp32.decode x)
def rcpS (r : Round) (x : Nat) : Nat := divRound fp32 r (.fin false 1 0) (fp32.decode x)
def rsqS (r : Round) (x : Nat) : Nat := rsqrtRound fp32 r (fp32.decode x)
def exp2S (r : Round) (x : Nat) : Nat := exp2Round fp32 r (fp32.decode x)
def log2S (r : Round) (x : Nat) : Nat := log2Round fp32 r (fp32.decode x)

/-- A binary32 word is a NaN. -/
def isNanS (x : Nat) : Bool := decide (0x7F800000 < x % 2 ^ 31)

/-- The order of numbers with -0 below +0 (R143): sign-magnitude words as integers. -/
def orderS (x : Nat) : Int := if bit x 31 then -((x % 2 ^ 31 : Nat) : Int) - 1 else x

/-- VMIN, VMAX, VABS, VNEG (R143). -/
def minS (x y : Nat) : Nat :=
  if isNanS x && isNanS y then 0x7FC00000 else if isNanS x then y else if isNanS y then x
  else if orderS y < orderS x then y else x
def maxS (x y : Nat) : Nat :=
  if isNanS x && isNanS y then 0x7FC00000 else if isNanS x then y else if isNanS y then x
  else if orderS x < orderS y then y else x
def absS (x : Nat) : Nat := if isNanS x then 0x7FC00000 else x % 2 ^ 31
def negS (x : Nat) : Nat := if isNanS x then 0x7FC00000 else if bit x 31 then x - 2 ^ 31 else x + 2 ^ 31

/-- VADD (R142). -/
def execVadd (d a b : Reg) (r : Round) (s : State) : Out := vec2 (.vadd d a b r) (mapLanes2 (addS r)) d a b 8 s
/-- VSUB (R142). -/
def execVsub (d a b : Reg) (r : Round) (s : State) : Out := vec2 (.vsub d a b r) (mapLanes2 (subS r)) d a b 8 s
/-- VMUL (R142). -/
def execVmul (d a b : Reg) (r : Round) (s : State) : Out := vec2 (.vmul d a b r) (mapLanes2 (mulS r)) d a b 8 s
/-- VFMA (R142): vd is the addend. -/
def execVfma (d a b : Reg) (r : Round) (s : State) : Out := vec3 (.vfma d a b r) (mapLanes3 (fmaS r)) d a b 8 s
/-- VFMS (R142). -/
def execVfms (d a b : Reg) (r : Round) (s : State) : Out := vec3 (.vfms d a b r) (mapLanes3 (fmsS r)) d a b 8 s
/-- VMIN (R143). -/
def execVmin (d a b : Reg) (s : State) : Out := vec2 (.vmin d a b) (mapLanes2 minS) d a b 8 s
/-- VMAX (R143). -/
def execVmax (d a b : Reg) (s : State) : Out := vec2 (.vmax d a b) (mapLanes2 maxS) d a b 8 s
/-- VABS (R143). -/
def execVabs (d a : Reg) (s : State) : Out := vec1 (.vabs d a) (mapLanes absS) d a 8 s
/-- VNEG (R143). -/
def execVneg (d a : Reg) (s : State) : Out := vec1 (.vneg d a) (mapLanes negS) d a 8 s
/-- VDIV (R142). -/
def execVdiv (d a b : Reg) (r : Round) (s : State) : Out := vec2 (.vdiv d a b r) (mapLanes2 (divS r)) d a b 24 s
/-- VSQRT (R144). -/
def execVsqrt (d a : Reg) (r : Round) (s : State) : Out := vec1 (.vsqrt d a r) (mapLanes (sqrtS r)) d a 24 s
/-- VRCP (R144). -/
def execVrcp (d a : Reg) (r : Round) (s : State) : Out := vec1 (.vrcp d a r) (mapLanes (rcpS r)) d a 16 s
/-- VRSQ (R144). -/
def execVrsq (d a : Reg) (r : Round) (s : State) : Out := vec1 (.vrsq d a r) (mapLanes (rsqS r)) d a 16 s
/-- VEXP2 (R144). -/
def execVexp2 (d a : Reg) (r : Round) (s : State) : Out := vec1 (.vexp2 d a r) (mapLanes (exp2S r)) d a 16 s
/-- VLOG2 (R144). -/
def execVlog2 (d a : Reg) (r : Round) (s : State) : Out := vec1 (.vlog2 d a r) (mapLanes (log2S r)) d a 16 s

/-! ## Compare and select (R145) -/

/-- The condition of a VCMP. -/
def cmpS : VCmp → Nat → Nat → Bool
  | .feq, x, y => Fp.eq (fp32.decode x) (fp32.decode y)
  | .fne, x, y => !Fp.eq (fp32.decode x) (fp32.decode y)
  | .flt, x, y => Fp.lt (fp32.decode x) (fp32.decode y)
  | .fle, x, y => Fp.lt (fp32.decode x) (fp32.decode y) || Fp.eq (fp32.decode x) (fp32.decode y)
  | .ieq, x, y => decide (x = y)
  | .ine, x, y => decide (x ≠ y)
  | .ilts, x, y => decide (toSigned 32 x < toSigned 32 y)
  | .iltz, x, y => decide (x < y)

/-- VCMP (R145). -/
def execVcmp (d a b : Reg) (c : VCmp) (s : State) : Out :=
  vec2 (.vcmp d a b c) (mapLanes2 (fun x y => if cmpS c x y then 0xFFFFFFFF else 0)) d a b 8 s

/-- VSEL (R145): the mask stands in vd on entry. -/
def execVsel (d a b : Reg) (s : State) : Out :=
  vec3 (.vsel d a b) (fun x y m => (m &&& x) ||| (~~~m &&& y)) d a b 8 s

/-! ## Integer elements (R146) -/

/-- The width of an element. -/
def elemBits : Elem → Nat
  | .i32 => 32
  | .i16 => 16
  | .i8 => 8

/-- An element function of two registers. -/
def mapElems2 (w : Nat) (f : Nat → Nat → Nat) (a b : VecWord) : VecWord :=
  BitVec.ofNat 512 (packElements w ((List.range (512 / w)).map (fun i => f (element a.toNat w i) (element b.toNat w i))))

/-- A result clamped to the signed range of w bits. -/
def saturate (w : Nat) (i : Int) : Nat := wrap w (max (-(2 ^ (w - 1) : Int)) (min i (2 ^ (w - 1) - 1)))

/-- A sum or difference of elements, saturating if asked. -/
def elemSum (w : Nat) (sat neg : Bool) (x y : Nat) : Nat :=
  let r := if neg then toSigned w x - toSigned w y else toSigned w x + toSigned w y
  if sat then saturate w r else wrap w r

/-- VIADD (R146). -/
def execViadd (d a b : Reg) (t : Bool) (e : Elem) (s : State) : Out :=
  vec2 (.viadd d a b t e) (mapElems2 (elemBits e) (elemSum (elemBits e) t false)) d a b 8 s
/-- VISUB (R146). -/
def execVisub (d a b : Reg) (t : Bool) (e : Elem) (s : State) : Out :=
  vec2 (.visub d a b t e) (mapElems2 (elemBits e) (elemSum (elemBits e) t true)) d a b 8 s
/-- VIMUL (R146). -/
def execVimul (d a b : Reg) (e : Elem) (s : State) : Out :=
  vec2 (.vimul d a b e) (mapElems2 (elemBits e) (fun x y => x * y % 2 ^ elemBits e)) d a b 8 s
/-- VAND (R146). -/
def execVand (d a b : Reg) (s : State) : Out := vec2 (.vand d a b) (fun x y => x &&& y) d a b 8 s
/-- VOR (R146). -/
def execVor (d a b : Reg) (s : State) : Out := vec2 (.vor d a b) (fun x y => x ||| y) d a b 8 s
/-- VXOR (R146). -/
def execVxor (d a b : Reg) (s : State) : Out := vec2 (.vxor d a b) (fun x y => x ^^^ y) d a b 8 s
/-- VSHL (R146). -/
def execVshl (d a b : Reg) (e : Elem) (s : State) : Out :=
  vec2 (.vshl d a b e) (mapElems2 (elemBits e) (fun x y => x * 2 ^ (y % elemBits e) % 2 ^ elemBits e)) d a b 8 s
/-- VSHR (R146). -/
def execVshr (d a b : Reg) (t : Bool) (e : Elem) (s : State) : Out :=
  vec2 (.vshr d a b t e) (mapElems2 (elemBits e) (fun x y =>
    if t then wrap (elemBits e) (toSigned (elemBits e) x / 2 ^ (y % elemBits e)) else x / 2 ^ (y % elemBits e))) d a b 8 s

/-! ## Moving lanes (R147 to R149) -/

/-- VBCAST (R147). -/
def execVbcast (d a : Reg) (s : State) : Out :=
  issue (.vbcast d a) s fun s => writeVector d (ofLanes (List.replicate 16 ((s.thr.sreg a).setWidth 32))) 8 s
/-- VEXTR (R147). -/
def execVextr (d a : Reg) (l : Fin 16) (s : State) : Out :=
  vecToS (.vextr d a l) (fun v => sext64 32 (lane v l.val).toNat) d a 8 s
/-- VINS (R147). -/
def execVins (d a : Reg) (l : Fin 16) (s : State) : Out :=
  issue (.vins d a l) s fun s => writeVector d (setLane (s.thr.vreg d) l.val ((s.thr.sreg a).setWidth 32)) 8 s
/-- VPERM (R148). -/
def execVperm (d a b : Reg) (s : State) : Out :=
  vec2 (.vperm d a b) (fun x y => mapLanes (fun i => if bit i 31 then 0 else (lane x (i % 16)).toNat) y) d a b 8 s

/-- The operation of a VSCAN (R149). -/
def scanOp : ScanKind → Nat → Nat → Nat
  | .fadd, x, y => addS .rn x y
  | .iadd, x, y => (x + y) % 2 ^ 32
  | .fmax, x, y => maxS x y
  | .imax, x, y => if toSigned 32 x < toSigned 32 y then y else x

/-- The first prefix of a VSCAN: a NaN becomes canonical under the floating kinds. -/
def scanFirst : ScanKind → Nat → Nat
  | .fadd, x => if isNanS x then 0x7FC00000 else x
  | .fmax, x => if isNanS x then 0x7FC00000 else x
  | .iadd, x => x
  | .imax, x => x

/-- The inclusive prefixes after acc. -/
def scanList (k : ScanKind) (acc : Nat) : List Nat → List Nat
  | [] => []
  | x :: l => scanOp k acc x :: scanList k (scanOp k acc x) l

/-- The prefixes of a list of lanes in lane order (R149). -/
def scanLanes (k : ScanKind) : List Nat → List Nat
  | [] => []
  | x :: l => scanFirst k x :: scanList k (scanFirst k x) l

/-- VSCAN (R149). -/
def execVscan (d a : Reg) (k : ScanKind) (s : State) : Out :=
  vec1 (.vscan d a k) (fun v => ofLanes ((scanLanes k ((lanes v).map BitVec.toNat)).map (BitVec.ofNat 32 ·))) d a 16 s

/-! ## Reductions (R150, R151) -/

/-- One level of the pairwise tree. -/
def pairUp (f : Nat → Nat → Nat) : List Nat → List Nat
  | x :: y :: l => f x y :: pairUp f l
  | l => l

/-- The tree of four levels over 16 lanes. -/
def treeReduce (f : Nat → Nat → Nat) (v : VecWord) : Nat :=
  (pairUp f (pairUp f (pairUp f (pairUp f ((lanes v).map BitVec.toNat))))).headD 0

/-- VREDADD (R150). -/
def execVredadd (d a : Reg) (r : Round) (s : State) : Out :=
  vecToS (.vredadd d a r) (fun v => BitVec.ofNat 64 (treeReduce (addS r) v)) d a 16 s

/-- A maximum or minimum over the lanes in its domain. -/
def reduceDom (t : Dom) (f : Nat → Nat → Nat) (g : Int → Int → Int) (v : VecWord) : DWord :=
  match t with
  | .f => BitVec.ofNat 64 (treeReduce f v)
  | .i => BitVec.ofInt 64 (((lanes v).map (fun x => toSigned 32 x.toNat)).tail.foldl g (toSigned 32 (lane v 0).toNat))

/-- VREDMAX (R150). -/
def execVredmax (d a : Reg) (t : Dom) (s : State) : Out := vecToS (.vredmax d a t) (reduceDom t maxS max) d a 16 s
/-- VREDMIN (R150). -/
def execVredmin (d a : Reg) (t : Dom) (s : State) : Out := vecToS (.vredmin d a t) (reduceDom t minS min) d a 16 s
/-- VPOPC (R151). -/
def execVpopc (d a : Reg) (s : State) : Out :=
  vecToS (.vpopc d a) (fun v => BitVec.ofNat 64 (popcount 512 v.toNat)) d a 8 s
/-- VFFS (R151). -/
def execVffs (d a : Reg) (s : State) : Out :=
  vecToS (.vffs d a) (fun v => if v = 0 then BitVec.allOnes 64 else BitVec.ofNat 64 (lowestBit 512 v.toNat)) d a 8 s

/-! ## Conversion (R152 to R155) -/

/-- Elements that VCVT converts, by the widest of its two formats (R152). -/
def cvtCount (m : Nat) : Nat := if m = 32 then 16 else if m = 16 then 32 else if m = 4 then 128 else 64

/-- The ILLEGAL conditions of VCVT (R152). A reserved code that an ERET or URET has restored is none of them. DESIGN CHOICE (log 132). -/
def vcvtBad (r : Round) (s : State) : Bool :=
  let h := s.thr.hfmt
  let o := fmtOr (fmtO h) 1
  fmtB h != 0 || fmtScaleMode h != 0 || fmtSideBit h || ((o = 4 || o = 5) && r != .rn)

/-- The result of VCVT: elements converted and packed, zeros above (R152). -/
def cvtVector (src dst : Nat) (r : Round) (v : VecWord) : VecWord :=
  BitVec.ofNat 512 (packElements (fmtBits dst) ((List.range (cvtCount (max (fmtBits src) (fmtBits dst)))).map (fun i =>
    fmtConvert dst r (fmtValue src (element v.toNat (fmtBits src) i)))))

/-- VCVT (R152). -/
def execVcvt (d a : Reg) (r : Round) (s : State) : Out :=
  issueWith (.vcvt d a r) (vcvtBad r) 0 s fun s =>
    writeVector d (cvtVector (fmtOr (fmtA s.thr.hfmt) 1) (fmtOr (fmtO s.thr.hfmt) 1) r (s.thr.vreg a)) 8 s

/-- A format that VQNT may write and VDQNT read (R154). -/
def quantFmt (c : Nat) : Bool := 4 ≤ c && c ≤ 11

/-- The even-numbered register's partner. -/
def pairOf (r : Reg) : Reg := r + 1

/-- The ILLEGAL conditions of VQNT (R154). -/
def vqntBad (s : State) : Bool :=
  let h := s.thr.hfmt
  !quantFmt (fmtOr (fmtO h) 6) || (fmtA h != 0 && fmtA h != 1) || fmtB h != 0 || fmtScaleMode h != 0

/-- A block record (R153). -/
def blockRecord (code : Nat) (q : Quantised) : VecWord :=
  BitVec.ofNat 512 (packElements (fmtBits code) q.codes + packElements 32 (q.side.map sideWord) * 2 ^ 256
    + q.scale * 2 ^ 384)

/-- VQNT (R154). -/
def execVqnt (d a b : Reg) (s : State) : Out :=
  issueWith (.vqnt d a b) vqntBad 0 s fun s =>
    let x := s.thr.sreg b
    if bits x.toNat 63 13 ≠ 0 then fault .operand 0 (some x) s
    else
      let n := bits x.toNat 12 8 + 1
      let xs := ((lanes (s.thr.vreg a) ++ lanes (s.thr.vreg (pairOf a))).map BitVec.toNat).take n
      let code := fmtOr (fmtO s.thr.hfmt) 6
      let theta := if fmtSideBit s.thr.hfmt then some (x.toNat % 256) else none
      writeVector d (blockRecord code (quantise code theta xs)) 32 s

/-- The ILLEGAL conditions of VDQNT (R155). -/
def vdqntBad (s : State) : Bool :=
  let h := s.thr.hfmt
  !quantFmt (fmtOr (fmtA h) 6) || (fmtO h != 0 && fmtO h != 1) || fmtB h != 0 || fmtScaleMode h != 0 || fmtSideBit h

/-- Element i of a dequantised record, as a binary32 word (R155). -/
def recordElement (code : Nat) (rec : VecWord) (n i : Nat) : Nat :=
  if n ≤ i then 0
  else fp32.round .rn (dequantise code (bits rec.toNat 395 384) ((List.range 4).map (fun e => (lane rec (8 + e)).toNat)) i
    (element (rec.toNat % 2 ^ 256) (fmtBits code) i))

/-- VDQNT (R155). -/
def execVdqnt (d a b : Reg) (s : State) : Out :=
  issueWith (.vdqnt d a b) vdqntBad 0 s fun s =>
    let x := s.thr.sreg b
    if bits x.toNat 63 13 ≠ 0 then fault .operand 0 (some x) s
    else
      let n := bits x.toNat 12 8 + 1
      let el := fun i => BitVec.ofNat 32 (recordElement (fmtOr (fmtA s.thr.hfmt) 6) (s.thr.vreg a) n i)
      retire 16 ((s.setV d (ofLanes ((List.range 16).map el))).setV (pairOf d)
        (ofLanes ((List.range 16).map (fun i => el (16 + i)))))

end Sys2Proof.Machine
end

