-- ==== Sys2Proof/Machine/Dispatch.lean ====
section
/-!
DEFINITION. The meaning of every instruction and step: one arm for each row of spec/opcode_table.json.
-/
namespace Sys2Proof.Machine

def exec (i : Instr) (s : State) : Host.Outcome State Fault Refusal :=
  match i with
  | .add d a b w => Sys2Proof.Machine.execAdd d a b w s
  | .sub d a b w => Sys2Proof.Machine.execSub d a b w s
  | .mul d a b w => Sys2Proof.Machine.execMul d a b w s
  | .mulhs d a b w => Sys2Proof.Machine.execMulhs d a b w s
  | .mulhz d a b w => Sys2Proof.Machine.execMulhz d a b w s
  | .divs d a b w => Sys2Proof.Machine.execDivs d a b w s
  | .divz d a b w => Sys2Proof.Machine.execDivz d a b w s
  | .rems d a b w => Sys2Proof.Machine.execRems d a b w s
  | .remz d a b w => Sys2Proof.Machine.execRemz d a b w s
  | .and d a b w => Sys2Proof.Machine.execAnd d a b w s
  | .or d a b w => Sys2Proof.Machine.execOr d a b w s
  | .xor d a b w => Sys2Proof.Machine.execXor d a b w s
  | .andn d a b w => Sys2Proof.Machine.execAndn d a b w s
  | .shl d a b w => Sys2Proof.Machine.execShl d a b w s
  | .shrl d a b w => Sys2Proof.Machine.execShrl d a b w s
  | .shra d a b w => Sys2Proof.Machine.execShra d a b w s
  | .rol d a b w => Sys2Proof.Machine.execRol d a b w s
  | .mins d a b w => Sys2Proof.Machine.execMins d a b w s
  | .maxs d a b w => Sys2Proof.Machine.execMaxs d a b w s
  | .minz d a b w => Sys2Proof.Machine.execMinz d a b w s
  | .maxz d a b w => Sys2Proof.Machine.execMaxz d a b w s
  | .seq d a b w => Sys2Proof.Machine.execSeq d a b w s
  | .sne d a b w => Sys2Proof.Machine.execSne d a b w s
  | .slts d a b w => Sys2Proof.Machine.execSlts d a b w s
  | .sltz d a b w => Sys2Proof.Machine.execSltz d a b w s
  | .clz d a w => Sys2Proof.Machine.execClz d a w s
  | .ctz d a w => Sys2Proof.Machine.execCtz d a w s
  | .popc d a w => Sys2Proof.Machine.execPopc d a w s
  | .sext d a e w => Sys2Proof.Machine.execSext d a e w s
  | .zext d a e w => Sys2Proof.Machine.execZext d a e w s
  | .bswp d a w => Sys2Proof.Machine.execBswp d a w s
  | .addK d a k w => Sys2Proof.Machine.execAddK d a k w s
  | .subK d a k w => Sys2Proof.Machine.execSubK d a k w s
  | .mulK d a k w => Sys2Proof.Machine.execMulK d a k w s
  | .mulhsK d a k w => Sys2Proof.Machine.execMulhsK d a k w s
  | .mulhzK d a k w => Sys2Proof.Machine.execMulhzK d a k w s
  | .divsK d a k w => Sys2Proof.Machine.execDivsK d a k w s
  | .divzK d a k w => Sys2Proof.Machine.execDivzK d a k w s
  | .remsK d a k w => Sys2Proof.Machine.execRemsK d a k w s
  | .remzK d a k w => Sys2Proof.Machine.execRemzK d a k w s
  | .andK d a k w => Sys2Proof.Machine.execAndK d a k w s
  | .orK d a k w => Sys2Proof.Machine.execOrK d a k w s
  | .xorK d a k w => Sys2Proof.Machine.execXorK d a k w s
  | .andnK d a k w => Sys2Proof.Machine.execAndnK d a k w s
  | .shlK d a k w => Sys2Proof.Machine.execShlK d a k w s
  | .shrlK d a k w => Sys2Proof.Machine.execShrlK d a k w s
  | .shraK d a k w => Sys2Proof.Machine.execShraK d a k w s
  | .rolK d a k w => Sys2Proof.Machine.execRolK d a k w s
  | .minsK d a k w => Sys2Proof.Machine.execMinsK d a k w s
  | .maxsK d a k w => Sys2Proof.Machine.execMaxsK d a k w s
  | .minzK d a k w => Sys2Proof.Machine.execMinzK d a k w s
  | .maxzK d a k w => Sys2Proof.Machine.execMaxzK d a k w s
  | .seqK d a k w => Sys2Proof.Machine.execSeqK d a k w s
  | .sneK d a k w => Sys2Proof.Machine.execSneK d a k w s
  | .sltsK d a k w => Sys2Proof.Machine.execSltsK d a k w s
  | .sltzK d a k w => Sys2Proof.Machine.execSltzK d a k w s
  | .addi d a n => Sys2Proof.Machine.execAddi d a n s
  | .andi d a n => Sys2Proof.Machine.execAndi d a n s
  | .ori d a n => Sys2Proof.Machine.execOri d a n s
  | .xori d a n => Sys2Proof.Machine.execXori d a n s
  | .slti d a n => Sys2Proof.Machine.execSlti d a n s
  | .sltiu d a n => Sys2Proof.Machine.execSltiu d a n s
  | .shi d a t w n => Sys2Proof.Machine.execShi d a t w n s
  | .beq a b o => Sys2Proof.Machine.execBeq a b o s
  | .bne a b o => Sys2Proof.Machine.execBne a b o s
  | .blts a b o => Sys2Proof.Machine.execBlts a b o s
  | .bges a b o => Sys2Proof.Machine.execBges a b o s
  | .bltz a b o => Sys2Proof.Machine.execBltz a b o s
  | .bgez a b o => Sys2Proof.Machine.execBgez a b o s
  | .jmp o => Sys2Proof.Machine.execJmp o s
  | .call o => Sys2Proof.Machine.execCall o s
  | .jr a => Sys2Proof.Machine.execJr a s
  | .callr a => Sys2Proof.Machine.execCallr a s
  | .ret => Sys2Proof.Machine.execRet s
  | .loop a len => Sys2Proof.Machine.execLoop a len s
  | .loopk k len => Sys2Proof.Machine.execLoopk k len s
  | .lexit => Sys2Proof.Machine.execLexit s
  | .lsave => Sys2Proof.Machine.execLsave s
  | .lrst => Sys2Proof.Machine.execLrst s
  | .pset d a => Sys2Proof.Machine.execPset d a s
  | .pget d a => Sys2Proof.Machine.execPget d a s
  | .padd d a b => Sys2Proof.Machine.execPadd d a b s
  | .pwalk d a b => Sys2Proof.Machine.execPwalk d a b s
  | .pcoord d a b => Sys2Proof.Machine.execPcoord d a b s
  | .ld d p y adr o => Sys2Proof.Machine.execLd d p y adr o s
  | .st d p y adr o => Sys2Proof.Machine.execSt d p y adr o s
  | .ldv d p adr o => Sys2Proof.Machine.execLdv d p adr o s
  | .stv d p adr o => Sys2Proof.Machine.execStv d p adr o s
  | .gath d a b z x o => Sys2Proof.Machine.execGath d a b z x o s
  | .scat d a b z x o => Sys2Proof.Machine.execScat d a b z x o s
  | .amo d a b f w o => Sys2Proof.Machine.execAmo d a b f w o s
  | .cas d a b w o => Sys2Proof.Machine.execCas d a b w o s
  | .fadd d a b f o => Sys2Proof.Machine.execFadd d a b f o s
  | .fenceFull y => Sys2Proof.Machine.execFenceFull y s
  | .fenceAcq y => Sys2Proof.Machine.execFenceAcq y s
  | .fenceRel y => Sys2Proof.Machine.execFenceRel y s
  | .fencePath => Sys2Proof.Machine.execFencePath s
  | .fenceWin => Sys2Proof.Machine.execFenceWin s
  | .qbind d q => Sys2Proof.Machine.execQbind d q s
  | .qwait q n => Sys2Proof.Machine.execQwait q n s
  | .qrsv q n => Sys2Proof.Machine.execQrsv q n s
  | .qpush q n => Sys2Proof.Machine.execQpush q n s
  | .qpop q n => Sys2Proof.Machine.execQpop q n s
  | .qldv d q n => Sys2Proof.Machine.execQldv d q n s
  | .qstv d q n => Sys2Proof.Machine.execQstv d q n s
  | .qwaitSatisfied slot => Sys2Proof.Machine.execQwaitSatisfied slot s
  | .vadd d a b r => Sys2Proof.Machine.execVadd d a b r s
  | .vsub d a b r => Sys2Proof.Machine.execVsub d a b r s
  | .vmul d a b r => Sys2Proof.Machine.execVmul d a b r s
  | .vfma d a b r => Sys2Proof.Machine.execVfma d a b r s
  | .vfms d a b r => Sys2Proof.Machine.execVfms d a b r s
  | .vmin d a b => Sys2Proof.Machine.execVmin d a b s
  | .vmax d a b => Sys2Proof.Machine.execVmax d a b s
  | .vabs d a => Sys2Proof.Machine.execVabs d a s
  | .vneg d a => Sys2Proof.Machine.execVneg d a s
  | .vdiv d a b r => Sys2Proof.Machine.execVdiv d a b r s
  | .vsqrt d a r => Sys2Proof.Machine.execVsqrt d a r s
  | .vrcp d a r => Sys2Proof.Machine.execVrcp d a r s
  | .vrsq d a r => Sys2Proof.Machine.execVrsq d a r s
  | .vexp2 d a r => Sys2Proof.Machine.execVexp2 d a r s
  | .vlog2 d a r => Sys2Proof.Machine.execVlog2 d a r s
  | .vcmp d a b c => Sys2Proof.Machine.execVcmp d a b c s
  | .vsel d a b => Sys2Proof.Machine.execVsel d a b s
  | .viadd d a b y e => Sys2Proof.Machine.execViadd d a b y e s
  | .visub d a b y e => Sys2Proof.Machine.execVisub d a b y e s
  | .vimul d a b e => Sys2Proof.Machine.execVimul d a b e s
  | .vand d a b => Sys2Proof.Machine.execVand d a b s
  | .vor d a b => Sys2Proof.Machine.execVor d a b s
  | .vxor d a b => Sys2Proof.Machine.execVxor d a b s
  | .vshl d a b e => Sys2Proof.Machine.execVshl d a b e s
  | .vshr d a b t e => Sys2Proof.Machine.execVshr d a b t e s
  | .vbcast d a => Sys2Proof.Machine.execVbcast d a s
  | .vextr d a lane => Sys2Proof.Machine.execVextr d a lane s
  | .vins d a lane => Sys2Proof.Machine.execVins d a lane s
  | .vperm d a b => Sys2Proof.Machine.execVperm d a b s
  | .vscan d a k => Sys2Proof.Machine.execVscan d a k s
  | .vredadd d a r => Sys2Proof.Machine.execVredadd d a r s
  | .vredmax d a t => Sys2Proof.Machine.execVredmax d a t s
  | .vredmin d a t => Sys2Proof.Machine.execVredmin d a t s
  | .vpopc d a => Sys2Proof.Machine.execVpopc d a s
  | .vffs d a => Sys2Proof.Machine.execVffs d a s
  | .vcvt d a r => Sys2Proof.Machine.execVcvt d a r s
  | .vqnt d a b => Sys2Proof.Machine.execVqnt d a b s
  | .vdqnt d a b => Sys2Proof.Machine.execVdqnt d a b s
  | .mzero t e => Sys2Proof.Machine.execMzero t e s
  | .manchor t k e => Sys2Proof.Machine.execManchor t k e s
  | .mma t a b k e => Sys2Proof.Machine.execMma t a b k e s
  | .mmas t a b k e => Sys2Proof.Machine.execMmas t a b k e s
  | .mres t a k e => Sys2Proof.Machine.execMres t a k e s
  | .mresc t e => Sys2Proof.Machine.execMresc t e s
  | .mrd t d k e => Sys2Proof.Machine.execMrd t d k e s
  | .mcmp t d k e => Sys2Proof.Machine.execMcmp t d k e s
  | .msave t a e => Sys2Proof.Machine.execMsave t a e s
  | .mload t a e => Sys2Proof.Machine.execMload t a e s
  | .mmerge t a e => Sys2Proof.Machine.execMmerge t a e s
  | .mrstl k => Sys2Proof.Machine.execMrstl k s
  | .mwait t e => Sys2Proof.Machine.execMwait t e s
  | .engineUnit cl e => Sys2Proof.Machine.execEngineUnit cl e s
  | .astep e o q n g => Sys2Proof.Machine.execAstep e o q n g s
  | .astepx d q n g => Sys2Proof.Machine.execAstepx d q n g s
  | .streamSymbol slot => Sys2Proof.Machine.execStreamSymbol slot s
  | .aload a g => Sys2Proof.Machine.execAload a g s
  | .aset a b g => Sys2Proof.Machine.execAset a b g s
  | .atok a g => Sys2Proof.Machine.execAtok a g s
  | .acomp d a b => Sys2Proof.Machine.execAcomp d a b s
  | .asel d a b => Sys2Proof.Machine.execAsel d a b s
  | .amask d b g => Sys2Proof.Machine.execAmask d b g s
  | .aforce d b g => Sys2Proof.Machine.execAforce d b g s
  | .aget d g => Sys2Proof.Machine.execAget d g s
  | .apush a g => Sys2Proof.Machine.execApush a g s
  | .apop d g => Sys2Proof.Machine.execApop d g s
  | .tbind a b => Sys2Proof.Machine.execTbind a b s
  | .tbindm a b => Sys2Proof.Machine.execTbindm a b s
  | .tunbind a => Sys2Proof.Machine.execTunbind a s
  | .topen d a => Sys2Proof.Machine.execTopen d a s
  | .topenw d a b => Sys2Proof.Machine.execTopenw d a b s
  | .topenwTimeout slot => Sys2Proof.Machine.execTopenwTimeout slot s
  | .tclose a => Sys2Proof.Machine.execTclose a s
  | .tinfo d a n => Sys2Proof.Machine.execTinfo d a n s
  | .thaddr d a b => Sys2Proof.Machine.execThaddr d a b s
  | .spawn d a => Sys2Proof.Machine.execSpawn d a s
  | .nend => Sys2Proof.Machine.execNend s
  | .nwait a => Sys2Proof.Machine.execNwait a s
  | .barr a c => Sys2Proof.Machine.execBarr a c s
  | .yardAny d a => Sys2Proof.Machine.execYardAny d a s
  | .yardAll d a => Sys2Proof.Machine.execYardAll d a s
  | .yardDet => Sys2Proof.Machine.execYardDet s
  | .cpy d a b l n r q => Sys2Proof.Machine.execCpy d a b l n r q s
  | .cpyx d a b l n r q => Sys2Proof.Machine.execCpyx d a b l n r q s
  | .sealOut d a b n r q => Sys2Proof.Machine.execSealOut d a b n r q s
  | .evcfg a b => Sys2Proof.Machine.execEvcfg a b s
  | .evwait a => Sys2Proof.Machine.execEvwait a s
  | .gcommit g => Sys2Proof.Machine.execGcommit g s
  | .gdrop g => Sys2Proof.Machine.execGdrop g s
  | .trap c => Sys2Proof.Machine.execTrap c s
  | .eret => Sys2Proof.Machine.execEret s
  | .uret => Sys2Proof.Machine.execUret s
  | .sysr d n => Sys2Proof.Machine.execSysr d n s
  | .sysw a n => Sys2Proof.Machine.execSysw a n s
  | .swpwp a => Sys2Proof.Machine.execSwpwp a s
  | .hbeat => Sys2Proof.Machine.execHbeat s
  | .wfe => Sys2Proof.Machine.execWfe s
  | .wfeWake slot => Sys2Proof.Machine.execWfeWake slot s
  | .halt => Sys2Proof.Machine.execHalt s
  | .spill => Sys2Proof.Machine.execSpill s
  | .wmon a => Sys2Proof.Machine.execWmon a s
  | .rdtime d => Sys2Proof.Machine.execRdtime d s
  | .rdwin d => Sys2Proof.Machine.execRdwin d s
  | .permix d a k => Sys2Proof.Machine.execPermix d a k s
  | .hnop p => Sys2Proof.Machine.execHnop p s
  | .hintType8to15 t p => Sys2Proof.Machine.execHintType8to15 t p s
  | .himm p => Sys2Proof.Machine.execHimm p s
  | .hfmt a b o y x => Sys2Proof.Machine.execHfmt a b o y x s
  | .hscope y => Sys2Proof.Machine.execHscope y s
  | .hrealign n => Sys2Proof.Machine.execHrealign n s
  | .realignTimeout slot => Sys2Proof.Machine.execRealignTimeout slot s
  | .hpromo p => Sys2Proof.Machine.execHpromo p s
  | .hguard g => Sys2Proof.Machine.execHguard g s
  | .hnt => Sys2Proof.Machine.execHnt s
  | .notifyEntry slot => Sys2Proof.Machine.execNotifyEntry slot s
  | .copyChunk cl e => Sys2Proof.Machine.execCopyChunk cl e s
  | .commandCompletion cmd => Sys2Proof.Machine.execCommandCompletion cmd s
  | .armedCommandStart cmd => Sys2Proof.Machine.execArmedCommandStart cmd s
  | .sealStart => Sys2Proof.Machine.execSealStart s
  | .nodeEnd node => Sys2Proof.Machine.execNodeEnd node s
  | .deferredDrain die => Sys2Proof.Machine.execDeferredDrain die s
  | .leaseGrant node => Sys2Proof.Machine.execLeaseGrant node s
  | .dispatchDecision die => Sys2Proof.Machine.execDispatchDecision die s
  | .reserving node => Sys2Proof.Machine.execReserving node s
  | .prioritySpill node => Sys2Proof.Machine.execPrioritySpill node s
  | .launch node => Sys2Proof.Machine.execLaunch node s
  | .heartbeatExpiry slot => Sys2Proof.Machine.execHeartbeatExpiry slot s
  | .fenceTestDone core passed => Sys2Proof.Machine.execFenceTestDone core passed s
  | .slotSpill slot => Sys2Proof.Machine.execSlotSpill slot s
  | .resumption node => Sys2Proof.Machine.execResumption node s
  | .entryTimeout core k => Sys2Proof.Machine.execEntryTimeout core k s
  | .storeLinePerform core k => Sys2Proof.Machine.execStoreLinePerform core k s
  | .accessResponse slot data => Sys2Proof.Machine.execAccessResponse slot data s
  | .pageWalk cl asid va kind => Sys2Proof.Machine.execPageWalk cl asid va kind s
  | .vexeyAdmission req flits => Sys2Proof.Machine.execVexeyAdmission req flits s
  | .vexeyWrite msg payload => Sys2Proof.Machine.execVexeyWrite msg payload s
  | .vexeyRead msg => Sys2Proof.Machine.execVexeyRead msg s
  | .readData msg payload => Sys2Proof.Machine.execReadData msg payload s
  | .vexeyAtomic msg req => Sys2Proof.Machine.execVexeyAtomic msg req s
  | .atomicData msg payload => Sys2Proof.Machine.execAtomicData msg payload s
  | .performed msg => Sys2Proof.Machine.execPerformed msg s
  | .clockMessage ofs => Sys2Proof.Machine.execClockMessage ofs s
  | .linkFailure link => Sys2Proof.Machine.execLinkFailure link s
  | .syncLost => Sys2Proof.Machine.execSyncLost s
  | .syncRegained => Sys2Proof.Machine.execSyncRegained s
  | .hostWrite port pa data => Sys2Proof.Machine.execHostWrite port pa data s
  | .hostRead port pa n => Sys2Proof.Machine.execHostRead port pa n s
  | .launchSubmission port off data => Sys2Proof.Machine.execLaunchSubmission port off data s
  | .dmaRequest port rid va rd data => Sys2Proof.Machine.execDmaRequest port rid va rd data s
  | .interruptLineRaise line => Sys2Proof.Machine.execInterruptLineRaise line s
  | .functionReset port => Sys2Proof.Machine.execFunctionReset port s
  | .functionReady port => Sys2Proof.Machine.execFunctionReady port s
  | .faultRecordPost ring => Sys2Proof.Machine.execFaultRecordPost ring s
  | .tinv v => Sys2Proof.Machine.execTinv v s
  | .invalidationDone => Sys2Proof.Machine.execInvalidationDone s
  | .spillreq v => Sys2Proof.Machine.execSpillreq v s
  | .nodekill v => Sys2Proof.Machine.execNodekill v s
  | .leasego v => Sys2Proof.Machine.execLeasego v s
  | .leaseno v => Sys2Proof.Machine.execLeaseno v s
  | .fenceack v => Sys2Proof.Machine.execFenceack v s
  | .relasid v => Sys2Proof.Machine.execRelasid v s
  | .grantEntryWrite off v => Sys2Proof.Machine.execGrantEntryWrite off v s
  | .bankModeRequest cl bank v => Sys2Proof.Machine.execBankModeRequest cl bank v s
  | .furlRequest cl bank v => Sys2Proof.Machine.execFurlRequest cl bank v s
  | .bankSwitchDone cl bank => Sys2Proof.Machine.execBankSwitchDone cl bank s
  | .bankReef bank => Sys2Proof.Machine.execBankReef bank s
  | .routineLoad cl v => Sys2Proof.Machine.execRoutineLoad cl v s
  | .routineUnload cl v => Sys2Proof.Machine.execRoutineUnload cl v s
  | .routineLoadDone cl => Sys2Proof.Machine.execRoutineLoadDone cl s
  | .protectionEntryWrite core e v => Sys2Proof.Machine.execProtectionEntryWrite core e v s
  | .registerWrite pa v => Sys2Proof.Machine.execRegisterWrite pa v s
  | .limiterMeasure die mw => Sys2Proof.Machine.execLimiterMeasure die mw s
  | .attest world nonce => Sys2Proof.Machine.execAttest world nonce s
  | .park slot => Sys2Proof.Machine.execPark slot s
  | .resume slot => Sys2Proof.Machine.execResume slot s
  | .stepSlot slot => Sys2Proof.Machine.execStepSlot slot s
  | .readMem pa n => Sys2Proof.Machine.execReadMem pa n s
  | .writeMem pa data => Sys2Proof.Machine.execWriteMem pa data s
  | .traceCfg cfg => Sys2Proof.Machine.execTraceCfg cfg s
  | .counters => Sys2Proof.Machine.execCounters s
  | .bootlog => Sys2Proof.Machine.execBootlog s
  | .traceSample => Sys2Proof.Machine.execTraceSample s
  | .counterSnapshot => Sys2Proof.Machine.execCounterSnapshot s
  | .resetModule boot => Sys2Proof.Machine.execResetModule boot s
  | .illegalWord w => Sys2Proof.Machine.execIllegalWord w s
  | .windowStart => Sys2Proof.Machine.execWindowStart s
  | .backInvalidateResponse line => Sys2Proof.Machine.execBackInvalidateResponse line s

end Sys2Proof.Machine
end

