-- ==== Sys2Proof/Machine/Issue.lean ====
section
/-!
DEFINITION. From a slot's turn to its word: fetching (spec/03_encoding.md R68, spec/05_scalar_control.md R108,
spec/20_engines_memory.md R326), issuing, and the halyard of a yard (spec/14_scheduler.md R268 to R271).
-/
namespace Sys2Proof.Machine

/-! ## Fetching -/

/-- What a fetch brings: a word, or the trap that is taken at its address; or the word is not there yet. -/
inductive Fetched where
  | word (w : Word) (s : State)
  | trap (o : Out)
  | later (s : State)

/-- A word of a transform slot's routine; a target outside it cannot be fetched (R108, R326). -/
def fetchRoutine (s : State) : Fetched :=
  let u := s.thr.id.core - 8192
  let n := (s.cmds.find? (fun c => c.kind = .cpyx && c.st = .running && 4 * c.cl + c.engine = u)).map (·.routine)
  match (s.routines.find? (fun r => r.cl = u / 4 && some r.num = n)).bind (fun r => r.words[s.thr.pc.toNat / 4]?) with
  | some w => .word w s
  | none => .trap (trapTo .lease 0 (some (transWord 0 .fetch 1 s.thr.pc.toNat)) (s.thr.pc.setWidth 64) s)

/-- A word of text that has been written since the launch is fetched in its old form or as it stands (R68, log 30). -/
def textForm (pa : Nat) (w : Word) (s : State) : Fetched :=
  match ((s.node? s.thr.node).bind (fun n => n.oldText.find? (fun x => x.1 = pa / 4))) with
  | none => .word w s
  | some x => if Config.oldForm s.fresh then .word x.2 s.used else .word w s.used

/-- A line enters a cluster's instruction cache of 64 KiB, where it is from a cycle on (R271). The oldest line makes room (log 122). -/
def State.icacheFill (s : State) (cl : Nat) (line : Home) (due : Nat) : State :=
  let mine := (s.icache.filter (fun e => e.1 = cl)).take 1023
  { s with icache := (cl, line, due) :: mine ++ s.icache.filter (fun e => e.1 ≠ cl) }

/-- The fetch port has delivered the line, or delivers it now, or reads it from its home on a miss; a read that is under way serves
every slot that asks for the line (R116, R271). -/
def lineThen (line : Home) (s : State) (body : State → Fetched) : Fetched :=
  let cl := clusterOf s.thr.id.core
  if s.thr.line = some line then body s
  else match s.icache.find? (fun e => e.1 = cl && e.2.1 = line) with
    | some e =>
      if e.2.2 ≤ s.clock then body { s with thr := { s.thr with line := some line } }
      else .later { s with thr := { s.thr with nextIssue := e.2.2 } }
    | none =>
      let due := s.clock + s.cycles 1 900
      .later ({ s.used with thr := { s.thr with nextIssue := due } }.icacheFill cl line due)

/-- A fetch that waits for its home: the slot stalls before its next word. -/
def fetchWaits (ea : DWord) (fabric : Bool) (s : State) : Fetched :=
  .later { s with thr := { s.thr with wait := .stall (if fabric then .port ea else .fence) } }

/-- The word at a translated target, read at its home. Control space takes no fetch (R304), and its pages let in only worlds 0 and 1
(R283). -/
def fetchAt (l : Leaf) (s : State) : Fetched :=
  let va := s.thr.pc.toNat
  let h := l.home va
  let r : LaneReq := { home := h, ea := vaPtr va, n := 4, leaf := some l }
  let at_ := s.thr.pc.setWidth 64
  if !(s.admits s.thr.world h (some l) true false false && s.onRoster s.thr.world h) then
    .trap (trapTo .world 0 (some (vaPtr va)) at_ s)
  else match h with
    | .ctl pa =>
      if ctlAdmits s.thr.world false pa then .trap (trapTo .align misalign (some (vaPtr va)) at_ s)
      else .trap (trapTo .world 0 (some (vaPtr va)) at_ s)
    | _ => lineThen h.line s fun s =>
      if s.snooped r then fetchWaits r.ea false s
      else match s.readFor (.slot s.thr.id) s.thr.world r with
        | .bytes b s =>
          let w := BitVec.ofNat 32 (ofBytes b)
          (match h with
           | .hbm pa => textForm pa w s
           | _ => .word w (s.dropGot (.slot s.thr.id)))
        | .broken => .trap (machineCheck (s.laneKind r) h.off s)
        | .hold f t => fetchWaits r.ea f (t.getD s)

/-- The translation of a slot's next PC: one that a lease of its compute node pins in its address space, or the instruction TLB's (R302, R303). -/
def State.textLeaf (s : State) : Except DWord Leaf × State :=
  let id := s.thr.id
  let va := s.thr.pc.toNat
  let user := s.thr.status.priv = 0
  match (s.node? s.thr.node).bind (fun n => if s.thr.asid = n.asid then pinFor n va false else none) with
  | some l =>
    let s := s.touchPin (.itlb id.core) (clusterOf id.core) s.thr.asid l
    (match leafDenies l.word .fetch user with
     | some reason => (.error (transWord l.level .fetch reason va), s)
     | none => (.ok l, s))
  | none => s.translate (.itlb id.core) (clusterOf id.core) s.thr.asid va .fetch user

/-- The fetch of a slot's next word: a target whose translation fails traps with what is pending kept (R108, R302). -/
def fetch (s : State) : Fetched :=
  if isTransform s.thr.id then fetchRoutine s
  else match s.textLeaf with
    | (.error w, s) => .trap (trapTo .lease 0 (some w) (s.thr.pc.setWidth 64) s)
    | (.ok l, s) => fetchAt l s

/-- The next word of a slot: one it stalls at, the one the halyard has brought, or one it fetches. -/
def nextWord (s : State) : Fetched :=
  if s.thr.inWord then .word s.thr.word s
  else match s.thr.role, s.thr.fifo with
    | .follower, f :: _ => .word f.word s
    | _, _ => fetch s

/-! ## The halyard (R269, R270) -/

/-- An attached follower of a node that has not ended its part. -/
def attachedTo (node : Nat) (t : Thread) : Bool := t.node = node && t.role = .follower && t.run ≠ .ended && !isTransform t.id

/-- The cycles in which a word reaches the member of a rank. -/
def halyardCycles (rank : Nat) : Nat := 1 + (rank - 1) / 4

/-- A word put into a follower's buffer. -/
def Thread.receive (t : Thread) (pc : VAddr) (w : Word) (now : Nat) : Thread :=
  { t with fifo := t.fifo ++ [{ pc := pc, word := w, next := none, ready := now + halyardCycles t.rank, ran := false }] }

/-- A leader's word carried to its attached followers, once. -/
def State.carry (s : State) (pc : VAddr) (w : Word) : State :=
  if s.thr.role = .leader && !s.thr.sent && !isTransform s.thr.id && decide (1 < s.thr.width) then
    { s with
      others := s.others.map (fun t => if attachedTo s.thr.node t then t.receive pc w s.clock else t)
      thr := { s.thr with sent := true } }
  else s

/-- The leader's next PC told to the followers. -/
def Thread.told (node : Nat) (pc : VAddr) (t : Thread) : Thread :=
  if attachedTo node t then { t with fifo := t.fifo.map (fun f => if f.next = none then { f with next := some pc } else f) } else t

/-- A follower detaches (R270). -/
def Thread.detach (t : Thread) : Thread := { t with role := .detached, fifo := [] }

/-- A follower compares: its next PC with the leader's for the word it has completed, and its PC with the address of a word
that has reached it. -/
def Thread.compare (t : Thread) : Thread :=
  match t.role, t.fifo with
  | .follower, f :: rest =>
    if f.ran then
      match f.next with
      | some n => if n = t.pc then { t with fifo := rest } else t.detach
      | none => t
    else if !t.inWord && f.pc ≠ t.pc && t.run ≠ .ended then t.detach
    else t
  | _, _ => t

/-! ## When a word is completed -/

/-- A slot's word is completed: it waits for nothing, and is not to be tried again (R95). -/
def Thread.completed (t : Thread) : Bool := t.inWord && (t.wait = .none || t.wait = .spill) && !t.retried

/-- A follower's first buffered word is done. -/
def markRan : List Forwarded → List Forwarded
  | [] => []
  | f :: l => { f with ran := true } :: l

/-- The word of a thread counted as completed. -/
def Thread.finish (t : Thread) : Thread :=
  { t with inWord := false, sent := false, fifo := if t.role = .follower then markRan t.fifo else t.fifo }

/-- A completed word of a slot: a leader's next PC reaches the followers, and a slot that made a STEP parks again (R361). -/
def State.finishWord (s : State) (id : SlotId) : State :=
  match s.thread? id with
  | none => s
  | some t =>
    let s := (s.setThread t.finish).dropGot (.slot id)
    let s := if t.role = .leader ∧ !isTransform id then
        { s with thr := s.thr.told t.node t.pc, others := s.others.map (Thread.told t.node t.pc) }
      else s
    if t.stepping = .begun && t.run ≠ .ended then s.parkOne t.finish else s

/-- A leader that realigns goes on once every detached member of its yard has come to it (R47). -/
def State.rejoinAt (s : State) (id : SlotId) : State :=
  match s.focus id with
  | none => s
  | some f =>
    match f.thr.role, f.thr.wait with
    | .leader, .realign _ => if f.allMet then (f.rejoinMet.focus s.thr.id).getD s else s
    | _, _ => s

/-- A thread stalls in a realignment. -/
def Thread.realigns (t : Thread) : Bool :=
  match t.wait with
  | .realign _ => true
  | _ => false

/-- What follows every step: completed words are counted, slots of whom a PARK has been asked park (R362), followers compare, and yards
realign. -/
def State.settle (s : State) : State :=
  let s := ((s.threads.filter Thread.completed).map (·.id)).foldl State.finishWord s
  let s := (s.threads.filter Thread.parksNow).foldl State.parkOne s
  let s := { s with thr := s.thr.compare, others := s.others.map Thread.compare }
  ((s.threads.filter Thread.realigns).map (·.id)).foldl State.rejoinAt s

/-! ## Issuing -/

/-- An instruction word performed: the instruction that it encodes, or the fate of R66. -/
def runWord (w : Word) (s : State) : Out :=
  match decode w with
  | .ok i => exec i s
  | .error _ => execIllegalWord w s

/-- The word is in flight. -/
def Thread.begin (w : Word) (t : Thread) : Thread :=
  { t with inWord := true, word := w, justResumed := false, stepping := if t.stepping = .due then .begun else t.stepping }

/-- The core's turn taken by a slot (R268). -/
def State.takeTurn (s : State) (id : SlotId) : State :=
  s.setCore id.core { s.core id.core with lastTurn := id.slot, nextTurn := s.clock + 1 }

/-- After a word has issued: one that has still to realign has not begun (R47); another is carried to the followers. -/
def State.issued (s : State) (pc : VAddr) (w : Word) : State :=
  match s.thr.wait with
  | .realign _ => { s with thr := { s.thr with inWord := false } }
  | _ => s.carry pc w

/-- The slot in focus issues a word. -/
def issueWord (w : Word) (s : State) : Out :=
  match runWord w { s with thr := s.thr.begin w } with
  | .next u => .next ((u.issued s.thr.pc w).takeTurn s.thr.id)
  | .fault x => .fault x
  | .refused x => .refused x

/-- A slot that made a STEP of a word whose fetch traps parks at the handler's first word (R362). -/
def State.parkTrapped (s : State) (stepping : Stepping) : State :=
  if stepping = .due && s.thr.wait = .none && s.thr.run = .running && !(s.node? s.thr.node).any Node.closing then s.parkOne s.thr else s

/-- The slot in focus takes its turn; a slot whose next word is not present leaves it to the next one (R268). -/
def issueFocus (s : State) : Out :=
  match nextWord s with
  | .word w u => issueWord w u
  | .trap (.next u) => .next ((u.takeTurn s.thr.id).parkTrapped s.thr.stepping)
  | .trap o => o
  | .later u => .next u

/-- A slot takes its turn. -/
def issueSlot (id : SlotId) (s : State) : Out :=
  match s.focus id with
  | none => .next s
  | some u => issueFocus u

/-! ## Who may issue (R268) -/

/-- The stall is over, or the word has asked for something or sent something meanwhile. -/
def State.asksMore (s u : State) : Bool :=
  u.thr.wait ≠ s.thr.wait || u.thr.progress ≠ s.thr.progress || u.thr.geo ≠ s.thr.geo || u.sb ≠ s.sb
    || u.fabric.items.length ≠ s.fabric.items.length || u.fabric.got.length ≠ s.fabric.got.length
    || u.fabric.revivals ≠ s.fabric.revivals || u.dir.queue ≠ s.dir.queue

/-- A word that a slot stalls at would go on now, or the word that it has still to fetch. -/
def State.stallOver (s : State) (t : Thread) : Bool :=
  match s.focus t.id with
  | none => false
  | some f =>
    if t.inWord then (match runWord t.word f with
      | .next u => f.asksMore u
      | .fault _ => true
      | .refused _ => true)
    else match fetch f with
      | .word _ _ => true
      | .trap (.next u) => f.asksMore u
      | .trap _ => true
      | .later u => f.asksMore u

/-- The leader may go on: no attached follower's buffer of 8 words is full (R269). -/
def State.halyardRoom (s : State) (t : Thread) : Bool :=
  t.role ≠ .leader || t.width ≤ 1 || (s.threads.filter (attachedTo t.node)).all (fun u => decide (u.fifo.length < 8))

/-- The next word of a slot is present (R269). -/
def Thread.hasWord (t : Thread) (now : Nat) : Bool :=
  match t.role, t.fifo with
  | .follower, [] => false
  | .follower, f :: _ => !f.ran && f.pc = t.pc && decide (f.ready ≤ now)
  | _, _ => true

/-- A slot is ready (R268); a node that has ended and a fenced core issue nothing. -/
def State.mayIssue (s : State) (t : Thread) : Bool :=
  t.run = .running && decide (t.nextIssue ≤ s.clock) && !(s.core t.id.core).fenced
    && !(s.node? t.node).any s.shut
    && (match t.wait with
        | .none => !s.beingSpilled t.id && t.hasWord s.clock && s.halyardRoom t
        | .stall _ => s.stallOver t
        | _ => false)

/-- The thread of a slot index. -/
def slotOf (l : List Thread) (slot : Nat) : Option Thread := l.find? (fun t => t.id.slot = slot)

/-- The first slot of a core, from the one after the last turn on, that is ready or parked. -/
def State.turnOf (s : State) (core : Nat) : Option Thread :=
  let l := s.threads.filter (fun t => t.id.core = core)
  let last := (s.core core).lastTurn
  ((List.range 8).filterMap (fun i => slotOf l ((last + 1 + i) % 8))).find? (fun t => t.run = .parked || s.mayIssue t)

/-- Under allowance D a core issues in at most D of every 16 cycles (R365). -/
def State.allowed (s : State) (core : Nat) : Bool :=
  decide (8192 ≤ core) || decide (s.clock % 16 < (s.die (dieOf core)).allowance)

end Sys2Proof.Machine
end

