-- ==== Sys2Proof/Machine/Events.lean ====
section
/-!
DEFINITION. What comes next: the steps that the units of the module may take by themselves, the turns of the cores, and the
passing of a cycle (spec/00_scope.md R5, spec/14_scheduler.md R263 to R274, spec/21_fabric_host.md R338). Where the manual
orders several possible steps no further, a free value chooses (log 2).
-/
namespace Sys2Proof.Machine

/-! ## The steps of the units -/

/-- The steps among these that can come about in this state. -/
def enabled (l : List Out) : List Out :=
  l.filter (fun o => match o with
    | .refused _ => false
    | .next _ => true
    | .fault _ => true)

/-- A STEP of a word that stalled, once the stall is over (R362): the slot parks again with its PC at that word. -/
def State.parkAgain (s : State) (t : Thread) : Out :=
  let t := { t with wait := .none, inWord := false, progress := 0, geo := [], claims := [] }
  .next ((s.setThread t).parkOne t)

/-- The flits that stand before a request to a home (R337). -/
def State.flitsFor (s : State) (h : Home) : Nat :=
  match h with
  | .peer pkg _ => s.flitsTo pkg
  | _ => 0

/-- The flits that stand before the next read of a command's source. -/
def State.chunkFlits (s : State) (c : Cmd) : Nat :=
  match s.nextPiece c with
  | none => 0
  | some (p, n) => match (s.engineLane (s.cmdUser c) p n .engRead).1 with
    | .ok x => s.flitsFor x.home
    | .error _ => 0

/-- The steps that may end what a thread waits for. -/
def threadSteps (s : State) (t : Thread) : List Out :=
  let id := t.id
  let stalled := fun (o : Out) => if t.stepping = .begun then (match o with
    | .next _ => s.parkAgain t
    | .fault x => .fault x
    | .refused x => .refused x) else o
  let here := match t.wait with
    | .ring .. => [stalled (execQwaitSatisfied id s)]
    | .name .. => [execTopenwTimeout id s]
    | .monitor => [stalled (execWfeWake id s)]
    | .stream _ => [execStreamSymbol id s]
    | .realign _ => [execRealignTimeout id s]
    | .access _ => [execAccessResponse id (BitVec.ofNat 512 (ofBytes ((List.range 64).map (Config.remoteByte s.fresh)))) s.used]
    | _ => []
  if t.notifies.isEmpty then here else execNotifyEntry id s :: here

/-- The steps that a node's phase allows. -/
def nodeSteps (s : State) (n : Node) : List Out :=
  let here := match n.phase with
    | .leasing => [execLeaseGrant n.id s]
    | .ready => [execReserving n.id s, execPrioritySpill n.id s]
    | .spilled => [execReserving n.id s, execPrioritySpill n.id s]
    | .placed => if n.saved.isEmpty then [execLaunch n.id s] else [execResumption n.id s]
    | _ => []
  if n.closing || n.allEnded then execNodeEnd n.id s :: here else here

/-- The steps of a command. -/
def cmdSteps (s : State) (c : Cmd) : List Out :=
  match c.st with
  | .finishing _ => [execCommandCompletion c.id s]
  | .queued => if c.arm then [execArmedCommandStart c.id s] else []
  | .running => []
  | .held _ => []

/-- The steps of a core's store buffer. -/
def bufferSteps (s : State) (core : Nat) (l : List SbEntry) : List Out :=
  (List.range l.length).flatMap (fun k =>
    match l[k]? with
    | none => []
    | some e =>
      if e.waiting then []
      else if e.sent then [execStoreLinePerform core k s] else [execEntryTimeout core k s])

/-- The steps of a die's dispatcher. -/
def dieSteps (s : State) (d : Nat) : List Out := [execDeferredDrain d s, execDispatchDecision d s]

/-- The engines that have a command. -/
def cmdEngines (l : List Cmd) : List (Nat × Nat) :=
  (l.filter (fun c => c.kind ≠ .seal_)).foldl (fun a c => if a.contains (c.cl, c.engine) then a else a ++ [(c.cl, c.engine)]) []

/-- The steps of the engines. -/
def engineSteps (s : State) : List Out :=
  (s.jobs.filter (fun j => !j.2.isEmpty)).map (fun j => execEngineUnit j.1.1 (Fin.ofNat 2 j.1.2) s)
    ++ (cmdEngines s.cmds).map (fun x => execCopyChunk x.1 (Fin.ofNat 4 x.2) s)
    ++ (if s.cmds.any (fun c => c.kind = .seal_) then [execSealStart s] else [])
    ++ s.cmds.flatMap (cmdSteps s)

/-- The steps of the memory hardware and of system units. -/
def systemSteps (s : State) : List Out :=
  (s.banks.filter (fun b => b.2.switching.isSome)).map (fun b => execBankSwitchDone b.1.1 (Fin.ofNat 64 b.1.2) s)
    ++ (s.routineCtl.filter (fun r => r.2.loading.isSome)).map (fun r => execRoutineLoadDone r.1 s)
    ++ (s.cores.filter (fun c => c.2.testing)).map (fun c => execFenceTestDone c.1 (Config.testPasses s.fresh) s.used)
    ++ s.spillQueue.map (fun id => execSlotSpill id s)
    ++ s.ctl.records.map (fun r => execFaultRecordPost r.ring s)
    ++ (if s.ctl.tinv.isEmpty then [] else [execInvalidationDone s])
    ++ s.fabric.hostLines.map (fun l => execBackInvalidateResponse l.1 s)
    ++ (s.fabric.revivals.filterMap s.reviveNext).map Host.Outcome.next
    ++ [execTraceSample s, execCounterSnapshot s]

/-- Every step that a unit of the module may take now. -/
def State.unitSteps (s : State) : List Out :=
  enabled (s.threads.flatMap (threadSteps s) ++ s.nodes.flatMap (nodeSteps s) ++ (List.range 8).flatMap (dieSteps s)
    ++ s.sb.flatMap (fun x => bufferSteps s x.1 x.2) ++ engineSteps s ++ systemSteps s)

/-- Slots whose saved member waits for its tiles and lane groups beyond its heartbeat (R35, R36). -/
def State.lateSlots (s : State) : List SlotId :=
  ((s.nodes.flatMap (·.saved)).map (·.thr.id)).filter (fun id => (s.lateMember id).isSome)

/-- What the ports may admit now: each request is admitted at the first cycle in which it can be (R337). -/
def State.admissions (s : State) : List Out :=
  s.sb.flatMap (fun x => (List.range x.2.length).filterMap (fun k => (x.2[k]?.filter (·.waiting)).map (fun e =>
      execVexeyAdmission (.line x.1 k) (s.flitsFor e.line) s)))
    ++ s.threads.filterMap (fun t => match t.wait with
        | .access r => r.lanes.head?.map (fun x => execVexeyAdmission (.access t.id) (s.flitsFor x.home) s)
        | _ => none)
    ++ (s.cmds.filter (fun c => c.st = .running && c.since.isSome)).map (fun c => execVexeyAdmission (.chunk c.id) (s.chunkFlits c) s)

/-- Steps that come about in the cycle in which they are due: SYNC that is lost or regained (R339), a heartbeat that has run out
(R274), the start of a window (R133), the timeouts of TOPENW, of a realignment and of a store-buffer entry, the first read of a copy whose line is resident
(R258), the admission of requests (R337) and the reefing of idle banks (R365). -/
def State.dueSteps (s : State) : List Out :=
  enabled ([execSyncLost s, execSyncRegained s]
    ++ (((s.threads.filter s.expired).map (·.id)) ++ s.lateSlots).map (fun id => execHeartbeatExpiry id s)
    ++ (if s.threads.any (fun t => match t.wait with
          | .window _ => true
          | _ => false) then [execWindowStart s] else [])
    ++ s.threads.flatMap (fun t => match t.wait with
          | .name .. => [execTopenwTimeout t.id s]
          | .realign _ => [execRealignTimeout t.id s]
          | _ => [])
    ++ s.sb.flatMap (fun x => (List.range x.2.length).map (fun k => execEntryTimeout x.1 k s))
    ++ (s.cmds.filter s.chunkDue).map (fun c => execCopyChunk c.cl (Fin.ofNat 4 c.engine) s)
    ++ s.admissions
    ++ s.touched.map (fun x => execBankReef x.1 s))

/-! ## Turns (R268) -/

/-- The cores with a thread. -/
def State.busyCores (s : State) : List Nat :=
  s.threads.foldl (fun l t => if l.contains t.id.core then l else l ++ [t.id.core]) []

/-- The slot whose turn it is issues a word, or takes a pending notify that may be taken now in its place: notifies are taken
whenever UIE is 1 and INUI is 0 (R39). -/
def State.turnIssues (s : State) (t : Thread) : Out :=
  if t.takesNotify && t.between s.clock then execNotifyEntry t.id s else issueSlot t.id s

/-- A core's turn: a parked slot leaves it empty. -/
def State.turn (s : State) (core : Nat) : List Out :=
  if decide (s.clock < (s.core core).nextTurn) || !s.allowed core then []
  else match s.turnOf core with
    | none => []
    | some t =>
      if t.run = .parked then [.next (s.takeTurn t.id)]
      else if t.stepping = .begun && t.wait ≠ .none then [s.parkAgain t]
      else [s.turnIssues t]

/-- Every turn that a core may take now. -/
def State.turns (s : State) : List Out := s.busyCores.flatMap s.turn

/-! ## The passing of a cycle -/

/-- Nanoseconds that end within a cycle: 10 in 11 cycles at 1.1 GHz. -/
def cycleNs (clock : Nat) : Nat := 10 * (clock + 1) / 11 - 10 * clock / 11

/-- The state with TIME one cycle on. It is slewed by at most 1 ns in a microsecond, and never back (R338, log 29): the correction
falls on a cycle in which a nanosecond ends. -/
def State.passTime (s : State) : State :=
  if s.clock % 1100 = 1 then
    { s.used with time := s.time + BitVec.ofNat 64 (cycleNs s.clock + Config.slew s.fresh % 3 - 1) }
  else { s with time := s.time + BitVec.ofNat 64 (cycleNs s.clock) }

/-- HBCNT of a slot counts (R273). -/
def State.pass (s : State) (t : Thread) : Thread := if s.counting t then { t with hbcnt := t.hbcnt + 1 } else t

/-- A saved member waits for its tiles or lane groups (R35, R36). -/
def State.passSaved (s : State) (n : Node) : Node :=
  { n with saved := n.saved.map (fun m => if s.reclaims n m then { m with waited := m.waited + 1 } else m) }

/-- A running compute node charges its address space (R264). -/
def State.chargeNode (s : State) (n : Node) : State :=
  if n.service || !(n.phase = .placed || n.phase = .running) then s
  else
    let x := s.die n.die
    s.setDie n.die { x with
      classes := x.classes.mapIdx (fun k c => if k = n.prio.toNat then c.setDeficit n.asid (c.deficit n.asid - n.width) else c) }

/-- A queued armed command whose term is true at the start of a cycle (R229). -/
def State.noteTerm (s : State) (c : Cmd) : Cmd :=
  if c.st = .queued && c.arm && s.trueTerms.contains (c.cl, c.term) then { c with termMet := true } else c

/-- The terms are evaluated from the counters at the start of a cycle, and no pulse has come in it yet (R332). -/
def State.evaluate (s : State) : State :=
  { s with trueTerms := (s.terms.map (·.1)).filter (fun k => s.termTrue k.1 k.2), pulsed := [] }

/-- A cycle passes. -/
def State.tick (s : State) : State :=
  let s := s.nodes.foldl State.chargeNode s.passTime
  let s := ({ s with
    clock := s.clock + 1
    thr := s.pass s.thr
    others := s.others.map s.pass
    nodes := s.nodes.map s.passSaved }).evaluate
  { s with cmds := s.cmds.map s.noteTerm }

/-! ## The next step -/

/-- One of several possible steps (log 2); the only one is taken without a choice. -/
def choose (s : State) : List Out → Out
  | [] => .next s.tick
  | [o] => o
  | o :: l =>
    match (o :: l)[Config.pick s.fresh % (l.length + 1)]? with
    | some (.next u) => .next { u with fresh := max u.fresh (s.fresh + 1) }
    | some x => x
    | none => o

/-- A step of the module itself. A cycle passes when every core has taken its turn. -/
def State.inner (s : State) : Out :=
  match s.turns with
  | [] => choose s (s.unitSteps ++ (if s.unitSteps.isEmpty then [] else [.next s.tick]))
  | l => choose s (l ++ s.unitSteps)

/-- The steps of the outside world: of hosts, devices, other packages, links, the debug session, the measuring of current and
power management. The others come about inside the module. -/
def fromOutside : Instr → Bool
  | .clockMessage .. | .linkFailure .. | .vexeyWrite .. | .vexeyRead .. | .vexeyAtomic .. | .readData .. | .atomicData ..
  | .performed .. | .accessResponse .. | .hostWrite .. | .hostRead .. | .launchSubmission .. | .dmaRequest ..
  | .interruptLineRaise .. | .functionReset .. | .functionReady .. | .bankReef .. | .pageWalk .. | .limiterMeasure ..
  | .attest .. | .park .. | .resume .. | .stepSlot .. | .readMem .. | .writeMem .. | .traceCfg .. | .counters | .bootlog
  | .resetModule .. | .backInvalidateResponse .. | .fenceTestDone .. => true
  | _ => false

/-- What Typel serves while the module is not up: BOOTLOG and ATTEST, and a start (R366). -/
def servedBeforeStart : Instr → Bool
  | .attest .. | .bootlog | .resetModule .. => true
  | _ => false

/-- What comes from the outside in one order: the posted writes of a port (R247, R342), the requests of devices behind it, the requests
of other packages for one package, and those of the debug sessions (R361). One that must wait holds back only those behind it. -/
def inOrder : Instr → Option Nat
  | .hostWrite port _ _ => some port.val
  | .launchSubmission port _ _ => some port.val
  | .dmaRequest port .. => some (2 + port.val)
  | .attest .. => some 4
  | .park .. => some 4
  | .resume .. => some 4
  | .stepSlot .. => some 4
  | .readMem .. => some 4
  | .writeMem .. => some 4
  | .traceCfg .. => some 4
  | .counters => some 4
  | .bootlog => some 4
  | .vexeyWrite m _ => some (5 + m.pkg.toNat)
  | .vexeyRead m => some (5 + m.pkg.toNat)
  | .vexeyAtomic m _ => some (5 + m.pkg.toNat)
  | _ => none

/-- A request that its port has begun stays in its place until it is done. -/
def State.keeps (s : State) (i : Instr) : Bool :=
  match i with
  | .launchSubmission port _ _ => s.hasBegun port.val
  | .dmaRequest port .. => s.hasBegun (2 + port.val) || s.hasBegun (4 + port.val)
  | .hostWrite port _ _ => s.hasBegun (6 + port.val)
  | .park slot => match s.thread? slot with
    | some t => (s.parkGroup t).any (fun u => u.stepping = .parking)
    | none => false
  | .writeMem .. => s.dir.queue.contains .debug
  | _ => false

/-- The first step of the outside world that can come about: those in `skipped` wait, latest first, and hold back what is in `held`.
What a halted module is sent is lost. -/
def State.outside (s : State) : List Instr → List Instr → List (Option Nat) → Option Out
  | [], _, _ => none
  | i :: rest, skipped, held =>
    let lost : Option Out := some (.next { s with inbox := skipped.reverse ++ rest })
    if !fromOutside i then lost
    else if !s.typel.booted && !servedBeforeStart i then
      if s.typel.gaveUp then lost else s.outside rest (i :: skipped) held
    else if (inOrder i).isSome && held.contains (inOrder i) then s.outside rest (i :: skipped) held
    else match exec i { s with inbox := skipped.reverse ++ rest } with
      | .next u => some (.next (if u.keeps i then { u with inbox := skipped.reverse ++ i :: rest } else u))
      | .fault x => some (.fault x)
      | .refused _ => s.outside rest (i :: skipped) (inOrder i :: held)

/-- The next step: what is due comes first, then a step of the outside world that can come about, and else the module goes on. A module
that has not started starts (R366); one that has given up stays halted: only Typel answers. -/
def State.advance (s : State) : Out :=
  match (if s.typel.booted then s.dueSteps else []) with
  | o :: _ => o
  | [] =>
    match s.outside s.inbox [] [] with
    | some o => o
    | none =>
      if s.typel.booted then s.inner else if s.typel.gaveUp then .next s.tick
      else execResetModule (Config.bootScript s.typel.starts) s

/-- A step with what follows every step (R269, R270, R361). -/
def State.run (s : State) : Out :=
  match s.advance with
  | .next u => .next u.settle
  | .fault x => .fault x
  | .refused x => .refused x

end Sys2Proof.Machine
end

