-- ==== Sys2Proof/Machine/Place.lean ====
section
/-!
DEFINITION. A word placed where the module fetches next: what a loader that puts a program of one word into the module's
memory brings about (log 35).
-/
namespace Sys2Proof.Machine

/-- Where the word lies, in an address space that maps module HBM onto itself. -/
def placePc : VAddr := 0x200000

/-- The address space: a root word for ASID 0, whose table begins with a leaf of 4 TiB that permits everything. -/
def placeTables (m : Memory) (root : Nat) : Memory :=
  (m.write root (toBytes 8 0x100001)).write 0x100000 (toBytes 8 0xFF)

/-- The thread: at supervisor level in core 0, slot 0, in world 0. -/
def placeThread : Thread :=
  { Thread.vacant ⟨0, 0⟩ with
    run := .running, line := some (.hbm placePc.toNat), node := 1, kind := true, pc := placePc, status := { Status.zero with priv := 1 } }

/-- Its service node. -/
def placeNode : Node :=
  { id := 1, record := 0, entry := placePc, cblk := 0, ltab := 0, succ := 0, stat := 0, savea := 0, width := 1, service := true,
    prio := 0, stage := 0, world := 0, asid := 0, die := 0, phase := .running, readyAt := 0, passedSince := none, grants := [],
    members := [{ id := ⟨0, 0⟩, ended := false, spilled := false }], waitsFrom := 0, saved := [], reserved := [], ending := none, endedAt := 0, ends := none, binds := [], msix := none,
    spillAsked := [], spillAt := 0, launchedAt := 0, nendAt := 0, nendRank := 0, nendPc := 0, oldText := [] }

/-- The started module with nothing to do but that word. -/
def State.placed (s : State) (w : Word) : State :=
  { s with
    thr := placeThread
    others := []
    nodes := [placeNode]
    mem := (placeTables s.mem (bits s.ctl.atbase.toNat 51 19 * 2 ^ 19)).write placePc.toNat (toBytes 4 w.toNat)
    bad := []
    dies := []
    cores := []
    sb := []
    tlb := []
    seals := []
    jobs := []
    cmds := []
    banks := []
    routineCtl := []
    spillQueue := []
    upset := 0
    inbox := []
    ctl := { s.ctl with records := [], tinv := [] }
    fabric := { s.fabric with hostLines := [], revivals := [], items := [], begun := [], syncAt := s.time.toNat, goodSince := none, ofs := 0 }
    trust := { s.trust with lock := true, fwrow := 0xFFFFFFFF :: 0x00030003 :: List.replicate 14 0 }
    typel := { s.typel with booted := true, gaveUp := false, trace := { s.typel.trace with on := false }, lastSnap := s.time.toNat } }

end Sys2Proof.Machine
end

