-- ==== Sys2Proof/Machine/Step.lean ====
section
/-!
DEFINITION. The step of the module, and the placing of an instruction where the step fetches next.
-/
namespace Sys2Proof.Machine

/-- One step of the module. -/
def step (s : State) : Host.Outcome State Fault Refusal := s.run

/-- The state with an instruction placed where the very next step fetches (log 35). -/
def State.withFetchWord (s : State) (nbits w : Nat) : State := s.placed (BitVec.ofNat 32 (w % 2 ^ nbits))

end Sys2Proof.Machine
end

