-- ==== Sys2Proof/Safety.lean ====
section
/-!
DEFINITION. What a safe run is, and the words claims are made of: when a word begins without a fault of its own start, when a
check lets an access pass, and the states that words leave.
-/
namespace Sys2Proof.Machine

/-- The step answers a next state: the module goes on. -/
def goesOn (s : State) : Prop := ∃ t, step s = .next t

/-- A run of k steps that meets neither a fault nor a refusal. -/
def safeRun (k : Nat) (s : State) : Prop := ∃ t, Host.Core.run Sys2Proof.core k s = .next t

/-- The canonical form of memory (spec/12_ordering.md R244). -/
def State.memOk (s : State) : Prop := Memory.wf s.mem = true

/-- Nothing at the start of a word keeps it from its own effect: its pending hints are legal (R21, R66), a transform slot may
run it (R326), no check mismatches or has mismatched twice (R95), and no realignment is due before it (R47). -/
def mayRun (i : Instr) (s : State) : Prop :=
  hintFault i s.thr.status = false ∧ (isTransform s.thr.id = true → routineWord i = true)
    ∧ (s.thr.failed = false ∧ (s.upset = 0 ∨ checkedResult i = false))
    ∧ (s.thr.status.pending 4 = false ∨ s.thr.realigned = true)

/-- A word of supervisor level may begin. -/
def mayRunAt (level : Nat) (i : Instr) (s : State) : Prop := mayRun i s ∧ level ≤ s.thr.status.priv.toNat

/-- The state after a word that falls through to the next one, which may issue n cycles on: its hints are consumed (R21), and a
back edge may be taken (R111). -/
def State.passed (n : Nat) (s : State) : State := { s with thr := (s.thr.done (s.clock + n)).arrive s.thr.following }

/-- The same for a word whose next issue is due at a given cycle. -/
def State.passedAt (due : Nat) (s : State) : State := { s with thr := (s.thr.done due).arrive s.thr.following }

/-- The same for a word whose cost lies between two bounds: the free value counts on (log 18). -/
def State.passedWithin (lo hi : Nat) (s : State) : State := s.used.passed (s.cycles lo hi)

/-- The state after a word that passes control to t with no back edge. -/
def State.jumped (t : VAddr) (l : List LoopEntry) (n : Nat) (s : State) : State :=
  { s with thr := { s.thr.done (s.clock + n) with pc := t, loops := l } }

/-- The state after a word that arrives at t, where a back edge may be taken (R111). -/
def State.arrived (t : VAddr) (n : Nat) (s : State) : State := { s with thr := (s.thr.done (s.clock + n)).arrive t }

/-- A check passes in the state u: what follows it runs there. -/
def passes (f : (State → Out) → Out) (u : State) : Prop := ∀ body, f body = body u

/-- A check passes with x in the state u. -/
def yields {α : Type} (f : (α → State → Out) → Out) (x : α) (u : State) : Prop := ∀ body, f body = body x u

/-- A precise fault of a word in a slot whose supervisor has a handler (R236, R299): the hints are consumed and the word has no
other effect. -/
def State.trapped (c : Cause) (cls : BitVec 8) (v : DWord) (s : State) : State :=
  { s with thr := (s.thr.clearHints).enterTrap c cls v (s.thr.pc.setWidth 64) s.thr.stvec (s.clock + entryCycles s.thr.loops) }

/-- The slot's supervisor takes traps (R236, R350): STVEC is not 0, and the world is not protected. -/
def State.hasHandler (s : State) : Prop :=
  isTransform s.thr.id = false ∧ s.protectedWorld s.thr.world = false ∧ s.thr.stvec ≠ 0

/-- A precise trap of a cause whose EVAL the manual leaves open (log 19): the word has no effect but the entry of the trap. -/
def trapsWith (c : Cause) (s : State) (o : Out) : Prop :=
  ∃ t, o = .next t ∧ t.thr.ecause = BitVec.ofNat 64 c.code ∧ t.thr.epc = s.thr.pc.setWidth 64 ∧
    t.thr.pc = pcOf s.thr.stvec ∧ t.thr.status.priv = 1 ∧ t.mem = s.mem ∧
    (t.thr.ws.s, t.thr.ws.p, t.thr.ws.v, t.thr.ws.q) = (s.thr.ws.s, s.thr.ws.p, s.thr.ws.v, s.thr.ws.q)

end Sys2Proof.Machine
end

