-- ==== Sys2Proof/Certificates/Slice0/Obligations.lean ====
section
/-!
DEFINITION. The statements about the module for the provers. Each says which rules of spec/ it formalises. A word's own
effect is stated where nothing at its start keeps it from it (`mayRun`), as the whole next state, so that what is not named in
it stays as it was.
-/

open Sys2Proof Sys2Proof.Machine

namespace Sys2Proof.Machine

/-- An operand of N bits of a scalar word (R97). -/
def aluIn (w : Width) (x : DWord) : BitVec (widthBits w) := x.setWidth (widthBits w)

/-- What a scalar word with the N-bit result r answers (R97): the result sign-extended to 64 bits goes to the destination, and
the next word follows. -/
def aluOut (d : Reg) {w : Width} (r : BitVec (widthBits w)) (n : Nat) (s : State) : Out :=
  .next ((s.setS d (r.signExtend 64)).passed n)

/-- The binary functions, each with its register form and its window form (R98, R101). -/
def windowForms : List ((Reg → Reg → Reg → Width → Instr) × (Reg → Reg → Fin 256 → Width → Instr)) :=
  [(.add, .addK), (.sub, .subK), (.mul, .mulK), (.mulhs, .mulhsK), (.mulhz, .mulhzK), (.divs, .divsK),
   (.divz, .divzK), (.rems, .remsK), (.remz, .remzK), (.and, .andK), (.or, .orK), (.xor, .xorK),
   (.andn, .andnK), (.shl, .shlK), (.shrl, .shrlK), (.shra, .shraK), (.rol, .rolK), (.mins, .minsK),
   (.maxs, .maxsK), (.minz, .minzK), (.maxz, .maxzK), (.seq, .seqK), (.sne, .sneK), (.slts, .sltsK),
   (.sltz, .sltzK)]

/-- The sign-extended immediate of an F-RI word: 16 bits, or 38 with a pending HIMM's payload above them (R46, R103). -/
def immOperand (t : Thread) (i : Fin 65536) : DWord :=
  if t.status.pending 1 then (t.pay.himm ++ BitVec.ofNat 16 i.val : BitVec 38).signExtend 64
  else (BitVec.ofNat 16 i.val).signExtend 64

/-- The target of a conditional branch: 13 bits, or 35 with a pending HIMM's payload above them, in words from the branch
itself, modulo 2^55 (R46, R51, R105). -/
def branchTarget (t : Thread) (o : Fin 8192) : VAddr :=
  if t.status.pending 1 then t.pc + 4 * (t.pay.himm ++ BitVec.ofNat 13 o.val : BitVec 35).signExtend 55
  else t.pc + 4 * (BitVec.ofNat 13 o.val).signExtend 55

/-- The target of JMP and CALL (R106). -/
def jumpTarget (t : Thread) (o : Fin 67108864) : VAddr := t.pc + 4 * (BitVec.ofNat 26 o.val).signExtend 55

/-- What a taken branch or jump to t answers: the loop stack is unwound (R112). -/
def takenTo (t : VAddr) (s : State) : Out := .next (s.jumped t (unwind s.thr.loops t) 8)

end Sys2Proof.Machine

/-- R97 to R100: every ALU word completes with its function's N-bit result, sign-extended, in sd. The cycles to the next
issue are R116's. -/
def Obligations.AluFunctions : Prop :=
  ∀ (w : Width) (s : State) (d a b : Reg), let x := aluIn w (s.thr.sreg a); let y := aluIn w (s.thr.sreg b);
    (mayRun (.add d a b w) s → exec (.add d a b w) s = aluOut (w := w) d (x + y) 8 s) ∧
    (mayRun (.sub d a b w) s → exec (.sub d a b w) s = aluOut (w := w) d (x - y) 8 s) ∧
    (mayRun (.mul d a b w) s → exec (.mul d a b w) s = aluOut (w := w) d (x * y) 8 s) ∧
    (mayRun (.mulhs d a b w) s → exec (.mulhs d a b w) s = aluOut (w := w) d ((x.signExtend (2 * widthBits w) * y.signExtend (2 * widthBits w)).extractLsb' (widthBits w) (widthBits w)) 8 s) ∧
    (mayRun (.mulhz d a b w) s → exec (.mulhz d a b w) s = aluOut (w := w) d ((x.setWidth (2 * widthBits w) * y.setWidth (2 * widthBits w)).extractLsb' (widthBits w) (widthBits w)) 8 s) ∧
    (mayRun (.divs d a b w) s → exec (.divs d a b w) s = aluOut (w := w) d (if y = 0 then BitVec.allOnes _ else x.sdiv y) (divCycles w) s) ∧
    (mayRun (.divz d a b w) s → exec (.divz d a b w) s = aluOut (w := w) d (if y = 0 then BitVec.allOnes _ else x / y) (divCycles w) s) ∧
    (mayRun (.rems d a b w) s → exec (.rems d a b w) s = aluOut (w := w) d (if y = 0 then x else x - y * x.sdiv y) (divCycles w) s) ∧
    (mayRun (.remz d a b w) s → exec (.remz d a b w) s = aluOut (w := w) d (if y = 0 then x else x - y * (x / y)) (divCycles w) s) ∧
    (mayRun (.and d a b w) s → exec (.and d a b w) s = aluOut (w := w) d (x &&& y) 8 s) ∧
    (mayRun (.or d a b w) s → exec (.or d a b w) s = aluOut (w := w) d (x ||| y) 8 s) ∧
    (mayRun (.xor d a b w) s → exec (.xor d a b w) s = aluOut (w := w) d (x ^^^ y) 8 s) ∧
    (mayRun (.andn d a b w) s → exec (.andn d a b w) s = aluOut (w := w) d (x &&& ~~~y) 8 s) ∧
    (mayRun (.shl d a b w) s → exec (.shl d a b w) s = aluOut (w := w) d (x <<< (y.toNat % widthBits w)) 8 s) ∧
    (mayRun (.shrl d a b w) s → exec (.shrl d a b w) s = aluOut (w := w) d (x >>> (y.toNat % widthBits w)) 8 s) ∧
    (mayRun (.shra d a b w) s → exec (.shra d a b w) s = aluOut (w := w) d (x.sshiftRight (y.toNat % widthBits w)) 8 s) ∧
    (mayRun (.rol d a b w) s → exec (.rol d a b w) s = aluOut (w := w) d (x.rotateLeft (y.toNat % widthBits w)) 8 s) ∧
    (mayRun (.mins d a b w) s → exec (.mins d a b w) s = aluOut (w := w) d (if y.slt x then y else x) 8 s) ∧
    (mayRun (.maxs d a b w) s → exec (.maxs d a b w) s = aluOut (w := w) d (if x.slt y then y else x) 8 s) ∧
    (mayRun (.minz d a b w) s → exec (.minz d a b w) s = aluOut (w := w) d (if y < x then y else x) 8 s) ∧
    (mayRun (.maxz d a b w) s → exec (.maxz d a b w) s = aluOut (w := w) d (if x < y then y else x) 8 s) ∧
    (mayRun (.seq d a b w) s → exec (.seq d a b w) s = aluOut (w := w) d (if x = y then 1 else 0) 8 s) ∧
    (mayRun (.sne d a b w) s → exec (.sne d a b w) s = aluOut (w := w) d (if x = y then 0 else 1) 8 s) ∧
    (mayRun (.slts d a b w) s → exec (.slts d a b w) s = aluOut (w := w) d (if x.slt y then 1 else 0) 8 s) ∧
    (mayRun (.sltz d a b w) s → exec (.sltz d a b w) s = aluOut (w := w) d (if x < y then 1 else 0) 8 s) ∧
    (mayRun (.clz d a w) s → ∃ n, exec (.clz d a w) s = aluOut (w := w) d (BitVec.ofNat _ n) 8 s ∧ n ≤ widthBits w ∧
      (∀ i, widthBits w - n ≤ i → x.getLsbD i = false) ∧ (n < widthBits w → x.getLsbD (widthBits w - 1 - n) = true)) ∧
    (mayRun (.ctz d a w) s → ∃ n, exec (.ctz d a w) s = aluOut (w := w) d (BitVec.ofNat _ n) 8 s ∧ n ≤ widthBits w ∧
      (∀ i, i < n → x.getLsbD i = false) ∧ (n < widthBits w → x.getLsbD n = true)) ∧
    (mayRun (.popc d a w) s → exec (.popc d a w) s =
      aluOut (w := w) d (BitVec.ofNat _ ((List.range (widthBits w)).countP (fun i => x.getLsbD i))) 8 s) ∧
    (∀ e, mayRun (.sext d a e w) s → exec (.sext d a e w) s =
      aluOut (w := w) d (((s.thr.sreg a).setWidth (extBits e)).signExtend _) 8 s) ∧
    (∀ e, mayRun (.zext d a e w) s → exec (.zext d a e w) s =
      aluOut (w := w) d (((s.thr.sreg a).setWidth (extBits e)).setWidth _) 8 s) ∧
    (mayRun (.bswp d a w) s → ∃ r : BitVec (widthBits w), exec (.bswp d a w) s = aluOut d r 8 s ∧
      ∀ i j, i + j + 1 = widthBits w / 8 → r.extractLsb' (8 * i) 8 = x.extractLsb' (8 * j) 8)

/-- R101 whole: the same functions with win[k] as the second operand, which one read of the slot's own window gives; the encoding; and what
is ILLEGAL (a word that decodes to no instruction takes that trap: TrapEntries). -/
def Obligations.AluWindowForms : Prop :=
  (∀ (c : Nat) (p : (Reg → Reg → Reg → Width → Instr) × (Reg → Reg → Fin 256 → Width → Instr)) (w : Width) (d a b : Reg) (k : Fin 256),
    windowForms[c]? = some p → let fn := (if w = .w64 then 2 ^ 6 else 0) + c;
    decode (BitVec.ofNat 32 (0x01 * 2 ^ 26 + d.val * 2 ^ 21 + a.val * 2 ^ 16 + b.val * 2 ^ 11 + c * 2 ^ 5 + (if w = .w64 then 1 else 0))) = .ok (p.1 d a b w) ∧
    decode (BitVec.ofNat 32 (0x02 * 2 ^ 26 + d.val * 2 ^ 21 + a.val * 2 ^ 16 + k.val * 2 ^ 8 + fn)) = .ok (p.2 d a k w)) ∧
  (∀ (w : Word) (i : Instr), w.toNat / 2 ^ 26 = 2 → (25 ≤ w.toNat % 2 ^ 6 ∨ w.getLsbD 7 = true) → decode w ≠ .ok i) ∧
  (∀ p ∈ windowForms, ∀ (w : Width) (s : State) (d a : Reg) (k : Fin 256), s.hasHandler → s.thr.status.pending 1 = true →
    exec (p.2 d a k w) s = .next (s.trapped .illegal 0 ((encode (p.2 d a k w)).setWidth 64))) ∧
  ∀ p ∈ windowForms, ∀ (w : Width) (s u : State) (d a b : Reg) (k : Fin 256),
    mayRun (p.2 d a k w) s → s.badAt (windowHome s.thr.id k.val) 8 = false → mayRun (p.1 d a b w) u →
      u.thr.sreg a = s.thr.sreg a → u.thr.sreg b = s.win k.val →
      ∃ v m n, exec (p.1 d a b w) u = .next ((u.setS d v).passed m) ∧ exec (p.2 d a k w) s = .next (((s.windowWait k.val).2.setS d v).passed n)

/-- R103, R104, R46. -/
def Obligations.ImmediateAndShiftForms : Prop :=
  ∀ (s : State) (d a : Reg) (i : Fin 65536) (w : Width) (n : Fin 64), let x := s.thr.sreg a; let y := immOperand s.thr i;
    (mayRun (.addi d a i) s → exec (.addi d a i) s = .next ((s.setS d (x + y)).passed 8)) ∧
    (mayRun (.andi d a i) s → exec (.andi d a i) s = .next ((s.setS d (x &&& y)).passed 8)) ∧
    (mayRun (.ori d a i) s → exec (.ori d a i) s = .next ((s.setS d (x ||| y)).passed 8)) ∧
    (mayRun (.xori d a i) s → exec (.xori d a i) s = .next ((s.setS d (x ^^^ y)).passed 8)) ∧
    (mayRun (.slti d a i) s → exec (.slti d a i) s = .next ((s.setS d (if x.slt y then 1 else 0)).passed 8)) ∧
    (mayRun (.sltiu d a i) s → exec (.sltiu d a i) s = .next ((s.setS d (if x < y then 1 else 0)).passed 8)) ∧
    (n.val < widthBits w →
      (mayRun (.shi d a .shl w n) s → exec (.shi d a .shl w n) s = aluOut (w := w) d (aluIn w x <<< n.val) 8 s) ∧
      (mayRun (.shi d a .shrl w n) s → exec (.shi d a .shrl w n) s = aluOut (w := w) d (aluIn w x >>> n.val) 8 s) ∧
      (mayRun (.shi d a .shra w n) s → exec (.shi d a .shra w n) s = aluOut (w := w) d ((aluIn w x).sshiftRight n.val) 8 s))

/-- R105 with R51, R46 and R112. -/
def Obligations.ConditionalBranches : Prop :=
  ∀ (s : State) (a b : Reg) (o : Fin 8192), let x := s.thr.sreg a; let y := s.thr.sreg b; let t := branchTarget s.thr o;
    (mayRun (.beq a b o) s → exec (.beq a b o) s = if x = y then takenTo t s else .next (s.passed 8)) ∧
    (mayRun (.bne a b o) s → exec (.bne a b o) s = if x = y then .next (s.passed 8) else takenTo t s) ∧
    (mayRun (.blts a b o) s → exec (.blts a b o) s = if x.slt y then takenTo t s else .next (s.passed 8)) ∧
    (mayRun (.bges a b o) s → exec (.bges a b o) s = if x.slt y then .next (s.passed 8) else takenTo t s) ∧
    (mayRun (.bltz a b o) s → exec (.bltz a b o) s = if x < y then takenTo t s else .next (s.passed 8)) ∧
    (mayRun (.bgez a b o) s → exec (.bgez a b o) s = if x < y then .next (s.passed 8) else takenTo t s)

/-- R106, R107 whole: the encodings, the targets, the links, the faults. A register target is legal when bits [1:0] and [63:55]
are zero. -/
def Obligations.JumpsCallsAndReturns : Prop :=
  (∀ (s : State) (a : Reg) (o : Fin 67108864),
    let link := s.setS 31 ((s.thr.pc + 4).setWidth 64);
    let x := s.thr.sreg a;
    let legal := fun (v : DWord) => v.extractLsb' 0 2 = 0 ∧ v.extractLsb' 55 9 = 0;
    (mayRun (.jmp o) s → exec (.jmp o) s = takenTo (jumpTarget s.thr o) s) ∧
    (mayRun (.call o) s → exec (.call o) s = .next (link.jumped (jumpTarget s.thr o) s.thr.loops 8)) ∧
    ((jumpTarget s.thr o).toNat : Int) = ((s.thr.pc.toNat : Int) + 4 * (if o.val < 2 ^ 25 then (o.val : Int) else o.val - 2 ^ 26)) % 2 ^ 55 ∧
    (s.hasHandler → s.thr.status.pending 1 = true →
      exec (.jmp o) s = .next (s.trapped .illegal 0 ((encode (.jmp o)).setWidth 64)) ∧
      exec (.call o) s = .next (s.trapped .illegal 0 ((encode (.call o)).setWidth 64))) ∧
    (mayRun (.jr a) s → legal x → exec (.jr a) s = takenTo (x.setWidth 55) s) ∧
    (mayRun (.callr a) s → legal x → exec (.callr a) s = .next (link.jumped (x.setWidth 55) s.thr.loops 8)) ∧
    (mayRun .ret s → legal (s.thr.sreg 31) → exec .ret s = .next (s.arrived ((s.thr.sreg 31).setWidth 55) 8)) ∧
    (s.hasHandler → ¬ legal x → (mayRun (.jr a) s → exec (.jr a) s = .next (s.trapped .align badTarget x)) ∧
      (mayRun (.callr a) s → exec (.callr a) s = .next (s.trapped .align badTarget x))) ∧
    (s.hasHandler → mayRun .ret s → ¬ legal (s.thr.sreg 31) →
      exec .ret s = .next (s.trapped .align badTarget (s.thr.sreg 31)))) ∧
  (∀ (a : Reg) (o : Fin 67108864),
    decode (BitVec.ofNat 32 (0x0D * 2 ^ 26 + o.val)) = .ok (.jmp o) ∧ decode (BitVec.ofNat 32 (0x0E * 2 ^ 26 + o.val)) = .ok (.call o) ∧
    decode (BitVec.ofNat 32 (0x0F * 2 ^ 26 + a.val * 2 ^ 16)) = .ok (.jr a) ∧
    decode (BitVec.ofNat 32 (0x0F * 2 ^ 26 + a.val * 2 ^ 16 + 2 ^ 5)) = .ok (.callr a) ∧
    decode (BitVec.ofNat 32 (0x0F * 2 ^ 26 + 2 ^ 6)) = .ok .ret)

/-- R110, R113, R114. -/
def Obligations.LoopWords : Prop :=
  (∀ (s : State) (a : Reg) (k : Fin 256) (len : Fin 8192),
    let start := s.thr.pc + 4;
    let entry := fun (c : DWord) =>
      { len := BitVec.ofNat 13 len.val, count := BitVec.ofNat 48 (c.toNat - 1), start := start : LoopEntry };
    let pushed := fun (c : DWord) (n : Nat) (u : State) => u.jumped start (entry c :: s.thr.loops) n;
    let ending := start + BitVec.ofNat 55 (4 * len.val);
    (s.thr.loops.length < 4 → mayRun (.loop a len) s →
      (s.thr.sreg a = 0 → exec (.loop a len) s = .next (s.arrived ending 8)) ∧
      (0 < (s.thr.sreg a).toNat → (s.thr.sreg a).toNat ≤ 2 ^ 48 →
        exec (.loop a len) s = .next (pushed (s.thr.sreg a) 8 s)) ∧
      (s.hasHandler → 2 ^ 48 < (s.thr.sreg a).toNat →
        exec (.loop a len) s = .next (s.trapped .operand 0 (s.thr.sreg a)))) ∧
    (s.thr.loops.length < 4 → mayRun (.loopk k len) s → s.badAt (windowHome s.thr.id k.val) 8 = false →
      ∃ n, (s.win k.val = 0 → exec (.loopk k len) s = .next ((s.windowWait k.val).2.arrived ending n)) ∧
        (0 < (s.win k.val).toNat → (s.win k.val).toNat ≤ 2 ^ 48 →
          exec (.loopk k len) s = .next (pushed (s.win k.val) n (s.windowWait k.val).2))) ∧
    (s.hasHandler → 4 ≤ s.thr.loops.length → exec (.loop a len) s =
      .next (s.trapped .illegal 0 ((encode (.loop a len)).setWidth 64))) ∧
    (mayRun .lexit s → exec .lexit s = .next (State.passed 8 { s with thr := { s.thr with loops := s.thr.loops.tail } })) ∧
    (mayRun .lsave s → exec .lsave s =
      .next (State.passed 8 { s with thr := { s.thr with ws := { s.thr.ws with loopSave := saveLoops s.thr.loops } } })) ∧
    (∀ l, mayRun .lrst s → loadLoops s.thr.ws.loopSave = some l →
      exec .lrst s = .next (State.passed 8 { s with thr := { s.thr with loops := l } }))) ∧
  (∀ l : List LoopEntry, l.length ≤ 4 → (∀ e ∈ l, e.len ≠ 0 ∧ e.start.extractLsb' 0 2 = 0) → loadLoops (saveLoops l) = some l)

/-- R118 to R122. -/
def Obligations.PointerWords : Prop :=
  ∀ (s : State) (d : PReg) (r : Reg) (a : PReg) (b c : Reg),
    (mayRun (.pset d b) s → exec (.pset d b) s = .next ((s.setP d (s.thr.sreg b)).passed 8)) ∧
    (mayRun (.pget r a) s → exec (.pget r a) s = .next ((s.setS r (s.thr.preg a)).passed 8)) ∧
    (mayRun (.padd d a b) s → (ptrValid (s.thr.preg a) = true →
        exec (.padd d a b) s = .next ((s.setP d (adv (s.thr.preg a) (s.thr.sreg b).toInt)).passed 8)) ∧
      (s.hasHandler → ptrValid (s.thr.preg a) = false →
        exec (.padd d a b) s = .next (s.trapped .align badptr (s.thr.preg a)))) ∧
    (let x := s.thr.preg a; let p := (x.extractLsb' 40 24 ++ (s.thr.sreg b).setWidth 14 ++ x.setWidth 26 : BitVec 64);
      mayRun (.pwalk d a b) s → x.extractLsb' 61 3 = 0 → (s.thr.sreg b).toNat < 2 ^ 14 → ptrValid x = true →
        (ptrValid p = true → exec (.pwalk d a b) s = .next ((s.setP d p).passed 8)) ∧
        (s.hasHandler → ptrValid p = false → exec (.pwalk d a b) s = .next (s.trapped .align badptr p))) ∧
    (mayRun (.pwalk d a b) s → s.hasHandler → ((s.thr.preg a).extractLsb' 61 3 ≠ 0 ∨ 2 ^ 14 ≤ (s.thr.sreg b).toNat) →
      trapsWith .operand s (exec (.pwalk d a b) s)) ∧
    (let x := (s.thr.sreg b).toNat;
      mayRun (.pcoord d b c) s → coordOk x = true → (s.thr.sreg c).toNat < 2 ^ 17 →
        exec (.pcoord d b c) s = .next ((s.setP d (lmPtr (coordCore x) (s.thr.sreg c).toNat)).passed 8))

namespace Sys2Proof.Machine

/-- The word completes with one vector register written, whose value has the property P. -/
def writesV (o : Out) (d : Reg) (n : Nat) (s : State) (P : VecWord → Prop) : Prop :=
  ∃ v, o = .next ((s.setV d v).passed n) ∧ P v

/-- Every lane of a vector register is what f gives for its number. -/
def lanesAre (v : VecWord) (f : Nat → Nat) : Prop := ∀ j, j < 16 → lane v j = BitVec.ofNat 32 (f j)

/-- Element i of w bits (R18). -/
def elementOf (w : Nat) (v : VecWord) (i : Nat) : BitVec w := v.extractLsb' (w * i) w

/-- Every element of w bits is what f gives for its number. -/
def elementsAre (w : Nat) (v : VecWord) (f : Nat → BitVec w) : Prop := ∀ i, i < 512 / w → elementOf w v i = f i

/-- An exact sum clamped to the signed numbers of w bits (R146). -/
def clamped (w : Nat) (i : Int) : BitVec w := BitVec.ofInt w (max (-(2 ^ (w - 1))) (min i (2 ^ (w - 1) - 1)))

/-- The pairwise tree of R150 over 16 numbers. -/
def tree16 (f : Nat → Nat → Nat) (t : Nat → Nat) : Nat :=
  f (f (f (f (t 0) (t 1)) (f (t 2) (t 3))) (f (f (t 4) (t 5)) (f (t 6) (t 7))))
    (f (f (f (t 8) (t 9)) (f (t 10) (t 11))) (f (f (t 12) (t 13)) (f (t 14) (t 15))))

end Sys2Proof.Machine

/-- R142, R143, R144: lane by lane; vd of VFMA and VFMS is read as the addend before it is written. -/
def Obligations.VectorFloatLanes : Prop :=
  ∀ (s : State) (d a b : Reg) (r : Round),
    let x := fun j => (lane (s.thr.vreg a) j).toNat; let y := fun j => (lane (s.thr.vreg b) j).toNat;
    let z := fun j => (lane (s.thr.vreg d) j).toNat;
    (mayRun (.vadd d a b r) s → writesV (exec (.vadd d a b r) s) d 8 s (lanesAre · fun j => addS r (x j) (y j))) ∧
    (mayRun (.vsub d a b r) s → writesV (exec (.vsub d a b r) s) d 8 s (lanesAre · fun j => subS r (x j) (y j))) ∧
    (mayRun (.vmul d a b r) s → writesV (exec (.vmul d a b r) s) d 8 s (lanesAre · fun j => mulS r (x j) (y j))) ∧
    (mayRun (.vfma d a b r) s → writesV (exec (.vfma d a b r) s) d 8 s (lanesAre · fun j => fmaS r (x j) (y j) (z j))) ∧
    (mayRun (.vfms d a b r) s → writesV (exec (.vfms d a b r) s) d 8 s (lanesAre · fun j => fmsS r (x j) (y j) (z j))) ∧
    (mayRun (.vmin d a b) s → writesV (exec (.vmin d a b) s) d 8 s (lanesAre · fun j => minS (x j) (y j))) ∧
    (mayRun (.vmax d a b) s → writesV (exec (.vmax d a b) s) d 8 s (lanesAre · fun j => maxS (x j) (y j))) ∧
    (mayRun (.vabs d a) s → writesV (exec (.vabs d a) s) d 8 s (lanesAre · fun j =>
      if isNanS (x j) then 0x7FC00000 else x j % 2 ^ 31)) ∧
    (mayRun (.vneg d a) s → writesV (exec (.vneg d a) s) d 8 s (lanesAre · fun j =>
      if isNanS (x j) then 0x7FC00000 else x j ^^^ 2 ^ 31)) ∧
    (mayRun (.vdiv d a b r) s → writesV (exec (.vdiv d a b r) s) d 24 s (lanesAre · fun j => divS r (x j) (y j))) ∧
    (mayRun (.vsqrt d a r) s → writesV (exec (.vsqrt d a r) s) d 24 s (lanesAre · fun j => sqrtS r (x j))) ∧
    (mayRun (.vrcp d a r) s → writesV (exec (.vrcp d a r) s) d 16 s (lanesAre · fun j => rcpS r (x j))) ∧
    (mayRun (.vrsq d a r) s → writesV (exec (.vrsq d a r) s) d 16 s (lanesAre · fun j => rsqS r (x j))) ∧
    (mayRun (.vexp2 d a r) s → writesV (exec (.vexp2 d a r) s) d 16 s (lanesAre · fun j => exp2S r (x j))) ∧
    (mayRun (.vlog2 d a r) s → writesV (exec (.vlog2 d a r) s) d 16 s (lanesAre · fun j => log2S r (x j)))

/-- R141: "A NaN result is 0x7FC0_0000." -/
def Obligations.FloatResultsAreCanonical : Prop :=
  (∀ (r : Round) (x y z : Nat), x < 2 ^ 32 → y < 2 ^ 32 → z < 2 ^ 32 →
    ∀ v ∈ [addS r x y, subS r x y, mulS r x y, fmaS r x y z, fmsS r x y z, divS r x y, sqrtS r x, rcpS r x, rsqS r x, exp2S r x,
      log2S r x, minS x y, maxS x y, absS x, negS x], isNanS v = true → v = 0x7FC00000) ∧
  (∀ r, addS r 0x7F800000 0xFF800000 = 0x7FC00000 ∧ mulS r 0 0x7F800000 = 0x7FC00000) ∧
  (∀ (r : Round) (x : Nat), x < 0x7F800000 → addS r x (x + 2 ^ 31) = if r = .rd then 0x80000000 else 0)

/-- R145 whole: the encodings, the conditions and the selection. -/
def Obligations.VectorCompareAndSelect : Prop :=
  (∀ (d a b : Reg) (n : Nat) (c : VCmp), let word := fun (fn : Nat) => BitVec.ofNat 32 (0x1B * 2 ^ 26 + d.val * 2 ^ 21 + a.val * 2 ^ 16 + b.val * 2 ^ 11 + fn * 2 ^ 5);
    ([VCmp.feq, .fne, .flt, .fle, .ieq, .ine, .ilts, .iltz][n]? = some c → decode (word n) = .ok (.vcmp d a b c)) ∧
    decode (word 8) = .ok (.vsel d a b)) ∧
  (∀ (w : Word) (i : Instr), w.toNat / 2 ^ 26 = 0x1B → w.toNat % 2 ^ 5 ≠ 0 → decode w ≠ .ok i) ∧
  ∀ (s : State) (d a b : Reg) (c : VCmp),
    let x := lane (s.thr.vreg a); let y := lane (s.thr.vreg b);
    let holds : Nat → Bool := fun j => match c with
      | .feq => Fp.eq (fp32.decode (x j).toNat) (fp32.decode (y j).toNat)
      | .fne => !Fp.eq (fp32.decode (x j).toNat) (fp32.decode (y j).toNat)
      | .flt => Fp.lt (fp32.decode (x j).toNat) (fp32.decode (y j).toNat)
      | .fle => Fp.lt (fp32.decode (x j).toNat) (fp32.decode (y j).toNat) ||
          Fp.eq (fp32.decode (x j).toNat) (fp32.decode (y j).toNat)
      | .ieq => x j == y j
      | .ine => x j != y j
      | .ilts => (x j).slt (y j)
      | .iltz => decide (x j < y j);
    (mayRun (.vcmp d a b c) s →
      writesV (exec (.vcmp d a b c) s) d 8 s (lanesAre · fun j => if holds j then 0xFFFFFFFF else 0)) ∧
    (mayRun (.vsel d a b) s → exec (.vsel d a b) s =
      .next ((s.setV d ((s.thr.vreg d &&& s.thr.vreg a) ||| (~~~(s.thr.vreg d) &&& s.thr.vreg b))).passed 8))

/-- R146. -/
def Obligations.VectorIntegerElements : Prop :=
  ∀ (s : State) (d a b : Reg) (t : Bool) (e : Elem),
    let w := elemBits e; let x := elementOf w (s.thr.vreg a); let y := elementOf w (s.thr.vreg b);
    (mayRun (.viadd d a b t e) s → writesV (exec (.viadd d a b t e) s) d 8 s (elementsAre w · fun i =>
      if t then clamped w ((x i).toInt + (y i).toInt) else x i + y i)) ∧
    (mayRun (.visub d a b t e) s → writesV (exec (.visub d a b t e) s) d 8 s (elementsAre w · fun i =>
      if t then clamped w ((x i).toInt - (y i).toInt) else x i - y i)) ∧
    (mayRun (.vimul d a b e) s → writesV (exec (.vimul d a b e) s) d 8 s (elementsAre w · fun i => x i * y i)) ∧
    (mayRun (.vshl d a b e) s → writesV (exec (.vshl d a b e) s) d 8 s (elementsAre w · fun i => x i <<< ((y i).toNat % w))) ∧
    (mayRun (.vshr d a b t e) s → writesV (exec (.vshr d a b t e) s) d 8 s (elementsAre w · fun i =>
      if t then (x i).sshiftRight ((y i).toNat % w) else x i >>> ((y i).toNat % w))) ∧
    (mayRun (.vand d a b) s → exec (.vand d a b) s = .next ((s.setV d (s.thr.vreg a &&& s.thr.vreg b)).passed 8)) ∧
    (mayRun (.vor d a b) s → exec (.vor d a b) s = .next ((s.setV d (s.thr.vreg a ||| s.thr.vreg b)).passed 8)) ∧
    (mayRun (.vxor d a b) s → exec (.vxor d a b) s = .next ((s.setV d (s.thr.vreg a ^^^ s.thr.vreg b)).passed 8))

/-- R147 to R149. -/
def Obligations.VectorLaneMoves : Prop :=
  ∀ (s : State) (d a b : Reg) (l : Fin 16) (k : ScanKind),
    let x := lane (s.thr.vreg a); let y := lane (s.thr.vreg b); let z := lane (s.thr.vreg d);
    (mayRun (.vbcast d a) s → writesV (exec (.vbcast d a) s) d 8 s (lanesAre · fun _ => (s.thr.sreg a).toNat % 2 ^ 32)) ∧
    (mayRun (.vextr d a l) s → exec (.vextr d a l) s = .next ((s.setS d ((x l.val).signExtend 64)).passed 8)) ∧
    (mayRun (.vins d a l) s → writesV (exec (.vins d a l) s) d 8 s (lanesAre · fun j =>
      if j = l.val then (s.thr.sreg a).toNat % 2 ^ 32 else (z j).toNat)) ∧
    (mayRun (.vperm d a b) s → writesV (exec (.vperm d a b) s) d 8 s (lanesAre · fun j =>
      if (y j).getLsbD 31 then 0 else (x ((y j).toNat % 16)).toNat)) ∧
    (mayRun (.vscan d a k) s → writesV (exec (.vscan d a k) s) d 16 s fun v =>
      (lane v 0).toNat = (if (k = .fadd ∨ k = .fmax) ∧ isNanS (x 0).toNat = true then 0x7FC00000 else (x 0).toNat) ∧
      ∀ j, j < 15 → (lane v (j + 1)).toNat = match k with
        | .fadd => addS .rn (lane v j).toNat (x (j + 1)).toNat
        | .iadd => (lane v j + x (j + 1)).toNat
        | .fmax => maxS (lane v j).toNat (x (j + 1)).toNat
        | .imax => if (lane v j).slt (x (j + 1)) then (x (j + 1)).toNat else (lane v j).toNat)

/-- R150, R151. -/
def Obligations.VectorReductions : Prop :=
  ∀ (s : State) (d a : Reg) (r : Round),
    let v := s.thr.vreg a; let x := fun j => (lane v j).toNat;
    (mayRun (.vredadd d a r) s → exec (.vredadd d a r) s = .next ((s.setS d (BitVec.ofNat 64 (tree16 (addS r) x))).passed 16)) ∧
    (mayRun (.vredmax d a .f) s → exec (.vredmax d a .f) s = .next ((s.setS d (BitVec.ofNat 64 (tree16 maxS x))).passed 16)) ∧
    (mayRun (.vredmin d a .f) s → exec (.vredmin d a .f) s = .next ((s.setS d (BitVec.ofNat 64 (tree16 minS x))).passed 16)) ∧
    (mayRun (.vredmax d a .i) s → ∃ j, j < 16 ∧ (∀ i, i < 16 → (lane v i).toInt ≤ (lane v j).toInt) ∧
      exec (.vredmax d a .i) s = .next ((s.setS d ((lane v j).signExtend 64)).passed 16)) ∧
    (mayRun (.vredmin d a .i) s → ∃ j, j < 16 ∧ (∀ i, i < 16 → (lane v j).toInt ≤ (lane v i).toInt) ∧
      exec (.vredmin d a .i) s = .next ((s.setS d ((lane v j).signExtend 64)).passed 16)) ∧
    (mayRun (.vpopc d a) s → exec (.vpopc d a) s =
      .next ((s.setS d (BitVec.ofNat 64 ((List.range 512).countP (fun i => v.getLsbD i)))).passed 8)) ∧
    (mayRun (.vffs d a) s → (v = 0 → exec (.vffs d a) s = .next ((s.setS d (BitVec.allOnes 64)).passed 8)) ∧
      ∀ n, v.getLsbD n = true → (∀ i, i < n → v.getLsbD i = false) →
        exec (.vffs d a) s = .next ((s.setS d (BitVec.ofNat 64 n)).passed 8))

/-- R152 to R155. Formats by the codes of a pending HFMT, code 0 selecting the default. -/
def Obligations.VectorConversions : Prop :=
  ∀ (s : State) (d a b : Reg) (r : Round), let h := s.thr.hfmt; let x := s.thr.sreg b; let n := bits x.toNat 12 8 + 1;
    (mayRun (.vcvt d a r) s → vcvtBad r s = false →
      let src := fmtOr (fmtA h) 1; let dst := fmtOr (fmtO h) 1; let e := cvtCount (max (fmtBits src) (fmtBits dst));
      writesV (exec (.vcvt d a r) s) d 8 s fun v => v.toNat < 2 ^ (e * fmtBits dst) ∧ ∀ i, i < e →
        element v.toNat (fmtBits dst) i = fmtConvert dst r (fmtValue src (element (s.thr.vreg a).toNat (fmtBits src) i))) ∧
    (mayRun (.vqnt d a b) s → vqntBad s = false →
      (x.extractLsb' 13 51 = 0 → exec (.vqnt d a b) s = .next ((s.setV d (blockRecord (fmtOr (fmtO h) 6)
        (quantise (fmtOr (fmtO h) 6) (if fmtSideBit h then some (x.toNat % 256) else none)
          (((lanes (s.thr.vreg a) ++ lanes (s.thr.vreg (a + 1))).map BitVec.toNat).take n)))).passed 32)) ∧
      (x.extractLsb' 13 51 ≠ 0 → s.hasHandler → exec (.vqnt d a b) s = .next (s.trapped .operand 0 x))) ∧
    (mayRun (.vdqnt d a b) s → vdqntBad s = false →
      (x.extractLsb' 13 51 = 0 → ∃ v0 v1, exec (.vdqnt d a b) s = .next (((s.setV d v0).setV (d + 1) v1).passed 16) ∧
        lanesAre v0 (recordElement (fmtOr (fmtA h) 6) (s.thr.vreg a) n) ∧
        lanesAre v1 (fun j => recordElement (fmtOr (fmtA h) 6) (s.thr.vreg a) n (16 + j))) ∧
      (x.extractLsb' 13 51 ≠ 0 → s.hasHandler → exec (.vdqnt d a b) s = .next (s.trapped .operand 0 x)))

namespace Sys2Proof.Machine

/-- An access of n bytes at EA reaches the slot's own LM, and every check of R124 lets it pass: the pointer is valid, aligned and
names the slot's own core, the firewall admits it, and it meets no workspace. -/
def ownAccess (s : State) (ea : DWord) (n : Nat) (rd wr : Bool) : Prop :=
  isTransform s.thr.id = false ∧ ptrValid ea = true ∧ ptrSpace ea = 0 ∧ ptrCore ea = s.thr.id.core ∧ ptrAligned ea n = true ∧
    s.admits s.thr.world (.lm s.thr.id.core (ptrLmOff ea)) none rd wr false = true ∧
    s.meetsWorkspace s.thr.id.core (ptrLmOff ea) n false = false

/-- The home of an access to the slot's own LM. -/
def ownHome (s : State) (ea : DWord) : Home := .lm s.thr.id.core (ptrLmOff ea)

/-- The accesses of a list are performed at once, in order: what each reads, and the state after the last (R126). -/
def atHandAll (dest : AccessDest) (hnt : Bool) : List LaneReq → State → List (List Byte) → State → Prop
  | [], s, bs, t => bs = [] ∧ t = s
  | r :: l, s, bs, t => ∃ b u rest, bs = b :: rest ∧ s.nowStep dest r hnt = some (.value b u) ∧ atHandAll dest hnt l u rest t

/-- The state after a load or atomic whose bytes are at hand: the destination, the acquire, the pointer update. -/
def loaded (dest : AccessDest) (upd : Option (PReg × DWord)) (acq : Option Scope) (bs : List (List Byte)) (due : Nat) (t : State) :
    State :=
  let u := (t.used.writeDest dest (bs.map ofBytes)).acquireIf t.thr.id.core acq
  State.passedAt due { u with thr := u.thr.update upd }

/-- No write that a host port has received is left to be performed where an acquire is made at system scope (R247). -/
def hostsQuiet (acq : Option Scope) (s : State) : Prop := acq = some .sy → s.hostsPending = false

/-- A store with an acquire has nothing to wait for (R128, R247). -/
def storeSettled (lines : List Home) (o : Ord) (s : State) : Prop :=
  hostsQuiet (acquireScope o s.thr) s ∧ (ordAcquires o && beyondCore s.thr.status.scope && (s.sbOf s.thr.id.core).any (fun e =>
    lines.contains e.line && e.writers.contains s.thr.id.slot)) = false

/-- The state after a store whose bytes are stored: the acquire and the pointer update, lo to hi cycles (R137, log 18). -/
def stored (upd : Option (PReg × DWord)) (o : Ord) (lo hi : Nat) (s : State) : State :=
  let u := s.acquireIf s.thr.id.core (acquireScope o s.thr)
  State.passed (s.cycles lo hi) { u.used with thr := u.thr.update upd }

end Sys2Proof.Machine

/-- R125 for an access to the slot's own LM; and the frame of every load: R125 and R126 store nothing, R301 sets A where a walk
meets a leaf. -/
def Obligations.LoadsFromOwnMemory : Prop :=
  (∀ (s : State) (d : Reg) (p : PReg) (z : LdSize) (adr : Addr),
    let ea := (effective s.thr p adr).1; let upd := (effective s.thr p adr).2; let h := ownHome s ea;
    let due := s.clock + s.cycles 8 24;
    (mayRun (.ld d p z adr .plain) s → ownAccess s ea (ldBytes z) true false → s.badAt h (ldBytes z) = false →
      let n := s.mem.num (2 ^ 40 + s.thr.id.core * 2 ^ 17 + ptrLmOff ea) (ldBytes z);
      let v : DWord := if ldSigned z then (BitVec.ofNat (8 * ldBytes z) n).signExtend 64 else BitVec.ofNat 64 n;
      let u := (s.wakeBank h).used.setS d v;
      exec (.ld d p z adr .plain) s = .next (State.passedAt due { u with thr := u.thr.update upd })) ∧
    (mayRun (.ldv d p adr .plain) s → ownAccess s ea 64 true false → s.badAt h 64 = false →
      let u := (s.wakeBank h).used.setV d (BitVec.ofNat 512 (s.mem.num (2 ^ 40 + s.thr.id.core * 2 ^ 17 + ptrLmOff ea) 64));
      exec (.ldv d p adr .plain) s = .next (State.passedAt due { u with thr := u.thr.update upd }))) ∧
  (∀ (s t : State) (d : Reg) (p : PReg) (z : LdSize) (adr : Addr) (o : Ord) (k : Nat), s.memOk →
    let ea := (effective s.thr p adr).1;
    (∀ l, ptrSpace ea = 2 → s.walk s.thr.asid (ptrVa ea).toNat = .ok l → k < l.addr ∨ l.addr + 8 ≤ k) →
    (mayRun (.ld d p z adr o) s → exec (.ld d p z adr o) s = .next t → t.mem.get k = s.mem.get k) ∧
    (mayRun (.ldv d p adr o) s → exec (.ldv d p adr o) s = .next t → t.mem.get k = s.mem.get k))

/-- R125, R126, R130, R131 with the orderings of R128: the word completes at issue. R137 bounds the cycles (log 18). -/
def Obligations.LoadsAndAtomicsAtHand : Prop :=
  ∀ (s u v t : State) (d : Reg) (p : PReg) (r : LaneReq) (l : List LaneReq) (bs : List (List Byte)) (o : Ord),
    let acq := acquireScope o v.thr; let sc := u.thr.status.scope; let hnt := v.thr.status.pending 7;
    (∀ (z : LdSize) (adr : Addr), let ef := effective s.thr p adr; let dest := AccessDest.load d (ldBytes z) (ldSigned z);
      mayRun (.ld d p z adr o) s → yields (accessThen ef.1 (ldBytes z) .load s) r u → passes (releaseIf (ordReleases o) sc u) v → hostsQuiet acq v →
      atHandAll dest hnt [r] v bs t → exec (.ld d p z adr o) s = .next (loaded dest ef.2 acq bs (t.nearDue (v.nearBound dest [r])) t)) ∧
    (∀ (adr : Addr), let ef := effective s.thr p adr;
      mayRun (.ldv d p adr o) s → yields (accessThen ef.1 64 .load s) r u → passes (releaseIf (ordReleases o) sc u) v → hostsQuiet acq v →
      atHandAll (.vector d) hnt [r] v bs t → exec (.ldv d p adr o) s = .next (loaded (.vector d) ef.2 acq bs (t.nearDue (v.nearBound (.vector d) [r])) t)) ∧
    (∀ (b : Reg) (z : GSize) (x : Fin 4), mayRun (.gath d p b z x o) s →
      yields (lanesThen (gBytes z) .load (laneAddrs s.thr p b x) s []) l u → passes (releaseIf (ordReleases o) sc u) v → hostsQuiet acq v →
      atHandAll (.gather d) hnt l v bs t → exec (.gath d p b z x o) s = .next (loaded (.gather d) none acq bs (t.nearDue (v.nearBound (.gather d) l)) t)) ∧
    (∀ (b : Reg) (f : AmoOp) (w : Width) (g : FaddFmt), let sent := v.sbSend v.thr.id.core (fun e => e.line = r.home.line);
      let y := s.thr.sreg b;
      (let req := AtomicReq.amo f w y; mayRun (.amo d p b f w o) s →
        yields (accessThen (s.thr.preg p) (atomicBytes req) .atomic s) r u → passes (releaseIf (ordReleases o) sc u) v → hostsQuiet acq v → v.revivalOf r = none →
        atHandAll (.atomic d req) false [r] sent bs t →
        exec (.amo d p b f w o) s = .next (loaded (.atomic d req) none acq bs (t.nearDue (v.nearBound (.atomic d req) [r])) t)) ∧
      (let req := AtomicReq.cas w (s.thr.sreg d) y; mayRun (.cas d p b w o) s →
        yields (accessThen (s.thr.preg p) (atomicBytes req) .atomic s) r u → passes (releaseIf (ordReleases o) sc u) v → hostsQuiet acq v → v.revivalOf r = none →
        atHandAll (.atomic d req) false [r] sent bs t →
        exec (.cas d p b w o) s = .next (loaded (.atomic d req) none acq bs (t.nearDue (v.nearBound (.atomic d req) [r])) t)) ∧
      (let req := AtomicReq.fadd g y; mayRun (.fadd d p b g o) s →
        yields (accessThen (s.thr.preg p) (atomicBytes req) .atomic s) r u → passes (releaseIf (ordReleases o) sc u) v → hostsQuiet acq v → v.revivalOf r = none →
        atHandAll (.atomic d req) false [r] sent bs t →
        exec (.fadd d p b g o) s = .next (loaded (.atomic d req) none acq bs (t.nearDue (v.nearBound (.atomic d req) [r])) t)))

/-- R125 and R127 for an access to the slot's own LM, and the frame of the store. -/
def Obligations.StoresToOwnMemory : Prop :=
  ∀ (s : State) (d : Reg) (p : PReg) (z : StSize) (adr : Addr),
    let ea := (effective s.thr p adr).1; let upd := (effective s.thr p adr).2;
    let k := 2 ^ 40 + s.thr.id.core * 2 ^ 17 + ptrLmOff ea;
    let wrote := fun (n v : Nat) (t : State) =>
      (∀ i, i < n → t.mem.get (k + i) = BitVec.ofNat 8 (v / 2 ^ (8 * i))) ∧
      (∀ j, (j < k ∨ k + n ≤ j) → t.mem.get j = s.mem.get j) ∧
      t.thr.ws = (s.thr.update upd).ws ∧ t.thr.status = s.thr.status.clearHints ∧ t.thr.wait = .none ∧
      (t.thr.loops, t.thr.pc) = backEdge s.thr.loops (s.thr.pc + 4) ∧
      (t.thr.epc, t.thr.ecause, t.thr.eval, t.thr.upc, t.thr.ucause) =
        (s.thr.epc, s.thr.ecause, s.thr.eval, s.thr.upc, s.thr.ucause) ∧
      (t.sb, t.cache, t.tlb, t.dir, t.ctl, t.cmds, t.tiles, t.groups) = (s.sb, s.cache, s.tlb, s.dir, s.ctl, s.cmds, s.tiles, s.groups);
    s.memOk → s.thr.progress = 0 →
    (mayRun (.st d p z adr .plain) s → ownAccess s ea (stBytes z) false true →
      ∃ t, exec (.st d p z adr .plain) s = .next t ∧ wrote (stBytes z) (s.thr.sreg d).toNat t) ∧
    (mayRun (.stv d p adr .plain) s → ownAccess s ea 64 false true →
      ∃ t, exec (.stv d p adr .plain) s = .next t ∧ wrote 64 (s.thr.vreg d).toNat t)

/-- R125, R127, R130 with the orderings of R128. -/
def Obligations.StoresAndScattersComplete : Prop :=
  ∀ (s u v t : State) (d : Reg) (p : PReg) (r : LaneReq) (l : List LaneReq) (o : Ord), let sc := u.thr.status.scope;
    (∀ (z : StSize) (adr : Addr), let ef := effective s.thr p adr; let data := toBytes (stBytes z) (s.thr.sreg d).toNat;
      mayRun (.st d p z adr o) s → yields (accessThen ef.1 data.length .store s) r u → u.thr.progress = 0 →
      passes (releaseIf (ordReleases o) sc u) v → passes (storeThen r data (ordReleases o) v) t →
      storeSettled [r.home.line] o t → exec (.st d p z adr o) s = .next (stored ef.2 o 8 (v.storeBound r) t)) ∧
    (∀ (adr : Addr), let ef := effective s.thr p adr; let data := toBytes 64 (s.thr.vreg d).toNat;
      mayRun (.stv d p adr o) s → yields (accessThen ef.1 data.length .store s) r u → u.thr.progress = 0 →
      passes (releaseIf (ordReleases o) sc u) v → passes (storeThen r data (ordReleases o) v) t →
      storeSettled [r.home.line] o t → exec (.stv d p adr o) s = .next (stored ef.2 o 8 (v.storeBound r) t)) ∧
    (∀ (b : Reg) (z : GSize) (x : Fin 4), mayRun (.scat d p b z x o) s →
      yields (lanesThen (gBytes z) .store (laneAddrs s.thr p b x) s []) l u → u.thr.progress = 0 →
      passes (releaseIf (ordReleases o) sc u) v →
      passes (scatLanes (ordReleases o) (l.zip ((lanes (u.thr.vreg d)).map (fun y => toBytes (gBytes z) y.toNat))) v) t →
      (∀ q ∈ l, t.laneRefused q = none) → storeSettled (l.map (·.home.line)) o t →
      exec (.scat d p b z x o) s = .next (stored none o 8 (v.scatBound l) t))

/-- R127: where the bytes of a store go. -/
def Obligations.StoresGoWhereTheirHomeIs : Prop :=
  ∀ (s t : State) (r : LaneReq) (b : List Byte), let core := s.thr.id.core;
    s.homeCheck (some core) r.home r.n true false = .ok →
    ((∃ off, r.home = .lm core off) ∨ (∃ u off, r.home = .xlm u off) → passes (storeThen r b false s) (s.perform r.home b)) ∧
    ((∀ off, r.home ≠ .lm core off) → (∀ u off, r.home ≠ .xlm u off) → r.home.isGlobal = false →
      passes (storeThen r b false s) (s.sbMessage core (s.sbEntry r b false))) ∧
    (r.home.isGlobal = true → s.revivalOf r = none → (s.markWrite r).sbStore core (s.sbEntry r b false) = some t → passes (storeThen r b false s) t) ∧
    (r.home.isGlobal = true → s.revivalOf r = none → (s.markWrite r).sbStore core (s.sbEntry r b false) = none →
      ∀ body, storeThen r b false s body =
        stallFor .fabric (s.setSb core (sendOldest (nextOrder (s.sbOf core)) (s.sbOf core)))) ∧
    (r.home.isGlobal = true → s.revivalOf r = some t → ∀ body, storeThen r b false s body = stallFor .fence t)

/-- R124, steps 1 and 2. -/
def Obligations.AccessChecksTrap : Prop :=
  ∀ (s : State) (d : Reg) (p : PReg) (o : Ord), s.hasHandler →
    let trap := fun (ea : DWord) (n : Nat) (out : Out) =>
      (ptrValid ea = false → out = .next (s.trapped .align badptr ea)) ∧
      (ptrValid ea = true → ptrAligned ea n = false → out = .next (s.trapped .align misalign ea));
    (∀ (adr : Addr) (z : LdSize) (y : StSize), let ea := (effective s.thr p adr).1;
      (mayRun (.ld d p z adr o) s → trap ea (ldBytes z) (exec (.ld d p z adr o) s)) ∧
      (mayRun (.st d p y adr o) s → trap ea (stBytes y) (exec (.st d p y adr o) s)) ∧
      (mayRun (.ldv d p adr o) s → trap ea 64 (exec (.ldv d p adr o) s)) ∧
      (mayRun (.stv d p adr o) s → trap ea 64 (exec (.stv d p adr o) s))) ∧
    (∀ (b : Reg) (f : AmoOp) (w : Width) (g : FaddFmt), let ea := s.thr.preg p;
      (mayRun (.amo d p b f w o) s → trap ea (widthBits w / 8) (exec (.amo d p b f w o) s)) ∧
      (mayRun (.cas d p b w o) s → trap ea (widthBits w / 8) (exec (.cas d p b w o) s)) ∧
      (mayRun (.fadd d p b g o) s → trap ea (match g with
        | .f32 => 4
        | .bf16 => 2) (exec (.fadd d p b g o) s)))

/-- R131 in the slot's own LM. -/
def Obligations.AtomicsInOwnMemory : Prop :=
  ∀ (s : State) (d : Reg) (p : PReg) (b : Reg) (w : Width), s.memOk → s.sbOf s.thr.id.core = [] →
    let ea := s.thr.preg p; let k := 2 ^ 40 + s.thr.id.core * 2 ^ 17 + ptrLmOff ea; let y := s.thr.sreg b;
    let ends := fun (n new : Nat) (v : DWord) (o : Out) => ∃ t, o = .next t ∧ t.mem.num k n = new ∧
      (∀ j, (j < k ∨ k + n ≤ j) → t.mem.get j = s.mem.get j) ∧ t.thr.ws = (s.thr.setS d v).ws ∧
      (t.thr.loops, t.thr.pc) = backEdge s.thr.loops (s.thr.pc + 4);
    let free := fun (n : Nat) => ownAccess s ea n true true ∧ s.badAt (ownHome s ea) n = false;
    (let n := widthBits w / 8; let old := s.mem.num k n; let x : BitVec (widthBits w) := BitVec.ofNat _ old; let q := aluIn w y;
      free n →
      (∀ f, mayRun (.amo d p b f w .plain) s → ends n (BitVec.toNat (match f with
        | .add => x + q
        | .and => x &&& q
        | .or => x ||| q
        | .xor => x ^^^ q
        | .mins => if q.slt x then q else x
        | .maxs => if x.slt q then q else x
        | .minz => if q < x then q else x
        | .maxz => if x < q then q else x
        | .swp => q)) (x.signExtend 64) (exec (.amo d p b f w .plain) s)) ∧
      (mayRun (.cas d p b w .plain) s →
        ends n (if x = aluIn w (s.thr.sreg d) then q.toNat else old) (x.signExtend 64) (exec (.cas d p b w .plain) s))) ∧
    (free 4 → mayRun (.fadd d p b .f32 .plain) s → ends 4 (addS .rn (s.mem.num k 4) (y.toNat % 2 ^ 32))
      (BitVec.ofNat 64 (s.mem.num k 4)) (exec (.fadd d p b .f32 .plain) s)) ∧
    (free 2 → mayRun (.fadd d p b .bf16 .plain) s →
      ends 2 (bf16.round .rn (Fp.add .rn (bf16.decode (s.mem.num k 2)) (bf16.decode (y.toNat % 2 ^ 16))))
        (BitVec.ofNat 64 (s.mem.num k 2)) (exec (.fadd d p b .bf16 .plain) s))

/-- R133. A release passes when no entry that it covers is left (R128); R247 adds the host ports to an acquire at system scope. -/
def Obligations.FencesOrderAndComplete : Prop :=
  ∀ (s u : State) (sc : Scope), let core := s.thr.id.core;
    (mayRun (.fenceAcq sc) s → hostsQuiet (some sc) s → exec (.fenceAcq sc) s = .next ((s.acquire core sc).passed 8)) ∧
    (mayRun (.fenceAcq .sy) s → s.hostsPending = true → exec (.fenceAcq .sy) s = stallFor .fence s) ∧
    (mayRun (.fenceRel sc) s → passes (releaseThen sc s) u → exec (.fenceRel sc) s = .next (u.passed 8)) ∧
    (mayRun (.fenceFull sc) s → passes (releaseThen sc s) u → hostsQuiet (some sc) u → exec (.fenceFull sc) s = .next ((u.acquire u.thr.id.core sc).passed 8)) ∧
    (mayRun .fencePath s → (∀ e ∈ s.sbOf core, e.line.isGlobal = true → e.writers.contains s.thr.id.slot = false) →
      exec .fencePath s = .next (s.passed 8)) ∧
    (mayRun .fenceWin s → passes (releaseThen .sy s) u → u.hostsPending = false → (∀ w, u.thr.lastWindow = some w → w + 2 ≤ u.windowNow) →
      exec .fenceWin s = .next ((u.acquire u.thr.id.core .sy).passed 8)) ∧
    ((sc = .sl ∨ sc = .co) → passes (releaseThen sc s) s) ∧
    (sc ≠ .sl → sc ≠ .co → (s.sbOf core).any (covered s.thr sc) = false →
      passes (releaseThen sc s) { s with thr := { s.thr with readLines := if wideScope sc then [] else s.thr.readLines } }) ∧
    (sc ≠ .sl → sc ≠ .co → (s.sbOf core).any (covered s.thr sc) = true → mayRun (.fenceRel sc) s →
      ∃ why, exec (.fenceRel sc) s = stallFor why (s.sbSend core (covered s.thr sc)))

namespace Sys2Proof.Machine

/-- A descriptor with its position moved on by n slots, modulo 2^32 (R135). -/
def qMoved (q : QWord) (n : Nat) : QWord := q.extractLsb' 32 96 ++ BitVec.ofNat 32 (q.toNat % 2 ^ 32 + n)

end Sys2Proof.Machine

/-- R136 with the checks of R20. The cycles lie within the bounds of R137 (log 18); that a descriptor which SWPWP has brought is not
counted out is the model's choice (log 127). -/
def Obligations.RingWords : Prop :=
  (∀ (s u v : State) (d : PReg) (vd : Reg) (q : QReg) (n : Fin 256) (l : List Byte) (r : LaneReq),
    let dq := s.thr.qreg q; let cap := qCap dq; let pos := dq.toNat % 2 ^ 32;
    let may := fun (role limit : Nat) => s.qOk dq = true ∧ qRole dq = role ∧ n.val ≤ limit;
    let slot := adv (qBase dq) (64 + 64 * ((pos + n.val) % cap) : Nat); let new : QWord := BitVec.ofNat 128 (ofBytes l);
    (mayRun (.qbind d q) s → yields (readThen (s.thr.preg d) 16 s) l u →
      (u.qOk new = true → exec (.qbind d q) s = .next (State.passedWithin 8 (loadBound u.thr.id (u.thr.preg d))
        ((u.rebind (ringBank (u.thr.qreg q)) (ringBank new)).setQ q new))) ∧
      (u.hasHandler → u.qOk new = false → trapsWith .operand u (exec (.qbind d q) s))) ∧
    (mayRun (.qwait q n) s → may 1 cap → yields (controlThen dq .load s) r u →
      exec (.qwait q n) s = if (n.val : Int) ≤ ((u.ringTail r.home : Int) - pos) % 2 ^ 32
        then .next ((u.acquire u.thr.id.core .dv).passedWithin 8 (loadBound u.thr.id (qBase dq)))
        else waitFor (.ring q n.val false) u) ∧
    (mayRun (.qrsv q n) s → may 2 cap → yields (controlThen dq .load s) r u →
      exec (.qrsv q n) s = if (n.val : Int) ≤ ((cap : Int) - ((pos : Int) - u.ringHead r.home)) % 2 ^ 32
        then .next ((u.acquire u.thr.id.core .dv).passedWithin 8 (loadBound u.thr.id (qBase dq)))
        else waitFor (.ring q n.val true) u) ∧
    (mayRun (.qpush q n) s → (isTransform s.thr.id = true → 64 * (pos + n.val) ≤ s.routineB + 63) → may 2 cap →
      passes (releaseThen .dv s) u → passes (countThen dq 0 (pos + n.val) u) v →
      exec (.qpush q n) s = .next ((v.setQ q (qMoved dq n.val)).passed 8)) ∧
    (mayRun (.qpop q n) s → may 1 cap → passes (releaseThen .dv s) u → passes (countThen dq 4 (pos + n.val) u) v →
      exec (.qpop q n) s = .next ((v.setQ q (qMoved dq n.val)).passed 8)) ∧
    (mayRun (.qldv vd q n) s → may 1 (cap - 1) → yields (accessThen slot 64 .load s) r u →
      u.homeCheck (some u.thr.id.core) r.home 64 false false = .ok →
      (u.atHand r false = some l →
        exec (.qldv vd q n) s = .next ((u.setV vd (BitVec.ofNat 512 (ofBytes l))).passedWithin 8 24)) ∧
      (u.atHand r false = none → u.badAt r.home 64 = false → exec (.qldv vd q n) s = .next { u with thr := { u.thr with
        wait := .access { lanes := [r], got := [], dest := .vector vd, upd := none, acq := none, hnt := false, tag := none }
        nextIssue := u.clock + 8 } })) ∧
    (mayRun (.qstv vd q n) s → may 2 (cap - 1) → yields (accessThen slot 64 .store s) r u →
      passes (storeThen r (toBytes 64 (u.thr.vreg vd).toNat) false u) v → exec (.qstv vd q n) s = .next (v.passed 8)) ∧
    (s.hasHandler →
      (∀ p ∈ [(Instr.qwait q n, 1, cap), (.qpop q n, 1, cap), (.qrsv q n, 2, cap), (.qpush q n, 2, cap), (.qldv vd q n, 1, cap - 1),
          (.qstv vd q n, 2, cap - 1)],
        mayRun p.1 s → (s.qOk dq = false ∨ qRole dq ≠ p.2.1 ∨ p.2.2 < n.val) → trapsWith .operand s (exec p.1 s)))) ∧
  (∀ (s u : State) (q : QWord) (off w : Nat) (r : LaneReq), yields (controlThen q .store s) r u → let core := u.thr.id.core;
    let b := toBytes 4 (w % 2 ^ 32); let at_ : LaneReq := { r with home := r.home.plus off, n := 4 };
    (∀ o, r.home = .lm core o → passes (countThen q off w s) (u.perform (.lm core (o + off)) b)) ∧
    ((∀ o, r.home ≠ .lm core o) → (∀ x o, r.home ≠ .xlm x o) → passes (countThen q off w s) (u.sbMessage core (u.sbEntry at_ b true)))) ∧
  (∀ (s : State) (old new : Option (Nat × Nat)), let t := s.rebind old new;
    t.mem = s.mem ∧ t.thr = s.thr ∧ t.others = s.others ∧ ∀ b : Nat × Nat, (t.bank b.1 b.2).bound =
      (if old = some b then (if (s.node? s.thr.node).any (fun n => n.binds.contains b) then (s.bank b.1 b.2).bound - 1
        else (s.bank b.1 b.2).bound) else (s.bank b.1 b.2).bound) + (if new = some b then 1 else 0))

namespace Sys2Proof.Machine

/-- Window words k to k + n - 1 exist and can be read. -/
def windowOk (s : State) (k n : Nat) : Prop := k + n ≤ 256 ∧ s.badAt (windowHome s.thr.id k) (8 * n) = false

/-- The tile is the slot's (R34). -/
def ownsTile (s : State) (e : Fin 2) (t : Fin 16) : Prop :=
  (s.tile (clusterOf s.thr.id.core) e.val t.val).owner = some s.thr.id

/-- The tile is unowned, and no instruction in flight of another slot has claimed it (R34). -/
def freeTile (s : State) (e : Fin 2) (t : Fin 16) : Prop :=
  (s.tile (clusterOf s.thr.id.core) e.val t.val).owner = none ∧
    ∀ x ∈ s.threads, clusterOf x.id.core = clusterOf s.thr.id.core → x.claims.contains (.tile e.val t.val) = true → x.id = s.thr.id

/-- The tile is the slot's, or it was free and the instruction in flight has claimed it, which gives the state u (R34, R159). -/
def ownsOrClaims (s : State) (e : Fin 2) (t : Fin 16) (u : State) : Prop :=
  (ownsTile s e t ∧ u = s) ∨ (freeTile s e t ∧ u = s.claimed (.tile e.val t.val))

/-- The slot has no instruction outstanding on the engine (R159, stage 2). -/
def engineFree (s : State) (e : Fin 2) : Prop := s.outstanding s.thr.id e = none

/-- The geometry words of an instruction (R162): n words from k on exist, and the word reads them, or has read them when it first
came to issue. x is the state in which it holds them. -/
def geoRead (s : State) (k n : Nat) (w : List DWord) (x : State) : Prop :=
  k + n ≤ 256 ∧ ((s.thr.geo.length = n ∧ w = s.thr.geo ∧ x = s) ∨
    (s.thr.geo.length ≠ n ∧ s.badAt (windowHome s.thr.id k) (8 * n) = false ∧
      w = (List.range n).map (fun i => s.win (k + i)) ∧ x = { s with thr := { s.thr with geo := w } }))

/-- The slot's earlier stores to LM and SRAM are performed (R161). -/
def localStored (s : State) : Prop :=
  (s.sbOf s.thr.id.core).any (fun x => x.writers.contains s.thr.id.slot && x.line.bankId.isSome) = false

/-- The instruction has entered the round of its engine, a tile that it has claimed is the slot's, and the slot goes on. -/
def State.sentTo (e : Fin 2) (j : TileJob) (lo hi : Nat) (s : State) : State :=
  let cl := clusterOf s.thr.id.core
  (s.ownClaim.setJobs cl e (s.engineJobs cl e ++ [j])).passedWithin lo hi

/-- The slot's result of a tile instruction, with the pulse of its completion (R159, R181). -/
def State.tileAnswer (e : Fin 2) (d : Reg) (v : DWord) (s : State) : State :=
  ((s.setS d v).pulseSource s.thr.id (e + 1)).passedWithin 11 4096

end Sys2Proof.Machine

/-- R159: what a tile instruction sends when its checks pass. -/
def Obligations.TileWordsAreSent : Prop :=
  (∀ (s u v x : State) (t : Fin 16) (e : Fin 2) (a b : PReg) (k : Fin 256) (w : List DWord), let h := s.thr.hfmt;
    let w0 := w.getD 0 0; let w1 := w.getD 1 0;
    (mayRun (.mzero t e) s → ownsOrClaims s e t u → engineFree u e →
      exec (.mzero t e) s = .next (u.sentTo e (u.newJob (.mzero t e) t .mzero) 8 8)) ∧
    (let z := (u.win k.val).toInt; let y := u.tile (clusterOf u.thr.id.core) e t;
      mayRun (.manchor t k e) s → ownsOrClaims s e t u → engineFree u e → windowOk u k.val 1 →
      -512 ≤ z → z ≤ 511 → (y.av = true → y.a ≤ z) → exec (.manchor t k e) s =
        .next (u.sentTo e { u.newJob (.manchor t k e) t .manchor with win := [u.win k.val] } 8 8)) ∧
    (∀ (scaled : Bool), let i : Instr := if scaled then .mmas t a b k e else .mma t a b k e; let n := if scaled then 4 else 2;
      let j : TileJob := { s.newJob i t (if scaled then .mmas else .mma) with
        pa := s.thr.preg a, pb := s.thr.preg b, win := w, fmtA := fmtOr (fmtA h) 6, fmtB := fmtOr (fmtB h) 6,
        scale := if scaled then (if fmtScaleMode h = 0 then 3 else fmtScaleMode h) else 0, side := scaled && fmtSideBit h };
      mayRun i s → mmaBad scaled s = false → ownsTile s e t → geoRead s k.val n w x → productGeoOk scaled w0 = true →
      strideOk (geoM w0) (geoA w1) j.opA.rowBytes 8 = true →
      strideOk (geoN w0) (geoB w1) j.opB.rowBytes 8 = true →
      passes (declaredThen .engRead (j.opA.ranges ++ j.opB.ranges) x) v → engineFree v e → localStored v →
      exec i s = .next (v.sentTo e j (if scaled then 24 else 16) (if scaled then 24 else 16))) ∧
    (let o := fmtOr (fmtO h) 1; let size := fmtBits o / 8; let len := geoN w0 * size; let st := geoA w1;
      mayRun (.mres t a k e) s → mresBad s = false → ownsTile s e t → geoRead s k.val 2 w x → geoOk w0 = true →
      strideOk (geoM w0) st len size = true →
      passes (declaredThen .engWrite ((List.range (geoM w0)).map (fun i => (adv (s.thr.preg a) (i * st : Nat), len, size))) x) v →
      engineFree v e → exec (.mres t a k e) s =
        .next (v.sentTo e { v.newJob (.mres t a k e) t .mres with pa := v.thr.preg a, win := w, fmtO := o } 16 16)) ∧
    (mayRun (.mresc t e) s → ownsTile s e t → engineFree s e →
      exec (.mresc t e) s = .next (s.sentTo e (s.newJob (.mresc t e) t .mresc) 8 8)) ∧
    (mayRun (.msave t a e) s → ownsTile s e t → engineFree s e →
      passes (imageThen (s.thr.preg a) (imageBytes (s.tile (clusterOf s.thr.id.core) e t).canon) .engWrite s) v →
      exec (.msave t a e) s = .next (v.sentTo e { v.newJob (.msave t a e) t .msave with pa := v.thr.preg a } 8 8)) ∧
    (mayRun (.msave t a e) s → ownsTile s e t → ¬ engineFree s e → passes (imageThen (s.thr.preg a) (imageBytes true) .engWrite s) v →
      exec (.msave t a e) s = stallFor .tile v)) ∧
  (∀ (s : State) (e t : Nat), (s.thr.claims = [] → s.ownClaim = s ∧ (s.claimed (.tile e t)).thr.claims = [.tile e t]) ∧
    (s.thr.claims = [.tile e t] → s.ownClaim = s.setTile (clusterOf s.thr.id.core) e t
      { s.tile (clusterOf s.thr.id.core) e t with owner := some s.thr.id } ∧ s.claimed (.tile e t) = s))

/-- R174, R175: what MLOAD and MMERGE send; R172, R173: the image of a tile and the units that write and read it. -/
def Obligations.TileImagesAreSent : Prop :=
  (∀ (s u v x y : State) (t : Fin 16) (e : Fin 2) (a : PReg) (l : List Byte),
    let read := fun (p : DWord) (v : State) => v.engineRead (v.engineUser v.thr.id v.thr.node) p 16 = .done l x;
    (∀ canon av n, parseHeader (ofBytes l) = some (canon, av, n) →
      (mayRun (.mload t a e) s → ownsOrClaims s e t u →
        passes (imageThen (u.thr.preg a) (imageBytes true) .engRead u) v → engineFree v e → localStored v → read (u.thr.preg a) v →
        passes (rangeThen .slot (u.thr.preg a) (imageBytes canon) .engRead true x) y →
        exec (.mload t a e) s = .next (y.sentTo e
          { y.newJob (.mload t a e) t .mload with pa := u.thr.preg a, win := [BitVec.ofNat 64 (ofBytes l)] } 8 908)) ∧
      (mayRun (.mmerge t a e) s → ownsTile s e t →
        passes (imageThen (s.thr.preg a) (imageBytes true) .engRead s) v → engineFree v e → localStored v → read (s.thr.preg a) v →
        passes (rangeThen .slot (s.thr.preg a) (imageBytes canon) .engRead true x) y →
        exec (.mmerge t a e) s = .next (y.sentTo e
          { y.newJob (.mmerge t a e) t .mmerge with pa := s.thr.preg a, win := [BitVec.ofNat 64 (ofBytes l)] } 8 908))) ∧
    (mayRun (.mmerge t a e) s → ownsTile s e t →
      passes (imageThen (s.thr.preg a) (imageBytes true) .engRead s) v → engineFree v e → localStored v → read (s.thr.preg a) v →
      parseHeader (ofBytes l) = none → x.hasHandler → trapsWith .operand x (exec (.mmerge t a e) s)) ∧
    (mayRun (.mload t a e) s → ownsOrClaims s e t u →
      passes (imageThen (u.thr.preg a) (imageBytes true) .engRead u) v → engineFree v e → localStored v → read (u.thr.preg a) v →
      parseHeader (ofBytes l) = none → x.hasHandler → trapsWith .operand x (exec (.mload t a e) s) ∧
        ∀ z, exec (.mload t a e) s = .next z → z.tiles = x.tiles ∧ z.thr.claims = []) ∧
    (∀ n, (parseHeader n).isSome = true ↔ n / 2 ^ 64 % 2 ^ 64 = 0 ∧ n / 2 ^ 48 % 2 ^ 16 = 0xACC1 ∧ n / 2 ^ 40 % 2 ^ 8 = 0 ∧
      n / 2 ^ 11 % 2 ^ 21 = 0 ∧ (n / 2 ^ 32 % 2 ^ 8 = 1 ∨ n / 2 ^ 32 % 2 ^ 8 = 2))) ∧
  (∀ (t : Tile) (i : Nat),
    (-512 ≤ t.a → t.a ≤ 511 → parseHeader (ofBytes (imageHeader t)) = some (t.canon, t.av, t.a)) ∧
    (imageHeader t).length = 16 ∧ (rowRecords t i).length = 32 * (if t.canon then 16 else 32) ∧
    (i < 32 → parseRow t.canon i (rowRecords t i) = (List.range 32).map (fun k =>
      (32 * i + k, if t.canon then { t.elem (32 * i + k) with c := 0 } else t.elem (32 * i + k))))) ∧
  (∀ (s u : State) (user : EngineUser) (j : TileJob) (x : Tile) (l : List Byte) (canon av : Bool) (a : Int),
    let at_ := fun (c : Bool) => adv j.pa (16 + (32 * (if c then 16 else 32)) * j.done : Nat);
    (j.op = .msave → (j.done = 0 → s.engineWriteRange user j.pa (imageHeader x ++ rowRecords x 0) = .done l u → tileUnit user j x s = .ok x u) ∧
      (0 < j.done → s.engineWriteRange user (at_ x.canon) (rowRecords x j.done) = .done l u → tileUnit user j x s = .ok x u)) ∧
    (j.op = .mload → parseHeader (j.win.getD 0 0).toNat = some (canon, av, a) →
      s.engineReadRange user (at_ canon) (32 * (if canon then 16 else 32)) = .done l u → tileUnit user j x s =
        .ok (if j.done = 0 then { owner := x.owner, av := av, a := a, canon := canon, elems := parseRow canon 0 l : Tile }
          else { x with elems := x.elems ++ parseRow canon j.done l }) u))

/-- R170, R171, R176, R177. -/
def Obligations.TileReadsAnswer : Prop :=
  ∀ (s : State) (t : Fin 16) (e : Fin 2) (d : Reg) (k : Fin 256), let x := s.tile (clusterOf s.thr.id.core) e t; let w := s.win k.val;
    let y := x.elem (w.toNat % 1024); let c := fp32.decode (w.toNat / 2 ^ 32);
    (ownsTile s e t → windowOk s k.val 1 → engineFree s e → mayRun (.mrd t d k e) s →
      w.toNat / 2 ^ 18 = 0 → w.toNat / 2 ^ 10 % 2 ^ 6 = 0 →
      (w.toNat / 2 ^ 16 = 0 → exec (.mrd t d k e) s = .next (s.tileAnswer e d (y.v.setWidth 64))) ∧
      (w.toNat / 2 ^ 16 = 1 → exec (.mrd t d k e) s = .next (s.tileAnswer e d (y.v.sshiftRight 64 |>.setWidth 64))) ∧
      (w.toNat / 2 ^ 16 = 2 → exec (.mrd t d k e) s =
        .next (s.tileAnswer e d (BitVec.ofInt 64 (x.a * 2 ^ 16 + (256 * x.av.toNat + y.flags : Nat)))))) ∧
    (ownsTile s e t → windowOk s k.val 1 → engineFree s e → mayRun (.mcmp t d k e) s → w.toNat / 2 ^ 10 % 2 ^ 22 = 0 →
      (c = .nan ∨ y.nan = true ∨ (y.infp = true ∧ y.infn = true) →
        exec (.mcmp t d k e) s = .next (s.tileAnswer e d 2)) ∧
      (c ≠ .nan → y.nan = false → (y.infp = true ∧ y.infn = true → False) → ∃ v : DWord,
        exec (.mcmp t d k e) s = .next (s.tileAnswer e d v) ∧
        (∀ z : Fp, z = (if y.infp then .inf false else if y.infn then .inf true
            else if x.av then .fin (y.int < 0) y.int.natAbs (x.a - 64) else .fin false 0 0) →
          v = if z.lt c then -1 else if c.lt z then 1 else 0))) ∧
    (mayRun (.mrstl k) s → windowOk s k.val 1 → w.toNat % 4 = 0 → w.toNat / 2 ^ 55 = 0 →
      exec (.mrstl k) s = .next (State.passed 8 { s with thr := { s.thr with mrstl := w } })) ∧
    (s.hasHandler → mayRun (.mrstl k) s → windowOk s k.val 1 → (w.toNat % 4 ≠ 0 ∨ w.toNat / 2 ^ 55 ≠ 0) →
      trapsWith .operand s (exec (.mrstl k) s)) ∧
    (mayRun (.mwait t e) s → (∀ j, s.outstanding s.thr.id e = some j → j.tile ≠ t.val) →
      exec (.mwait t e) s = .next (s.passed 8)) ∧
    (mayRun (.mwait t e) s → (∃ j, s.outstanding s.thr.id e = some j ∧ j.tile = t.val) →
      exec (.mwait t e) s = stallFor .tile s)

/-- R34 and stage 1 of R159. -/
def Obligations.TileOwnershipIsChecked : Prop :=
  ∀ (s : State) (t : Fin 16) (e : Fin 2) (a b : PReg) (d : Reg) (k : Fin 256) (i : Instr), s.hasHandler → mayRun i s →
    let cl := clusterOf s.thr.id.core; let x := s.tile cl e t;
    let checks := i ∈ [Instr.mresc t e, .msave t a e, .mmerge t a e, .mrd t d k e, .mcmp t d k e] ∨ (i = .mma t a b k e ∧ mmaBad false s = false) ∨
      (i = .mmas t a b k e ∧ mmaBad true s = false) ∨ (i = .mres t a k e ∧ mresBad s = false);
    let others := (x.owner ≠ none ∧ x.owner ≠ some s.thr.id) ∨ ∃ id, s.holder cl (.tile e.val t.val) = some id ∧ id ≠ s.thr.id;
    (checks ∧ x.owner ≠ some s.thr.id) ∨ (i ∈ [Instr.mzero t e, .manchor t k e, .mload t a e] ∧ others) →
    trapsWith .operand s (exec i s) ∧ ∀ u, exec i s = .next u → u.tiles = s.tiles ∧ u.jobs = s.jobs

/-- R160 with the units of R164 to R169 and R175, the completion of R159 and the check of R96. That MANCHOR leaves every tile but one it
anchors anew in canonical form is the model's choice (log 107), and which of several can go on first is open (log 91). -/
def Obligations.EngineUnits : Prop :=
  (∀ (s u : State) (cl : Nat) (e : Fin 2) (j : TileJob) (rest : List TileJob) (x : Tile), s.engineJobs cl e.val = j :: rest →
    (∀ n, s.node? j.node = some n → s.shut n = false) →
    (∀ y ∈ rest, j.slot ∈ y.served → y.units ≤ y.done ∨ ∃ n, s.node? y.node = some n ∧ s.shut n = true) →
    let who := (s.jobUser e j).who; let t := (u.setTile cl e.val j.tile x).dropGot who;
    let quiet := rest.map (fun y => { y with served := y.served.filter (· ≠ j.slot) });
    let counted := rest.map (TileJob.sawUnit j.slot); let leaves := fun (y : State) => (y.setJobs cl e.val quiet).pulseSource j.slot (e.val + 1);
    (j.done < j.units → s.upset = 0 → tileUnit (s.jobUser e j) j (s.tile cl e.val j.tile) s = .ok x u →
      exec (.engineUnit cl e) s = .next (if j.done + 1 < j.units ∨ t.writesOut who = true
        then t.setJobs cl e.val (counted ++ [{ j with done := j.done + 1, retried := false, served := [] }]) else leaves t)) ∧
    (j.units ≤ j.done → s.writesOut who = false → exec (.engineUnit cl e) s = .next (leaves s)) ∧
    (j.done < j.units → 0 < s.upset → j.op = .mma ∨ j.op = .mmas →
      tileUnit (s.jobUser e j) j (s.tile cl e.val j.tile) s = .ok x u →
      (j.retried = false → ∃ y, exec (.engineUnit cl e) s = .next y ∧ y.upset + 1 = s.upset ∧
        y.tile cl e.val j.tile = s.tile cl e.val j.tile ∧ y.engineJobs cl e.val = counted ++ [{ j with retried := true, served := [] }]) ∧
      (j.retried = true → s.faultUnitFull cl = false → (∀ n, s.node? j.node = some n → n.closing = false) →
        ∃ y, exec (.engineUnit cl e) s = .next y ∧ y.engineJobs cl e.val = quiet ∧
        ∀ n, s.node? j.node = some n → ∃ m, y.node? j.node = some m ∧ m.ending.map (·.cause) = some .mcheck))) ∧
  (∀ (s : State) (user : EngineUser) (j : TileJob) (x : Tile), let v := (j.win.getD 0 0).toInt;
    (j.op = .mzero → tileUnit user j x s = .ok { Tile.zero with owner := x.owner } s) ∧
    (j.op = .manchor → x.av = false → ∃ c, tileUnit user j x s = .ok { x with av := true, a := v, canon := c } s) ∧
    (j.op = .manchor → x.av = true → x.a ≤ v → ∃ y, tileUnit user j x s = .ok y s ∧ y.a = v ∧ y.av = true ∧ y.canon = true ∧
      y.owner = x.owner ∧ ∀ p ∈ x.elems, p.2.ovf = false → ∃ q ∈ y.elems, q.1 = p.1 ∧ q.2.c = 0 ∧
        q.2.v = BitVec.ofInt 96 (p.2.int / 2 ^ (v - x.a).toNat)) ∧
    (j.op = .mresc → ∃ y, tileUnit user j x s = .ok y s ∧ (y.av, y.a, y.owner) = (x.av, x.a, x.owner) ∧
      y.elems.map (fun p => (p.1, p.2.v, p.2.flags)) = x.elems.map (fun p => (p.1, p.2.v, p.2.flags)) ∧
      ∀ p ∈ y.elems, 32 * j.done ≤ p.1 → p.1 < 32 * j.done + 32 → p.2.c = 0)) ∧
  (∀ (s t u : State) (user : EngineUser) (j : TileJob) (x : Tile) (da db : List (List Byte)) (l : List Byte), let scaled := j.op = .mmas;
    let A := j.opA; let B := j.opB; let k0 := j.done * stepDepth j.fmtA j.fmtB; let k1 := min A.depth (k0 + stepDepth j.fmtA j.fmtB);
    let reads := fun (o : TileOperand) => (List.range o.rows).map (fun i =>
        (adv (adv o.p (i * o.stride : Nat)) (k0 * fmtBits o.fmt / 8 : Nat), ceilDiv (k1 * fmtBits o.fmt) 8 - k0 * fmtBits o.fmt / 8)) ++
      (if o.scaled then (List.range o.rows).map (fun i =>
        (adv o.p (o.scaleOff + (2 * (o.sc * i + k0 / 32) : Nat)), 2 * ((k1 - 1) / 32 - k0 / 32 + 1))) else []);
    let value := fun (o : TileOperand) (d : List (List Byte)) (i k : Nat) =>
      let v := fmtValue o.fmt (ofBytes (d.getD i []) / 2 ^ (fmtBits o.fmt * k) % 2 ^ fmtBits o.fmt);
      if o.scaled then Fp.mul v (scaleValue (ofBytes (d.getD (o.rows + i) []) / 2 ^ (16 * ((k0 + k) / 32 - k0 / 32)) % 2 ^ 16)) else v;
    (j.op = .mma ∨ scaled → j.done < j.regularSteps → gatherRanges user (reads A) [] s = .got da t → gatherRanges user (reads B) [] t = .got db u →
      tileUnit user j x s = .ok (x.step u.fresh ((List.range A.rows).flatMap (fun i => (List.range B.rows).map (fun c =>
        (32 * i + c, (List.range (k1 - k0)).map (fun k => Fp.mul (value A da i k) (value B db c k))))))) u.used) ∧
    (let w := j.win.getD 0 0; let M := w.toNat % 2 ^ 6; let N := w.toNat / 2 ^ 8 % 2 ^ 6; j.op = .mres →
      (M ≤ j.done → tileUnit user j x s = .ok x s) ∧
      (j.done < M → s.engineWriteRange user (adv j.pa (j.done * ((j.win.getD 1 0).toNat % 2 ^ 32) : Nat)) ((List.range N).flatMap (fun c =>
        toBytes (fmtBits j.fmtO / 8) (x.resolve (32 * j.done + c) j.fmtO))) = .done l t → tileUnit user j x s = .ok x t)) ∧
    (∀ canon av a, j.op = .mmerge → parseHeader (j.win.getD 0 0).toNat = some (canon, av, a) → let n := 32 * (if canon then 16 else 32);
      s.engineReadRange user (adv j.pa (16 + n * j.done : Nat)) n = .done l t → tileUnit user j x s =
        .ok (x.merge t.fresh av a ((parseRow canon j.done l).map (fun y => (y.1, y.2.int, y.2.flags)))) t.used)) ∧
  (∀ (x : Tile) (i code : Nat) (fmt : IeeeFmt), (code, fmt) ∈ [(1, fp32), (2, bf16), (3, fp16)] → let e := x.elem i;
    (e.nan = true ∨ (e.infp = true ∧ e.infn = true) → fmt.decode (x.resolve i code) = .nan) ∧
    (e.nan = false → e.infp = true → e.infn = false → fmt.decode (x.resolve i code) = .inf false) ∧
    (e.nan = false → e.infp = false → e.infn = true → fmt.decode (x.resolve i code) = .inf true) ∧
    (e.nan = false → e.infp = false → e.infn = false →
      (e.ovf = true → fmt.decode (x.resolve i code) = .inf (decide (e.int < 0))) ∧
      (e.ovf = false → e.v = 0 → x.resolve i code = 0) ∧
      (e.ovf = false → e.v ≠ 0 → x.av = true →
        x.resolve i code = fmt.round .rn (.fin (decide (e.int < 0)) e.int.natAbs (x.a - 64)))))

/-- R85 to R88 and R92: accumulation discards nothing without setting INX. -/
def Obligations.TileAccumulationIsExact : Prop :=
  ∀ (t : Tile) (fresh i K : Nat), (t.av = false → (t.elem i).v = 0) → let K : Int := K;
    let value := fun (x : Tile) => (x.elem i).int * 2 ^ (K + x.a - 64).toNat;
    (∀ (products : List (Nat × List Fp)) (ps : List Fp), (products.map (·.1)).Nodup → (i, ps) ∈ products →
      let y := t.step fresh products; let z := y.elem i;
      (z.nan, z.infp, z.infn) = ((t.elem i).nan || ps.contains .nan, (t.elem i).infp || ps.contains (.inf false),
        (t.elem i).infn || ps.contains (.inf true)) ∧
      (z.inx = false → z.ovf = false → 0 ≤ K + t.a - 64 → 0 ≤ K + y.a - 64 →
        (∀ neg m e, Fp.fin neg m e ∈ ps → m ≠ 0 → 0 ≤ K + e) → value y = value t + (ps.map (fun p => match p with
          | .fin neg m e => (if neg then -(m : Int) else m) * 2 ^ (K + e).toNat
          | .inf _ => 0
          | .nan => 0)).sum)) ∧
    (∀ (a v : Int) (f : Nat) (src : List (Nat × Int × Nat)), (src.map (·.1)).Nodup → (i, v, f) ∈ src →
      let y := t.merge fresh true a src; let z := y.elem i;
      (z.nan, z.infp, z.infn) = ((t.elem i).nan || bit f 2, (t.elem i).infp || bit f 1, (t.elem i).infn || bit f 0) ∧
      (z.inx = false → z.ovf = false → 0 ≤ K + t.a - 64 → 0 ≤ K + a - 64 → 0 ≤ K + y.a - 64 →
        value y = value t + v * 2 ^ (K + a - 64).toNat))

namespace Sys2Proof.Machine

/-- The lane group that a word names is the slot's, and holds x (R183). -/
def ownsGroup (s : State) (g : Fin 8) (x : LaneGroup) : Prop :=
  s.group (clusterOf s.thr.id.core) (effGroup s.thr g) = x ∧ x.owner = some s.thr.id

/-- The lane group is the slot's, or it is unowned and no other slot's instruction in flight has claimed it, and the instruction has
claimed it, which gives the state u (R36). -/
def ownsOrClaimsGroup (s : State) (G : Nat) (u : State) : Prop :=
  let cl := clusterOf s.thr.id.core
  ((s.group cl G).owner = some s.thr.id ∧ u = s) ∨
  ((s.group cl G).owner = none ∧ (∀ x ∈ s.threads, clusterOf x.id.core = cl → x.claims.contains (.group G) = true → x.id = s.thr.id) ∧ u = s.claimed (.group G))

/-- The image that a binding record names by its address, or by a handle that the directory admits on the slot's turn (R185, R213). -/
def imageNamed (img : DWord) (hform : Bool) (s : State) (base : DWord) (u : State) : Prop :=
  (hform = false ∧ base = img ∧ u = s) ∨ (hform = true ∧ s.dirTurn (.slot s.thr.id) = true ∧ u = s.dirEntered ∧
    ∃ o, u.dir.check u.thr.asid img = .ok o ∧ extentAddr o.extents 0 = some base)

/-- The slot's user-level handler may be entered (R237). -/
def takesUser (s : State) : Prop := s.thr.utvec ≠ 0 ∧ s.thr.status.inui = false

/-- The user trap of AUTO_STACK has been entered with its cause word; no lane has moved (R205, R237). -/
def stackTrapped (cause : Nat) (s : State) (o : Out) : Prop :=
  ∃ t, o = .next t ∧ t.thr.ucause = BitVec.ofNat 64 cause ∧ t.thr.upc = s.thr.following.setWidth 64 ∧
    t.thr.pc = pcOf s.thr.utvec ∧ t.thr.status.inui = true ∧ t.groups = s.groups ∧ t.mem = s.mem

end Sys2Proof.Machine

/-- R190, R192 to R194, R205. -/
def Obligations.AutomatonLaneWords : Prop :=
  ∀ (s : State) (a b d : Reg) (g : Fin 8) (x : LaneGroup), ownsGroup s g x →
    let G := effGroup s.thr g; let put := fun (ls : List Lane) (t : State) => t.putGroup G { x with lanes := ls };
    let wa := laneNats (s.thr.vreg a); let wb := laneNats (s.thr.vreg b);
    let free := fun (p : Lane × Nat) => p.2 / 2 ^ 31 % 2 = 1 ∨ p.1.rej = true;
    let symOk := fun (p : Lane × Nat) => p.2 / 2 ^ 8 % 2 ^ 23 = 0 ∧ 1 ≤ p.2 % 256 ∧ p.2 % 256 < x.img.t;
    (∀ ls, mayRun (.aset a b g) s → asetLanes x.img x.lanes (wa.zip wb) = some ls →
      exec (.aset a b g) s = .next ((put ls s).passed 8)) ∧
    (mayRun (.aset a b g) s → s.hasHandler → asetLanes x.img x.lanes (wa.zip wb) = none →
      trapsWith .operand s (exec (.aset a b g) s)) ∧
    (mayRun (.aget d g) s → exec (.aget d g) s = .next ((s.setV d (ofLanes (x.lanes.map (fun l => BitVec.ofNat 32
      (l.stack.headD 0 * 2 ^ 24 + l.rej.toNat * 2 ^ 23 + l.stack.length * 2 ^ 16 + l.state))))).passed 8)) ∧
    (mayRun (.apush a g) s → x.img.pda = true →
      (∀ p ∈ x.lanes.zip wa, free p ∨ (symOk p ∧ p.1.stack.length < x.img.limit)) →
      exec (.apush a g) s = .next ((put ((x.lanes.zip wa).map (fun p =>
        if bit p.2 31 || p.1.rej then p.1 else { p.1 with stack := p.2 % 256 :: p.1.stack })) s).passed 8)) ∧
    (∀ p, mayRun (.apush a g) s → takesUser s → x.img.pda = true → (∀ p ∈ x.lanes.zip wa, free p ∨ symOk p) →
      (pushers x.lanes wa).find? (fun p => decide (x.img.limit ≤ p.2.1.stack.length)) = some p →
      stackTrapped (p.2.2 % 256 * 2 ^ 16 + G * 2 ^ 12 + p.1 * 2 ^ 8 + 0x08) s (exec (.apush a g) s)) ∧
    (mayRun (.apop d g) s → x.img.pda = true → exec (.apop d g) s =
      .next (((put (x.lanes.map (fun l => if l.rej then l else { l with stack := l.stack.tail })) s).setV d (ofLanes
        (x.lanes.map (fun l => if l.rej then 0 else BitVec.ofNat 32 (l.stack.headD 0))))).passed 8)) ∧
    (∀ ms u, mayRun (.atok a g) s → (∀ w ∈ wa, w / 2 ^ 31 % 2 = 1 ∨ symbolBad x.img w = false) → wa.length = 16 →
      laneMoves (s.engineUser s.thr.id s.thr.node) x
        (x.lanes.zip (wa.map (fun w => if bit w 31 then none else some (w % 2 ^ 18)))) [] s = .ok (ms, u) →
      (overflowing ms = none → exec (.atok a g) s = .next ((put (movedLanes x.lanes ms) u).passedWithin 16 1016)) ∧
      (∀ j, overflowing ms = some j → takesUser u → u.thr = s.thr →
        stackTrapped (wa.getD j 0 % 2 ^ 18 * 2 ^ 16 + G * 2 ^ 12 + j * 2 ^ 8 + 0x08) u (exec (.atok a g) s)))

/-- R189 over the fields of R188. -/
def Obligations.AutomatonSteps : Prop :=
  ∀ (i : Image) (l : Lane) (e : Nat), let act := e / 2 ^ 18 % 4; let sym := e / 2 ^ 20 % 2 ^ 8;
    let ok := e / 2 ^ 28 % 16 = 0 ∧ e % 2 ^ 16 < i.n ∧ (i.pda = true ∨ (act = 0 ∧ sym = 0)) ∧
      (act = 1 ∨ act = 3 → 1 ≤ sym ∧ sym < i.t);
    (¬ ok → stepLane i l e = .malformed) ∧
    (ok → e / 2 ^ 17 % 2 = 1 → stepLane i l e = .moved { l with rej := true } false) ∧
    (ok → e / 2 ^ 17 % 2 = 0 →
      (act = 1 → l.stack.length = i.limit → stepLane i l e = .overflow) ∧
      (2 ≤ act → l.stack = [] → stepLane i l e = .moved { l with rej := true } false) ∧
      (act = 0 → stepLane i l e = .moved { l with state := e % 2 ^ 16 } (bit e 16)) ∧
      (act = 1 → l.stack.length ≠ i.limit →
        stepLane i l e = .moved { l with state := e % 2 ^ 16, stack := sym :: l.stack } (bit e 16)) ∧
      (∀ t st, l.stack = t :: st → (act = 2 → stepLane i l e = .moved { l with state := e % 2 ^ 16, stack := st } (bit e 16)) ∧
        (act = 3 → stepLane i l e = .moved { l with state := e % 2 ^ 16, stack := sym :: st } (bit e 16)))) ∧
    (∀ m b, stepLane i l e = .moved m b → l.stack.length ≤ i.limit → m.stack.length ≤ i.limit)

/-- R201, R202. -/
def Obligations.AutomatonMapWords : Prop :=
  ∀ (s : State) (d a b : Reg), let A := mappingLanes s.thr a; let B := mappingLanes s.thr b; let v := (s.thr.sreg b).toNat;
    (mayRun (.acomp d a b) s → exec (.acomp d a b) s = .next ((s.setMap d (A.map (composeLane B))).passed 16)) ∧
    (∀ (L : List (Nat × Nat)) (x : Nat × Nat), x.1 < 2 ^ 32 → x.2 < 2 ^ 32 →
      let r := composeLane L x; let hit := L.find? (fun y => mapV y && mapStart y = mapEnd x);
      (mapV x = false → r = (0, 0)) ∧
      (mapV x = true → x.2 / 2 ^ 29 % 4 ≠ 0 → r = x) ∧
      (mapV x = true → x.2 / 2 ^ 29 % 4 = 0 → hit = none → r = (x.1, x.2 + 2 ^ 30)) ∧
      (∀ y, mapV x = true → x.2 / 2 ^ 29 % 4 = 0 → hit = some y →
        mapV r = true ∧ mapStart r = mapStart x ∧ mapEnd r = mapEnd y ∧ r.2 % 2 ^ 8 = min 255 (x.2 % 2 ^ 8 + y.2 % 2 ^ 8) ∧
        (bit r.2 29 = bit y.2 29) ∧ (bit r.2 30 = true ↔ bit y.2 30 = true ∨ bit y.2 28 = true ∨
          8 < x.2 / 2 ^ 20 % 2 ^ 4 + y.2 / 2 ^ 20 % 2 ^ 4))) ∧
    (let m := mappingLanes s.thr a; let hit := fun (x : Nat × Nat) => mapV x && mapStart x = v;
      mayRun (.asel d a b) s → v < 2 ^ 16 →
      (∀ x, m.find? hit = some x → exec (.asel d a b) s = .next ((s.setV d (ofLanes
        ([BitVec.ofNat 32 (m.findIdx hit), BitVec.ofNat 32 x.1, BitVec.ofNat 32 x.2] ++ List.replicate 13 0))).passed 16)) ∧
      (m.find? hit = none → exec (.asel d a b) s = .next ((s.setV d (ofLanes
        ([BitVec.allOnes 32, 0, BitVec.ofNat 32 (2 ^ 30)] ++ List.replicate 13 0))).passed 16))) ∧
    (mayRun (.asel d a b) s → s.hasHandler → 2 ^ 16 ≤ v → trapsWith .operand s (exec (.asel d a b) s))

/-- R185, R203, R204. -/
def Obligations.AutomatonMasksAndImages : Prop :=
  ∀ (s u v : State) (g : Fin 8) (x : LaneGroup) (d b : Reg) (p : PReg) (l h : List Byte), let j := (s.thr.sreg b).toNat;
    let y := x.lanes.getD j Lane.zero; let user := s.engineUser s.thr.id s.thr.node; let n := ceilDiv x.img.v 512;
    let row := fun (r : List Byte) => (y.rej = true ∧ u = s ∧ r = List.replicate x.img.maskBytes 0) ∨
      (y.rej = false ∧ ∃ l, maskSegments user x (maskOff x.img y) (List.range n) [] s = .ok (l, u) ∧ r = clipRow x.img.v l);
    (∀ r, ownsGroup s g x → j < 16 → x.img.mask ≠ 0 → row r →
      (mayRun (.aforce d b g) s → exec (.aforce d b g) s =
        .next ((u.setS d (if popcount (8 * r.length) (ofBytes r) = 1 then BitVec.ofNat 64 (lowestBit (8 * r.length) (ofBytes r))
          else BitVec.allOnes 64)).passedWithin (8 + n) (8 + 1001 * n))) ∧
      (∀ v w, let put := u.engineUser u.thr.id u.thr.node; mayRun (.amask p b g) s →
        (u.thr.progress = 0 ∧ ptrAligned (u.thr.preg p) 64 = true ∧ passes (rangeThen .slot (u.thr.preg p) r.length .engWrite true u) v ∨
          0 < u.thr.progress ∧ v = u) →
        passes (maskWrites put (u.thr.preg p) (segments r) 0 v) w → w.writesOut put.who = false →
        exec (.amask p b g) s = .next (w.passedWithin (8 + n) (908 + 1001 * n)))) ∧
    (let G := effGroup s.thr g; let old := s.group (clusterOf s.thr.id.core) G;
      (∀ img hform base xout xstr i node c w, mayRun (.aload p g) s → ownsOrClaimsGroup s G c →
        yields (readThen (s.thr.preg p) 64 c) l u → parseBinding l = some (img, hform, xout, xstr) → imageNamed img hform u base w →
        yields (readThen base 64 w) h v → parseImage h = some i → v.node? v.thr.node = some node →
        (∃ x ∈ node.grants, x.base ≤ (ptrVa base).toNat ∧ (ptrVa base).toNat + i.len ≤ x.base + x.len) →
        exec (.aload p g) s = .next ((v.putGroup G { LaneGroup.zero with
          owner := some v.thr.id, base := base, img := i, xout := xout, xstr := xstr }).dropImages.passedWithin 16 1816)) ∧
      (mayRun (.aload p g) s → s.hasHandler → old.owner ≠ none → old.owner ≠ some s.thr.id →
        trapsWith .operand s (exec (.aload p g) s)))

/-- R196, R197, R199. -/
def Obligations.AutomatonStreams : Prop :=
  (∀ (s u v : State) (q : QReg) (o : Fin 16) (n : Fin 256) (g : Fin 8) (x : LaneGroup) (d : Reg), ownsGroup s g x →
    s.qOk (s.thr.qreg q) = true → qRole (s.thr.qreg q) = 1 → passes (areaThen (qBase (s.thr.qreg q)) s) u →
    let held := fun (j : StreamJob) (t : State) =>
      (Host.Outcome.next { t with thr := { t.thr with wait := .stream j, nextIssue := t.clock + 8 } } : Out);
    (mayRun (.astep false o q n g) s → exec (.astep false o q n g) s = held (u.newStream (.astep false o q n g) (effGroup s.thr g) q none n.val none) u) ∧
    (mayRun (.astep true o q n g) s → u.qOk (u.thr.qreg o) = true → qRole (u.thr.qreg o) = 2 →
      passes (areaThen (qBase (u.thr.qreg o)) u) v →
      exec (.astep true o q n g) s = held (v.newStream (.astep true o q n g) (effGroup s.thr g) q (some o) n.val none) v) ∧
    (mayRun (.astepx d q n g) s → 4 * n.val ≤ x.xstr → passes (areaThen x.xout u) v →
      let runs := (x.lanes.zip (laneNats (v.thr.vreg d))).map (fun p => runLane x.img p.1 p.2);
      exec (.astepx d q n g) s = held (v.newStream (.astepx d q n g) (effGroup s.thr g) q none n.val (some (d, runs)))
        (v.putGroup (effGroup s.thr g) { x with lanes := (x.lanes.zip runs).map (fun p =>
          if p.2.ran then { p.1 with state := p.2.start, rej := false } else p.1) }))) ∧
  (∀ (s : State) (j : StreamJob), s.thr.wait = .stream j → s.thr.run ≠ .vacant →
    (∀ n, s.node? s.thr.node = some n → s.shut n = false) → j.pendingOut = [] →
    let x := s.group (clusterOf s.thr.id.core) j.group; let user := s.engineUser s.thr.id s.thr.node; let q := s.thr.qreg j.qin;
    (j.done = j.n → j.resumed = false → (j.qout = none ∨ j.outFill = 0) → let t := (s.writeRun j x).pulseSource s.thr.id 3;
      let least := j.paced + 8 + ceilDiv x.img.t 16 * t.cycles (blindSteps j).1 (blindSteps j).2;
      exec (.streamSymbol s.thr.id) s =
        .next (State.passedAt (max (max t.thr.nextIssue least) t.clock + t.used.cycles 0 900) t.used.used)) ∧
    (∀ h t l u ms v, j.done < j.n → j.paced ≤ s.clock → j.qout = none → j.run = none → j.acquired = true →
      s.engineRead user (qBase q) 4 = .done h t → 1 ≤ filledSlots q (ofBytes h) →
      t.engineRead user (adv (ringSlot q (qPos q)) (x.icur : Nat)) (symbolBytes x.img) = .done l u →
      (x.img.token = false ∨ ofBytes l < min (2 ^ 18) x.img.v) →
      laneMoves user x (x.lanes.map (fun y => (y, some (ofBytes l)))) [] u = .ok (ms, v) → overflowing ms = none →
      x.icur + symbolBytes x.img < 64 → v.thr = s.thr →
      exec (.streamSymbol s.thr.id) s = .next
        { v.setGroup (clusterOf s.thr.id.core) j.group { x with lanes := movedLanes x.lanes ms, icur := x.icur + symbolBytes x.img }
          with thr := { s.thr with wait := .stream { j with port := none, done := j.done + 1, paced := v.clock + 1 } } }))

namespace Sys2Proof.Machine

/-- The directory operation of the executing slot may be performed: it holds fewer than 256 records, and it is the slot's turn
(R283, R289). -/
def dirReady (u : State) : Prop := u.dirTurn (.slot u.thr.id) = true

/-- The state in which the operation is performed: the slot does not stand in the queue any more. -/
def dirAt (u : State) : State := u.dirEntered

/-- A DIRECTORY trap with a reason (R213). -/
def directoryTrap (reason : Nat) (s : State) (o : Out) : Prop :=
  o = .next (s.trapped .directory 0 (BitVec.ofNat 64 reason))

/-- The 16 bytes of a name have been read at a pointer, and its reserved byte is 0 (R213). -/
def readsName (p : DWord) (s : State) (name : Nat) (u : State) : Prop :=
  ∃ l, yields (readThen p 16 s) l u ∧ ofBytes l = name ∧ name / 2 ^ 120 % 2 ^ 8 = 0

end Sys2Proof.Machine

/-- R214. -/
def Obligations.DirectoryBindings : Prop :=
  (∀ (s u v w : State) (a b : PReg) (r : Reg) (name : Nat) (d : Desc), passes (releaseThen .dv s) u → dirReady u → let q := dirAt u;
    let may := fun (t : State) => mayBind (t.dir.grant (nameNs name)) t.thr.asid t.thr.world = true;
    (mayRun (.tbind a b) s → readsName (q.thr.preg a) q name v → may v → yields (descThen (v.thr.preg b) v) d w →
      let l : List BindEntry := [{ name := name, desc := some (w.thr.preg b, d) }];
      bindOverflow w l = none → exec (.tbind a b) s = .next ((w.bindAll l).passedWithin 8 700)) ∧
    (mayRun (.tunbind a) s → readsName (q.thr.preg a) q name v → may v →
      exec (.tunbind a) s = .next ((v.bindAll [{ name := name, desc := none }]).passedWithin 8 700)) ∧
    (∀ l, let n := (q.thr.sreg r).toNat; mayRun (.tbindm a r) s → 1 ≤ n → n ≤ 16 →
      yields (fun k => entriesThen (q.thr.preg a) n 0 q [] k) l v → bindOverflow v l = none →
      exec (.tbindm a r) s = .next ((v.bindAll l).passedWithin 8 (700 + 40 * n))) ∧
    (mayRun (.tbind a b) s → readsName (q.thr.preg a) q name v → ¬ may v → v.hasHandler → directoryTrap 4 v (exec (.tbind a b) s)) ∧
    (mayRun (.tunbind a) s → readsName (q.thr.preg a) q name v → ¬ may v → v.hasHandler →
      directoryTrap 4 v (exec (.tunbind a) s)) ∧
    (let n := (q.thr.sreg r).toNat; mayRun (.tbindm a r) s → n = 0 ∨ 16 < n → q.hasHandler →
      trapsWith .operand q (exec (.tbindm a r) s))) ∧
  (∀ (s : State) (name : Nat) (p : DWord) (d : Desc), s.dir.waits = [] → s.dir.lookup name = none →
    ∃ i, (s.bindOne { name := name, desc := some (p, d) }).dir.lookup name = some i ∧
      ((s.bindOne { name := name, desc := some (p, d) }).dir.obj? i).map (fun o => (o.bound, o.fmt, o.dims, o.extents, o.len, o.desc, o.offsets))
        = some (true, d.fmt, d.dims, d.extents, d.len, p, d.offsets)) ∧
  (∀ (s : State) (name m : Nat), let t := s.bindAll [{ name := name, desc := none }];
    t.dir.lookup name = none ∧ (m ≠ name → t.dir.lookup m = s.dir.lookup m) ∧ t.mem = s.mem ∧ t.thr = s.thr)

/-- R215 with R292 and R37. -/
def Obligations.DirectoryOpens : Prop :=
  (∀ (s v : State) (d b : Reg) (a : PReg) (name : Nat), dirReady s → let q := dirAt s; let t := (s.thr.sreg b).toNat;
    let given := fun (n : Nat) (x : DWord) (u : State) => ((u.setS d x).acquire u.thr.id.core .dv).passedWithin 8 n;
    readsName (q.thr.preg a) q name v →
    (mayOpen (v.dir.grant (nameNs name)) v.thr.asid v.thr.world = true →
      (∀ obj h dir, v.dir.lookup name = some obj → v.dir.allocate obj v.thr.asid = some (h, dir) →
        (mayRun (.topen d a) s → exec (.topen d a) s = .next (given 700 h (v.withDir dir))) ∧
        (mayRun (.topenw d a b) s → t < 2 ^ 32 → exec (.topenw d a b) s = .next (given (if t = 0 then 700 else 8) h (v.withDir dir)))) ∧
      (v.dir.lookup name = none →
        (mayRun (.topen d a) s → exec (.topen d a) s = .next (given 700 0 v)) ∧
        (mayRun (.topenw d a b) s → t = 0 → exec (.topenw d a b) s = .next (given 700 0 v)) ∧
        (mayRun (.topenw d a b) s → 0 < t → t < 2 ^ 32 → v.nameWaits.length < Config.waitLimit → ∃ u,
          exec (.topenw d a b) s = .next u ∧ u.thr.wait = .name d name (v.clock + t) ∧ u.dir.waits = v.dir.waits ++
            [{ slot := v.thr.id, name := name, asid := v.thr.asid, world := v.thr.world }] ∧ u.mem = v.mem ∧ u.thr.ws = v.thr.ws))) ∧
    (mayOpen (v.dir.grant (nameNs name)) v.thr.asid v.thr.world = false → v.hasHandler →
      (mayRun (.topen d a) s → directoryTrap 4 v (exec (.topen d a) s)) ∧
      (mayRun (.topenw d a b) s → t < 2 ^ 32 → directoryTrap 4 v (exec (.topenw d a b) s)))) ∧
  (∀ (d e : Directory) (obj : Nat) (asid : BitVec 16) (h : DWord) (o : ObjRec), d.allocate obj asid = some (h, e) →
    d.obj? obj = some o → obj < 2 ^ 17 → d.unused ≤ 2 ^ 20 → (∀ x ∈ d.opens, x.idx < d.unused) →
    e.check asid h = .ok { o with opens := o.opens + 1 })

/-- R215, R216 with the handle checks of R213. -/
def Obligations.DirectoryHandles : Prop :=
  (∀ (s u : State) (d a b : Reg) (i : Fin 16) (o : ObjRec),
    (mayRun (.tclose a) s → s.slotWorks s.thr.id = false → passes (releaseThen .dv s) u → dirReady u → let q := dirAt u;
      q.dir.check q.thr.asid (q.thr.sreg a) = .ok o →
      exec (.tclose a) s = .next ((q.withDir (q.dir.free ((q.thr.sreg a).toNat % 2 ^ 20))).reclaim.passedWithin 8 700)) ∧
    (dirReady s → let q := dirAt s; q.dir.check q.thr.asid (q.thr.sreg a) = .ok o →
      (mayRun (.tinfo d a i) s → i.val < 12 → exec (.tinfo d a i) s = .next ((q.setS d (infoItem o i.val)).passedWithin 8 700)) ∧
      (∀ p, mayRun (.thaddr d a b) s → extentAddr o.extents (s.thr.sreg b).toNat = some p →
        exec (.thaddr d a b) s = .next ((q.setS d p).passedWithin 8 700)) ∧
      (mayRun (.thaddr d a b) s → q.hasHandler → extentAddr o.extents (s.thr.sreg b).toNat = none →
        trapsWith .operand q (exec (.thaddr d a b) s)))) ∧
  (∀ (s u : State) (d a b : Reg) (i : Fin 16) (r : Nat),
    (dirReady s → let q := dirAt s; q.hasHandler → q.dir.check q.thr.asid (q.thr.sreg a) = .error r →
      (mayRun (.tinfo d a i) s → directoryTrap r q (exec (.tinfo d a i) s)) ∧
      (mayRun (.thaddr d a b) s → directoryTrap r q (exec (.thaddr d a b) s))) ∧
    (mayRun (.tclose a) s → s.slotWorks s.thr.id = false → passes (releaseThen .dv s) u → dirReady u → let q := dirAt u;
      q.hasHandler → q.dir.check q.thr.asid (q.thr.sreg a) = .error r → directoryTrap r q (exec (.tclose a) s))) ∧
  (∀ (d : Directory) (asid : BitVec 16) (h : DWord), let n := h.toNat; let e := d.opens.find? (fun o => o.idx = n % 2 ^ 20);
    (n / 2 ^ 61 ≠ 0 → d.check asid h = .error 2) ∧
    (n / 2 ^ 61 = 0 → (∀ o, e = some o → o.obj ≠ some (n / 2 ^ 44) ∨ o.gen.toNat ≠ n / 2 ^ 20 % 2 ^ 24) → d.check asid h = .error 1) ∧
    (∀ o, n / 2 ^ 61 = 0 → e = some o → o.obj = some (n / 2 ^ 44) → o.gen.toNat = n / 2 ^ 20 % 2 ^ 24 → o.asid ≠ asid →
      d.check asid h = .error 3)) ∧
  (∀ (o : ObjRec) (l : List (DWord × Nat)) (p : DWord) (len n : Nat),
    infoItem o 0 = o.fmt ∧ infoItem o 8 = BitVec.ofNat 64 o.len ∧ infoItem o 10 = BitVec.ofNat 64 o.opens ∧
    (n < len → extentAddr ((p, len) :: l) n = some (adv p (n : Nat))) ∧ extentAddr ((p, len) :: l) (len + n) = extentAddr l n)

namespace Sys2Proof.Machine

/-- 64 bytes of a record have been read at their home under the checks of R124. -/
def recordRead (p : DWord) (s : State) (r : LaneReq) (l : List Byte) (u : State) : Prop :=
  ∀ body, homeReadThen p 64 s body = body r l u

/-- No work of the slot is left that NEND waits for (R219). -/
def nendIdle (s : State) : Prop :=
  s.jobs.any (fun j => j.2.any (fun x => x.slot = s.thr.id)) = false ∧
    ∀ c ∈ s.cancelArmed.cmds, c.slot = s.thr.id → c.node = s.thr.node → ∃ n, c.st = .held n

end Sys2Proof.Machine

/-- R218 to R220, R327. -/
def Obligations.NodeWords : Prop :=
  (∀ (s u v w : State) (d : Reg) (a : PReg) (r q : LaneReq) (l m : List Byte), mayRun (.spawn d a) s → s.thr.progress = 0 →
    passes (releaseThen .dv s) u → recordRead (u.thr.preg a) u r l v → recordRead (adv (u.thr.preg a) 64) v q m w →
    let record := checkRecord (w.thr.status.priv = 0) w.thr.world w.thr.asid (l ++ m) (u.thr.preg a);
    let id : BitVec 32 := if w.nextNode = 0 then 1 else w.nextNode;
    (∀ n x y, record = .ok n → w.poolFull (dieOf w.thr.id.core) = false →
      w.hardwareWrite (.slot w.thr.id) (clusterOf w.thr.id.core) w.thr.world { q with home := q.home.plus 8, n := 8 }
        (toBytes 8 id.toNat) = .done x y →
      let t := y.admitNode (dieOf w.thr.id.core) n;
      (t.writesOut (.slot t.thr.id) = false → exec (.spawn d a) s = .next ((t.setS d (id.setWidth 64)).passedWithin 8 1000)) ∧
      (t.writesOut (.slot t.thr.id) = true →
        exec (.spawn d a) s = stallFor .fence { t with thr := { t.thr with progress := id.toNat } })) ∧
    (∀ c, record = .error c → w.hasHandler → trapsWith c w (exec (.spawn d a) s))) ∧
  (∀ (s : State) (d : Reg) (a : PReg), mayRun (.spawn d a) s → s.thr.progress ≠ 0 → s.writesOut (.slot s.thr.id) = false →
    exec (.spawn d a) s = .next ((s.setS d (BitVec.ofNat 64 s.thr.progress)).passedWithin 8 1000)) ∧
  (∀ (s : State) (die : Nat) (n : Node), let t := s.admitNode die n; let id := s.nodeId.toNat;
    t.nodes = s.nodes ++ [{ n with id := id, die := die, phase := if s.poolFull die then .deferred else .leasing }] ∧
    t.nextNode = s.nodeId + 1 ∧ (s.poolFull die = false → id ∈ (t.die die).pool) ∧ (s.poolFull die = true → id ∈ (t.die die).deferred)) ∧
  (∀ (s u : State), mayRun .nend s →
    (isTransform s.thr.id = false → nendIdle s → passes (releaseThen .dv s.cancelArmed) u → ∃ t,
      exec .nend s = .next t ∧ t.thr.run = .ended ∧ t.thr.ws = u.thr.ws ∧ t.mem = u.mem ∧
        ∀ n ∈ u.nodes, n.id = u.thr.node → ∃ x ∈ t.nodes, x.id = n.id ∧ x.members =
          n.members.map (fun y => if y.id = u.thr.id then { y with ended := true } else y)) ∧
    (isTransform s.thr.id = true → (s.thr.sreg 3).toNat ≤ 64 * s.readHome (ownLm s.thr.id 0x5800) 4 →
      (s.thr.sreg 3).toNat ≤ s.routineB →
      exec .nend s = .next { s with thr := { s.thr.done s.clock with run := .ended } })) ∧
  (∀ (s : State) (a : Reg), mayRun (.nwait a) s →
    ((∀ n, s.node? (s.thr.sreg a).toNat = some n → n.unreported = false) →
      exec (.nwait a) s = .next ((s.acquire s.thr.id.core .dv).passed 8)) ∧
    (∀ n, s.node? (s.thr.sreg a).toNat = some n → n.unreported = true → exec (.nwait a) s = stallFor .node s))

/-- R221, R222. -/
def Obligations.BarriersAndVotes : Prop :=
  (∀ (s u : State) (a : Reg) (c : Fin 16), mayRun (.barr a c) s → let n := (s.thr.sreg a).toNat; let cl := clusterOf s.thr.id.core;
    let b := s.barrier cl c.val;
    (1 ≤ n → n ≤ 512 → (b.node = none ∨ b.node = some s.thr.node) → (b.arrived = 0 ∨ b.count = n) →
      passes (releaseThen .cl s) u →
      (b.arrived + 1 = n → ∃ t, exec (.barr a c) s = .next (((t : State).acquire u.thr.id.core .cl).passed 8) ∧
        t.thr = u.thr ∧ (t.barrier cl c.val).arrived = 0 ∧ t.others = u.others.map (fun x =>
          if clusterOf x.id.core = cl ∧ x.node = u.thr.node ∧ x.wait = .barrier c.val b.round
          then (if x.stepping = .begun then { x with wait := .stall .waitTable } else (x.done (u.clock + 8)).arrive x.following) else x)) ∧
      (b.arrived + 1 ≠ n → ∃ t, exec (.barr a c) s = .next t ∧ t.thr = { u.thr with wait := .barrier c.val b.round } ∧
        (t.barrier cl c.val).arrived = b.arrived + 1 ∧ (t.barrier cl c.val).count = n ∧ t.mem = u.mem)) ∧
    (s.hasHandler → (n = 0 ∨ 512 < n) → trapsWith .operand s (exec (.barr a c) s))) ∧
  (∀ (s : State) (all_ : Bool) (d a : Reg), let i : Instr := if all_ then .yardAll d a else .yardAny d a; mayRun i s →
    let here := s.attached;
    let r : Bool := if all_ then decide (∀ t ∈ s.thr :: here, t.sreg a ≠ 0) else decide (∃ t ∈ s.thr :: here, t.sreg a ≠ 0);
    (s.thr.role = .leader → (∀ t ∈ here, t.pc = s.thr.pc ∧ t.wait = .stall .yard ∧ t.progress = 0) → ∃ o,
      exec i s = .next (({ s with others := o }.setS d (if r then 1 else 0)).passed 16) ∧
        ∀ t ∈ here, ∃ x ∈ o, x = { t with progress := if r then 3 else 2 }) ∧
    (∀ b : Bool, s.thr.role = .follower → s.thr.progress = 2 + b.toNat →
      exec i s = .next ((s.setS d (if b then 1 else 0)).passed 16)) ∧
    (s.thr.role = .detached → exec i s = .next ((s.setS d (if s.thr.sreg a = 0 then 0 else 1)).passed 16))) ∧
  (∀ (s : State), mayRun .yardDet s →
    (s.thr.role = .follower → exec .yardDet s =
      .next (State.passed 16 { s with thr := { s.thr with role := .detached, fifo := [] } })) ∧
    (s.thr.role ≠ .follower → exec .yardDet s = .next (s.passed 16)))

/-- R219 with R309 and R367: the steps of the end of a node. That the end waits while the fault unit is full is the model's choice
(log 77); so are the order in which the steps come about and that an end begins after the cycle of its cause (log 91). -/
def Obligations.NodeEnds : Prop :=
  ∀ (s : State) (id : Nat) (n : Node), s.node? id = some n →
    let goes := fun (t : State) (f : Finishing) (p : EndStep) => exec (.nodeEnd id) s = .next (t.endAt n { f with step := p });
    let refuses := exec (.nodeEnd id) s = .refused (.eventNotEnabled "NODE_END");
    (n.ends = none →
      (∀ e, n.ending = some e → (n.endedAt ≠ s.clock → goes s { cause := some e, pc := e.pc, step := .settle, due := [] } .settle) ∧
        (n.endedAt = s.clock → refuses)) ∧
      (n.ending = none → n.allEnded = true → goes s { cause := none, pc := n.nendPc, step := .settle, due := [] } .settle) ∧
      (n.ending = none → n.allEnded = false → refuses)) ∧
    (∀ f, n.ends = some f → let gone := fun (t : State) => exec (.nodeEnd id) s = .next t ∧ t.node? id = none;
      (f.step = .settle → f.cause = none → goes (s.cancel (fun c => c.node = n.id)) f .clear) ∧
      (∀ e, f.step = .settle → f.cause = some e → s.midChunk n.id = false →
        (∀ c ∈ s.cmds, c.node = n.id → c.kind = .seal_ → c.st ≠ .queued ∧ c.st ≠ .running) →
        goes ((s.cancel (fun c => c.node = n.id)).abandonSpill n) f .clear) ∧
      (f.step = .clear → goes (s.clearNode n) f .release) ∧
      (f.step = .release → s.nodeLines n.id (fun _ => true) = false → s.nodeWrites n = false →
        ((∀ g ∈ n.grants, g.obj = none) → goes s f .status) ∧
        ((∃ g ∈ n.grants, g.obj ≠ none) → s.dirTurn (.end_ n.id) = true →
          goes ((s.dirServed (.end_ n.id)).endLeases n) f .status)) ∧
      (f.step = .status → (n.stat = 0 → goes s f .signal) ∧
        (∀ x t, n.stat ≠ 0 → s.engineWriteRange (State.nodeUser n) n.stat (toBytes 8 (n.id * 2 ^ 32 + 2 ^ 8 + (match f.cause with
          | some e => e.cause.code
          | none => 0)) ++ toBytes 8 f.pc.toNat) = .done x t → goes t f .signal)) ∧
      (f.step = .signal → s.writesOut (.node n.id) = false →
        (f.cause = none → goes (s.signalHost n) f .list) ∧
        (∀ e, f.cause = some e → s.recordsFull n = false →
          gone ((((s.signalHost n).endRecord n e).tellSessions n.id).forget n)) ∧
        (∀ e, f.cause = some e → s.recordsFull n = true → refuses)) ∧
      (f.step = .list → (n.succ = 0 → goes (s.dropGot (.node n.id)) f (.deps [])) ∧
        (∀ l t, n.succ ≠ 0 → s.engineReadRange (State.nodeUser n) n.succ 128 = .done l t →
          goes (t.dropGot (.node n.id)) f (.deps (((List.range 16).map (fun i => BitVec.ofNat 64 (wordAt l i))).takeWhile
            (fun w => w ≠ 0))))) ∧
      (f.step = .deps [] → goes s f .submit) ∧
      (∀ p l t, f.step = .deps (p :: l) → s.recordsFull n = false →
        (s.decrement n p = .done t → goes (t.dropGot (.node n.id)) f (.deps l)) ∧
        (s.decrement n p = .due t → goes (t.dropGot (.node n.id)) { f with due := f.due ++ [p] } (.deps l))) ∧
      (f.step = .submit → (f.due = [] → gone (s.forget n)) ∧
        (∀ p l t, f.due = p :: l → s.recordsFull n = false → s.submitSuccessor n p = .done t →
          goes (t.dropGot (.node n.id)) { f with due := l } .submit)))

/-- R223, R224, R272, R358. The model's choices in it: an armed command of LENGTH 0 is queued until its term is true (log 55); CTR and TERM
are checked only with CNT and ARM set (log 113). -/
def Obligations.EngineCommandWords : Prop :=
  ∀ (s u v x : State) (d a : PReg) (b : Reg) (l n r q : Bool) (k : CmdKind),
    let i : Instr := match k with
      | .cpy => .cpy d a b l n r q
      | .cpyx => .cpyx d a b l n r q
      | .seal_ => .sealOut d a b n r q;
    let cleared := l && k ≠ .seal_; let w := controlWord (s.thr.sreg b); let cl := clusterOf s.thr.id.core;
    let src := s.thr.preg a; let dst := s.thr.preg d;
    let ring := fun (p : DWord) => if k = .seal_ then none else s.fifoAt p;
    let size := s.destLen k cl w.routine w.len;
    let guard := if s.thr.status.pending 6 then some s.thr.status.hguard.toNat else none;
    let plain := s.routineOk k cl w.routine = true ∧ (w.cnt = true → s.claimedByOther (s.counter cl w.ctr).node = false) ∧
      (w.arm = true → s.claimedByOther (s.term cl w.term).node = false) ∧
      ((ring src).isSome = true ∨ (ring dst).isSome = true → w.len % 64 = 0);
    mayRun i s →
    (plain → passes (commandRanges k src dst (endLen (ring src) w.len) (endLen (ring dst) size) cleared s) u →
      passes (guardOk guard dst size u) u → passes (releaseIf r u.thr.status.scope u) v → passes (guardThen guard size v) x →
      (n = true → x.notifiesDue < 8) → x.queueFull k cl = false →
      exec i s = .next ((x.enqueue k src dst w guard cleared n q).passed 8) ∧
        ∃ c ∈ (x.enqueue k src dst w guard cleared n q).cmds, c.id = x.nextCmd ∧ c.kind = k ∧ c.src = src ∧ c.dst = dst ∧
          c.len = w.len ∧ c.tag = w.tag ∧ c.slot = x.thr.id ∧ c.node = x.thr.node ∧ c.guard = guard ∧
          c.st = if w.len = 0 ∧ w.arm = false then .finishing 0 else .queued) ∧
    (¬ plain → s.hasHandler → trapsWith .operand s (exec i s))

/-- R225 to R229, R314, R332, R358. The model's choices in it: what a reissue repeats where a ring is involved (log 58), that an early
reservation has stored nothing (log 105), and that an armed command of length 0 finishes at its start (log 55). -/
def Obligations.EngineCommandSteps : Prop :=
  (∀ (s u : State) (cl : Nat) (e : Fin 4) (c c' : Cmd) (x : Cause),
    (s.engineCmd (Cmd.ofEngine cl e.val) = some c →
      (s.chunk c = .go c' u → exec (.copyChunk cl e) s = .next (u.putCmd c')) ∧
      (s.chunk c = .fail x → c.early = false → (x ≠ .mcheck ∨ c.retried = true) →
        exec (.copyChunk cl e) s = .next (s.endCmd c x.code)) ∧
      (s.chunk c = .fail .mcheck → c.early = false → c.retried = false →
        (c.fifoSrc = false ∧ c.fifoDst = false → ∃ t, exec (.copyChunk cl e) s = .next t ∧ t.mem = s.mem ∧
          t.heldWrites = s.heldWrites.filter (fun w => w.cmd ≠ c.id) ∧
          { c with retried := true, pos := 0, buf := [], sent := 0, since := none, drained := 0, output := [], fate := none } ∈ t.cmds) ∧
        (c.fifoSrc = true ∨ c.fifoDst = true → exec (.copyChunk cl e) s =
          .next ((s.putCmd { c with retried := true, buf := if c.fifoSrc then c.buf else [] }).dropGot (.cmd c.id)))) ∧
      (s.chunk c = .fail x → c.early = true → ∃ t, exec (.copyChunk cl e) s = .next t ∧ t.mem = s.mem)) ∧
    (s.engineCmd (fun c => c.kind = .seal_) = some c →
      (s.sealStep c = .go c' u → exec .sealStart s = .next (u.putCmd c')) ∧
      (s.sealStep c = .fail x → c.early = false → (x ≠ .mcheck ∨ c.retried = true) → exec .sealStart s = .next (s.endCmd c x.code)))) ∧
  (∀ (s : State) (id : Nat) (c : Cmd), s.cmds.find? (fun c => c.id = id) = some c →
    (c.st = .queued → c.arm = true → c.termMet = true → s.cmdStopped c = false →
      (∀ y ∈ s.cmds, (if c.kind = .seal_ then decide (y.kind = .seal_) else y.ofEngine c.cl c.engine) = true →
        y.st ≠ .running ∧ (y.st = .queued → y.arm = true → y.term = c.term → y.cl = c.cl → c.id ≤ y.id)) →
      (∀ y ∈ s.cmds, y.id = id → y = c) →
      exec (.armedCommandStart id) s = .next (s.putCmd { c with st := if c.len = 0 then .finishing 0 else .running })) ∧
    (∀ code, c.st = .finishing code → s.writesOut (.cmd c.id) = false →
      (∀ y ∈ s.fabric.items, y.req ≠ .chunk c.id) → (∀ n ∈ s.nodes, n.id = c.node → n.closing = false) →
      (code = 0 ∨ c.nfy = true → exec (.commandCompletion id) s =
        .next (if c.guard.isSome then s.putCmd { c with st := .held code } else s.announce c code)) ∧
      (∀ y, causeOfCode code = some y → c.nfy = false → c.guard = none → ∃ t, exec (.commandCompletion id) s = .next t ∧
        ∀ n ∈ s.nodes, n.id = c.node → ∃ m ∈ t.nodes, m.id = n.id ∧ m.ending.isSome = true) ∧
      (c.guard = none → ∀ t, exec (.commandCompletion id) s = .next t → ∀ y ∈ t.cmds, y.id ≠ id)))

/-- R228 to R230, R272, R332. That GCOMMIT takes the trap of a home that now refuses, with none of its writes performed, is the model's
choice (log 59). -/
def Obligations.CrossbarAndGuardWords : Prop :=
  (∀ (s : State) (a b : Reg), let x := (s.thr.sreg a).toNat; let y := (s.thr.sreg b).toNat; let cl := clusterOf s.thr.id.core;
    let free := fun (o : Option Nat) => o = none ∨ o = some s.thr.node;
    (mayRun (.evcfg a b) s → x < 32 → y < 2 ^ 34 → free (s.counter cl x).node → exec (.evcfg a b) s =
      (let c : Counter := { node := some s.thr.node, value := y % 2 ^ 32, source := y / 2 ^ 32, slot := s.thr.id };
        .next ((s.setCounter cl x { c with value := min (y % 2 ^ 32 + s.pulsesOf cl x c) (2 ^ 32 - 1) }).passed 8))) ∧
    (mayRun (.evcfg a b) s → 32 ≤ x → x < 48 → free (s.term cl (x - 32)).node → exec (.evcfg a b) s = .next (State.passed 8
      { s with terms := assocSet s.terms (cl, x - 32) { node := some s.thr.node, conds := s.thr.sreg b } })) ∧
    (mayRun (.evcfg a b) s → s.hasHandler → (48 ≤ x ∨ (x < 32 ∧ 2 ^ 34 ≤ y) ∨ (x < 32 ∧ ¬ free (s.counter cl x).node) ∨
        (32 ≤ x ∧ x < 48 ∧ ¬ free (s.term cl (x - 32)).node)) → trapsWith .operand s (exec (.evcfg a b) s)) ∧
    (mayRun (.evwait a) s → 0 < x → x < 2 ^ 16 →
      ((∃ i, i < 16 ∧ bit x i = true ∧ (cl, i) ∈ s.trueTerms) →
        exec (.evwait a) s = .next ((s.acquire s.thr.id.core .dv).passed 8)) ∧
      ((∀ i, i < 16 → bit x i = true → (cl, i) ∉ s.trueTerms) → exec (.evwait a) s = stallFor .event s)) ∧
    (mayRun (.evwait a) s → s.hasHandler → (x = 0 ∨ 2 ^ 16 ≤ x) → trapsWith .operand s (exec (.evwait a) s))) ∧
  (∀ (s : State) (g : Fin 4),
    (mayRun (.gcommit g) s → (∀ c ∈ s.cmds, s.guarded g.val c = true → ∃ n, c.st = .held n) →
      (∀ w ∈ s.heldOf g.val, s.heldCheck w = .ok) → exec (.gcommit g) s =
      .next ((((s.performHeld g.val).announceHeld g.val).closeGuard g.val).passed 8)) ∧
    (∀ w, mayRun (.gcommit g) s → s.hasHandler → (∀ c ∈ s.cmds, s.guarded g.val c = true → ∃ n, c.st = .held n) →
      w ∈ s.heldOf g.val → s.heldCheck w = .refuse .wsalias → (∀ x ∈ s.heldOf g.val, s.heldCheck x = .ok ∨ x = w) →
      trapsWith .wsalias s (exec (.gcommit g) s)) ∧
    (mayRun (.gcommit g) s → (∃ c ∈ s.cmds, s.guarded g.val c = true ∧ ∀ n, c.st ≠ .held n) →
      exec (.gcommit g) s = stallFor .commit s) ∧
    (mayRun (.gdrop g) s → exec (.gdrop g) s = .next (((s.cancel (s.guarded g.val)).closeGuard g.val).passed 8)) ∧
    ((s.closeGuard g.val).thr.status.gout.getLsbD g.val = false ∧ ∀ w ∈ (s.closeGuard g.val).heldWrites,
      ¬ (w.slot = s.thr.id ∧ w.node = s.thr.node ∧ w.guard = g.val))) ∧
  (∀ (s : State) (cl i : Nat), (cl, i) ∈ s.tick.trueTerms ↔ (cl, i) ∈ s.tick.terms.map (·.1) ∧ s.tick.termTrue cl i = true)

namespace Sys2Proof.Machine

/-- The loop stack of a slot is one that words can make (R19, R110): four entries at most, none of length 0, aligned starts. -/
def loopsOk (l : List LoopEntry) : Prop := l.length ≤ 4 ∧ ∀ e ∈ l, e.len ≠ 0 ∧ e.start.extractLsb' 0 2 = 0

/-- A precise trap or a TRAP has been entered (R236): EPC, ECAUSE, EVAL, the saves, the level, the vector; registers and memory stay. -/
def entered (s : State) (cause : Nat) (epc : DWord) (u : State) : Prop :=
  u.thr.epc = epc ∧ u.thr.ecause = BitVec.ofNat 64 cause ∧ u.thr.pc = (s.thr.stvec &&& ~~~3).setWidth 55 ∧
  u.thr.status = { priv := 1, uie := false, inui := false, gout := s.thr.status.gout, hpend := 0, hdup := false, hscope := 0,
                   hguard := 0, hpromo := 0 } ∧ u.thr.pay = Payloads.zero ∧ u.thr.loops = [] ∧
  (u.thr.ws.s, u.thr.ws.p, u.thr.ws.v, u.thr.ws.q, u.thr.ws.shadow) =
    (s.thr.ws.s, s.thr.ws.p, s.thr.ws.v, s.thr.ws.q, s.thr.ws.shadow) ∧
  u.thr.ws.loopSave = saveLoops s.thr.loops ∧ u.mem = s.mem ∧ u.others = s.others ∧ u.sb = s.sb

/-- What SYSR of an index reads (R27): STATUS by R29, WP, LSTK, YST and NODE by R30, RPR0 and RPR1 by R178. -/
def sysReads (s : State) (n : Nat) (v : DWord) : Prop :=
  let t := s.thr
  let word := fun k : Nat => v = BitVec.ofNat 64 k
  let progress := fun e : Nat => match s.outstanding t.id e with
    | none => v = 0
    | some j => j.tile < 16 → 0x20 ≤ j.word.toNat / 2 ^ 26 → j.word.toNat / 2 ^ 26 ≤ 0x22 → v.getLsbD 63 = true ∧ v.extractLsb' 59 4 = BitVec.ofNat 4 j.tile ∧ v.extractLsb' 57 2 = j.word.extractLsb' 26 2 ∧
        v.extractLsb' 50 7 = j.word.extractLsb' 0 7 ∧ v.extractLsb' 32 18 = 0 ∧ v.extractLsb' 0 32 = BitVec.ofNat 32 j.done
  (n = 0x00 → v.extractLsb' 0 2 = t.status.priv ∧ v.getLsbD 2 = (t.status.hpend != 0) ∧ v.getLsbD 3 = t.status.uie ∧
    v.getLsbD 4 = t.status.inui ∧ v.extractLsb' 5 4 = t.status.gout ∧ v.extractLsb' 9 7 = t.status.hpend ∧
    v.extractLsb' 16 2 = t.status.hpromo ∧ v.extractLsb' 18 2 = t.status.hguard ∧ v.extractLsb' 20 3 = t.status.hscope ∧
    v.getLsbD 23 = t.status.hdup ∧ v.extractLsb' 24 40 = 0) ∧
  (n = 0x01 → word t.wp) ∧ (n = 0x02 → v = t.epc) ∧ (n = 0x03 → v = t.ecause) ∧ (n = 0x04 → v = t.eval) ∧
  (n = 0x05 → v = t.utvec) ∧ (n = 0x06 → v = t.uivec) ∧ (n = 0x07 → v = t.upc) ∧ (n = 0x08 → v = t.ucause) ∧
  (n = 0x09 → v = if s.protectedWorld t.world then 0 else t.stvec) ∧ (n = 0x0A → v = t.hbivl) ∧ (n = 0x0B → word t.hbcnt) ∧
  (n = 0x0C → word t.loops.length) ∧
  (n = 0x0D → word (2 ^ 8 * t.width + 2 ^ 4 * t.rank + (match t.role with | .leader => 0 | .follower => 1 | .detached => 2))) ∧
  (n = 0x0E → word (2 ^ 42 * t.kind.toNat + 2 ^ 40 * t.prio.toNat + 2 ^ 32 * t.stage.toNat + t.node)) ∧
  (n = 0x0F → v = t.asid.setWidth 64) ∧ (n = 0x10 → v = t.world.setWidth 64) ∧ (n = 0x11 → v = s.time) ∧
  (n = 0x12 → word (s.time.toNat / s.windowNs)) ∧ (n = 0x13 → progress 0) ∧ (n = 0x14 → progress 1) ∧
  (n = 0x15 → v = t.mrstl) ∧ (n = 0x16 → v = t.savea)

/-- SYSW STATUS has written UIE: the other live bits, registers and memory stay (R231). -/
def wroteUie (v : DWord) (s t : State) : Prop :=
  t.thr.status.uie = v.getLsbD 3 ∧ (t.thr.status.priv, t.thr.status.inui, t.thr.status.gout) =
    (s.thr.status.priv, s.thr.status.inui, s.thr.status.gout) ∧
  (t.thr.ws.s, t.thr.ws.p, t.thr.ws.v, t.thr.ws.q) = (s.thr.ws.s, s.thr.ws.p, s.thr.ws.v, s.thr.ws.q) ∧ t.mem = s.mem

/-- SYSW STATUS at supervisor level keeps of the saved hints those whose bit in the word is 1, and no others (R231). -/
def savedHints (v : DWord) (w u : Workspace) : Prop :=
  u.statusSave.extractLsb' 9 7 = w.statusSave.extractLsb' 9 7 &&& v.extractLsb' 9 7 ∧
  u.statusSave.getLsbD 2 = (w.statusSave.extractLsb' 9 7 &&& v.extractLsb' 9 7 != 0) ∧
  u.statusSave.extractLsb' 20 3 = (if v.getLsbD 11 then w.statusSave.extractLsb' 20 3 else 0) ∧
  u.statusSave.extractLsb' 16 2 = (if v.getLsbD 13 then w.statusSave.extractLsb' 16 2 else 0) ∧
  u.statusSave.extractLsb' 18 2 = (if v.getLsbD 14 then w.statusSave.extractLsb' 18 2 else 0) ∧
  u.statusSave.getLsbD 23 = (w.statusSave.getLsbD 23 && v.getLsbD 23) ∧
  u.statusSave.extractLsb' 0 2 = w.statusSave.extractLsb' 0 2 ∧ u.statusSave.extractLsb' 3 6 = w.statusSave.extractLsb' 3 6 ∧
  u.statusSave.extractLsb' 24 40 = w.statusSave.extractLsb' 24 40 ∧
  u.himmSave = (if v.getLsbD 9 then w.himmSave else 0) ∧ u.hfmtSave = (if v.getLsbD 10 then w.hfmtSave else 0) ∧
  u.hrealSave = (if v.getLsbD 12 then w.hrealSave else 0) ∧ u.loopSave = w.loopSave ∧ u.shadow = w.shadow

end Sys2Proof.Machine

/-- R236 for TRAP, for the faults of R66 and for the privilege faults of R67. That a PC taken from STVEC drops the bits [63:55]
and [1:0] is the model's deduction (log 23). -/
def Obligations.TrapEntries : Prop :=
  (∀ (s : State) (c : Fin 256), s.hasHandler → mayRun (.trap c) s → ∃ u, exec (.trap c) s = .next u ∧
    entered s Cause.trapi.code ((s.thr.pc + 4).setWidth 64) u ∧ u.thr.eval = BitVec.ofNat 64 c.val ∧
    u.thr.ws.statusSave = s.thr.status.clearHints.toWord) ∧
  (∀ (s : State) (w : Word) (r : DecodeError), s.hasHandler → decode w = .error r → ∃ u, exec (.illegalWord w) s = .next u ∧
    entered s Cause.illegal.code (s.thr.pc.setWidth 64) u ∧ u.thr.eval = w.setWidth 64 ∧
    (w.toNat / 2 ^ 26 = 0x3F → u.thr.ws.statusSave = s.thr.status.toWord) ∧
    (w.toNat / 2 ^ 26 ≠ 0x3F → u.thr.ws.statusSave = s.thr.status.clearHints.toWord)) ∧
  (∀ (s : State) (i : Instr), s.hasHandler → i.hasWord = true → (encode i).toNat / 2 ^ 26 ≠ 0x3F →
    hintFault i s.thr.status = true → ∃ u, exec i s = .next u ∧ entered s Cause.illegal.code (s.thr.pc.setWidth 64) u ∧
    u.thr.eval = (encode i).setWidth 64 ∧ u.thr.ws.statusSave = s.thr.status.clearHints.toWord) ∧
  (∀ (s : State) (r : Reg) (n : Fin 256) (i : Instr), s.hasHandler → s.thr.status.priv = 0 → mayRun i s →
    (i = .eret ∨ i = .halt ∨ (i = .sysr r n ∧ n.val ∈ [0x02, 0x03, 0x04, 0x09]) ∨
      (i = .sysw r n ∧ n.val ∈ [0x02, 0x03, 0x04, 0x09, 0x0A, 0x0F, 0x16])) →
    ∃ u, exec i s = .next u ∧ entered s Cause.priv.code (s.thr.pc.setWidth 64) u)

/-- R238 after R236 and R237. That the PC of ERET drops the bits [63:55] and [1:0] of EPC (pcOf) is the model's deduction (log 23). -/
def Obligations.ReturnsRestoreEntries : Prop :=
  (∀ (s : State) (t : Thread) (c : Cause) (cls : BitVec 8) (v e vec : DWord) (due : Nat), loopsOk t.loops → t.status.priv.toNat ≤ 1 →
    let back := fun (dest : VAddr) (u : State) => u.thr.status = t.status ∧ u.thr.pay = t.pay ∧
      (u.thr.loops, u.thr.pc) = backEdge t.loops dest ∧ (∀ r, u.thr.sreg r = t.sreg r) ∧
      (u.thr.ws.p, u.thr.ws.v, u.thr.ws.q) = (t.ws.p, t.ws.v, t.ws.q) ∧ u.mem = s.mem;
    (s.thr = t.enterTrap c cls v e vec due → mayRun .eret s → ∃ u, exec .eret s = .next u ∧ back (pcOf e) u) ∧
    (∀ at_ : VAddr, t.status.inui = false → at_.extractLsb' 0 2 = 0 → s.thr = t.enterUser at_ v vec due → mayRun .uret s →
      ∃ u, exec .uret s = .next u ∧ back at_ u)) ∧
  (∀ (s : State), s.hasHandler →
    (mayRunAt 1 .eret s → (savedStatusBad s.thr = true ∨ loadLoops s.thr.ws.loopSave = none) → trapsWith .operand s (exec .eret s)) ∧
    (mayRun .uret s → s.thr.status.inui = false → trapsWith .operand s (exec .uret s)))

/-- R27 to R30, R231, R232; RPR0 and RPR1 as R178 has them. -/
def Obligations.SystemRegisters : Prop :=
  (∀ (s : State) (d : Reg) (n : Fin 256), n.val ≤ 0x16 → mayRun (.sysr d n) s →
    (n.val ∈ [0x02, 0x03, 0x04, 0x09] → 1 ≤ s.thr.status.priv.toNat) →
    ∃ v, exec (.sysr d n) s = .next ((s.setS d v).passed 8) ∧ sysReads s n.val v) ∧
  (∀ (s : State) (d : Reg) (n : Fin 256), s.hasHandler → 0x16 < n.val →
    exec (.sysr d n) s = .next (s.trapped .illegal 0 ((encode (.sysr d n)).setWidth 64))) ∧
  (∀ (s : State) (a : Reg) (n : Fin 256), mayRunAt 1 (.sysw a n) s → let v := s.thr.sreg a;
    (n.val ∈ [0x02, 0x03, 0x04, 0x05, 0x06, 0x07, 0x08, 0x15, 0x16] ∨ (n.val = 0x09 ∧ s.protectedWorld s.thr.world = false) ∨
      (n.val = 0x0A ∧ 2 ^ 12 ≤ v.toNat ∧ v.toNat ≤ 2 ^ 32) →
      ∃ t, exec (.sysw a n) s = .next t ∧ sysReads t n.val v ∧ t.mem = s.mem ∧ t.thr.ws.s = s.thr.ws.s ∧
        t.thr.ws.statusSave = if n.val = 0x02 ∨ n.val = 0x07 then s.thr.ws.statusSave &&& ~~~0xFFFE04 else s.thr.ws.statusSave) ∧
    (n.val = 0x0F → ∃ t, exec (.sysw a n) s = .next t ∧ sysReads t 0x0F ((v.setWidth 16).setWidth 64) ∧ t.mem = s.mem) ∧
    (n.val = 0x00 → ∃ t, exec (.sysw a n) s = .next t ∧ wroteUie v s t ∧ savedHints v s.thr.ws t.thr.ws) ∧
    (n.val = 0x0A → s.hasHandler → (v.toNat < 2 ^ 12 ∨ 2 ^ 32 < v.toNat) → trapsWith .operand s (exec (.sysw a n) s))) ∧
  (∀ (s : State) (a : Reg) (n : Fin 256), mayRun (.sysw a n) s → s.thr.status.priv = 0 → let v := s.thr.sreg a;
    (n.val ∈ [0x05, 0x06, 0x07, 0x08, 0x15] → ∃ t, exec (.sysw a n) s = .next t ∧ sysReads t n.val v ∧ t.mem = s.mem ∧
      t.thr.ws.s = s.thr.ws.s) ∧
    (n.val = 0x00 → ∃ t, exec (.sysw a n) s = .next t ∧ wroteUie v s t ∧ t.thr.ws = s.thr.ws)) ∧
  (∀ (s : State) (a : Reg) (n : Fin 256), s.hasHandler →
    n.val ∈ [0x01, 0x0B, 0x0C, 0x0D, 0x0E, 0x10, 0x11, 0x12, 0x13, 0x14] ∨ 0x16 < n.val →
    exec (.sysw a n) s = .next (s.trapped .illegal 0 ((encode (.sysw a n)).setWidth 64))) ∧
  (∀ (s : State) (a : Reg), mayRun (.swpwp a) s → let v := (s.thr.sreg a).toNat;
    (s.wpBad v = false → s.badAt (.lm s.thr.id.core v) Config.wsBytes = false → ∃ t, exec (.swpwp a) s = .next t ∧ t.thr.wp = v ∧
      t.thr.ws = (s.moveWorkspace v).thr.ws ∧ t.mem = (s.moveWorkspace v).mem) ∧
    (s.hasHandler → s.wpBad v = true → exec (.swpwp a) s = .next (s.trapped .align wsplace (s.thr.sreg a))))

/-- R231, R233 to R235. That HALT with a line of its core high goes on after 8 cycles (log 82), and that WMON checks its pointer as
LD.B would (log 115), are the model's deductions. -/
def Obligations.SlotWords : Prop :=
  (∀ (s : State) (d a : Reg) (k : Fin 256),
    (mayRun (.rdtime d) s → exec (.rdtime d) s = .next ((s.setS d s.time).passed 8)) ∧
    (mayRun (.rdwin d) s → exec (.rdwin d) s = .next ((s.setS d (BitVec.ofNat 64 s.windowNow)).passed 8)) ∧
    (let n := (s.win k.val).toNat; mayRun (.permix d a k) s → windowOk s k.val 3 → (s.thr.sreg a).toNat < n → n ≤ 2 ^ 48 →
      ∃ v cost, exec (.permix d a k) s = .next ((s.setS d (BitVec.ofNat 64 v)).passed cost) ∧ v < n) ∧
    (s.hasHandler → mayRun (.permix d a k) s → 253 < k.val → trapsWith .operand s (exec (.permix d a k) s))) ∧
  (∀ (s : State),
    (mayRun .hbeat s → s.thr.role ≠ .leader → exec .hbeat s =
      .next (State.passed 8 { s with thr := { s.thr with hbcnt := 0, hbMet := false } })) ∧
    (mayRun .hbeat s → s.thr.role = .leader → isTransform s.thr.id = false → ∃ o, exec .hbeat s =
      .next (State.passed 8 { s with others := o, thr := { s.thr with hbcnt := 0, hbMet := false } }) ∧ o = s.others.map (fun t =>
        if t.node = s.thr.node ∧ t.role = .follower ∧ t.run ≠ .ended then { t with hbcnt := 0, hbMet := false } else t)) ∧
    (mayRunAt 1 .halt s → s.lineHigh s.thr.id.core = false → exec .halt s =
      .next { s with thr := { (s.thr.done s.clock).arrive s.thr.following with run := .halted } }) ∧
    (mayRunAt 1 .halt s → s.lineHigh s.thr.id.core = true → exec .halt s = .next (s.passed 8)) ∧
    (mayRun .spill s → s.thr.savea ≠ 0 → ∃ t, exec .spill s = .next t ∧ s.thr.id ∈ t.spillQueue ∧ t.thr.wait = .spill ∧
      t.thr.ws = s.thr.ws ∧ (t.thr.loops, t.thr.pc) = backEdge s.thr.loops (s.thr.pc + 4) ∧ t.mem = s.mem) ∧
    (s.hasHandler → mayRun .spill s → s.thr.savea = 0 → trapsWith .operand s (exec .spill s)) ∧
    (∀ m, mayRun .wfe s → (s.thr.monitor = none → exec .wfe s = .next (s.passed 8)) ∧
      (s.thr.monitor = some m → m.tripped = true → exec .wfe s =
        .next ((({ s with thr := { s.thr with monitor := none } } : State).acquire s.thr.id.core .dv).passed 8)) ∧
      (s.thr.monitor = some m → m.tripped = false → exec .wfe s = .next { s with thr := { s.thr with wait := .monitor } }))) ∧
  (∀ (s u : State) (a : PReg) (r : LaneReq), mayRun (.wmon a) s → yields (accessThen (s.thr.preg a) 1 .load s) r u →
    exec (.wmon a) s = .next (State.passed 8
      { u with thr := { u.thr with monitor := some { ptr := u.thr.preg a, line := r.home.line, tripped := false } } }))

/-- R21, R62. -/
def Obligations.HintWords : Prop :=
  ∀ (s : State) (p : Fin 4194304) (t : Fin 8) (a b o : Fin 13) (f g : Fin 4) (x : Bool) (sc : Scope),
    let goes := fun (i : Instr) (n : Nat) (val : State → Prop) => ∃ u, exec i s = .next u ∧
      (n ≠ 0 → u.thr.status.pending n = true ∧ u.thr.status.hdup = (s.thr.status.hdup || s.thr.status.pending n)) ∧
      (∀ k, 1 ≤ k → k ≤ 7 → k ≠ n → u.thr.status.pending k = s.thr.status.pending k) ∧ val u ∧
      (n ≠ 1 → u.thr.pay.himm = s.thr.pay.himm) ∧ (n ≠ 2 → u.thr.pay.hfmt = s.thr.pay.hfmt) ∧
      (n ≠ 4 → u.thr.pay.hreal = s.thr.pay.hreal) ∧ (n ≠ 3 → u.thr.status.hscope = s.thr.status.hscope) ∧
      (n ≠ 5 → u.thr.status.hpromo = s.thr.status.hpromo) ∧ (n ≠ 6 → u.thr.status.hguard = s.thr.status.hguard) ∧
      (u.thr.status.priv, u.thr.status.uie, u.thr.status.inui, u.thr.status.gout) =
        (s.thr.status.priv, s.thr.status.uie, s.thr.status.inui, s.thr.status.gout) ∧
      u.thr.ws = s.thr.ws ∧ (u.thr.loops, u.thr.pc) = backEdge s.thr.loops (s.thr.pc + 4) ∧ u.mem = s.mem ∧
      u.thr.nextIssue = s.clock + 8;
    goes (.hnop p) 0 (fun u => u.thr.status.hdup = s.thr.status.hdup) ∧
    goes (.hintType8to15 t p) 0 (fun u => u.thr.status.hdup = s.thr.status.hdup) ∧
    goes (.himm p) 1 (fun u => u.thr.pay.himm.toNat = p.val) ∧
    goes (.hfmt a b o f x) 2 (fun u =>
      u.thr.pay.hfmt.toNat = 2 ^ 17 * a.val + 2 ^ 12 * b.val + 2 ^ 7 * o.val + 2 ^ 5 * f.val + 2 ^ 4 * x.toNat) ∧
    goes (.hscope sc) 3 (fun u => u.thr.status.scope = sc) ∧
    goes (.hrealign p) 4 (fun u => u.thr.pay.hreal.toNat = p.val ∧ u.thr.realigned = false) ∧
    goes (.hpromo f) 5 (fun u => u.thr.status.hpromo.toNat = f.val) ∧
    goes (.hguard g) 6 (fun u => u.thr.status.hguard.toNat = g.val) ∧
    goes .hnt 7 (fun _ => True)

namespace Sys2Proof.Machine

/-- The step of a unit on the thread of another slot is over: the slot in focus is the one that was. -/
def State.refocus (s u : State) : State := (u.focus s.thr.id).getD u

/-- The node of the thread in focus has no end in progress (R219, R367). -/
def nodeLives (s : State) : Prop := ∀ n, s.node? s.thr.node = some n → n.ending = none ∧ n.ends = none

/-- A slot waits for a ring's count: in the wait itself, or held at its QWAIT or QRSV before it has read the count (R48). -/
def ringWaits (t : Thread) : Prop := (∃ q n w, t.wait = .ring q n w) ∨ t.stalledRing = true

/-- A message for this package: it is not forwarded (R336), and no host has to answer a snoop for its line (R341). -/
def forUs (s : State) (m : Message) : Prop := m.pkg = s.fabric.pkgid ∧ s.awaitsHosts none (m.pa.toNat / 64 * 64) 64 = false

/-- A waiting node has left for its slots (R263, R266): a resuming one for those it had; a READY one for one slot index of as many
cores of its kind of one cluster of its die as it is wide, where that slot was free and not reserved for another node, the ranks in
ascending order of the cores. -/
def leftFor (s t : State) (n : Node) : Prop :=
  n.id ∉ (t.die n.die).pool ∧ ∃ m ∈ t.nodes, m.id = n.id ∧ m.phase = .placed ∧ (n.resumes = true → m.members = n.members) ∧
    (n.resumes = false → m.launchedAt = s.clock ∧ m.members.length = n.width ∧
      (m.members.map (fun x => x.id.core)).Pairwise (· < ·) ∧ ∃ cl slot, cl / 16 = n.die ∧ slot < 8 ∧
        s.reservedByOther n.die n.id cl slot = false ∧ ∀ x ∈ m.members, x.ended = false ∧ x.spilled = false ∧ x.id.slot = slot ∧
          clusterOf x.id.core = cl ∧ s.isService x.id.core = n.service ∧ s.slotFree x.id = true)

/-- A register of control space keeps the bits of a store that its mask has, and reads as them; nothing else of the machine's memory
and slots changes (R305, R320, R334). -/
def keepsStore (s : State) (pa : Nat) (mask v : DWord) : Prop :=
  ∃ t, exec (.registerWrite pa v) s = .next t ∧ (t.ctlRead pa).1 = v &&& mask ∧ t.mem = s.mem ∧ t.thr = s.thr ∧ t.others = s.others

/-- What SPILLREQ asks of a running node whose members have save areas (R310): each member that runs and has not been asked yet stands
in the spill engine's queue, and one that has executed NEND leaves its slot, its tiles and its lane groups. -/
def spillAskedOf (s t : State) (n : Node) : Prop :=
  let going := fun (m : Member) => m.ended = false ∧ m.spilled = false ∧ m.id ∉ n.spillAsked
  (∃ m ∈ n.members, going m) → t.mem = s.mem ∧ (∀ m ∈ n.members, going m → m.id ∈ t.spillQueue) ∧
    (∃ k ∈ t.nodes, k.id = n.id ∧ ∀ m ∈ n.members, going m → m.id ∈ k.spillAsked) ∧
    ∀ m ∈ n.members, m.ended = true → (∃ x, s.thread? m.id = some x ∧ x.node = n.id) → t.thread? m.id = none ∧
      (∀ x ∈ t.tiles, x.2.owner ≠ some m.id) ∧ ∀ x ∈ t.groups, x.2.owner ≠ some m.id

/-- What a store to RELASID leaves (R283, R292): nothing for a value of more than 16 bits; else every open of the address space is
closed, its generation one higher and its entry on the free list, the opens of others stay, and no object stands that is neither bound,
open nor leased. -/
def relasidDone (s t : State) (v : DWord) : Prop :=
  (2 ^ 16 ≤ v.toNat → t = s) ∧ (v.toNat < 2 ^ 16 → t.mem = s.mem ∧ (∀ o ∈ t.dir.opens, o.asid.toNat = v.toNat → o.obj = none) ∧
    (∀ o ∈ s.dir.opens, o.asid.toNat = v.toNat → o.obj.isSome = true →
      (∃ p ∈ t.dir.opens, p.idx = o.idx ∧ p.gen = o.gen + 1 ∧ p.obj = none) ∧ o.idx ∈ t.dir.freed) ∧
    (∀ o ∈ s.dir.opens, (∀ q ∈ s.dir.opens, q.idx = o.idx → q.asid.toNat ≠ v.toNat) → o ∈ t.dir.opens) ∧
    ∀ k ∈ t.dir.objs, k.bound = true ∨ k.opens ≠ 0 ∨ k.leases ≠ 0)

/-- What a store to a word of a grant entry leaves (R284, R293): the entry with its reserved bits zero; where V goes from 1 to 0 the
namespace without names and their objects superseded, else names, objects and opens as they were; and no wait without rights. -/
def grantStored (s t : State) (off : Nat) (v : DWord) : Prop :=
  let ns := off / 16
  let old := s.dir.grant ns
  let new : BitVec 128 := if off % 16 < 8 then old.extractLsb' 64 64 ++ (v &&& 0x800F00000000FFFF) else v ++ old.extractLsb' 0 64
  t.mem = s.mem ∧ t.dir.grant ns = new ∧ (∀ m, m ≠ ns → t.dir.grant m = s.dir.grant m) ∧
  (old.getLsbD 63 = true → new.getLsbD 63 = false → (∀ n ∈ t.dir.names, nameNs n.name ≠ ns) ∧
    (∀ n ∈ s.dir.names, nameNs n.name ≠ ns → n ∈ t.dir.names) ∧ ((s.dir.names.map (·.name)).Nodup →
      ∀ n ∈ s.dir.names, nameNs n.name = ns → ∀ k ∈ t.dir.objs, k.idx = n.obj → k.bound = false)) ∧
  ((old.getLsbD 63 = false ∨ new.getLsbD 63 = true) →
    (t.dir.names, t.dir.objs, t.dir.opens) = (s.dir.names, s.dir.objs, s.dir.opens)) ∧
  ∀ w ∈ s.nameWaits, nameNs w.name = ns → mayOpen new w.asid w.world = false → w ∉ t.dir.waits

/-- What a store to BANKCTL leaves that meets no switch (R320, R322): its fields are written first; a store of the current mode and
power asks for nothing; another is refused as the row of the bank's mode says, and else the switch begins. -/
def bankctlDone (s t : State) (cl b : Nat) (v : DWord) : Prop :=
  let u := s.performSent (inBank cl b)
  let k := u.bank cl b
  let k' := t.bank cl b
  let mode := v.extractLsb' 0 2
  let furl := v.getLsbD 2
  let base : Home := .sram cl (65536 * b)
  let touched : Bool := v.extractLsb' 32 32 != 0 || k.bound != 0 || u.bankBusy cl b
  let refuses : Bool := k.mode != 0 && !(k.furled && mode = k.mode) && (touched ||
    (k.mode = 2 && !v.getLsbD 3 && u.readHome base 4 ≠ u.readHome (base.plus 4) 4))
  (k'.assign, k'.world, k'.fcap, k'.discard) = (v.extractLsb' 32 32, v.extractLsb' 16 4, v.extractLsb' 4 4, v.getLsbD 3) ∧
  (k'.mode, k'.furled, k'.bound) = (k.mode, k.furled, k.bound) ∧ t.mem = u.mem ∧
  (mode = k.mode → furl = k.furled → (k'.switching, k'.refused, k'.reqMode, k'.furl) = (k.switching, k.refused, mode, furl)) ∧
  ((mode ≠ k.mode ∨ furl ≠ k.furled) →
    (refuses = true → (k'.switching, k'.refused, k'.reqMode, k'.furl) = (k.switching, true, k.reqMode, k.furl)) ∧
    (refuses = false → (k'.switching, k'.refused, k'.reqMode, k'.furl) = (some (mode, furl), false, mode, furl) ∧
      ∀ c ∈ t.cache, c.cl = cl → c.bank ≠ b))

/-- The identity words of a member (R26). -/
def identityOf (n : Node) (block : List Byte) (rank : Nat) (id : SlotId) : List Nat :=
  [id.core / 1024 * 2 ^ 16 + id.core / 256 % 4 * 2 ^ 12 + id.core / 64 % 4 * 2 ^ 8 + id.core / 8 % 8 * 2 ^ 4 + id.core % 8, id.slot, rank,
   n.width, n.stage.toNat, n.id, wordAt block 6 + rank, if wordAt block 7 = 0 then n.width else wordAt block 7]

end Sys2Proof.Machine

/-- R47, R48, R136, R215, R227, R234, R237, R248, R274, R309. That a slot which trapped WINDOW is not fenced by the same count (hbMet,
log 103), and the EVAL of that trap (log 100), are the model's deductions; the cycles of a ring wait lie within R137 (log 18). -/
def Obligations.SlotEvents : Prop :=
  (∀ (s f : State) (slot : SlotId), s.focus slot = some f →
    (∀ m, f.thr.wait = .monitor → f.thr.run = .running → f.thr.monitor = some m → m.tripped = true →
      exec (.wfeWake slot) s = .next (s.refocus
        ((({ f with thr := { f.thr with monitor := none } } : State).acquire f.thr.id.core .dv).passed 8))) ∧
    (∀ q n w r u, let d := f.thr.qreg q; f.thr.wait = .ring q n w → f.qOk d = true → qRole d = (if w then 2 else 1) → n ≤ qCap d →
      yields (controlThen d .load f) r u →
      ((w = false ∧ (n : Int) ≤ ((u.ringTail r.home : Int) - (d.toNat % 2 ^ 32 : Nat)) % 2 ^ 32) ∨
        (w = true ∧ (n : Int) ≤ ((qCap d : Int) - (((d.toNat % 2 ^ 32 : Nat) : Int) - u.ringHead r.home)) % 2 ^ 32)) →
      exec (.qwaitSatisfied slot) s =
        .next (s.refocus ((u.acquire u.thr.id.core .dv).passedWithin 8 (loadBound u.thr.id (qBase d))))) ∧
    (∀ n, f.thr.wait = .realign n → n ≤ f.clock → f.thr.run = .running → exec (.realignTimeout slot) s = .next (s.refocus
      (if f.thr.role = .leader then f.rejoinMet else { f with thr := { f.thr with wait := .none, realigned := true } }))) ∧
    (∀ n rest, f.thr.takesNotify = true → f.thr.between f.clock = true → isTransform f.thr.id = false → f.thr.notifies = n :: rest →
      (n.acq = some .sy → f.hostsPending = false) → ∃ u, exec (.notifyEntry slot) s = .next (s.refocus u) ∧ u.thr.ucause = n.ucause ∧
        u.thr.pc = pcOf f.thr.uivec ∧ u.thr.status.inui = true ∧ u.thr.notifies = rest ∧ u.thr.loops = [] ∧ u.thr.wait = .none ∧
        u.mem = f.mem ∧ u.thr.role ≠ .follower ∧
        (f.thr.wait ≠ .monitor → u.thr.upc = f.thr.pc.setWidth 64 ∧ u.thr.ws.statusSave = f.thr.status.toWord) ∧
        (f.thr.wait = .monitor → u.thr.upc = ((backEdge f.thr.loops (f.thr.pc + 4)).2).setWidth 64 ∧
          u.thr.ws.statusSave = f.thr.status.clearHints.toWord)) ∧
    (f.expired f.thr = true → nodeLives f → isTransform slot = false → s.lateMember slot = none →
      (ringWaits f.thr → exec (.heartbeatExpiry slot) s = .next (s.refocus (endByHeartbeat .qtimeout f.thr f))) ∧
      (¬ ringWaits f.thr → f.awaitsFabric f.thr = none → exec (.heartbeatExpiry slot) s = .next (s.refocus
        (if (f.core slot.core).fenced then endByHeartbeat .heartbeat f.thr f else f.fenceCore f.thr))) ∧
      (∀ v, ¬ ringWaits f.thr → f.awaitsFabric f.thr = some v → f.stvecOf f.thr ≠ 0 → ∃ u : State,
        exec (.heartbeatExpiry slot) s = .next (s.refocus u) ∧ u.thr.ecause = BitVec.ofNat 64 Cause.window.code ∧
        u.thr.pc = pcOf (f.stvecOf f.thr) ∧ u.thr.epc = f.thr.pc.setWidth 64 ∧ (∀ x, v = some x → u.thr.eval = x) ∧
        u.thr.hbMet = true ∧ u.mem = f.mem))) ∧
  (∀ (s : State) (slot : SlotId) (t : Thread) (d : Reg) (name due : Nat), s.thread? slot = some t → t.wait = .name d name due →
    due ≤ s.clock → (∀ n, s.node? t.node = some n → n.closing = false) → exec (.topenwTimeout slot) s = .next (if s.stepsOne slot then s.reissueName slot else s.endNameWait slot (some 0))) ∧
  (∀ (s : State) (core : Nat) (b : Bool), (s.core core).testing = true → ∃ t : State, exec (.fenceTestDone core b) s = .next t ∧
    (t.core core).testing = false ∧ (t.core core).fenced = !b ∧ t.mem = s.mem) ∧
  (∀ (s : State), s.hostsPending = false → (∃ x ∈ s.threads, ∃ w, x.wait = .window w ∧ w ≤ s.windowNow) → ∃ u, exec .windowStart s = .next u ∧
    (∀ x ∈ u.threads, ∀ w, x.wait = .window w → s.windowNow < w) ∧ u.mem = s.mem)

/-- R126, R127, R131, R245, R301. A store to the directory's page waits for its turn there (R283, R289). The bytes of a line that
another world has sealed are left to log 104. -/
def Obligations.AccessEvents : Prop :=
  (∀ (s : State) (core k : Nat) (e : SbEntry), (s.sbOf core)[k]? = some e →
    (e.sent = true → e.waiting = false → earlierInList (s.sbOf core) e = false → s.releasedBefore core e = true →
      s.lineReady e = true → (e.toDirectory = true → s.dirTurn (.store core e.order) = true) →
      let t := s.dirServed (.store core e.order);
      exec (.storeLinePerform core k) s = .next (((t.performLine core e).cacheUpdate (clusterOf core) e.line e.mask e.data).setSb core
        ((s.sbOf core).eraseIdx k))) ∧
    (e.sent = false → e.born + Config.sbTimeout ≤ s.clock →
      exec (.entryTimeout core k) s = .next (s.setSb core ((s.sbOf core).set k (e.sendAs (nextOrder (s.sbOf core))))))) ∧
  (∀ (s : State) (core k : Nat) (e : SbEntry), e.line.key = some k → s.memOk →
    (∀ pa, e.line = .hbm pa → pa % 64 = 0 ∧ ∀ x, s.sealedFor (pa / 64) = some x → x.world = e.target) →
    let t := s.performLine core e;
    t.memOk ∧ (∀ i, i < 64 → t.mem.get (k + i) = if e.mask.getLsbD i then (e.data >>> (8 * i)).setWidth 8 else s.mem.get (k + i)) ∧
      ∀ a, (a < k ∨ k + 64 ≤ a) → t.mem.get a = s.mem.get a) ∧
  (∀ (s f g : State) (slot : SlotId) (data : VecWord) (r : AccessReq) (x : LaneReq) (rest : List LaneReq) (l : List Byte),
    s.focus slot = some f → f.thr.wait = .access r → r.lanes = x :: rest → r.tag = none → f.nowStep r.dest x r.hnt = some (.value l g) →
    let arrived : Out := match rest with
      | [] => finishAccess r.dest r.upd r.acq ((l :: r.got).reverse.map ofBytes) (max g.clock g.thr.nextIssue) g
      | _ => .next { g with thr := { g.thr with wait := .access { r with lanes := rest, got := l :: r.got, tag := none } } };
    ∃ u, arrived = .next u ∧ exec (.accessResponse slot data) s = .next (s.refocus u)) ∧
  (∀ (s f : State) (slot : SlotId) (data : VecWord) (r : AccessReq) (x : LaneReq) (l : List Byte), s.focus slot = some f →
    f.thr.wait = .access r → r.lanes = [x] → r.got = [] → r.tag = none → f.nowStep r.dest x r.hnt = none →
    f.earlierMessage slot.core x.home = false → f.snooped x = false → (∃ k, x.home.key = some k) →
    f.homeCheck (some f.thr.id.core) x.home x.n (atomicOf r.dest).isSome false = .ok →
    let ends := fun (b : List Byte) (g : State) => ∃ u, finishAccess r.dest r.upd r.acq [ofBytes b] (max g.clock g.thr.nextIssue) g =
      .next u ∧ exec (.accessResponse slot data) s = .next (s.refocus u);
    (atomicOf r.dest = none → x.home.isGlobal = false → x.leaf = none → f.badAt x.home x.n = false →
      ends (f.readBytes x.home x.n) (f.wakeBank x.home)) ∧
    (∀ req, atomicOf r.dest = some req → (f.markWrite x).badAt x.home x.n = false → (f.markWrite x).tagFails x.home x.n = false →
      let m := (f.markWrite x).cacheDrop (clusterOf f.thr.id.core) x.home.line;
      let done := m.atomicAt (clusterOf f.thr.id.core) (m.targetWorld x.home x.leaf) x.home req;
      ends (toBytes x.n done.1) done.2)) ∧
  (∀ (s : State) (cl : Nat) (asid : BitVec 16) (va : VAddr) (kind : AccessKind), cl < Config.clusters →
    s.tlbFind (.l2 cl) asid va.toNat = none →
    (∀ l, s.walk asid va.toNat = .ok l → let m := (s.markAccessed l).1; let t := ((s.markAccessed l).2).tlbFill (.l2 cl) asid m;
      exec (.pageWalk cl asid va kind) s =
        .next (if kindWrites kind && (leafDenies m.word kind false).isNone && !pteDisc m.word then t.markDirty m else t)) ∧
    (∀ x, s.walk asid va.toNat = .error x → exec (.pageWalk cl asid va kind) s = .next s))

/-- R260 to R267, R275, R276, R310 to R313, R25, R26, R38. Which placement is taken is free (log 12); the lease unit's wait for a table
that it cannot read is log 80's, and the firewall's word over a save area log 78's. -/
def Obligations.SchedulerEvents : Prop :=
  (∀ (s : State) (d id : Nat) (rest : List Nat) (n : Node), (s.die d).deferred = id :: rest → s.poolFull d = false → s.node? id = some n →
    ∃ t : State, exec (.deferredDrain d) s = .next t ∧ (t.die d).deferred = rest ∧ (t.die d).pool = (s.die d).pool ++ [id] ∧
      ∃ m ∈ t.nodes, m = { n with phase := .leasing }) ∧
  (∀ (s : State) (id : Nat) (n : Node), s.node? id = some n → n.phase = .leasing → n.closing = false →
    s.pageWaits n.die < Config.leaseUnitNodes →
    (s.tooWide n = true → exec (.leaseGrant id) s = .next (s.endBefore n .operand)) ∧
    (∀ w, s.tooWide n = false → s.readTable n = .waits w → exec (.leaseGrant id) s = .next (s.awaitPage n w)) ∧
    (∀ l t, s.tooWide n = false → s.readTable n = .ok l t →
      (leaseEntries l 8 = none → exec (.leaseGrant id) s = .next (s.endBefore n .operand)) ∧
      (∀ es, leaseEntries l 8 = some es → (es.any (·.hform) = true → t.dirTurn (.lease n.id) = true) →
        let u := t.dirServed (.lease n.id);
        (∀ g v, grantEntries n es [] u = .ok g v → exec (.leaseGrant id) s = .next (v.becomeReady n g)) ∧
        (∀ w, grantEntries n es [] u = .waits w → exec (.leaseGrant id) s = .next (u.awaitPage n w)) ∧
        (∀ c, grantEntries n es [] u = .ends c → exec (.leaseGrant id) s = .next (u.endBefore n c))))) ∧
  (∀ (s : State) (d : Nat), (s.die d).nextDecision ≤ s.clock → s.trust.lock = true → s.waiting d ≠ [] →
    let compute := (s.waiting d).filter (fun n => !n.service && s.fits n);
    let service := (s.waiting d).filter (fun n => n.service && s.fits n);
    let chosen := (chooseClass compute 0 ((s.die d).classes.mapIdx (fun k c =>
      c.relist ((s.waiting d).filter (fun n => !n.service && n.prio.toNat = k))))).1;
    ∃ t : State, exec (.dispatchDecision d) s = .next t ∧ t.mem = s.mem ∧ t.thr = s.thr ∧ t.others = s.others ∧
      (t.die d).nextDecision = s.clock + 16 ∧
      (∀ m ∈ t.nodes, m.phase = .placed → ∃ n ∈ s.nodes, n.id = m.id ∧ (n.phase = .placed ∨ (∃ k ∈ compute ++ service, k.id = n.id))) ∧
      (∀ n, chosen = some n → s.node? n.id = some n → (∀ k ∈ service, k.id ≠ n.id) → leftFor s t n ∧ n ∈ compute ∧
        ∀ k ∈ compute, k.prio = n.prio → k.asid = n.asid → n.stage.toNat < k.stage.toNat ∨ (n.stage = k.stage ∧
          (n.readyAt < k.readyAt ∨ (n.readyAt = k.readyAt ∧ n.id ≤ k.id)))) ∧
      (∀ n ∈ service, s.node? n.id = some n →
        (∀ k ∈ service, n.prio.toNat < k.prio.toNat ∨ (n.prio = k.prio ∧ (n.stage.toNat < k.stage.toNat ∨ (n.stage = k.stage ∧
          (n.readyAt < k.readyAt ∨ (n.readyAt = k.readyAt ∧ n.id < k.id ∨ k = n)))))) →
        (∀ k ∈ compute, k.id ≠ n.id ∧ (∀ x ∈ k.home, s.isService x.core = false) ∧ ∀ m ∈ s.nodes, m.id = k.id → m = k) →
        leftFor s t n)) ∧
  (∀ (s : State) (id : Nat) (n : Node), s.node? id = some n → n.waits = true →
    (∀ t, n.passedSince = some t → t + 65536 ≤ s.clock → (s.die n.die).reserving = [] → ∃ r u, exec (.reserving id) s = .next u ∧
      (u.die n.die).reserving = [r] ∧ r.node = n.id ∧ r.victim = none) ∧
    (∀ t v p, n.passedSince = some t → t + 4096 ≤ s.clock → n.service = false → s.fits n = false → (s.die n.die).reserving = [] →
      s.victimFor n = some v → s.roomWith n v = some p → exec (.prioritySpill id) s = .next ((s.setDie n.die { s.die n.die with
        reserving := [{ node := n.id, cl := p.1, slot := p.2, victim := some v.id }] }).askSpill v))) ∧
  (∀ (s t : State) (id : Nat) (n : Node) (block : List Byte), s.node? id = some n → n.phase = .placed → n.saved = [] →
    n.closing = false → s.trust.lock = true → s.readBlock n = .done block t → let x := t.die n.die;
    exec (.launch id) s = .next (launchAll n block (n.members.map (·.id)) 0 (State.setNode ((t.dropGot (.node n.id)).setDie n.die
      { x with reserving := x.reserving.filter (fun r => r.node ≠ n.id) }) { n with phase := .running }))) ∧
  (∀ (n : Node) (vec : DWord) (rank now : Nat) (id : SlotId), let t := launchThread n vec rank id now;
    t.pc = n.entry ∧ t.ws = Workspace.zero ∧ t.loops = [] ∧ t.stvec = vec ∧ t.utvec = 0 ∧ t.uivec = 0 ∧ t.hbcnt = 0 ∧
    t.status = { Status.zero with priv := if n.service then 1 else 0 } ∧ t.role = (if rank = 0 then .leader else .follower) ∧
    t.rank = rank ∧ t.width = n.width ∧ (t.kind, t.prio, t.stage, t.node) = (n.service, n.prio, n.stage, n.id) ∧ t.world = n.world ∧
    t.asid = n.asid ∧ t.savea = n.savea ∧ t.mrstl = 0 ∧ t.hbivl = 2 ^ 20 ∧
    (t.epc, t.ecause, t.eval, t.upc, t.ucause) = (0, 0, 0, 0, 0)) ∧
  (∀ (s : State) (n : Node) (block : List Byte) (rank : Nat) (id : SlotId), s.memOk → block.length = 2048 → id.core < Config.cores →
    id.slot < 8 → let u := s.launchMember n block rank id; let at_ := fun (off : Nat) => Home.lm id.core off;
    (∀ k, k < 256 → u.readHome (at_ (0x800 * id.slot + 8 * k)) 8 =
      if k < 8 then (identityOf n block rank id).getD k 0 % 2 ^ 64 else wordAt block k) ∧
    u.readBytes (at_ (0x4000 + 0xB00 * id.slot)) 0xB00 = List.replicate 0xB00 0 ∧
    u.threads.any (fun t => t = launchThread n (s.core id.core).cstvec rank id s.clock) = true) ∧
  (∀ (s f : State) (slot : SlotId) (n : Node), s.focus slot = some f → s.beingSpilled slot = true →
    s.faultUnitFull (clusterOf slot.core) = false → f.node? f.thr.node = some n → n.closing = false → n.phase = .running →
    f.thr.run = .running → f.thr.spillable f.clock = true → f.awaitsHosts none f.thr.area 0x110000 = false →
    let tiles := if f.thr.mrstl ≠ 0 then [] else f.ownTiles slot; let groups := if f.thr.mrstl ≠ 0 then [] else f.ownGroups slot;
    f.areaOk n f.thr.area (0x1480 + (tiles.map (fun x => tileRoom x.2.2)).foldl (· + ·) 0 + 1344 * groups.length) true = true → ∃ u, exec (.slotSpill slot) s = .next u ∧ slot ∉ u.spillQueue ∧
      ∃ k ∈ u.nodes, k.id = n.id ∧ ∃ m ∈ k.saved, m.thr.id = slot ∧ m.area = f.thr.area) ∧
  (∀ (s : State) (id : Nat) (n : Node), s.node? id = some n → n.phase = .placed → n.saved ≠ [] → n.closing = false →
    (∀ m ∈ n.saved, s.awaitsHosts none m.area m.areaLen = false) → n.saved.all s.canReclaim = true → s.held n.recordUnit + n.saved.length ≤ Config.faultUnitRecords →
    (∀ m ∈ n.saved, s.areaOk n m.area m.areaLen false = true) → s.lostMember n = false → exec (.resumption id) s = .next (n.saved.foldl (fun s m => s.giveBack n m)
      (s.setNode { n with phase := .running, saved := [], members := n.members.map (fun x => { x with spilled := false }) })))

/-- R335 to R339, R341. That a denied write is discarded and acknowledged, a denied read answered with free bytes, and a message whose
tag fails lost, is the model's choice (log 106); the cipher and the keys are log 104's. -/
def Obligations.FabricEvents : Prop :=
  (∀ (s : State) (m : Message) (data v : VecWord) (req : AtomicReq), let line := m.pa.toNat / 64 * 64; let pa := m.pa.toNat;
    (m.op = 1 → forUs s m → (s.openMessage m data none = none → exec (.vexeyWrite m data) s = .next s) ∧
      (s.openMessage m data none = some v →
        (s.writeAdmitted m = true → exec (.vexeyWrite m data) s =
          .next ((s.performMaskedFor Config.clusters (s.frameWorld line) (.hbm line) m.mask v).reply m 6 0)) ∧
        (s.writeAdmitted m = false → exec (.vexeyWrite m data) s = .next (s.reply m 6 0)))) ∧
    (m.op = 2 → forUs s m → s.openMessage m 0 none = some v →
      (s.readDenied m line 64 false = true → exec (.vexeyRead m) s = .next (s.used.reply m 3 s.deniedLine)) ∧
      (s.readDenied m line 64 false = false → exec (.vexeyRead m) s =
        .next (s.reply m 3 (BitVec.ofNat 512 (ofBytes (s.openedBytes (s.frameWorld line) (.hbm line) 64)))))) ∧
    (m.op = 4 → forUs s m → s.openMessage m 0 (some req) = some v → s.readDenied m pa (atomicBytes req) true = false →
      ∃ old t, s.atomicAt Config.clusters (s.frameWorld pa) (.hbm pa) req = (old, t) ∧
      exec (.vexeyAtomic m req) s = .next (t.reply m 5 (BitVec.ofNat 512 old))) ∧
    (m.pkg ≠ s.fabric.pkgid → ∀ link, s.linkTo m.pkg.toNat = some link → let pass := fun (d : VecWord) (a : Option AtomicReq) =>
        (Host.Outcome.next (s.sendOn (some link) { msg := m, payload := d, atomic := a }) : Out);
      (m.op = 1 → exec (.vexeyWrite m data) s = pass data none) ∧ (m.op = 2 → exec (.vexeyRead m) s = pass 0 none) ∧
      (m.op = 4 → exec (.vexeyAtomic m req) s = pass 0 (some req)))) ∧
  (∀ (s t : State) (core k pkg pa tag : Nat) (e : SbEntry), (s.sbOf core)[k]? = some e → e.line = .peer pkg pa →
    e.waiting = true → waitsBefore (s.sbOf core) e = false → let e' := { e with waiting := false };
    s.admitRequest (.line core e') 1 pkg pa e.mask e.world e.data none = some (tag, t) →
    exec (.vexeyAdmission (.line core k) (s.flitsTo pkg)) s = .next ((t.setSb core ((s.sbOf core).set k e')).noteWindow core e.writers)) ∧
  (∀ (s : State) (m : Message) (i : VexeyItem) (data line : VecWord), s.itemOf m = some i →
    (∀ core e, m.op = 6 → i.req = .line core e → let t := s.dropItem i; let u : State := (if i.stale then t.cacheDrop (clusterOf core) e.line
        else t.cacheUpdate (clusterOf core) e.line e.mask e.data);
      exec (.performed m) s = .next (((u.markStale i.cl i.line).tripAt i.line 64).setSb core (dropEntry e (s.sbOf core)))) ∧
    (∀ a, m.op = 6 → i.req = .write a → exec (.performed m) s = .next ((((s.dropItem i).cacheDrop i.cl i.line).markStale i.cl
      i.line).tripAt i.line 64)) ∧
    (∀ id c p n, m.op = 3 → i.req = .chunk id → s.openMessage m data none = some line → s.cmds.find? (fun c => c.id = id) = some c →
      s.nextPiece c = some (p, n) → exec (.readData m data) s = .next ((s.dropItem i).putCmd
        { c with buf := c.buf ++ ((toBytes 64 line.toNat).drop (ptrByte p % 64)).take n, since := none })) ∧
    (∀ slot f r x rest, m.op = 3 → i.req = .access slot → s.openMessage m data none = some line → (s.dropItem i).focus slot = some f →
      f.thr.wait = .access r → r.lanes = x :: rest → r.tag = some i.tag → x.home.line = i.line → atomicOf r.dest = none →
      (i.stale = true → exec (.readData m data) s = .next ((s.dropItem i).refocus
        { f with thr := { f.thr with wait := .access { r with tag := none } } })) ∧
      (i.stale = false → rest = [] → ∃ b g u, f.loadedAt x r.hnt (if i.past && laneShare x = .shared then none else some line)
          (((toBytes 64 line.toNat).drop (x.home.off % 64)).take x.n) = (b, g) ∧
        finishAccess r.dest r.upd r.acq ((b :: r.got).reverse.map ofBytes) (max (g.markStale i.cl i.line).clock g.thr.nextIssue)
          (g.markStale i.cl i.line) = .next u ∧ exec (.readData m data) s = .next ((s.dropItem i).refocus u))) ∧
    (∀ slot f r x req, m.op = 5 → i.req = .access slot → s.openMessage m data none = some line → (s.dropItem i).focus slot = some f →
      f.thr.wait = .access r → r.lanes = [x] → r.tag = some i.tag → x.home.line = i.line → atomicOf r.dest = some req →
      ∃ u, finishAccess r.dest r.upd r.acq (((toBytes 64 line.toNat).take x.n :: r.got).reverse.map ofBytes)
        (max f.clock f.thr.nextIssue) (((f.cacheDrop i.cl i.line).markStale i.cl i.line).tripWritten x.home req
          ((toBytes 64 line.toNat).take x.n)) = .next u ∧
      exec (.atomicData m data) s = .next ((s.dropItem i).refocus u)) ∧
    ((m.op = 3 ∨ m.op = 5) → s.openMessage m data none = none → i.retried = false → i.req.ofCmd = none →
      exec (if m.op = 3 then .readData m data else .atomicData m data) s = .next (s.askAgain i))) ∧
  (∀ (s : State) (ofs : BitVec 32) (link : Fin 16) (line : Nat),
    (∃ t : State, exec (.clockMessage ofs) s = .next t ∧ t.fabric.ofs = ofs ∧ t.fabric.syncAt = s.time.toNat ∧ t.mem = s.mem ∧ t.thr = s.thr) ∧
    (s.fabric.sync = true → (250 < s.fabric.ofs.toInt.natAbs ∨ s.fabric.syncAt + 1000000 ≤ s.time.toNat) →
      ∃ t : State, exec .syncLost s = .next t ∧ t.fabric.sync = false ∧ t.ctl.records.length = s.ctl.records.length + 1) ∧
    (∀ t, s.fabric.sync = false → s.time.toNat < s.fabric.syncAt + 1000000 → s.fabric.goodSince = some t →
      t + 10000000 ≤ s.windowNow * s.windowNs → ∃ u, exec .syncRegained s = .next u ∧ u.fabric.sync = true) ∧
    (∃ t : State, exec (.linkFailure link) s = .next t ∧ link.val ∈ t.fabric.failed ∧ t.mem = s.mem) ∧
    (∀ p, (line, p) ∈ s.fabric.hostLines → ∃ t : State, exec (.backInvalidateResponse line) s = .next t ∧
      t.fabric.hostLines = s.fabric.hostLines.filter (fun x => x.1 ≠ line) ∧ t.outbox = .snoop (64 * line) :: s.outbox ∧ t.mem = s.mem))

/-- R247, R309, R341, R342, R345, R346. That a device write which the firewall denies changes nothing and posts no record is the
model's deduction (log 79), and the Completer Abort where bytes cannot be had intact its choice (log 106); log 119 has the firewall's
word over a ring, and log 104 settles the bytes of lines that another world has sealed. -/
def Obligations.HostEvents : Prop :=
  (∀ (s : State) (port : Fin 2) (pa n : Nat) (data : List Byte), s.isEndpoint port.val = true →
    (data ≠ [] → pa + data.length ≤ Config.hbmBytes → s.admitsFrames (s.portWorld port.val) pa data.length false true = true →
      s.awaitsHosts (some port.val) pa data.length = false →
      exec (.hostWrite port pa data) s = .next ((s.portDone (6 + port.val)).performFrames pa data)) ∧
    (data ≠ [] → s.admitsFrames (s.portWorld port.val) pa data.length false true = false →
      exec (.hostWrite port pa data) s = .next (s.portDone (6 + port.val))) ∧
    (s.memOk → (∀ k x, pa / 64 ≤ k → 64 * k < pa + data.length → s.sealedFor k = some x → x.world = s.frameWorld (64 * k)) →
      let t := s.performFrames pa data; t.memOk ∧ (∀ i, i < data.length → t.mem.get (pa + i) = data.getD i 0) ∧
        ∀ a, (a < pa ∨ pa + data.length ≤ a) → t.mem.get a = s.mem.get a) ∧
    (0 < n → s.fabric.inReset.contains port.val = true → exec (.hostRead port pa n) s = .next (s.emit (.abort port.val))) ∧
    (0 < n → s.fabric.inReset.contains port.val = false → pa + n ≤ Config.hbmBytes → s.awaitsHosts (some port.val) pa n = false →
      (s.admitsFrames (s.portWorld port.val) pa n true false = true →
        (s.unreadable pa n = true → exec (.hostRead port pa n) s = .next (s.emit (.abort port.val))) ∧
        (s.unreadable pa n = false → ∃ t : State, exec (.hostRead port pa n) s =
          .next (t.emit (.readData port.val (some (s.openedBytes (s.frameWorld pa) (.hbm pa) n)))) ∧ t.mem = s.mem ∧
          ∀ l, pa / 64 ≤ l → l ≤ (pa + n - 1) / 64 → (l, port.val) ∈ t.fabric.hostLines)) ∧
      (s.admitsFrames (s.portWorld port.val) pa n true false = false → exec (.hostRead port pa n) s = .next (s.emit (.readData port.val none))))) ∧
  (∀ (s t v : State) (port : Fin 2) (off : Nat) (data l w : List Byte) (m : Node), s.isEndpoint port.val = true →
    s.fabric.inReset.contains port.val = false → off / 0x1000 < 64 → let cfg : DWord := assocD s.fabric.lwcfg (off / 0x1000) 0;
    let die := cfg.toNat % 8; let user := portUser port.val die (cfg.extractLsb' 48 4) (cfg.extractLsb' 16 16);
    let p := BitVec.ofNat 64 (wordAt data 0);
    ((data.length ≠ 64 ∨ off % 64 ≠ 0) → exec (.launchSubmission port off data) s = .next (s.dropLaunch (off / 0x1000) port.val 1 0)) ∧
    (data.length = 64 → off % 64 = 0 → cfg.getLsbD 63 = false →
      exec (.launchSubmission port off data) s = .next (s.dropLaunch (off / 0x1000) port.val 2 0)) ∧
    (data.length = 64 → off % 64 = 0 → cfg.getLsbD 63 = true → s.poolFull die = false → descriptorOk (wordAt data) = false →
      exec (.launchSubmission port off data) s = .next (s.dropLaunch (off / 0x1000) port.val 3 0)) ∧
    (data.length = 64 → off % 64 = 0 → cfg.getLsbD 63 = true → s.poolFull die = false → descriptorOk (wordAt data) = true →
      s.engineReadRange user p 128 = .done l t →
      (∀ c, checkRecord true (cfg.extractLsb' 48 4) (cfg.extractLsb' 16 16) l p = .error c →
        exec (.launchSubmission port off data) s = .next ((t.portDone port.val).dropLaunch (off / 0x1000) port.val 4 c.code)) ∧
      (checkRecord true (cfg.extractLsb' 48 4) (cfg.extractLsb' 16 16) l p = .ok m →
        t.writeNodeId user p = .done w v →
        exec (.launchSubmission port off data) s = .next ((v.portDone port.val).admitNode die
        { m with msix := if bit (wordAt data 1) 16 then some (port.val, wordAt data 1 % 2 ^ 11) else none })))) ∧
  (∀ (s t : State) (port : Fin 2) (rid : BitVec 16) (va : VAddr) (data : List Byte) (l : List LaneReq), s.typel.selfHosted = true →
    data ≠ [] → va.toNat + data.length ≤ 2 ^ 55 → let map : DWord := assocD s.fabric.reqmap rid.toNat 0;
    let world : BitVec 4 := map.extractLsb' 48 4;
    let lanes := dmaLanes (map.setWidth 16) .engWrite (cutPieces 64 (data.length / 64 + 2) va.toNat data.length) s [];
    (map.getLsbD 63 = false → exec (.dmaRequest port rid va 0 data) s = .next ((s.deviceDone port.val).refuseDma port.val rid false 0)) ∧
    (map.getLsbD 63 = true → assocD s.fabric.begun (2 + port.val) 0 = 0 →
      (∀ w, lanes = (.error w, t) →
        exec (.dmaRequest port rid va 0 data) s = .next ((t.deviceDone port.val).refuseDma port.val rid false w)) ∧
      (lanes = (.ok l, t) → (l.all (t.dmaAdmits port.val world false) = false →
          exec (.dmaRequest port rid va 0 data) s = .next (t.deviceDone port.val)) ∧
        (∀ n u b, l.all (t.dmaAdmits port.val world false) = true → dmaWrite (deviceAgent port.val) world l data 0 t = (n, u, b) →
          data.length ≤ n → u.writesOut (deviceAgent port.val) = false →
          exec (.dmaRequest port rid va 0 data) s = .next (u.deviceDone port.val))))) ∧
  (∀ (s : State) (port : Fin 2) (line : Nat),
    (line < s.serviceCores.length → exec (.interruptLineRaise line) s = .next (s.raiseLine line) ∧ line ∈ (s.raiseLine line).fabric.irq) ∧
    (s.isEndpoint port.val = true → port.val ∉ s.fabric.inReset → ∃ t : State, exec (.functionReset port) s = .next t ∧
      port.val ∈ t.fabric.inReset ∧ t.mem = s.mem ∧ t.thr = s.thr ∧ t.nodes = s.nodes) ∧
    (port.val ∈ s.fabric.inReset → ∃ t : State, exec (.functionReady port) s = .next t ∧ port.val ∉ t.fabric.inReset ∧ t.mem = s.mem)) ∧
  (∀ (s : State) (i : Nat) (r : FaultRecord) (rest : List FaultRecord), takeRecord i s.ctl.records = some (r, rest) →
    (s.ring i).takes = true → s.ringStands (s.ring i) = true → s.awaitsHosts none (s.ring i).slot 32 = false → ∃ t : State, exec (.faultRecordPost i) s = .next t ∧
      (t.ring i).prod = (s.ring i).prod + 1 ∧ (∃ owed, t.ctl.records = rest ++ owed) ∧
      t.mem = (s.performFrames (s.ring i).slot (toBytes 8 r.w0.toNat ++ toBytes 8 r.w1.toNat ++ toBytes 8 r.w2.toNat ++ toBytes 8 r.w3.toNat)).mem)

/-- R283, R284, R304 to R310, R320, R322 to R325, R334, R351, R365. That an unload removes the routine in the step of the store is the
model's deduction (log 64), FAIL for an image that cannot be read log 117's; the order of reclaims and ended waits in one operation is log
129's. -/
def Obligations.ControlEvents : Prop :=
  (∀ (s : State) (v : DWord),
    (∃ t : State, exec (.tinv v) s = .next t ∧ t.ctl.tinv = s.ctl.tinv ++ [v &&& 0xFFFF807FFFFFFFFF] ∧ t.mem = s.mem) ∧
    (∀ w rest, s.ctl.tinv = w :: rest → s.invalidationWaits w = false → ∃ t : State, exec .invalidationDone s = .next t ∧
      t.ctl.tinv = rest ∧ t.tlb = s.tlb.filter (fun e => e.pinned ||
        !tinvNames w e.asid (e.leaf.vpn * 2 ^ (pageBits e.leaf.level - 16)) e.leaf.level)) ∧
    (∃ t : State, exec (.spillreq v) s = .next t ∧ (s.node? (v.toNat % 2 ^ 32) = none → t = s) ∧
      ∀ n, s.node? (v.toNat % 2 ^ 32) = some n → n.phase = .running → n.closing = false → s.nodeThreads n.id ≠ [] →
        (∀ x ∈ s.nodeThreads n.id, x.run = .ended ∨ x.savea ≠ 0) → spillAskedOf s t n) ∧
    (∃ t : State, exec (.nodekill v) s = .next t ∧ t.mem = s.mem ∧ (s.node? (v.toNat % 2 ^ 32) = none → t = s) ∧
      ∀ n c, s.node? (v.toNat % 2 ^ 32) = some n → n.closing = false → causeOfCode (v.toNat / 2 ^ 32 % 2 ^ 8) = some c →
        ∃ m ∈ t.nodes, m.id = n.id ∧ m.closing = true ∧ ∃ e, m.ending = some e ∧ e.cause = c) ∧
    (∃ t : State, exec (.leasego v) s = .next t ∧ (s.node? (v.toNat % 2 ^ 32) = none → t = s) ∧
      ∀ n, s.node? (v.toNat % 2 ^ 32) = some n → n.phase = .pageWait → t = s.setNode { n with phase := .leasing }) ∧
    (∃ t : State, exec (.leaseno v) s = .next t ∧ (s.node? (v.toNat % 2 ^ 32) = none → t = s) ∧
      ∀ n, s.node? (v.toNat % 2 ^ 32) = some n → n.phase = .pageWait → n.closing = false →
        ∃ m ∈ t.nodes, m.id = n.id ∧ m.closing = true ∧ ∃ e, m.ending = some e ∧ e.cause = .lease ∧ e.before = true) ∧
    (∃ t : State, exec (.fenceack v) s = .next t ∧ t.mem = s.mem ∧ t.thr = s.thr ∧ t.others = s.others ∧
      (coordOk v.toNat = true → (s.core (coordCore v.toNat)).fenced = true → (t.core (coordCore v.toNat)).testing = true ∧
        (t.core (coordCore v.toNat)).fenced = true) ∧ ((s.core (coordCore v.toNat)).fenced = false → t = s)) ∧
    (s.dirFree = true → (∃ t : State, exec (.relasid v) s = .next t ∧ relasidDone s t v) ∧
      ∀ off, off < 0x100000 → off % 8 = 0 → ∃ t : State, exec (.grantEntryWrite off v) s = .next t ∧ grantStored s t off v)) ∧
  (∀ (s : State) (v : DWord) (i : Nat), let fault := 0xFFF0000200000; let engine := 0xFFF0000400000; let link := 0xFFF0000600000;
    keepsStore s fault 0xFFFFFFFF80000 v ∧
    (i < 1920 → i < s.serviceCores.length → keepsStore s (fault + 0x1000 + 32 * i) 0xFFFFFFFFFFFE0 v ∧
      keepsStore s (fault + 0x1008 + 32 * i) 0xF v ∧ exec (.registerWrite (fault + 0x1010 + 32 * i) v) s = .next s ∧
      keepsStore s (fault + 0x1018 + 32 * i) 0xFFFFFFFF v) ∧
    (i < 8192 → keepsStore s (fault + 0x10000 + 8 * i) 0x7FFFFFFFFFFFFC v) ∧
    (i < 128 → keepsStore s (engine + 0x1000 * i + 0x400) 0x1FF v) ∧
    (s.fabric.sync = false → keepsStore s link 0xF v) ∧ (s.fabric.sync = true → exec (.registerWrite link v) s = .next s) ∧
    keepsStore s (link + 0x10) 0xFF v ∧ keepsStore s (link + 0x18) 0xFF v ∧
    (i < 256 → keepsStore s (link + 0x1000 + 8 * i) 0xFFC000000000FFFF v) ∧
    (i < 64 → keepsStore s (link + 0x2000 + 8 * i) 0x800F0000FFFF0007 v) ∧
    (i < 65536 → keepsStore s (link + 0x80000 + 8 * i) 0x800F00000000FFFF v) ∧
    (i < 0x40000 → exec (.registerWrite (0xFFF0000A00000 + 8 * i) v) s = .next s)) ∧
  (∀ (s : State) (cl : Nat) (b : Fin 64) (v : DWord), cl < Config.clusters → let k := s.bank cl b.val;
    (∀ i, i = Instr.bankModeRequest cl b v ∨ (i = .furlRequest cl b v ∧ v.extractLsb' 0 2 = k.reqMode) →
      ∃ t : State, exec i s = .next t ∧ (v.extractLsb' 0 2 = 3 → t = s) ∧
        (∀ w, k.switching = some w → v.extractLsb' 0 2 ≠ 3 → t = s.setBank cl b.val { k with held := k.held ++ [v] }) ∧
        (k.switching = none → v.extractLsb' 0 2 ≠ 3 → bankctlDone s t cl b.val v)) ∧
    (∀ mode furl, k.switching = some (mode, furl) → k.held = [] → exec (.bankSwitchDone cl b) s = .next
      ((s.zeroHome (.sram cl (65536 * b.val)) 65536).setBank cl b.val
        { k with mode := mode, furled := furl, switching := none, held := [] }))) ∧
  (∀ (s : State) (bank : BankId), bankExists bank = true → bank ∉ s.reefed →
    assocD s.touched bank 0 + 1024 ≤ s.clock → ∃ t : State, exec (.bankReef bank) s = .next t ∧
    bank ∈ t.reefed ∧ t.mem = s.mem ∧ t.thr = s.thr) ∧
  (∀ (s : State) (cl : Nat) (v : DWord), cl < Config.clusters → let r := s.routineReg cl; let n := r.rsnum.toNat % 2 ^ 8;
    (bit r.rsnum.toNat 8 = false → r.busy = false → n ≠ 0 → exec (.routineLoad cl v) s = .next (s.setRoutineReg cl
      { r with busy := true, fail := false, loading := some (v.toNat / 2 ^ 6 % 2 ^ 46 * 64, n) })) ∧
    (bit r.rsnum.toNat 8 = true → r.busy = false → n ≠ 0 → ∃ t : State, exec (.routineUnload cl v) s = .next t ∧
      ∀ x ∈ t.routines, ¬ (x.cl = cl ∧ x.num = n)) ∧
    (∀ pa k, r.loading = some (pa, k) → (s.readableAt pa 64 = false ∨ routineHeader (s.mem.read pa 64) = none) →
      exec (.routineLoadDone cl) s = .next (s.setRoutineReg cl { r with busy := false, fail := true, loading := none })) ∧
    (∀ pa k nw add mul, r.loading = some (pa, k) → s.readableAt pa 64 = true → routineHeader (s.mem.read pa 64) = some (nw, add, mul) →
      s.freeWords cl k < nw →
      exec (.routineLoadDone cl) s = .next (s.setRoutineReg cl { r with busy := false, fail := true, loading := none })) ∧
    (∀ pa k nw add mul, r.loading = some (pa, k) → routineHeader (s.mem.read pa 64) = some (nw, add, mul) → nw ≤ s.freeWords cl k →
      s.readableAt pa 64 = true → s.readableAt (pa + 64) (4 * nw) = true →
      (∀ c ∈ s.cmds, c.kind = .cpyx → c.cl = cl → c.routine = k → c.st ≠ .queued ∧ c.st ≠ .running) →
      ∃ t : State, exec (.routineLoadDone cl) s = .next t ∧
        { cl := cl, num := k, oadd := add, omul := mul, words := s.imageWords pa nw : Routine } ∈ t.routines)) ∧
  (∀ (s : State) (core : Nat) (e : Fin 8) (v : DWord), core < Config.cores →
    exec (.protectionEntryWrite core e v) s = .next (s.writeEntry core e.val v) ∧
    (v.toNat / 2 ^ 12 % 2 ^ 12 ≤ v.toNat % 2 ^ 11 → s.writeEntry core e.val v = s) ∧
    (entryBad v = false → let t := s.writeEntry core e.val v; (t.core core).entries = (s.core core).entries.set e.val v ∧
      ∀ line, line < 2048 → entryCovers v line = true → s.targetWorld (.lm core (64 * line)) none ≠ entryWorld v →
        t.readBytes (.lm core (64 * line)) 64 = List.replicate 64 0))

/-- R348, R356, R357, R361 to R366. How a debug request names LM is the model's choice (log 34); the measurement and the signature of
evidence (log 10) and what COUNTERS counts (log 14) are free values, and when a dump is taken is left to log 120. -/
def Obligations.ModuleEvents : Prop :=
  (∀ (s : State) (die mw : Nat), die < 12 → let lim := if die < 8 then 400000 else 100000; let d := (s.die die).allowance;
    ∃ t : State, exec (.limiterMeasure die mw) s = .next t ∧ (t.die die).allowance =
      (if lim < mw then max 8 (d - 2) else if 100 * mw < 95 * lim then min 16 (d + 2) else d) ∧ t.mem = s.mem ∧ t.thr = s.thr) ∧
  (∀ (s : State) (slot : SlotId) (t : Thread), s.thread? slot = some t → isTransform slot = false →
    (s.consents t.world = false → ∀ i ∈ [Instr.park slot, .resume slot, .stepSlot slot],
      exec i s = .next (s.emit (.refusedDebug t.world none))) ∧
    (s.consents t.world = true →
      (t.run ≠ .parked → t.run ≠ .ended → (∀ u ∈ s.parkGroup t, u.parkable = true ∧ u.stepping ≠ .parking) →
        exec (.park slot) s = .next ((s.parkGroup t).foldl State.parkOne s)) ∧
      (t.run = .parked → exec (.resume slot) s = .next ((s.setThread (s.unparked t .no)).traceSlot 3 (s.unparked t .no))) ∧
      (t.run = .parked → exec (.stepSlot slot) s = .next (s.setThread (s.unparked t .due))))) ∧
  (∀ (s : State) (pa n : Nat) (data : List Byte), 0 < n → n ≤ 4096 → pa + n ≤ Config.hbmBytes →
    (∀ w ∈ s.debugWorlds (.hbm pa) n, s.consents w = true) → s.awaitsHosts none pa n = false →
    (s.homeCheck none (.hbm pa) n false true = .ok → s.badAt (.hbm pa) n = false → s.tagFails (.hbm pa) n = false →
      ∃ t : State, exec (.readMem pa n) s = .next (t.emit (.debugData (s.openedBytes (s.frameWorld pa) (.hbm pa) n))) ∧ t.mem = s.mem) ∧
    (data.length = n → s.homeCheck none (.hbm pa) n true true = .ok → exec (.writeMem pa data) s = .next (s.performFrames pa data))) ∧
  (∀ (s : State) (core off n : Nat) (data : List Byte), let h := Home.lm core off; let pa := 2 ^ 40 + core * 2 ^ 17 + off;
    core < Config.cores → 0 < n → n ≤ 4096 → off + n ≤ 2 ^ 17 → (∀ w ∈ s.debugWorlds h n, s.consents w = true) →
    (s.homeCheck none h n false true = .ok → s.badAt h n = false →
      exec (.readMem pa n) s = .next ((s.wakeBank h).emit (.debugData (s.readBytes h n)))) ∧
    (data.length = n → s.homeCheck none h n true true = .ok → exec (.writeMem pa data) s = .next (s.perform h data))) ∧
  (∀ (s : State) (core i : Nat), let out := fun (h : Home) (d : DumpItem) => ∃ x, d = .omitted h x ∧ s.protectedWorld x = true;
    (i < Config.hbmBytes / 65536 → s.dumpFrame i ∈ s.crashDump) ∧
    (core < Config.cores → i < 2048 → s.dumpLine core i ∈ s.crashDump) ∧
    (∀ l ∈ s.allLeaves, leafMaps (65536 * i) l = true → s.protectedWorld (pteWorld l.2) = true →
      out (.hbm (65536 * i)) (s.dumpFrame i)) ∧
    (∀ e, s.protection core (64 * i) = some e → s.protectedWorld (e.extractLsb' 56 4) = true →
      out (.lm core (64 * i)) (s.dumpLine core i)) ∧
    ((∀ w ∈ s.frameWorlds (65536 * i), s.protectedWorld w = false) →
      s.dumpFrame i = .bytes (.hbm (65536 * i)) (s.readBytes (.hbm (65536 * i)) 65536))) ∧
  (∀ (s : State) (w : BitVec 4) (nonce : List Byte) (cfg : TraceCfg),
    (nonce.length = 32 → let page := ((List.range 16).map (fun i => (s.fwRow (BitVec.ofNat 4 i)).setWidth 64) ++
        [s.trust.prot.setWidth 64, s.trust.dcons.setWidth 64]).flatMap (fun (x : DWord) => toBytes 8 x.toNat);
      let body := Config.monitorMeasurement ++ sha384 page ++ [BitVec.ofNat 8 (s.trust.prot.getLsbD w.toNat).toNat,
        BitVec.ofNat 8 (s.trust.dcons.getLsbD w.toNat).toNat] ++ toBytes 32 (s.trust.roster.getD w.toNat 0).toNat ++ nonce;
      ∃ t : State, exec (.attest w nonce) s = .next (t.emit (.evidence (body ++ Config.attestSignature s.fresh body))) ∧
        t.mem = s.mem ∧ t.thr = s.thr) ∧
    (exec .bootlog s = .next (s.emit (.bootlog s.typel.journal))) ∧
    (∃ (soft : List Nat) (t : State), exec .counters s = .next (t.emit (.counters
        ((List.range 128).map (fun c => assocD s.tlbHits c 0)) ((List.range 128).map (fun c => assocD s.tlbMisses c 0)) soft
        ((List.range 12).map (fun d => (s.die d).allowance)) snapshotBase)) ∧
      (∀ d, d < 12 → assocD s.typel.soft d 0 ≤ soft.getD d 0) ∧ t.mem = s.mem ∧ t.thr = s.thr) ∧
    (cfg.on = false → ∃ t : State, exec (.traceCfg cfg) s = .next t ∧ t.typel.trace.on = false ∧ t.mem = s.mem) ∧
    (cfg.on = true → traceOk cfg = true → (∀ x ∈ s.debugWorlds (.hbm cfg.base) (32 * 2 ^ cfg.m), s.consents x = true) →
      ∃ t : State, exec (.traceCfg cfg) s = .next t ∧ t.typel.trace = cfg ∧ t.typel.produced = 0 ∧ t.typel.lost = 0) ∧
    (s.typel.trace.on = true → s.typel.lastSample + s.typel.trace.period ≤ s.clock → ∃ t : State, exec .traceSample s = .next t ∧
      t.typel.lastSample = s.clock) ∧
    (s.typel.booted = true → s.typel.lastSnap + s.typel.trace.intervalNs ≤ s.time.toNat →
      s.awaitsHosts none s.snapshotAt snapshotBytes = false → ∃ t : State, exec .counterSnapshot s = .next t ∧
      t.typel.snapSeq = s.typel.snapSeq + 1 ∧ t.typel.lastSnap = s.time.toNat)) ∧
  (∀ (s : State) (boot : BootScript), boot.failing = [] → s.typel.closed = true → boot.osNodes = [] → ∃ t,
    exec (.resetModule boot) s = .next t ∧ t.typel.booted = true ∧ t.trust = bootTrust boot ∧ t.trust.lock = true ∧
    t.fabric.sync = true ∧ t.fabric.inReset = [] ∧ t.time = boot.timeNs ∧ t.nodes = State.reset.nodes ∧
    t.typel.selfHosted = boot.fuse.getD boot.strap)

namespace Sys2Proof.Machine

/-- What follows the word w of the slot in focus, which the fetch has left in the state v: the word's effect, what the halyard
does, and the turn taken. -/
def wordDone (i : Instr) (w : Word) (v : State) : Out :=
  match exec i { v with thr := v.thr.begin w } with
  | .next x => .next ((x.issued v.thr.pc w).takeTurn v.thr.id)
  | .fault x => .fault x
  | .refused x => .refused x

/-- The module runs: it has started, nothing has arrived from outside, and nothing is due. -/
def State.running (s : State) : Prop := s.typel.booted = true ∧ s.inbox = [] ∧ s.dueSteps = []

end Sys2Proof.Machine

/-- Words that spec/ writes out in its tables of worked encodings, and words of R66. -/
def Obligations.DecodeWords : Prop :=
  decode 0x04642820 = .ok (.sub 3 4 5 .w32) ∧ decode 0x04E80381 = .ok (.sext 7 8 .b .w64) ∧
  decode 0x0840064A = .ok (.orK 2 0 6 .w64) ∧ decode 0x0D40FFFF = .ok (.addi 10 0 65535) ∧
  decode 0x2463200B = .ok (.shi 3 3 .shl .w64 11) ∧ decode 0x31032002 = .ok (.bne 8 3 2) ∧
  decode 0x3800000D = .ok (.call 13) ∧ decode 0x3C090000 = .ok (.jr 9) ∧ decode 0x3C000040 = .ok .ret ∧
  decode 0x40C00004 = .ok (.loop 6 4) ∧ decode 0x40006000 = .ok .lsave ∧ decode 0x44422860 = .ok (.pwalk 2 2 5) ∧
  decode 0x48E9A008 = .ok (.ld 7 2 .d (.postImm 8) .plain) ∧ decode 0x4D198060 = .ok (.st 8 6 .d (.plain 96) .plain) ∧
  decode 0x50844805 = .ok (.ldv 4 1 (.postReg 5) .acq) ∧ decode 0x64400000 = .ok (.qbind 2 0) ∧
  decode 0x76020081 = .ok (.vscan 16 2 .iadd) ∧ decode 0x7D801820 = .ok (.vqnt 12 0 3) ∧
  decode 0x80651C83 = .ok (.mmas 1 4 5 28 1) ∧ decode 0x8EA42000 = .ok (.astep true 5 2 16 0) ∧
  decode 0x90E028C0 = .ok (.aforce 7 5 0) ∧ decode 0x95664880 = .ok (.topenw 11 6 9) ∧
  decode 0x98070062 = .ok (.barr 7 2) ∧ decode 0x9C412805 = .ok (.cpy 2 1 5 false true false true) ∧
  decode 0xA4010604 = .ok (.sysw 1 6) ∧ decode 0xA4000002 = .ok .uret ∧ decode 0xFC8C6000 = .ok (.hfmt 6 6 0 0 false) ∧
  (∀ i, decode 0x00000000 ≠ .ok i) ∧ (∀ i, decode 0xF8000000 ≠ .ok i) ∧ (∀ i, decode 0x3C000041 ≠ .ok i)

/-- R50 and the formats of R54 to R62: decoding is the inverse of encoding, on all words and all instructions. -/
def Obligations.DecodeEncode : Prop :=
  ∀ (w : Word) (i : Instr), decode w = .ok i ↔ i.hasWord = true ∧ i.wf = true ∧ encode i = w

/-- The values that spec/ gives for reset. Every byte of memory reading 0 is the model's choice (log 1). -/
def Obligations.ResetState : Prop :=
  let s := State.reset;
  s.memOk ∧ s.nodes = [] ∧ s.others = [] ∧ s.thr.run = .vacant ∧ s.threads = [] ∧ (∀ n, s.dir.grant n = 0) ∧ s.dir.names = [] ∧
  s.dir.opens = [] ∧ s.dir.unused = 1 ∧ s.dir.freed = [] ∧ (∀ i, (s.core i).cstvec = 0 ∧ (s.core i).fenced = false) ∧
  (∀ c b, (s.bank c b).mode = 0 ∧ (s.bank c b).world = 1 ∧ (s.bank c b).assign = 0 ∧ (s.bank c b).furled = false) ∧
  s.fabric.hpcfg = 0x11 ∧ s.trust.lock = false ∧ (∀ d, (s.die d).allowance = 16) ∧ (∀ a, s.mem.get a = 0) ∧
  step s = (match execResetModule (Config.bootScript 0) s with
    | .next u => .next u.settle
    | .fault x => .fault x
    | .refused x => .refused x)

/-- Fetching, decoding and executing (R49, R68), with the turn of R268 around it. -/
def Obligations.StepRunsDecoded : Prop :=
  (∀ (s : State) (t : Thread) (core : Nat), (s.core core).nextTurn ≤ s.clock → s.allowed core = true → s.turnOf core = some t →
    t.run ≠ .parked → ¬ (t.stepping = .begun ∧ t.wait ≠ .none) → (t.takesNotify && t.between s.clock) = false →
    s.turn core = [issueSlot t.id s]) ∧
  (∀ (s u v : State) (id : SlotId) (w : Word) (i : Instr), s.running → s.turns ≠ [] → s.focus id = some u →
    nextWord u = .word w v → decode w = .ok i →
    let l := s.turns ++ s.unitSteps;
    (l = [issueSlot id s] → step s = match wordDone i w v with
      | .next x => .next x.settle
      | .fault x => .fault x
      | .refused x => .refused x) ∧
    (2 ≤ l.length → l[Config.pick s.fresh % l.length]? = some (issueSlot id s) → step s = match wordDone i w v with
      | .next x => .next (State.settle { x with fresh := max x.fresh (s.fresh + 1) })
      | .fault x => .fault x
      | .refused x => .refused x)) ∧
  (∀ (u v : State) (l : Leaf) (pa : Nat), u.thr.inWord = false → u.thr.role ≠ .follower → isTransform u.thr.id = false →
    u.textLeaf = (.ok l, v) → l.home v.thr.pc.toNat = .hbm pa → v.thr.line = some (Home.hbm pa).line →
    v.admits v.thr.world (.hbm pa) (some l) true false false = true → v.onRoster v.thr.world (.hbm pa) = true →
    pteComp l.word = false → v.discarded l = false → v.badAt (.hbm pa) 4 = false → v.tagFails (.hbm pa) 4 = false →
    v.snooped { home := .hbm pa, ea := vaPtr v.thr.pc.toNat, n := 4, leaf := some l } = false →
    ((v.node? v.thr.node).bind fun n => n.oldText.find? fun x => x.1 = pa / 4) = none →
    nextWord u = .word (BitVec.ofNat 32 (ofBytes (v.openedBytes (pteWorld l.word) (.hbm pa) 4)))
      (if v.allocates (.slot v.thr.id) then v.sliceFill (.hbm pa) else v) ∧
    (v.seals = [] → v.openedBytes (pteWorld l.word) (.hbm pa) 4 = v.mem.read pa 4)) ∧
  (∀ s : State, s.running → s.turns = [] → s.unitSteps = [] → step s = .next s.tick.settle)

/-- An invariant of every step, not only of runs from reset: memory is in canonical form. That an unlisted byte reads 0 is the model's
choice (log 1). -/
def Obligations.MemoryStaysCanonical : Prop :=
  ∀ s t : State, s.memOk → step s = .next t → t.memOk
end

