-- ==== Sys2Proof/Laws/State.lean ====
section
/-!
SUPPORT. Reading a field after an update: one lemma for each field that an update leaves alone, and those that say what a
register reads after it has been written (spec/01_machine_state.md R10, R14).
-/
namespace Sys2Proof.Machine

@[simp] theorem Thread.setS_id (t : Thread) (r : Reg) (v : DWord) : (t.setS r v).id = t.id := by unfold Thread.setS; split <;> rfl
@[simp] theorem Thread.setS_run (t : Thread) (r : Reg) (v : DWord) : (t.setS r v).run = t.run := by unfold Thread.setS; split <;> rfl
@[simp] theorem Thread.setS_node (t : Thread) (r : Reg) (v : DWord) : (t.setS r v).node = t.node := by unfold Thread.setS; split <;> rfl
@[simp] theorem Thread.setS_role (t : Thread) (r : Reg) (v : DWord) : (t.setS r v).role = t.role := by unfold Thread.setS; split <;> rfl
@[simp] theorem Thread.setS_rank (t : Thread) (r : Reg) (v : DWord) : (t.setS r v).rank = t.rank := by unfold Thread.setS; split <;> rfl
@[simp] theorem Thread.setS_width (t : Thread) (r : Reg) (v : DWord) : (t.setS r v).width = t.width := by unfold Thread.setS; split <;> rfl
@[simp] theorem Thread.setS_kind (t : Thread) (r : Reg) (v : DWord) : (t.setS r v).kind = t.kind := by unfold Thread.setS; split <;> rfl
@[simp] theorem Thread.setS_prio (t : Thread) (r : Reg) (v : DWord) : (t.setS r v).prio = t.prio := by unfold Thread.setS; split <;> rfl
@[simp] theorem Thread.setS_stage (t : Thread) (r : Reg) (v : DWord) : (t.setS r v).stage = t.stage := by unfold Thread.setS; split <;> rfl
@[simp] theorem Thread.setS_pc (t : Thread) (r : Reg) (v : DWord) : (t.setS r v).pc = t.pc := by unfold Thread.setS; split <;> rfl
@[simp] theorem Thread.setS_wp (t : Thread) (r : Reg) (v : DWord) : (t.setS r v).wp = t.wp := by unfold Thread.setS; split <;> rfl
@[simp] theorem Thread.setS_loops (t : Thread) (r : Reg) (v : DWord) : (t.setS r v).loops = t.loops := by unfold Thread.setS; split <;> rfl
@[simp] theorem Thread.setS_status (t : Thread) (r : Reg) (v : DWord) : (t.setS r v).status = t.status := by unfold Thread.setS; split <;> rfl
@[simp] theorem Thread.setS_pay (t : Thread) (r : Reg) (v : DWord) : (t.setS r v).pay = t.pay := by unfold Thread.setS; split <;> rfl
@[simp] theorem Thread.setS_epc (t : Thread) (r : Reg) (v : DWord) : (t.setS r v).epc = t.epc := by unfold Thread.setS; split <;> rfl
@[simp] theorem Thread.setS_ecause (t : Thread) (r : Reg) (v : DWord) : (t.setS r v).ecause = t.ecause := by unfold Thread.setS; split <;> rfl
@[simp] theorem Thread.setS_eval (t : Thread) (r : Reg) (v : DWord) : (t.setS r v).eval = t.eval := by unfold Thread.setS; split <;> rfl
@[simp] theorem Thread.setS_utvec (t : Thread) (r : Reg) (v : DWord) : (t.setS r v).utvec = t.utvec := by unfold Thread.setS; split <;> rfl
@[simp] theorem Thread.setS_uivec (t : Thread) (r : Reg) (v : DWord) : (t.setS r v).uivec = t.uivec := by unfold Thread.setS; split <;> rfl
@[simp] theorem Thread.setS_upc (t : Thread) (r : Reg) (v : DWord) : (t.setS r v).upc = t.upc := by unfold Thread.setS; split <;> rfl
@[simp] theorem Thread.setS_ucause (t : Thread) (r : Reg) (v : DWord) : (t.setS r v).ucause = t.ucause := by unfold Thread.setS; split <;> rfl
@[simp] theorem Thread.setS_stvec (t : Thread) (r : Reg) (v : DWord) : (t.setS r v).stvec = t.stvec := by unfold Thread.setS; split <;> rfl
@[simp] theorem Thread.setS_hbivl (t : Thread) (r : Reg) (v : DWord) : (t.setS r v).hbivl = t.hbivl := by unfold Thread.setS; split <;> rfl
@[simp] theorem Thread.setS_hbcnt (t : Thread) (r : Reg) (v : DWord) : (t.setS r v).hbcnt = t.hbcnt := by unfold Thread.setS; split <;> rfl
@[simp] theorem Thread.setS_asid (t : Thread) (r : Reg) (v : DWord) : (t.setS r v).asid = t.asid := by unfold Thread.setS; split <;> rfl
@[simp] theorem Thread.setS_world (t : Thread) (r : Reg) (v : DWord) : (t.setS r v).world = t.world := by unfold Thread.setS; split <;> rfl
@[simp] theorem Thread.setS_mrstl (t : Thread) (r : Reg) (v : DWord) : (t.setS r v).mrstl = t.mrstl := by unfold Thread.setS; split <;> rfl
@[simp] theorem Thread.setS_savea (t : Thread) (r : Reg) (v : DWord) : (t.setS r v).savea = t.savea := by unfold Thread.setS; split <;> rfl
@[simp] theorem Thread.setS_monitor (t : Thread) (r : Reg) (v : DWord) : (t.setS r v).monitor = t.monitor := by unfold Thread.setS; split <;> rfl
@[simp] theorem Thread.setS_notifies (t : Thread) (r : Reg) (v : DWord) : (t.setS r v).notifies = t.notifies := by unfold Thread.setS; split <;> rfl
@[simp] theorem Thread.setS_wait (t : Thread) (r : Reg) (v : DWord) : (t.setS r v).wait = t.wait := by unfold Thread.setS; split <;> rfl
@[simp] theorem Thread.setS_nextIssue (t : Thread) (r : Reg) (v : DWord) : (t.setS r v).nextIssue = t.nextIssue := by unfold Thread.setS; split <;> rfl
@[simp] theorem Thread.setS_justResumed (t : Thread) (r : Reg) (v : DWord) : (t.setS r v).justResumed = t.justResumed := by unfold Thread.setS; split <;> rfl
@[simp] theorem Thread.setS_realigned (t : Thread) (r : Reg) (v : DWord) : (t.setS r v).realigned = t.realigned := by unfold Thread.setS; split <;> rfl
@[simp] theorem Thread.setS_stepping (t : Thread) (r : Reg) (v : DWord) : (t.setS r v).stepping = t.stepping := by unfold Thread.setS; split <;> rfl
@[simp] theorem Thread.setS_fifo (t : Thread) (r : Reg) (v : DWord) : (t.setS r v).fifo = t.fifo := by unfold Thread.setS; split <;> rfl
@[simp] theorem Thread.setS_lastWindow (t : Thread) (r : Reg) (v : DWord) : (t.setS r v).lastWindow = t.lastWindow := by unfold Thread.setS; split <;> rfl
@[simp] theorem Thread.setS_readLines (t : Thread) (r : Reg) (v : DWord) : (t.setS r v).readLines = t.readLines := by unfold Thread.setS; split <;> rfl
@[simp] theorem Thread.setS_sent (t : Thread) (r : Reg) (v : DWord) : (t.setS r v).sent = t.sent := by unfold Thread.setS; split <;> rfl
@[simp] theorem Thread.setS_inWord (t : Thread) (r : Reg) (v : DWord) : (t.setS r v).inWord = t.inWord := by unfold Thread.setS; split <;> rfl
@[simp] theorem Thread.setS_word (t : Thread) (r : Reg) (v : DWord) : (t.setS r v).word = t.word := by unfold Thread.setS; split <;> rfl
@[simp] theorem Thread.setS_retried (t : Thread) (r : Reg) (v : DWord) : (t.setS r v).retried = t.retried := by unfold Thread.setS; split <;> rfl
@[simp] theorem Thread.setS_failed (t : Thread) (r : Reg) (v : DWord) : (t.setS r v).failed = t.failed := by unfold Thread.setS; split <;> rfl
@[simp] theorem Thread.setS_hbMet (t : Thread) (r : Reg) (v : DWord) : (t.setS r v).hbMet = t.hbMet := by unfold Thread.setS; split <;> rfl
@[simp] theorem Thread.setS_line (t : Thread) (r : Reg) (v : DWord) : (t.setS r v).line = t.line := by unfold Thread.setS; split <;> rfl
@[simp] theorem Thread.setS_progress (t : Thread) (r : Reg) (v : DWord) : (t.setS r v).progress = t.progress := by unfold Thread.setS; split <;> rfl
@[simp] theorem Thread.setS_geo (t : Thread) (r : Reg) (v : DWord) : (t.setS r v).geo = t.geo := by unfold Thread.setS; split <;> rfl
@[simp] theorem Thread.setS_handling (t : Thread) (r : Reg) (v : DWord) : (t.setS r v).handling = t.handling := by unfold Thread.setS; split <;> rfl
@[simp] theorem Thread.setS_claims (t : Thread) (r : Reg) (v : DWord) : (t.setS r v).claims = t.claims := by unfold Thread.setS; split <;> rfl

@[simp] theorem Thread.setP_id (t : Thread) (r : PReg) (v : DWord) : (t.setP r v).id = t.id := rfl
@[simp] theorem Thread.setP_run (t : Thread) (r : PReg) (v : DWord) : (t.setP r v).run = t.run := rfl
@[simp] theorem Thread.setP_node (t : Thread) (r : PReg) (v : DWord) : (t.setP r v).node = t.node := rfl
@[simp] theorem Thread.setP_role (t : Thread) (r : PReg) (v : DWord) : (t.setP r v).role = t.role := rfl
@[simp] theorem Thread.setP_rank (t : Thread) (r : PReg) (v : DWord) : (t.setP r v).rank = t.rank := rfl
@[simp] theorem Thread.setP_width (t : Thread) (r : PReg) (v : DWord) : (t.setP r v).width = t.width := rfl
@[simp] theorem Thread.setP_kind (t : Thread) (r : PReg) (v : DWord) : (t.setP r v).kind = t.kind := rfl
@[simp] theorem Thread.setP_prio (t : Thread) (r : PReg) (v : DWord) : (t.setP r v).prio = t.prio := rfl
@[simp] theorem Thread.setP_stage (t : Thread) (r : PReg) (v : DWord) : (t.setP r v).stage = t.stage := rfl
@[simp] theorem Thread.setP_pc (t : Thread) (r : PReg) (v : DWord) : (t.setP r v).pc = t.pc := rfl
@[simp] theorem Thread.setP_wp (t : Thread) (r : PReg) (v : DWord) : (t.setP r v).wp = t.wp := rfl
@[simp] theorem Thread.setP_loops (t : Thread) (r : PReg) (v : DWord) : (t.setP r v).loops = t.loops := rfl
@[simp] theorem Thread.setP_status (t : Thread) (r : PReg) (v : DWord) : (t.setP r v).status = t.status := rfl
@[simp] theorem Thread.setP_pay (t : Thread) (r : PReg) (v : DWord) : (t.setP r v).pay = t.pay := rfl
@[simp] theorem Thread.setP_epc (t : Thread) (r : PReg) (v : DWord) : (t.setP r v).epc = t.epc := rfl
@[simp] theorem Thread.setP_ecause (t : Thread) (r : PReg) (v : DWord) : (t.setP r v).ecause = t.ecause := rfl
@[simp] theorem Thread.setP_eval (t : Thread) (r : PReg) (v : DWord) : (t.setP r v).eval = t.eval := rfl
@[simp] theorem Thread.setP_utvec (t : Thread) (r : PReg) (v : DWord) : (t.setP r v).utvec = t.utvec := rfl
@[simp] theorem Thread.setP_uivec (t : Thread) (r : PReg) (v : DWord) : (t.setP r v).uivec = t.uivec := rfl
@[simp] theorem Thread.setP_upc (t : Thread) (r : PReg) (v : DWord) : (t.setP r v).upc = t.upc := rfl
@[simp] theorem Thread.setP_ucause (t : Thread) (r : PReg) (v : DWord) : (t.setP r v).ucause = t.ucause := rfl
@[simp] theorem Thread.setP_stvec (t : Thread) (r : PReg) (v : DWord) : (t.setP r v).stvec = t.stvec := rfl
@[simp] theorem Thread.setP_hbivl (t : Thread) (r : PReg) (v : DWord) : (t.setP r v).hbivl = t.hbivl := rfl
@[simp] theorem Thread.setP_hbcnt (t : Thread) (r : PReg) (v : DWord) : (t.setP r v).hbcnt = t.hbcnt := rfl
@[simp] theorem Thread.setP_asid (t : Thread) (r : PReg) (v : DWord) : (t.setP r v).asid = t.asid := rfl
@[simp] theorem Thread.setP_world (t : Thread) (r : PReg) (v : DWord) : (t.setP r v).world = t.world := rfl
@[simp] theorem Thread.setP_mrstl (t : Thread) (r : PReg) (v : DWord) : (t.setP r v).mrstl = t.mrstl := rfl
@[simp] theorem Thread.setP_savea (t : Thread) (r : PReg) (v : DWord) : (t.setP r v).savea = t.savea := rfl
@[simp] theorem Thread.setP_monitor (t : Thread) (r : PReg) (v : DWord) : (t.setP r v).monitor = t.monitor := rfl
@[simp] theorem Thread.setP_notifies (t : Thread) (r : PReg) (v : DWord) : (t.setP r v).notifies = t.notifies := rfl
@[simp] theorem Thread.setP_wait (t : Thread) (r : PReg) (v : DWord) : (t.setP r v).wait = t.wait := rfl
@[simp] theorem Thread.setP_nextIssue (t : Thread) (r : PReg) (v : DWord) : (t.setP r v).nextIssue = t.nextIssue := rfl
@[simp] theorem Thread.setP_justResumed (t : Thread) (r : PReg) (v : DWord) : (t.setP r v).justResumed = t.justResumed := rfl
@[simp] theorem Thread.setP_realigned (t : Thread) (r : PReg) (v : DWord) : (t.setP r v).realigned = t.realigned := rfl
@[simp] theorem Thread.setP_stepping (t : Thread) (r : PReg) (v : DWord) : (t.setP r v).stepping = t.stepping := rfl
@[simp] theorem Thread.setP_fifo (t : Thread) (r : PReg) (v : DWord) : (t.setP r v).fifo = t.fifo := rfl
@[simp] theorem Thread.setP_lastWindow (t : Thread) (r : PReg) (v : DWord) : (t.setP r v).lastWindow = t.lastWindow := rfl
@[simp] theorem Thread.setP_readLines (t : Thread) (r : PReg) (v : DWord) : (t.setP r v).readLines = t.readLines := rfl
@[simp] theorem Thread.setP_sent (t : Thread) (r : PReg) (v : DWord) : (t.setP r v).sent = t.sent := rfl
@[simp] theorem Thread.setP_inWord (t : Thread) (r : PReg) (v : DWord) : (t.setP r v).inWord = t.inWord := rfl
@[simp] theorem Thread.setP_word (t : Thread) (r : PReg) (v : DWord) : (t.setP r v).word = t.word := rfl
@[simp] theorem Thread.setP_retried (t : Thread) (r : PReg) (v : DWord) : (t.setP r v).retried = t.retried := rfl
@[simp] theorem Thread.setP_failed (t : Thread) (r : PReg) (v : DWord) : (t.setP r v).failed = t.failed := rfl
@[simp] theorem Thread.setP_hbMet (t : Thread) (r : PReg) (v : DWord) : (t.setP r v).hbMet = t.hbMet := rfl
@[simp] theorem Thread.setP_line (t : Thread) (r : PReg) (v : DWord) : (t.setP r v).line = t.line := rfl
@[simp] theorem Thread.setP_progress (t : Thread) (r : PReg) (v : DWord) : (t.setP r v).progress = t.progress := rfl
@[simp] theorem Thread.setP_geo (t : Thread) (r : PReg) (v : DWord) : (t.setP r v).geo = t.geo := rfl
@[simp] theorem Thread.setP_handling (t : Thread) (r : PReg) (v : DWord) : (t.setP r v).handling = t.handling := rfl
@[simp] theorem Thread.setP_claims (t : Thread) (r : PReg) (v : DWord) : (t.setP r v).claims = t.claims := rfl

@[simp] theorem Thread.setV_id (t : Thread) (r : Reg) (v : VecWord) : (t.setV r v).id = t.id := rfl
@[simp] theorem Thread.setV_run (t : Thread) (r : Reg) (v : VecWord) : (t.setV r v).run = t.run := rfl
@[simp] theorem Thread.setV_node (t : Thread) (r : Reg) (v : VecWord) : (t.setV r v).node = t.node := rfl
@[simp] theorem Thread.setV_role (t : Thread) (r : Reg) (v : VecWord) : (t.setV r v).role = t.role := rfl
@[simp] theorem Thread.setV_rank (t : Thread) (r : Reg) (v : VecWord) : (t.setV r v).rank = t.rank := rfl
@[simp] theorem Thread.setV_width (t : Thread) (r : Reg) (v : VecWord) : (t.setV r v).width = t.width := rfl
@[simp] theorem Thread.setV_kind (t : Thread) (r : Reg) (v : VecWord) : (t.setV r v).kind = t.kind := rfl
@[simp] theorem Thread.setV_prio (t : Thread) (r : Reg) (v : VecWord) : (t.setV r v).prio = t.prio := rfl
@[simp] theorem Thread.setV_stage (t : Thread) (r : Reg) (v : VecWord) : (t.setV r v).stage = t.stage := rfl
@[simp] theorem Thread.setV_pc (t : Thread) (r : Reg) (v : VecWord) : (t.setV r v).pc = t.pc := rfl
@[simp] theorem Thread.setV_wp (t : Thread) (r : Reg) (v : VecWord) : (t.setV r v).wp = t.wp := rfl
@[simp] theorem Thread.setV_loops (t : Thread) (r : Reg) (v : VecWord) : (t.setV r v).loops = t.loops := rfl
@[simp] theorem Thread.setV_status (t : Thread) (r : Reg) (v : VecWord) : (t.setV r v).status = t.status := rfl
@[simp] theorem Thread.setV_pay (t : Thread) (r : Reg) (v : VecWord) : (t.setV r v).pay = t.pay := rfl
@[simp] theorem Thread.setV_epc (t : Thread) (r : Reg) (v : VecWord) : (t.setV r v).epc = t.epc := rfl
@[simp] theorem Thread.setV_ecause (t : Thread) (r : Reg) (v : VecWord) : (t.setV r v).ecause = t.ecause := rfl
@[simp] theorem Thread.setV_eval (t : Thread) (r : Reg) (v : VecWord) : (t.setV r v).eval = t.eval := rfl
@[simp] theorem Thread.setV_utvec (t : Thread) (r : Reg) (v : VecWord) : (t.setV r v).utvec = t.utvec := rfl
@[simp] theorem Thread.setV_uivec (t : Thread) (r : Reg) (v : VecWord) : (t.setV r v).uivec = t.uivec := rfl
@[simp] theorem Thread.setV_upc (t : Thread) (r : Reg) (v : VecWord) : (t.setV r v).upc = t.upc := rfl
@[simp] theorem Thread.setV_ucause (t : Thread) (r : Reg) (v : VecWord) : (t.setV r v).ucause = t.ucause := rfl
@[simp] theorem Thread.setV_stvec (t : Thread) (r : Reg) (v : VecWord) : (t.setV r v).stvec = t.stvec := rfl
@[simp] theorem Thread.setV_hbivl (t : Thread) (r : Reg) (v : VecWord) : (t.setV r v).hbivl = t.hbivl := rfl
@[simp] theorem Thread.setV_hbcnt (t : Thread) (r : Reg) (v : VecWord) : (t.setV r v).hbcnt = t.hbcnt := rfl
@[simp] theorem Thread.setV_asid (t : Thread) (r : Reg) (v : VecWord) : (t.setV r v).asid = t.asid := rfl
@[simp] theorem Thread.setV_world (t : Thread) (r : Reg) (v : VecWord) : (t.setV r v).world = t.world := rfl
@[simp] theorem Thread.setV_mrstl (t : Thread) (r : Reg) (v : VecWord) : (t.setV r v).mrstl = t.mrstl := rfl
@[simp] theorem Thread.setV_savea (t : Thread) (r : Reg) (v : VecWord) : (t.setV r v).savea = t.savea := rfl
@[simp] theorem Thread.setV_monitor (t : Thread) (r : Reg) (v : VecWord) : (t.setV r v).monitor = t.monitor := rfl
@[simp] theorem Thread.setV_notifies (t : Thread) (r : Reg) (v : VecWord) : (t.setV r v).notifies = t.notifies := rfl
@[simp] theorem Thread.setV_wait (t : Thread) (r : Reg) (v : VecWord) : (t.setV r v).wait = t.wait := rfl
@[simp] theorem Thread.setV_nextIssue (t : Thread) (r : Reg) (v : VecWord) : (t.setV r v).nextIssue = t.nextIssue := rfl
@[simp] theorem Thread.setV_justResumed (t : Thread) (r : Reg) (v : VecWord) : (t.setV r v).justResumed = t.justResumed := rfl
@[simp] theorem Thread.setV_realigned (t : Thread) (r : Reg) (v : VecWord) : (t.setV r v).realigned = t.realigned := rfl
@[simp] theorem Thread.setV_stepping (t : Thread) (r : Reg) (v : VecWord) : (t.setV r v).stepping = t.stepping := rfl
@[simp] theorem Thread.setV_fifo (t : Thread) (r : Reg) (v : VecWord) : (t.setV r v).fifo = t.fifo := rfl
@[simp] theorem Thread.setV_lastWindow (t : Thread) (r : Reg) (v : VecWord) : (t.setV r v).lastWindow = t.lastWindow := rfl
@[simp] theorem Thread.setV_readLines (t : Thread) (r : Reg) (v : VecWord) : (t.setV r v).readLines = t.readLines := rfl
@[simp] theorem Thread.setV_sent (t : Thread) (r : Reg) (v : VecWord) : (t.setV r v).sent = t.sent := rfl
@[simp] theorem Thread.setV_inWord (t : Thread) (r : Reg) (v : VecWord) : (t.setV r v).inWord = t.inWord := rfl
@[simp] theorem Thread.setV_word (t : Thread) (r : Reg) (v : VecWord) : (t.setV r v).word = t.word := rfl
@[simp] theorem Thread.setV_retried (t : Thread) (r : Reg) (v : VecWord) : (t.setV r v).retried = t.retried := rfl
@[simp] theorem Thread.setV_failed (t : Thread) (r : Reg) (v : VecWord) : (t.setV r v).failed = t.failed := rfl
@[simp] theorem Thread.setV_hbMet (t : Thread) (r : Reg) (v : VecWord) : (t.setV r v).hbMet = t.hbMet := rfl
@[simp] theorem Thread.setV_line (t : Thread) (r : Reg) (v : VecWord) : (t.setV r v).line = t.line := rfl
@[simp] theorem Thread.setV_progress (t : Thread) (r : Reg) (v : VecWord) : (t.setV r v).progress = t.progress := rfl
@[simp] theorem Thread.setV_geo (t : Thread) (r : Reg) (v : VecWord) : (t.setV r v).geo = t.geo := rfl
@[simp] theorem Thread.setV_handling (t : Thread) (r : Reg) (v : VecWord) : (t.setV r v).handling = t.handling := rfl
@[simp] theorem Thread.setV_claims (t : Thread) (r : Reg) (v : VecWord) : (t.setV r v).claims = t.claims := rfl

@[simp] theorem Thread.setQ_id (t : Thread) (r : QReg) (v : QWord) : (t.setQ r v).id = t.id := rfl
@[simp] theorem Thread.setQ_run (t : Thread) (r : QReg) (v : QWord) : (t.setQ r v).run = t.run := rfl
@[simp] theorem Thread.setQ_node (t : Thread) (r : QReg) (v : QWord) : (t.setQ r v).node = t.node := rfl
@[simp] theorem Thread.setQ_role (t : Thread) (r : QReg) (v : QWord) : (t.setQ r v).role = t.role := rfl
@[simp] theorem Thread.setQ_rank (t : Thread) (r : QReg) (v : QWord) : (t.setQ r v).rank = t.rank := rfl
@[simp] theorem Thread.setQ_width (t : Thread) (r : QReg) (v : QWord) : (t.setQ r v).width = t.width := rfl
@[simp] theorem Thread.setQ_kind (t : Thread) (r : QReg) (v : QWord) : (t.setQ r v).kind = t.kind := rfl
@[simp] theorem Thread.setQ_prio (t : Thread) (r : QReg) (v : QWord) : (t.setQ r v).prio = t.prio := rfl
@[simp] theorem Thread.setQ_stage (t : Thread) (r : QReg) (v : QWord) : (t.setQ r v).stage = t.stage := rfl
@[simp] theorem Thread.setQ_pc (t : Thread) (r : QReg) (v : QWord) : (t.setQ r v).pc = t.pc := rfl
@[simp] theorem Thread.setQ_wp (t : Thread) (r : QReg) (v : QWord) : (t.setQ r v).wp = t.wp := rfl
@[simp] theorem Thread.setQ_loops (t : Thread) (r : QReg) (v : QWord) : (t.setQ r v).loops = t.loops := rfl
@[simp] theorem Thread.setQ_status (t : Thread) (r : QReg) (v : QWord) : (t.setQ r v).status = t.status := rfl
@[simp] theorem Thread.setQ_pay (t : Thread) (r : QReg) (v : QWord) : (t.setQ r v).pay = t.pay := rfl
@[simp] theorem Thread.setQ_epc (t : Thread) (r : QReg) (v : QWord) : (t.setQ r v).epc = t.epc := rfl
@[simp] theorem Thread.setQ_ecause (t : Thread) (r : QReg) (v : QWord) : (t.setQ r v).ecause = t.ecause := rfl
@[simp] theorem Thread.setQ_eval (t : Thread) (r : QReg) (v : QWord) : (t.setQ r v).eval = t.eval := rfl
@[simp] theorem Thread.setQ_utvec (t : Thread) (r : QReg) (v : QWord) : (t.setQ r v).utvec = t.utvec := rfl
@[simp] theorem Thread.setQ_uivec (t : Thread) (r : QReg) (v : QWord) : (t.setQ r v).uivec = t.uivec := rfl
@[simp] theorem Thread.setQ_upc (t : Thread) (r : QReg) (v : QWord) : (t.setQ r v).upc = t.upc := rfl
@[simp] theorem Thread.setQ_ucause (t : Thread) (r : QReg) (v : QWord) : (t.setQ r v).ucause = t.ucause := rfl
@[simp] theorem Thread.setQ_stvec (t : Thread) (r : QReg) (v : QWord) : (t.setQ r v).stvec = t.stvec := rfl
@[simp] theorem Thread.setQ_hbivl (t : Thread) (r : QReg) (v : QWord) : (t.setQ r v).hbivl = t.hbivl := rfl
@[simp] theorem Thread.setQ_hbcnt (t : Thread) (r : QReg) (v : QWord) : (t.setQ r v).hbcnt = t.hbcnt := rfl
@[simp] theorem Thread.setQ_asid (t : Thread) (r : QReg) (v : QWord) : (t.setQ r v).asid = t.asid := rfl
@[simp] theorem Thread.setQ_world (t : Thread) (r : QReg) (v : QWord) : (t.setQ r v).world = t.world := rfl
@[simp] theorem Thread.setQ_mrstl (t : Thread) (r : QReg) (v : QWord) : (t.setQ r v).mrstl = t.mrstl := rfl
@[simp] theorem Thread.setQ_savea (t : Thread) (r : QReg) (v : QWord) : (t.setQ r v).savea = t.savea := rfl
@[simp] theorem Thread.setQ_monitor (t : Thread) (r : QReg) (v : QWord) : (t.setQ r v).monitor = t.monitor := rfl
@[simp] theorem Thread.setQ_notifies (t : Thread) (r : QReg) (v : QWord) : (t.setQ r v).notifies = t.notifies := rfl
@[simp] theorem Thread.setQ_wait (t : Thread) (r : QReg) (v : QWord) : (t.setQ r v).wait = t.wait := rfl
@[simp] theorem Thread.setQ_nextIssue (t : Thread) (r : QReg) (v : QWord) : (t.setQ r v).nextIssue = t.nextIssue := rfl
@[simp] theorem Thread.setQ_justResumed (t : Thread) (r : QReg) (v : QWord) : (t.setQ r v).justResumed = t.justResumed := rfl
@[simp] theorem Thread.setQ_realigned (t : Thread) (r : QReg) (v : QWord) : (t.setQ r v).realigned = t.realigned := rfl
@[simp] theorem Thread.setQ_stepping (t : Thread) (r : QReg) (v : QWord) : (t.setQ r v).stepping = t.stepping := rfl
@[simp] theorem Thread.setQ_fifo (t : Thread) (r : QReg) (v : QWord) : (t.setQ r v).fifo = t.fifo := rfl
@[simp] theorem Thread.setQ_lastWindow (t : Thread) (r : QReg) (v : QWord) : (t.setQ r v).lastWindow = t.lastWindow := rfl
@[simp] theorem Thread.setQ_readLines (t : Thread) (r : QReg) (v : QWord) : (t.setQ r v).readLines = t.readLines := rfl
@[simp] theorem Thread.setQ_sent (t : Thread) (r : QReg) (v : QWord) : (t.setQ r v).sent = t.sent := rfl
@[simp] theorem Thread.setQ_inWord (t : Thread) (r : QReg) (v : QWord) : (t.setQ r v).inWord = t.inWord := rfl
@[simp] theorem Thread.setQ_word (t : Thread) (r : QReg) (v : QWord) : (t.setQ r v).word = t.word := rfl
@[simp] theorem Thread.setQ_retried (t : Thread) (r : QReg) (v : QWord) : (t.setQ r v).retried = t.retried := rfl
@[simp] theorem Thread.setQ_failed (t : Thread) (r : QReg) (v : QWord) : (t.setQ r v).failed = t.failed := rfl
@[simp] theorem Thread.setQ_hbMet (t : Thread) (r : QReg) (v : QWord) : (t.setQ r v).hbMet = t.hbMet := rfl
@[simp] theorem Thread.setQ_line (t : Thread) (r : QReg) (v : QWord) : (t.setQ r v).line = t.line := rfl
@[simp] theorem Thread.setQ_progress (t : Thread) (r : QReg) (v : QWord) : (t.setQ r v).progress = t.progress := rfl
@[simp] theorem Thread.setQ_geo (t : Thread) (r : QReg) (v : QWord) : (t.setQ r v).geo = t.geo := rfl
@[simp] theorem Thread.setQ_handling (t : Thread) (r : QReg) (v : QWord) : (t.setQ r v).handling = t.handling := rfl
@[simp] theorem Thread.setQ_claims (t : Thread) (r : QReg) (v : QWord) : (t.setQ r v).claims = t.claims := rfl

@[simp] theorem Thread.clearHints_id (t : Thread)  : t.clearHints.id = t.id := rfl
@[simp] theorem Thread.clearHints_run (t : Thread)  : t.clearHints.run = t.run := rfl
@[simp] theorem Thread.clearHints_node (t : Thread)  : t.clearHints.node = t.node := rfl
@[simp] theorem Thread.clearHints_role (t : Thread)  : t.clearHints.role = t.role := rfl
@[simp] theorem Thread.clearHints_rank (t : Thread)  : t.clearHints.rank = t.rank := rfl
@[simp] theorem Thread.clearHints_width (t : Thread)  : t.clearHints.width = t.width := rfl
@[simp] theorem Thread.clearHints_kind (t : Thread)  : t.clearHints.kind = t.kind := rfl
@[simp] theorem Thread.clearHints_prio (t : Thread)  : t.clearHints.prio = t.prio := rfl
@[simp] theorem Thread.clearHints_stage (t : Thread)  : t.clearHints.stage = t.stage := rfl
@[simp] theorem Thread.clearHints_pc (t : Thread)  : t.clearHints.pc = t.pc := rfl
@[simp] theorem Thread.clearHints_wp (t : Thread)  : t.clearHints.wp = t.wp := rfl
@[simp] theorem Thread.clearHints_ws (t : Thread)  : t.clearHints.ws = t.ws := rfl
@[simp] theorem Thread.clearHints_loops (t : Thread)  : t.clearHints.loops = t.loops := rfl
@[simp] theorem Thread.clearHints_epc (t : Thread)  : t.clearHints.epc = t.epc := rfl
@[simp] theorem Thread.clearHints_ecause (t : Thread)  : t.clearHints.ecause = t.ecause := rfl
@[simp] theorem Thread.clearHints_eval (t : Thread)  : t.clearHints.eval = t.eval := rfl
@[simp] theorem Thread.clearHints_utvec (t : Thread)  : t.clearHints.utvec = t.utvec := rfl
@[simp] theorem Thread.clearHints_uivec (t : Thread)  : t.clearHints.uivec = t.uivec := rfl
@[simp] theorem Thread.clearHints_upc (t : Thread)  : t.clearHints.upc = t.upc := rfl
@[simp] theorem Thread.clearHints_ucause (t : Thread)  : t.clearHints.ucause = t.ucause := rfl
@[simp] theorem Thread.clearHints_stvec (t : Thread)  : t.clearHints.stvec = t.stvec := rfl
@[simp] theorem Thread.clearHints_hbivl (t : Thread)  : t.clearHints.hbivl = t.hbivl := rfl
@[simp] theorem Thread.clearHints_hbcnt (t : Thread)  : t.clearHints.hbcnt = t.hbcnt := rfl
@[simp] theorem Thread.clearHints_asid (t : Thread)  : t.clearHints.asid = t.asid := rfl
@[simp] theorem Thread.clearHints_world (t : Thread)  : t.clearHints.world = t.world := rfl
@[simp] theorem Thread.clearHints_mrstl (t : Thread)  : t.clearHints.mrstl = t.mrstl := rfl
@[simp] theorem Thread.clearHints_savea (t : Thread)  : t.clearHints.savea = t.savea := rfl
@[simp] theorem Thread.clearHints_monitor (t : Thread)  : t.clearHints.monitor = t.monitor := rfl
@[simp] theorem Thread.clearHints_notifies (t : Thread)  : t.clearHints.notifies = t.notifies := rfl
@[simp] theorem Thread.clearHints_wait (t : Thread)  : t.clearHints.wait = t.wait := rfl
@[simp] theorem Thread.clearHints_nextIssue (t : Thread)  : t.clearHints.nextIssue = t.nextIssue := rfl
@[simp] theorem Thread.clearHints_justResumed (t : Thread)  : t.clearHints.justResumed = t.justResumed := rfl
@[simp] theorem Thread.clearHints_stepping (t : Thread)  : t.clearHints.stepping = t.stepping := rfl
@[simp] theorem Thread.clearHints_fifo (t : Thread)  : t.clearHints.fifo = t.fifo := rfl
@[simp] theorem Thread.clearHints_lastWindow (t : Thread)  : t.clearHints.lastWindow = t.lastWindow := rfl
@[simp] theorem Thread.clearHints_readLines (t : Thread)  : t.clearHints.readLines = t.readLines := rfl
@[simp] theorem Thread.clearHints_sent (t : Thread)  : t.clearHints.sent = t.sent := rfl
@[simp] theorem Thread.clearHints_inWord (t : Thread)  : t.clearHints.inWord = t.inWord := rfl
@[simp] theorem Thread.clearHints_word (t : Thread)  : t.clearHints.word = t.word := rfl
@[simp] theorem Thread.clearHints_retried (t : Thread)  : t.clearHints.retried = t.retried := rfl
@[simp] theorem Thread.clearHints_failed (t : Thread)  : t.clearHints.failed = t.failed := rfl
@[simp] theorem Thread.clearHints_hbMet (t : Thread)  : t.clearHints.hbMet = t.hbMet := rfl
@[simp] theorem Thread.clearHints_line (t : Thread)  : t.clearHints.line = t.line := rfl
@[simp] theorem Thread.clearHints_progress (t : Thread)  : t.clearHints.progress = t.progress := rfl
@[simp] theorem Thread.clearHints_geo (t : Thread)  : t.clearHints.geo = t.geo := rfl
@[simp] theorem Thread.clearHints_handling (t : Thread)  : t.clearHints.handling = t.handling := rfl
@[simp] theorem Thread.clearHints_claims (t : Thread)  : t.clearHints.claims = t.claims := rfl

@[simp] theorem Thread.done_id (t : Thread) (n : Nat) : (t.done n).id = t.id := rfl
@[simp] theorem Thread.done_run (t : Thread) (n : Nat) : (t.done n).run = t.run := rfl
@[simp] theorem Thread.done_node (t : Thread) (n : Nat) : (t.done n).node = t.node := rfl
@[simp] theorem Thread.done_role (t : Thread) (n : Nat) : (t.done n).role = t.role := rfl
@[simp] theorem Thread.done_rank (t : Thread) (n : Nat) : (t.done n).rank = t.rank := rfl
@[simp] theorem Thread.done_width (t : Thread) (n : Nat) : (t.done n).width = t.width := rfl
@[simp] theorem Thread.done_kind (t : Thread) (n : Nat) : (t.done n).kind = t.kind := rfl
@[simp] theorem Thread.done_prio (t : Thread) (n : Nat) : (t.done n).prio = t.prio := rfl
@[simp] theorem Thread.done_stage (t : Thread) (n : Nat) : (t.done n).stage = t.stage := rfl
@[simp] theorem Thread.done_pc (t : Thread) (n : Nat) : (t.done n).pc = t.pc := rfl
@[simp] theorem Thread.done_wp (t : Thread) (n : Nat) : (t.done n).wp = t.wp := rfl
@[simp] theorem Thread.done_ws (t : Thread) (n : Nat) : (t.done n).ws = t.ws := rfl
@[simp] theorem Thread.done_loops (t : Thread) (n : Nat) : (t.done n).loops = t.loops := rfl
@[simp] theorem Thread.done_epc (t : Thread) (n : Nat) : (t.done n).epc = t.epc := rfl
@[simp] theorem Thread.done_ecause (t : Thread) (n : Nat) : (t.done n).ecause = t.ecause := rfl
@[simp] theorem Thread.done_eval (t : Thread) (n : Nat) : (t.done n).eval = t.eval := rfl
@[simp] theorem Thread.done_utvec (t : Thread) (n : Nat) : (t.done n).utvec = t.utvec := rfl
@[simp] theorem Thread.done_uivec (t : Thread) (n : Nat) : (t.done n).uivec = t.uivec := rfl
@[simp] theorem Thread.done_upc (t : Thread) (n : Nat) : (t.done n).upc = t.upc := rfl
@[simp] theorem Thread.done_ucause (t : Thread) (n : Nat) : (t.done n).ucause = t.ucause := rfl
@[simp] theorem Thread.done_stvec (t : Thread) (n : Nat) : (t.done n).stvec = t.stvec := rfl
@[simp] theorem Thread.done_hbivl (t : Thread) (n : Nat) : (t.done n).hbivl = t.hbivl := rfl
@[simp] theorem Thread.done_hbcnt (t : Thread) (n : Nat) : (t.done n).hbcnt = t.hbcnt := rfl
@[simp] theorem Thread.done_asid (t : Thread) (n : Nat) : (t.done n).asid = t.asid := rfl
@[simp] theorem Thread.done_world (t : Thread) (n : Nat) : (t.done n).world = t.world := rfl
@[simp] theorem Thread.done_mrstl (t : Thread) (n : Nat) : (t.done n).mrstl = t.mrstl := rfl
@[simp] theorem Thread.done_savea (t : Thread) (n : Nat) : (t.done n).savea = t.savea := rfl
@[simp] theorem Thread.done_monitor (t : Thread) (n : Nat) : (t.done n).monitor = t.monitor := rfl
@[simp] theorem Thread.done_notifies (t : Thread) (n : Nat) : (t.done n).notifies = t.notifies := rfl
@[simp] theorem Thread.done_stepping (t : Thread) (n : Nat) : (t.done n).stepping = t.stepping := rfl
@[simp] theorem Thread.done_fifo (t : Thread) (n : Nat) : (t.done n).fifo = t.fifo := rfl
@[simp] theorem Thread.done_lastWindow (t : Thread) (n : Nat) : (t.done n).lastWindow = t.lastWindow := rfl
@[simp] theorem Thread.done_readLines (t : Thread) (n : Nat) : (t.done n).readLines = t.readLines := rfl
@[simp] theorem Thread.done_sent (t : Thread) (n : Nat) : (t.done n).sent = t.sent := rfl
@[simp] theorem Thread.done_inWord (t : Thread) (n : Nat) : (t.done n).inWord = t.inWord := rfl
@[simp] theorem Thread.done_word (t : Thread) (n : Nat) : (t.done n).word = t.word := rfl
@[simp] theorem Thread.done_failed (t : Thread) (n : Nat) : (t.done n).failed = t.failed := rfl
@[simp] theorem Thread.done_hbMet (t : Thread) (n : Nat) : (t.done n).hbMet = t.hbMet := rfl
@[simp] theorem Thread.done_line (t : Thread) (n : Nat) : (t.done n).line = t.line := rfl
@[simp] theorem Thread.done_handling (t : Thread) (n : Nat) : (t.done n).handling = t.handling := rfl

@[simp] theorem Thread.arrive_id (t : Thread) (p : VAddr) : (t.arrive p).id = t.id := rfl
@[simp] theorem Thread.arrive_run (t : Thread) (p : VAddr) : (t.arrive p).run = t.run := rfl
@[simp] theorem Thread.arrive_node (t : Thread) (p : VAddr) : (t.arrive p).node = t.node := rfl
@[simp] theorem Thread.arrive_role (t : Thread) (p : VAddr) : (t.arrive p).role = t.role := rfl
@[simp] theorem Thread.arrive_rank (t : Thread) (p : VAddr) : (t.arrive p).rank = t.rank := rfl
@[simp] theorem Thread.arrive_width (t : Thread) (p : VAddr) : (t.arrive p).width = t.width := rfl
@[simp] theorem Thread.arrive_kind (t : Thread) (p : VAddr) : (t.arrive p).kind = t.kind := rfl
@[simp] theorem Thread.arrive_prio (t : Thread) (p : VAddr) : (t.arrive p).prio = t.prio := rfl
@[simp] theorem Thread.arrive_stage (t : Thread) (p : VAddr) : (t.arrive p).stage = t.stage := rfl
@[simp] theorem Thread.arrive_wp (t : Thread) (p : VAddr) : (t.arrive p).wp = t.wp := rfl
@[simp] theorem Thread.arrive_ws (t : Thread) (p : VAddr) : (t.arrive p).ws = t.ws := rfl
@[simp] theorem Thread.arrive_status (t : Thread) (p : VAddr) : (t.arrive p).status = t.status := rfl
@[simp] theorem Thread.arrive_pay (t : Thread) (p : VAddr) : (t.arrive p).pay = t.pay := rfl
@[simp] theorem Thread.arrive_epc (t : Thread) (p : VAddr) : (t.arrive p).epc = t.epc := rfl
@[simp] theorem Thread.arrive_ecause (t : Thread) (p : VAddr) : (t.arrive p).ecause = t.ecause := rfl
@[simp] theorem Thread.arrive_eval (t : Thread) (p : VAddr) : (t.arrive p).eval = t.eval := rfl
@[simp] theorem Thread.arrive_utvec (t : Thread) (p : VAddr) : (t.arrive p).utvec = t.utvec := rfl
@[simp] theorem Thread.arrive_uivec (t : Thread) (p : VAddr) : (t.arrive p).uivec = t.uivec := rfl
@[simp] theorem Thread.arrive_upc (t : Thread) (p : VAddr) : (t.arrive p).upc = t.upc := rfl
@[simp] theorem Thread.arrive_ucause (t : Thread) (p : VAddr) : (t.arrive p).ucause = t.ucause := rfl
@[simp] theorem Thread.arrive_stvec (t : Thread) (p : VAddr) : (t.arrive p).stvec = t.stvec := rfl
@[simp] theorem Thread.arrive_hbivl (t : Thread) (p : VAddr) : (t.arrive p).hbivl = t.hbivl := rfl
@[simp] theorem Thread.arrive_hbcnt (t : Thread) (p : VAddr) : (t.arrive p).hbcnt = t.hbcnt := rfl
@[simp] theorem Thread.arrive_asid (t : Thread) (p : VAddr) : (t.arrive p).asid = t.asid := rfl
@[simp] theorem Thread.arrive_world (t : Thread) (p : VAddr) : (t.arrive p).world = t.world := rfl
@[simp] theorem Thread.arrive_mrstl (t : Thread) (p : VAddr) : (t.arrive p).mrstl = t.mrstl := rfl
@[simp] theorem Thread.arrive_savea (t : Thread) (p : VAddr) : (t.arrive p).savea = t.savea := rfl
@[simp] theorem Thread.arrive_monitor (t : Thread) (p : VAddr) : (t.arrive p).monitor = t.monitor := rfl
@[simp] theorem Thread.arrive_notifies (t : Thread) (p : VAddr) : (t.arrive p).notifies = t.notifies := rfl
@[simp] theorem Thread.arrive_wait (t : Thread) (p : VAddr) : (t.arrive p).wait = t.wait := rfl
@[simp] theorem Thread.arrive_nextIssue (t : Thread) (p : VAddr) : (t.arrive p).nextIssue = t.nextIssue := rfl
@[simp] theorem Thread.arrive_justResumed (t : Thread) (p : VAddr) : (t.arrive p).justResumed = t.justResumed := rfl
@[simp] theorem Thread.arrive_realigned (t : Thread) (p : VAddr) : (t.arrive p).realigned = t.realigned := rfl
@[simp] theorem Thread.arrive_stepping (t : Thread) (p : VAddr) : (t.arrive p).stepping = t.stepping := rfl
@[simp] theorem Thread.arrive_fifo (t : Thread) (p : VAddr) : (t.arrive p).fifo = t.fifo := rfl
@[simp] theorem Thread.arrive_lastWindow (t : Thread) (p : VAddr) : (t.arrive p).lastWindow = t.lastWindow := rfl
@[simp] theorem Thread.arrive_readLines (t : Thread) (p : VAddr) : (t.arrive p).readLines = t.readLines := rfl
@[simp] theorem Thread.arrive_sent (t : Thread) (p : VAddr) : (t.arrive p).sent = t.sent := rfl
@[simp] theorem Thread.arrive_inWord (t : Thread) (p : VAddr) : (t.arrive p).inWord = t.inWord := rfl
@[simp] theorem Thread.arrive_word (t : Thread) (p : VAddr) : (t.arrive p).word = t.word := rfl
@[simp] theorem Thread.arrive_retried (t : Thread) (p : VAddr) : (t.arrive p).retried = t.retried := rfl
@[simp] theorem Thread.arrive_failed (t : Thread) (p : VAddr) : (t.arrive p).failed = t.failed := rfl
@[simp] theorem Thread.arrive_hbMet (t : Thread) (p : VAddr) : (t.arrive p).hbMet = t.hbMet := rfl
@[simp] theorem Thread.arrive_line (t : Thread) (p : VAddr) : (t.arrive p).line = t.line := rfl
@[simp] theorem Thread.arrive_progress (t : Thread) (p : VAddr) : (t.arrive p).progress = t.progress := rfl
@[simp] theorem Thread.arrive_geo (t : Thread) (p : VAddr) : (t.arrive p).geo = t.geo := rfl
@[simp] theorem Thread.arrive_handling (t : Thread) (p : VAddr) : (t.arrive p).handling = t.handling := rfl
@[simp] theorem Thread.arrive_claims (t : Thread) (p : VAddr) : (t.arrive p).claims = t.claims := rfl

@[simp] theorem State.setS_others (s : State) (r : Reg) (v : DWord) : (s.setS r v).others = s.others := rfl
@[simp] theorem State.setS_mem (s : State) (r : Reg) (v : DWord) : (s.setS r v).mem = s.mem := rfl
@[simp] theorem State.setS_nodes (s : State) (r : Reg) (v : DWord) : (s.setS r v).nodes = s.nodes := rfl
@[simp] theorem State.setS_nextNode (s : State) (r : Reg) (v : DWord) : (s.setS r v).nextNode = s.nextNode := rfl
@[simp] theorem State.setS_cores (s : State) (r : Reg) (v : DWord) : (s.setS r v).cores = s.cores := rfl
@[simp] theorem State.setS_owners (s : State) (r : Reg) (v : DWord) : (s.setS r v).owners = s.owners := rfl
@[simp] theorem State.setS_dies (s : State) (r : Reg) (v : DWord) : (s.setS r v).dies = s.dies := rfl
@[simp] theorem State.setS_sb (s : State) (r : Reg) (v : DWord) : (s.setS r v).sb = s.sb := rfl
@[simp] theorem State.setS_cache (s : State) (r : Reg) (v : DWord) : (s.setS r v).cache = s.cache := rfl
@[simp] theorem State.setS_slices (s : State) (r : Reg) (v : DWord) : (s.setS r v).slices = s.slices := rfl
@[simp] theorem State.setS_icache (s : State) (r : Reg) (v : DWord) : (s.setS r v).icache = s.icache := rfl
@[simp] theorem State.setS_tlb (s : State) (r : Reg) (v : DWord) : (s.setS r v).tlb = s.tlb := rfl
@[simp] theorem State.setS_tlbHits (s : State) (r : Reg) (v : DWord) : (s.setS r v).tlbHits = s.tlbHits := rfl
@[simp] theorem State.setS_tlbMisses (s : State) (r : Reg) (v : DWord) : (s.setS r v).tlbMisses = s.tlbMisses := rfl
@[simp] theorem State.setS_banks (s : State) (r : Reg) (v : DWord) : (s.setS r v).banks = s.banks := rfl
@[simp] theorem State.setS_reefed (s : State) (r : Reg) (v : DWord) : (s.setS r v).reefed = s.reefed := rfl
@[simp] theorem State.setS_touched (s : State) (r : Reg) (v : DWord) : (s.setS r v).touched = s.touched := rfl
@[simp] theorem State.setS_tiles (s : State) (r : Reg) (v : DWord) : (s.setS r v).tiles = s.tiles := rfl
@[simp] theorem State.setS_jobs (s : State) (r : Reg) (v : DWord) : (s.setS r v).jobs = s.jobs := rfl
@[simp] theorem State.setS_groups (s : State) (r : Reg) (v : DWord) : (s.setS r v).groups = s.groups := rfl
@[simp] theorem State.setS_images (s : State) (r : Reg) (v : DWord) : (s.setS r v).images = s.images := rfl
@[simp] theorem State.setS_cmds (s : State) (r : Reg) (v : DWord) : (s.setS r v).cmds = s.cmds := rfl
@[simp] theorem State.setS_nextCmd (s : State) (r : Reg) (v : DWord) : (s.setS r v).nextCmd = s.nextCmd := rfl
@[simp] theorem State.setS_heldWrites (s : State) (r : Reg) (v : DWord) : (s.setS r v).heldWrites = s.heldWrites := rfl
@[simp] theorem State.setS_reservations (s : State) (r : Reg) (v : DWord) : (s.setS r v).reservations = s.reservations := rfl
@[simp] theorem State.setS_counters (s : State) (r : Reg) (v : DWord) : (s.setS r v).counters = s.counters := rfl
@[simp] theorem State.setS_terms (s : State) (r : Reg) (v : DWord) : (s.setS r v).terms = s.terms := rfl
@[simp] theorem State.setS_trueTerms (s : State) (r : Reg) (v : DWord) : (s.setS r v).trueTerms = s.trueTerms := rfl
@[simp] theorem State.setS_pulsed (s : State) (r : Reg) (v : DWord) : (s.setS r v).pulsed = s.pulsed := rfl
@[simp] theorem State.setS_barriers (s : State) (r : Reg) (v : DWord) : (s.setS r v).barriers = s.barriers := rfl
@[simp] theorem State.setS_routines (s : State) (r : Reg) (v : DWord) : (s.setS r v).routines = s.routines := rfl
@[simp] theorem State.setS_routineCtl (s : State) (r : Reg) (v : DWord) : (s.setS r v).routineCtl = s.routineCtl := rfl
@[simp] theorem State.setS_spillQueue (s : State) (r : Reg) (v : DWord) : (s.setS r v).spillQueue = s.spillQueue := rfl
@[simp] theorem State.setS_dir (s : State) (r : Reg) (v : DWord) : (s.setS r v).dir = s.dir := rfl
@[simp] theorem State.setS_ctl (s : State) (r : Reg) (v : DWord) : (s.setS r v).ctl = s.ctl := rfl
@[simp] theorem State.setS_fabric (s : State) (r : Reg) (v : DWord) : (s.setS r v).fabric = s.fabric := rfl
@[simp] theorem State.setS_trust (s : State) (r : Reg) (v : DWord) : (s.setS r v).trust = s.trust := rfl
@[simp] theorem State.setS_typel (s : State) (r : Reg) (v : DWord) : (s.setS r v).typel = s.typel := rfl
@[simp] theorem State.setS_serviceCores (s : State) (r : Reg) (v : DWord) : (s.setS r v).serviceCores = s.serviceCores := rfl
@[simp] theorem State.setS_bad (s : State) (r : Reg) (v : DWord) : (s.setS r v).bad = s.bad := rfl
@[simp] theorem State.setS_seals (s : State) (r : Reg) (v : DWord) : (s.setS r v).seals = s.seals := rfl
@[simp] theorem State.setS_upset (s : State) (r : Reg) (v : DWord) : (s.setS r v).upset = s.upset := rfl
@[simp] theorem State.setS_clock (s : State) (r : Reg) (v : DWord) : (s.setS r v).clock = s.clock := rfl
@[simp] theorem State.setS_time (s : State) (r : Reg) (v : DWord) : (s.setS r v).time = s.time := rfl
@[simp] theorem State.setS_fresh (s : State) (r : Reg) (v : DWord) : (s.setS r v).fresh = s.fresh := rfl
@[simp] theorem State.setS_inbox (s : State) (r : Reg) (v : DWord) : (s.setS r v).inbox = s.inbox := rfl
@[simp] theorem State.setS_outbox (s : State) (r : Reg) (v : DWord) : (s.setS r v).outbox = s.outbox := rfl

@[simp] theorem State.setP_others (s : State) (r : PReg) (v : DWord) : (s.setP r v).others = s.others := rfl
@[simp] theorem State.setP_mem (s : State) (r : PReg) (v : DWord) : (s.setP r v).mem = s.mem := rfl
@[simp] theorem State.setP_nodes (s : State) (r : PReg) (v : DWord) : (s.setP r v).nodes = s.nodes := rfl
@[simp] theorem State.setP_nextNode (s : State) (r : PReg) (v : DWord) : (s.setP r v).nextNode = s.nextNode := rfl
@[simp] theorem State.setP_cores (s : State) (r : PReg) (v : DWord) : (s.setP r v).cores = s.cores := rfl
@[simp] theorem State.setP_owners (s : State) (r : PReg) (v : DWord) : (s.setP r v).owners = s.owners := rfl
@[simp] theorem State.setP_dies (s : State) (r : PReg) (v : DWord) : (s.setP r v).dies = s.dies := rfl
@[simp] theorem State.setP_sb (s : State) (r : PReg) (v : DWord) : (s.setP r v).sb = s.sb := rfl
@[simp] theorem State.setP_cache (s : State) (r : PReg) (v : DWord) : (s.setP r v).cache = s.cache := rfl
@[simp] theorem State.setP_slices (s : State) (r : PReg) (v : DWord) : (s.setP r v).slices = s.slices := rfl
@[simp] theorem State.setP_icache (s : State) (r : PReg) (v : DWord) : (s.setP r v).icache = s.icache := rfl
@[simp] theorem State.setP_tlb (s : State) (r : PReg) (v : DWord) : (s.setP r v).tlb = s.tlb := rfl
@[simp] theorem State.setP_tlbHits (s : State) (r : PReg) (v : DWord) : (s.setP r v).tlbHits = s.tlbHits := rfl
@[simp] theorem State.setP_tlbMisses (s : State) (r : PReg) (v : DWord) : (s.setP r v).tlbMisses = s.tlbMisses := rfl
@[simp] theorem State.setP_banks (s : State) (r : PReg) (v : DWord) : (s.setP r v).banks = s.banks := rfl
@[simp] theorem State.setP_reefed (s : State) (r : PReg) (v : DWord) : (s.setP r v).reefed = s.reefed := rfl
@[simp] theorem State.setP_touched (s : State) (r : PReg) (v : DWord) : (s.setP r v).touched = s.touched := rfl
@[simp] theorem State.setP_tiles (s : State) (r : PReg) (v : DWord) : (s.setP r v).tiles = s.tiles := rfl
@[simp] theorem State.setP_jobs (s : State) (r : PReg) (v : DWord) : (s.setP r v).jobs = s.jobs := rfl
@[simp] theorem State.setP_groups (s : State) (r : PReg) (v : DWord) : (s.setP r v).groups = s.groups := rfl
@[simp] theorem State.setP_images (s : State) (r : PReg) (v : DWord) : (s.setP r v).images = s.images := rfl
@[simp] theorem State.setP_cmds (s : State) (r : PReg) (v : DWord) : (s.setP r v).cmds = s.cmds := rfl
@[simp] theorem State.setP_nextCmd (s : State) (r : PReg) (v : DWord) : (s.setP r v).nextCmd = s.nextCmd := rfl
@[simp] theorem State.setP_heldWrites (s : State) (r : PReg) (v : DWord) : (s.setP r v).heldWrites = s.heldWrites := rfl
@[simp] theorem State.setP_reservations (s : State) (r : PReg) (v : DWord) : (s.setP r v).reservations = s.reservations := rfl
@[simp] theorem State.setP_counters (s : State) (r : PReg) (v : DWord) : (s.setP r v).counters = s.counters := rfl
@[simp] theorem State.setP_terms (s : State) (r : PReg) (v : DWord) : (s.setP r v).terms = s.terms := rfl
@[simp] theorem State.setP_trueTerms (s : State) (r : PReg) (v : DWord) : (s.setP r v).trueTerms = s.trueTerms := rfl
@[simp] theorem State.setP_pulsed (s : State) (r : PReg) (v : DWord) : (s.setP r v).pulsed = s.pulsed := rfl
@[simp] theorem State.setP_barriers (s : State) (r : PReg) (v : DWord) : (s.setP r v).barriers = s.barriers := rfl
@[simp] theorem State.setP_routines (s : State) (r : PReg) (v : DWord) : (s.setP r v).routines = s.routines := rfl
@[simp] theorem State.setP_routineCtl (s : State) (r : PReg) (v : DWord) : (s.setP r v).routineCtl = s.routineCtl := rfl
@[simp] theorem State.setP_spillQueue (s : State) (r : PReg) (v : DWord) : (s.setP r v).spillQueue = s.spillQueue := rfl
@[simp] theorem State.setP_dir (s : State) (r : PReg) (v : DWord) : (s.setP r v).dir = s.dir := rfl
@[simp] theorem State.setP_ctl (s : State) (r : PReg) (v : DWord) : (s.setP r v).ctl = s.ctl := rfl
@[simp] theorem State.setP_fabric (s : State) (r : PReg) (v : DWord) : (s.setP r v).fabric = s.fabric := rfl
@[simp] theorem State.setP_trust (s : State) (r : PReg) (v : DWord) : (s.setP r v).trust = s.trust := rfl
@[simp] theorem State.setP_typel (s : State) (r : PReg) (v : DWord) : (s.setP r v).typel = s.typel := rfl
@[simp] theorem State.setP_serviceCores (s : State) (r : PReg) (v : DWord) : (s.setP r v).serviceCores = s.serviceCores := rfl
@[simp] theorem State.setP_bad (s : State) (r : PReg) (v : DWord) : (s.setP r v).bad = s.bad := rfl
@[simp] theorem State.setP_seals (s : State) (r : PReg) (v : DWord) : (s.setP r v).seals = s.seals := rfl
@[simp] theorem State.setP_upset (s : State) (r : PReg) (v : DWord) : (s.setP r v).upset = s.upset := rfl
@[simp] theorem State.setP_clock (s : State) (r : PReg) (v : DWord) : (s.setP r v).clock = s.clock := rfl
@[simp] theorem State.setP_time (s : State) (r : PReg) (v : DWord) : (s.setP r v).time = s.time := rfl
@[simp] theorem State.setP_fresh (s : State) (r : PReg) (v : DWord) : (s.setP r v).fresh = s.fresh := rfl
@[simp] theorem State.setP_inbox (s : State) (r : PReg) (v : DWord) : (s.setP r v).inbox = s.inbox := rfl
@[simp] theorem State.setP_outbox (s : State) (r : PReg) (v : DWord) : (s.setP r v).outbox = s.outbox := rfl

@[simp] theorem State.setV_others (s : State) (r : Reg) (v : VecWord) : (s.setV r v).others = s.others := rfl
@[simp] theorem State.setV_mem (s : State) (r : Reg) (v : VecWord) : (s.setV r v).mem = s.mem := rfl
@[simp] theorem State.setV_nodes (s : State) (r : Reg) (v : VecWord) : (s.setV r v).nodes = s.nodes := rfl
@[simp] theorem State.setV_nextNode (s : State) (r : Reg) (v : VecWord) : (s.setV r v).nextNode = s.nextNode := rfl
@[simp] theorem State.setV_cores (s : State) (r : Reg) (v : VecWord) : (s.setV r v).cores = s.cores := rfl
@[simp] theorem State.setV_owners (s : State) (r : Reg) (v : VecWord) : (s.setV r v).owners = s.owners := rfl
@[simp] theorem State.setV_dies (s : State) (r : Reg) (v : VecWord) : (s.setV r v).dies = s.dies := rfl
@[simp] theorem State.setV_sb (s : State) (r : Reg) (v : VecWord) : (s.setV r v).sb = s.sb := rfl
@[simp] theorem State.setV_cache (s : State) (r : Reg) (v : VecWord) : (s.setV r v).cache = s.cache := rfl
@[simp] theorem State.setV_slices (s : State) (r : Reg) (v : VecWord) : (s.setV r v).slices = s.slices := rfl
@[simp] theorem State.setV_icache (s : State) (r : Reg) (v : VecWord) : (s.setV r v).icache = s.icache := rfl
@[simp] theorem State.setV_tlb (s : State) (r : Reg) (v : VecWord) : (s.setV r v).tlb = s.tlb := rfl
@[simp] theorem State.setV_tlbHits (s : State) (r : Reg) (v : VecWord) : (s.setV r v).tlbHits = s.tlbHits := rfl
@[simp] theorem State.setV_tlbMisses (s : State) (r : Reg) (v : VecWord) : (s.setV r v).tlbMisses = s.tlbMisses := rfl
@[simp] theorem State.setV_banks (s : State) (r : Reg) (v : VecWord) : (s.setV r v).banks = s.banks := rfl
@[simp] theorem State.setV_reefed (s : State) (r : Reg) (v : VecWord) : (s.setV r v).reefed = s.reefed := rfl
@[simp] theorem State.setV_touched (s : State) (r : Reg) (v : VecWord) : (s.setV r v).touched = s.touched := rfl
@[simp] theorem State.setV_tiles (s : State) (r : Reg) (v : VecWord) : (s.setV r v).tiles = s.tiles := rfl
@[simp] theorem State.setV_jobs (s : State) (r : Reg) (v : VecWord) : (s.setV r v).jobs = s.jobs := rfl
@[simp] theorem State.setV_groups (s : State) (r : Reg) (v : VecWord) : (s.setV r v).groups = s.groups := rfl
@[simp] theorem State.setV_images (s : State) (r : Reg) (v : VecWord) : (s.setV r v).images = s.images := rfl
@[simp] theorem State.setV_cmds (s : State) (r : Reg) (v : VecWord) : (s.setV r v).cmds = s.cmds := rfl
@[simp] theorem State.setV_nextCmd (s : State) (r : Reg) (v : VecWord) : (s.setV r v).nextCmd = s.nextCmd := rfl
@[simp] theorem State.setV_heldWrites (s : State) (r : Reg) (v : VecWord) : (s.setV r v).heldWrites = s.heldWrites := rfl
@[simp] theorem State.setV_reservations (s : State) (r : Reg) (v : VecWord) : (s.setV r v).reservations = s.reservations := rfl
@[simp] theorem State.setV_counters (s : State) (r : Reg) (v : VecWord) : (s.setV r v).counters = s.counters := rfl
@[simp] theorem State.setV_terms (s : State) (r : Reg) (v : VecWord) : (s.setV r v).terms = s.terms := rfl
@[simp] theorem State.setV_trueTerms (s : State) (r : Reg) (v : VecWord) : (s.setV r v).trueTerms = s.trueTerms := rfl
@[simp] theorem State.setV_pulsed (s : State) (r : Reg) (v : VecWord) : (s.setV r v).pulsed = s.pulsed := rfl
@[simp] theorem State.setV_barriers (s : State) (r : Reg) (v : VecWord) : (s.setV r v).barriers = s.barriers := rfl
@[simp] theorem State.setV_routines (s : State) (r : Reg) (v : VecWord) : (s.setV r v).routines = s.routines := rfl
@[simp] theorem State.setV_routineCtl (s : State) (r : Reg) (v : VecWord) : (s.setV r v).routineCtl = s.routineCtl := rfl
@[simp] theorem State.setV_spillQueue (s : State) (r : Reg) (v : VecWord) : (s.setV r v).spillQueue = s.spillQueue := rfl
@[simp] theorem State.setV_dir (s : State) (r : Reg) (v : VecWord) : (s.setV r v).dir = s.dir := rfl
@[simp] theorem State.setV_ctl (s : State) (r : Reg) (v : VecWord) : (s.setV r v).ctl = s.ctl := rfl
@[simp] theorem State.setV_fabric (s : State) (r : Reg) (v : VecWord) : (s.setV r v).fabric = s.fabric := rfl
@[simp] theorem State.setV_trust (s : State) (r : Reg) (v : VecWord) : (s.setV r v).trust = s.trust := rfl
@[simp] theorem State.setV_typel (s : State) (r : Reg) (v : VecWord) : (s.setV r v).typel = s.typel := rfl
@[simp] theorem State.setV_serviceCores (s : State) (r : Reg) (v : VecWord) : (s.setV r v).serviceCores = s.serviceCores := rfl
@[simp] theorem State.setV_bad (s : State) (r : Reg) (v : VecWord) : (s.setV r v).bad = s.bad := rfl
@[simp] theorem State.setV_seals (s : State) (r : Reg) (v : VecWord) : (s.setV r v).seals = s.seals := rfl
@[simp] theorem State.setV_upset (s : State) (r : Reg) (v : VecWord) : (s.setV r v).upset = s.upset := rfl
@[simp] theorem State.setV_clock (s : State) (r : Reg) (v : VecWord) : (s.setV r v).clock = s.clock := rfl
@[simp] theorem State.setV_time (s : State) (r : Reg) (v : VecWord) : (s.setV r v).time = s.time := rfl
@[simp] theorem State.setV_fresh (s : State) (r : Reg) (v : VecWord) : (s.setV r v).fresh = s.fresh := rfl
@[simp] theorem State.setV_inbox (s : State) (r : Reg) (v : VecWord) : (s.setV r v).inbox = s.inbox := rfl
@[simp] theorem State.setV_outbox (s : State) (r : Reg) (v : VecWord) : (s.setV r v).outbox = s.outbox := rfl

@[simp] theorem State.setQ_others (s : State) (r : QReg) (v : QWord) : (s.setQ r v).others = s.others := rfl
@[simp] theorem State.setQ_mem (s : State) (r : QReg) (v : QWord) : (s.setQ r v).mem = s.mem := rfl
@[simp] theorem State.setQ_nodes (s : State) (r : QReg) (v : QWord) : (s.setQ r v).nodes = s.nodes := rfl
@[simp] theorem State.setQ_nextNode (s : State) (r : QReg) (v : QWord) : (s.setQ r v).nextNode = s.nextNode := rfl
@[simp] theorem State.setQ_cores (s : State) (r : QReg) (v : QWord) : (s.setQ r v).cores = s.cores := rfl
@[simp] theorem State.setQ_owners (s : State) (r : QReg) (v : QWord) : (s.setQ r v).owners = s.owners := rfl
@[simp] theorem State.setQ_dies (s : State) (r : QReg) (v : QWord) : (s.setQ r v).dies = s.dies := rfl
@[simp] theorem State.setQ_sb (s : State) (r : QReg) (v : QWord) : (s.setQ r v).sb = s.sb := rfl
@[simp] theorem State.setQ_cache (s : State) (r : QReg) (v : QWord) : (s.setQ r v).cache = s.cache := rfl
@[simp] theorem State.setQ_slices (s : State) (r : QReg) (v : QWord) : (s.setQ r v).slices = s.slices := rfl
@[simp] theorem State.setQ_icache (s : State) (r : QReg) (v : QWord) : (s.setQ r v).icache = s.icache := rfl
@[simp] theorem State.setQ_tlb (s : State) (r : QReg) (v : QWord) : (s.setQ r v).tlb = s.tlb := rfl
@[simp] theorem State.setQ_tlbHits (s : State) (r : QReg) (v : QWord) : (s.setQ r v).tlbHits = s.tlbHits := rfl
@[simp] theorem State.setQ_tlbMisses (s : State) (r : QReg) (v : QWord) : (s.setQ r v).tlbMisses = s.tlbMisses := rfl
@[simp] theorem State.setQ_banks (s : State) (r : QReg) (v : QWord) : (s.setQ r v).banks = s.banks := rfl
@[simp] theorem State.setQ_reefed (s : State) (r : QReg) (v : QWord) : (s.setQ r v).reefed = s.reefed := rfl
@[simp] theorem State.setQ_touched (s : State) (r : QReg) (v : QWord) : (s.setQ r v).touched = s.touched := rfl
@[simp] theorem State.setQ_tiles (s : State) (r : QReg) (v : QWord) : (s.setQ r v).tiles = s.tiles := rfl
@[simp] theorem State.setQ_jobs (s : State) (r : QReg) (v : QWord) : (s.setQ r v).jobs = s.jobs := rfl
@[simp] theorem State.setQ_groups (s : State) (r : QReg) (v : QWord) : (s.setQ r v).groups = s.groups := rfl
@[simp] theorem State.setQ_images (s : State) (r : QReg) (v : QWord) : (s.setQ r v).images = s.images := rfl
@[simp] theorem State.setQ_cmds (s : State) (r : QReg) (v : QWord) : (s.setQ r v).cmds = s.cmds := rfl
@[simp] theorem State.setQ_nextCmd (s : State) (r : QReg) (v : QWord) : (s.setQ r v).nextCmd = s.nextCmd := rfl
@[simp] theorem State.setQ_heldWrites (s : State) (r : QReg) (v : QWord) : (s.setQ r v).heldWrites = s.heldWrites := rfl
@[simp] theorem State.setQ_reservations (s : State) (r : QReg) (v : QWord) : (s.setQ r v).reservations = s.reservations := rfl
@[simp] theorem State.setQ_counters (s : State) (r : QReg) (v : QWord) : (s.setQ r v).counters = s.counters := rfl
@[simp] theorem State.setQ_terms (s : State) (r : QReg) (v : QWord) : (s.setQ r v).terms = s.terms := rfl
@[simp] theorem State.setQ_trueTerms (s : State) (r : QReg) (v : QWord) : (s.setQ r v).trueTerms = s.trueTerms := rfl
@[simp] theorem State.setQ_pulsed (s : State) (r : QReg) (v : QWord) : (s.setQ r v).pulsed = s.pulsed := rfl
@[simp] theorem State.setQ_barriers (s : State) (r : QReg) (v : QWord) : (s.setQ r v).barriers = s.barriers := rfl
@[simp] theorem State.setQ_routines (s : State) (r : QReg) (v : QWord) : (s.setQ r v).routines = s.routines := rfl
@[simp] theorem State.setQ_routineCtl (s : State) (r : QReg) (v : QWord) : (s.setQ r v).routineCtl = s.routineCtl := rfl
@[simp] theorem State.setQ_spillQueue (s : State) (r : QReg) (v : QWord) : (s.setQ r v).spillQueue = s.spillQueue := rfl
@[simp] theorem State.setQ_dir (s : State) (r : QReg) (v : QWord) : (s.setQ r v).dir = s.dir := rfl
@[simp] theorem State.setQ_ctl (s : State) (r : QReg) (v : QWord) : (s.setQ r v).ctl = s.ctl := rfl
@[simp] theorem State.setQ_fabric (s : State) (r : QReg) (v : QWord) : (s.setQ r v).fabric = s.fabric := rfl
@[simp] theorem State.setQ_trust (s : State) (r : QReg) (v : QWord) : (s.setQ r v).trust = s.trust := rfl
@[simp] theorem State.setQ_typel (s : State) (r : QReg) (v : QWord) : (s.setQ r v).typel = s.typel := rfl
@[simp] theorem State.setQ_serviceCores (s : State) (r : QReg) (v : QWord) : (s.setQ r v).serviceCores = s.serviceCores := rfl
@[simp] theorem State.setQ_bad (s : State) (r : QReg) (v : QWord) : (s.setQ r v).bad = s.bad := rfl
@[simp] theorem State.setQ_seals (s : State) (r : QReg) (v : QWord) : (s.setQ r v).seals = s.seals := rfl
@[simp] theorem State.setQ_upset (s : State) (r : QReg) (v : QWord) : (s.setQ r v).upset = s.upset := rfl
@[simp] theorem State.setQ_clock (s : State) (r : QReg) (v : QWord) : (s.setQ r v).clock = s.clock := rfl
@[simp] theorem State.setQ_time (s : State) (r : QReg) (v : QWord) : (s.setQ r v).time = s.time := rfl
@[simp] theorem State.setQ_fresh (s : State) (r : QReg) (v : QWord) : (s.setQ r v).fresh = s.fresh := rfl
@[simp] theorem State.setQ_inbox (s : State) (r : QReg) (v : QWord) : (s.setQ r v).inbox = s.inbox := rfl
@[simp] theorem State.setQ_outbox (s : State) (r : QReg) (v : QWord) : (s.setQ r v).outbox = s.outbox := rfl

@[simp] theorem State.used_thr (s : State)  : s.used.thr = s.thr := rfl
@[simp] theorem State.used_others (s : State)  : s.used.others = s.others := rfl
@[simp] theorem State.used_mem (s : State)  : s.used.mem = s.mem := rfl
@[simp] theorem State.used_nodes (s : State)  : s.used.nodes = s.nodes := rfl
@[simp] theorem State.used_nextNode (s : State)  : s.used.nextNode = s.nextNode := rfl
@[simp] theorem State.used_cores (s : State)  : s.used.cores = s.cores := rfl
@[simp] theorem State.used_owners (s : State)  : s.used.owners = s.owners := rfl
@[simp] theorem State.used_dies (s : State)  : s.used.dies = s.dies := rfl
@[simp] theorem State.used_sb (s : State)  : s.used.sb = s.sb := rfl
@[simp] theorem State.used_cache (s : State)  : s.used.cache = s.cache := rfl
@[simp] theorem State.used_slices (s : State)  : s.used.slices = s.slices := rfl
@[simp] theorem State.used_icache (s : State)  : s.used.icache = s.icache := rfl
@[simp] theorem State.used_tlb (s : State)  : s.used.tlb = s.tlb := rfl
@[simp] theorem State.used_tlbHits (s : State)  : s.used.tlbHits = s.tlbHits := rfl
@[simp] theorem State.used_tlbMisses (s : State)  : s.used.tlbMisses = s.tlbMisses := rfl
@[simp] theorem State.used_banks (s : State)  : s.used.banks = s.banks := rfl
@[simp] theorem State.used_reefed (s : State)  : s.used.reefed = s.reefed := rfl
@[simp] theorem State.used_touched (s : State)  : s.used.touched = s.touched := rfl
@[simp] theorem State.used_tiles (s : State)  : s.used.tiles = s.tiles := rfl
@[simp] theorem State.used_jobs (s : State)  : s.used.jobs = s.jobs := rfl
@[simp] theorem State.used_groups (s : State)  : s.used.groups = s.groups := rfl
@[simp] theorem State.used_images (s : State)  : s.used.images = s.images := rfl
@[simp] theorem State.used_cmds (s : State)  : s.used.cmds = s.cmds := rfl
@[simp] theorem State.used_nextCmd (s : State)  : s.used.nextCmd = s.nextCmd := rfl
@[simp] theorem State.used_heldWrites (s : State)  : s.used.heldWrites = s.heldWrites := rfl
@[simp] theorem State.used_reservations (s : State)  : s.used.reservations = s.reservations := rfl
@[simp] theorem State.used_counters (s : State)  : s.used.counters = s.counters := rfl
@[simp] theorem State.used_terms (s : State)  : s.used.terms = s.terms := rfl
@[simp] theorem State.used_trueTerms (s : State)  : s.used.trueTerms = s.trueTerms := rfl
@[simp] theorem State.used_pulsed (s : State)  : s.used.pulsed = s.pulsed := rfl
@[simp] theorem State.used_barriers (s : State)  : s.used.barriers = s.barriers := rfl
@[simp] theorem State.used_routines (s : State)  : s.used.routines = s.routines := rfl
@[simp] theorem State.used_routineCtl (s : State)  : s.used.routineCtl = s.routineCtl := rfl
@[simp] theorem State.used_spillQueue (s : State)  : s.used.spillQueue = s.spillQueue := rfl
@[simp] theorem State.used_dir (s : State)  : s.used.dir = s.dir := rfl
@[simp] theorem State.used_ctl (s : State)  : s.used.ctl = s.ctl := rfl
@[simp] theorem State.used_fabric (s : State)  : s.used.fabric = s.fabric := rfl
@[simp] theorem State.used_trust (s : State)  : s.used.trust = s.trust := rfl
@[simp] theorem State.used_typel (s : State)  : s.used.typel = s.typel := rfl
@[simp] theorem State.used_serviceCores (s : State)  : s.used.serviceCores = s.serviceCores := rfl
@[simp] theorem State.used_bad (s : State)  : s.used.bad = s.bad := rfl
@[simp] theorem State.used_seals (s : State)  : s.used.seals = s.seals := rfl
@[simp] theorem State.used_upset (s : State)  : s.used.upset = s.upset := rfl
@[simp] theorem State.used_clock (s : State)  : s.used.clock = s.clock := rfl
@[simp] theorem State.used_time (s : State)  : s.used.time = s.time := rfl
@[simp] theorem State.used_inbox (s : State)  : s.used.inbox = s.inbox := rfl
@[simp] theorem State.used_outbox (s : State)  : s.used.outbox = s.outbox := rfl

@[simp] theorem State.passed_others (s : State) (n : Nat) : (s.passed n).others = s.others := rfl
@[simp] theorem State.passed_mem (s : State) (n : Nat) : (s.passed n).mem = s.mem := rfl
@[simp] theorem State.passed_nodes (s : State) (n : Nat) : (s.passed n).nodes = s.nodes := rfl
@[simp] theorem State.passed_nextNode (s : State) (n : Nat) : (s.passed n).nextNode = s.nextNode := rfl
@[simp] theorem State.passed_cores (s : State) (n : Nat) : (s.passed n).cores = s.cores := rfl
@[simp] theorem State.passed_owners (s : State) (n : Nat) : (s.passed n).owners = s.owners := rfl
@[simp] theorem State.passed_dies (s : State) (n : Nat) : (s.passed n).dies = s.dies := rfl
@[simp] theorem State.passed_sb (s : State) (n : Nat) : (s.passed n).sb = s.sb := rfl
@[simp] theorem State.passed_cache (s : State) (n : Nat) : (s.passed n).cache = s.cache := rfl
@[simp] theorem State.passed_slices (s : State) (n : Nat) : (s.passed n).slices = s.slices := rfl
@[simp] theorem State.passed_icache (s : State) (n : Nat) : (s.passed n).icache = s.icache := rfl
@[simp] theorem State.passed_tlb (s : State) (n : Nat) : (s.passed n).tlb = s.tlb := rfl
@[simp] theorem State.passed_tlbHits (s : State) (n : Nat) : (s.passed n).tlbHits = s.tlbHits := rfl
@[simp] theorem State.passed_tlbMisses (s : State) (n : Nat) : (s.passed n).tlbMisses = s.tlbMisses := rfl
@[simp] theorem State.passed_banks (s : State) (n : Nat) : (s.passed n).banks = s.banks := rfl
@[simp] theorem State.passed_reefed (s : State) (n : Nat) : (s.passed n).reefed = s.reefed := rfl
@[simp] theorem State.passed_touched (s : State) (n : Nat) : (s.passed n).touched = s.touched := rfl
@[simp] theorem State.passed_tiles (s : State) (n : Nat) : (s.passed n).tiles = s.tiles := rfl
@[simp] theorem State.passed_jobs (s : State) (n : Nat) : (s.passed n).jobs = s.jobs := rfl
@[simp] theorem State.passed_groups (s : State) (n : Nat) : (s.passed n).groups = s.groups := rfl
@[simp] theorem State.passed_images (s : State) (n : Nat) : (s.passed n).images = s.images := rfl
@[simp] theorem State.passed_cmds (s : State) (n : Nat) : (s.passed n).cmds = s.cmds := rfl
@[simp] theorem State.passed_nextCmd (s : State) (n : Nat) : (s.passed n).nextCmd = s.nextCmd := rfl
@[simp] theorem State.passed_heldWrites (s : State) (n : Nat) : (s.passed n).heldWrites = s.heldWrites := rfl
@[simp] theorem State.passed_reservations (s : State) (n : Nat) : (s.passed n).reservations = s.reservations := rfl
@[simp] theorem State.passed_counters (s : State) (n : Nat) : (s.passed n).counters = s.counters := rfl
@[simp] theorem State.passed_terms (s : State) (n : Nat) : (s.passed n).terms = s.terms := rfl
@[simp] theorem State.passed_trueTerms (s : State) (n : Nat) : (s.passed n).trueTerms = s.trueTerms := rfl
@[simp] theorem State.passed_pulsed (s : State) (n : Nat) : (s.passed n).pulsed = s.pulsed := rfl
@[simp] theorem State.passed_barriers (s : State) (n : Nat) : (s.passed n).barriers = s.barriers := rfl
@[simp] theorem State.passed_routines (s : State) (n : Nat) : (s.passed n).routines = s.routines := rfl
@[simp] theorem State.passed_routineCtl (s : State) (n : Nat) : (s.passed n).routineCtl = s.routineCtl := rfl
@[simp] theorem State.passed_spillQueue (s : State) (n : Nat) : (s.passed n).spillQueue = s.spillQueue := rfl
@[simp] theorem State.passed_dir (s : State) (n : Nat) : (s.passed n).dir = s.dir := rfl
@[simp] theorem State.passed_ctl (s : State) (n : Nat) : (s.passed n).ctl = s.ctl := rfl
@[simp] theorem State.passed_fabric (s : State) (n : Nat) : (s.passed n).fabric = s.fabric := rfl
@[simp] theorem State.passed_trust (s : State) (n : Nat) : (s.passed n).trust = s.trust := rfl
@[simp] theorem State.passed_typel (s : State) (n : Nat) : (s.passed n).typel = s.typel := rfl
@[simp] theorem State.passed_serviceCores (s : State) (n : Nat) : (s.passed n).serviceCores = s.serviceCores := rfl
@[simp] theorem State.passed_bad (s : State) (n : Nat) : (s.passed n).bad = s.bad := rfl
@[simp] theorem State.passed_seals (s : State) (n : Nat) : (s.passed n).seals = s.seals := rfl
@[simp] theorem State.passed_upset (s : State) (n : Nat) : (s.passed n).upset = s.upset := rfl
@[simp] theorem State.passed_clock (s : State) (n : Nat) : (s.passed n).clock = s.clock := rfl
@[simp] theorem State.passed_time (s : State) (n : Nat) : (s.passed n).time = s.time := rfl
@[simp] theorem State.passed_fresh (s : State) (n : Nat) : (s.passed n).fresh = s.fresh := rfl
@[simp] theorem State.passed_inbox (s : State) (n : Nat) : (s.passed n).inbox = s.inbox := rfl
@[simp] theorem State.passed_outbox (s : State) (n : Nat) : (s.passed n).outbox = s.outbox := rfl

@[simp] theorem State.jumped_others (t : VAddr) (l : List LoopEntry) (n : Nat) (s : State) : (s.jumped t l n).others = s.others := rfl
@[simp] theorem State.jumped_mem (t : VAddr) (l : List LoopEntry) (n : Nat) (s : State) : (s.jumped t l n).mem = s.mem := rfl
@[simp] theorem State.jumped_nodes (t : VAddr) (l : List LoopEntry) (n : Nat) (s : State) : (s.jumped t l n).nodes = s.nodes := rfl
@[simp] theorem State.jumped_nextNode (t : VAddr) (l : List LoopEntry) (n : Nat) (s : State) : (s.jumped t l n).nextNode = s.nextNode := rfl
@[simp] theorem State.jumped_cores (t : VAddr) (l : List LoopEntry) (n : Nat) (s : State) : (s.jumped t l n).cores = s.cores := rfl
@[simp] theorem State.jumped_owners (t : VAddr) (l : List LoopEntry) (n : Nat) (s : State) : (s.jumped t l n).owners = s.owners := rfl
@[simp] theorem State.jumped_dies (t : VAddr) (l : List LoopEntry) (n : Nat) (s : State) : (s.jumped t l n).dies = s.dies := rfl
@[simp] theorem State.jumped_sb (t : VAddr) (l : List LoopEntry) (n : Nat) (s : State) : (s.jumped t l n).sb = s.sb := rfl
@[simp] theorem State.jumped_cache (t : VAddr) (l : List LoopEntry) (n : Nat) (s : State) : (s.jumped t l n).cache = s.cache := rfl
@[simp] theorem State.jumped_slices (t : VAddr) (l : List LoopEntry) (n : Nat) (s : State) : (s.jumped t l n).slices = s.slices := rfl
@[simp] theorem State.jumped_icache (t : VAddr) (l : List LoopEntry) (n : Nat) (s : State) : (s.jumped t l n).icache = s.icache := rfl
@[simp] theorem State.jumped_tlb (t : VAddr) (l : List LoopEntry) (n : Nat) (s : State) : (s.jumped t l n).tlb = s.tlb := rfl
@[simp] theorem State.jumped_tlbHits (t : VAddr) (l : List LoopEntry) (n : Nat) (s : State) : (s.jumped t l n).tlbHits = s.tlbHits := rfl
@[simp] theorem State.jumped_tlbMisses (t : VAddr) (l : List LoopEntry) (n : Nat) (s : State) : (s.jumped t l n).tlbMisses = s.tlbMisses := rfl
@[simp] theorem State.jumped_banks (t : VAddr) (l : List LoopEntry) (n : Nat) (s : State) : (s.jumped t l n).banks = s.banks := rfl
@[simp] theorem State.jumped_reefed (t : VAddr) (l : List LoopEntry) (n : Nat) (s : State) : (s.jumped t l n).reefed = s.reefed := rfl
@[simp] theorem State.jumped_touched (t : VAddr) (l : List LoopEntry) (n : Nat) (s : State) : (s.jumped t l n).touched = s.touched := rfl
@[simp] theorem State.jumped_tiles (t : VAddr) (l : List LoopEntry) (n : Nat) (s : State) : (s.jumped t l n).tiles = s.tiles := rfl
@[simp] theorem State.jumped_jobs (t : VAddr) (l : List LoopEntry) (n : Nat) (s : State) : (s.jumped t l n).jobs = s.jobs := rfl
@[simp] theorem State.jumped_groups (t : VAddr) (l : List LoopEntry) (n : Nat) (s : State) : (s.jumped t l n).groups = s.groups := rfl
@[simp] theorem State.jumped_images (t : VAddr) (l : List LoopEntry) (n : Nat) (s : State) : (s.jumped t l n).images = s.images := rfl
@[simp] theorem State.jumped_cmds (t : VAddr) (l : List LoopEntry) (n : Nat) (s : State) : (s.jumped t l n).cmds = s.cmds := rfl
@[simp] theorem State.jumped_nextCmd (t : VAddr) (l : List LoopEntry) (n : Nat) (s : State) : (s.jumped t l n).nextCmd = s.nextCmd := rfl
@[simp] theorem State.jumped_heldWrites (t : VAddr) (l : List LoopEntry) (n : Nat) (s : State) : (s.jumped t l n).heldWrites = s.heldWrites := rfl
@[simp] theorem State.jumped_reservations (t : VAddr) (l : List LoopEntry) (n : Nat) (s : State) : (s.jumped t l n).reservations = s.reservations := rfl
@[simp] theorem State.jumped_counters (t : VAddr) (l : List LoopEntry) (n : Nat) (s : State) : (s.jumped t l n).counters = s.counters := rfl
@[simp] theorem State.jumped_terms (t : VAddr) (l : List LoopEntry) (n : Nat) (s : State) : (s.jumped t l n).terms = s.terms := rfl
@[simp] theorem State.jumped_trueTerms (t : VAddr) (l : List LoopEntry) (n : Nat) (s : State) : (s.jumped t l n).trueTerms = s.trueTerms := rfl
@[simp] theorem State.jumped_pulsed (t : VAddr) (l : List LoopEntry) (n : Nat) (s : State) : (s.jumped t l n).pulsed = s.pulsed := rfl
@[simp] theorem State.jumped_barriers (t : VAddr) (l : List LoopEntry) (n : Nat) (s : State) : (s.jumped t l n).barriers = s.barriers := rfl
@[simp] theorem State.jumped_routines (t : VAddr) (l : List LoopEntry) (n : Nat) (s : State) : (s.jumped t l n).routines = s.routines := rfl
@[simp] theorem State.jumped_routineCtl (t : VAddr) (l : List LoopEntry) (n : Nat) (s : State) : (s.jumped t l n).routineCtl = s.routineCtl := rfl
@[simp] theorem State.jumped_spillQueue (t : VAddr) (l : List LoopEntry) (n : Nat) (s : State) : (s.jumped t l n).spillQueue = s.spillQueue := rfl
@[simp] theorem State.jumped_dir (t : VAddr) (l : List LoopEntry) (n : Nat) (s : State) : (s.jumped t l n).dir = s.dir := rfl
@[simp] theorem State.jumped_ctl (t : VAddr) (l : List LoopEntry) (n : Nat) (s : State) : (s.jumped t l n).ctl = s.ctl := rfl
@[simp] theorem State.jumped_fabric (t : VAddr) (l : List LoopEntry) (n : Nat) (s : State) : (s.jumped t l n).fabric = s.fabric := rfl
@[simp] theorem State.jumped_trust (t : VAddr) (l : List LoopEntry) (n : Nat) (s : State) : (s.jumped t l n).trust = s.trust := rfl
@[simp] theorem State.jumped_typel (t : VAddr) (l : List LoopEntry) (n : Nat) (s : State) : (s.jumped t l n).typel = s.typel := rfl
@[simp] theorem State.jumped_serviceCores (t : VAddr) (l : List LoopEntry) (n : Nat) (s : State) : (s.jumped t l n).serviceCores = s.serviceCores := rfl
@[simp] theorem State.jumped_bad (t : VAddr) (l : List LoopEntry) (n : Nat) (s : State) : (s.jumped t l n).bad = s.bad := rfl
@[simp] theorem State.jumped_seals (t : VAddr) (l : List LoopEntry) (n : Nat) (s : State) : (s.jumped t l n).seals = s.seals := rfl
@[simp] theorem State.jumped_upset (t : VAddr) (l : List LoopEntry) (n : Nat) (s : State) : (s.jumped t l n).upset = s.upset := rfl
@[simp] theorem State.jumped_clock (t : VAddr) (l : List LoopEntry) (n : Nat) (s : State) : (s.jumped t l n).clock = s.clock := rfl
@[simp] theorem State.jumped_time (t : VAddr) (l : List LoopEntry) (n : Nat) (s : State) : (s.jumped t l n).time = s.time := rfl
@[simp] theorem State.jumped_fresh (t : VAddr) (l : List LoopEntry) (n : Nat) (s : State) : (s.jumped t l n).fresh = s.fresh := rfl
@[simp] theorem State.jumped_inbox (t : VAddr) (l : List LoopEntry) (n : Nat) (s : State) : (s.jumped t l n).inbox = s.inbox := rfl
@[simp] theorem State.jumped_outbox (t : VAddr) (l : List LoopEntry) (n : Nat) (s : State) : (s.jumped t l n).outbox = s.outbox := rfl
@[simp] theorem State.arrived_others (t : VAddr) (n : Nat) (s : State) : (s.arrived t n).others = s.others := rfl
@[simp] theorem State.arrived_mem (t : VAddr) (n : Nat) (s : State) : (s.arrived t n).mem = s.mem := rfl
@[simp] theorem State.arrived_nodes (t : VAddr) (n : Nat) (s : State) : (s.arrived t n).nodes = s.nodes := rfl
@[simp] theorem State.arrived_nextNode (t : VAddr) (n : Nat) (s : State) : (s.arrived t n).nextNode = s.nextNode := rfl
@[simp] theorem State.arrived_cores (t : VAddr) (n : Nat) (s : State) : (s.arrived t n).cores = s.cores := rfl
@[simp] theorem State.arrived_owners (t : VAddr) (n : Nat) (s : State) : (s.arrived t n).owners = s.owners := rfl
@[simp] theorem State.arrived_dies (t : VAddr) (n : Nat) (s : State) : (s.arrived t n).dies = s.dies := rfl
@[simp] theorem State.arrived_sb (t : VAddr) (n : Nat) (s : State) : (s.arrived t n).sb = s.sb := rfl
@[simp] theorem State.arrived_cache (t : VAddr) (n : Nat) (s : State) : (s.arrived t n).cache = s.cache := rfl
@[simp] theorem State.arrived_slices (t : VAddr) (n : Nat) (s : State) : (s.arrived t n).slices = s.slices := rfl
@[simp] theorem State.arrived_icache (t : VAddr) (n : Nat) (s : State) : (s.arrived t n).icache = s.icache := rfl
@[simp] theorem State.arrived_tlb (t : VAddr) (n : Nat) (s : State) : (s.arrived t n).tlb = s.tlb := rfl
@[simp] theorem State.arrived_tlbHits (t : VAddr) (n : Nat) (s : State) : (s.arrived t n).tlbHits = s.tlbHits := rfl
@[simp] theorem State.arrived_tlbMisses (t : VAddr) (n : Nat) (s : State) : (s.arrived t n).tlbMisses = s.tlbMisses := rfl
@[simp] theorem State.arrived_banks (t : VAddr) (n : Nat) (s : State) : (s.arrived t n).banks = s.banks := rfl
@[simp] theorem State.arrived_reefed (t : VAddr) (n : Nat) (s : State) : (s.arrived t n).reefed = s.reefed := rfl
@[simp] theorem State.arrived_touched (t : VAddr) (n : Nat) (s : State) : (s.arrived t n).touched = s.touched := rfl
@[simp] theorem State.arrived_tiles (t : VAddr) (n : Nat) (s : State) : (s.arrived t n).tiles = s.tiles := rfl
@[simp] theorem State.arrived_jobs (t : VAddr) (n : Nat) (s : State) : (s.arrived t n).jobs = s.jobs := rfl
@[simp] theorem State.arrived_groups (t : VAddr) (n : Nat) (s : State) : (s.arrived t n).groups = s.groups := rfl
@[simp] theorem State.arrived_images (t : VAddr) (n : Nat) (s : State) : (s.arrived t n).images = s.images := rfl
@[simp] theorem State.arrived_cmds (t : VAddr) (n : Nat) (s : State) : (s.arrived t n).cmds = s.cmds := rfl
@[simp] theorem State.arrived_nextCmd (t : VAddr) (n : Nat) (s : State) : (s.arrived t n).nextCmd = s.nextCmd := rfl
@[simp] theorem State.arrived_heldWrites (t : VAddr) (n : Nat) (s : State) : (s.arrived t n).heldWrites = s.heldWrites := rfl
@[simp] theorem State.arrived_reservations (t : VAddr) (n : Nat) (s : State) : (s.arrived t n).reservations = s.reservations := rfl
@[simp] theorem State.arrived_counters (t : VAddr) (n : Nat) (s : State) : (s.arrived t n).counters = s.counters := rfl
@[simp] theorem State.arrived_terms (t : VAddr) (n : Nat) (s : State) : (s.arrived t n).terms = s.terms := rfl
@[simp] theorem State.arrived_trueTerms (t : VAddr) (n : Nat) (s : State) : (s.arrived t n).trueTerms = s.trueTerms := rfl
@[simp] theorem State.arrived_pulsed (t : VAddr) (n : Nat) (s : State) : (s.arrived t n).pulsed = s.pulsed := rfl
@[simp] theorem State.arrived_barriers (t : VAddr) (n : Nat) (s : State) : (s.arrived t n).barriers = s.barriers := rfl
@[simp] theorem State.arrived_routines (t : VAddr) (n : Nat) (s : State) : (s.arrived t n).routines = s.routines := rfl
@[simp] theorem State.arrived_routineCtl (t : VAddr) (n : Nat) (s : State) : (s.arrived t n).routineCtl = s.routineCtl := rfl
@[simp] theorem State.arrived_spillQueue (t : VAddr) (n : Nat) (s : State) : (s.arrived t n).spillQueue = s.spillQueue := rfl
@[simp] theorem State.arrived_dir (t : VAddr) (n : Nat) (s : State) : (s.arrived t n).dir = s.dir := rfl
@[simp] theorem State.arrived_ctl (t : VAddr) (n : Nat) (s : State) : (s.arrived t n).ctl = s.ctl := rfl
@[simp] theorem State.arrived_fabric (t : VAddr) (n : Nat) (s : State) : (s.arrived t n).fabric = s.fabric := rfl
@[simp] theorem State.arrived_trust (t : VAddr) (n : Nat) (s : State) : (s.arrived t n).trust = s.trust := rfl
@[simp] theorem State.arrived_typel (t : VAddr) (n : Nat) (s : State) : (s.arrived t n).typel = s.typel := rfl
@[simp] theorem State.arrived_serviceCores (t : VAddr) (n : Nat) (s : State) : (s.arrived t n).serviceCores = s.serviceCores := rfl
@[simp] theorem State.arrived_bad (t : VAddr) (n : Nat) (s : State) : (s.arrived t n).bad = s.bad := rfl
@[simp] theorem State.arrived_seals (t : VAddr) (n : Nat) (s : State) : (s.arrived t n).seals = s.seals := rfl
@[simp] theorem State.arrived_upset (t : VAddr) (n : Nat) (s : State) : (s.arrived t n).upset = s.upset := rfl
@[simp] theorem State.arrived_clock (t : VAddr) (n : Nat) (s : State) : (s.arrived t n).clock = s.clock := rfl
@[simp] theorem State.arrived_time (t : VAddr) (n : Nat) (s : State) : (s.arrived t n).time = s.time := rfl
@[simp] theorem State.arrived_fresh (t : VAddr) (n : Nat) (s : State) : (s.arrived t n).fresh = s.fresh := rfl
@[simp] theorem State.arrived_inbox (t : VAddr) (n : Nat) (s : State) : (s.arrived t n).inbox = s.inbox := rfl
@[simp] theorem State.arrived_outbox (t : VAddr) (n : Nat) (s : State) : (s.arrived t n).outbox = s.outbox := rfl

@[simp] theorem State.setCore_thr (s : State) (i : Nat) (c : Core) : (s.setCore i c).thr = s.thr := rfl
@[simp] theorem State.setCore_others (s : State) (i : Nat) (c : Core) : (s.setCore i c).others = s.others := rfl
@[simp] theorem State.setCore_mem (s : State) (i : Nat) (c : Core) : (s.setCore i c).mem = s.mem := rfl
@[simp] theorem State.setCore_nodes (s : State) (i : Nat) (c : Core) : (s.setCore i c).nodes = s.nodes := rfl
@[simp] theorem State.setCore_nextNode (s : State) (i : Nat) (c : Core) : (s.setCore i c).nextNode = s.nextNode := rfl
@[simp] theorem State.setCore_owners (s : State) (i : Nat) (c : Core) : (s.setCore i c).owners = s.owners := rfl
@[simp] theorem State.setCore_dies (s : State) (i : Nat) (c : Core) : (s.setCore i c).dies = s.dies := rfl
@[simp] theorem State.setCore_sb (s : State) (i : Nat) (c : Core) : (s.setCore i c).sb = s.sb := rfl
@[simp] theorem State.setCore_cache (s : State) (i : Nat) (c : Core) : (s.setCore i c).cache = s.cache := rfl
@[simp] theorem State.setCore_slices (s : State) (i : Nat) (c : Core) : (s.setCore i c).slices = s.slices := rfl
@[simp] theorem State.setCore_icache (s : State) (i : Nat) (c : Core) : (s.setCore i c).icache = s.icache := rfl
@[simp] theorem State.setCore_tlb (s : State) (i : Nat) (c : Core) : (s.setCore i c).tlb = s.tlb := rfl
@[simp] theorem State.setCore_tlbHits (s : State) (i : Nat) (c : Core) : (s.setCore i c).tlbHits = s.tlbHits := rfl
@[simp] theorem State.setCore_tlbMisses (s : State) (i : Nat) (c : Core) : (s.setCore i c).tlbMisses = s.tlbMisses := rfl
@[simp] theorem State.setCore_banks (s : State) (i : Nat) (c : Core) : (s.setCore i c).banks = s.banks := rfl
@[simp] theorem State.setCore_reefed (s : State) (i : Nat) (c : Core) : (s.setCore i c).reefed = s.reefed := rfl
@[simp] theorem State.setCore_touched (s : State) (i : Nat) (c : Core) : (s.setCore i c).touched = s.touched := rfl
@[simp] theorem State.setCore_tiles (s : State) (i : Nat) (c : Core) : (s.setCore i c).tiles = s.tiles := rfl
@[simp] theorem State.setCore_jobs (s : State) (i : Nat) (c : Core) : (s.setCore i c).jobs = s.jobs := rfl
@[simp] theorem State.setCore_groups (s : State) (i : Nat) (c : Core) : (s.setCore i c).groups = s.groups := rfl
@[simp] theorem State.setCore_images (s : State) (i : Nat) (c : Core) : (s.setCore i c).images = s.images := rfl
@[simp] theorem State.setCore_cmds (s : State) (i : Nat) (c : Core) : (s.setCore i c).cmds = s.cmds := rfl
@[simp] theorem State.setCore_nextCmd (s : State) (i : Nat) (c : Core) : (s.setCore i c).nextCmd = s.nextCmd := rfl
@[simp] theorem State.setCore_heldWrites (s : State) (i : Nat) (c : Core) : (s.setCore i c).heldWrites = s.heldWrites := rfl
@[simp] theorem State.setCore_reservations (s : State) (i : Nat) (c : Core) : (s.setCore i c).reservations = s.reservations := rfl
@[simp] theorem State.setCore_counters (s : State) (i : Nat) (c : Core) : (s.setCore i c).counters = s.counters := rfl
@[simp] theorem State.setCore_terms (s : State) (i : Nat) (c : Core) : (s.setCore i c).terms = s.terms := rfl
@[simp] theorem State.setCore_trueTerms (s : State) (i : Nat) (c : Core) : (s.setCore i c).trueTerms = s.trueTerms := rfl
@[simp] theorem State.setCore_pulsed (s : State) (i : Nat) (c : Core) : (s.setCore i c).pulsed = s.pulsed := rfl
@[simp] theorem State.setCore_barriers (s : State) (i : Nat) (c : Core) : (s.setCore i c).barriers = s.barriers := rfl
@[simp] theorem State.setCore_routines (s : State) (i : Nat) (c : Core) : (s.setCore i c).routines = s.routines := rfl
@[simp] theorem State.setCore_routineCtl (s : State) (i : Nat) (c : Core) : (s.setCore i c).routineCtl = s.routineCtl := rfl
@[simp] theorem State.setCore_spillQueue (s : State) (i : Nat) (c : Core) : (s.setCore i c).spillQueue = s.spillQueue := rfl
@[simp] theorem State.setCore_dir (s : State) (i : Nat) (c : Core) : (s.setCore i c).dir = s.dir := rfl
@[simp] theorem State.setCore_ctl (s : State) (i : Nat) (c : Core) : (s.setCore i c).ctl = s.ctl := rfl
@[simp] theorem State.setCore_fabric (s : State) (i : Nat) (c : Core) : (s.setCore i c).fabric = s.fabric := rfl
@[simp] theorem State.setCore_trust (s : State) (i : Nat) (c : Core) : (s.setCore i c).trust = s.trust := rfl
@[simp] theorem State.setCore_typel (s : State) (i : Nat) (c : Core) : (s.setCore i c).typel = s.typel := rfl
@[simp] theorem State.setCore_serviceCores (s : State) (i : Nat) (c : Core) : (s.setCore i c).serviceCores = s.serviceCores := rfl
@[simp] theorem State.setCore_bad (s : State) (i : Nat) (c : Core) : (s.setCore i c).bad = s.bad := rfl
@[simp] theorem State.setCore_seals (s : State) (i : Nat) (c : Core) : (s.setCore i c).seals = s.seals := rfl
@[simp] theorem State.setCore_upset (s : State) (i : Nat) (c : Core) : (s.setCore i c).upset = s.upset := rfl
@[simp] theorem State.setCore_clock (s : State) (i : Nat) (c : Core) : (s.setCore i c).clock = s.clock := rfl
@[simp] theorem State.setCore_time (s : State) (i : Nat) (c : Core) : (s.setCore i c).time = s.time := rfl
@[simp] theorem State.setCore_fresh (s : State) (i : Nat) (c : Core) : (s.setCore i c).fresh = s.fresh := rfl
@[simp] theorem State.setCore_inbox (s : State) (i : Nat) (c : Core) : (s.setCore i c).inbox = s.inbox := rfl
@[simp] theorem State.setCore_outbox (s : State) (i : Nat) (c : Core) : (s.setCore i c).outbox = s.outbox := rfl

@[simp] theorem State.setBank_thr (s : State) (cl b : Nat) (k : Bank) : (s.setBank cl b k).thr = s.thr := rfl
@[simp] theorem State.setBank_others (s : State) (cl b : Nat) (k : Bank) : (s.setBank cl b k).others = s.others := rfl
@[simp] theorem State.setBank_mem (s : State) (cl b : Nat) (k : Bank) : (s.setBank cl b k).mem = s.mem := rfl
@[simp] theorem State.setBank_nodes (s : State) (cl b : Nat) (k : Bank) : (s.setBank cl b k).nodes = s.nodes := rfl
@[simp] theorem State.setBank_nextNode (s : State) (cl b : Nat) (k : Bank) : (s.setBank cl b k).nextNode = s.nextNode := rfl
@[simp] theorem State.setBank_cores (s : State) (cl b : Nat) (k : Bank) : (s.setBank cl b k).cores = s.cores := rfl
@[simp] theorem State.setBank_owners (s : State) (cl b : Nat) (k : Bank) : (s.setBank cl b k).owners = s.owners := rfl
@[simp] theorem State.setBank_dies (s : State) (cl b : Nat) (k : Bank) : (s.setBank cl b k).dies = s.dies := rfl
@[simp] theorem State.setBank_sb (s : State) (cl b : Nat) (k : Bank) : (s.setBank cl b k).sb = s.sb := rfl
@[simp] theorem State.setBank_cache (s : State) (cl b : Nat) (k : Bank) : (s.setBank cl b k).cache = s.cache := rfl
@[simp] theorem State.setBank_slices (s : State) (cl b : Nat) (k : Bank) : (s.setBank cl b k).slices = s.slices := rfl
@[simp] theorem State.setBank_icache (s : State) (cl b : Nat) (k : Bank) : (s.setBank cl b k).icache = s.icache := rfl
@[simp] theorem State.setBank_tlb (s : State) (cl b : Nat) (k : Bank) : (s.setBank cl b k).tlb = s.tlb := rfl
@[simp] theorem State.setBank_tlbHits (s : State) (cl b : Nat) (k : Bank) : (s.setBank cl b k).tlbHits = s.tlbHits := rfl
@[simp] theorem State.setBank_tlbMisses (s : State) (cl b : Nat) (k : Bank) : (s.setBank cl b k).tlbMisses = s.tlbMisses := rfl
@[simp] theorem State.setBank_reefed (s : State) (cl b : Nat) (k : Bank) : (s.setBank cl b k).reefed = s.reefed := rfl
@[simp] theorem State.setBank_touched (s : State) (cl b : Nat) (k : Bank) : (s.setBank cl b k).touched = s.touched := rfl
@[simp] theorem State.setBank_tiles (s : State) (cl b : Nat) (k : Bank) : (s.setBank cl b k).tiles = s.tiles := rfl
@[simp] theorem State.setBank_jobs (s : State) (cl b : Nat) (k : Bank) : (s.setBank cl b k).jobs = s.jobs := rfl
@[simp] theorem State.setBank_groups (s : State) (cl b : Nat) (k : Bank) : (s.setBank cl b k).groups = s.groups := rfl
@[simp] theorem State.setBank_images (s : State) (cl b : Nat) (k : Bank) : (s.setBank cl b k).images = s.images := rfl
@[simp] theorem State.setBank_cmds (s : State) (cl b : Nat) (k : Bank) : (s.setBank cl b k).cmds = s.cmds := rfl
@[simp] theorem State.setBank_nextCmd (s : State) (cl b : Nat) (k : Bank) : (s.setBank cl b k).nextCmd = s.nextCmd := rfl
@[simp] theorem State.setBank_heldWrites (s : State) (cl b : Nat) (k : Bank) : (s.setBank cl b k).heldWrites = s.heldWrites := rfl
@[simp] theorem State.setBank_reservations (s : State) (cl b : Nat) (k : Bank) : (s.setBank cl b k).reservations = s.reservations := rfl
@[simp] theorem State.setBank_counters (s : State) (cl b : Nat) (k : Bank) : (s.setBank cl b k).counters = s.counters := rfl
@[simp] theorem State.setBank_terms (s : State) (cl b : Nat) (k : Bank) : (s.setBank cl b k).terms = s.terms := rfl
@[simp] theorem State.setBank_trueTerms (s : State) (cl b : Nat) (k : Bank) : (s.setBank cl b k).trueTerms = s.trueTerms := rfl
@[simp] theorem State.setBank_pulsed (s : State) (cl b : Nat) (k : Bank) : (s.setBank cl b k).pulsed = s.pulsed := rfl
@[simp] theorem State.setBank_barriers (s : State) (cl b : Nat) (k : Bank) : (s.setBank cl b k).barriers = s.barriers := rfl
@[simp] theorem State.setBank_routines (s : State) (cl b : Nat) (k : Bank) : (s.setBank cl b k).routines = s.routines := rfl
@[simp] theorem State.setBank_routineCtl (s : State) (cl b : Nat) (k : Bank) : (s.setBank cl b k).routineCtl = s.routineCtl := rfl
@[simp] theorem State.setBank_spillQueue (s : State) (cl b : Nat) (k : Bank) : (s.setBank cl b k).spillQueue = s.spillQueue := rfl
@[simp] theorem State.setBank_dir (s : State) (cl b : Nat) (k : Bank) : (s.setBank cl b k).dir = s.dir := rfl
@[simp] theorem State.setBank_ctl (s : State) (cl b : Nat) (k : Bank) : (s.setBank cl b k).ctl = s.ctl := rfl
@[simp] theorem State.setBank_fabric (s : State) (cl b : Nat) (k : Bank) : (s.setBank cl b k).fabric = s.fabric := rfl
@[simp] theorem State.setBank_trust (s : State) (cl b : Nat) (k : Bank) : (s.setBank cl b k).trust = s.trust := rfl
@[simp] theorem State.setBank_typel (s : State) (cl b : Nat) (k : Bank) : (s.setBank cl b k).typel = s.typel := rfl
@[simp] theorem State.setBank_serviceCores (s : State) (cl b : Nat) (k : Bank) : (s.setBank cl b k).serviceCores = s.serviceCores := rfl
@[simp] theorem State.setBank_bad (s : State) (cl b : Nat) (k : Bank) : (s.setBank cl b k).bad = s.bad := rfl
@[simp] theorem State.setBank_seals (s : State) (cl b : Nat) (k : Bank) : (s.setBank cl b k).seals = s.seals := rfl
@[simp] theorem State.setBank_upset (s : State) (cl b : Nat) (k : Bank) : (s.setBank cl b k).upset = s.upset := rfl
@[simp] theorem State.setBank_clock (s : State) (cl b : Nat) (k : Bank) : (s.setBank cl b k).clock = s.clock := rfl
@[simp] theorem State.setBank_time (s : State) (cl b : Nat) (k : Bank) : (s.setBank cl b k).time = s.time := rfl
@[simp] theorem State.setBank_fresh (s : State) (cl b : Nat) (k : Bank) : (s.setBank cl b k).fresh = s.fresh := rfl
@[simp] theorem State.setBank_inbox (s : State) (cl b : Nat) (k : Bank) : (s.setBank cl b k).inbox = s.inbox := rfl
@[simp] theorem State.setBank_outbox (s : State) (cl b : Nat) (k : Bank) : (s.setBank cl b k).outbox = s.outbox := rfl

@[simp] theorem State.setSb_thr (s : State) (core : Nat) (l : List SbEntry) : (s.setSb core l).thr = s.thr := rfl
@[simp] theorem State.setSb_others (s : State) (core : Nat) (l : List SbEntry) : (s.setSb core l).others = s.others := rfl
@[simp] theorem State.setSb_mem (s : State) (core : Nat) (l : List SbEntry) : (s.setSb core l).mem = s.mem := rfl
@[simp] theorem State.setSb_nodes (s : State) (core : Nat) (l : List SbEntry) : (s.setSb core l).nodes = s.nodes := rfl
@[simp] theorem State.setSb_nextNode (s : State) (core : Nat) (l : List SbEntry) : (s.setSb core l).nextNode = s.nextNode := rfl
@[simp] theorem State.setSb_cores (s : State) (core : Nat) (l : List SbEntry) : (s.setSb core l).cores = s.cores := rfl
@[simp] theorem State.setSb_owners (s : State) (core : Nat) (l : List SbEntry) : (s.setSb core l).owners = s.owners := rfl
@[simp] theorem State.setSb_dies (s : State) (core : Nat) (l : List SbEntry) : (s.setSb core l).dies = s.dies := rfl
@[simp] theorem State.setSb_cache (s : State) (core : Nat) (l : List SbEntry) : (s.setSb core l).cache = s.cache := rfl
@[simp] theorem State.setSb_slices (s : State) (core : Nat) (l : List SbEntry) : (s.setSb core l).slices = s.slices := rfl
@[simp] theorem State.setSb_icache (s : State) (core : Nat) (l : List SbEntry) : (s.setSb core l).icache = s.icache := rfl
@[simp] theorem State.setSb_tlb (s : State) (core : Nat) (l : List SbEntry) : (s.setSb core l).tlb = s.tlb := rfl
@[simp] theorem State.setSb_tlbHits (s : State) (core : Nat) (l : List SbEntry) : (s.setSb core l).tlbHits = s.tlbHits := rfl
@[simp] theorem State.setSb_tlbMisses (s : State) (core : Nat) (l : List SbEntry) : (s.setSb core l).tlbMisses = s.tlbMisses := rfl
@[simp] theorem State.setSb_banks (s : State) (core : Nat) (l : List SbEntry) : (s.setSb core l).banks = s.banks := rfl
@[simp] theorem State.setSb_reefed (s : State) (core : Nat) (l : List SbEntry) : (s.setSb core l).reefed = s.reefed := rfl
@[simp] theorem State.setSb_touched (s : State) (core : Nat) (l : List SbEntry) : (s.setSb core l).touched = s.touched := rfl
@[simp] theorem State.setSb_tiles (s : State) (core : Nat) (l : List SbEntry) : (s.setSb core l).tiles = s.tiles := rfl
@[simp] theorem State.setSb_jobs (s : State) (core : Nat) (l : List SbEntry) : (s.setSb core l).jobs = s.jobs := rfl
@[simp] theorem State.setSb_groups (s : State) (core : Nat) (l : List SbEntry) : (s.setSb core l).groups = s.groups := rfl
@[simp] theorem State.setSb_images (s : State) (core : Nat) (l : List SbEntry) : (s.setSb core l).images = s.images := rfl
@[simp] theorem State.setSb_cmds (s : State) (core : Nat) (l : List SbEntry) : (s.setSb core l).cmds = s.cmds := rfl
@[simp] theorem State.setSb_nextCmd (s : State) (core : Nat) (l : List SbEntry) : (s.setSb core l).nextCmd = s.nextCmd := rfl
@[simp] theorem State.setSb_heldWrites (s : State) (core : Nat) (l : List SbEntry) : (s.setSb core l).heldWrites = s.heldWrites := rfl
@[simp] theorem State.setSb_reservations (s : State) (core : Nat) (l : List SbEntry) : (s.setSb core l).reservations = s.reservations := rfl
@[simp] theorem State.setSb_counters (s : State) (core : Nat) (l : List SbEntry) : (s.setSb core l).counters = s.counters := rfl
@[simp] theorem State.setSb_terms (s : State) (core : Nat) (l : List SbEntry) : (s.setSb core l).terms = s.terms := rfl
@[simp] theorem State.setSb_trueTerms (s : State) (core : Nat) (l : List SbEntry) : (s.setSb core l).trueTerms = s.trueTerms := rfl
@[simp] theorem State.setSb_pulsed (s : State) (core : Nat) (l : List SbEntry) : (s.setSb core l).pulsed = s.pulsed := rfl
@[simp] theorem State.setSb_barriers (s : State) (core : Nat) (l : List SbEntry) : (s.setSb core l).barriers = s.barriers := rfl
@[simp] theorem State.setSb_routines (s : State) (core : Nat) (l : List SbEntry) : (s.setSb core l).routines = s.routines := rfl
@[simp] theorem State.setSb_routineCtl (s : State) (core : Nat) (l : List SbEntry) : (s.setSb core l).routineCtl = s.routineCtl := rfl
@[simp] theorem State.setSb_spillQueue (s : State) (core : Nat) (l : List SbEntry) : (s.setSb core l).spillQueue = s.spillQueue := rfl
@[simp] theorem State.setSb_dir (s : State) (core : Nat) (l : List SbEntry) : (s.setSb core l).dir = s.dir := rfl
@[simp] theorem State.setSb_ctl (s : State) (core : Nat) (l : List SbEntry) : (s.setSb core l).ctl = s.ctl := rfl
@[simp] theorem State.setSb_fabric (s : State) (core : Nat) (l : List SbEntry) : (s.setSb core l).fabric = s.fabric := rfl
@[simp] theorem State.setSb_trust (s : State) (core : Nat) (l : List SbEntry) : (s.setSb core l).trust = s.trust := rfl
@[simp] theorem State.setSb_typel (s : State) (core : Nat) (l : List SbEntry) : (s.setSb core l).typel = s.typel := rfl
@[simp] theorem State.setSb_serviceCores (s : State) (core : Nat) (l : List SbEntry) : (s.setSb core l).serviceCores = s.serviceCores := rfl
@[simp] theorem State.setSb_bad (s : State) (core : Nat) (l : List SbEntry) : (s.setSb core l).bad = s.bad := rfl
@[simp] theorem State.setSb_seals (s : State) (core : Nat) (l : List SbEntry) : (s.setSb core l).seals = s.seals := rfl
@[simp] theorem State.setSb_upset (s : State) (core : Nat) (l : List SbEntry) : (s.setSb core l).upset = s.upset := rfl
@[simp] theorem State.setSb_clock (s : State) (core : Nat) (l : List SbEntry) : (s.setSb core l).clock = s.clock := rfl
@[simp] theorem State.setSb_time (s : State) (core : Nat) (l : List SbEntry) : (s.setSb core l).time = s.time := rfl
@[simp] theorem State.setSb_fresh (s : State) (core : Nat) (l : List SbEntry) : (s.setSb core l).fresh = s.fresh := rfl
@[simp] theorem State.setSb_inbox (s : State) (core : Nat) (l : List SbEntry) : (s.setSb core l).inbox = s.inbox := rfl
@[simp] theorem State.setSb_outbox (s : State) (core : Nat) (l : List SbEntry) : (s.setSb core l).outbox = s.outbox := rfl

@[simp] theorem State.setDie_thr (s : State) (d : Nat) (x : Die) : (s.setDie d x).thr = s.thr := rfl
@[simp] theorem State.setDie_others (s : State) (d : Nat) (x : Die) : (s.setDie d x).others = s.others := rfl
@[simp] theorem State.setDie_mem (s : State) (d : Nat) (x : Die) : (s.setDie d x).mem = s.mem := rfl
@[simp] theorem State.setDie_nodes (s : State) (d : Nat) (x : Die) : (s.setDie d x).nodes = s.nodes := rfl
@[simp] theorem State.setDie_nextNode (s : State) (d : Nat) (x : Die) : (s.setDie d x).nextNode = s.nextNode := rfl
@[simp] theorem State.setDie_cores (s : State) (d : Nat) (x : Die) : (s.setDie d x).cores = s.cores := rfl
@[simp] theorem State.setDie_owners (s : State) (d : Nat) (x : Die) : (s.setDie d x).owners = s.owners := rfl
@[simp] theorem State.setDie_sb (s : State) (d : Nat) (x : Die) : (s.setDie d x).sb = s.sb := rfl
@[simp] theorem State.setDie_cache (s : State) (d : Nat) (x : Die) : (s.setDie d x).cache = s.cache := rfl
@[simp] theorem State.setDie_slices (s : State) (d : Nat) (x : Die) : (s.setDie d x).slices = s.slices := rfl
@[simp] theorem State.setDie_icache (s : State) (d : Nat) (x : Die) : (s.setDie d x).icache = s.icache := rfl
@[simp] theorem State.setDie_tlb (s : State) (d : Nat) (x : Die) : (s.setDie d x).tlb = s.tlb := rfl
@[simp] theorem State.setDie_tlbHits (s : State) (d : Nat) (x : Die) : (s.setDie d x).tlbHits = s.tlbHits := rfl
@[simp] theorem State.setDie_tlbMisses (s : State) (d : Nat) (x : Die) : (s.setDie d x).tlbMisses = s.tlbMisses := rfl
@[simp] theorem State.setDie_banks (s : State) (d : Nat) (x : Die) : (s.setDie d x).banks = s.banks := rfl
@[simp] theorem State.setDie_reefed (s : State) (d : Nat) (x : Die) : (s.setDie d x).reefed = s.reefed := rfl
@[simp] theorem State.setDie_touched (s : State) (d : Nat) (x : Die) : (s.setDie d x).touched = s.touched := rfl
@[simp] theorem State.setDie_tiles (s : State) (d : Nat) (x : Die) : (s.setDie d x).tiles = s.tiles := rfl
@[simp] theorem State.setDie_jobs (s : State) (d : Nat) (x : Die) : (s.setDie d x).jobs = s.jobs := rfl
@[simp] theorem State.setDie_groups (s : State) (d : Nat) (x : Die) : (s.setDie d x).groups = s.groups := rfl
@[simp] theorem State.setDie_images (s : State) (d : Nat) (x : Die) : (s.setDie d x).images = s.images := rfl
@[simp] theorem State.setDie_cmds (s : State) (d : Nat) (x : Die) : (s.setDie d x).cmds = s.cmds := rfl
@[simp] theorem State.setDie_nextCmd (s : State) (d : Nat) (x : Die) : (s.setDie d x).nextCmd = s.nextCmd := rfl
@[simp] theorem State.setDie_heldWrites (s : State) (d : Nat) (x : Die) : (s.setDie d x).heldWrites = s.heldWrites := rfl
@[simp] theorem State.setDie_reservations (s : State) (d : Nat) (x : Die) : (s.setDie d x).reservations = s.reservations := rfl
@[simp] theorem State.setDie_counters (s : State) (d : Nat) (x : Die) : (s.setDie d x).counters = s.counters := rfl
@[simp] theorem State.setDie_terms (s : State) (d : Nat) (x : Die) : (s.setDie d x).terms = s.terms := rfl
@[simp] theorem State.setDie_trueTerms (s : State) (d : Nat) (x : Die) : (s.setDie d x).trueTerms = s.trueTerms := rfl
@[simp] theorem State.setDie_pulsed (s : State) (d : Nat) (x : Die) : (s.setDie d x).pulsed = s.pulsed := rfl
@[simp] theorem State.setDie_barriers (s : State) (d : Nat) (x : Die) : (s.setDie d x).barriers = s.barriers := rfl
@[simp] theorem State.setDie_routines (s : State) (d : Nat) (x : Die) : (s.setDie d x).routines = s.routines := rfl
@[simp] theorem State.setDie_routineCtl (s : State) (d : Nat) (x : Die) : (s.setDie d x).routineCtl = s.routineCtl := rfl
@[simp] theorem State.setDie_spillQueue (s : State) (d : Nat) (x : Die) : (s.setDie d x).spillQueue = s.spillQueue := rfl
@[simp] theorem State.setDie_dir (s : State) (d : Nat) (x : Die) : (s.setDie d x).dir = s.dir := rfl
@[simp] theorem State.setDie_ctl (s : State) (d : Nat) (x : Die) : (s.setDie d x).ctl = s.ctl := rfl
@[simp] theorem State.setDie_fabric (s : State) (d : Nat) (x : Die) : (s.setDie d x).fabric = s.fabric := rfl
@[simp] theorem State.setDie_trust (s : State) (d : Nat) (x : Die) : (s.setDie d x).trust = s.trust := rfl
@[simp] theorem State.setDie_typel (s : State) (d : Nat) (x : Die) : (s.setDie d x).typel = s.typel := rfl
@[simp] theorem State.setDie_serviceCores (s : State) (d : Nat) (x : Die) : (s.setDie d x).serviceCores = s.serviceCores := rfl
@[simp] theorem State.setDie_bad (s : State) (d : Nat) (x : Die) : (s.setDie d x).bad = s.bad := rfl
@[simp] theorem State.setDie_seals (s : State) (d : Nat) (x : Die) : (s.setDie d x).seals = s.seals := rfl
@[simp] theorem State.setDie_upset (s : State) (d : Nat) (x : Die) : (s.setDie d x).upset = s.upset := rfl
@[simp] theorem State.setDie_clock (s : State) (d : Nat) (x : Die) : (s.setDie d x).clock = s.clock := rfl
@[simp] theorem State.setDie_time (s : State) (d : Nat) (x : Die) : (s.setDie d x).time = s.time := rfl
@[simp] theorem State.setDie_fresh (s : State) (d : Nat) (x : Die) : (s.setDie d x).fresh = s.fresh := rfl
@[simp] theorem State.setDie_inbox (s : State) (d : Nat) (x : Die) : (s.setDie d x).inbox = s.inbox := rfl
@[simp] theorem State.setDie_outbox (s : State) (d : Nat) (x : Die) : (s.setDie d x).outbox = s.outbox := rfl

@[simp] theorem State.setNode_thr (s : State) (n : Node) : (s.setNode n).thr = s.thr := rfl
@[simp] theorem State.setNode_others (s : State) (n : Node) : (s.setNode n).others = s.others := rfl
@[simp] theorem State.setNode_mem (s : State) (n : Node) : (s.setNode n).mem = s.mem := rfl
@[simp] theorem State.setNode_nextNode (s : State) (n : Node) : (s.setNode n).nextNode = s.nextNode := rfl
@[simp] theorem State.setNode_cores (s : State) (n : Node) : (s.setNode n).cores = s.cores := rfl
@[simp] theorem State.setNode_owners (s : State) (n : Node) : (s.setNode n).owners = s.owners := rfl
@[simp] theorem State.setNode_dies (s : State) (n : Node) : (s.setNode n).dies = s.dies := rfl
@[simp] theorem State.setNode_sb (s : State) (n : Node) : (s.setNode n).sb = s.sb := rfl
@[simp] theorem State.setNode_cache (s : State) (n : Node) : (s.setNode n).cache = s.cache := rfl
@[simp] theorem State.setNode_slices (s : State) (n : Node) : (s.setNode n).slices = s.slices := rfl
@[simp] theorem State.setNode_icache (s : State) (n : Node) : (s.setNode n).icache = s.icache := rfl
@[simp] theorem State.setNode_tlb (s : State) (n : Node) : (s.setNode n).tlb = s.tlb := rfl
@[simp] theorem State.setNode_tlbHits (s : State) (n : Node) : (s.setNode n).tlbHits = s.tlbHits := rfl
@[simp] theorem State.setNode_tlbMisses (s : State) (n : Node) : (s.setNode n).tlbMisses = s.tlbMisses := rfl
@[simp] theorem State.setNode_banks (s : State) (n : Node) : (s.setNode n).banks = s.banks := rfl
@[simp] theorem State.setNode_reefed (s : State) (n : Node) : (s.setNode n).reefed = s.reefed := rfl
@[simp] theorem State.setNode_touched (s : State) (n : Node) : (s.setNode n).touched = s.touched := rfl
@[simp] theorem State.setNode_tiles (s : State) (n : Node) : (s.setNode n).tiles = s.tiles := rfl
@[simp] theorem State.setNode_jobs (s : State) (n : Node) : (s.setNode n).jobs = s.jobs := rfl
@[simp] theorem State.setNode_groups (s : State) (n : Node) : (s.setNode n).groups = s.groups := rfl
@[simp] theorem State.setNode_images (s : State) (n : Node) : (s.setNode n).images = s.images := rfl
@[simp] theorem State.setNode_cmds (s : State) (n : Node) : (s.setNode n).cmds = s.cmds := rfl
@[simp] theorem State.setNode_nextCmd (s : State) (n : Node) : (s.setNode n).nextCmd = s.nextCmd := rfl
@[simp] theorem State.setNode_heldWrites (s : State) (n : Node) : (s.setNode n).heldWrites = s.heldWrites := rfl
@[simp] theorem State.setNode_reservations (s : State) (n : Node) : (s.setNode n).reservations = s.reservations := rfl
@[simp] theorem State.setNode_counters (s : State) (n : Node) : (s.setNode n).counters = s.counters := rfl
@[simp] theorem State.setNode_terms (s : State) (n : Node) : (s.setNode n).terms = s.terms := rfl
@[simp] theorem State.setNode_trueTerms (s : State) (n : Node) : (s.setNode n).trueTerms = s.trueTerms := rfl
@[simp] theorem State.setNode_pulsed (s : State) (n : Node) : (s.setNode n).pulsed = s.pulsed := rfl
@[simp] theorem State.setNode_barriers (s : State) (n : Node) : (s.setNode n).barriers = s.barriers := rfl
@[simp] theorem State.setNode_routines (s : State) (n : Node) : (s.setNode n).routines = s.routines := rfl
@[simp] theorem State.setNode_routineCtl (s : State) (n : Node) : (s.setNode n).routineCtl = s.routineCtl := rfl
@[simp] theorem State.setNode_spillQueue (s : State) (n : Node) : (s.setNode n).spillQueue = s.spillQueue := rfl
@[simp] theorem State.setNode_dir (s : State) (n : Node) : (s.setNode n).dir = s.dir := rfl
@[simp] theorem State.setNode_ctl (s : State) (n : Node) : (s.setNode n).ctl = s.ctl := rfl
@[simp] theorem State.setNode_fabric (s : State) (n : Node) : (s.setNode n).fabric = s.fabric := rfl
@[simp] theorem State.setNode_trust (s : State) (n : Node) : (s.setNode n).trust = s.trust := rfl
@[simp] theorem State.setNode_typel (s : State) (n : Node) : (s.setNode n).typel = s.typel := rfl
@[simp] theorem State.setNode_serviceCores (s : State) (n : Node) : (s.setNode n).serviceCores = s.serviceCores := rfl
@[simp] theorem State.setNode_bad (s : State) (n : Node) : (s.setNode n).bad = s.bad := rfl
@[simp] theorem State.setNode_seals (s : State) (n : Node) : (s.setNode n).seals = s.seals := rfl
@[simp] theorem State.setNode_upset (s : State) (n : Node) : (s.setNode n).upset = s.upset := rfl
@[simp] theorem State.setNode_clock (s : State) (n : Node) : (s.setNode n).clock = s.clock := rfl
@[simp] theorem State.setNode_time (s : State) (n : Node) : (s.setNode n).time = s.time := rfl
@[simp] theorem State.setNode_fresh (s : State) (n : Node) : (s.setNode n).fresh = s.fresh := rfl
@[simp] theorem State.setNode_inbox (s : State) (n : Node) : (s.setNode n).inbox = s.inbox := rfl
@[simp] theorem State.setNode_outbox (s : State) (n : Node) : (s.setNode n).outbox = s.outbox := rfl

@[simp] theorem State.putCmd_thr (s : State) (c : Cmd) : (s.putCmd c).thr = s.thr := rfl
@[simp] theorem State.putCmd_others (s : State) (c : Cmd) : (s.putCmd c).others = s.others := rfl
@[simp] theorem State.putCmd_mem (s : State) (c : Cmd) : (s.putCmd c).mem = s.mem := rfl
@[simp] theorem State.putCmd_nodes (s : State) (c : Cmd) : (s.putCmd c).nodes = s.nodes := rfl
@[simp] theorem State.putCmd_nextNode (s : State) (c : Cmd) : (s.putCmd c).nextNode = s.nextNode := rfl
@[simp] theorem State.putCmd_cores (s : State) (c : Cmd) : (s.putCmd c).cores = s.cores := rfl
@[simp] theorem State.putCmd_owners (s : State) (c : Cmd) : (s.putCmd c).owners = s.owners := rfl
@[simp] theorem State.putCmd_dies (s : State) (c : Cmd) : (s.putCmd c).dies = s.dies := rfl
@[simp] theorem State.putCmd_sb (s : State) (c : Cmd) : (s.putCmd c).sb = s.sb := rfl
@[simp] theorem State.putCmd_cache (s : State) (c : Cmd) : (s.putCmd c).cache = s.cache := rfl
@[simp] theorem State.putCmd_slices (s : State) (c : Cmd) : (s.putCmd c).slices = s.slices := rfl
@[simp] theorem State.putCmd_icache (s : State) (c : Cmd) : (s.putCmd c).icache = s.icache := rfl
@[simp] theorem State.putCmd_tlb (s : State) (c : Cmd) : (s.putCmd c).tlb = s.tlb := rfl
@[simp] theorem State.putCmd_tlbHits (s : State) (c : Cmd) : (s.putCmd c).tlbHits = s.tlbHits := rfl
@[simp] theorem State.putCmd_tlbMisses (s : State) (c : Cmd) : (s.putCmd c).tlbMisses = s.tlbMisses := rfl
@[simp] theorem State.putCmd_banks (s : State) (c : Cmd) : (s.putCmd c).banks = s.banks := rfl
@[simp] theorem State.putCmd_reefed (s : State) (c : Cmd) : (s.putCmd c).reefed = s.reefed := rfl
@[simp] theorem State.putCmd_touched (s : State) (c : Cmd) : (s.putCmd c).touched = s.touched := rfl
@[simp] theorem State.putCmd_tiles (s : State) (c : Cmd) : (s.putCmd c).tiles = s.tiles := rfl
@[simp] theorem State.putCmd_jobs (s : State) (c : Cmd) : (s.putCmd c).jobs = s.jobs := rfl
@[simp] theorem State.putCmd_groups (s : State) (c : Cmd) : (s.putCmd c).groups = s.groups := rfl
@[simp] theorem State.putCmd_images (s : State) (c : Cmd) : (s.putCmd c).images = s.images := rfl
@[simp] theorem State.putCmd_nextCmd (s : State) (c : Cmd) : (s.putCmd c).nextCmd = s.nextCmd := rfl
@[simp] theorem State.putCmd_heldWrites (s : State) (c : Cmd) : (s.putCmd c).heldWrites = s.heldWrites := rfl
@[simp] theorem State.putCmd_reservations (s : State) (c : Cmd) : (s.putCmd c).reservations = s.reservations := rfl
@[simp] theorem State.putCmd_counters (s : State) (c : Cmd) : (s.putCmd c).counters = s.counters := rfl
@[simp] theorem State.putCmd_terms (s : State) (c : Cmd) : (s.putCmd c).terms = s.terms := rfl
@[simp] theorem State.putCmd_trueTerms (s : State) (c : Cmd) : (s.putCmd c).trueTerms = s.trueTerms := rfl
@[simp] theorem State.putCmd_pulsed (s : State) (c : Cmd) : (s.putCmd c).pulsed = s.pulsed := rfl
@[simp] theorem State.putCmd_barriers (s : State) (c : Cmd) : (s.putCmd c).barriers = s.barriers := rfl
@[simp] theorem State.putCmd_routines (s : State) (c : Cmd) : (s.putCmd c).routines = s.routines := rfl
@[simp] theorem State.putCmd_routineCtl (s : State) (c : Cmd) : (s.putCmd c).routineCtl = s.routineCtl := rfl
@[simp] theorem State.putCmd_spillQueue (s : State) (c : Cmd) : (s.putCmd c).spillQueue = s.spillQueue := rfl
@[simp] theorem State.putCmd_dir (s : State) (c : Cmd) : (s.putCmd c).dir = s.dir := rfl
@[simp] theorem State.putCmd_ctl (s : State) (c : Cmd) : (s.putCmd c).ctl = s.ctl := rfl
@[simp] theorem State.putCmd_fabric (s : State) (c : Cmd) : (s.putCmd c).fabric = s.fabric := rfl
@[simp] theorem State.putCmd_trust (s : State) (c : Cmd) : (s.putCmd c).trust = s.trust := rfl
@[simp] theorem State.putCmd_typel (s : State) (c : Cmd) : (s.putCmd c).typel = s.typel := rfl
@[simp] theorem State.putCmd_serviceCores (s : State) (c : Cmd) : (s.putCmd c).serviceCores = s.serviceCores := rfl
@[simp] theorem State.putCmd_bad (s : State) (c : Cmd) : (s.putCmd c).bad = s.bad := rfl
@[simp] theorem State.putCmd_seals (s : State) (c : Cmd) : (s.putCmd c).seals = s.seals := rfl
@[simp] theorem State.putCmd_upset (s : State) (c : Cmd) : (s.putCmd c).upset = s.upset := rfl
@[simp] theorem State.putCmd_clock (s : State) (c : Cmd) : (s.putCmd c).clock = s.clock := rfl
@[simp] theorem State.putCmd_time (s : State) (c : Cmd) : (s.putCmd c).time = s.time := rfl
@[simp] theorem State.putCmd_fresh (s : State) (c : Cmd) : (s.putCmd c).fresh = s.fresh := rfl
@[simp] theorem State.putCmd_inbox (s : State) (c : Cmd) : (s.putCmd c).inbox = s.inbox := rfl
@[simp] theorem State.putCmd_outbox (s : State) (c : Cmd) : (s.putCmd c).outbox = s.outbox := rfl

@[simp] theorem State.withDir_thr (s : State) (d : Directory) : (s.withDir d).thr = s.thr := rfl
@[simp] theorem State.withDir_others (s : State) (d : Directory) : (s.withDir d).others = s.others := rfl
@[simp] theorem State.withDir_mem (s : State) (d : Directory) : (s.withDir d).mem = s.mem := rfl
@[simp] theorem State.withDir_nodes (s : State) (d : Directory) : (s.withDir d).nodes = s.nodes := rfl
@[simp] theorem State.withDir_nextNode (s : State) (d : Directory) : (s.withDir d).nextNode = s.nextNode := rfl
@[simp] theorem State.withDir_cores (s : State) (d : Directory) : (s.withDir d).cores = s.cores := rfl
@[simp] theorem State.withDir_owners (s : State) (d : Directory) : (s.withDir d).owners = s.owners := rfl
@[simp] theorem State.withDir_dies (s : State) (d : Directory) : (s.withDir d).dies = s.dies := rfl
@[simp] theorem State.withDir_sb (s : State) (d : Directory) : (s.withDir d).sb = s.sb := rfl
@[simp] theorem State.withDir_cache (s : State) (d : Directory) : (s.withDir d).cache = s.cache := rfl
@[simp] theorem State.withDir_slices (s : State) (d : Directory) : (s.withDir d).slices = s.slices := rfl
@[simp] theorem State.withDir_icache (s : State) (d : Directory) : (s.withDir d).icache = s.icache := rfl
@[simp] theorem State.withDir_tlb (s : State) (d : Directory) : (s.withDir d).tlb = s.tlb := rfl
@[simp] theorem State.withDir_tlbHits (s : State) (d : Directory) : (s.withDir d).tlbHits = s.tlbHits := rfl
@[simp] theorem State.withDir_tlbMisses (s : State) (d : Directory) : (s.withDir d).tlbMisses = s.tlbMisses := rfl
@[simp] theorem State.withDir_banks (s : State) (d : Directory) : (s.withDir d).banks = s.banks := rfl
@[simp] theorem State.withDir_reefed (s : State) (d : Directory) : (s.withDir d).reefed = s.reefed := rfl
@[simp] theorem State.withDir_touched (s : State) (d : Directory) : (s.withDir d).touched = s.touched := rfl
@[simp] theorem State.withDir_tiles (s : State) (d : Directory) : (s.withDir d).tiles = s.tiles := rfl
@[simp] theorem State.withDir_jobs (s : State) (d : Directory) : (s.withDir d).jobs = s.jobs := rfl
@[simp] theorem State.withDir_groups (s : State) (d : Directory) : (s.withDir d).groups = s.groups := rfl
@[simp] theorem State.withDir_images (s : State) (d : Directory) : (s.withDir d).images = s.images := rfl
@[simp] theorem State.withDir_cmds (s : State) (d : Directory) : (s.withDir d).cmds = s.cmds := rfl
@[simp] theorem State.withDir_nextCmd (s : State) (d : Directory) : (s.withDir d).nextCmd = s.nextCmd := rfl
@[simp] theorem State.withDir_heldWrites (s : State) (d : Directory) : (s.withDir d).heldWrites = s.heldWrites := rfl
@[simp] theorem State.withDir_reservations (s : State) (d : Directory) : (s.withDir d).reservations = s.reservations := rfl
@[simp] theorem State.withDir_counters (s : State) (d : Directory) : (s.withDir d).counters = s.counters := rfl
@[simp] theorem State.withDir_terms (s : State) (d : Directory) : (s.withDir d).terms = s.terms := rfl
@[simp] theorem State.withDir_trueTerms (s : State) (d : Directory) : (s.withDir d).trueTerms = s.trueTerms := rfl
@[simp] theorem State.withDir_pulsed (s : State) (d : Directory) : (s.withDir d).pulsed = s.pulsed := rfl
@[simp] theorem State.withDir_barriers (s : State) (d : Directory) : (s.withDir d).barriers = s.barriers := rfl
@[simp] theorem State.withDir_routines (s : State) (d : Directory) : (s.withDir d).routines = s.routines := rfl
@[simp] theorem State.withDir_routineCtl (s : State) (d : Directory) : (s.withDir d).routineCtl = s.routineCtl := rfl
@[simp] theorem State.withDir_spillQueue (s : State) (d : Directory) : (s.withDir d).spillQueue = s.spillQueue := rfl
@[simp] theorem State.withDir_ctl (s : State) (d : Directory) : (s.withDir d).ctl = s.ctl := rfl
@[simp] theorem State.withDir_fabric (s : State) (d : Directory) : (s.withDir d).fabric = s.fabric := rfl
@[simp] theorem State.withDir_trust (s : State) (d : Directory) : (s.withDir d).trust = s.trust := rfl
@[simp] theorem State.withDir_typel (s : State) (d : Directory) : (s.withDir d).typel = s.typel := rfl
@[simp] theorem State.withDir_serviceCores (s : State) (d : Directory) : (s.withDir d).serviceCores = s.serviceCores := rfl
@[simp] theorem State.withDir_bad (s : State) (d : Directory) : (s.withDir d).bad = s.bad := rfl
@[simp] theorem State.withDir_seals (s : State) (d : Directory) : (s.withDir d).seals = s.seals := rfl
@[simp] theorem State.withDir_upset (s : State) (d : Directory) : (s.withDir d).upset = s.upset := rfl
@[simp] theorem State.withDir_clock (s : State) (d : Directory) : (s.withDir d).clock = s.clock := rfl
@[simp] theorem State.withDir_time (s : State) (d : Directory) : (s.withDir d).time = s.time := rfl
@[simp] theorem State.withDir_fresh (s : State) (d : Directory) : (s.withDir d).fresh = s.fresh := rfl
@[simp] theorem State.withDir_inbox (s : State) (d : Directory) : (s.withDir d).inbox = s.inbox := rfl
@[simp] theorem State.withDir_outbox (s : State) (d : Directory) : (s.withDir d).outbox = s.outbox := rfl

@[simp] theorem State.post_thr (s : State) (r : FaultRecord) : (s.post r).thr = s.thr := rfl
@[simp] theorem State.post_others (s : State) (r : FaultRecord) : (s.post r).others = s.others := rfl
@[simp] theorem State.post_mem (s : State) (r : FaultRecord) : (s.post r).mem = s.mem := rfl
@[simp] theorem State.post_nodes (s : State) (r : FaultRecord) : (s.post r).nodes = s.nodes := rfl
@[simp] theorem State.post_nextNode (s : State) (r : FaultRecord) : (s.post r).nextNode = s.nextNode := rfl
@[simp] theorem State.post_cores (s : State) (r : FaultRecord) : (s.post r).cores = s.cores := rfl
@[simp] theorem State.post_owners (s : State) (r : FaultRecord) : (s.post r).owners = s.owners := rfl
@[simp] theorem State.post_dies (s : State) (r : FaultRecord) : (s.post r).dies = s.dies := rfl
@[simp] theorem State.post_sb (s : State) (r : FaultRecord) : (s.post r).sb = s.sb := rfl
@[simp] theorem State.post_cache (s : State) (r : FaultRecord) : (s.post r).cache = s.cache := rfl
@[simp] theorem State.post_slices (s : State) (r : FaultRecord) : (s.post r).slices = s.slices := rfl
@[simp] theorem State.post_icache (s : State) (r : FaultRecord) : (s.post r).icache = s.icache := rfl
@[simp] theorem State.post_tlb (s : State) (r : FaultRecord) : (s.post r).tlb = s.tlb := rfl
@[simp] theorem State.post_tlbHits (s : State) (r : FaultRecord) : (s.post r).tlbHits = s.tlbHits := rfl
@[simp] theorem State.post_tlbMisses (s : State) (r : FaultRecord) : (s.post r).tlbMisses = s.tlbMisses := rfl
@[simp] theorem State.post_banks (s : State) (r : FaultRecord) : (s.post r).banks = s.banks := rfl
@[simp] theorem State.post_reefed (s : State) (r : FaultRecord) : (s.post r).reefed = s.reefed := rfl
@[simp] theorem State.post_touched (s : State) (r : FaultRecord) : (s.post r).touched = s.touched := rfl
@[simp] theorem State.post_tiles (s : State) (r : FaultRecord) : (s.post r).tiles = s.tiles := rfl
@[simp] theorem State.post_jobs (s : State) (r : FaultRecord) : (s.post r).jobs = s.jobs := rfl
@[simp] theorem State.post_groups (s : State) (r : FaultRecord) : (s.post r).groups = s.groups := rfl
@[simp] theorem State.post_images (s : State) (r : FaultRecord) : (s.post r).images = s.images := rfl
@[simp] theorem State.post_cmds (s : State) (r : FaultRecord) : (s.post r).cmds = s.cmds := rfl
@[simp] theorem State.post_nextCmd (s : State) (r : FaultRecord) : (s.post r).nextCmd = s.nextCmd := rfl
@[simp] theorem State.post_heldWrites (s : State) (r : FaultRecord) : (s.post r).heldWrites = s.heldWrites := rfl
@[simp] theorem State.post_reservations (s : State) (r : FaultRecord) : (s.post r).reservations = s.reservations := rfl
@[simp] theorem State.post_counters (s : State) (r : FaultRecord) : (s.post r).counters = s.counters := rfl
@[simp] theorem State.post_terms (s : State) (r : FaultRecord) : (s.post r).terms = s.terms := rfl
@[simp] theorem State.post_trueTerms (s : State) (r : FaultRecord) : (s.post r).trueTerms = s.trueTerms := rfl
@[simp] theorem State.post_pulsed (s : State) (r : FaultRecord) : (s.post r).pulsed = s.pulsed := rfl
@[simp] theorem State.post_barriers (s : State) (r : FaultRecord) : (s.post r).barriers = s.barriers := rfl
@[simp] theorem State.post_routines (s : State) (r : FaultRecord) : (s.post r).routines = s.routines := rfl
@[simp] theorem State.post_routineCtl (s : State) (r : FaultRecord) : (s.post r).routineCtl = s.routineCtl := rfl
@[simp] theorem State.post_spillQueue (s : State) (r : FaultRecord) : (s.post r).spillQueue = s.spillQueue := rfl
@[simp] theorem State.post_dir (s : State) (r : FaultRecord) : (s.post r).dir = s.dir := rfl
@[simp] theorem State.post_fabric (s : State) (r : FaultRecord) : (s.post r).fabric = s.fabric := rfl
@[simp] theorem State.post_trust (s : State) (r : FaultRecord) : (s.post r).trust = s.trust := rfl
@[simp] theorem State.post_typel (s : State) (r : FaultRecord) : (s.post r).typel = s.typel := rfl
@[simp] theorem State.post_serviceCores (s : State) (r : FaultRecord) : (s.post r).serviceCores = s.serviceCores := rfl
@[simp] theorem State.post_bad (s : State) (r : FaultRecord) : (s.post r).bad = s.bad := rfl
@[simp] theorem State.post_seals (s : State) (r : FaultRecord) : (s.post r).seals = s.seals := rfl
@[simp] theorem State.post_upset (s : State) (r : FaultRecord) : (s.post r).upset = s.upset := rfl
@[simp] theorem State.post_clock (s : State) (r : FaultRecord) : (s.post r).clock = s.clock := rfl
@[simp] theorem State.post_time (s : State) (r : FaultRecord) : (s.post r).time = s.time := rfl
@[simp] theorem State.post_fresh (s : State) (r : FaultRecord) : (s.post r).fresh = s.fresh := rfl
@[simp] theorem State.post_inbox (s : State) (r : FaultRecord) : (s.post r).inbox = s.inbox := rfl
@[simp] theorem State.post_outbox (s : State) (r : FaultRecord) : (s.post r).outbox = s.outbox := rfl

@[simp] theorem State.setThread_mem (s : State) (t : Thread) : (s.setThread t).mem = s.mem := by unfold State.setThread; split <;> rfl
@[simp] theorem State.setThread_nodes (s : State) (t : Thread) : (s.setThread t).nodes = s.nodes := by unfold State.setThread; split <;> rfl
@[simp] theorem State.setThread_nextNode (s : State) (t : Thread) : (s.setThread t).nextNode = s.nextNode := by unfold State.setThread; split <;> rfl
@[simp] theorem State.setThread_cores (s : State) (t : Thread) : (s.setThread t).cores = s.cores := by unfold State.setThread; split <;> rfl
@[simp] theorem State.setThread_owners (s : State) (t : Thread) : (s.setThread t).owners = s.owners := by unfold State.setThread; split <;> rfl
@[simp] theorem State.setThread_dies (s : State) (t : Thread) : (s.setThread t).dies = s.dies := by unfold State.setThread; split <;> rfl
@[simp] theorem State.setThread_sb (s : State) (t : Thread) : (s.setThread t).sb = s.sb := by unfold State.setThread; split <;> rfl
@[simp] theorem State.setThread_cache (s : State) (t : Thread) : (s.setThread t).cache = s.cache := by unfold State.setThread; split <;> rfl
@[simp] theorem State.setThread_slices (s : State) (t : Thread) : (s.setThread t).slices = s.slices := by unfold State.setThread; split <;> rfl
@[simp] theorem State.setThread_icache (s : State) (t : Thread) : (s.setThread t).icache = s.icache := by unfold State.setThread; split <;> rfl
@[simp] theorem State.setThread_tlb (s : State) (t : Thread) : (s.setThread t).tlb = s.tlb := by unfold State.setThread; split <;> rfl
@[simp] theorem State.setThread_tlbHits (s : State) (t : Thread) : (s.setThread t).tlbHits = s.tlbHits := by unfold State.setThread; split <;> rfl
@[simp] theorem State.setThread_tlbMisses (s : State) (t : Thread) : (s.setThread t).tlbMisses = s.tlbMisses := by unfold State.setThread; split <;> rfl
@[simp] theorem State.setThread_banks (s : State) (t : Thread) : (s.setThread t).banks = s.banks := by unfold State.setThread; split <;> rfl
@[simp] theorem State.setThread_reefed (s : State) (t : Thread) : (s.setThread t).reefed = s.reefed := by unfold State.setThread; split <;> rfl
@[simp] theorem State.setThread_touched (s : State) (t : Thread) : (s.setThread t).touched = s.touched := by unfold State.setThread; split <;> rfl
@[simp] theorem State.setThread_tiles (s : State) (t : Thread) : (s.setThread t).tiles = s.tiles := by unfold State.setThread; split <;> rfl
@[simp] theorem State.setThread_jobs (s : State) (t : Thread) : (s.setThread t).jobs = s.jobs := by unfold State.setThread; split <;> rfl
@[simp] theorem State.setThread_groups (s : State) (t : Thread) : (s.setThread t).groups = s.groups := by unfold State.setThread; split <;> rfl
@[simp] theorem State.setThread_images (s : State) (t : Thread) : (s.setThread t).images = s.images := by unfold State.setThread; split <;> rfl
@[simp] theorem State.setThread_cmds (s : State) (t : Thread) : (s.setThread t).cmds = s.cmds := by unfold State.setThread; split <;> rfl
@[simp] theorem State.setThread_nextCmd (s : State) (t : Thread) : (s.setThread t).nextCmd = s.nextCmd := by unfold State.setThread; split <;> rfl
@[simp] theorem State.setThread_heldWrites (s : State) (t : Thread) : (s.setThread t).heldWrites = s.heldWrites := by unfold State.setThread; split <;> rfl
@[simp] theorem State.setThread_reservations (s : State) (t : Thread) : (s.setThread t).reservations = s.reservations := by unfold State.setThread; split <;> rfl
@[simp] theorem State.setThread_counters (s : State) (t : Thread) : (s.setThread t).counters = s.counters := by unfold State.setThread; split <;> rfl
@[simp] theorem State.setThread_terms (s : State) (t : Thread) : (s.setThread t).terms = s.terms := by unfold State.setThread; split <;> rfl
@[simp] theorem State.setThread_trueTerms (s : State) (t : Thread) : (s.setThread t).trueTerms = s.trueTerms := by unfold State.setThread; split <;> rfl
@[simp] theorem State.setThread_pulsed (s : State) (t : Thread) : (s.setThread t).pulsed = s.pulsed := by unfold State.setThread; split <;> rfl
@[simp] theorem State.setThread_barriers (s : State) (t : Thread) : (s.setThread t).barriers = s.barriers := by unfold State.setThread; split <;> rfl
@[simp] theorem State.setThread_routines (s : State) (t : Thread) : (s.setThread t).routines = s.routines := by unfold State.setThread; split <;> rfl
@[simp] theorem State.setThread_routineCtl (s : State) (t : Thread) : (s.setThread t).routineCtl = s.routineCtl := by unfold State.setThread; split <;> rfl
@[simp] theorem State.setThread_spillQueue (s : State) (t : Thread) : (s.setThread t).spillQueue = s.spillQueue := by unfold State.setThread; split <;> rfl
@[simp] theorem State.setThread_dir (s : State) (t : Thread) : (s.setThread t).dir = s.dir := by unfold State.setThread; split <;> rfl
@[simp] theorem State.setThread_ctl (s : State) (t : Thread) : (s.setThread t).ctl = s.ctl := by unfold State.setThread; split <;> rfl
@[simp] theorem State.setThread_fabric (s : State) (t : Thread) : (s.setThread t).fabric = s.fabric := by unfold State.setThread; split <;> rfl
@[simp] theorem State.setThread_trust (s : State) (t : Thread) : (s.setThread t).trust = s.trust := by unfold State.setThread; split <;> rfl
@[simp] theorem State.setThread_typel (s : State) (t : Thread) : (s.setThread t).typel = s.typel := by unfold State.setThread; split <;> rfl
@[simp] theorem State.setThread_serviceCores (s : State) (t : Thread) : (s.setThread t).serviceCores = s.serviceCores := by unfold State.setThread; split <;> rfl
@[simp] theorem State.setThread_bad (s : State) (t : Thread) : (s.setThread t).bad = s.bad := by unfold State.setThread; split <;> rfl
@[simp] theorem State.setThread_seals (s : State) (t : Thread) : (s.setThread t).seals = s.seals := by unfold State.setThread; split <;> rfl
@[simp] theorem State.setThread_upset (s : State) (t : Thread) : (s.setThread t).upset = s.upset := by unfold State.setThread; split <;> rfl
@[simp] theorem State.setThread_clock (s : State) (t : Thread) : (s.setThread t).clock = s.clock := by unfold State.setThread; split <;> rfl
@[simp] theorem State.setThread_time (s : State) (t : Thread) : (s.setThread t).time = s.time := by unfold State.setThread; split <;> rfl
@[simp] theorem State.setThread_fresh (s : State) (t : Thread) : (s.setThread t).fresh = s.fresh := by unfold State.setThread; split <;> rfl
@[simp] theorem State.setThread_inbox (s : State) (t : Thread) : (s.setThread t).inbox = s.inbox := by unfold State.setThread; split <;> rfl
@[simp] theorem State.setThread_outbox (s : State) (t : Thread) : (s.setThread t).outbox = s.outbox := by unfold State.setThread; split <;> rfl

/-! ## Registers -/

@[simp] theorem Thread.sreg_zero (t : Thread) : t.sreg 0 = 0 := rfl
@[simp] theorem Thread.setS_zero (t : Thread) (v : DWord) : t.setS 0 v = t := rfl
@[simp] theorem State.setS_zero (s : State) (v : DWord) : s.setS 0 v = s := rfl

theorem Thread.sreg_setS_same (t : Thread) (r : Reg) (v : DWord) (h : r ≠ 0) : (t.setS r v).sreg r = v := by
  simp [Thread.setS, Thread.sreg, h]

theorem Thread.sreg_setS_other (t : Thread) (r q : Reg) (v : DWord) (h : q ≠ r) : (t.setS r v).sreg q = t.sreg q := by
  unfold Thread.setS Thread.sreg
  split
  · rfl
  · split
    · rfl
    · have h2 : r.val ≠ q.val := fun e => h (Fin.ext e.symm)
      simp [Vector.getElem_set_ne _ _ h2]

@[simp] theorem Thread.preg_setP_same (t : Thread) (r : PReg) (v : DWord) : (t.setP r v).preg r = v := by
  simp [Thread.setP, Thread.preg]

theorem Thread.preg_setP_other (t : Thread) (r q : PReg) (v : DWord) (h : q ≠ r) : (t.setP r v).preg q = t.preg q := by
  have h2 : r.val ≠ q.val := fun e => h (Fin.ext e.symm)
  simp [Thread.setP, Thread.preg, Vector.getElem_set_ne _ _ h2]

@[simp] theorem Thread.vreg_setV_same (t : Thread) (r : Reg) (v : VecWord) : (t.setV r v).vreg r = v := by
  simp [Thread.setV, Thread.vreg]

theorem Thread.vreg_setV_other (t : Thread) (r q : Reg) (v : VecWord) (h : q ≠ r) : (t.setV r v).vreg q = t.vreg q := by
  have h2 : r.val ≠ q.val := fun e => h (Fin.ext e.symm)
  simp [Thread.setV, Thread.vreg, Vector.getElem_set_ne _ _ h2]

@[simp] theorem Thread.qreg_setQ_same (t : Thread) (r : QReg) (v : QWord) : (t.setQ r v).qreg r = v := by
  simp [Thread.setQ, Thread.qreg]

theorem Thread.qreg_setQ_other (t : Thread) (r q : QReg) (v : QWord) (h : q ≠ r) : (t.setQ r v).qreg q = t.qreg q := by
  have h2 : r.val ≠ q.val := fun e => h (Fin.ext e.symm)
  simp [Thread.setQ, Thread.qreg, Vector.getElem_set_ne _ _ h2]

@[simp] theorem Thread.preg_setS (t : Thread) (r : Reg) (v : DWord) (q : PReg) : (t.setS r v).preg q = t.preg q := by
  unfold Thread.setS; split <;> rfl
@[simp] theorem Thread.vreg_setS (t : Thread) (r : Reg) (v : DWord) (q : Reg) : (t.setS r v).vreg q = t.vreg q := by
  unfold Thread.setS; split <;> rfl
@[simp] theorem Thread.qreg_setS (t : Thread) (r : Reg) (v : DWord) (q : QReg) : (t.setS r v).qreg q = t.qreg q := by
  unfold Thread.setS; split <;> rfl
@[simp] theorem Thread.sreg_setP (t : Thread) (r : PReg) (v : DWord) (q : Reg) : (t.setP r v).sreg q = t.sreg q := rfl
@[simp] theorem Thread.vreg_setP (t : Thread) (r : PReg) (v : DWord) (q : Reg) : (t.setP r v).vreg q = t.vreg q := rfl
@[simp] theorem Thread.qreg_setP (t : Thread) (r : PReg) (v : DWord) (q : QReg) : (t.setP r v).qreg q = t.qreg q := rfl
@[simp] theorem Thread.sreg_setV (t : Thread) (r : Reg) (v : VecWord) (q : Reg) : (t.setV r v).sreg q = t.sreg q := rfl
@[simp] theorem Thread.preg_setV (t : Thread) (r : Reg) (v : VecWord) (q : PReg) : (t.setV r v).preg q = t.preg q := rfl
@[simp] theorem Thread.qreg_setV (t : Thread) (r : Reg) (v : VecWord) (q : QReg) : (t.setV r v).qreg q = t.qreg q := rfl
@[simp] theorem Thread.sreg_setQ (t : Thread) (r : QReg) (v : QWord) (q : Reg) : (t.setQ r v).sreg q = t.sreg q := rfl
@[simp] theorem Thread.preg_setQ (t : Thread) (r : QReg) (v : QWord) (q : PReg) : (t.setQ r v).preg q = t.preg q := rfl
@[simp] theorem Thread.vreg_setQ (t : Thread) (r : QReg) (v : QWord) (q : Reg) : (t.setQ r v).vreg q = t.vreg q := rfl
@[simp] theorem State.setS_thr (s : State) (r : Reg) (v : DWord) : (s.setS r v).thr = s.thr.setS r v := rfl
@[simp] theorem State.setP_thr (s : State) (r : PReg) (v : DWord) : (s.setP r v).thr = s.thr.setP r v := rfl
@[simp] theorem State.setV_thr (s : State) (r : Reg) (v : VecWord) : (s.setV r v).thr = s.thr.setV r v := rfl
@[simp] theorem State.setQ_thr (s : State) (r : QReg) (v : QWord) : (s.setQ r v).thr = s.thr.setQ r v := rfl
@[simp] theorem State.used_fresh (s : State) : s.used.fresh = s.fresh + 1 := rfl
@[simp] theorem Thread.done_status (t : Thread) (n : Nat) : (t.done n).status = t.status.clearHints := rfl
@[simp] theorem Thread.done_wait (t : Thread) (n : Nat) : (t.done n).wait = .none := rfl
@[simp] theorem Thread.done_nextIssue (t : Thread) (n : Nat) : (t.done n).nextIssue = n := rfl
@[simp] theorem State.setBank_bank (s : State) (cl b : Nat) (k : Bank) : (s.setBank cl b k).bank cl b = k := by
  simp [State.setBank, State.bank, assocD, assocSet]
@[simp] theorem State.setCore_core (s : State) (i : Nat) (c : Core) : (s.setCore i c).core i = c := by
  simp [State.setCore, State.core, assocD, assocSet]
@[simp] theorem State.setSb_sbOf (s : State) (i : Nat) (l : List SbEntry) : (s.setSb i l).sbOf i = l := by
  simp [State.setSb, State.sbOf, assocD, assocSet]

end Sys2Proof.Machine
end

