-- ==== Sys2Proof/Laws/Issue.lean ====
section
/-!
SUPPORT. What the start of a word can do, what a fault can do, and what a retired word leaves: cited instead of unfolding
them (spec/03_encoding.md R66, R67; spec/10_system_instr.md R236).
-/
namespace Sys2Proof.Machine

/-- A word that may run goes to its own effect. -/
theorem issueWith_ok {i : Instr} {bad : State → Bool} {level : Nat} {s : State} {body : State → Out}
    (h : mayRun i s) (hb : bad s = false) (hl : level ≤ s.thr.status.priv.toNat) : issueWith i bad level s body = body s := by
  obtain ⟨h1, h2, ⟨h5, h3⟩, h4⟩ := h
  have e1 : (hintFault i s.thr.status || bad s || (isTransform s.thr.id && !routineWord i)) = false := by
    rw [h1, hb]
    cases hx : isTransform s.thr.id
    · rfl
    · rw [h2 hx]; rfl
  have e2 : (decide (0 < s.upset) && checkedResult i) = false := by
    rcases h3 with h | h
    · rw [h]; rfl
    · rw [h]; simp
  have e3 : ¬ (0 < s.upset ∧ checkedResult i) := by simpa using e2
  unfold issueWith realign
  rw [if_neg (by rw [e1]; decide), if_neg (Nat.not_lt.mpr hl), if_neg (by rw [h5]; decide), if_neg (by rw [e2]; decide)]
  exact if_pos (h4.imp_right Or.inl)

theorem issue_ok {i : Instr} {s : State} {body : State → Out} (h : mayRun i s) : issue i s body = body s :=
  issueWith_ok (bad := fun _ => false) h rfl (Nat.zero_le _)

theorem issueWith_at {i : Instr} {level : Nat} {s : State} {body : State → Out} (h : mayRunAt level i s) :
    issueWith i (fun _ => false) level s body = body s := issueWith_ok (bad := fun _ => false) h.1 rfl h.2

/-- A word whose hints are wrong, that breaks a further condition, or that a transform slot may not run, is ILLEGAL. -/
theorem issueWith_illegal {i : Instr} {bad : State → Bool} {level : Nat} {s : State} {body : State → Out}
    (h : hintFault i s.thr.status = true ∨ bad s = true ∨ (isTransform s.thr.id = true ∧ routineWord i = false)) :
    issueWith i bad level s body = illegal i s := by
  have e : (hintFault i s.thr.status || bad s || (isTransform s.thr.id && !routineWord i)) = true := by
    rcases h with h | h | ⟨h, g⟩ <;> simp [h]
    simp [g]
  unfold issueWith
  rw [e]; rfl

/-- A legal word of a level above the slot's is PRIV (R67). -/
theorem issueWith_priv {i : Instr} {bad : State → Bool} {level : Nat} {s : State} {body : State → Out}
    (h : mayRun i s) (hb : bad s = false) (hl : s.thr.status.priv.toNat < level) :
    issueWith i bad level s body = fault .priv 0 none s := by
  obtain ⟨h1, h2, -, -⟩ := h
  have e1 : (hintFault i s.thr.status || bad s || (isTransform s.thr.id && !routineWord i)) = false := by
    rw [h1, hb]
    cases hx : isTransform s.thr.id
    · rfl
    · rw [h2 hx]; rfl
  unfold issueWith
  simp [e1, hl]

/-- A trap where the supervisor has a handler. -/
theorem trapTo_handler {c : Cause} {cls : BitVec 8} {v e : DWord} {s : State} (h : s.hasHandler) :
    trapTo c cls (some v) e s =
      .next { s with thr := s.thr.enterTrap c cls v e s.thr.stvec (s.clock + entryCycles s.thr.loops) } := by
  obtain ⟨h1, h2, h3⟩ := h
  have hv : s.stvecOf s.thr = s.thr.stvec := by rw [State.stvecOf, h2]; rfl
  unfold trapTo trapAfter
  rw [if_neg (by rw [h1]; decide), hv, if_neg h3]
  rfl

/-- A precise fault where the supervisor has a handler. -/
theorem fault_handler {c : Cause} {cls : BitVec 8} {v : DWord} {s : State} (h : s.hasHandler) :
    fault c cls (some v) s = .next (s.trapped c cls v) := by
  unfold fault
  rw [trapTo_handler (s := { s with thr := { s.thr.clearHints with retried := false, progress := 0, geo := [], claims := [] } }) h]
  rfl

/-- A trap of a cause whose EVAL is open (log 19), where the supervisor has a handler. -/
theorem trapTo_open {c : Cause} {cls : BitVec 8} {e : DWord} {s : State} (h : s.hasHandler) :
    trapTo c cls none e s = .next ((fun t => { s.used with thr := t })
      (s.thr.enterTrap c cls (Config.openEval s.fresh) e s.thr.stvec (s.clock + entryCycles s.thr.loops))) := by
  obtain ⟨h1, h2, h3⟩ := h
  have hv : s.stvecOf s.thr = s.thr.stvec := by rw [State.stvecOf, h2]; rfl
  unfold trapTo trapAfter
  rw [if_neg (by rw [h1]; decide), hv, if_neg h3]
  rfl

/-- A precise fault of a cause whose EVAL is open, where the supervisor has a handler. -/
theorem fault_open {c : Cause} {s : State} (h : s.hasHandler) : trapsWith c s (fault c 0 none s) := by
  unfold fault
  rw [trapTo_open (s := { s with thr := { s.thr.clearHints with retried := false, progress := 0, geo := [], claims := [] } }) h]
  exact ⟨_, rfl, by show BitVec.ofNat 64 (c.code + 2 ^ 8 * 0) = _; rw [Nat.mul_zero, Nat.add_zero], rfl, rfl, rfl, rfl, rfl⟩

/-- What a word that starts can come to: an ILLEGAL or a PRIV trap, a residue mismatch, the end of the node that a second one brings, a wait for
realignment, or its body, which may run after the members met. -/
theorem issueWith_cases {i : Instr} {bad : State → Bool} {level : Nat} {s : State} {body : State → Out} {P : Out → Prop}
    (h1 : P (illegal i s)) (h2 : P (fault .priv 0 none s)) (h3 : P (residueMismatch i s)) (h5 : P (machineCheck 0 0 s))
    (h4 : P (realign s body)) :
    P (issueWith i bad level s body) := by
  unfold issueWith
  split
  · exact h1
  · split
    · exact h2
    · split
      · exact h5
      · split
        · exact h3
        · exact h4

end Sys2Proof.Machine
end

