-- ==== Sys2Proof/Laws/Lanes.lean ====
section
/-!
SUPPORT. What a lane or an element of a vector reads after it has been packed (spec/01_machine_state.md R18).
-/
namespace Sys2Proof.Machine

/-- The dense packing of numbers of w bits, lowest first. -/
theorem packed_lt (w : Nat) (l : List Nat) (h : ∀ x ∈ l, x < 2 ^ w) :
    l.foldr (fun x acc => x + 2 ^ w * acc) 0 < 2 ^ (w * l.length) := by
  induction l with
  | nil => simp
  | cons x l ih =>
    have h1 := ih (fun y hy => h y (List.mem_cons_of_mem _ hy))
    have h2 := h x List.mem_cons_self
    simp only [List.foldr_cons, List.length_cons, Nat.mul_add, Nat.mul_one, Nat.pow_add]
    have h3 : l.foldr (fun x acc => x + 2 ^ w * acc) 0 + 1 ≤ 2 ^ (w * l.length) := h1
    calc x + 2 ^ w * l.foldr (fun x acc => x + 2 ^ w * acc) 0
        < 2 ^ w + 2 ^ w * l.foldr (fun x acc => x + 2 ^ w * acc) 0 := Nat.add_lt_add_right h2 _
      _ = 2 ^ w * (l.foldr (fun x acc => x + 2 ^ w * acc) 0 + 1) := by rw [Nat.mul_add, Nat.mul_one, Nat.add_comm]
      _ ≤ 2 ^ w * 2 ^ (w * l.length) := Nat.mul_le_mul_left _ h3
      _ = 2 ^ (w * l.length) * 2 ^ w := Nat.mul_comm _ _

/-- Number i of a packing. -/
theorem packed_get (w : Nat) (l : List Nat) (h : ∀ x ∈ l, x < 2 ^ w) (i : Nat) :
    l.foldr (fun x acc => x + 2 ^ w * acc) 0 / 2 ^ (w * i) % 2 ^ w = l.getD i 0 := by
  induction l generalizing i with
  | nil => simp
  | cons x l ih =>
    have h1 := h x List.mem_cons_self
    cases i with
    | zero => simp [Nat.mod_eq_of_lt h1]
    | succ i =>
      have h3 := ih (fun y hy => h y (List.mem_cons_of_mem _ hy)) i
      rw [List.foldr_cons, Nat.mul_add, Nat.mul_one, Nat.add_comm (w * i), Nat.pow_add, ← Nat.div_div_eq_div_mul,
        Nat.add_mul_div_left _ _ (Nat.two_pow_pos w), Nat.div_eq_of_lt h1, Nat.zero_add, h3]
      rfl

theorem foldr_toNat (l : List (BitVec 32)) :
    l.foldr (fun x acc => x.toNat + 2 ^ 32 * acc) 0 = (l.map BitVec.toNat).foldr (fun x acc => x + 2 ^ 32 * acc) 0 := by
  induction l with
  | nil => rfl
  | cons x l ih => simp only [List.foldr_cons, List.map_cons, ih]

/-- Lane j of a vector made from its lanes. -/
theorem lane_ofLanes (l : List (BitVec 32)) (hl : l.length ≤ 16) (j : Nat) : lane (ofLanes l) j = l.getD j 0 := by
  have hb : ∀ x ∈ l.map BitVec.toNat, x < 2 ^ 32 := by
    intro x hx
    obtain ⟨y, -, rfl⟩ := List.mem_map.mp hx
    exact y.isLt
  have h1 := packed_lt 32 _ hb
  have h2 := packed_get 32 _ hb j
  have h3 : 2 ^ (32 * (l.map BitVec.toNat).length) ≤ 2 ^ 512 := Nat.pow_le_pow_right (by decide) (by simp; omega)
  apply BitVec.eq_of_toNat_eq
  rw [lane, ofLanes, foldr_toNat, BitVec.extractLsb'_toNat, BitVec.toNat_ofNat, Nat.shiftRight_eq_div_pow,
    Nat.mod_eq_of_lt (Nat.lt_of_lt_of_le h1 h3), h2]
  simp only [List.getD_eq_getElem?_getD, List.getElem?_map]
  cases l[j]? <;> rfl

theorem lanes_getD (v : VecWord) (j : Nat) (h : j < 16) : (lanes v).getD j 0 = lane v j := by
  simp [lanes, List.getD_eq_getElem?_getD, h]

@[simp] theorem lanes_length (v : VecWord) : (lanes v).length = 16 := by simp [lanes]

/-- Lane j of a lane function of one, two and three registers. -/
theorem lane_mapLanes (f : Nat → Nat) (a : VecWord) (j : Nat) (h : j < 16) :
    lane (mapLanes f a) j = BitVec.ofNat 32 (f (lane a j).toNat) := by
  rw [mapLanes, lane_ofLanes _ (by simp)]
  simp [List.getD_eq_getElem?_getD, lanes, h]

theorem lane_mapLanes2 (f : Nat → Nat → Nat) (a b : VecWord) (j : Nat) (h : j < 16) :
    lane (mapLanes2 f a b) j = BitVec.ofNat 32 (f (lane a j).toNat (lane b j).toNat) := by
  rw [mapLanes2, lane_ofLanes _ (by simp)]
  simp [List.getD_eq_getElem?_getD, lanes, h, List.zip]

theorem lane_mapLanes3 (f : Nat → Nat → Nat → Nat) (a b c : VecWord) (j : Nat) (h : j < 16) :
    lane (mapLanes3 f a b c) j = BitVec.ofNat 32 (f (lane a j).toNat (lane b j).toNat (lane c j).toNat) := by
  rw [mapLanes3, lane_ofLanes _ (by simp)]
  simp [List.getD_eq_getElem?_getD, lanes, h, List.zip]

/-- Lane j of a vector with one lane replaced. -/
theorem lane_setLane (v : VecWord) (i : Nat) (x : BitVec 32) (j : Nat) (h : j < 16) :
    lane (setLane v i x) j = if j = i then x else lane v j := by
  rw [setLane, lane_ofLanes _ (by simp), List.getD_eq_getElem?_getD, List.getElem?_set]
  split
  · next hij => subst hij; simp [h]
  · next hij =>
    rw [if_neg (fun e => hij e.symm), ← List.getD_eq_getElem?_getD, lanes_getD v j h]

theorem pack_mod (w : Nat) (l : List Nat) :
    packElements w l = (l.map (· % 2 ^ w)).foldr (fun x acc => x + 2 ^ w * acc) 0 := by
  unfold packElements
  induction l with
  | nil => rfl
  | cons x l ih => simp only [List.foldr_cons, List.map_cons, ih]

/-- Element i of a vector packed from elements. -/
theorem element_pack (w : Nat) (l : List Nat) (i : Nat) : element (packElements w l) w i = l.getD i 0 % 2 ^ w := by
  rw [element, pack_mod, packed_get]
  · simp only [List.getD_eq_getElem?_getD, List.getElem?_map]
    cases l[i]? <;> simp
  · intro x hx
    obtain ⟨y, -, rfl⟩ := List.mem_map.mp hx
    exact Nat.mod_lt _ (Nat.two_pow_pos w)

/-- A packing fits its elements' bits. -/
theorem pack_lt_bits (w : Nat) (l : List Nat) : packElements w l < 2 ^ (w * l.length) := by
  rw [pack_mod]
  have := packed_lt w (l.map (· % 2 ^ w)) (by
    intro x hx
    obtain ⟨y, -, rfl⟩ := List.mem_map.mp hx
    exact Nat.mod_lt _ (Nat.two_pow_pos w))
  simpa using this

/-- Element i of an element function of two registers. -/
theorem element_mapElems2 (w : Nat) (f : Nat → Nat → Nat) (a b : VecWord) (i : Nat) (h : i < 512 / w) :
    (mapElems2 w f a b).extractLsb' (w * i) w = BitVec.ofNat w (f (element a.toNat w i) (element b.toNat w i)) := by
  have hlt := pack_lt_bits w ((List.range (512 / w)).map (fun i => f (element a.toNat w i) (element b.toNat w i)))
  have hle : 2 ^ (w * ((List.range (512 / w)).map (fun i => f (element a.toNat w i) (element b.toNat w i))).length) ≤ 2 ^ 512 := by
    apply Nat.pow_le_pow_right (by decide)
    simp only [List.length_map, List.length_range]
    exact Nat.mul_div_le 512 w
  apply BitVec.eq_of_toNat_eq
  rw [mapElems2, BitVec.extractLsb'_toNat, BitVec.toNat_ofNat, Nat.shiftRight_eq_div_pow,
    Nat.mod_eq_of_lt (Nat.lt_of_lt_of_le hlt hle), BitVec.toNat_ofNat]
  have := element_pack w ((List.range (512 / w)).map (fun i => f (element a.toNat w i) (element b.toNat w i))) i
  rw [element] at this
  rw [this]
  simp [List.getD_eq_getElem?_getD, h]

end Sys2Proof.Machine
end

