-- ==== Sys2Proof/Laws/Memory.lean ====
section
/-!
SUPPORT. Memory keeps its canonical form under every operation on it, and a read after a write gives the byte written
(spec/12_ordering.md R244).
-/
namespace Sys2Proof.Machine

/-- Every entry lies at or above an address. -/
def Memory.above (k : Nat) : Memory → Prop
  | [] => True
  | (a, _) :: _ => k ≤ a

theorem Memory.wf_cons {a : Nat} {b : Byte} {m : Memory} :
    Memory.wf ((a, b) :: m) = true ↔ b ≠ Memory.unlisted ∧ Memory.above (a + 1) m ∧ Memory.wf m = true := by
  cases m with
  | nil => simp [Memory.wf, Memory.above]
  | cons c m =>
    obtain ⟨a', b'⟩ := c
    simp only [Memory.wf, Memory.above, Nat.lt_iff_add_one_le, and_assoc, Bool.and_eq_true, decide_eq_true_eq, bne_iff_ne, ne_eq]

theorem Memory.wf_tail {c : Host.Cell} {m : Memory} (h : Memory.wf (c :: m) = true) : Memory.wf m = true :=
  (Memory.wf_cons.mp h).2.2

theorem Memory.above_le {j k : Nat} (h : j ≤ k) {m : Memory} (hm : Memory.above k m) : Memory.above j m := by
  cases m with
  | nil => trivial
  | cons c m => exact Nat.le_trans h hm

theorem Memory.above_of_wf {a : Nat} {b : Byte} {m : Memory} (h : Memory.wf ((a, b) :: m) = true) : Memory.above (a + 1) m :=
  (Memory.wf_cons.mp h).2.1

/-- An address below every entry reads as unlisted. -/
theorem Memory.get_above {k : Nat} {m : Memory} (h : Memory.above (k + 1) m) : m.get k = Memory.unlisted := by
  cases m with
  | nil => rfl
  | cons c m =>
    obtain ⟨a, b⟩ := c
    have : k < a := h
    simp [Memory.get, this, Nat.ne_of_gt this]

theorem Memory.above_set {j k : Nat} {v : Byte} {m : Memory} (hj : j ≤ k) (h : Memory.above j m)
    (hw : Memory.wf m = true) : Memory.above j (m.set k v) := by
  cases m with
  | nil => unfold Memory.set; split <;> trivial
  | cons c m =>
    obtain ⟨a, b⟩ := c
    have ha : j ≤ a := h
    have ht := Memory.above_of_wf hw
    unfold Memory.set
    split
    · split
      · exact ha
      · exact hj
    · split
      · split
        · exact Memory.above_le (by omega) ht
        · exact hj
      · exact ha

/-- A byte set keeps the canonical form. -/
theorem Memory.wf_set {m : Memory} (k : Nat) (v : Byte) (h : Memory.wf m = true) : Memory.wf (m.set k v) = true := by
  induction m with
  | nil =>
    unfold Memory.set
    split
    · rfl
    · next hv => exact Memory.wf_cons.mpr ⟨hv, trivial, rfl⟩
  | cons c m ih =>
    obtain ⟨a, b⟩ := c
    obtain ⟨h1, h2, h3⟩ := Memory.wf_cons.mp h
    unfold Memory.set
    split
    · next hk =>
      split
      · exact h
      · next hv => exact Memory.wf_cons.mpr ⟨hv, hk, h⟩
    · split
      · next hk he =>
        split
        · exact h3
        · next hv => exact Memory.wf_cons.mpr ⟨hv, he ▸ h2, h3⟩
      · next hk he => exact Memory.wf_cons.mpr ⟨h1, Memory.above_set (by omega) h2 h3, ih h3⟩

/-- A read of the byte set. -/
theorem Memory.get_set_same {m : Memory} (k : Nat) (v : Byte) (h : Memory.wf m = true) : (m.set k v).get k = v := by
  induction m with
  | nil =>
    unfold Memory.set
    split
    · next hv => rw [hv]; rfl
    · simp [Memory.get]
  | cons c m ih =>
    obtain ⟨a, b⟩ := c
    obtain ⟨h1, h2, h3⟩ := Memory.wf_cons.mp h
    unfold Memory.set
    split
    · next hk =>
      split
      · next hv => rw [hv]; simp [Memory.get, hk, Nat.ne_of_gt hk]
      · simp [Memory.get]
    · split
      · next hk he =>
        subst he
        split
        · next hv => rw [hv]; exact Memory.get_above h2
        · simp [Memory.get]
      · next hk he =>
        have h5 : ¬ a = k := fun e => he e.symm
        simp [Memory.get, hk, h5, ih h3]

/-- A byte set leaves every other byte as it was. -/
theorem Memory.get_set_other {m : Memory} (k j : Nat) (v : Byte) (h : Memory.wf m = true) (hj : j ≠ k) :
    (m.set k v).get j = m.get j := by
  induction m with
  | nil =>
    unfold Memory.set
    split
    · rfl
    · have : ¬ k = j := fun e => hj e.symm
      simp [Memory.get, this]
  | cons c m ih =>
    obtain ⟨a, b⟩ := c
    obtain ⟨h1, h2, h3⟩ := Memory.wf_cons.mp h
    have hkj : ¬ k = j := fun e => hj e.symm
    unfold Memory.set
    split
    · next hk =>
      split
      · rfl
      · simp only [Memory.get, hkj, if_false]
        split
        · next hlt =>
          have : ¬ a = j := by omega
          have : j < a := by omega
          simp [*]
        · rfl
    · split
      · next hk he =>
        subst he
        have e1 : ∀ (x : Byte), Memory.get ((k, x) :: m) j = if j < k then Memory.unlisted else Memory.get m j := by
          intro x; simp [Memory.get, hkj]
        split
        · rw [e1]
          split
          · next hlt => exact Memory.get_above (Memory.above_le (by omega) h2)
          · rfl
        · rw [e1, e1]
      · next hk he => simp only [Memory.get, ih h3]

/-- Bytes written keep the canonical form. -/
theorem Memory.wf_write {m : Memory} (k : Nat) (l : List Byte) (h : Memory.wf m = true) : Memory.wf (m.write k l) = true := by
  induction l generalizing m k with
  | nil => exact h
  | cons b l ih => exact ih _ (Memory.wf_set k b h)

/-- Bytes outside those written read as before. -/
theorem Memory.get_write_other {m : Memory} (k j : Nat) (l : List Byte) (h : Memory.wf m = true)
    (hj : j < k ∨ k + l.length ≤ j) : (m.write k l).get j = m.get j := by
  induction l generalizing m k with
  | nil => rfl
  | cons b l ih =>
    have h1 : j < k + 1 ∨ k + 1 + l.length ≤ j := by simp at hj; omega
    have h2 : j ≠ k := by simp at hj; omega
    rw [Memory.write, ih (k + 1) (Memory.wf_set k b h) h1, Memory.get_set_other k j b h h2]

/-- The bytes written are read. -/
theorem Memory.get_write_same {m : Memory} (k i : Nat) (l : List Byte) (h : Memory.wf m = true) (hi : i < l.length) :
    (m.write k l).get (k + i) = l[i] := by
  induction l generalizing m k i with
  | nil => exact absurd hi (by simp)
  | cons b l ih =>
    cases i with
    | zero =>
      rw [Memory.write, Memory.get_write_other _ _ _ (Memory.wf_set k b h) (by omega)]
      exact Memory.get_set_same k b h
    | succ i =>
      have := ih (m := m.set k b) (k + 1) i (Memory.wf_set k b h) (by simpa using hi)
      rw [Memory.write, show k + (i + 1) = k + 1 + i by omega]
      simpa using this

theorem Memory.above_filter {k : Nat} {p : Host.Cell → Bool} {m : Memory} (h : Memory.above k m) (hw : Memory.wf m = true) :
    Memory.above k (m.filter p) := by
  induction m with
  | nil => trivial
  | cons c m ih =>
    obtain ⟨a, b⟩ := c
    obtain ⟨-, h2, h3⟩ := Memory.wf_cons.mp hw
    have ha : k ≤ a := h
    rw [List.filter_cons]
    split
    · exact ha
    · exact ih (Memory.above_le (by omega) h2) h3

theorem Memory.wf_filter {p : Host.Cell → Bool} {m : Memory} (h : Memory.wf m = true) : Memory.wf (m.filter p) = true := by
  induction m with
  | nil => rfl
  | cons c m ih =>
    obtain ⟨a, b⟩ := c
    obtain ⟨h1, h2, h3⟩ := Memory.wf_cons.mp h
    rw [List.filter_cons]
    split
    · exact Memory.wf_cons.mpr ⟨h1, Memory.above_filter h2 h3, ih h3⟩
    · exact ih h3

/-- A range made zero keeps the canonical form. -/
theorem Memory.wf_clear {m : Memory} (k n : Nat) (h : Memory.wf m = true) : Memory.wf (m.clear k n) = true := Memory.wf_filter h

/-! ## The operations that write memory -/

theorem State.poke_wf {s : State} (h : Home) (l : List Byte) (w : Memory.wf s.mem = true) : Memory.wf (s.poke h l).mem = true := by
  unfold State.poke
  split
  · exact Memory.wf_write _ _ w
  · exact w

theorem State.zeroHome_wf {s : State} (h : Home) (n : Nat) (w : Memory.wf s.mem = true) : Memory.wf (s.zeroHome h n).mem = true := by
  unfold State.zeroHome
  split
  · exact Memory.wf_clear _ _ w
  · exact w

/-- A write performed at its home changes memory as a poke does. -/
theorem State.perform_mem (s : State) (h : Home) (l : List Byte) : (s.perform h l).mem = (s.poke h l).mem := by
  unfold State.perform State.wakeBank State.noteText State.poke
  cases h <;> simp only [Home.key] <;> (repeat' split) <;> rfl

theorem State.perform_wf {s : State} (h : Home) (l : List Byte) (w : Memory.wf s.mem = true) :
    Memory.wf (s.perform h l).mem = true := by
  rw [State.perform_mem]; exact State.poke_wf h l w

/-- Zeros performed at a home change memory as clearing does. -/
theorem State.performZeros_mem (s : State) (h : Home) (n : Nat) : (s.performZeros h n).mem = (s.zeroHome h n).mem := by
  unfold State.performZeros State.tripAt State.wakeBank State.noteText State.zeroHome
  cases h <;> simp only [Home.key] <;> (repeat' split) <;> rfl

theorem State.performZeros_wf {s : State} (h : Home) (n : Nat) (w : Memory.wf s.mem = true) :
    Memory.wf (s.performZeros h n).mem = true := by
  rw [State.performZeros_mem]; exact State.zeroHome_wf h n w

/-- A fold keeps the canonical form where each of its steps does. -/
theorem State.foldl_wf {α : Type} {f : State → α → State} (hf : ∀ s x, Memory.wf s.mem = true → Memory.wf (f s x).mem = true)
    (l : List α) {s : State} (w : Memory.wf s.mem = true) : Memory.wf (l.foldl f s).mem = true := by
  induction l generalizing s with
  | nil => exact w
  | cons x l ih => exact ih (hf s x w)

/-- Sealing leaves memory as it is. -/
theorem State.sealLine_mem (w : BitVec 4) (cl : Nat) (s : State) (k : Nat) : (State.sealLine w cl s k).mem = s.mem := rfl

theorem State.sealAt_mem (s : State) (cl : Nat) (w : BitVec 4) (h : Home) (n : Nat) : (s.sealAt cl w h n).mem = s.mem := by
  have fold : ∀ (l : List Nat) (t : State), (l.foldl (State.sealLine w cl) t).mem = t.mem := by
    intro l; induction l with
    | nil => intro t; rfl
    | cons x l ih => intro t; exact ih _
  unfold State.sealAt
  split
  · split
    · exact fold _ _
    · rfl
  · rfl

theorem State.sealAt_wf {s : State} (cl : Nat) (x : BitVec 4) (h : Home) (n : Nat) (w : Memory.wf s.mem = true) :
    Memory.wf (s.sealAt cl x h n).mem = true := by rw [State.sealAt_mem]; exact w

theorem State.setLeaf_wf {s : State} (l : Leaf) (off on : DWord) (w : Memory.wf s.mem = true) :
    Memory.wf (s.setLeaf l off on).mem = true := by
  unfold State.setLeaf
  split
  · exact w
  · exact State.perform_wf (s := s) _ _ w

theorem State.markAccessed_wf {s : State} (l : Leaf) (w : Memory.wf s.mem = true) :
    Memory.wf (s.markAccessed l).2.mem = true := by
  unfold State.markAccessed
  split
  · exact w
  · exact State.setLeaf_wf _ _ _ w

theorem State.dropFrame_mem (s : State) (h : Home) : (s.dropFrame h).mem = s.mem := rfl
theorem State.dropOldText_mem (s : State) (h : Home) : (s.dropOldText h).mem = s.mem := by
  unfold State.dropOldText; split <;> rfl
theorem State.tripAt_mem (s : State) (h : Home) (n : Nat) : (s.tripAt h n).mem = s.mem := rfl

theorem State.revive_wf {s : State} (l : Leaf) (w : Memory.wf s.mem = true) : Memory.wf (s.revive l).mem = true := by
  unfold State.revive
  split
  · apply State.setLeaf_wf
    rw [State.dropOldText_mem, State.dropFrame_mem]
    split
    · split
      · exact w
      · exact w
    · exact State.sealAt_wf _ _ _ _ (State.performZeros_wf _ _ w)
  · exact w

theorem State.markDirty_wf {s : State} (l : Leaf) (w : Memory.wf s.mem = true) : Memory.wf (s.markDirty l).mem = true := by
  unfold State.markDirty
  split
  · exact State.revive_wf l w
  · split
    · exact w
    · exact State.setLeaf_wf _ _ _ w

theorem State.performMasked_wf {s : State} (line : Home) (mask : BitVec 64) (v : VecWord) (w : Memory.wf s.mem = true) :
    Memory.wf (s.performMasked line mask v).mem = true :=
  State.foldl_wf (fun _ _ h => State.perform_wf _ _ h) _ w

theorem State.performSent_wf {s : State} (p : Home → Bool) (w : Memory.wf s.mem = true) : Memory.wf (s.performSent p).mem = true := by
  refine State.foldl_wf (fun t x h => ?_) _ w
  exact State.foldl_wf (fun _ _ h => State.performMasked_wf _ _ _ h) _ h

theorem State.openFor_wf {s : State} (x : BitVec 4) (h : Home) (n : Nat) (w : Memory.wf s.mem = true) :
    Memory.wf (s.openFor x h n).mem = true := by
  unfold State.openFor
  split
  · exact State.foldl_wf (fun t k g => by
      split
      · exact State.poke_wf _ _ g
      · exact g) _ w
  · exact w

/-- A write for a world keeps the canonical form. -/
theorem State.performFor_wf {s : State} (cl : Nat) (x : BitVec 4) (h : Home) (l : List Byte) (w : Memory.wf s.mem = true) :
    Memory.wf (s.performFor cl x h l).mem = true := State.sealAt_wf _ _ _ _ (State.perform_wf _ _ (State.openFor_wf _ _ _ w))

theorem State.performMaskedFor_wf {s : State} (cl : Nat) (x : BitVec 4) (line : Home) (mask : BitVec 64) (v : VecWord)
    (w : Memory.wf s.mem = true) : Memory.wf (s.performMaskedFor cl x line mask v).mem = true :=
  State.sealAt_wf _ _ _ _ (State.performMasked_wf _ _ _ (State.openFor_wf _ _ _ w))

end Sys2Proof.Machine
end

