-- ==== Sys2Proof/Laws/PerInstr.lean ====
section
/-!
SUPPORT. The family Roundtrip, one lemma for each instruction: the word of a well-formed instruction decodes to it again
(spec/03_encoding.md R50, R69).
-/
set_option linter.unusedSimpArgs false

namespace Sys2Proof.Laws.Roundtrip

/-- The word of the instruction, if it has one and its fields are legal, decodes to it. -/
def Statement (i : Instr) : Prop := i.hasWord = true → i.wf = true → decode (encode i) = .ok i

/-- Decoding by the number that a word holds. -/
theorem decode_of {i : Instr} (n : Nat) (h : encodeNat i = n) (h1 : decodeMajor n = .ok i) (hw : i.wf = true)
    (hn : n < 2 ^ 32) : decode (encode i) = .ok i := by
  have e : (encode i).toNat = n := by
    rw [encode, h, BitVec.toNat_ofNat, Nat.mod_eq_of_lt hn]
  simp only [decode, e, h1, hw, reduceIte]

/-- Fields of a word, lowest first, each with its width. -/
def pack : List (Nat × Nat) → Nat
  | [] => 0
  | (w, v) :: l => v + 2 ^ w * pack l

/-- The same, with the number of the lowest bit of each. -/
def packAt : Nat → List (Nat × Nat) → Nat
  | _, [] => 0
  | o, (w, v) :: l => v * 2 ^ o + packAt (o + w) l

theorem packAt_nil (o : Nat) : packAt o [] = 0 := by cases o <;> rfl

theorem packAt_cons (o w v : Nat) (l : List (Nat × Nat)) :
    packAt o ((w, v) :: l) = v * 2 ^ o + packAt (o + w) l := by cases l <;> rfl

theorem packAt_eq (l : List (Nat × Nat)) : ∀ o, packAt o l = 2 ^ o * pack l := by
  induction l with
  | nil => intro o; rfl
  | cons x l ih =>
    intro o
    obtain ⟨w, v⟩ := x
    rw [packAt, pack, ih, Nat.pow_add, Nat.mul_add, Nat.mul_comm v, Nat.mul_assoc]

theorem pack_eq (l : List (Nat × Nat)) : pack l = packAt 0 l := by rw [packAt_eq, Nat.pow_zero, Nat.one_mul]

theorem fields_nil (b : Nat) : fields b [] = b := by cases b <;> rfl

theorem fields_cons (b x s : Nat) (l : List (Nat × Nat)) :
    fields b ((x, s) :: l) = fields (b + x * 2 ^ s) l := by cases l <;> rfl

/-- The bits that fields take. -/
def width : List (Nat × Nat) → Nat
  | [] => 0
  | (w, _) :: l => w + width l

/-- Every field fits its width. -/
def fits : List (Nat × Nat) → Prop
  | [] => True
  | (w, v) :: l => v < 2 ^ w ∧ fits l

theorem pack_bound (l : List (Nat × Nat)) (h : fits l) : pack l < 2 ^ width l := by
  induction l with
  | nil => simp [pack, width]
  | cons x l ih =>
    obtain ⟨w, v⟩ := x
    have h2 := ih h.2
    have h1 := h.1
    simp only [pack, width, Nat.pow_add]
    calc v + 2 ^ w * pack l < 2 ^ w + 2 ^ w * pack l := by omega
      _ = 2 ^ w * (pack l + 1) := by rw [Nat.mul_add, Nat.mul_one, Nat.add_comm]
      _ ≤ 2 ^ w * 2 ^ width l := Nat.mul_le_mul_left _ h2

theorem pack_lt (l : List (Nat × Nat)) (h : fits l) {k : Nat} (hk : width l = k) : pack l < 2 ^ k := hk ▸ pack_bound l h

/-- A field of packed fields reads as its value. -/
theorem bits_pack (w v : Nat) (post : List (Nat × Nat)) (hv : v < 2 ^ w) (hi lo : Nat) (pre : List (Nat × Nat))
    (hf : fits pre) (hl : width pre = lo) (hw : lo + w = hi + 1) : bits (pack (pre ++ (w, v) :: post)) hi lo = v := by
  have key : pack (pre ++ (w, v) :: post) / 2 ^ lo = v + 2 ^ w * pack post := by
    clear hw
    induction pre generalizing lo with
    | nil => simp only [width] at hl; subst hl; simp [pack]
    | cons x l ih =>
      obtain ⟨a, b⟩ := x
      simp only [width] at hl
      simp only [fits] at hf
      subst hl
      simp only [List.cons_append, pack]
      rw [Nat.pow_add, ← Nat.div_div_eq_div_mul, Nat.add_mul_div_left _ _ (Nat.two_pow_pos _), Nat.div_eq_of_lt hf.1, Nat.zero_add]
      exact ih _ hf.2 rfl
  rw [bits, key, ← hw, Nat.add_sub_cancel_left, Nat.add_mul_mod_self_left, Nat.mod_eq_of_lt hv]

/-- A single bit as a Bool. -/
theorem bit_of {n k : Nat} {x : Bool} (h : bits n k k = x.toNat) : bit n k = x := by
  have e : k + 1 - k = 1 := by omega
  simp only [bits, e, Nat.pow_one] at h
  cases x <;> simp_all [bit]

theorem ofNat_val {n : Nat} [NeZero n] (a : Fin n) : Fin.ofNat n a.val = a := by
  apply Fin.ext; simp [Fin.ofNat, Nat.mod_eq_of_lt a.isLt]

theorem Width.toBits_lt (x : Width) : x.toBits < 2 := by cases x <;> decide
theorem Width.ofBits_toBits (x : Width) : Width.ofBits x.toBits = x := by cases x <;> rfl
theorem ExtFrom.toBits_lt (x : ExtFrom) : x.toBits < 4 := by cases x <;> decide
theorem ExtFrom.ofBits?_toBits (x : ExtFrom) : ExtFrom.ofBits? x.toBits = some x := by cases x <;> rfl
theorem ShiftKind.toBits_lt (x : ShiftKind) : x.toBits < 4 := by cases x <;> decide
theorem ShiftKind.ofBits?_toBits (x : ShiftKind) : ShiftKind.ofBits? x.toBits = some x := by cases x <;> rfl
theorem LdSize.toBits_lt (x : LdSize) : x.toBits < 8 := by cases x <;> decide
theorem LdSize.ofBits?_toBits (x : LdSize) : LdSize.ofBits? x.toBits = some x := by cases x <;> rfl
theorem StSize.toBits_lt (x : StSize) : x.toBits < 8 := by cases x <;> decide
theorem StSize.ofBits?_toBits (x : StSize) : StSize.ofBits? x.toBits = some x := by cases x <;> rfl
theorem Ord.toBits_lt (x : Ord) : x.toBits < 4 := by cases x <;> decide
theorem Ord.ofBits_toBits (x : Ord) : Ord.ofBits x.toBits = x := by cases x <;> rfl
theorem Scope.toBits_lt (x : Scope) : x.toBits < 8 := by cases x <;> decide
theorem Scope.ofBits?_toBits (x : Scope) : Scope.ofBits? x.toBits = some x := by cases x <;> rfl
theorem GSize.toBits_lt (x : GSize) : x.toBits < 4 := by cases x <;> decide
theorem GSize.ofBits?_toBits (x : GSize) : GSize.ofBits? x.toBits = some x := by cases x <;> rfl
theorem AmoOp.toBits_lt (x : AmoOp) : x.toBits < 16 := by cases x <;> decide
theorem AmoOp.ofBits?_toBits (x : AmoOp) : AmoOp.ofBits? x.toBits = some x := by cases x <;> rfl
theorem FaddFmt.toBits_lt (x : FaddFmt) : x.toBits < 2 := by cases x <;> decide
theorem FaddFmt.ofBits_toBits (x : FaddFmt) : FaddFmt.ofBits x.toBits = x := by cases x <;> rfl
theorem Round.toBits_lt (x : Round) : x.toBits < 4 := by cases x <;> decide
theorem Round.ofBits_toBits (x : Round) : Round.ofBits x.toBits = x := by cases x <;> rfl
theorem VCmp.toBits_lt (x : VCmp) : x.toBits < 8 := by cases x <;> decide
theorem VCmp.ofBits_toBits (x : VCmp) : VCmp.ofBits x.toBits = x := by cases x <;> rfl
theorem Elem.toBits_lt (x : Elem) : x.toBits < 4 := by cases x <;> decide
theorem Elem.ofBits?_toBits (x : Elem) : Elem.ofBits? x.toBits = some x := by cases x <;> rfl
theorem ScanKind.toBits_lt (x : ScanKind) : x.toBits < 4 := by cases x <;> decide
theorem ScanKind.ofBits_toBits (x : ScanKind) : ScanKind.ofBits x.toBits = x := by cases x <;> rfl
theorem Dom.toBits_lt (x : Dom) : x.toBits < 2 := by cases x <;> decide
theorem Dom.ofBits_toBits (x : Dom) : Dom.ofBits x.toBits = x := by cases x <;> rfl
theorem major_1 {n : Nat} (h : bits n 31 26 = 1) : decodeMajor n = decodeAlu n := by
  unfold decodeMajor; rw [h]; exact rfl
theorem major_2 {n : Nat} (h : bits n 31 26 = 2) : decodeMajor n = decodeAluK n := by
  unfold decodeMajor; rw [h]; exact rfl
theorem major_12 {n : Nat} (h : bits n 31 26 = 12) : decodeMajor n = decodeBcc n := by
  unfold decodeMajor; rw [h]; exact rfl
theorem major_15 {n : Nat} (h : bits n 31 26 = 15) : decodeMajor n = decodeJump n := by
  unfold decodeMajor; rw [h]; exact rfl
theorem major_16 {n : Nat} (h : bits n 31 26 = 16) : decodeMajor n = decodeLoop n := by
  unfold decodeMajor; rw [h]; exact rfl
theorem major_17 {n : Nat} (h : bits n 31 26 = 17) : decodeMajor n = decodePointer n := by
  unfold decodeMajor; rw [h]; exact rfl
theorem major_22 {n : Nat} (h : bits n 31 26 = 22) : decodeMajor n = decodeGather n := by
  unfold decodeMajor; rw [h]; exact rfl
theorem major_23 {n : Nat} (h : bits n 31 26 = 23) : decodeMajor n = decodeAtomic n := by
  unfold decodeMajor; rw [h]; exact rfl
theorem major_24 {n : Nat} (h : bits n 31 26 = 24) : decodeMajor n = decodeFence n := by
  unfold decodeMajor; rw [h]; exact rfl
theorem major_25 {n : Nat} (h : bits n 31 26 = 25) : decodeMajor n = decodeQueue n := by
  unfold decodeMajor; rw [h]; exact rfl
theorem major_26 {n : Nat} (h : bits n 31 26 = 26) : decodeMajor n = decodeVFloat n := by
  unfold decodeMajor; rw [h]; exact rfl
theorem major_27 {n : Nat} (h : bits n 31 26 = 27) : decodeMajor n = decodeVCompare n := by
  unfold decodeMajor; rw [h]; exact rfl
theorem major_28 {n : Nat} (h : bits n 31 26 = 28) : decodeMajor n = decodeVInt n := by
  unfold decodeMajor; rw [h]; exact rfl
theorem major_29 {n : Nat} (h : bits n 31 26 = 29) : decodeMajor n = decodeVLane n := by
  unfold decodeMajor; rw [h]; exact rfl
theorem major_30 {n : Nat} (h : bits n 31 26 = 30) : decodeMajor n = decodeVReduce n := by
  unfold decodeMajor; rw [h]; exact rfl
theorem major_31 {n : Nat} (h : bits n 31 26 = 31) : decodeMajor n = decodeVConvert n := by
  unfold decodeMajor; rw [h]; exact rfl
theorem major_32 {n : Nat} (h : bits n 31 26 = 32) : decodeMajor n = decodeTile0 n := by
  unfold decodeMajor; rw [h]; exact rfl
theorem major_33 {n : Nat} (h : bits n 31 26 = 33) : decodeMajor n = decodeTile1 n := by
  unfold decodeMajor; rw [h]; exact rfl
theorem major_34 {n : Nat} (h : bits n 31 26 = 34) : decodeMajor n = decodeTile2 n := by
  unfold decodeMajor; rw [h]; exact rfl
theorem major_35 {n : Nat} (h : bits n 31 26 = 35) : decodeMajor n = decodeStream n := by
  unfold decodeMajor; rw [h]; exact rfl
theorem major_36 {n : Nat} (h : bits n 31 26 = 36) : decodeMajor n = decodeAutomaton n := by
  unfold decodeMajor; rw [h]; exact rfl
theorem major_37 {n : Nat} (h : bits n 31 26 = 37) : decodeMajor n = decodeDirectory n := by
  unfold decodeMajor; rw [h]; exact rfl
theorem major_38 {n : Nat} (h : bits n 31 26 = 38) : decodeMajor n = decodeGraph n := by
  unfold decodeMajor; rw [h]; exact rfl
theorem major_39 {n : Nat} (h : bits n 31 26 = 39) : decodeMajor n = decodeEngine n := by
  unfold decodeMajor; rw [h]; exact rfl
theorem major_40 {n : Nat} (h : bits n 31 26 = 40) : decodeMajor n = decodeGuard n := by
  unfold decodeMajor; rw [h]; exact rfl
theorem major_41 {n : Nat} (h : bits n 31 26 = 41) : decodeMajor n = decodeSystem n := by
  unfold decodeMajor; rw [h]; exact rfl
theorem major_63 {n : Nat} (h : bits n 31 26 = 63) : decodeMajor n = decodeHint n := by
  unfold decodeMajor; rw [h]; exact rfl
theorem major_3 {n : Nat} (h : bits n 31 26 = 3) : decodeMajor n =
    .ok (.addi (Fin.ofNat 32 (bits n 25 21)) (Fin.ofNat 32 (bits n 20 16)) (Fin.ofNat 65536 (bits n 15 0))) := by
  unfold decodeMajor; rw [h]; exact rfl
theorem major_4 {n : Nat} (h : bits n 31 26 = 4) : decodeMajor n =
    .ok (.andi (Fin.ofNat 32 (bits n 25 21)) (Fin.ofNat 32 (bits n 20 16)) (Fin.ofNat 65536 (bits n 15 0))) := by
  unfold decodeMajor; rw [h]; exact rfl
theorem major_5 {n : Nat} (h : bits n 31 26 = 5) : decodeMajor n =
    .ok (.ori (Fin.ofNat 32 (bits n 25 21)) (Fin.ofNat 32 (bits n 20 16)) (Fin.ofNat 65536 (bits n 15 0))) := by
  unfold decodeMajor; rw [h]; exact rfl
theorem major_6 {n : Nat} (h : bits n 31 26 = 6) : decodeMajor n =
    .ok (.xori (Fin.ofNat 32 (bits n 25 21)) (Fin.ofNat 32 (bits n 20 16)) (Fin.ofNat 65536 (bits n 15 0))) := by
  unfold decodeMajor; rw [h]; exact rfl
theorem major_7 {n : Nat} (h : bits n 31 26 = 7) : decodeMajor n =
    .ok (.slti (Fin.ofNat 32 (bits n 25 21)) (Fin.ofNat 32 (bits n 20 16)) (Fin.ofNat 65536 (bits n 15 0))) := by
  unfold decodeMajor; rw [h]; exact rfl
theorem major_8 {n : Nat} (h : bits n 31 26 = 8) : decodeMajor n =
    .ok (.sltiu (Fin.ofNat 32 (bits n 25 21)) (Fin.ofNat 32 (bits n 20 16)) (Fin.ofNat 65536 (bits n 15 0))) := by
  unfold decodeMajor; rw [h]; exact rfl
theorem major_9 {n : Nat} (h : bits n 31 26 = 9) : decodeMajor n =
    if bits n 12 6 = 0 then (match ShiftKind.ofBits? (bits n 15 14) with | some t => .ok (.shi (Fin.ofNat 32 (bits n 25 21)) (Fin.ofNat 32 (bits n 20 16)) t (Width.ofBits (bits n 13 13)) (Fin.ofNat 64 (bits n 5 0))) | none => .error .illegalValue) else .error .reservedField := by
  unfold decodeMajor; rw [h]; exact rfl
theorem major_13 {n : Nat} (h : bits n 31 26 = 13) : decodeMajor n =
    .ok (.jmp (Fin.ofNat 67108864 (bits n 25 0))) := by
  unfold decodeMajor; rw [h]; exact rfl
theorem major_14 {n : Nat} (h : bits n 31 26 = 14) : decodeMajor n =
    .ok (.call (Fin.ofNat 67108864 (bits n 25 0))) := by
  unfold decodeMajor; rw [h]; exact rfl
theorem major_18 {n : Nat} (h : bits n 31 26 = 18) : decodeMajor n =
    (match LdSize.ofBits? (bits n 17 15) with | some s => (match Addr.ofBits? (bits n 14 13) (bits n 10 0) with | some adr => .ok (.ld (Fin.ofNat 32 (bits n 25 21)) (Fin.ofNat 8 (bits n 20 18)) s adr (Ord.ofBits (bits n 12 11))) | none => .error .illegalValue) | none => .error .illegalValue) := by
  unfold decodeMajor; rw [h]; exact rfl
theorem major_19 {n : Nat} (h : bits n 31 26 = 19) : decodeMajor n =
    (match StSize.ofBits? (bits n 17 15) with | some s => (match Addr.ofBits? (bits n 14 13) (bits n 10 0) with | some adr => .ok (.st (Fin.ofNat 32 (bits n 25 21)) (Fin.ofNat 8 (bits n 20 18)) s adr (Ord.ofBits (bits n 12 11))) | none => .error .illegalValue) | none => .error .illegalValue) := by
  unfold decodeMajor; rw [h]; exact rfl
theorem major_20 {n : Nat} (h : bits n 31 26 = 20) : decodeMajor n =
    if bits n 17 15 = 0 then (match Addr.ofBits? (bits n 14 13) (bits n 10 0) with | some adr => .ok (.ldv (Fin.ofNat 32 (bits n 25 21)) (Fin.ofNat 8 (bits n 20 18)) adr (Ord.ofBits (bits n 12 11))) | none => .error .illegalValue) else .error .reservedField := by
  unfold decodeMajor; rw [h]; exact rfl
theorem major_21 {n : Nat} (h : bits n 31 26 = 21) : decodeMajor n =
    if bits n 17 15 = 0 then (match Addr.ofBits? (bits n 14 13) (bits n 10 0) with | some adr => .ok (.stv (Fin.ofNat 32 (bits n 25 21)) (Fin.ofNat 8 (bits n 20 18)) adr (Ord.ofBits (bits n 12 11))) | none => .error .illegalValue) else .error .reservedField := by
  unfold decodeMajor; rw [h]; exact rfl
theorem lt13 (x : Fin 13) : x.val < 2 ^ 5 := by omega
theorem Addr.modeBits_lt (x : Addr) : x.modeBits < 4 := by cases x <;> simp [Addr.modeBits]
theorem Addr.offBits_lt (x : Addr) : x.offBits < 2048 := by cases x <;> simp only [Addr.offBits] <;> omega
theorem Addr.ofBits?_bits (x : Addr) : Addr.ofBits? x.modeBits x.offBits = some x := by
  cases x with
  | plain o => simp [Addr.ofBits?, Addr.modeBits, Addr.offBits]
  | postImm o => simp [Addr.ofBits?, Addr.modeBits, Addr.offBits]
  | postReg r => simp [Addr.ofBits?, Addr.modeBits, Addr.offBits, Nat.div_eq_of_lt r.isLt]
  | index r => simp [Addr.ofBits?, Addr.modeBits, Addr.offBits, Nat.div_eq_of_lt r.isLt]
theorem Bool.toNat_lt (x : Bool) : x.toNat < 2 := by cases x <;> decide

end Sys2Proof.Laws.Roundtrip

open Sys2Proof Sys2Proof.Laws.Roundtrip

theorem Sys2Proof.Laws.Roundtrip.add (d : Reg) (a : Reg) (b : Reg) (w : Width) : Statement (.add d a b w) := by
  intro _ hw
  have hn : ∀ x0 x1 x2 x3 : Nat, pack [(1, x3), (4, 0), (6, 0), (5, x2), (5, x1), (5, x0), (6, 1)] = fields 0x04000000 [(x0, 21), (x1, 16), (x2, 11), (x3, 0)] := by
    intros; simp only [pack_eq, packAt_cons, packAt_nil, Nat.reduceAdd, fields_cons, fields_nil]; omega
  replace hn := hn d.val a.val b.val w.toBits
  have b0 := d.isLt
  have b1 := a.isLt
  have b2 := b.isLt
  have b3 := Width.toBits_lt w
  have e0 := bits_pack 1 w.toBits [(4, 0), (6, 0), (5, b.val), (5, a.val), (5, d.val), (6, 1)] b3 0 0 [] trivial rfl rfl
  have e1 := bits_pack 4 0 [(6, 0), (5, b.val), (5, a.val), (5, d.val), (6, 1)] (Nat.two_pow_pos _) 4 1 [(1, w.toBits)] ⟨b3, trivial⟩ rfl rfl
  have e5 := bits_pack 6 0 [(5, b.val), (5, a.val), (5, d.val), (6, 1)] (Nat.two_pow_pos _) 10 5 [(1, w.toBits), (4, 0)] ⟨b3, (Nat.two_pow_pos _), trivial⟩ rfl rfl
  have e11 := bits_pack 5 b.val [(5, a.val), (5, d.val), (6, 1)] b2 15 11 [(1, w.toBits), (4, 0), (6, 0)] ⟨b3, (Nat.two_pow_pos _), (Nat.two_pow_pos _), trivial⟩ rfl rfl
  have e16 := bits_pack 5 a.val [(5, d.val), (6, 1)] b1 20 16 [(1, w.toBits), (4, 0), (6, 0), (5, b.val)] ⟨b3, (Nat.two_pow_pos _), (Nat.two_pow_pos _), b2, trivial⟩ rfl rfl
  have e21 := bits_pack 5 d.val [(6, 1)] b0 25 21 [(1, w.toBits), (4, 0), (6, 0), (5, b.val), (5, a.val)] ⟨b3, (Nat.two_pow_pos _), (Nat.two_pow_pos _), b2, b1, trivial⟩ rfl rfl
  have e26 := bits_pack 6 1 [] (by decide) 31 26 [(1, w.toBits), (4, 0), (6, 0), (5, b.val), (5, a.val), (5, d.val)] ⟨b3, (Nat.two_pow_pos _), (Nat.two_pow_pos _), b2, b1, b0, trivial⟩ rfl rfl
  simp only [List.nil_append, List.cons_append] at e0 e1 e5 e11 e16 e21 e26
  have hl : pack [(1, w.toBits), (4, 0), (6, 0), (5, b.val), (5, a.val), (5, d.val), (6, 1)] < 2 ^ 32 := pack_lt [(1, w.toBits), (4, 0), (6, 0), (5, b.val), (5, a.val), (5, d.val), (6, 1)] ⟨b3, (Nat.two_pow_pos _), (Nat.two_pow_pos _), b2, b1, b0, (by decide), trivial⟩ rfl
  generalize pack [(1, w.toBits), (4, 0), (6, 0), (5, b.val), (5, a.val), (5, d.val), (6, 1)] = wd at *
  refine decode_of wd hn.symm ?_ hw hl
  · rw [major_1 e26]; simp only [decodeAlu, e5, e0, e1, e11, e16, e21, reduceIte, ofNat_val, Width.ofBits_toBits]

theorem Sys2Proof.Laws.Roundtrip.sub (d : Reg) (a : Reg) (b : Reg) (w : Width) : Statement (.sub d a b w) := by
  intro _ hw
  have hn : ∀ x0 x1 x2 x3 : Nat, pack [(1, x3), (4, 0), (6, 1), (5, x2), (5, x1), (5, x0), (6, 1)] = fields 0x04000020 [(x0, 21), (x1, 16), (x2, 11), (x3, 0)] := by
    intros; simp only [pack_eq, packAt_cons, packAt_nil, Nat.reduceAdd, fields_cons, fields_nil]; omega
  replace hn := hn d.val a.val b.val w.toBits
  have b0 := d.isLt
  have b1 := a.isLt
  have b2 := b.isLt
  have b3 := Width.toBits_lt w
  have e0 := bits_pack 1 w.toBits [(4, 0), (6, 1), (5, b.val), (5, a.val), (5, d.val), (6, 1)] b3 0 0 [] trivial rfl rfl
  have e1 := bits_pack 4 0 [(6, 1), (5, b.val), (5, a.val), (5, d.val), (6, 1)] (Nat.two_pow_pos _) 4 1 [(1, w.toBits)] ⟨b3, trivial⟩ rfl rfl
  have e5 := bits_pack 6 1 [(5, b.val), (5, a.val), (5, d.val), (6, 1)] (by decide) 10 5 [(1, w.toBits), (4, 0)] ⟨b3, (Nat.two_pow_pos _), trivial⟩ rfl rfl
  have e11 := bits_pack 5 b.val [(5, a.val), (5, d.val), (6, 1)] b2 15 11 [(1, w.toBits), (4, 0), (6, 1)] ⟨b3, (Nat.two_pow_pos _), (by decide), trivial⟩ rfl rfl
  have e16 := bits_pack 5 a.val [(5, d.val), (6, 1)] b1 20 16 [(1, w.toBits), (4, 0), (6, 1), (5, b.val)] ⟨b3, (Nat.two_pow_pos _), (by decide), b2, trivial⟩ rfl rfl
  have e21 := bits_pack 5 d.val [(6, 1)] b0 25 21 [(1, w.toBits), (4, 0), (6, 1), (5, b.val), (5, a.val)] ⟨b3, (Nat.two_pow_pos _), (by decide), b2, b1, trivial⟩ rfl rfl
  have e26 := bits_pack 6 1 [] (by decide) 31 26 [(1, w.toBits), (4, 0), (6, 1), (5, b.val), (5, a.val), (5, d.val)] ⟨b3, (Nat.two_pow_pos _), (by decide), b2, b1, b0, trivial⟩ rfl rfl
  simp only [List.nil_append, List.cons_append] at e0 e1 e5 e11 e16 e21 e26
  have hl : pack [(1, w.toBits), (4, 0), (6, 1), (5, b.val), (5, a.val), (5, d.val), (6, 1)] < 2 ^ 32 := pack_lt [(1, w.toBits), (4, 0), (6, 1), (5, b.val), (5, a.val), (5, d.val), (6, 1)] ⟨b3, (Nat.two_pow_pos _), (by decide), b2, b1, b0, (by decide), trivial⟩ rfl
  generalize pack [(1, w.toBits), (4, 0), (6, 1), (5, b.val), (5, a.val), (5, d.val), (6, 1)] = wd at *
  refine decode_of wd hn.symm ?_ hw hl
  · rw [major_1 e26]; simp only [decodeAlu, e5, e0, e1, e11, e16, e21, reduceIte, ofNat_val, Width.ofBits_toBits]

theorem Sys2Proof.Laws.Roundtrip.mul (d : Reg) (a : Reg) (b : Reg) (w : Width) : Statement (.mul d a b w) := by
  intro _ hw
  have hn : ∀ x0 x1 x2 x3 : Nat, pack [(1, x3), (4, 0), (6, 2), (5, x2), (5, x1), (5, x0), (6, 1)] = fields 0x04000040 [(x0, 21), (x1, 16), (x2, 11), (x3, 0)] := by
    intros; simp only [pack_eq, packAt_cons, packAt_nil, Nat.reduceAdd, fields_cons, fields_nil]; omega
  replace hn := hn d.val a.val b.val w.toBits
  have b0 := d.isLt
  have b1 := a.isLt
  have b2 := b.isLt
  have b3 := Width.toBits_lt w
  have e0 := bits_pack 1 w.toBits [(4, 0), (6, 2), (5, b.val), (5, a.val), (5, d.val), (6, 1)] b3 0 0 [] trivial rfl rfl
  have e1 := bits_pack 4 0 [(6, 2), (5, b.val), (5, a.val), (5, d.val), (6, 1)] (Nat.two_pow_pos _) 4 1 [(1, w.toBits)] ⟨b3, trivial⟩ rfl rfl
  have e5 := bits_pack 6 2 [(5, b.val), (5, a.val), (5, d.val), (6, 1)] (by decide) 10 5 [(1, w.toBits), (4, 0)] ⟨b3, (Nat.two_pow_pos _), trivial⟩ rfl rfl
  have e11 := bits_pack 5 b.val [(5, a.val), (5, d.val), (6, 1)] b2 15 11 [(1, w.toBits), (4, 0), (6, 2)] ⟨b3, (Nat.two_pow_pos _), (by decide), trivial⟩ rfl rfl
  have e16 := bits_pack 5 a.val [(5, d.val), (6, 1)] b1 20 16 [(1, w.toBits), (4, 0), (6, 2), (5, b.val)] ⟨b3, (Nat.two_pow_pos _), (by decide), b2, trivial⟩ rfl rfl
  have e21 := bits_pack 5 d.val [(6, 1)] b0 25 21 [(1, w.toBits), (4, 0), (6, 2), (5, b.val), (5, a.val)] ⟨b3, (Nat.two_pow_pos _), (by decide), b2, b1, trivial⟩ rfl rfl
  have e26 := bits_pack 6 1 [] (by decide) 31 26 [(1, w.toBits), (4, 0), (6, 2), (5, b.val), (5, a.val), (5, d.val)] ⟨b3, (Nat.two_pow_pos _), (by decide), b2, b1, b0, trivial⟩ rfl rfl
  simp only [List.nil_append, List.cons_append] at e0 e1 e5 e11 e16 e21 e26
  have hl : pack [(1, w.toBits), (4, 0), (6, 2), (5, b.val), (5, a.val), (5, d.val), (6, 1)] < 2 ^ 32 := pack_lt [(1, w.toBits), (4, 0), (6, 2), (5, b.val), (5, a.val), (5, d.val), (6, 1)] ⟨b3, (Nat.two_pow_pos _), (by decide), b2, b1, b0, (by decide), trivial⟩ rfl
  generalize pack [(1, w.toBits), (4, 0), (6, 2), (5, b.val), (5, a.val), (5, d.val), (6, 1)] = wd at *
  refine decode_of wd hn.symm ?_ hw hl
  · rw [major_1 e26]; simp only [decodeAlu, e5, e0, e1, e11, e16, e21, reduceIte, ofNat_val, Width.ofBits_toBits]

theorem Sys2Proof.Laws.Roundtrip.mulhs (d : Reg) (a : Reg) (b : Reg) (w : Width) : Statement (.mulhs d a b w) := by
  intro _ hw
  have hn : ∀ x0 x1 x2 x3 : Nat, pack [(1, x3), (4, 0), (6, 3), (5, x2), (5, x1), (5, x0), (6, 1)] = fields 0x04000060 [(x0, 21), (x1, 16), (x2, 11), (x3, 0)] := by
    intros; simp only [pack_eq, packAt_cons, packAt_nil, Nat.reduceAdd, fields_cons, fields_nil]; omega
  replace hn := hn d.val a.val b.val w.toBits
  have b0 := d.isLt
  have b1 := a.isLt
  have b2 := b.isLt
  have b3 := Width.toBits_lt w
  have e0 := bits_pack 1 w.toBits [(4, 0), (6, 3), (5, b.val), (5, a.val), (5, d.val), (6, 1)] b3 0 0 [] trivial rfl rfl
  have e1 := bits_pack 4 0 [(6, 3), (5, b.val), (5, a.val), (5, d.val), (6, 1)] (Nat.two_pow_pos _) 4 1 [(1, w.toBits)] ⟨b3, trivial⟩ rfl rfl
  have e5 := bits_pack 6 3 [(5, b.val), (5, a.val), (5, d.val), (6, 1)] (by decide) 10 5 [(1, w.toBits), (4, 0)] ⟨b3, (Nat.two_pow_pos _), trivial⟩ rfl rfl
  have e11 := bits_pack 5 b.val [(5, a.val), (5, d.val), (6, 1)] b2 15 11 [(1, w.toBits), (4, 0), (6, 3)] ⟨b3, (Nat.two_pow_pos _), (by decide), trivial⟩ rfl rfl
  have e16 := bits_pack 5 a.val [(5, d.val), (6, 1)] b1 20 16 [(1, w.toBits), (4, 0), (6, 3), (5, b.val)] ⟨b3, (Nat.two_pow_pos _), (by decide), b2, trivial⟩ rfl rfl
  have e21 := bits_pack 5 d.val [(6, 1)] b0 25 21 [(1, w.toBits), (4, 0), (6, 3), (5, b.val), (5, a.val)] ⟨b3, (Nat.two_pow_pos _), (by decide), b2, b1, trivial⟩ rfl rfl
  have e26 := bits_pack 6 1 [] (by decide) 31 26 [(1, w.toBits), (4, 0), (6, 3), (5, b.val), (5, a.val), (5, d.val)] ⟨b3, (Nat.two_pow_pos _), (by decide), b2, b1, b0, trivial⟩ rfl rfl
  simp only [List.nil_append, List.cons_append] at e0 e1 e5 e11 e16 e21 e26
  have hl : pack [(1, w.toBits), (4, 0), (6, 3), (5, b.val), (5, a.val), (5, d.val), (6, 1)] < 2 ^ 32 := pack_lt [(1, w.toBits), (4, 0), (6, 3), (5, b.val), (5, a.val), (5, d.val), (6, 1)] ⟨b3, (Nat.two_pow_pos _), (by decide), b2, b1, b0, (by decide), trivial⟩ rfl
  generalize pack [(1, w.toBits), (4, 0), (6, 3), (5, b.val), (5, a.val), (5, d.val), (6, 1)] = wd at *
  refine decode_of wd hn.symm ?_ hw hl
  · rw [major_1 e26]; simp only [decodeAlu, e5, e0, e1, e11, e16, e21, reduceIte, ofNat_val, Width.ofBits_toBits]

theorem Sys2Proof.Laws.Roundtrip.mulhz (d : Reg) (a : Reg) (b : Reg) (w : Width) : Statement (.mulhz d a b w) := by
  intro _ hw
  have hn : ∀ x0 x1 x2 x3 : Nat, pack [(1, x3), (4, 0), (6, 4), (5, x2), (5, x1), (5, x0), (6, 1)] = fields 0x04000080 [(x0, 21), (x1, 16), (x2, 11), (x3, 0)] := by
    intros; simp only [pack_eq, packAt_cons, packAt_nil, Nat.reduceAdd, fields_cons, fields_nil]; omega
  replace hn := hn d.val a.val b.val w.toBits
  have b0 := d.isLt
  have b1 := a.isLt
  have b2 := b.isLt
  have b3 := Width.toBits_lt w
  have e0 := bits_pack 1 w.toBits [(4, 0), (6, 4), (5, b.val), (5, a.val), (5, d.val), (6, 1)] b3 0 0 [] trivial rfl rfl
  have e1 := bits_pack 4 0 [(6, 4), (5, b.val), (5, a.val), (5, d.val), (6, 1)] (Nat.two_pow_pos _) 4 1 [(1, w.toBits)] ⟨b3, trivial⟩ rfl rfl
  have e5 := bits_pack 6 4 [(5, b.val), (5, a.val), (5, d.val), (6, 1)] (by decide) 10 5 [(1, w.toBits), (4, 0)] ⟨b3, (Nat.two_pow_pos _), trivial⟩ rfl rfl
  have e11 := bits_pack 5 b.val [(5, a.val), (5, d.val), (6, 1)] b2 15 11 [(1, w.toBits), (4, 0), (6, 4)] ⟨b3, (Nat.two_pow_pos _), (by decide), trivial⟩ rfl rfl
  have e16 := bits_pack 5 a.val [(5, d.val), (6, 1)] b1 20 16 [(1, w.toBits), (4, 0), (6, 4), (5, b.val)] ⟨b3, (Nat.two_pow_pos _), (by decide), b2, trivial⟩ rfl rfl
  have e21 := bits_pack 5 d.val [(6, 1)] b0 25 21 [(1, w.toBits), (4, 0), (6, 4), (5, b.val), (5, a.val)] ⟨b3, (Nat.two_pow_pos _), (by decide), b2, b1, trivial⟩ rfl rfl
  have e26 := bits_pack 6 1 [] (by decide) 31 26 [(1, w.toBits), (4, 0), (6, 4), (5, b.val), (5, a.val), (5, d.val)] ⟨b3, (Nat.two_pow_pos _), (by decide), b2, b1, b0, trivial⟩ rfl rfl
  simp only [List.nil_append, List.cons_append] at e0 e1 e5 e11 e16 e21 e26
  have hl : pack [(1, w.toBits), (4, 0), (6, 4), (5, b.val), (5, a.val), (5, d.val), (6, 1)] < 2 ^ 32 := pack_lt [(1, w.toBits), (4, 0), (6, 4), (5, b.val), (5, a.val), (5, d.val), (6, 1)] ⟨b3, (Nat.two_pow_pos _), (by decide), b2, b1, b0, (by decide), trivial⟩ rfl
  generalize pack [(1, w.toBits), (4, 0), (6, 4), (5, b.val), (5, a.val), (5, d.val), (6, 1)] = wd at *
  refine decode_of wd hn.symm ?_ hw hl
  · rw [major_1 e26]; simp only [decodeAlu, e5, e0, e1, e11, e16, e21, reduceIte, ofNat_val, Width.ofBits_toBits]

theorem Sys2Proof.Laws.Roundtrip.divs (d : Reg) (a : Reg) (b : Reg) (w : Width) : Statement (.divs d a b w) := by
  intro _ hw
  have hn : ∀ x0 x1 x2 x3 : Nat, pack [(1, x3), (4, 0), (6, 5), (5, x2), (5, x1), (5, x0), (6, 1)] = fields 0x040000A0 [(x0, 21), (x1, 16), (x2, 11), (x3, 0)] := by
    intros; simp only [pack_eq, packAt_cons, packAt_nil, Nat.reduceAdd, fields_cons, fields_nil]; omega
  replace hn := hn d.val a.val b.val w.toBits
  have b0 := d.isLt
  have b1 := a.isLt
  have b2 := b.isLt
  have b3 := Width.toBits_lt w
  have e0 := bits_pack 1 w.toBits [(4, 0), (6, 5), (5, b.val), (5, a.val), (5, d.val), (6, 1)] b3 0 0 [] trivial rfl rfl
  have e1 := bits_pack 4 0 [(6, 5), (5, b.val), (5, a.val), (5, d.val), (6, 1)] (Nat.two_pow_pos _) 4 1 [(1, w.toBits)] ⟨b3, trivial⟩ rfl rfl
  have e5 := bits_pack 6 5 [(5, b.val), (5, a.val), (5, d.val), (6, 1)] (by decide) 10 5 [(1, w.toBits), (4, 0)] ⟨b3, (Nat.two_pow_pos _), trivial⟩ rfl rfl
  have e11 := bits_pack 5 b.val [(5, a.val), (5, d.val), (6, 1)] b2 15 11 [(1, w.toBits), (4, 0), (6, 5)] ⟨b3, (Nat.two_pow_pos _), (by decide), trivial⟩ rfl rfl
  have e16 := bits_pack 5 a.val [(5, d.val), (6, 1)] b1 20 16 [(1, w.toBits), (4, 0), (6, 5), (5, b.val)] ⟨b3, (Nat.two_pow_pos _), (by decide), b2, trivial⟩ rfl rfl
  have e21 := bits_pack 5 d.val [(6, 1)] b0 25 21 [(1, w.toBits), (4, 0), (6, 5), (5, b.val), (5, a.val)] ⟨b3, (Nat.two_pow_pos _), (by decide), b2, b1, trivial⟩ rfl rfl
  have e26 := bits_pack 6 1 [] (by decide) 31 26 [(1, w.toBits), (4, 0), (6, 5), (5, b.val), (5, a.val), (5, d.val)] ⟨b3, (Nat.two_pow_pos _), (by decide), b2, b1, b0, trivial⟩ rfl rfl
  simp only [List.nil_append, List.cons_append] at e0 e1 e5 e11 e16 e21 e26
  have hl : pack [(1, w.toBits), (4, 0), (6, 5), (5, b.val), (5, a.val), (5, d.val), (6, 1)] < 2 ^ 32 := pack_lt [(1, w.toBits), (4, 0), (6, 5), (5, b.val), (5, a.val), (5, d.val), (6, 1)] ⟨b3, (Nat.two_pow_pos _), (by decide), b2, b1, b0, (by decide), trivial⟩ rfl
  generalize pack [(1, w.toBits), (4, 0), (6, 5), (5, b.val), (5, a.val), (5, d.val), (6, 1)] = wd at *
  refine decode_of wd hn.symm ?_ hw hl
  · rw [major_1 e26]; simp only [decodeAlu, e5, e0, e1, e11, e16, e21, reduceIte, ofNat_val, Width.ofBits_toBits]

theorem Sys2Proof.Laws.Roundtrip.divz (d : Reg) (a : Reg) (b : Reg) (w : Width) : Statement (.divz d a b w) := by
  intro _ hw
  have hn : ∀ x0 x1 x2 x3 : Nat, pack [(1, x3), (4, 0), (6, 6), (5, x2), (5, x1), (5, x0), (6, 1)] = fields 0x040000C0 [(x0, 21), (x1, 16), (x2, 11), (x3, 0)] := by
    intros; simp only [pack_eq, packAt_cons, packAt_nil, Nat.reduceAdd, fields_cons, fields_nil]; omega
  replace hn := hn d.val a.val b.val w.toBits
  have b0 := d.isLt
  have b1 := a.isLt
  have b2 := b.isLt
  have b3 := Width.toBits_lt w
  have e0 := bits_pack 1 w.toBits [(4, 0), (6, 6), (5, b.val), (5, a.val), (5, d.val), (6, 1)] b3 0 0 [] trivial rfl rfl
  have e1 := bits_pack 4 0 [(6, 6), (5, b.val), (5, a.val), (5, d.val), (6, 1)] (Nat.two_pow_pos _) 4 1 [(1, w.toBits)] ⟨b3, trivial⟩ rfl rfl
  have e5 := bits_pack 6 6 [(5, b.val), (5, a.val), (5, d.val), (6, 1)] (by decide) 10 5 [(1, w.toBits), (4, 0)] ⟨b3, (Nat.two_pow_pos _), trivial⟩ rfl rfl
  have e11 := bits_pack 5 b.val [(5, a.val), (5, d.val), (6, 1)] b2 15 11 [(1, w.toBits), (4, 0), (6, 6)] ⟨b3, (Nat.two_pow_pos _), (by decide), trivial⟩ rfl rfl
  have e16 := bits_pack 5 a.val [(5, d.val), (6, 1)] b1 20 16 [(1, w.toBits), (4, 0), (6, 6), (5, b.val)] ⟨b3, (Nat.two_pow_pos _), (by decide), b2, trivial⟩ rfl rfl
  have e21 := bits_pack 5 d.val [(6, 1)] b0 25 21 [(1, w.toBits), (4, 0), (6, 6), (5, b.val), (5, a.val)] ⟨b3, (Nat.two_pow_pos _), (by decide), b2, b1, trivial⟩ rfl rfl
  have e26 := bits_pack 6 1 [] (by decide) 31 26 [(1, w.toBits), (4, 0), (6, 6), (5, b.val), (5, a.val), (5, d.val)] ⟨b3, (Nat.two_pow_pos _), (by decide), b2, b1, b0, trivial⟩ rfl rfl
  simp only [List.nil_append, List.cons_append] at e0 e1 e5 e11 e16 e21 e26
  have hl : pack [(1, w.toBits), (4, 0), (6, 6), (5, b.val), (5, a.val), (5, d.val), (6, 1)] < 2 ^ 32 := pack_lt [(1, w.toBits), (4, 0), (6, 6), (5, b.val), (5, a.val), (5, d.val), (6, 1)] ⟨b3, (Nat.two_pow_pos _), (by decide), b2, b1, b0, (by decide), trivial⟩ rfl
  generalize pack [(1, w.toBits), (4, 0), (6, 6), (5, b.val), (5, a.val), (5, d.val), (6, 1)] = wd at *
  refine decode_of wd hn.symm ?_ hw hl
  · rw [major_1 e26]; simp only [decodeAlu, e5, e0, e1, e11, e16, e21, reduceIte, ofNat_val, Width.ofBits_toBits]

theorem Sys2Proof.Laws.Roundtrip.rems (d : Reg) (a : Reg) (b : Reg) (w : Width) : Statement (.rems d a b w) := by
  intro _ hw
  have hn : ∀ x0 x1 x2 x3 : Nat, pack [(1, x3), (4, 0), (6, 7), (5, x2), (5, x1), (5, x0), (6, 1)] = fields 0x040000E0 [(x0, 21), (x1, 16), (x2, 11), (x3, 0)] := by
    intros; simp only [pack_eq, packAt_cons, packAt_nil, Nat.reduceAdd, fields_cons, fields_nil]; omega
  replace hn := hn d.val a.val b.val w.toBits
  have b0 := d.isLt
  have b1 := a.isLt
  have b2 := b.isLt
  have b3 := Width.toBits_lt w
  have e0 := bits_pack 1 w.toBits [(4, 0), (6, 7), (5, b.val), (5, a.val), (5, d.val), (6, 1)] b3 0 0 [] trivial rfl rfl
  have e1 := bits_pack 4 0 [(6, 7), (5, b.val), (5, a.val), (5, d.val), (6, 1)] (Nat.two_pow_pos _) 4 1 [(1, w.toBits)] ⟨b3, trivial⟩ rfl rfl
  have e5 := bits_pack 6 7 [(5, b.val), (5, a.val), (5, d.val), (6, 1)] (by decide) 10 5 [(1, w.toBits), (4, 0)] ⟨b3, (Nat.two_pow_pos _), trivial⟩ rfl rfl
  have e11 := bits_pack 5 b.val [(5, a.val), (5, d.val), (6, 1)] b2 15 11 [(1, w.toBits), (4, 0), (6, 7)] ⟨b3, (Nat.two_pow_pos _), (by decide), trivial⟩ rfl rfl
  have e16 := bits_pack 5 a.val [(5, d.val), (6, 1)] b1 20 16 [(1, w.toBits), (4, 0), (6, 7), (5, b.val)] ⟨b3, (Nat.two_pow_pos _), (by decide), b2, trivial⟩ rfl rfl
  have e21 := bits_pack 5 d.val [(6, 1)] b0 25 21 [(1, w.toBits), (4, 0), (6, 7), (5, b.val), (5, a.val)] ⟨b3, (Nat.two_pow_pos _), (by decide), b2, b1, trivial⟩ rfl rfl
  have e26 := bits_pack 6 1 [] (by decide) 31 26 [(1, w.toBits), (4, 0), (6, 7), (5, b.val), (5, a.val), (5, d.val)] ⟨b3, (Nat.two_pow_pos _), (by decide), b2, b1, b0, trivial⟩ rfl rfl
  simp only [List.nil_append, List.cons_append] at e0 e1 e5 e11 e16 e21 e26
  have hl : pack [(1, w.toBits), (4, 0), (6, 7), (5, b.val), (5, a.val), (5, d.val), (6, 1)] < 2 ^ 32 := pack_lt [(1, w.toBits), (4, 0), (6, 7), (5, b.val), (5, a.val), (5, d.val), (6, 1)] ⟨b3, (Nat.two_pow_pos _), (by decide), b2, b1, b0, (by decide), trivial⟩ rfl
  generalize pack [(1, w.toBits), (4, 0), (6, 7), (5, b.val), (5, a.val), (5, d.val), (6, 1)] = wd at *
  refine decode_of wd hn.symm ?_ hw hl
  · rw [major_1 e26]; simp only [decodeAlu, e5, e0, e1, e11, e16, e21, reduceIte, ofNat_val, Width.ofBits_toBits]

theorem Sys2Proof.Laws.Roundtrip.remz (d : Reg) (a : Reg) (b : Reg) (w : Width) : Statement (.remz d a b w) := by
  intro _ hw
  have hn : ∀ x0 x1 x2 x3 : Nat, pack [(1, x3), (4, 0), (6, 8), (5, x2), (5, x1), (5, x0), (6, 1)] = fields 0x04000100 [(x0, 21), (x1, 16), (x2, 11), (x3, 0)] := by
    intros; simp only [pack_eq, packAt_cons, packAt_nil, Nat.reduceAdd, fields_cons, fields_nil]; omega
  replace hn := hn d.val a.val b.val w.toBits
  have b0 := d.isLt
  have b1 := a.isLt
  have b2 := b.isLt
  have b3 := Width.toBits_lt w
  have e0 := bits_pack 1 w.toBits [(4, 0), (6, 8), (5, b.val), (5, a.val), (5, d.val), (6, 1)] b3 0 0 [] trivial rfl rfl
  have e1 := bits_pack 4 0 [(6, 8), (5, b.val), (5, a.val), (5, d.val), (6, 1)] (Nat.two_pow_pos _) 4 1 [(1, w.toBits)] ⟨b3, trivial⟩ rfl rfl
  have e5 := bits_pack 6 8 [(5, b.val), (5, a.val), (5, d.val), (6, 1)] (by decide) 10 5 [(1, w.toBits), (4, 0)] ⟨b3, (Nat.two_pow_pos _), trivial⟩ rfl rfl
  have e11 := bits_pack 5 b.val [(5, a.val), (5, d.val), (6, 1)] b2 15 11 [(1, w.toBits), (4, 0), (6, 8)] ⟨b3, (Nat.two_pow_pos _), (by decide), trivial⟩ rfl rfl
  have e16 := bits_pack 5 a.val [(5, d.val), (6, 1)] b1 20 16 [(1, w.toBits), (4, 0), (6, 8), (5, b.val)] ⟨b3, (Nat.two_pow_pos _), (by decide), b2, trivial⟩ rfl rfl
  have e21 := bits_pack 5 d.val [(6, 1)] b0 25 21 [(1, w.toBits), (4, 0), (6, 8), (5, b.val), (5, a.val)] ⟨b3, (Nat.two_pow_pos _), (by decide), b2, b1, trivial⟩ rfl rfl
  have e26 := bits_pack 6 1 [] (by decide) 31 26 [(1, w.toBits), (4, 0), (6, 8), (5, b.val), (5, a.val), (5, d.val)] ⟨b3, (Nat.two_pow_pos _), (by decide), b2, b1, b0, trivial⟩ rfl rfl
  simp only [List.nil_append, List.cons_append] at e0 e1 e5 e11 e16 e21 e26
  have hl : pack [(1, w.toBits), (4, 0), (6, 8), (5, b.val), (5, a.val), (5, d.val), (6, 1)] < 2 ^ 32 := pack_lt [(1, w.toBits), (4, 0), (6, 8), (5, b.val), (5, a.val), (5, d.val), (6, 1)] ⟨b3, (Nat.two_pow_pos _), (by decide), b2, b1, b0, (by decide), trivial⟩ rfl
  generalize pack [(1, w.toBits), (4, 0), (6, 8), (5, b.val), (5, a.val), (5, d.val), (6, 1)] = wd at *
  refine decode_of wd hn.symm ?_ hw hl
  · rw [major_1 e26]; simp only [decodeAlu, e5, e0, e1, e11, e16, e21, reduceIte, ofNat_val, Width.ofBits_toBits]

theorem Sys2Proof.Laws.Roundtrip.and (d : Reg) (a : Reg) (b : Reg) (w : Width) : Statement (.and d a b w) := by
  intro _ hw
  have hn : ∀ x0 x1 x2 x3 : Nat, pack [(1, x3), (4, 0), (6, 9), (5, x2), (5, x1), (5, x0), (6, 1)] = fields 0x04000120 [(x0, 21), (x1, 16), (x2, 11), (x3, 0)] := by
    intros; simp only [pack_eq, packAt_cons, packAt_nil, Nat.reduceAdd, fields_cons, fields_nil]; omega
  replace hn := hn d.val a.val b.val w.toBits
  have b0 := d.isLt
  have b1 := a.isLt
  have b2 := b.isLt
  have b3 := Width.toBits_lt w
  have e0 := bits_pack 1 w.toBits [(4, 0), (6, 9), (5, b.val), (5, a.val), (5, d.val), (6, 1)] b3 0 0 [] trivial rfl rfl
  have e1 := bits_pack 4 0 [(6, 9), (5, b.val), (5, a.val), (5, d.val), (6, 1)] (Nat.two_pow_pos _) 4 1 [(1, w.toBits)] ⟨b3, trivial⟩ rfl rfl
  have e5 := bits_pack 6 9 [(5, b.val), (5, a.val), (5, d.val), (6, 1)] (by decide) 10 5 [(1, w.toBits), (4, 0)] ⟨b3, (Nat.two_pow_pos _), trivial⟩ rfl rfl
  have e11 := bits_pack 5 b.val [(5, a.val), (5, d.val), (6, 1)] b2 15 11 [(1, w.toBits), (4, 0), (6, 9)] ⟨b3, (Nat.two_pow_pos _), (by decide), trivial⟩ rfl rfl
  have e16 := bits_pack 5 a.val [(5, d.val), (6, 1)] b1 20 16 [(1, w.toBits), (4, 0), (6, 9), (5, b.val)] ⟨b3, (Nat.two_pow_pos _), (by decide), b2, trivial⟩ rfl rfl
  have e21 := bits_pack 5 d.val [(6, 1)] b0 25 21 [(1, w.toBits), (4, 0), (6, 9), (5, b.val), (5, a.val)] ⟨b3, (Nat.two_pow_pos _), (by decide), b2, b1, trivial⟩ rfl rfl
  have e26 := bits_pack 6 1 [] (by decide) 31 26 [(1, w.toBits), (4, 0), (6, 9), (5, b.val), (5, a.val), (5, d.val)] ⟨b3, (Nat.two_pow_pos _), (by decide), b2, b1, b0, trivial⟩ rfl rfl
  simp only [List.nil_append, List.cons_append] at e0 e1 e5 e11 e16 e21 e26
  have hl : pack [(1, w.toBits), (4, 0), (6, 9), (5, b.val), (5, a.val), (5, d.val), (6, 1)] < 2 ^ 32 := pack_lt [(1, w.toBits), (4, 0), (6, 9), (5, b.val), (5, a.val), (5, d.val), (6, 1)] ⟨b3, (Nat.two_pow_pos _), (by decide), b2, b1, b0, (by decide), trivial⟩ rfl
  generalize pack [(1, w.toBits), (4, 0), (6, 9), (5, b.val), (5, a.val), (5, d.val), (6, 1)] = wd at *
  refine decode_of wd hn.symm ?_ hw hl
  · rw [major_1 e26]; simp only [decodeAlu, e5, e0, e1, e11, e16, e21, reduceIte, ofNat_val, Width.ofBits_toBits]

theorem Sys2Proof.Laws.Roundtrip.or (d : Reg) (a : Reg) (b : Reg) (w : Width) : Statement (.or d a b w) := by
  intro _ hw
  have hn : ∀ x0 x1 x2 x3 : Nat, pack [(1, x3), (4, 0), (6, 10), (5, x2), (5, x1), (5, x0), (6, 1)] = fields 0x04000140 [(x0, 21), (x1, 16), (x2, 11), (x3, 0)] := by
    intros; simp only [pack_eq, packAt_cons, packAt_nil, Nat.reduceAdd, fields_cons, fields_nil]; omega
  replace hn := hn d.val a.val b.val w.toBits
  have b0 := d.isLt
  have b1 := a.isLt
  have b2 := b.isLt
  have b3 := Width.toBits_lt w
  have e0 := bits_pack 1 w.toBits [(4, 0), (6, 10), (5, b.val), (5, a.val), (5, d.val), (6, 1)] b3 0 0 [] trivial rfl rfl
  have e1 := bits_pack 4 0 [(6, 10), (5, b.val), (5, a.val), (5, d.val), (6, 1)] (Nat.two_pow_pos _) 4 1 [(1, w.toBits)] ⟨b3, trivial⟩ rfl rfl
  have e5 := bits_pack 6 10 [(5, b.val), (5, a.val), (5, d.val), (6, 1)] (by decide) 10 5 [(1, w.toBits), (4, 0)] ⟨b3, (Nat.two_pow_pos _), trivial⟩ rfl rfl
  have e11 := bits_pack 5 b.val [(5, a.val), (5, d.val), (6, 1)] b2 15 11 [(1, w.toBits), (4, 0), (6, 10)] ⟨b3, (Nat.two_pow_pos _), (by decide), trivial⟩ rfl rfl
  have e16 := bits_pack 5 a.val [(5, d.val), (6, 1)] b1 20 16 [(1, w.toBits), (4, 0), (6, 10), (5, b.val)] ⟨b3, (Nat.two_pow_pos _), (by decide), b2, trivial⟩ rfl rfl
  have e21 := bits_pack 5 d.val [(6, 1)] b0 25 21 [(1, w.toBits), (4, 0), (6, 10), (5, b.val), (5, a.val)] ⟨b3, (Nat.two_pow_pos _), (by decide), b2, b1, trivial⟩ rfl rfl
  have e26 := bits_pack 6 1 [] (by decide) 31 26 [(1, w.toBits), (4, 0), (6, 10), (5, b.val), (5, a.val), (5, d.val)] ⟨b3, (Nat.two_pow_pos _), (by decide), b2, b1, b0, trivial⟩ rfl rfl
  simp only [List.nil_append, List.cons_append] at e0 e1 e5 e11 e16 e21 e26
  have hl : pack [(1, w.toBits), (4, 0), (6, 10), (5, b.val), (5, a.val), (5, d.val), (6, 1)] < 2 ^ 32 := pack_lt [(1, w.toBits), (4, 0), (6, 10), (5, b.val), (5, a.val), (5, d.val), (6, 1)] ⟨b3, (Nat.two_pow_pos _), (by decide), b2, b1, b0, (by decide), trivial⟩ rfl
  generalize pack [(1, w.toBits), (4, 0), (6, 10), (5, b.val), (5, a.val), (5, d.val), (6, 1)] = wd at *
  refine decode_of wd hn.symm ?_ hw hl
  · rw [major_1 e26]; simp only [decodeAlu, e5, e0, e1, e11, e16, e21, reduceIte, ofNat_val, Width.ofBits_toBits]

theorem Sys2Proof.Laws.Roundtrip.xor (d : Reg) (a : Reg) (b : Reg) (w : Width) : Statement (.xor d a b w) := by
  intro _ hw
  have hn : ∀ x0 x1 x2 x3 : Nat, pack [(1, x3), (4, 0), (6, 11), (5, x2), (5, x1), (5, x0), (6, 1)] = fields 0x04000160 [(x0, 21), (x1, 16), (x2, 11), (x3, 0)] := by
    intros; simp only [pack_eq, packAt_cons, packAt_nil, Nat.reduceAdd, fields_cons, fields_nil]; omega
  replace hn := hn d.val a.val b.val w.toBits
  have b0 := d.isLt
  have b1 := a.isLt
  have b2 := b.isLt
  have b3 := Width.toBits_lt w
  have e0 := bits_pack 1 w.toBits [(4, 0), (6, 11), (5, b.val), (5, a.val), (5, d.val), (6, 1)] b3 0 0 [] trivial rfl rfl
  have e1 := bits_pack 4 0 [(6, 11), (5, b.val), (5, a.val), (5, d.val), (6, 1)] (Nat.two_pow_pos _) 4 1 [(1, w.toBits)] ⟨b3, trivial⟩ rfl rfl
  have e5 := bits_pack 6 11 [(5, b.val), (5, a.val), (5, d.val), (6, 1)] (by decide) 10 5 [(1, w.toBits), (4, 0)] ⟨b3, (Nat.two_pow_pos _), trivial⟩ rfl rfl
  have e11 := bits_pack 5 b.val [(5, a.val), (5, d.val), (6, 1)] b2 15 11 [(1, w.toBits), (4, 0), (6, 11)] ⟨b3, (Nat.two_pow_pos _), (by decide), trivial⟩ rfl rfl
  have e16 := bits_pack 5 a.val [(5, d.val), (6, 1)] b1 20 16 [(1, w.toBits), (4, 0), (6, 11), (5, b.val)] ⟨b3, (Nat.two_pow_pos _), (by decide), b2, trivial⟩ rfl rfl
  have e21 := bits_pack 5 d.val [(6, 1)] b0 25 21 [(1, w.toBits), (4, 0), (6, 11), (5, b.val), (5, a.val)] ⟨b3, (Nat.two_pow_pos _), (by decide), b2, b1, trivial⟩ rfl rfl
  have e26 := bits_pack 6 1 [] (by decide) 31 26 [(1, w.toBits), (4, 0), (6, 11), (5, b.val), (5, a.val), (5, d.val)] ⟨b3, (Nat.two_pow_pos _), (by decide), b2, b1, b0, trivial⟩ rfl rfl
  simp only [List.nil_append, List.cons_append] at e0 e1 e5 e11 e16 e21 e26
  have hl : pack [(1, w.toBits), (4, 0), (6, 11), (5, b.val), (5, a.val), (5, d.val), (6, 1)] < 2 ^ 32 := pack_lt [(1, w.toBits), (4, 0), (6, 11), (5, b.val), (5, a.val), (5, d.val), (6, 1)] ⟨b3, (Nat.two_pow_pos _), (by decide), b2, b1, b0, (by decide), trivial⟩ rfl
  generalize pack [(1, w.toBits), (4, 0), (6, 11), (5, b.val), (5, a.val), (5, d.val), (6, 1)] = wd at *
  refine decode_of wd hn.symm ?_ hw hl
  · rw [major_1 e26]; simp only [decodeAlu, e5, e0, e1, e11, e16, e21, reduceIte, ofNat_val, Width.ofBits_toBits]

theorem Sys2Proof.Laws.Roundtrip.andn (d : Reg) (a : Reg) (b : Reg) (w : Width) : Statement (.andn d a b w) := by
  intro _ hw
  have hn : ∀ x0 x1 x2 x3 : Nat, pack [(1, x3), (4, 0), (6, 12), (5, x2), (5, x1), (5, x0), (6, 1)] = fields 0x04000180 [(x0, 21), (x1, 16), (x2, 11), (x3, 0)] := by
    intros; simp only [pack_eq, packAt_cons, packAt_nil, Nat.reduceAdd, fields_cons, fields_nil]; omega
  replace hn := hn d.val a.val b.val w.toBits
  have b0 := d.isLt
  have b1 := a.isLt
  have b2 := b.isLt
  have b3 := Width.toBits_lt w
  have e0 := bits_pack 1 w.toBits [(4, 0), (6, 12), (5, b.val), (5, a.val), (5, d.val), (6, 1)] b3 0 0 [] trivial rfl rfl
  have e1 := bits_pack 4 0 [(6, 12), (5, b.val), (5, a.val), (5, d.val), (6, 1)] (Nat.two_pow_pos _) 4 1 [(1, w.toBits)] ⟨b3, trivial⟩ rfl rfl
  have e5 := bits_pack 6 12 [(5, b.val), (5, a.val), (5, d.val), (6, 1)] (by decide) 10 5 [(1, w.toBits), (4, 0)] ⟨b3, (Nat.two_pow_pos _), trivial⟩ rfl rfl
  have e11 := bits_pack 5 b.val [(5, a.val), (5, d.val), (6, 1)] b2 15 11 [(1, w.toBits), (4, 0), (6, 12)] ⟨b3, (Nat.two_pow_pos _), (by decide), trivial⟩ rfl rfl
  have e16 := bits_pack 5 a.val [(5, d.val), (6, 1)] b1 20 16 [(1, w.toBits), (4, 0), (6, 12), (5, b.val)] ⟨b3, (Nat.two_pow_pos _), (by decide), b2, trivial⟩ rfl rfl
  have e21 := bits_pack 5 d.val [(6, 1)] b0 25 21 [(1, w.toBits), (4, 0), (6, 12), (5, b.val), (5, a.val)] ⟨b3, (Nat.two_pow_pos _), (by decide), b2, b1, trivial⟩ rfl rfl
  have e26 := bits_pack 6 1 [] (by decide) 31 26 [(1, w.toBits), (4, 0), (6, 12), (5, b.val), (5, a.val), (5, d.val)] ⟨b3, (Nat.two_pow_pos _), (by decide), b2, b1, b0, trivial⟩ rfl rfl
  simp only [List.nil_append, List.cons_append] at e0 e1 e5 e11 e16 e21 e26
  have hl : pack [(1, w.toBits), (4, 0), (6, 12), (5, b.val), (5, a.val), (5, d.val), (6, 1)] < 2 ^ 32 := pack_lt [(1, w.toBits), (4, 0), (6, 12), (5, b.val), (5, a.val), (5, d.val), (6, 1)] ⟨b3, (Nat.two_pow_pos _), (by decide), b2, b1, b0, (by decide), trivial⟩ rfl
  generalize pack [(1, w.toBits), (4, 0), (6, 12), (5, b.val), (5, a.val), (5, d.val), (6, 1)] = wd at *
  refine decode_of wd hn.symm ?_ hw hl
  · rw [major_1 e26]; simp only [decodeAlu, e5, e0, e1, e11, e16, e21, reduceIte, ofNat_val, Width.ofBits_toBits]

theorem Sys2Proof.Laws.Roundtrip.shl (d : Reg) (a : Reg) (b : Reg) (w : Width) : Statement (.shl d a b w) := by
  intro _ hw
  have hn : ∀ x0 x1 x2 x3 : Nat, pack [(1, x3), (4, 0), (6, 13), (5, x2), (5, x1), (5, x0), (6, 1)] = fields 0x040001A0 [(x0, 21), (x1, 16), (x2, 11), (x3, 0)] := by
    intros; simp only [pack_eq, packAt_cons, packAt_nil, Nat.reduceAdd, fields_cons, fields_nil]; omega
  replace hn := hn d.val a.val b.val w.toBits
  have b0 := d.isLt
  have b1 := a.isLt
  have b2 := b.isLt
  have b3 := Width.toBits_lt w
  have e0 := bits_pack 1 w.toBits [(4, 0), (6, 13), (5, b.val), (5, a.val), (5, d.val), (6, 1)] b3 0 0 [] trivial rfl rfl
  have e1 := bits_pack 4 0 [(6, 13), (5, b.val), (5, a.val), (5, d.val), (6, 1)] (Nat.two_pow_pos _) 4 1 [(1, w.toBits)] ⟨b3, trivial⟩ rfl rfl
  have e5 := bits_pack 6 13 [(5, b.val), (5, a.val), (5, d.val), (6, 1)] (by decide) 10 5 [(1, w.toBits), (4, 0)] ⟨b3, (Nat.two_pow_pos _), trivial⟩ rfl rfl
  have e11 := bits_pack 5 b.val [(5, a.val), (5, d.val), (6, 1)] b2 15 11 [(1, w.toBits), (4, 0), (6, 13)] ⟨b3, (Nat.two_pow_pos _), (by decide), trivial⟩ rfl rfl
  have e16 := bits_pack 5 a.val [(5, d.val), (6, 1)] b1 20 16 [(1, w.toBits), (4, 0), (6, 13), (5, b.val)] ⟨b3, (Nat.two_pow_pos _), (by decide), b2, trivial⟩ rfl rfl
  have e21 := bits_pack 5 d.val [(6, 1)] b0 25 21 [(1, w.toBits), (4, 0), (6, 13), (5, b.val), (5, a.val)] ⟨b3, (Nat.two_pow_pos _), (by decide), b2, b1, trivial⟩ rfl rfl
  have e26 := bits_pack 6 1 [] (by decide) 31 26 [(1, w.toBits), (4, 0), (6, 13), (5, b.val), (5, a.val), (5, d.val)] ⟨b3, (Nat.two_pow_pos _), (by decide), b2, b1, b0, trivial⟩ rfl rfl
  simp only [List.nil_append, List.cons_append] at e0 e1 e5 e11 e16 e21 e26
  have hl : pack [(1, w.toBits), (4, 0), (6, 13), (5, b.val), (5, a.val), (5, d.val), (6, 1)] < 2 ^ 32 := pack_lt [(1, w.toBits), (4, 0), (6, 13), (5, b.val), (5, a.val), (5, d.val), (6, 1)] ⟨b3, (Nat.two_pow_pos _), (by decide), b2, b1, b0, (by decide), trivial⟩ rfl
  generalize pack [(1, w.toBits), (4, 0), (6, 13), (5, b.val), (5, a.val), (5, d.val), (6, 1)] = wd at *
  refine decode_of wd hn.symm ?_ hw hl
  · rw [major_1 e26]; simp only [decodeAlu, e5, e0, e1, e11, e16, e21, reduceIte, ofNat_val, Width.ofBits_toBits]

theorem Sys2Proof.Laws.Roundtrip.shrl (d : Reg) (a : Reg) (b : Reg) (w : Width) : Statement (.shrl d a b w) := by
  intro _ hw
  have hn : ∀ x0 x1 x2 x3 : Nat, pack [(1, x3), (4, 0), (6, 14), (5, x2), (5, x1), (5, x0), (6, 1)] = fields 0x040001C0 [(x0, 21), (x1, 16), (x2, 11), (x3, 0)] := by
    intros; simp only [pack_eq, packAt_cons, packAt_nil, Nat.reduceAdd, fields_cons, fields_nil]; omega
  replace hn := hn d.val a.val b.val w.toBits
  have b0 := d.isLt
  have b1 := a.isLt
  have b2 := b.isLt
  have b3 := Width.toBits_lt w
  have e0 := bits_pack 1 w.toBits [(4, 0), (6, 14), (5, b.val), (5, a.val), (5, d.val), (6, 1)] b3 0 0 [] trivial rfl rfl
  have e1 := bits_pack 4 0 [(6, 14), (5, b.val), (5, a.val), (5, d.val), (6, 1)] (Nat.two_pow_pos _) 4 1 [(1, w.toBits)] ⟨b3, trivial⟩ rfl rfl
  have e5 := bits_pack 6 14 [(5, b.val), (5, a.val), (5, d.val), (6, 1)] (by decide) 10 5 [(1, w.toBits), (4, 0)] ⟨b3, (Nat.two_pow_pos _), trivial⟩ rfl rfl
  have e11 := bits_pack 5 b.val [(5, a.val), (5, d.val), (6, 1)] b2 15 11 [(1, w.toBits), (4, 0), (6, 14)] ⟨b3, (Nat.two_pow_pos _), (by decide), trivial⟩ rfl rfl
  have e16 := bits_pack 5 a.val [(5, d.val), (6, 1)] b1 20 16 [(1, w.toBits), (4, 0), (6, 14), (5, b.val)] ⟨b3, (Nat.two_pow_pos _), (by decide), b2, trivial⟩ rfl rfl
  have e21 := bits_pack 5 d.val [(6, 1)] b0 25 21 [(1, w.toBits), (4, 0), (6, 14), (5, b.val), (5, a.val)] ⟨b3, (Nat.two_pow_pos _), (by decide), b2, b1, trivial⟩ rfl rfl
  have e26 := bits_pack 6 1 [] (by decide) 31 26 [(1, w.toBits), (4, 0), (6, 14), (5, b.val), (5, a.val), (5, d.val)] ⟨b3, (Nat.two_pow_pos _), (by decide), b2, b1, b0, trivial⟩ rfl rfl
  simp only [List.nil_append, List.cons_append] at e0 e1 e5 e11 e16 e21 e26
  have hl : pack [(1, w.toBits), (4, 0), (6, 14), (5, b.val), (5, a.val), (5, d.val), (6, 1)] < 2 ^ 32 := pack_lt [(1, w.toBits), (4, 0), (6, 14), (5, b.val), (5, a.val), (5, d.val), (6, 1)] ⟨b3, (Nat.two_pow_pos _), (by decide), b2, b1, b0, (by decide), trivial⟩ rfl
  generalize pack [(1, w.toBits), (4, 0), (6, 14), (5, b.val), (5, a.val), (5, d.val), (6, 1)] = wd at *
  refine decode_of wd hn.symm ?_ hw hl
  · rw [major_1 e26]; simp only [decodeAlu, e5, e0, e1, e11, e16, e21, reduceIte, ofNat_val, Width.ofBits_toBits]

theorem Sys2Proof.Laws.Roundtrip.shra (d : Reg) (a : Reg) (b : Reg) (w : Width) : Statement (.shra d a b w) := by
  intro _ hw
  have hn : ∀ x0 x1 x2 x3 : Nat, pack [(1, x3), (4, 0), (6, 15), (5, x2), (5, x1), (5, x0), (6, 1)] = fields 0x040001E0 [(x0, 21), (x1, 16), (x2, 11), (x3, 0)] := by
    intros; simp only [pack_eq, packAt_cons, packAt_nil, Nat.reduceAdd, fields_cons, fields_nil]; omega
  replace hn := hn d.val a.val b.val w.toBits
  have b0 := d.isLt
  have b1 := a.isLt
  have b2 := b.isLt
  have b3 := Width.toBits_lt w
  have e0 := bits_pack 1 w.toBits [(4, 0), (6, 15), (5, b.val), (5, a.val), (5, d.val), (6, 1)] b3 0 0 [] trivial rfl rfl
  have e1 := bits_pack 4 0 [(6, 15), (5, b.val), (5, a.val), (5, d.val), (6, 1)] (Nat.two_pow_pos _) 4 1 [(1, w.toBits)] ⟨b3, trivial⟩ rfl rfl
  have e5 := bits_pack 6 15 [(5, b.val), (5, a.val), (5, d.val), (6, 1)] (by decide) 10 5 [(1, w.toBits), (4, 0)] ⟨b3, (Nat.two_pow_pos _), trivial⟩ rfl rfl
  have e11 := bits_pack 5 b.val [(5, a.val), (5, d.val), (6, 1)] b2 15 11 [(1, w.toBits), (4, 0), (6, 15)] ⟨b3, (Nat.two_pow_pos _), (by decide), trivial⟩ rfl rfl
  have e16 := bits_pack 5 a.val [(5, d.val), (6, 1)] b1 20 16 [(1, w.toBits), (4, 0), (6, 15), (5, b.val)] ⟨b3, (Nat.two_pow_pos _), (by decide), b2, trivial⟩ rfl rfl
  have e21 := bits_pack 5 d.val [(6, 1)] b0 25 21 [(1, w.toBits), (4, 0), (6, 15), (5, b.val), (5, a.val)] ⟨b3, (Nat.two_pow_pos _), (by decide), b2, b1, trivial⟩ rfl rfl
  have e26 := bits_pack 6 1 [] (by decide) 31 26 [(1, w.toBits), (4, 0), (6, 15), (5, b.val), (5, a.val), (5, d.val)] ⟨b3, (Nat.two_pow_pos _), (by decide), b2, b1, b0, trivial⟩ rfl rfl
  simp only [List.nil_append, List.cons_append] at e0 e1 e5 e11 e16 e21 e26
  have hl : pack [(1, w.toBits), (4, 0), (6, 15), (5, b.val), (5, a.val), (5, d.val), (6, 1)] < 2 ^ 32 := pack_lt [(1, w.toBits), (4, 0), (6, 15), (5, b.val), (5, a.val), (5, d.val), (6, 1)] ⟨b3, (Nat.two_pow_pos _), (by decide), b2, b1, b0, (by decide), trivial⟩ rfl
  generalize pack [(1, w.toBits), (4, 0), (6, 15), (5, b.val), (5, a.val), (5, d.val), (6, 1)] = wd at *
  refine decode_of wd hn.symm ?_ hw hl
  · rw [major_1 e26]; simp only [decodeAlu, e5, e0, e1, e11, e16, e21, reduceIte, ofNat_val, Width.ofBits_toBits]

theorem Sys2Proof.Laws.Roundtrip.rol (d : Reg) (a : Reg) (b : Reg) (w : Width) : Statement (.rol d a b w) := by
  intro _ hw
  have hn : ∀ x0 x1 x2 x3 : Nat, pack [(1, x3), (4, 0), (6, 16), (5, x2), (5, x1), (5, x0), (6, 1)] = fields 0x04000200 [(x0, 21), (x1, 16), (x2, 11), (x3, 0)] := by
    intros; simp only [pack_eq, packAt_cons, packAt_nil, Nat.reduceAdd, fields_cons, fields_nil]; omega
  replace hn := hn d.val a.val b.val w.toBits
  have b0 := d.isLt
  have b1 := a.isLt
  have b2 := b.isLt
  have b3 := Width.toBits_lt w
  have e0 := bits_pack 1 w.toBits [(4, 0), (6, 16), (5, b.val), (5, a.val), (5, d.val), (6, 1)] b3 0 0 [] trivial rfl rfl
  have e1 := bits_pack 4 0 [(6, 16), (5, b.val), (5, a.val), (5, d.val), (6, 1)] (Nat.two_pow_pos _) 4 1 [(1, w.toBits)] ⟨b3, trivial⟩ rfl rfl
  have e5 := bits_pack 6 16 [(5, b.val), (5, a.val), (5, d.val), (6, 1)] (by decide) 10 5 [(1, w.toBits), (4, 0)] ⟨b3, (Nat.two_pow_pos _), trivial⟩ rfl rfl
  have e11 := bits_pack 5 b.val [(5, a.val), (5, d.val), (6, 1)] b2 15 11 [(1, w.toBits), (4, 0), (6, 16)] ⟨b3, (Nat.two_pow_pos _), (by decide), trivial⟩ rfl rfl
  have e16 := bits_pack 5 a.val [(5, d.val), (6, 1)] b1 20 16 [(1, w.toBits), (4, 0), (6, 16), (5, b.val)] ⟨b3, (Nat.two_pow_pos _), (by decide), b2, trivial⟩ rfl rfl
  have e21 := bits_pack 5 d.val [(6, 1)] b0 25 21 [(1, w.toBits), (4, 0), (6, 16), (5, b.val), (5, a.val)] ⟨b3, (Nat.two_pow_pos _), (by decide), b2, b1, trivial⟩ rfl rfl
  have e26 := bits_pack 6 1 [] (by decide) 31 26 [(1, w.toBits), (4, 0), (6, 16), (5, b.val), (5, a.val), (5, d.val)] ⟨b3, (Nat.two_pow_pos _), (by decide), b2, b1, b0, trivial⟩ rfl rfl
  simp only [List.nil_append, List.cons_append] at e0 e1 e5 e11 e16 e21 e26
  have hl : pack [(1, w.toBits), (4, 0), (6, 16), (5, b.val), (5, a.val), (5, d.val), (6, 1)] < 2 ^ 32 := pack_lt [(1, w.toBits), (4, 0), (6, 16), (5, b.val), (5, a.val), (5, d.val), (6, 1)] ⟨b3, (Nat.two_pow_pos _), (by decide), b2, b1, b0, (by decide), trivial⟩ rfl
  generalize pack [(1, w.toBits), (4, 0), (6, 16), (5, b.val), (5, a.val), (5, d.val), (6, 1)] = wd at *
  refine decode_of wd hn.symm ?_ hw hl
  · rw [major_1 e26]; simp only [decodeAlu, e5, e0, e1, e11, e16, e21, reduceIte, ofNat_val, Width.ofBits_toBits]

theorem Sys2Proof.Laws.Roundtrip.mins (d : Reg) (a : Reg) (b : Reg) (w : Width) : Statement (.mins d a b w) := by
  intro _ hw
  have hn : ∀ x0 x1 x2 x3 : Nat, pack [(1, x3), (4, 0), (6, 17), (5, x2), (5, x1), (5, x0), (6, 1)] = fields 0x04000220 [(x0, 21), (x1, 16), (x2, 11), (x3, 0)] := by
    intros; simp only [pack_eq, packAt_cons, packAt_nil, Nat.reduceAdd, fields_cons, fields_nil]; omega
  replace hn := hn d.val a.val b.val w.toBits
  have b0 := d.isLt
  have b1 := a.isLt
  have b2 := b.isLt
  have b3 := Width.toBits_lt w
  have e0 := bits_pack 1 w.toBits [(4, 0), (6, 17), (5, b.val), (5, a.val), (5, d.val), (6, 1)] b3 0 0 [] trivial rfl rfl
  have e1 := bits_pack 4 0 [(6, 17), (5, b.val), (5, a.val), (5, d.val), (6, 1)] (Nat.two_pow_pos _) 4 1 [(1, w.toBits)] ⟨b3, trivial⟩ rfl rfl
  have e5 := bits_pack 6 17 [(5, b.val), (5, a.val), (5, d.val), (6, 1)] (by decide) 10 5 [(1, w.toBits), (4, 0)] ⟨b3, (Nat.two_pow_pos _), trivial⟩ rfl rfl
  have e11 := bits_pack 5 b.val [(5, a.val), (5, d.val), (6, 1)] b2 15 11 [(1, w.toBits), (4, 0), (6, 17)] ⟨b3, (Nat.two_pow_pos _), (by decide), trivial⟩ rfl rfl
  have e16 := bits_pack 5 a.val [(5, d.val), (6, 1)] b1 20 16 [(1, w.toBits), (4, 0), (6, 17), (5, b.val)] ⟨b3, (Nat.two_pow_pos _), (by decide), b2, trivial⟩ rfl rfl
  have e21 := bits_pack 5 d.val [(6, 1)] b0 25 21 [(1, w.toBits), (4, 0), (6, 17), (5, b.val), (5, a.val)] ⟨b3, (Nat.two_pow_pos _), (by decide), b2, b1, trivial⟩ rfl rfl
  have e26 := bits_pack 6 1 [] (by decide) 31 26 [(1, w.toBits), (4, 0), (6, 17), (5, b.val), (5, a.val), (5, d.val)] ⟨b3, (Nat.two_pow_pos _), (by decide), b2, b1, b0, trivial⟩ rfl rfl
  simp only [List.nil_append, List.cons_append] at e0 e1 e5 e11 e16 e21 e26
  have hl : pack [(1, w.toBits), (4, 0), (6, 17), (5, b.val), (5, a.val), (5, d.val), (6, 1)] < 2 ^ 32 := pack_lt [(1, w.toBits), (4, 0), (6, 17), (5, b.val), (5, a.val), (5, d.val), (6, 1)] ⟨b3, (Nat.two_pow_pos _), (by decide), b2, b1, b0, (by decide), trivial⟩ rfl
  generalize pack [(1, w.toBits), (4, 0), (6, 17), (5, b.val), (5, a.val), (5, d.val), (6, 1)] = wd at *
  refine decode_of wd hn.symm ?_ hw hl
  · rw [major_1 e26]; simp only [decodeAlu, e5, e0, e1, e11, e16, e21, reduceIte, ofNat_val, Width.ofBits_toBits]

theorem Sys2Proof.Laws.Roundtrip.maxs (d : Reg) (a : Reg) (b : Reg) (w : Width) : Statement (.maxs d a b w) := by
  intro _ hw
  have hn : ∀ x0 x1 x2 x3 : Nat, pack [(1, x3), (4, 0), (6, 18), (5, x2), (5, x1), (5, x0), (6, 1)] = fields 0x04000240 [(x0, 21), (x1, 16), (x2, 11), (x3, 0)] := by
    intros; simp only [pack_eq, packAt_cons, packAt_nil, Nat.reduceAdd, fields_cons, fields_nil]; omega
  replace hn := hn d.val a.val b.val w.toBits
  have b0 := d.isLt
  have b1 := a.isLt
  have b2 := b.isLt
  have b3 := Width.toBits_lt w
  have e0 := bits_pack 1 w.toBits [(4, 0), (6, 18), (5, b.val), (5, a.val), (5, d.val), (6, 1)] b3 0 0 [] trivial rfl rfl
  have e1 := bits_pack 4 0 [(6, 18), (5, b.val), (5, a.val), (5, d.val), (6, 1)] (Nat.two_pow_pos _) 4 1 [(1, w.toBits)] ⟨b3, trivial⟩ rfl rfl
  have e5 := bits_pack 6 18 [(5, b.val), (5, a.val), (5, d.val), (6, 1)] (by decide) 10 5 [(1, w.toBits), (4, 0)] ⟨b3, (Nat.two_pow_pos _), trivial⟩ rfl rfl
  have e11 := bits_pack 5 b.val [(5, a.val), (5, d.val), (6, 1)] b2 15 11 [(1, w.toBits), (4, 0), (6, 18)] ⟨b3, (Nat.two_pow_pos _), (by decide), trivial⟩ rfl rfl
  have e16 := bits_pack 5 a.val [(5, d.val), (6, 1)] b1 20 16 [(1, w.toBits), (4, 0), (6, 18), (5, b.val)] ⟨b3, (Nat.two_pow_pos _), (by decide), b2, trivial⟩ rfl rfl
  have e21 := bits_pack 5 d.val [(6, 1)] b0 25 21 [(1, w.toBits), (4, 0), (6, 18), (5, b.val), (5, a.val)] ⟨b3, (Nat.two_pow_pos _), (by decide), b2, b1, trivial⟩ rfl rfl
  have e26 := bits_pack 6 1 [] (by decide) 31 26 [(1, w.toBits), (4, 0), (6, 18), (5, b.val), (5, a.val), (5, d.val)] ⟨b3, (Nat.two_pow_pos _), (by decide), b2, b1, b0, trivial⟩ rfl rfl
  simp only [List.nil_append, List.cons_append] at e0 e1 e5 e11 e16 e21 e26
  have hl : pack [(1, w.toBits), (4, 0), (6, 18), (5, b.val), (5, a.val), (5, d.val), (6, 1)] < 2 ^ 32 := pack_lt [(1, w.toBits), (4, 0), (6, 18), (5, b.val), (5, a.val), (5, d.val), (6, 1)] ⟨b3, (Nat.two_pow_pos _), (by decide), b2, b1, b0, (by decide), trivial⟩ rfl
  generalize pack [(1, w.toBits), (4, 0), (6, 18), (5, b.val), (5, a.val), (5, d.val), (6, 1)] = wd at *
  refine decode_of wd hn.symm ?_ hw hl
  · rw [major_1 e26]; simp only [decodeAlu, e5, e0, e1, e11, e16, e21, reduceIte, ofNat_val, Width.ofBits_toBits]

theorem Sys2Proof.Laws.Roundtrip.minz (d : Reg) (a : Reg) (b : Reg) (w : Width) : Statement (.minz d a b w) := by
  intro _ hw
  have hn : ∀ x0 x1 x2 x3 : Nat, pack [(1, x3), (4, 0), (6, 19), (5, x2), (5, x1), (5, x0), (6, 1)] = fields 0x04000260 [(x0, 21), (x1, 16), (x2, 11), (x3, 0)] := by
    intros; simp only [pack_eq, packAt_cons, packAt_nil, Nat.reduceAdd, fields_cons, fields_nil]; omega
  replace hn := hn d.val a.val b.val w.toBits
  have b0 := d.isLt
  have b1 := a.isLt
  have b2 := b.isLt
  have b3 := Width.toBits_lt w
  have e0 := bits_pack 1 w.toBits [(4, 0), (6, 19), (5, b.val), (5, a.val), (5, d.val), (6, 1)] b3 0 0 [] trivial rfl rfl
  have e1 := bits_pack 4 0 [(6, 19), (5, b.val), (5, a.val), (5, d.val), (6, 1)] (Nat.two_pow_pos _) 4 1 [(1, w.toBits)] ⟨b3, trivial⟩ rfl rfl
  have e5 := bits_pack 6 19 [(5, b.val), (5, a.val), (5, d.val), (6, 1)] (by decide) 10 5 [(1, w.toBits), (4, 0)] ⟨b3, (Nat.two_pow_pos _), trivial⟩ rfl rfl
  have e11 := bits_pack 5 b.val [(5, a.val), (5, d.val), (6, 1)] b2 15 11 [(1, w.toBits), (4, 0), (6, 19)] ⟨b3, (Nat.two_pow_pos _), (by decide), trivial⟩ rfl rfl
  have e16 := bits_pack 5 a.val [(5, d.val), (6, 1)] b1 20 16 [(1, w.toBits), (4, 0), (6, 19), (5, b.val)] ⟨b3, (Nat.two_pow_pos _), (by decide), b2, trivial⟩ rfl rfl
  have e21 := bits_pack 5 d.val [(6, 1)] b0 25 21 [(1, w.toBits), (4, 0), (6, 19), (5, b.val), (5, a.val)] ⟨b3, (Nat.two_pow_pos _), (by decide), b2, b1, trivial⟩ rfl rfl
  have e26 := bits_pack 6 1 [] (by decide) 31 26 [(1, w.toBits), (4, 0), (6, 19), (5, b.val), (5, a.val), (5, d.val)] ⟨b3, (Nat.two_pow_pos _), (by decide), b2, b1, b0, trivial⟩ rfl rfl
  simp only [List.nil_append, List.cons_append] at e0 e1 e5 e11 e16 e21 e26
  have hl : pack [(1, w.toBits), (4, 0), (6, 19), (5, b.val), (5, a.val), (5, d.val), (6, 1)] < 2 ^ 32 := pack_lt [(1, w.toBits), (4, 0), (6, 19), (5, b.val), (5, a.val), (5, d.val), (6, 1)] ⟨b3, (Nat.two_pow_pos _), (by decide), b2, b1, b0, (by decide), trivial⟩ rfl
  generalize pack [(1, w.toBits), (4, 0), (6, 19), (5, b.val), (5, a.val), (5, d.val), (6, 1)] = wd at *
  refine decode_of wd hn.symm ?_ hw hl
  · rw [major_1 e26]; simp only [decodeAlu, e5, e0, e1, e11, e16, e21, reduceIte, ofNat_val, Width.ofBits_toBits]

theorem Sys2Proof.Laws.Roundtrip.maxz (d : Reg) (a : Reg) (b : Reg) (w : Width) : Statement (.maxz d a b w) := by
  intro _ hw
  have hn : ∀ x0 x1 x2 x3 : Nat, pack [(1, x3), (4, 0), (6, 20), (5, x2), (5, x1), (5, x0), (6, 1)] = fields 0x04000280 [(x0, 21), (x1, 16), (x2, 11), (x3, 0)] := by
    intros; simp only [pack_eq, packAt_cons, packAt_nil, Nat.reduceAdd, fields_cons, fields_nil]; omega
  replace hn := hn d.val a.val b.val w.toBits
  have b0 := d.isLt
  have b1 := a.isLt
  have b2 := b.isLt
  have b3 := Width.toBits_lt w
  have e0 := bits_pack 1 w.toBits [(4, 0), (6, 20), (5, b.val), (5, a.val), (5, d.val), (6, 1)] b3 0 0 [] trivial rfl rfl
  have e1 := bits_pack 4 0 [(6, 20), (5, b.val), (5, a.val), (5, d.val), (6, 1)] (Nat.two_pow_pos _) 4 1 [(1, w.toBits)] ⟨b3, trivial⟩ rfl rfl
  have e5 := bits_pack 6 20 [(5, b.val), (5, a.val), (5, d.val), (6, 1)] (by decide) 10 5 [(1, w.toBits), (4, 0)] ⟨b3, (Nat.two_pow_pos _), trivial⟩ rfl rfl
  have e11 := bits_pack 5 b.val [(5, a.val), (5, d.val), (6, 1)] b2 15 11 [(1, w.toBits), (4, 0), (6, 20)] ⟨b3, (Nat.two_pow_pos _), (by decide), trivial⟩ rfl rfl
  have e16 := bits_pack 5 a.val [(5, d.val), (6, 1)] b1 20 16 [(1, w.toBits), (4, 0), (6, 20), (5, b.val)] ⟨b3, (Nat.two_pow_pos _), (by decide), b2, trivial⟩ rfl rfl
  have e21 := bits_pack 5 d.val [(6, 1)] b0 25 21 [(1, w.toBits), (4, 0), (6, 20), (5, b.val), (5, a.val)] ⟨b3, (Nat.two_pow_pos _), (by decide), b2, b1, trivial⟩ rfl rfl
  have e26 := bits_pack 6 1 [] (by decide) 31 26 [(1, w.toBits), (4, 0), (6, 20), (5, b.val), (5, a.val), (5, d.val)] ⟨b3, (Nat.two_pow_pos _), (by decide), b2, b1, b0, trivial⟩ rfl rfl
  simp only [List.nil_append, List.cons_append] at e0 e1 e5 e11 e16 e21 e26
  have hl : pack [(1, w.toBits), (4, 0), (6, 20), (5, b.val), (5, a.val), (5, d.val), (6, 1)] < 2 ^ 32 := pack_lt [(1, w.toBits), (4, 0), (6, 20), (5, b.val), (5, a.val), (5, d.val), (6, 1)] ⟨b3, (Nat.two_pow_pos _), (by decide), b2, b1, b0, (by decide), trivial⟩ rfl
  generalize pack [(1, w.toBits), (4, 0), (6, 20), (5, b.val), (5, a.val), (5, d.val), (6, 1)] = wd at *
  refine decode_of wd hn.symm ?_ hw hl
  · rw [major_1 e26]; simp only [decodeAlu, e5, e0, e1, e11, e16, e21, reduceIte, ofNat_val, Width.ofBits_toBits]

theorem Sys2Proof.Laws.Roundtrip.seq (d : Reg) (a : Reg) (b : Reg) (w : Width) : Statement (.seq d a b w) := by
  intro _ hw
  have hn : ∀ x0 x1 x2 x3 : Nat, pack [(1, x3), (4, 0), (6, 21), (5, x2), (5, x1), (5, x0), (6, 1)] = fields 0x040002A0 [(x0, 21), (x1, 16), (x2, 11), (x3, 0)] := by
    intros; simp only [pack_eq, packAt_cons, packAt_nil, Nat.reduceAdd, fields_cons, fields_nil]; omega
  replace hn := hn d.val a.val b.val w.toBits
  have b0 := d.isLt
  have b1 := a.isLt
  have b2 := b.isLt
  have b3 := Width.toBits_lt w
  have e0 := bits_pack 1 w.toBits [(4, 0), (6, 21), (5, b.val), (5, a.val), (5, d.val), (6, 1)] b3 0 0 [] trivial rfl rfl
  have e1 := bits_pack 4 0 [(6, 21), (5, b.val), (5, a.val), (5, d.val), (6, 1)] (Nat.two_pow_pos _) 4 1 [(1, w.toBits)] ⟨b3, trivial⟩ rfl rfl
  have e5 := bits_pack 6 21 [(5, b.val), (5, a.val), (5, d.val), (6, 1)] (by decide) 10 5 [(1, w.toBits), (4, 0)] ⟨b3, (Nat.two_pow_pos _), trivial⟩ rfl rfl
  have e11 := bits_pack 5 b.val [(5, a.val), (5, d.val), (6, 1)] b2 15 11 [(1, w.toBits), (4, 0), (6, 21)] ⟨b3, (Nat.two_pow_pos _), (by decide), trivial⟩ rfl rfl
  have e16 := bits_pack 5 a.val [(5, d.val), (6, 1)] b1 20 16 [(1, w.toBits), (4, 0), (6, 21), (5, b.val)] ⟨b3, (Nat.two_pow_pos _), (by decide), b2, trivial⟩ rfl rfl
  have e21 := bits_pack 5 d.val [(6, 1)] b0 25 21 [(1, w.toBits), (4, 0), (6, 21), (5, b.val), (5, a.val)] ⟨b3, (Nat.two_pow_pos _), (by decide), b2, b1, trivial⟩ rfl rfl
  have e26 := bits_pack 6 1 [] (by decide) 31 26 [(1, w.toBits), (4, 0), (6, 21), (5, b.val), (5, a.val), (5, d.val)] ⟨b3, (Nat.two_pow_pos _), (by decide), b2, b1, b0, trivial⟩ rfl rfl
  simp only [List.nil_append, List.cons_append] at e0 e1 e5 e11 e16 e21 e26
  have hl : pack [(1, w.toBits), (4, 0), (6, 21), (5, b.val), (5, a.val), (5, d.val), (6, 1)] < 2 ^ 32 := pack_lt [(1, w.toBits), (4, 0), (6, 21), (5, b.val), (5, a.val), (5, d.val), (6, 1)] ⟨b3, (Nat.two_pow_pos _), (by decide), b2, b1, b0, (by decide), trivial⟩ rfl
  generalize pack [(1, w.toBits), (4, 0), (6, 21), (5, b.val), (5, a.val), (5, d.val), (6, 1)] = wd at *
  refine decode_of wd hn.symm ?_ hw hl
  · rw [major_1 e26]; simp only [decodeAlu, e5, e0, e1, e11, e16, e21, reduceIte, ofNat_val, Width.ofBits_toBits]

theorem Sys2Proof.Laws.Roundtrip.sne (d : Reg) (a : Reg) (b : Reg) (w : Width) : Statement (.sne d a b w) := by
  intro _ hw
  have hn : ∀ x0 x1 x2 x3 : Nat, pack [(1, x3), (4, 0), (6, 22), (5, x2), (5, x1), (5, x0), (6, 1)] = fields 0x040002C0 [(x0, 21), (x1, 16), (x2, 11), (x3, 0)] := by
    intros; simp only [pack_eq, packAt_cons, packAt_nil, Nat.reduceAdd, fields_cons, fields_nil]; omega
  replace hn := hn d.val a.val b.val w.toBits
  have b0 := d.isLt
  have b1 := a.isLt
  have b2 := b.isLt
  have b3 := Width.toBits_lt w
  have e0 := bits_pack 1 w.toBits [(4, 0), (6, 22), (5, b.val), (5, a.val), (5, d.val), (6, 1)] b3 0 0 [] trivial rfl rfl
  have e1 := bits_pack 4 0 [(6, 22), (5, b.val), (5, a.val), (5, d.val), (6, 1)] (Nat.two_pow_pos _) 4 1 [(1, w.toBits)] ⟨b3, trivial⟩ rfl rfl
  have e5 := bits_pack 6 22 [(5, b.val), (5, a.val), (5, d.val), (6, 1)] (by decide) 10 5 [(1, w.toBits), (4, 0)] ⟨b3, (Nat.two_pow_pos _), trivial⟩ rfl rfl
  have e11 := bits_pack 5 b.val [(5, a.val), (5, d.val), (6, 1)] b2 15 11 [(1, w.toBits), (4, 0), (6, 22)] ⟨b3, (Nat.two_pow_pos _), (by decide), trivial⟩ rfl rfl
  have e16 := bits_pack 5 a.val [(5, d.val), (6, 1)] b1 20 16 [(1, w.toBits), (4, 0), (6, 22), (5, b.val)] ⟨b3, (Nat.two_pow_pos _), (by decide), b2, trivial⟩ rfl rfl
  have e21 := bits_pack 5 d.val [(6, 1)] b0 25 21 [(1, w.toBits), (4, 0), (6, 22), (5, b.val), (5, a.val)] ⟨b3, (Nat.two_pow_pos _), (by decide), b2, b1, trivial⟩ rfl rfl
  have e26 := bits_pack 6 1 [] (by decide) 31 26 [(1, w.toBits), (4, 0), (6, 22), (5, b.val), (5, a.val), (5, d.val)] ⟨b3, (Nat.two_pow_pos _), (by decide), b2, b1, b0, trivial⟩ rfl rfl
  simp only [List.nil_append, List.cons_append] at e0 e1 e5 e11 e16 e21 e26
  have hl : pack [(1, w.toBits), (4, 0), (6, 22), (5, b.val), (5, a.val), (5, d.val), (6, 1)] < 2 ^ 32 := pack_lt [(1, w.toBits), (4, 0), (6, 22), (5, b.val), (5, a.val), (5, d.val), (6, 1)] ⟨b3, (Nat.two_pow_pos _), (by decide), b2, b1, b0, (by decide), trivial⟩ rfl
  generalize pack [(1, w.toBits), (4, 0), (6, 22), (5, b.val), (5, a.val), (5, d.val), (6, 1)] = wd at *
  refine decode_of wd hn.symm ?_ hw hl
  · rw [major_1 e26]; simp only [decodeAlu, e5, e0, e1, e11, e16, e21, reduceIte, ofNat_val, Width.ofBits_toBits]

theorem Sys2Proof.Laws.Roundtrip.slts (d : Reg) (a : Reg) (b : Reg) (w : Width) : Statement (.slts d a b w) := by
  intro _ hw
  have hn : ∀ x0 x1 x2 x3 : Nat, pack [(1, x3), (4, 0), (6, 23), (5, x2), (5, x1), (5, x0), (6, 1)] = fields 0x040002E0 [(x0, 21), (x1, 16), (x2, 11), (x3, 0)] := by
    intros; simp only [pack_eq, packAt_cons, packAt_nil, Nat.reduceAdd, fields_cons, fields_nil]; omega
  replace hn := hn d.val a.val b.val w.toBits
  have b0 := d.isLt
  have b1 := a.isLt
  have b2 := b.isLt
  have b3 := Width.toBits_lt w
  have e0 := bits_pack 1 w.toBits [(4, 0), (6, 23), (5, b.val), (5, a.val), (5, d.val), (6, 1)] b3 0 0 [] trivial rfl rfl
  have e1 := bits_pack 4 0 [(6, 23), (5, b.val), (5, a.val), (5, d.val), (6, 1)] (Nat.two_pow_pos _) 4 1 [(1, w.toBits)] ⟨b3, trivial⟩ rfl rfl
  have e5 := bits_pack 6 23 [(5, b.val), (5, a.val), (5, d.val), (6, 1)] (by decide) 10 5 [(1, w.toBits), (4, 0)] ⟨b3, (Nat.two_pow_pos _), trivial⟩ rfl rfl
  have e11 := bits_pack 5 b.val [(5, a.val), (5, d.val), (6, 1)] b2 15 11 [(1, w.toBits), (4, 0), (6, 23)] ⟨b3, (Nat.two_pow_pos _), (by decide), trivial⟩ rfl rfl
  have e16 := bits_pack 5 a.val [(5, d.val), (6, 1)] b1 20 16 [(1, w.toBits), (4, 0), (6, 23), (5, b.val)] ⟨b3, (Nat.two_pow_pos _), (by decide), b2, trivial⟩ rfl rfl
  have e21 := bits_pack 5 d.val [(6, 1)] b0 25 21 [(1, w.toBits), (4, 0), (6, 23), (5, b.val), (5, a.val)] ⟨b3, (Nat.two_pow_pos _), (by decide), b2, b1, trivial⟩ rfl rfl
  have e26 := bits_pack 6 1 [] (by decide) 31 26 [(1, w.toBits), (4, 0), (6, 23), (5, b.val), (5, a.val), (5, d.val)] ⟨b3, (Nat.two_pow_pos _), (by decide), b2, b1, b0, trivial⟩ rfl rfl
  simp only [List.nil_append, List.cons_append] at e0 e1 e5 e11 e16 e21 e26
  have hl : pack [(1, w.toBits), (4, 0), (6, 23), (5, b.val), (5, a.val), (5, d.val), (6, 1)] < 2 ^ 32 := pack_lt [(1, w.toBits), (4, 0), (6, 23), (5, b.val), (5, a.val), (5, d.val), (6, 1)] ⟨b3, (Nat.two_pow_pos _), (by decide), b2, b1, b0, (by decide), trivial⟩ rfl
  generalize pack [(1, w.toBits), (4, 0), (6, 23), (5, b.val), (5, a.val), (5, d.val), (6, 1)] = wd at *
  refine decode_of wd hn.symm ?_ hw hl
  · rw [major_1 e26]; simp only [decodeAlu, e5, e0, e1, e11, e16, e21, reduceIte, ofNat_val, Width.ofBits_toBits]

theorem Sys2Proof.Laws.Roundtrip.sltz (d : Reg) (a : Reg) (b : Reg) (w : Width) : Statement (.sltz d a b w) := by
  intro _ hw
  have hn : ∀ x0 x1 x2 x3 : Nat, pack [(1, x3), (4, 0), (6, 24), (5, x2), (5, x1), (5, x0), (6, 1)] = fields 0x04000300 [(x0, 21), (x1, 16), (x2, 11), (x3, 0)] := by
    intros; simp only [pack_eq, packAt_cons, packAt_nil, Nat.reduceAdd, fields_cons, fields_nil]; omega
  replace hn := hn d.val a.val b.val w.toBits
  have b0 := d.isLt
  have b1 := a.isLt
  have b2 := b.isLt
  have b3 := Width.toBits_lt w
  have e0 := bits_pack 1 w.toBits [(4, 0), (6, 24), (5, b.val), (5, a.val), (5, d.val), (6, 1)] b3 0 0 [] trivial rfl rfl
  have e1 := bits_pack 4 0 [(6, 24), (5, b.val), (5, a.val), (5, d.val), (6, 1)] (Nat.two_pow_pos _) 4 1 [(1, w.toBits)] ⟨b3, trivial⟩ rfl rfl
  have e5 := bits_pack 6 24 [(5, b.val), (5, a.val), (5, d.val), (6, 1)] (by decide) 10 5 [(1, w.toBits), (4, 0)] ⟨b3, (Nat.two_pow_pos _), trivial⟩ rfl rfl
  have e11 := bits_pack 5 b.val [(5, a.val), (5, d.val), (6, 1)] b2 15 11 [(1, w.toBits), (4, 0), (6, 24)] ⟨b3, (Nat.two_pow_pos _), (by decide), trivial⟩ rfl rfl
  have e16 := bits_pack 5 a.val [(5, d.val), (6, 1)] b1 20 16 [(1, w.toBits), (4, 0), (6, 24), (5, b.val)] ⟨b3, (Nat.two_pow_pos _), (by decide), b2, trivial⟩ rfl rfl
  have e21 := bits_pack 5 d.val [(6, 1)] b0 25 21 [(1, w.toBits), (4, 0), (6, 24), (5, b.val), (5, a.val)] ⟨b3, (Nat.two_pow_pos _), (by decide), b2, b1, trivial⟩ rfl rfl
  have e26 := bits_pack 6 1 [] (by decide) 31 26 [(1, w.toBits), (4, 0), (6, 24), (5, b.val), (5, a.val), (5, d.val)] ⟨b3, (Nat.two_pow_pos _), (by decide), b2, b1, b0, trivial⟩ rfl rfl
  simp only [List.nil_append, List.cons_append] at e0 e1 e5 e11 e16 e21 e26
  have hl : pack [(1, w.toBits), (4, 0), (6, 24), (5, b.val), (5, a.val), (5, d.val), (6, 1)] < 2 ^ 32 := pack_lt [(1, w.toBits), (4, 0), (6, 24), (5, b.val), (5, a.val), (5, d.val), (6, 1)] ⟨b3, (Nat.two_pow_pos _), (by decide), b2, b1, b0, (by decide), trivial⟩ rfl
  generalize pack [(1, w.toBits), (4, 0), (6, 24), (5, b.val), (5, a.val), (5, d.val), (6, 1)] = wd at *
  refine decode_of wd hn.symm ?_ hw hl
  · rw [major_1 e26]; simp only [decodeAlu, e5, e0, e1, e11, e16, e21, reduceIte, ofNat_val, Width.ofBits_toBits]

theorem Sys2Proof.Laws.Roundtrip.clz (d : Reg) (a : Reg) (w : Width) : Statement (.clz d a w) := by
  intro _ hw
  have hn : ∀ x0 x1 x2 : Nat, pack [(1, x2), (4, 0), (6, 25), (5, 0), (5, x1), (5, x0), (6, 1)] = fields 0x04000320 [(x0, 21), (x1, 16), (x2, 0)] := by
    intros; simp only [pack_eq, packAt_cons, packAt_nil, Nat.reduceAdd, fields_cons, fields_nil]; omega
  replace hn := hn d.val a.val w.toBits
  have b0 := d.isLt
  have b1 := a.isLt
  have b2 := Width.toBits_lt w
  have e0 := bits_pack 1 w.toBits [(4, 0), (6, 25), (5, 0), (5, a.val), (5, d.val), (6, 1)] b2 0 0 [] trivial rfl rfl
  have e1 := bits_pack 4 0 [(6, 25), (5, 0), (5, a.val), (5, d.val), (6, 1)] (Nat.two_pow_pos _) 4 1 [(1, w.toBits)] ⟨b2, trivial⟩ rfl rfl
  have e5 := bits_pack 6 25 [(5, 0), (5, a.val), (5, d.val), (6, 1)] (by decide) 10 5 [(1, w.toBits), (4, 0)] ⟨b2, (Nat.two_pow_pos _), trivial⟩ rfl rfl
  have e11 := bits_pack 5 0 [(5, a.val), (5, d.val), (6, 1)] (Nat.two_pow_pos _) 15 11 [(1, w.toBits), (4, 0), (6, 25)] ⟨b2, (Nat.two_pow_pos _), (by decide), trivial⟩ rfl rfl
  have e16 := bits_pack 5 a.val [(5, d.val), (6, 1)] b1 20 16 [(1, w.toBits), (4, 0), (6, 25), (5, 0)] ⟨b2, (Nat.two_pow_pos _), (by decide), (Nat.two_pow_pos _), trivial⟩ rfl rfl
  have e21 := bits_pack 5 d.val [(6, 1)] b0 25 21 [(1, w.toBits), (4, 0), (6, 25), (5, 0), (5, a.val)] ⟨b2, (Nat.two_pow_pos _), (by decide), (Nat.two_pow_pos _), b1, trivial⟩ rfl rfl
  have e26 := bits_pack 6 1 [] (by decide) 31 26 [(1, w.toBits), (4, 0), (6, 25), (5, 0), (5, a.val), (5, d.val)] ⟨b2, (Nat.two_pow_pos _), (by decide), (Nat.two_pow_pos _), b1, b0, trivial⟩ rfl rfl
  simp only [List.nil_append, List.cons_append] at e0 e1 e5 e11 e16 e21 e26
  have hl : pack [(1, w.toBits), (4, 0), (6, 25), (5, 0), (5, a.val), (5, d.val), (6, 1)] < 2 ^ 32 := pack_lt [(1, w.toBits), (4, 0), (6, 25), (5, 0), (5, a.val), (5, d.val), (6, 1)] ⟨b2, (Nat.two_pow_pos _), (by decide), (Nat.two_pow_pos _), b1, b0, (by decide), trivial⟩ rfl
  generalize pack [(1, w.toBits), (4, 0), (6, 25), (5, 0), (5, a.val), (5, d.val), (6, 1)] = wd at *
  refine decode_of wd hn.symm ?_ hw hl
  · rw [major_1 e26]; simp only [decodeAlu, e5, e0, e1, e11, e16, e21, reduceIte, ofNat_val, Width.ofBits_toBits]

theorem Sys2Proof.Laws.Roundtrip.ctz (d : Reg) (a : Reg) (w : Width) : Statement (.ctz d a w) := by
  intro _ hw
  have hn : ∀ x0 x1 x2 : Nat, pack [(1, x2), (4, 0), (6, 26), (5, 0), (5, x1), (5, x0), (6, 1)] = fields 0x04000340 [(x0, 21), (x1, 16), (x2, 0)] := by
    intros; simp only [pack_eq, packAt_cons, packAt_nil, Nat.reduceAdd, fields_cons, fields_nil]; omega
  replace hn := hn d.val a.val w.toBits
  have b0 := d.isLt
  have b1 := a.isLt
  have b2 := Width.toBits_lt w
  have e0 := bits_pack 1 w.toBits [(4, 0), (6, 26), (5, 0), (5, a.val), (5, d.val), (6, 1)] b2 0 0 [] trivial rfl rfl
  have e1 := bits_pack 4 0 [(6, 26), (5, 0), (5, a.val), (5, d.val), (6, 1)] (Nat.two_pow_pos _) 4 1 [(1, w.toBits)] ⟨b2, trivial⟩ rfl rfl
  have e5 := bits_pack 6 26 [(5, 0), (5, a.val), (5, d.val), (6, 1)] (by decide) 10 5 [(1, w.toBits), (4, 0)] ⟨b2, (Nat.two_pow_pos _), trivial⟩ rfl rfl
  have e11 := bits_pack 5 0 [(5, a.val), (5, d.val), (6, 1)] (Nat.two_pow_pos _) 15 11 [(1, w.toBits), (4, 0), (6, 26)] ⟨b2, (Nat.two_pow_pos _), (by decide), trivial⟩ rfl rfl
  have e16 := bits_pack 5 a.val [(5, d.val), (6, 1)] b1 20 16 [(1, w.toBits), (4, 0), (6, 26), (5, 0)] ⟨b2, (Nat.two_pow_pos _), (by decide), (Nat.two_pow_pos _), trivial⟩ rfl rfl
  have e21 := bits_pack 5 d.val [(6, 1)] b0 25 21 [(1, w.toBits), (4, 0), (6, 26), (5, 0), (5, a.val)] ⟨b2, (Nat.two_pow_pos _), (by decide), (Nat.two_pow_pos _), b1, trivial⟩ rfl rfl
  have e26 := bits_pack 6 1 [] (by decide) 31 26 [(1, w.toBits), (4, 0), (6, 26), (5, 0), (5, a.val), (5, d.val)] ⟨b2, (Nat.two_pow_pos _), (by decide), (Nat.two_pow_pos _), b1, b0, trivial⟩ rfl rfl
  simp only [List.nil_append, List.cons_append] at e0 e1 e5 e11 e16 e21 e26
  have hl : pack [(1, w.toBits), (4, 0), (6, 26), (5, 0), (5, a.val), (5, d.val), (6, 1)] < 2 ^ 32 := pack_lt [(1, w.toBits), (4, 0), (6, 26), (5, 0), (5, a.val), (5, d.val), (6, 1)] ⟨b2, (Nat.two_pow_pos _), (by decide), (Nat.two_pow_pos _), b1, b0, (by decide), trivial⟩ rfl
  generalize pack [(1, w.toBits), (4, 0), (6, 26), (5, 0), (5, a.val), (5, d.val), (6, 1)] = wd at *
  refine decode_of wd hn.symm ?_ hw hl
  · rw [major_1 e26]; simp only [decodeAlu, e5, e0, e1, e11, e16, e21, reduceIte, ofNat_val, Width.ofBits_toBits]

theorem Sys2Proof.Laws.Roundtrip.popc (d : Reg) (a : Reg) (w : Width) : Statement (.popc d a w) := by
  intro _ hw
  have hn : ∀ x0 x1 x2 : Nat, pack [(1, x2), (4, 0), (6, 27), (5, 0), (5, x1), (5, x0), (6, 1)] = fields 0x04000360 [(x0, 21), (x1, 16), (x2, 0)] := by
    intros; simp only [pack_eq, packAt_cons, packAt_nil, Nat.reduceAdd, fields_cons, fields_nil]; omega
  replace hn := hn d.val a.val w.toBits
  have b0 := d.isLt
  have b1 := a.isLt
  have b2 := Width.toBits_lt w
  have e0 := bits_pack 1 w.toBits [(4, 0), (6, 27), (5, 0), (5, a.val), (5, d.val), (6, 1)] b2 0 0 [] trivial rfl rfl
  have e1 := bits_pack 4 0 [(6, 27), (5, 0), (5, a.val), (5, d.val), (6, 1)] (Nat.two_pow_pos _) 4 1 [(1, w.toBits)] ⟨b2, trivial⟩ rfl rfl
  have e5 := bits_pack 6 27 [(5, 0), (5, a.val), (5, d.val), (6, 1)] (by decide) 10 5 [(1, w.toBits), (4, 0)] ⟨b2, (Nat.two_pow_pos _), trivial⟩ rfl rfl
  have e11 := bits_pack 5 0 [(5, a.val), (5, d.val), (6, 1)] (Nat.two_pow_pos _) 15 11 [(1, w.toBits), (4, 0), (6, 27)] ⟨b2, (Nat.two_pow_pos _), (by decide), trivial⟩ rfl rfl
  have e16 := bits_pack 5 a.val [(5, d.val), (6, 1)] b1 20 16 [(1, w.toBits), (4, 0), (6, 27), (5, 0)] ⟨b2, (Nat.two_pow_pos _), (by decide), (Nat.two_pow_pos _), trivial⟩ rfl rfl
  have e21 := bits_pack 5 d.val [(6, 1)] b0 25 21 [(1, w.toBits), (4, 0), (6, 27), (5, 0), (5, a.val)] ⟨b2, (Nat.two_pow_pos _), (by decide), (Nat.two_pow_pos _), b1, trivial⟩ rfl rfl
  have e26 := bits_pack 6 1 [] (by decide) 31 26 [(1, w.toBits), (4, 0), (6, 27), (5, 0), (5, a.val), (5, d.val)] ⟨b2, (Nat.two_pow_pos _), (by decide), (Nat.two_pow_pos _), b1, b0, trivial⟩ rfl rfl
  simp only [List.nil_append, List.cons_append] at e0 e1 e5 e11 e16 e21 e26
  have hl : pack [(1, w.toBits), (4, 0), (6, 27), (5, 0), (5, a.val), (5, d.val), (6, 1)] < 2 ^ 32 := pack_lt [(1, w.toBits), (4, 0), (6, 27), (5, 0), (5, a.val), (5, d.val), (6, 1)] ⟨b2, (Nat.two_pow_pos _), (by decide), (Nat.two_pow_pos _), b1, b0, (by decide), trivial⟩ rfl
  generalize pack [(1, w.toBits), (4, 0), (6, 27), (5, 0), (5, a.val), (5, d.val), (6, 1)] = wd at *
  refine decode_of wd hn.symm ?_ hw hl
  · rw [major_1 e26]; simp only [decodeAlu, e5, e0, e1, e11, e16, e21, reduceIte, ofNat_val, Width.ofBits_toBits]

theorem Sys2Proof.Laws.Roundtrip.sext (d : Reg) (a : Reg) (e : ExtFrom) (w : Width) : Statement (.sext d a e w) := by
  intro _ hw
  have hn : ∀ x0 x1 x2 x3 : Nat, pack [(1, x3), (2, x2), (2, 0), (6, 28), (5, 0), (5, x1), (5, x0), (6, 1)] = fields 0x04000380 [(x0, 21), (x1, 16), (x2, 1), (x3, 0)] := by
    intros; simp only [pack_eq, packAt_cons, packAt_nil, Nat.reduceAdd, fields_cons, fields_nil]; omega
  replace hn := hn d.val a.val e.toBits w.toBits
  have b0 := d.isLt
  have b1 := a.isLt
  have b2 := ExtFrom.toBits_lt e
  have b3 := Width.toBits_lt w
  have e0 := bits_pack 1 w.toBits [(2, e.toBits), (2, 0), (6, 28), (5, 0), (5, a.val), (5, d.val), (6, 1)] b3 0 0 [] trivial rfl rfl
  have e1 := bits_pack 2 e.toBits [(2, 0), (6, 28), (5, 0), (5, a.val), (5, d.val), (6, 1)] b2 2 1 [(1, w.toBits)] ⟨b3, trivial⟩ rfl rfl
  have e3 := bits_pack 2 0 [(6, 28), (5, 0), (5, a.val), (5, d.val), (6, 1)] (Nat.two_pow_pos _) 4 3 [(1, w.toBits), (2, e.toBits)] ⟨b3, b2, trivial⟩ rfl rfl
  have e5 := bits_pack 6 28 [(5, 0), (5, a.val), (5, d.val), (6, 1)] (by decide) 10 5 [(1, w.toBits), (2, e.toBits), (2, 0)] ⟨b3, b2, (Nat.two_pow_pos _), trivial⟩ rfl rfl
  have e11 := bits_pack 5 0 [(5, a.val), (5, d.val), (6, 1)] (Nat.two_pow_pos _) 15 11 [(1, w.toBits), (2, e.toBits), (2, 0), (6, 28)] ⟨b3, b2, (Nat.two_pow_pos _), (by decide), trivial⟩ rfl rfl
  have e16 := bits_pack 5 a.val [(5, d.val), (6, 1)] b1 20 16 [(1, w.toBits), (2, e.toBits), (2, 0), (6, 28), (5, 0)] ⟨b3, b2, (Nat.two_pow_pos _), (by decide), (Nat.two_pow_pos _), trivial⟩ rfl rfl
  have e21 := bits_pack 5 d.val [(6, 1)] b0 25 21 [(1, w.toBits), (2, e.toBits), (2, 0), (6, 28), (5, 0), (5, a.val)] ⟨b3, b2, (Nat.two_pow_pos _), (by decide), (Nat.two_pow_pos _), b1, trivial⟩ rfl rfl
  have e26 := bits_pack 6 1 [] (by decide) 31 26 [(1, w.toBits), (2, e.toBits), (2, 0), (6, 28), (5, 0), (5, a.val), (5, d.val)] ⟨b3, b2, (Nat.two_pow_pos _), (by decide), (Nat.two_pow_pos _), b1, b0, trivial⟩ rfl rfl
  simp only [List.nil_append, List.cons_append] at e0 e1 e3 e5 e11 e16 e21 e26
  have hl : pack [(1, w.toBits), (2, e.toBits), (2, 0), (6, 28), (5, 0), (5, a.val), (5, d.val), (6, 1)] < 2 ^ 32 := pack_lt [(1, w.toBits), (2, e.toBits), (2, 0), (6, 28), (5, 0), (5, a.val), (5, d.val), (6, 1)] ⟨b3, b2, (Nat.two_pow_pos _), (by decide), (Nat.two_pow_pos _), b1, b0, (by decide), trivial⟩ rfl
  generalize pack [(1, w.toBits), (2, e.toBits), (2, 0), (6, 28), (5, 0), (5, a.val), (5, d.val), (6, 1)] = wd at *
  refine decode_of wd hn.symm ?_ hw hl
  · rw [major_1 e26]; simp only [decodeAlu, e5, e0, e1, e3, e11, e16, e21, reduceIte, ofNat_val, ExtFrom.ofBits?_toBits, Width.ofBits_toBits]

theorem Sys2Proof.Laws.Roundtrip.zext (d : Reg) (a : Reg) (e : ExtFrom) (w : Width) : Statement (.zext d a e w) := by
  intro _ hw
  have hn : ∀ x0 x1 x2 x3 : Nat, pack [(1, x3), (2, x2), (2, 0), (6, 29), (5, 0), (5, x1), (5, x0), (6, 1)] = fields 0x040003A0 [(x0, 21), (x1, 16), (x2, 1), (x3, 0)] := by
    intros; simp only [pack_eq, packAt_cons, packAt_nil, Nat.reduceAdd, fields_cons, fields_nil]; omega
  replace hn := hn d.val a.val e.toBits w.toBits
  have b0 := d.isLt
  have b1 := a.isLt
  have b2 := ExtFrom.toBits_lt e
  have b3 := Width.toBits_lt w
  have e0 := bits_pack 1 w.toBits [(2, e.toBits), (2, 0), (6, 29), (5, 0), (5, a.val), (5, d.val), (6, 1)] b3 0 0 [] trivial rfl rfl
  have e1 := bits_pack 2 e.toBits [(2, 0), (6, 29), (5, 0), (5, a.val), (5, d.val), (6, 1)] b2 2 1 [(1, w.toBits)] ⟨b3, trivial⟩ rfl rfl
  have e3 := bits_pack 2 0 [(6, 29), (5, 0), (5, a.val), (5, d.val), (6, 1)] (Nat.two_pow_pos _) 4 3 [(1, w.toBits), (2, e.toBits)] ⟨b3, b2, trivial⟩ rfl rfl
  have e5 := bits_pack 6 29 [(5, 0), (5, a.val), (5, d.val), (6, 1)] (by decide) 10 5 [(1, w.toBits), (2, e.toBits), (2, 0)] ⟨b3, b2, (Nat.two_pow_pos _), trivial⟩ rfl rfl
  have e11 := bits_pack 5 0 [(5, a.val), (5, d.val), (6, 1)] (Nat.two_pow_pos _) 15 11 [(1, w.toBits), (2, e.toBits), (2, 0), (6, 29)] ⟨b3, b2, (Nat.two_pow_pos _), (by decide), trivial⟩ rfl rfl
  have e16 := bits_pack 5 a.val [(5, d.val), (6, 1)] b1 20 16 [(1, w.toBits), (2, e.toBits), (2, 0), (6, 29), (5, 0)] ⟨b3, b2, (Nat.two_pow_pos _), (by decide), (Nat.two_pow_pos _), trivial⟩ rfl rfl
  have e21 := bits_pack 5 d.val [(6, 1)] b0 25 21 [(1, w.toBits), (2, e.toBits), (2, 0), (6, 29), (5, 0), (5, a.val)] ⟨b3, b2, (Nat.two_pow_pos _), (by decide), (Nat.two_pow_pos _), b1, trivial⟩ rfl rfl
  have e26 := bits_pack 6 1 [] (by decide) 31 26 [(1, w.toBits), (2, e.toBits), (2, 0), (6, 29), (5, 0), (5, a.val), (5, d.val)] ⟨b3, b2, (Nat.two_pow_pos _), (by decide), (Nat.two_pow_pos _), b1, b0, trivial⟩ rfl rfl
  simp only [List.nil_append, List.cons_append] at e0 e1 e3 e5 e11 e16 e21 e26
  have hl : pack [(1, w.toBits), (2, e.toBits), (2, 0), (6, 29), (5, 0), (5, a.val), (5, d.val), (6, 1)] < 2 ^ 32 := pack_lt [(1, w.toBits), (2, e.toBits), (2, 0), (6, 29), (5, 0), (5, a.val), (5, d.val), (6, 1)] ⟨b3, b2, (Nat.two_pow_pos _), (by decide), (Nat.two_pow_pos _), b1, b0, (by decide), trivial⟩ rfl
  generalize pack [(1, w.toBits), (2, e.toBits), (2, 0), (6, 29), (5, 0), (5, a.val), (5, d.val), (6, 1)] = wd at *
  refine decode_of wd hn.symm ?_ hw hl
  · rw [major_1 e26]; simp only [decodeAlu, e5, e0, e1, e3, e11, e16, e21, reduceIte, ofNat_val, ExtFrom.ofBits?_toBits, Width.ofBits_toBits]

theorem Sys2Proof.Laws.Roundtrip.bswp (d : Reg) (a : Reg) (w : Width) : Statement (.bswp d a w) := by
  intro _ hw
  have hn : ∀ x0 x1 x2 : Nat, pack [(1, x2), (4, 0), (6, 30), (5, 0), (5, x1), (5, x0), (6, 1)] = fields 0x040003C0 [(x0, 21), (x1, 16), (x2, 0)] := by
    intros; simp only [pack_eq, packAt_cons, packAt_nil, Nat.reduceAdd, fields_cons, fields_nil]; omega
  replace hn := hn d.val a.val w.toBits
  have b0 := d.isLt
  have b1 := a.isLt
  have b2 := Width.toBits_lt w
  have e0 := bits_pack 1 w.toBits [(4, 0), (6, 30), (5, 0), (5, a.val), (5, d.val), (6, 1)] b2 0 0 [] trivial rfl rfl
  have e1 := bits_pack 4 0 [(6, 30), (5, 0), (5, a.val), (5, d.val), (6, 1)] (Nat.two_pow_pos _) 4 1 [(1, w.toBits)] ⟨b2, trivial⟩ rfl rfl
  have e5 := bits_pack 6 30 [(5, 0), (5, a.val), (5, d.val), (6, 1)] (by decide) 10 5 [(1, w.toBits), (4, 0)] ⟨b2, (Nat.two_pow_pos _), trivial⟩ rfl rfl
  have e11 := bits_pack 5 0 [(5, a.val), (5, d.val), (6, 1)] (Nat.two_pow_pos _) 15 11 [(1, w.toBits), (4, 0), (6, 30)] ⟨b2, (Nat.two_pow_pos _), (by decide), trivial⟩ rfl rfl
  have e16 := bits_pack 5 a.val [(5, d.val), (6, 1)] b1 20 16 [(1, w.toBits), (4, 0), (6, 30), (5, 0)] ⟨b2, (Nat.two_pow_pos _), (by decide), (Nat.two_pow_pos _), trivial⟩ rfl rfl
  have e21 := bits_pack 5 d.val [(6, 1)] b0 25 21 [(1, w.toBits), (4, 0), (6, 30), (5, 0), (5, a.val)] ⟨b2, (Nat.two_pow_pos _), (by decide), (Nat.two_pow_pos _), b1, trivial⟩ rfl rfl
  have e26 := bits_pack 6 1 [] (by decide) 31 26 [(1, w.toBits), (4, 0), (6, 30), (5, 0), (5, a.val), (5, d.val)] ⟨b2, (Nat.two_pow_pos _), (by decide), (Nat.two_pow_pos _), b1, b0, trivial⟩ rfl rfl
  simp only [List.nil_append, List.cons_append] at e0 e1 e5 e11 e16 e21 e26
  have hl : pack [(1, w.toBits), (4, 0), (6, 30), (5, 0), (5, a.val), (5, d.val), (6, 1)] < 2 ^ 32 := pack_lt [(1, w.toBits), (4, 0), (6, 30), (5, 0), (5, a.val), (5, d.val), (6, 1)] ⟨b2, (Nat.two_pow_pos _), (by decide), (Nat.two_pow_pos _), b1, b0, (by decide), trivial⟩ rfl
  generalize pack [(1, w.toBits), (4, 0), (6, 30), (5, 0), (5, a.val), (5, d.val), (6, 1)] = wd at *
  refine decode_of wd hn.symm ?_ hw hl
  · rw [major_1 e26]; simp only [decodeAlu, e5, e0, e1, e11, e16, e21, reduceIte, ofNat_val, Width.ofBits_toBits]

theorem Sys2Proof.Laws.Roundtrip.addK (d : Reg) (a : Reg) (k : Fin 256) (w : Width) : Statement (.addK d a k w) := by
  intro _ hw
  have hn : ∀ x0 x1 x2 x3 : Nat, pack [(6, 0), (1, x3), (1, 0), (8, x2), (5, x1), (5, x0), (6, 2)] = fields 0x08000000 [(x0, 21), (x1, 16), (x2, 8), (x3, 6)] := by
    intros; simp only [pack_eq, packAt_cons, packAt_nil, Nat.reduceAdd, fields_cons, fields_nil]; omega
  replace hn := hn d.val a.val k.val w.toBits
  have b0 := d.isLt
  have b1 := a.isLt
  have b2 := k.isLt
  have b3 := Width.toBits_lt w
  have e0 := bits_pack 6 0 [(1, w.toBits), (1, 0), (8, k.val), (5, a.val), (5, d.val), (6, 2)] (Nat.two_pow_pos _) 5 0 [] trivial rfl rfl
  have e6 := bits_pack 1 w.toBits [(1, 0), (8, k.val), (5, a.val), (5, d.val), (6, 2)] b3 6 6 [(6, 0)] ⟨(Nat.two_pow_pos _), trivial⟩ rfl rfl
  have e7 := bits_pack 1 0 [(8, k.val), (5, a.val), (5, d.val), (6, 2)] (Nat.two_pow_pos _) 7 7 [(6, 0), (1, w.toBits)] ⟨(Nat.two_pow_pos _), b3, trivial⟩ rfl rfl
  have e8 := bits_pack 8 k.val [(5, a.val), (5, d.val), (6, 2)] b2 15 8 [(6, 0), (1, w.toBits), (1, 0)] ⟨(Nat.two_pow_pos _), b3, (Nat.two_pow_pos _), trivial⟩ rfl rfl
  have e16 := bits_pack 5 a.val [(5, d.val), (6, 2)] b1 20 16 [(6, 0), (1, w.toBits), (1, 0), (8, k.val)] ⟨(Nat.two_pow_pos _), b3, (Nat.two_pow_pos _), b2, trivial⟩ rfl rfl
  have e21 := bits_pack 5 d.val [(6, 2)] b0 25 21 [(6, 0), (1, w.toBits), (1, 0), (8, k.val), (5, a.val)] ⟨(Nat.two_pow_pos _), b3, (Nat.two_pow_pos _), b2, b1, trivial⟩ rfl rfl
  have e26 := bits_pack 6 2 [] (by decide) 31 26 [(6, 0), (1, w.toBits), (1, 0), (8, k.val), (5, a.val), (5, d.val)] ⟨(Nat.two_pow_pos _), b3, (Nat.two_pow_pos _), b2, b1, b0, trivial⟩ rfl rfl
  simp only [List.nil_append, List.cons_append] at e0 e6 e7 e8 e16 e21 e26
  have hl : pack [(6, 0), (1, w.toBits), (1, 0), (8, k.val), (5, a.val), (5, d.val), (6, 2)] < 2 ^ 32 := pack_lt [(6, 0), (1, w.toBits), (1, 0), (8, k.val), (5, a.val), (5, d.val), (6, 2)] ⟨(Nat.two_pow_pos _), b3, (Nat.two_pow_pos _), b2, b1, b0, (by decide), trivial⟩ rfl
  generalize pack [(6, 0), (1, w.toBits), (1, 0), (8, k.val), (5, a.val), (5, d.val), (6, 2)] = wd at *
  refine decode_of wd hn.symm ?_ hw hl
  · rw [major_2 e26]; simp only [decodeAluK, e0, e6, e7, e8, e16, e21, reduceIte, ofNat_val, Width.ofBits_toBits]

theorem Sys2Proof.Laws.Roundtrip.subK (d : Reg) (a : Reg) (k : Fin 256) (w : Width) : Statement (.subK d a k w) := by
  intro _ hw
  have hn : ∀ x0 x1 x2 x3 : Nat, pack [(6, 1), (1, x3), (1, 0), (8, x2), (5, x1), (5, x0), (6, 2)] = fields 0x08000001 [(x0, 21), (x1, 16), (x2, 8), (x3, 6)] := by
    intros; simp only [pack_eq, packAt_cons, packAt_nil, Nat.reduceAdd, fields_cons, fields_nil]; omega
  replace hn := hn d.val a.val k.val w.toBits
  have b0 := d.isLt
  have b1 := a.isLt
  have b2 := k.isLt
  have b3 := Width.toBits_lt w
  have e0 := bits_pack 6 1 [(1, w.toBits), (1, 0), (8, k.val), (5, a.val), (5, d.val), (6, 2)] (by decide) 5 0 [] trivial rfl rfl
  have e6 := bits_pack 1 w.toBits [(1, 0), (8, k.val), (5, a.val), (5, d.val), (6, 2)] b3 6 6 [(6, 1)] ⟨(by decide), trivial⟩ rfl rfl
  have e7 := bits_pack 1 0 [(8, k.val), (5, a.val), (5, d.val), (6, 2)] (Nat.two_pow_pos _) 7 7 [(6, 1), (1, w.toBits)] ⟨(by decide), b3, trivial⟩ rfl rfl
  have e8 := bits_pack 8 k.val [(5, a.val), (5, d.val), (6, 2)] b2 15 8 [(6, 1), (1, w.toBits), (1, 0)] ⟨(by decide), b3, (Nat.two_pow_pos _), trivial⟩ rfl rfl
  have e16 := bits_pack 5 a.val [(5, d.val), (6, 2)] b1 20 16 [(6, 1), (1, w.toBits), (1, 0), (8, k.val)] ⟨(by decide), b3, (Nat.two_pow_pos _), b2, trivial⟩ rfl rfl
  have e21 := bits_pack 5 d.val [(6, 2)] b0 25 21 [(6, 1), (1, w.toBits), (1, 0), (8, k.val), (5, a.val)] ⟨(by decide), b3, (Nat.two_pow_pos _), b2, b1, trivial⟩ rfl rfl
  have e26 := bits_pack 6 2 [] (by decide) 31 26 [(6, 1), (1, w.toBits), (1, 0), (8, k.val), (5, a.val), (5, d.val)] ⟨(by decide), b3, (Nat.two_pow_pos _), b2, b1, b0, trivial⟩ rfl rfl
  simp only [List.nil_append, List.cons_append] at e0 e6 e7 e8 e16 e21 e26
  have hl : pack [(6, 1), (1, w.toBits), (1, 0), (8, k.val), (5, a.val), (5, d.val), (6, 2)] < 2 ^ 32 := pack_lt [(6, 1), (1, w.toBits), (1, 0), (8, k.val), (5, a.val), (5, d.val), (6, 2)] ⟨(by decide), b3, (Nat.two_pow_pos _), b2, b1, b0, (by decide), trivial⟩ rfl
  generalize pack [(6, 1), (1, w.toBits), (1, 0), (8, k.val), (5, a.val), (5, d.val), (6, 2)] = wd at *
  refine decode_of wd hn.symm ?_ hw hl
  · rw [major_2 e26]; simp only [decodeAluK, e0, e6, e7, e8, e16, e21, reduceIte, ofNat_val, Width.ofBits_toBits]

theorem Sys2Proof.Laws.Roundtrip.mulK (d : Reg) (a : Reg) (k : Fin 256) (w : Width) : Statement (.mulK d a k w) := by
  intro _ hw
  have hn : ∀ x0 x1 x2 x3 : Nat, pack [(6, 2), (1, x3), (1, 0), (8, x2), (5, x1), (5, x0), (6, 2)] = fields 0x08000002 [(x0, 21), (x1, 16), (x2, 8), (x3, 6)] := by
    intros; simp only [pack_eq, packAt_cons, packAt_nil, Nat.reduceAdd, fields_cons, fields_nil]; omega
  replace hn := hn d.val a.val k.val w.toBits
  have b0 := d.isLt
  have b1 := a.isLt
  have b2 := k.isLt
  have b3 := Width.toBits_lt w
  have e0 := bits_pack 6 2 [(1, w.toBits), (1, 0), (8, k.val), (5, a.val), (5, d.val), (6, 2)] (by decide) 5 0 [] trivial rfl rfl
  have e6 := bits_pack 1 w.toBits [(1, 0), (8, k.val), (5, a.val), (5, d.val), (6, 2)] b3 6 6 [(6, 2)] ⟨(by decide), trivial⟩ rfl rfl
  have e7 := bits_pack 1 0 [(8, k.val), (5, a.val), (5, d.val), (6, 2)] (Nat.two_pow_pos _) 7 7 [(6, 2), (1, w.toBits)] ⟨(by decide), b3, trivial⟩ rfl rfl
  have e8 := bits_pack 8 k.val [(5, a.val), (5, d.val), (6, 2)] b2 15 8 [(6, 2), (1, w.toBits), (1, 0)] ⟨(by decide), b3, (Nat.two_pow_pos _), trivial⟩ rfl rfl
  have e16 := bits_pack 5 a.val [(5, d.val), (6, 2)] b1 20 16 [(6, 2), (1, w.toBits), (1, 0), (8, k.val)] ⟨(by decide), b3, (Nat.two_pow_pos _), b2, trivial⟩ rfl rfl
  have e21 := bits_pack 5 d.val [(6, 2)] b0 25 21 [(6, 2), (1, w.toBits), (1, 0), (8, k.val), (5, a.val)] ⟨(by decide), b3, (Nat.two_pow_pos _), b2, b1, trivial⟩ rfl rfl
  have e26 := bits_pack 6 2 [] (by decide) 31 26 [(6, 2), (1, w.toBits), (1, 0), (8, k.val), (5, a.val), (5, d.val)] ⟨(by decide), b3, (Nat.two_pow_pos _), b2, b1, b0, trivial⟩ rfl rfl
  simp only [List.nil_append, List.cons_append] at e0 e6 e7 e8 e16 e21 e26
  have hl : pack [(6, 2), (1, w.toBits), (1, 0), (8, k.val), (5, a.val), (5, d.val), (6, 2)] < 2 ^ 32 := pack_lt [(6, 2), (1, w.toBits), (1, 0), (8, k.val), (5, a.val), (5, d.val), (6, 2)] ⟨(by decide), b3, (Nat.two_pow_pos _), b2, b1, b0, (by decide), trivial⟩ rfl
  generalize pack [(6, 2), (1, w.toBits), (1, 0), (8, k.val), (5, a.val), (5, d.val), (6, 2)] = wd at *
  refine decode_of wd hn.symm ?_ hw hl
  · rw [major_2 e26]; simp only [decodeAluK, e0, e6, e7, e8, e16, e21, reduceIte, ofNat_val, Width.ofBits_toBits]

theorem Sys2Proof.Laws.Roundtrip.mulhsK (d : Reg) (a : Reg) (k : Fin 256) (w : Width) : Statement (.mulhsK d a k w) := by
  intro _ hw
  have hn : ∀ x0 x1 x2 x3 : Nat, pack [(6, 3), (1, x3), (1, 0), (8, x2), (5, x1), (5, x0), (6, 2)] = fields 0x08000003 [(x0, 21), (x1, 16), (x2, 8), (x3, 6)] := by
    intros; simp only [pack_eq, packAt_cons, packAt_nil, Nat.reduceAdd, fields_cons, fields_nil]; omega
  replace hn := hn d.val a.val k.val w.toBits
  have b0 := d.isLt
  have b1 := a.isLt
  have b2 := k.isLt
  have b3 := Width.toBits_lt w
  have e0 := bits_pack 6 3 [(1, w.toBits), (1, 0), (8, k.val), (5, a.val), (5, d.val), (6, 2)] (by decide) 5 0 [] trivial rfl rfl
  have e6 := bits_pack 1 w.toBits [(1, 0), (8, k.val), (5, a.val), (5, d.val), (6, 2)] b3 6 6 [(6, 3)] ⟨(by decide), trivial⟩ rfl rfl
  have e7 := bits_pack 1 0 [(8, k.val), (5, a.val), (5, d.val), (6, 2)] (Nat.two_pow_pos _) 7 7 [(6, 3), (1, w.toBits)] ⟨(by decide), b3, trivial⟩ rfl rfl
  have e8 := bits_pack 8 k.val [(5, a.val), (5, d.val), (6, 2)] b2 15 8 [(6, 3), (1, w.toBits), (1, 0)] ⟨(by decide), b3, (Nat.two_pow_pos _), trivial⟩ rfl rfl
  have e16 := bits_pack 5 a.val [(5, d.val), (6, 2)] b1 20 16 [(6, 3), (1, w.toBits), (1, 0), (8, k.val)] ⟨(by decide), b3, (Nat.two_pow_pos _), b2, trivial⟩ rfl rfl
  have e21 := bits_pack 5 d.val [(6, 2)] b0 25 21 [(6, 3), (1, w.toBits), (1, 0), (8, k.val), (5, a.val)] ⟨(by decide), b3, (Nat.two_pow_pos _), b2, b1, trivial⟩ rfl rfl
  have e26 := bits_pack 6 2 [] (by decide) 31 26 [(6, 3), (1, w.toBits), (1, 0), (8, k.val), (5, a.val), (5, d.val)] ⟨(by decide), b3, (Nat.two_pow_pos _), b2, b1, b0, trivial⟩ rfl rfl
  simp only [List.nil_append, List.cons_append] at e0 e6 e7 e8 e16 e21 e26
  have hl : pack [(6, 3), (1, w.toBits), (1, 0), (8, k.val), (5, a.val), (5, d.val), (6, 2)] < 2 ^ 32 := pack_lt [(6, 3), (1, w.toBits), (1, 0), (8, k.val), (5, a.val), (5, d.val), (6, 2)] ⟨(by decide), b3, (Nat.two_pow_pos _), b2, b1, b0, (by decide), trivial⟩ rfl
  generalize pack [(6, 3), (1, w.toBits), (1, 0), (8, k.val), (5, a.val), (5, d.val), (6, 2)] = wd at *
  refine decode_of wd hn.symm ?_ hw hl
  · rw [major_2 e26]; simp only [decodeAluK, e0, e6, e7, e8, e16, e21, reduceIte, ofNat_val, Width.ofBits_toBits]

theorem Sys2Proof.Laws.Roundtrip.mulhzK (d : Reg) (a : Reg) (k : Fin 256) (w : Width) : Statement (.mulhzK d a k w) := by
  intro _ hw
  have hn : ∀ x0 x1 x2 x3 : Nat, pack [(6, 4), (1, x3), (1, 0), (8, x2), (5, x1), (5, x0), (6, 2)] = fields 0x08000004 [(x0, 21), (x1, 16), (x2, 8), (x3, 6)] := by
    intros; simp only [pack_eq, packAt_cons, packAt_nil, Nat.reduceAdd, fields_cons, fields_nil]; omega
  replace hn := hn d.val a.val k.val w.toBits
  have b0 := d.isLt
  have b1 := a.isLt
  have b2 := k.isLt
  have b3 := Width.toBits_lt w
  have e0 := bits_pack 6 4 [(1, w.toBits), (1, 0), (8, k.val), (5, a.val), (5, d.val), (6, 2)] (by decide) 5 0 [] trivial rfl rfl
  have e6 := bits_pack 1 w.toBits [(1, 0), (8, k.val), (5, a.val), (5, d.val), (6, 2)] b3 6 6 [(6, 4)] ⟨(by decide), trivial⟩ rfl rfl
  have e7 := bits_pack 1 0 [(8, k.val), (5, a.val), (5, d.val), (6, 2)] (Nat.two_pow_pos _) 7 7 [(6, 4), (1, w.toBits)] ⟨(by decide), b3, trivial⟩ rfl rfl
  have e8 := bits_pack 8 k.val [(5, a.val), (5, d.val), (6, 2)] b2 15 8 [(6, 4), (1, w.toBits), (1, 0)] ⟨(by decide), b3, (Nat.two_pow_pos _), trivial⟩ rfl rfl
  have e16 := bits_pack 5 a.val [(5, d.val), (6, 2)] b1 20 16 [(6, 4), (1, w.toBits), (1, 0), (8, k.val)] ⟨(by decide), b3, (Nat.two_pow_pos _), b2, trivial⟩ rfl rfl
  have e21 := bits_pack 5 d.val [(6, 2)] b0 25 21 [(6, 4), (1, w.toBits), (1, 0), (8, k.val), (5, a.val)] ⟨(by decide), b3, (Nat.two_pow_pos _), b2, b1, trivial⟩ rfl rfl
  have e26 := bits_pack 6 2 [] (by decide) 31 26 [(6, 4), (1, w.toBits), (1, 0), (8, k.val), (5, a.val), (5, d.val)] ⟨(by decide), b3, (Nat.two_pow_pos _), b2, b1, b0, trivial⟩ rfl rfl
  simp only [List.nil_append, List.cons_append] at e0 e6 e7 e8 e16 e21 e26
  have hl : pack [(6, 4), (1, w.toBits), (1, 0), (8, k.val), (5, a.val), (5, d.val), (6, 2)] < 2 ^ 32 := pack_lt [(6, 4), (1, w.toBits), (1, 0), (8, k.val), (5, a.val), (5, d.val), (6, 2)] ⟨(by decide), b3, (Nat.two_pow_pos _), b2, b1, b0, (by decide), trivial⟩ rfl
  generalize pack [(6, 4), (1, w.toBits), (1, 0), (8, k.val), (5, a.val), (5, d.val), (6, 2)] = wd at *
  refine decode_of wd hn.symm ?_ hw hl
  · rw [major_2 e26]; simp only [decodeAluK, e0, e6, e7, e8, e16, e21, reduceIte, ofNat_val, Width.ofBits_toBits]

theorem Sys2Proof.Laws.Roundtrip.divsK (d : Reg) (a : Reg) (k : Fin 256) (w : Width) : Statement (.divsK d a k w) := by
  intro _ hw
  have hn : ∀ x0 x1 x2 x3 : Nat, pack [(6, 5), (1, x3), (1, 0), (8, x2), (5, x1), (5, x0), (6, 2)] = fields 0x08000005 [(x0, 21), (x1, 16), (x2, 8), (x3, 6)] := by
    intros; simp only [pack_eq, packAt_cons, packAt_nil, Nat.reduceAdd, fields_cons, fields_nil]; omega
  replace hn := hn d.val a.val k.val w.toBits
  have b0 := d.isLt
  have b1 := a.isLt
  have b2 := k.isLt
  have b3 := Width.toBits_lt w
  have e0 := bits_pack 6 5 [(1, w.toBits), (1, 0), (8, k.val), (5, a.val), (5, d.val), (6, 2)] (by decide) 5 0 [] trivial rfl rfl
  have e6 := bits_pack 1 w.toBits [(1, 0), (8, k.val), (5, a.val), (5, d.val), (6, 2)] b3 6 6 [(6, 5)] ⟨(by decide), trivial⟩ rfl rfl
  have e7 := bits_pack 1 0 [(8, k.val), (5, a.val), (5, d.val), (6, 2)] (Nat.two_pow_pos _) 7 7 [(6, 5), (1, w.toBits)] ⟨(by decide), b3, trivial⟩ rfl rfl
  have e8 := bits_pack 8 k.val [(5, a.val), (5, d.val), (6, 2)] b2 15 8 [(6, 5), (1, w.toBits), (1, 0)] ⟨(by decide), b3, (Nat.two_pow_pos _), trivial⟩ rfl rfl
  have e16 := bits_pack 5 a.val [(5, d.val), (6, 2)] b1 20 16 [(6, 5), (1, w.toBits), (1, 0), (8, k.val)] ⟨(by decide), b3, (Nat.two_pow_pos _), b2, trivial⟩ rfl rfl
  have e21 := bits_pack 5 d.val [(6, 2)] b0 25 21 [(6, 5), (1, w.toBits), (1, 0), (8, k.val), (5, a.val)] ⟨(by decide), b3, (Nat.two_pow_pos _), b2, b1, trivial⟩ rfl rfl
  have e26 := bits_pack 6 2 [] (by decide) 31 26 [(6, 5), (1, w.toBits), (1, 0), (8, k.val), (5, a.val), (5, d.val)] ⟨(by decide), b3, (Nat.two_pow_pos _), b2, b1, b0, trivial⟩ rfl rfl
  simp only [List.nil_append, List.cons_append] at e0 e6 e7 e8 e16 e21 e26
  have hl : pack [(6, 5), (1, w.toBits), (1, 0), (8, k.val), (5, a.val), (5, d.val), (6, 2)] < 2 ^ 32 := pack_lt [(6, 5), (1, w.toBits), (1, 0), (8, k.val), (5, a.val), (5, d.val), (6, 2)] ⟨(by decide), b3, (Nat.two_pow_pos _), b2, b1, b0, (by decide), trivial⟩ rfl
  generalize pack [(6, 5), (1, w.toBits), (1, 0), (8, k.val), (5, a.val), (5, d.val), (6, 2)] = wd at *
  refine decode_of wd hn.symm ?_ hw hl
  · rw [major_2 e26]; simp only [decodeAluK, e0, e6, e7, e8, e16, e21, reduceIte, ofNat_val, Width.ofBits_toBits]

theorem Sys2Proof.Laws.Roundtrip.divzK (d : Reg) (a : Reg) (k : Fin 256) (w : Width) : Statement (.divzK d a k w) := by
  intro _ hw
  have hn : ∀ x0 x1 x2 x3 : Nat, pack [(6, 6), (1, x3), (1, 0), (8, x2), (5, x1), (5, x0), (6, 2)] = fields 0x08000006 [(x0, 21), (x1, 16), (x2, 8), (x3, 6)] := by
    intros; simp only [pack_eq, packAt_cons, packAt_nil, Nat.reduceAdd, fields_cons, fields_nil]; omega
  replace hn := hn d.val a.val k.val w.toBits
  have b0 := d.isLt
  have b1 := a.isLt
  have b2 := k.isLt
  have b3 := Width.toBits_lt w
  have e0 := bits_pack 6 6 [(1, w.toBits), (1, 0), (8, k.val), (5, a.val), (5, d.val), (6, 2)] (by decide) 5 0 [] trivial rfl rfl
  have e6 := bits_pack 1 w.toBits [(1, 0), (8, k.val), (5, a.val), (5, d.val), (6, 2)] b3 6 6 [(6, 6)] ⟨(by decide), trivial⟩ rfl rfl
  have e7 := bits_pack 1 0 [(8, k.val), (5, a.val), (5, d.val), (6, 2)] (Nat.two_pow_pos _) 7 7 [(6, 6), (1, w.toBits)] ⟨(by decide), b3, trivial⟩ rfl rfl
  have e8 := bits_pack 8 k.val [(5, a.val), (5, d.val), (6, 2)] b2 15 8 [(6, 6), (1, w.toBits), (1, 0)] ⟨(by decide), b3, (Nat.two_pow_pos _), trivial⟩ rfl rfl
  have e16 := bits_pack 5 a.val [(5, d.val), (6, 2)] b1 20 16 [(6, 6), (1, w.toBits), (1, 0), (8, k.val)] ⟨(by decide), b3, (Nat.two_pow_pos _), b2, trivial⟩ rfl rfl
  have e21 := bits_pack 5 d.val [(6, 2)] b0 25 21 [(6, 6), (1, w.toBits), (1, 0), (8, k.val), (5, a.val)] ⟨(by decide), b3, (Nat.two_pow_pos _), b2, b1, trivial⟩ rfl rfl
  have e26 := bits_pack 6 2 [] (by decide) 31 26 [(6, 6), (1, w.toBits), (1, 0), (8, k.val), (5, a.val), (5, d.val)] ⟨(by decide), b3, (Nat.two_pow_pos _), b2, b1, b0, trivial⟩ rfl rfl
  simp only [List.nil_append, List.cons_append] at e0 e6 e7 e8 e16 e21 e26
  have hl : pack [(6, 6), (1, w.toBits), (1, 0), (8, k.val), (5, a.val), (5, d.val), (6, 2)] < 2 ^ 32 := pack_lt [(6, 6), (1, w.toBits), (1, 0), (8, k.val), (5, a.val), (5, d.val), (6, 2)] ⟨(by decide), b3, (Nat.two_pow_pos _), b2, b1, b0, (by decide), trivial⟩ rfl
  generalize pack [(6, 6), (1, w.toBits), (1, 0), (8, k.val), (5, a.val), (5, d.val), (6, 2)] = wd at *
  refine decode_of wd hn.symm ?_ hw hl
  · rw [major_2 e26]; simp only [decodeAluK, e0, e6, e7, e8, e16, e21, reduceIte, ofNat_val, Width.ofBits_toBits]

theorem Sys2Proof.Laws.Roundtrip.remsK (d : Reg) (a : Reg) (k : Fin 256) (w : Width) : Statement (.remsK d a k w) := by
  intro _ hw
  have hn : ∀ x0 x1 x2 x3 : Nat, pack [(6, 7), (1, x3), (1, 0), (8, x2), (5, x1), (5, x0), (6, 2)] = fields 0x08000007 [(x0, 21), (x1, 16), (x2, 8), (x3, 6)] := by
    intros; simp only [pack_eq, packAt_cons, packAt_nil, Nat.reduceAdd, fields_cons, fields_nil]; omega
  replace hn := hn d.val a.val k.val w.toBits
  have b0 := d.isLt
  have b1 := a.isLt
  have b2 := k.isLt
  have b3 := Width.toBits_lt w
  have e0 := bits_pack 6 7 [(1, w.toBits), (1, 0), (8, k.val), (5, a.val), (5, d.val), (6, 2)] (by decide) 5 0 [] trivial rfl rfl
  have e6 := bits_pack 1 w.toBits [(1, 0), (8, k.val), (5, a.val), (5, d.val), (6, 2)] b3 6 6 [(6, 7)] ⟨(by decide), trivial⟩ rfl rfl
  have e7 := bits_pack 1 0 [(8, k.val), (5, a.val), (5, d.val), (6, 2)] (Nat.two_pow_pos _) 7 7 [(6, 7), (1, w.toBits)] ⟨(by decide), b3, trivial⟩ rfl rfl
  have e8 := bits_pack 8 k.val [(5, a.val), (5, d.val), (6, 2)] b2 15 8 [(6, 7), (1, w.toBits), (1, 0)] ⟨(by decide), b3, (Nat.two_pow_pos _), trivial⟩ rfl rfl
  have e16 := bits_pack 5 a.val [(5, d.val), (6, 2)] b1 20 16 [(6, 7), (1, w.toBits), (1, 0), (8, k.val)] ⟨(by decide), b3, (Nat.two_pow_pos _), b2, trivial⟩ rfl rfl
  have e21 := bits_pack 5 d.val [(6, 2)] b0 25 21 [(6, 7), (1, w.toBits), (1, 0), (8, k.val), (5, a.val)] ⟨(by decide), b3, (Nat.two_pow_pos _), b2, b1, trivial⟩ rfl rfl
  have e26 := bits_pack 6 2 [] (by decide) 31 26 [(6, 7), (1, w.toBits), (1, 0), (8, k.val), (5, a.val), (5, d.val)] ⟨(by decide), b3, (Nat.two_pow_pos _), b2, b1, b0, trivial⟩ rfl rfl
  simp only [List.nil_append, List.cons_append] at e0 e6 e7 e8 e16 e21 e26
  have hl : pack [(6, 7), (1, w.toBits), (1, 0), (8, k.val), (5, a.val), (5, d.val), (6, 2)] < 2 ^ 32 := pack_lt [(6, 7), (1, w.toBits), (1, 0), (8, k.val), (5, a.val), (5, d.val), (6, 2)] ⟨(by decide), b3, (Nat.two_pow_pos _), b2, b1, b0, (by decide), trivial⟩ rfl
  generalize pack [(6, 7), (1, w.toBits), (1, 0), (8, k.val), (5, a.val), (5, d.val), (6, 2)] = wd at *
  refine decode_of wd hn.symm ?_ hw hl
  · rw [major_2 e26]; simp only [decodeAluK, e0, e6, e7, e8, e16, e21, reduceIte, ofNat_val, Width.ofBits_toBits]

theorem Sys2Proof.Laws.Roundtrip.remzK (d : Reg) (a : Reg) (k : Fin 256) (w : Width) : Statement (.remzK d a k w) := by
  intro _ hw
  have hn : ∀ x0 x1 x2 x3 : Nat, pack [(6, 8), (1, x3), (1, 0), (8, x2), (5, x1), (5, x0), (6, 2)] = fields 0x08000008 [(x0, 21), (x1, 16), (x2, 8), (x3, 6)] := by
    intros; simp only [pack_eq, packAt_cons, packAt_nil, Nat.reduceAdd, fields_cons, fields_nil]; omega
  replace hn := hn d.val a.val k.val w.toBits
  have b0 := d.isLt
  have b1 := a.isLt
  have b2 := k.isLt
  have b3 := Width.toBits_lt w
  have e0 := bits_pack 6 8 [(1, w.toBits), (1, 0), (8, k.val), (5, a.val), (5, d.val), (6, 2)] (by decide) 5 0 [] trivial rfl rfl
  have e6 := bits_pack 1 w.toBits [(1, 0), (8, k.val), (5, a.val), (5, d.val), (6, 2)] b3 6 6 [(6, 8)] ⟨(by decide), trivial⟩ rfl rfl
  have e7 := bits_pack 1 0 [(8, k.val), (5, a.val), (5, d.val), (6, 2)] (Nat.two_pow_pos _) 7 7 [(6, 8), (1, w.toBits)] ⟨(by decide), b3, trivial⟩ rfl rfl
  have e8 := bits_pack 8 k.val [(5, a.val), (5, d.val), (6, 2)] b2 15 8 [(6, 8), (1, w.toBits), (1, 0)] ⟨(by decide), b3, (Nat.two_pow_pos _), trivial⟩ rfl rfl
  have e16 := bits_pack 5 a.val [(5, d.val), (6, 2)] b1 20 16 [(6, 8), (1, w.toBits), (1, 0), (8, k.val)] ⟨(by decide), b3, (Nat.two_pow_pos _), b2, trivial⟩ rfl rfl
  have e21 := bits_pack 5 d.val [(6, 2)] b0 25 21 [(6, 8), (1, w.toBits), (1, 0), (8, k.val), (5, a.val)] ⟨(by decide), b3, (Nat.two_pow_pos _), b2, b1, trivial⟩ rfl rfl
  have e26 := bits_pack 6 2 [] (by decide) 31 26 [(6, 8), (1, w.toBits), (1, 0), (8, k.val), (5, a.val), (5, d.val)] ⟨(by decide), b3, (Nat.two_pow_pos _), b2, b1, b0, trivial⟩ rfl rfl
  simp only [List.nil_append, List.cons_append] at e0 e6 e7 e8 e16 e21 e26
  have hl : pack [(6, 8), (1, w.toBits), (1, 0), (8, k.val), (5, a.val), (5, d.val), (6, 2)] < 2 ^ 32 := pack_lt [(6, 8), (1, w.toBits), (1, 0), (8, k.val), (5, a.val), (5, d.val), (6, 2)] ⟨(by decide), b3, (Nat.two_pow_pos _), b2, b1, b0, (by decide), trivial⟩ rfl
  generalize pack [(6, 8), (1, w.toBits), (1, 0), (8, k.val), (5, a.val), (5, d.val), (6, 2)] = wd at *
  refine decode_of wd hn.symm ?_ hw hl
  · rw [major_2 e26]; simp only [decodeAluK, e0, e6, e7, e8, e16, e21, reduceIte, ofNat_val, Width.ofBits_toBits]

theorem Sys2Proof.Laws.Roundtrip.andK (d : Reg) (a : Reg) (k : Fin 256) (w : Width) : Statement (.andK d a k w) := by
  intro _ hw
  have hn : ∀ x0 x1 x2 x3 : Nat, pack [(6, 9), (1, x3), (1, 0), (8, x2), (5, x1), (5, x0), (6, 2)] = fields 0x08000009 [(x0, 21), (x1, 16), (x2, 8), (x3, 6)] := by
    intros; simp only [pack_eq, packAt_cons, packAt_nil, Nat.reduceAdd, fields_cons, fields_nil]; omega
  replace hn := hn d.val a.val k.val w.toBits
  have b0 := d.isLt
  have b1 := a.isLt
  have b2 := k.isLt
  have b3 := Width.toBits_lt w
  have e0 := bits_pack 6 9 [(1, w.toBits), (1, 0), (8, k.val), (5, a.val), (5, d.val), (6, 2)] (by decide) 5 0 [] trivial rfl rfl
  have e6 := bits_pack 1 w.toBits [(1, 0), (8, k.val), (5, a.val), (5, d.val), (6, 2)] b3 6 6 [(6, 9)] ⟨(by decide), trivial⟩ rfl rfl
  have e7 := bits_pack 1 0 [(8, k.val), (5, a.val), (5, d.val), (6, 2)] (Nat.two_pow_pos _) 7 7 [(6, 9), (1, w.toBits)] ⟨(by decide), b3, trivial⟩ rfl rfl
  have e8 := bits_pack 8 k.val [(5, a.val), (5, d.val), (6, 2)] b2 15 8 [(6, 9), (1, w.toBits), (1, 0)] ⟨(by decide), b3, (Nat.two_pow_pos _), trivial⟩ rfl rfl
  have e16 := bits_pack 5 a.val [(5, d.val), (6, 2)] b1 20 16 [(6, 9), (1, w.toBits), (1, 0), (8, k.val)] ⟨(by decide), b3, (Nat.two_pow_pos _), b2, trivial⟩ rfl rfl
  have e21 := bits_pack 5 d.val [(6, 2)] b0 25 21 [(6, 9), (1, w.toBits), (1, 0), (8, k.val), (5, a.val)] ⟨(by decide), b3, (Nat.two_pow_pos _), b2, b1, trivial⟩ rfl rfl
  have e26 := bits_pack 6 2 [] (by decide) 31 26 [(6, 9), (1, w.toBits), (1, 0), (8, k.val), (5, a.val), (5, d.val)] ⟨(by decide), b3, (Nat.two_pow_pos _), b2, b1, b0, trivial⟩ rfl rfl
  simp only [List.nil_append, List.cons_append] at e0 e6 e7 e8 e16 e21 e26
  have hl : pack [(6, 9), (1, w.toBits), (1, 0), (8, k.val), (5, a.val), (5, d.val), (6, 2)] < 2 ^ 32 := pack_lt [(6, 9), (1, w.toBits), (1, 0), (8, k.val), (5, a.val), (5, d.val), (6, 2)] ⟨(by decide), b3, (Nat.two_pow_pos _), b2, b1, b0, (by decide), trivial⟩ rfl
  generalize pack [(6, 9), (1, w.toBits), (1, 0), (8, k.val), (5, a.val), (5, d.val), (6, 2)] = wd at *
  refine decode_of wd hn.symm ?_ hw hl
  · rw [major_2 e26]; simp only [decodeAluK, e0, e6, e7, e8, e16, e21, reduceIte, ofNat_val, Width.ofBits_toBits]

theorem Sys2Proof.Laws.Roundtrip.orK (d : Reg) (a : Reg) (k : Fin 256) (w : Width) : Statement (.orK d a k w) := by
  intro _ hw
  have hn : ∀ x0 x1 x2 x3 : Nat, pack [(6, 10), (1, x3), (1, 0), (8, x2), (5, x1), (5, x0), (6, 2)] = fields 0x0800000A [(x0, 21), (x1, 16), (x2, 8), (x3, 6)] := by
    intros; simp only [pack_eq, packAt_cons, packAt_nil, Nat.reduceAdd, fields_cons, fields_nil]; omega
  replace hn := hn d.val a.val k.val w.toBits
  have b0 := d.isLt
  have b1 := a.isLt
  have b2 := k.isLt
  have b3 := Width.toBits_lt w
  have e0 := bits_pack 6 10 [(1, w.toBits), (1, 0), (8, k.val), (5, a.val), (5, d.val), (6, 2)] (by decide) 5 0 [] trivial rfl rfl
  have e6 := bits_pack 1 w.toBits [(1, 0), (8, k.val), (5, a.val), (5, d.val), (6, 2)] b3 6 6 [(6, 10)] ⟨(by decide), trivial⟩ rfl rfl
  have e7 := bits_pack 1 0 [(8, k.val), (5, a.val), (5, d.val), (6, 2)] (Nat.two_pow_pos _) 7 7 [(6, 10), (1, w.toBits)] ⟨(by decide), b3, trivial⟩ rfl rfl
  have e8 := bits_pack 8 k.val [(5, a.val), (5, d.val), (6, 2)] b2 15 8 [(6, 10), (1, w.toBits), (1, 0)] ⟨(by decide), b3, (Nat.two_pow_pos _), trivial⟩ rfl rfl
  have e16 := bits_pack 5 a.val [(5, d.val), (6, 2)] b1 20 16 [(6, 10), (1, w.toBits), (1, 0), (8, k.val)] ⟨(by decide), b3, (Nat.two_pow_pos _), b2, trivial⟩ rfl rfl
  have e21 := bits_pack 5 d.val [(6, 2)] b0 25 21 [(6, 10), (1, w.toBits), (1, 0), (8, k.val), (5, a.val)] ⟨(by decide), b3, (Nat.two_pow_pos _), b2, b1, trivial⟩ rfl rfl
  have e26 := bits_pack 6 2 [] (by decide) 31 26 [(6, 10), (1, w.toBits), (1, 0), (8, k.val), (5, a.val), (5, d.val)] ⟨(by decide), b3, (Nat.two_pow_pos _), b2, b1, b0, trivial⟩ rfl rfl
  simp only [List.nil_append, List.cons_append] at e0 e6 e7 e8 e16 e21 e26
  have hl : pack [(6, 10), (1, w.toBits), (1, 0), (8, k.val), (5, a.val), (5, d.val), (6, 2)] < 2 ^ 32 := pack_lt [(6, 10), (1, w.toBits), (1, 0), (8, k.val), (5, a.val), (5, d.val), (6, 2)] ⟨(by decide), b3, (Nat.two_pow_pos _), b2, b1, b0, (by decide), trivial⟩ rfl
  generalize pack [(6, 10), (1, w.toBits), (1, 0), (8, k.val), (5, a.val), (5, d.val), (6, 2)] = wd at *
  refine decode_of wd hn.symm ?_ hw hl
  · rw [major_2 e26]; simp only [decodeAluK, e0, e6, e7, e8, e16, e21, reduceIte, ofNat_val, Width.ofBits_toBits]

theorem Sys2Proof.Laws.Roundtrip.xorK (d : Reg) (a : Reg) (k : Fin 256) (w : Width) : Statement (.xorK d a k w) := by
  intro _ hw
  have hn : ∀ x0 x1 x2 x3 : Nat, pack [(6, 11), (1, x3), (1, 0), (8, x2), (5, x1), (5, x0), (6, 2)] = fields 0x0800000B [(x0, 21), (x1, 16), (x2, 8), (x3, 6)] := by
    intros; simp only [pack_eq, packAt_cons, packAt_nil, Nat.reduceAdd, fields_cons, fields_nil]; omega
  replace hn := hn d.val a.val k.val w.toBits
  have b0 := d.isLt
  have b1 := a.isLt
  have b2 := k.isLt
  have b3 := Width.toBits_lt w
  have e0 := bits_pack 6 11 [(1, w.toBits), (1, 0), (8, k.val), (5, a.val), (5, d.val), (6, 2)] (by decide) 5 0 [] trivial rfl rfl
  have e6 := bits_pack 1 w.toBits [(1, 0), (8, k.val), (5, a.val), (5, d.val), (6, 2)] b3 6 6 [(6, 11)] ⟨(by decide), trivial⟩ rfl rfl
  have e7 := bits_pack 1 0 [(8, k.val), (5, a.val), (5, d.val), (6, 2)] (Nat.two_pow_pos _) 7 7 [(6, 11), (1, w.toBits)] ⟨(by decide), b3, trivial⟩ rfl rfl
  have e8 := bits_pack 8 k.val [(5, a.val), (5, d.val), (6, 2)] b2 15 8 [(6, 11), (1, w.toBits), (1, 0)] ⟨(by decide), b3, (Nat.two_pow_pos _), trivial⟩ rfl rfl
  have e16 := bits_pack 5 a.val [(5, d.val), (6, 2)] b1 20 16 [(6, 11), (1, w.toBits), (1, 0), (8, k.val)] ⟨(by decide), b3, (Nat.two_pow_pos _), b2, trivial⟩ rfl rfl
  have e21 := bits_pack 5 d.val [(6, 2)] b0 25 21 [(6, 11), (1, w.toBits), (1, 0), (8, k.val), (5, a.val)] ⟨(by decide), b3, (Nat.two_pow_pos _), b2, b1, trivial⟩ rfl rfl
  have e26 := bits_pack 6 2 [] (by decide) 31 26 [(6, 11), (1, w.toBits), (1, 0), (8, k.val), (5, a.val), (5, d.val)] ⟨(by decide), b3, (Nat.two_pow_pos _), b2, b1, b0, trivial⟩ rfl rfl
  simp only [List.nil_append, List.cons_append] at e0 e6 e7 e8 e16 e21 e26
  have hl : pack [(6, 11), (1, w.toBits), (1, 0), (8, k.val), (5, a.val), (5, d.val), (6, 2)] < 2 ^ 32 := pack_lt [(6, 11), (1, w.toBits), (1, 0), (8, k.val), (5, a.val), (5, d.val), (6, 2)] ⟨(by decide), b3, (Nat.two_pow_pos _), b2, b1, b0, (by decide), trivial⟩ rfl
  generalize pack [(6, 11), (1, w.toBits), (1, 0), (8, k.val), (5, a.val), (5, d.val), (6, 2)] = wd at *
  refine decode_of wd hn.symm ?_ hw hl
  · rw [major_2 e26]; simp only [decodeAluK, e0, e6, e7, e8, e16, e21, reduceIte, ofNat_val, Width.ofBits_toBits]

theorem Sys2Proof.Laws.Roundtrip.andnK (d : Reg) (a : Reg) (k : Fin 256) (w : Width) : Statement (.andnK d a k w) := by
  intro _ hw
  have hn : ∀ x0 x1 x2 x3 : Nat, pack [(6, 12), (1, x3), (1, 0), (8, x2), (5, x1), (5, x0), (6, 2)] = fields 0x0800000C [(x0, 21), (x1, 16), (x2, 8), (x3, 6)] := by
    intros; simp only [pack_eq, packAt_cons, packAt_nil, Nat.reduceAdd, fields_cons, fields_nil]; omega
  replace hn := hn d.val a.val k.val w.toBits
  have b0 := d.isLt
  have b1 := a.isLt
  have b2 := k.isLt
  have b3 := Width.toBits_lt w
  have e0 := bits_pack 6 12 [(1, w.toBits), (1, 0), (8, k.val), (5, a.val), (5, d.val), (6, 2)] (by decide) 5 0 [] trivial rfl rfl
  have e6 := bits_pack 1 w.toBits [(1, 0), (8, k.val), (5, a.val), (5, d.val), (6, 2)] b3 6 6 [(6, 12)] ⟨(by decide), trivial⟩ rfl rfl
  have e7 := bits_pack 1 0 [(8, k.val), (5, a.val), (5, d.val), (6, 2)] (Nat.two_pow_pos _) 7 7 [(6, 12), (1, w.toBits)] ⟨(by decide), b3, trivial⟩ rfl rfl
  have e8 := bits_pack 8 k.val [(5, a.val), (5, d.val), (6, 2)] b2 15 8 [(6, 12), (1, w.toBits), (1, 0)] ⟨(by decide), b3, (Nat.two_pow_pos _), trivial⟩ rfl rfl
  have e16 := bits_pack 5 a.val [(5, d.val), (6, 2)] b1 20 16 [(6, 12), (1, w.toBits), (1, 0), (8, k.val)] ⟨(by decide), b3, (Nat.two_pow_pos _), b2, trivial⟩ rfl rfl
  have e21 := bits_pack 5 d.val [(6, 2)] b0 25 21 [(6, 12), (1, w.toBits), (1, 0), (8, k.val), (5, a.val)] ⟨(by decide), b3, (Nat.two_pow_pos _), b2, b1, trivial⟩ rfl rfl
  have e26 := bits_pack 6 2 [] (by decide) 31 26 [(6, 12), (1, w.toBits), (1, 0), (8, k.val), (5, a.val), (5, d.val)] ⟨(by decide), b3, (Nat.two_pow_pos _), b2, b1, b0, trivial⟩ rfl rfl
  simp only [List.nil_append, List.cons_append] at e0 e6 e7 e8 e16 e21 e26
  have hl : pack [(6, 12), (1, w.toBits), (1, 0), (8, k.val), (5, a.val), (5, d.val), (6, 2)] < 2 ^ 32 := pack_lt [(6, 12), (1, w.toBits), (1, 0), (8, k.val), (5, a.val), (5, d.val), (6, 2)] ⟨(by decide), b3, (Nat.two_pow_pos _), b2, b1, b0, (by decide), trivial⟩ rfl
  generalize pack [(6, 12), (1, w.toBits), (1, 0), (8, k.val), (5, a.val), (5, d.val), (6, 2)] = wd at *
  refine decode_of wd hn.symm ?_ hw hl
  · rw [major_2 e26]; simp only [decodeAluK, e0, e6, e7, e8, e16, e21, reduceIte, ofNat_val, Width.ofBits_toBits]

theorem Sys2Proof.Laws.Roundtrip.shlK (d : Reg) (a : Reg) (k : Fin 256) (w : Width) : Statement (.shlK d a k w) := by
  intro _ hw
  have hn : ∀ x0 x1 x2 x3 : Nat, pack [(6, 13), (1, x3), (1, 0), (8, x2), (5, x1), (5, x0), (6, 2)] = fields 0x0800000D [(x0, 21), (x1, 16), (x2, 8), (x3, 6)] := by
    intros; simp only [pack_eq, packAt_cons, packAt_nil, Nat.reduceAdd, fields_cons, fields_nil]; omega
  replace hn := hn d.val a.val k.val w.toBits
  have b0 := d.isLt
  have b1 := a.isLt
  have b2 := k.isLt
  have b3 := Width.toBits_lt w
  have e0 := bits_pack 6 13 [(1, w.toBits), (1, 0), (8, k.val), (5, a.val), (5, d.val), (6, 2)] (by decide) 5 0 [] trivial rfl rfl
  have e6 := bits_pack 1 w.toBits [(1, 0), (8, k.val), (5, a.val), (5, d.val), (6, 2)] b3 6 6 [(6, 13)] ⟨(by decide), trivial⟩ rfl rfl
  have e7 := bits_pack 1 0 [(8, k.val), (5, a.val), (5, d.val), (6, 2)] (Nat.two_pow_pos _) 7 7 [(6, 13), (1, w.toBits)] ⟨(by decide), b3, trivial⟩ rfl rfl
  have e8 := bits_pack 8 k.val [(5, a.val), (5, d.val), (6, 2)] b2 15 8 [(6, 13), (1, w.toBits), (1, 0)] ⟨(by decide), b3, (Nat.two_pow_pos _), trivial⟩ rfl rfl
  have e16 := bits_pack 5 a.val [(5, d.val), (6, 2)] b1 20 16 [(6, 13), (1, w.toBits), (1, 0), (8, k.val)] ⟨(by decide), b3, (Nat.two_pow_pos _), b2, trivial⟩ rfl rfl
  have e21 := bits_pack 5 d.val [(6, 2)] b0 25 21 [(6, 13), (1, w.toBits), (1, 0), (8, k.val), (5, a.val)] ⟨(by decide), b3, (Nat.two_pow_pos _), b2, b1, trivial⟩ rfl rfl
  have e26 := bits_pack 6 2 [] (by decide) 31 26 [(6, 13), (1, w.toBits), (1, 0), (8, k.val), (5, a.val), (5, d.val)] ⟨(by decide), b3, (Nat.two_pow_pos _), b2, b1, b0, trivial⟩ rfl rfl
  simp only [List.nil_append, List.cons_append] at e0 e6 e7 e8 e16 e21 e26
  have hl : pack [(6, 13), (1, w.toBits), (1, 0), (8, k.val), (5, a.val), (5, d.val), (6, 2)] < 2 ^ 32 := pack_lt [(6, 13), (1, w.toBits), (1, 0), (8, k.val), (5, a.val), (5, d.val), (6, 2)] ⟨(by decide), b3, (Nat.two_pow_pos _), b2, b1, b0, (by decide), trivial⟩ rfl
  generalize pack [(6, 13), (1, w.toBits), (1, 0), (8, k.val), (5, a.val), (5, d.val), (6, 2)] = wd at *
  refine decode_of wd hn.symm ?_ hw hl
  · rw [major_2 e26]; simp only [decodeAluK, e0, e6, e7, e8, e16, e21, reduceIte, ofNat_val, Width.ofBits_toBits]

theorem Sys2Proof.Laws.Roundtrip.shrlK (d : Reg) (a : Reg) (k : Fin 256) (w : Width) : Statement (.shrlK d a k w) := by
  intro _ hw
  have hn : ∀ x0 x1 x2 x3 : Nat, pack [(6, 14), (1, x3), (1, 0), (8, x2), (5, x1), (5, x0), (6, 2)] = fields 0x0800000E [(x0, 21), (x1, 16), (x2, 8), (x3, 6)] := by
    intros; simp only [pack_eq, packAt_cons, packAt_nil, Nat.reduceAdd, fields_cons, fields_nil]; omega
  replace hn := hn d.val a.val k.val w.toBits
  have b0 := d.isLt
  have b1 := a.isLt
  have b2 := k.isLt
  have b3 := Width.toBits_lt w
  have e0 := bits_pack 6 14 [(1, w.toBits), (1, 0), (8, k.val), (5, a.val), (5, d.val), (6, 2)] (by decide) 5 0 [] trivial rfl rfl
  have e6 := bits_pack 1 w.toBits [(1, 0), (8, k.val), (5, a.val), (5, d.val), (6, 2)] b3 6 6 [(6, 14)] ⟨(by decide), trivial⟩ rfl rfl
  have e7 := bits_pack 1 0 [(8, k.val), (5, a.val), (5, d.val), (6, 2)] (Nat.two_pow_pos _) 7 7 [(6, 14), (1, w.toBits)] ⟨(by decide), b3, trivial⟩ rfl rfl
  have e8 := bits_pack 8 k.val [(5, a.val), (5, d.val), (6, 2)] b2 15 8 [(6, 14), (1, w.toBits), (1, 0)] ⟨(by decide), b3, (Nat.two_pow_pos _), trivial⟩ rfl rfl
  have e16 := bits_pack 5 a.val [(5, d.val), (6, 2)] b1 20 16 [(6, 14), (1, w.toBits), (1, 0), (8, k.val)] ⟨(by decide), b3, (Nat.two_pow_pos _), b2, trivial⟩ rfl rfl
  have e21 := bits_pack 5 d.val [(6, 2)] b0 25 21 [(6, 14), (1, w.toBits), (1, 0), (8, k.val), (5, a.val)] ⟨(by decide), b3, (Nat.two_pow_pos _), b2, b1, trivial⟩ rfl rfl
  have e26 := bits_pack 6 2 [] (by decide) 31 26 [(6, 14), (1, w.toBits), (1, 0), (8, k.val), (5, a.val), (5, d.val)] ⟨(by decide), b3, (Nat.two_pow_pos _), b2, b1, b0, trivial⟩ rfl rfl
  simp only [List.nil_append, List.cons_append] at e0 e6 e7 e8 e16 e21 e26
  have hl : pack [(6, 14), (1, w.toBits), (1, 0), (8, k.val), (5, a.val), (5, d.val), (6, 2)] < 2 ^ 32 := pack_lt [(6, 14), (1, w.toBits), (1, 0), (8, k.val), (5, a.val), (5, d.val), (6, 2)] ⟨(by decide), b3, (Nat.two_pow_pos _), b2, b1, b0, (by decide), trivial⟩ rfl
  generalize pack [(6, 14), (1, w.toBits), (1, 0), (8, k.val), (5, a.val), (5, d.val), (6, 2)] = wd at *
  refine decode_of wd hn.symm ?_ hw hl
  · rw [major_2 e26]; simp only [decodeAluK, e0, e6, e7, e8, e16, e21, reduceIte, ofNat_val, Width.ofBits_toBits]

theorem Sys2Proof.Laws.Roundtrip.shraK (d : Reg) (a : Reg) (k : Fin 256) (w : Width) : Statement (.shraK d a k w) := by
  intro _ hw
  have hn : ∀ x0 x1 x2 x3 : Nat, pack [(6, 15), (1, x3), (1, 0), (8, x2), (5, x1), (5, x0), (6, 2)] = fields 0x0800000F [(x0, 21), (x1, 16), (x2, 8), (x3, 6)] := by
    intros; simp only [pack_eq, packAt_cons, packAt_nil, Nat.reduceAdd, fields_cons, fields_nil]; omega
  replace hn := hn d.val a.val k.val w.toBits
  have b0 := d.isLt
  have b1 := a.isLt
  have b2 := k.isLt
  have b3 := Width.toBits_lt w
  have e0 := bits_pack 6 15 [(1, w.toBits), (1, 0), (8, k.val), (5, a.val), (5, d.val), (6, 2)] (by decide) 5 0 [] trivial rfl rfl
  have e6 := bits_pack 1 w.toBits [(1, 0), (8, k.val), (5, a.val), (5, d.val), (6, 2)] b3 6 6 [(6, 15)] ⟨(by decide), trivial⟩ rfl rfl
  have e7 := bits_pack 1 0 [(8, k.val), (5, a.val), (5, d.val), (6, 2)] (Nat.two_pow_pos _) 7 7 [(6, 15), (1, w.toBits)] ⟨(by decide), b3, trivial⟩ rfl rfl
  have e8 := bits_pack 8 k.val [(5, a.val), (5, d.val), (6, 2)] b2 15 8 [(6, 15), (1, w.toBits), (1, 0)] ⟨(by decide), b3, (Nat.two_pow_pos _), trivial⟩ rfl rfl
  have e16 := bits_pack 5 a.val [(5, d.val), (6, 2)] b1 20 16 [(6, 15), (1, w.toBits), (1, 0), (8, k.val)] ⟨(by decide), b3, (Nat.two_pow_pos _), b2, trivial⟩ rfl rfl
  have e21 := bits_pack 5 d.val [(6, 2)] b0 25 21 [(6, 15), (1, w.toBits), (1, 0), (8, k.val), (5, a.val)] ⟨(by decide), b3, (Nat.two_pow_pos _), b2, b1, trivial⟩ rfl rfl
  have e26 := bits_pack 6 2 [] (by decide) 31 26 [(6, 15), (1, w.toBits), (1, 0), (8, k.val), (5, a.val), (5, d.val)] ⟨(by decide), b3, (Nat.two_pow_pos _), b2, b1, b0, trivial⟩ rfl rfl
  simp only [List.nil_append, List.cons_append] at e0 e6 e7 e8 e16 e21 e26
  have hl : pack [(6, 15), (1, w.toBits), (1, 0), (8, k.val), (5, a.val), (5, d.val), (6, 2)] < 2 ^ 32 := pack_lt [(6, 15), (1, w.toBits), (1, 0), (8, k.val), (5, a.val), (5, d.val), (6, 2)] ⟨(by decide), b3, (Nat.two_pow_pos _), b2, b1, b0, (by decide), trivial⟩ rfl
  generalize pack [(6, 15), (1, w.toBits), (1, 0), (8, k.val), (5, a.val), (5, d.val), (6, 2)] = wd at *
  refine decode_of wd hn.symm ?_ hw hl
  · rw [major_2 e26]; simp only [decodeAluK, e0, e6, e7, e8, e16, e21, reduceIte, ofNat_val, Width.ofBits_toBits]

theorem Sys2Proof.Laws.Roundtrip.rolK (d : Reg) (a : Reg) (k : Fin 256) (w : Width) : Statement (.rolK d a k w) := by
  intro _ hw
  have hn : ∀ x0 x1 x2 x3 : Nat, pack [(6, 16), (1, x3), (1, 0), (8, x2), (5, x1), (5, x0), (6, 2)] = fields 0x08000010 [(x0, 21), (x1, 16), (x2, 8), (x3, 6)] := by
    intros; simp only [pack_eq, packAt_cons, packAt_nil, Nat.reduceAdd, fields_cons, fields_nil]; omega
  replace hn := hn d.val a.val k.val w.toBits
  have b0 := d.isLt
  have b1 := a.isLt
  have b2 := k.isLt
  have b3 := Width.toBits_lt w
  have e0 := bits_pack 6 16 [(1, w.toBits), (1, 0), (8, k.val), (5, a.val), (5, d.val), (6, 2)] (by decide) 5 0 [] trivial rfl rfl
  have e6 := bits_pack 1 w.toBits [(1, 0), (8, k.val), (5, a.val), (5, d.val), (6, 2)] b3 6 6 [(6, 16)] ⟨(by decide), trivial⟩ rfl rfl
  have e7 := bits_pack 1 0 [(8, k.val), (5, a.val), (5, d.val), (6, 2)] (Nat.two_pow_pos _) 7 7 [(6, 16), (1, w.toBits)] ⟨(by decide), b3, trivial⟩ rfl rfl
  have e8 := bits_pack 8 k.val [(5, a.val), (5, d.val), (6, 2)] b2 15 8 [(6, 16), (1, w.toBits), (1, 0)] ⟨(by decide), b3, (Nat.two_pow_pos _), trivial⟩ rfl rfl
  have e16 := bits_pack 5 a.val [(5, d.val), (6, 2)] b1 20 16 [(6, 16), (1, w.toBits), (1, 0), (8, k.val)] ⟨(by decide), b3, (Nat.two_pow_pos _), b2, trivial⟩ rfl rfl
  have e21 := bits_pack 5 d.val [(6, 2)] b0 25 21 [(6, 16), (1, w.toBits), (1, 0), (8, k.val), (5, a.val)] ⟨(by decide), b3, (Nat.two_pow_pos _), b2, b1, trivial⟩ rfl rfl
  have e26 := bits_pack 6 2 [] (by decide) 31 26 [(6, 16), (1, w.toBits), (1, 0), (8, k.val), (5, a.val), (5, d.val)] ⟨(by decide), b3, (Nat.two_pow_pos _), b2, b1, b0, trivial⟩ rfl rfl
  simp only [List.nil_append, List.cons_append] at e0 e6 e7 e8 e16 e21 e26
  have hl : pack [(6, 16), (1, w.toBits), (1, 0), (8, k.val), (5, a.val), (5, d.val), (6, 2)] < 2 ^ 32 := pack_lt [(6, 16), (1, w.toBits), (1, 0), (8, k.val), (5, a.val), (5, d.val), (6, 2)] ⟨(by decide), b3, (Nat.two_pow_pos _), b2, b1, b0, (by decide), trivial⟩ rfl
  generalize pack [(6, 16), (1, w.toBits), (1, 0), (8, k.val), (5, a.val), (5, d.val), (6, 2)] = wd at *
  refine decode_of wd hn.symm ?_ hw hl
  · rw [major_2 e26]; simp only [decodeAluK, e0, e6, e7, e8, e16, e21, reduceIte, ofNat_val, Width.ofBits_toBits]

theorem Sys2Proof.Laws.Roundtrip.minsK (d : Reg) (a : Reg) (k : Fin 256) (w : Width) : Statement (.minsK d a k w) := by
  intro _ hw
  have hn : ∀ x0 x1 x2 x3 : Nat, pack [(6, 17), (1, x3), (1, 0), (8, x2), (5, x1), (5, x0), (6, 2)] = fields 0x08000011 [(x0, 21), (x1, 16), (x2, 8), (x3, 6)] := by
    intros; simp only [pack_eq, packAt_cons, packAt_nil, Nat.reduceAdd, fields_cons, fields_nil]; omega
  replace hn := hn d.val a.val k.val w.toBits
  have b0 := d.isLt
  have b1 := a.isLt
  have b2 := k.isLt
  have b3 := Width.toBits_lt w
  have e0 := bits_pack 6 17 [(1, w.toBits), (1, 0), (8, k.val), (5, a.val), (5, d.val), (6, 2)] (by decide) 5 0 [] trivial rfl rfl
  have e6 := bits_pack 1 w.toBits [(1, 0), (8, k.val), (5, a.val), (5, d.val), (6, 2)] b3 6 6 [(6, 17)] ⟨(by decide), trivial⟩ rfl rfl
  have e7 := bits_pack 1 0 [(8, k.val), (5, a.val), (5, d.val), (6, 2)] (Nat.two_pow_pos _) 7 7 [(6, 17), (1, w.toBits)] ⟨(by decide), b3, trivial⟩ rfl rfl
  have e8 := bits_pack 8 k.val [(5, a.val), (5, d.val), (6, 2)] b2 15 8 [(6, 17), (1, w.toBits), (1, 0)] ⟨(by decide), b3, (Nat.two_pow_pos _), trivial⟩ rfl rfl
  have e16 := bits_pack 5 a.val [(5, d.val), (6, 2)] b1 20 16 [(6, 17), (1, w.toBits), (1, 0), (8, k.val)] ⟨(by decide), b3, (Nat.two_pow_pos _), b2, trivial⟩ rfl rfl
  have e21 := bits_pack 5 d.val [(6, 2)] b0 25 21 [(6, 17), (1, w.toBits), (1, 0), (8, k.val), (5, a.val)] ⟨(by decide), b3, (Nat.two_pow_pos _), b2, b1, trivial⟩ rfl rfl
  have e26 := bits_pack 6 2 [] (by decide) 31 26 [(6, 17), (1, w.toBits), (1, 0), (8, k.val), (5, a.val), (5, d.val)] ⟨(by decide), b3, (Nat.two_pow_pos _), b2, b1, b0, trivial⟩ rfl rfl
  simp only [List.nil_append, List.cons_append] at e0 e6 e7 e8 e16 e21 e26
  have hl : pack [(6, 17), (1, w.toBits), (1, 0), (8, k.val), (5, a.val), (5, d.val), (6, 2)] < 2 ^ 32 := pack_lt [(6, 17), (1, w.toBits), (1, 0), (8, k.val), (5, a.val), (5, d.val), (6, 2)] ⟨(by decide), b3, (Nat.two_pow_pos _), b2, b1, b0, (by decide), trivial⟩ rfl
  generalize pack [(6, 17), (1, w.toBits), (1, 0), (8, k.val), (5, a.val), (5, d.val), (6, 2)] = wd at *
  refine decode_of wd hn.symm ?_ hw hl
  · rw [major_2 e26]; simp only [decodeAluK, e0, e6, e7, e8, e16, e21, reduceIte, ofNat_val, Width.ofBits_toBits]

theorem Sys2Proof.Laws.Roundtrip.maxsK (d : Reg) (a : Reg) (k : Fin 256) (w : Width) : Statement (.maxsK d a k w) := by
  intro _ hw
  have hn : ∀ x0 x1 x2 x3 : Nat, pack [(6, 18), (1, x3), (1, 0), (8, x2), (5, x1), (5, x0), (6, 2)] = fields 0x08000012 [(x0, 21), (x1, 16), (x2, 8), (x3, 6)] := by
    intros; simp only [pack_eq, packAt_cons, packAt_nil, Nat.reduceAdd, fields_cons, fields_nil]; omega
  replace hn := hn d.val a.val k.val w.toBits
  have b0 := d.isLt
  have b1 := a.isLt
  have b2 := k.isLt
  have b3 := Width.toBits_lt w
  have e0 := bits_pack 6 18 [(1, w.toBits), (1, 0), (8, k.val), (5, a.val), (5, d.val), (6, 2)] (by decide) 5 0 [] trivial rfl rfl
  have e6 := bits_pack 1 w.toBits [(1, 0), (8, k.val), (5, a.val), (5, d.val), (6, 2)] b3 6 6 [(6, 18)] ⟨(by decide), trivial⟩ rfl rfl
  have e7 := bits_pack 1 0 [(8, k.val), (5, a.val), (5, d.val), (6, 2)] (Nat.two_pow_pos _) 7 7 [(6, 18), (1, w.toBits)] ⟨(by decide), b3, trivial⟩ rfl rfl
  have e8 := bits_pack 8 k.val [(5, a.val), (5, d.val), (6, 2)] b2 15 8 [(6, 18), (1, w.toBits), (1, 0)] ⟨(by decide), b3, (Nat.two_pow_pos _), trivial⟩ rfl rfl
  have e16 := bits_pack 5 a.val [(5, d.val), (6, 2)] b1 20 16 [(6, 18), (1, w.toBits), (1, 0), (8, k.val)] ⟨(by decide), b3, (Nat.two_pow_pos _), b2, trivial⟩ rfl rfl
  have e21 := bits_pack 5 d.val [(6, 2)] b0 25 21 [(6, 18), (1, w.toBits), (1, 0), (8, k.val), (5, a.val)] ⟨(by decide), b3, (Nat.two_pow_pos _), b2, b1, trivial⟩ rfl rfl
  have e26 := bits_pack 6 2 [] (by decide) 31 26 [(6, 18), (1, w.toBits), (1, 0), (8, k.val), (5, a.val), (5, d.val)] ⟨(by decide), b3, (Nat.two_pow_pos _), b2, b1, b0, trivial⟩ rfl rfl
  simp only [List.nil_append, List.cons_append] at e0 e6 e7 e8 e16 e21 e26
  have hl : pack [(6, 18), (1, w.toBits), (1, 0), (8, k.val), (5, a.val), (5, d.val), (6, 2)] < 2 ^ 32 := pack_lt [(6, 18), (1, w.toBits), (1, 0), (8, k.val), (5, a.val), (5, d.val), (6, 2)] ⟨(by decide), b3, (Nat.two_pow_pos _), b2, b1, b0, (by decide), trivial⟩ rfl
  generalize pack [(6, 18), (1, w.toBits), (1, 0), (8, k.val), (5, a.val), (5, d.val), (6, 2)] = wd at *
  refine decode_of wd hn.symm ?_ hw hl
  · rw [major_2 e26]; simp only [decodeAluK, e0, e6, e7, e8, e16, e21, reduceIte, ofNat_val, Width.ofBits_toBits]

theorem Sys2Proof.Laws.Roundtrip.minzK (d : Reg) (a : Reg) (k : Fin 256) (w : Width) : Statement (.minzK d a k w) := by
  intro _ hw
  have hn : ∀ x0 x1 x2 x3 : Nat, pack [(6, 19), (1, x3), (1, 0), (8, x2), (5, x1), (5, x0), (6, 2)] = fields 0x08000013 [(x0, 21), (x1, 16), (x2, 8), (x3, 6)] := by
    intros; simp only [pack_eq, packAt_cons, packAt_nil, Nat.reduceAdd, fields_cons, fields_nil]; omega
  replace hn := hn d.val a.val k.val w.toBits
  have b0 := d.isLt
  have b1 := a.isLt
  have b2 := k.isLt
  have b3 := Width.toBits_lt w
  have e0 := bits_pack 6 19 [(1, w.toBits), (1, 0), (8, k.val), (5, a.val), (5, d.val), (6, 2)] (by decide) 5 0 [] trivial rfl rfl
  have e6 := bits_pack 1 w.toBits [(1, 0), (8, k.val), (5, a.val), (5, d.val), (6, 2)] b3 6 6 [(6, 19)] ⟨(by decide), trivial⟩ rfl rfl
  have e7 := bits_pack 1 0 [(8, k.val), (5, a.val), (5, d.val), (6, 2)] (Nat.two_pow_pos _) 7 7 [(6, 19), (1, w.toBits)] ⟨(by decide), b3, trivial⟩ rfl rfl
  have e8 := bits_pack 8 k.val [(5, a.val), (5, d.val), (6, 2)] b2 15 8 [(6, 19), (1, w.toBits), (1, 0)] ⟨(by decide), b3, (Nat.two_pow_pos _), trivial⟩ rfl rfl
  have e16 := bits_pack 5 a.val [(5, d.val), (6, 2)] b1 20 16 [(6, 19), (1, w.toBits), (1, 0), (8, k.val)] ⟨(by decide), b3, (Nat.two_pow_pos _), b2, trivial⟩ rfl rfl
  have e21 := bits_pack 5 d.val [(6, 2)] b0 25 21 [(6, 19), (1, w.toBits), (1, 0), (8, k.val), (5, a.val)] ⟨(by decide), b3, (Nat.two_pow_pos _), b2, b1, trivial⟩ rfl rfl
  have e26 := bits_pack 6 2 [] (by decide) 31 26 [(6, 19), (1, w.toBits), (1, 0), (8, k.val), (5, a.val), (5, d.val)] ⟨(by decide), b3, (Nat.two_pow_pos _), b2, b1, b0, trivial⟩ rfl rfl
  simp only [List.nil_append, List.cons_append] at e0 e6 e7 e8 e16 e21 e26
  have hl : pack [(6, 19), (1, w.toBits), (1, 0), (8, k.val), (5, a.val), (5, d.val), (6, 2)] < 2 ^ 32 := pack_lt [(6, 19), (1, w.toBits), (1, 0), (8, k.val), (5, a.val), (5, d.val), (6, 2)] ⟨(by decide), b3, (Nat.two_pow_pos _), b2, b1, b0, (by decide), trivial⟩ rfl
  generalize pack [(6, 19), (1, w.toBits), (1, 0), (8, k.val), (5, a.val), (5, d.val), (6, 2)] = wd at *
  refine decode_of wd hn.symm ?_ hw hl
  · rw [major_2 e26]; simp only [decodeAluK, e0, e6, e7, e8, e16, e21, reduceIte, ofNat_val, Width.ofBits_toBits]

theorem Sys2Proof.Laws.Roundtrip.maxzK (d : Reg) (a : Reg) (k : Fin 256) (w : Width) : Statement (.maxzK d a k w) := by
  intro _ hw
  have hn : ∀ x0 x1 x2 x3 : Nat, pack [(6, 20), (1, x3), (1, 0), (8, x2), (5, x1), (5, x0), (6, 2)] = fields 0x08000014 [(x0, 21), (x1, 16), (x2, 8), (x3, 6)] := by
    intros; simp only [pack_eq, packAt_cons, packAt_nil, Nat.reduceAdd, fields_cons, fields_nil]; omega
  replace hn := hn d.val a.val k.val w.toBits
  have b0 := d.isLt
  have b1 := a.isLt
  have b2 := k.isLt
  have b3 := Width.toBits_lt w
  have e0 := bits_pack 6 20 [(1, w.toBits), (1, 0), (8, k.val), (5, a.val), (5, d.val), (6, 2)] (by decide) 5 0 [] trivial rfl rfl
  have e6 := bits_pack 1 w.toBits [(1, 0), (8, k.val), (5, a.val), (5, d.val), (6, 2)] b3 6 6 [(6, 20)] ⟨(by decide), trivial⟩ rfl rfl
  have e7 := bits_pack 1 0 [(8, k.val), (5, a.val), (5, d.val), (6, 2)] (Nat.two_pow_pos _) 7 7 [(6, 20), (1, w.toBits)] ⟨(by decide), b3, trivial⟩ rfl rfl
  have e8 := bits_pack 8 k.val [(5, a.val), (5, d.val), (6, 2)] b2 15 8 [(6, 20), (1, w.toBits), (1, 0)] ⟨(by decide), b3, (Nat.two_pow_pos _), trivial⟩ rfl rfl
  have e16 := bits_pack 5 a.val [(5, d.val), (6, 2)] b1 20 16 [(6, 20), (1, w.toBits), (1, 0), (8, k.val)] ⟨(by decide), b3, (Nat.two_pow_pos _), b2, trivial⟩ rfl rfl
  have e21 := bits_pack 5 d.val [(6, 2)] b0 25 21 [(6, 20), (1, w.toBits), (1, 0), (8, k.val), (5, a.val)] ⟨(by decide), b3, (Nat.two_pow_pos _), b2, b1, trivial⟩ rfl rfl
  have e26 := bits_pack 6 2 [] (by decide) 31 26 [(6, 20), (1, w.toBits), (1, 0), (8, k.val), (5, a.val), (5, d.val)] ⟨(by decide), b3, (Nat.two_pow_pos _), b2, b1, b0, trivial⟩ rfl rfl
  simp only [List.nil_append, List.cons_append] at e0 e6 e7 e8 e16 e21 e26
  have hl : pack [(6, 20), (1, w.toBits), (1, 0), (8, k.val), (5, a.val), (5, d.val), (6, 2)] < 2 ^ 32 := pack_lt [(6, 20), (1, w.toBits), (1, 0), (8, k.val), (5, a.val), (5, d.val), (6, 2)] ⟨(by decide), b3, (Nat.two_pow_pos _), b2, b1, b0, (by decide), trivial⟩ rfl
  generalize pack [(6, 20), (1, w.toBits), (1, 0), (8, k.val), (5, a.val), (5, d.val), (6, 2)] = wd at *
  refine decode_of wd hn.symm ?_ hw hl
  · rw [major_2 e26]; simp only [decodeAluK, e0, e6, e7, e8, e16, e21, reduceIte, ofNat_val, Width.ofBits_toBits]

theorem Sys2Proof.Laws.Roundtrip.seqK (d : Reg) (a : Reg) (k : Fin 256) (w : Width) : Statement (.seqK d a k w) := by
  intro _ hw
  have hn : ∀ x0 x1 x2 x3 : Nat, pack [(6, 21), (1, x3), (1, 0), (8, x2), (5, x1), (5, x0), (6, 2)] = fields 0x08000015 [(x0, 21), (x1, 16), (x2, 8), (x3, 6)] := by
    intros; simp only [pack_eq, packAt_cons, packAt_nil, Nat.reduceAdd, fields_cons, fields_nil]; omega
  replace hn := hn d.val a.val k.val w.toBits
  have b0 := d.isLt
  have b1 := a.isLt
  have b2 := k.isLt
  have b3 := Width.toBits_lt w
  have e0 := bits_pack 6 21 [(1, w.toBits), (1, 0), (8, k.val), (5, a.val), (5, d.val), (6, 2)] (by decide) 5 0 [] trivial rfl rfl
  have e6 := bits_pack 1 w.toBits [(1, 0), (8, k.val), (5, a.val), (5, d.val), (6, 2)] b3 6 6 [(6, 21)] ⟨(by decide), trivial⟩ rfl rfl
  have e7 := bits_pack 1 0 [(8, k.val), (5, a.val), (5, d.val), (6, 2)] (Nat.two_pow_pos _) 7 7 [(6, 21), (1, w.toBits)] ⟨(by decide), b3, trivial⟩ rfl rfl
  have e8 := bits_pack 8 k.val [(5, a.val), (5, d.val), (6, 2)] b2 15 8 [(6, 21), (1, w.toBits), (1, 0)] ⟨(by decide), b3, (Nat.two_pow_pos _), trivial⟩ rfl rfl
  have e16 := bits_pack 5 a.val [(5, d.val), (6, 2)] b1 20 16 [(6, 21), (1, w.toBits), (1, 0), (8, k.val)] ⟨(by decide), b3, (Nat.two_pow_pos _), b2, trivial⟩ rfl rfl
  have e21 := bits_pack 5 d.val [(6, 2)] b0 25 21 [(6, 21), (1, w.toBits), (1, 0), (8, k.val), (5, a.val)] ⟨(by decide), b3, (Nat.two_pow_pos _), b2, b1, trivial⟩ rfl rfl
  have e26 := bits_pack 6 2 [] (by decide) 31 26 [(6, 21), (1, w.toBits), (1, 0), (8, k.val), (5, a.val), (5, d.val)] ⟨(by decide), b3, (Nat.two_pow_pos _), b2, b1, b0, trivial⟩ rfl rfl
  simp only [List.nil_append, List.cons_append] at e0 e6 e7 e8 e16 e21 e26
  have hl : pack [(6, 21), (1, w.toBits), (1, 0), (8, k.val), (5, a.val), (5, d.val), (6, 2)] < 2 ^ 32 := pack_lt [(6, 21), (1, w.toBits), (1, 0), (8, k.val), (5, a.val), (5, d.val), (6, 2)] ⟨(by decide), b3, (Nat.two_pow_pos _), b2, b1, b0, (by decide), trivial⟩ rfl
  generalize pack [(6, 21), (1, w.toBits), (1, 0), (8, k.val), (5, a.val), (5, d.val), (6, 2)] = wd at *
  refine decode_of wd hn.symm ?_ hw hl
  · rw [major_2 e26]; simp only [decodeAluK, e0, e6, e7, e8, e16, e21, reduceIte, ofNat_val, Width.ofBits_toBits]

theorem Sys2Proof.Laws.Roundtrip.sneK (d : Reg) (a : Reg) (k : Fin 256) (w : Width) : Statement (.sneK d a k w) := by
  intro _ hw
  have hn : ∀ x0 x1 x2 x3 : Nat, pack [(6, 22), (1, x3), (1, 0), (8, x2), (5, x1), (5, x0), (6, 2)] = fields 0x08000016 [(x0, 21), (x1, 16), (x2, 8), (x3, 6)] := by
    intros; simp only [pack_eq, packAt_cons, packAt_nil, Nat.reduceAdd, fields_cons, fields_nil]; omega
  replace hn := hn d.val a.val k.val w.toBits
  have b0 := d.isLt
  have b1 := a.isLt
  have b2 := k.isLt
  have b3 := Width.toBits_lt w
  have e0 := bits_pack 6 22 [(1, w.toBits), (1, 0), (8, k.val), (5, a.val), (5, d.val), (6, 2)] (by decide) 5 0 [] trivial rfl rfl
  have e6 := bits_pack 1 w.toBits [(1, 0), (8, k.val), (5, a.val), (5, d.val), (6, 2)] b3 6 6 [(6, 22)] ⟨(by decide), trivial⟩ rfl rfl
  have e7 := bits_pack 1 0 [(8, k.val), (5, a.val), (5, d.val), (6, 2)] (Nat.two_pow_pos _) 7 7 [(6, 22), (1, w.toBits)] ⟨(by decide), b3, trivial⟩ rfl rfl
  have e8 := bits_pack 8 k.val [(5, a.val), (5, d.val), (6, 2)] b2 15 8 [(6, 22), (1, w.toBits), (1, 0)] ⟨(by decide), b3, (Nat.two_pow_pos _), trivial⟩ rfl rfl
  have e16 := bits_pack 5 a.val [(5, d.val), (6, 2)] b1 20 16 [(6, 22), (1, w.toBits), (1, 0), (8, k.val)] ⟨(by decide), b3, (Nat.two_pow_pos _), b2, trivial⟩ rfl rfl
  have e21 := bits_pack 5 d.val [(6, 2)] b0 25 21 [(6, 22), (1, w.toBits), (1, 0), (8, k.val), (5, a.val)] ⟨(by decide), b3, (Nat.two_pow_pos _), b2, b1, trivial⟩ rfl rfl
  have e26 := bits_pack 6 2 [] (by decide) 31 26 [(6, 22), (1, w.toBits), (1, 0), (8, k.val), (5, a.val), (5, d.val)] ⟨(by decide), b3, (Nat.two_pow_pos _), b2, b1, b0, trivial⟩ rfl rfl
  simp only [List.nil_append, List.cons_append] at e0 e6 e7 e8 e16 e21 e26
  have hl : pack [(6, 22), (1, w.toBits), (1, 0), (8, k.val), (5, a.val), (5, d.val), (6, 2)] < 2 ^ 32 := pack_lt [(6, 22), (1, w.toBits), (1, 0), (8, k.val), (5, a.val), (5, d.val), (6, 2)] ⟨(by decide), b3, (Nat.two_pow_pos _), b2, b1, b0, (by decide), trivial⟩ rfl
  generalize pack [(6, 22), (1, w.toBits), (1, 0), (8, k.val), (5, a.val), (5, d.val), (6, 2)] = wd at *
  refine decode_of wd hn.symm ?_ hw hl
  · rw [major_2 e26]; simp only [decodeAluK, e0, e6, e7, e8, e16, e21, reduceIte, ofNat_val, Width.ofBits_toBits]

theorem Sys2Proof.Laws.Roundtrip.sltsK (d : Reg) (a : Reg) (k : Fin 256) (w : Width) : Statement (.sltsK d a k w) := by
  intro _ hw
  have hn : ∀ x0 x1 x2 x3 : Nat, pack [(6, 23), (1, x3), (1, 0), (8, x2), (5, x1), (5, x0), (6, 2)] = fields 0x08000017 [(x0, 21), (x1, 16), (x2, 8), (x3, 6)] := by
    intros; simp only [pack_eq, packAt_cons, packAt_nil, Nat.reduceAdd, fields_cons, fields_nil]; omega
  replace hn := hn d.val a.val k.val w.toBits
  have b0 := d.isLt
  have b1 := a.isLt
  have b2 := k.isLt
  have b3 := Width.toBits_lt w
  have e0 := bits_pack 6 23 [(1, w.toBits), (1, 0), (8, k.val), (5, a.val), (5, d.val), (6, 2)] (by decide) 5 0 [] trivial rfl rfl
  have e6 := bits_pack 1 w.toBits [(1, 0), (8, k.val), (5, a.val), (5, d.val), (6, 2)] b3 6 6 [(6, 23)] ⟨(by decide), trivial⟩ rfl rfl
  have e7 := bits_pack 1 0 [(8, k.val), (5, a.val), (5, d.val), (6, 2)] (Nat.two_pow_pos _) 7 7 [(6, 23), (1, w.toBits)] ⟨(by decide), b3, trivial⟩ rfl rfl
  have e8 := bits_pack 8 k.val [(5, a.val), (5, d.val), (6, 2)] b2 15 8 [(6, 23), (1, w.toBits), (1, 0)] ⟨(by decide), b3, (Nat.two_pow_pos _), trivial⟩ rfl rfl
  have e16 := bits_pack 5 a.val [(5, d.val), (6, 2)] b1 20 16 [(6, 23), (1, w.toBits), (1, 0), (8, k.val)] ⟨(by decide), b3, (Nat.two_pow_pos _), b2, trivial⟩ rfl rfl
  have e21 := bits_pack 5 d.val [(6, 2)] b0 25 21 [(6, 23), (1, w.toBits), (1, 0), (8, k.val), (5, a.val)] ⟨(by decide), b3, (Nat.two_pow_pos _), b2, b1, trivial⟩ rfl rfl
  have e26 := bits_pack 6 2 [] (by decide) 31 26 [(6, 23), (1, w.toBits), (1, 0), (8, k.val), (5, a.val), (5, d.val)] ⟨(by decide), b3, (Nat.two_pow_pos _), b2, b1, b0, trivial⟩ rfl rfl
  simp only [List.nil_append, List.cons_append] at e0 e6 e7 e8 e16 e21 e26
  have hl : pack [(6, 23), (1, w.toBits), (1, 0), (8, k.val), (5, a.val), (5, d.val), (6, 2)] < 2 ^ 32 := pack_lt [(6, 23), (1, w.toBits), (1, 0), (8, k.val), (5, a.val), (5, d.val), (6, 2)] ⟨(by decide), b3, (Nat.two_pow_pos _), b2, b1, b0, (by decide), trivial⟩ rfl
  generalize pack [(6, 23), (1, w.toBits), (1, 0), (8, k.val), (5, a.val), (5, d.val), (6, 2)] = wd at *
  refine decode_of wd hn.symm ?_ hw hl
  · rw [major_2 e26]; simp only [decodeAluK, e0, e6, e7, e8, e16, e21, reduceIte, ofNat_val, Width.ofBits_toBits]

theorem Sys2Proof.Laws.Roundtrip.sltzK (d : Reg) (a : Reg) (k : Fin 256) (w : Width) : Statement (.sltzK d a k w) := by
  intro _ hw
  have hn : ∀ x0 x1 x2 x3 : Nat, pack [(6, 24), (1, x3), (1, 0), (8, x2), (5, x1), (5, x0), (6, 2)] = fields 0x08000018 [(x0, 21), (x1, 16), (x2, 8), (x3, 6)] := by
    intros; simp only [pack_eq, packAt_cons, packAt_nil, Nat.reduceAdd, fields_cons, fields_nil]; omega
  replace hn := hn d.val a.val k.val w.toBits
  have b0 := d.isLt
  have b1 := a.isLt
  have b2 := k.isLt
  have b3 := Width.toBits_lt w
  have e0 := bits_pack 6 24 [(1, w.toBits), (1, 0), (8, k.val), (5, a.val), (5, d.val), (6, 2)] (by decide) 5 0 [] trivial rfl rfl
  have e6 := bits_pack 1 w.toBits [(1, 0), (8, k.val), (5, a.val), (5, d.val), (6, 2)] b3 6 6 [(6, 24)] ⟨(by decide), trivial⟩ rfl rfl
  have e7 := bits_pack 1 0 [(8, k.val), (5, a.val), (5, d.val), (6, 2)] (Nat.two_pow_pos _) 7 7 [(6, 24), (1, w.toBits)] ⟨(by decide), b3, trivial⟩ rfl rfl
  have e8 := bits_pack 8 k.val [(5, a.val), (5, d.val), (6, 2)] b2 15 8 [(6, 24), (1, w.toBits), (1, 0)] ⟨(by decide), b3, (Nat.two_pow_pos _), trivial⟩ rfl rfl
  have e16 := bits_pack 5 a.val [(5, d.val), (6, 2)] b1 20 16 [(6, 24), (1, w.toBits), (1, 0), (8, k.val)] ⟨(by decide), b3, (Nat.two_pow_pos _), b2, trivial⟩ rfl rfl
  have e21 := bits_pack 5 d.val [(6, 2)] b0 25 21 [(6, 24), (1, w.toBits), (1, 0), (8, k.val), (5, a.val)] ⟨(by decide), b3, (Nat.two_pow_pos _), b2, b1, trivial⟩ rfl rfl
  have e26 := bits_pack 6 2 [] (by decide) 31 26 [(6, 24), (1, w.toBits), (1, 0), (8, k.val), (5, a.val), (5, d.val)] ⟨(by decide), b3, (Nat.two_pow_pos _), b2, b1, b0, trivial⟩ rfl rfl
  simp only [List.nil_append, List.cons_append] at e0 e6 e7 e8 e16 e21 e26
  have hl : pack [(6, 24), (1, w.toBits), (1, 0), (8, k.val), (5, a.val), (5, d.val), (6, 2)] < 2 ^ 32 := pack_lt [(6, 24), (1, w.toBits), (1, 0), (8, k.val), (5, a.val), (5, d.val), (6, 2)] ⟨(by decide), b3, (Nat.two_pow_pos _), b2, b1, b0, (by decide), trivial⟩ rfl
  generalize pack [(6, 24), (1, w.toBits), (1, 0), (8, k.val), (5, a.val), (5, d.val), (6, 2)] = wd at *
  refine decode_of wd hn.symm ?_ hw hl
  · rw [major_2 e26]; simp only [decodeAluK, e0, e6, e7, e8, e16, e21, reduceIte, ofNat_val, Width.ofBits_toBits]

theorem Sys2Proof.Laws.Roundtrip.addi (d : Reg) (a : Reg) (i : Fin 65536) : Statement (.addi d a i) := by
  intro _ hw
  have hn : ∀ x0 x1 x2 : Nat, pack [(16, x2), (5, x1), (5, x0), (6, 3)] = fields 0x0C000000 [(x0, 21), (x1, 16), (x2, 0)] := by
    intros; simp only [pack_eq, packAt_cons, packAt_nil, Nat.reduceAdd, fields_cons, fields_nil]; omega
  replace hn := hn d.val a.val i.val
  have b0 := d.isLt
  have b1 := a.isLt
  have b2 := i.isLt
  have e0 := bits_pack 16 i.val [(5, a.val), (5, d.val), (6, 3)] b2 15 0 [] trivial rfl rfl
  have e16 := bits_pack 5 a.val [(5, d.val), (6, 3)] b1 20 16 [(16, i.val)] ⟨b2, trivial⟩ rfl rfl
  have e21 := bits_pack 5 d.val [(6, 3)] b0 25 21 [(16, i.val), (5, a.val)] ⟨b2, b1, trivial⟩ rfl rfl
  have e26 := bits_pack 6 3 [] (by decide) 31 26 [(16, i.val), (5, a.val), (5, d.val)] ⟨b2, b1, b0, trivial⟩ rfl rfl
  simp only [List.nil_append, List.cons_append] at e0 e16 e21 e26
  have hl : pack [(16, i.val), (5, a.val), (5, d.val), (6, 3)] < 2 ^ 32 := pack_lt [(16, i.val), (5, a.val), (5, d.val), (6, 3)] ⟨b2, b1, b0, (by decide), trivial⟩ rfl
  generalize pack [(16, i.val), (5, a.val), (5, d.val), (6, 3)] = wd at *
  refine decode_of wd hn.symm ?_ hw hl
  · rw [major_3 e26]; simp only [e0, e16, e21, reduceIte, ofNat_val]

theorem Sys2Proof.Laws.Roundtrip.andi (d : Reg) (a : Reg) (i : Fin 65536) : Statement (.andi d a i) := by
  intro _ hw
  have hn : ∀ x0 x1 x2 : Nat, pack [(16, x2), (5, x1), (5, x0), (6, 4)] = fields 0x10000000 [(x0, 21), (x1, 16), (x2, 0)] := by
    intros; simp only [pack_eq, packAt_cons, packAt_nil, Nat.reduceAdd, fields_cons, fields_nil]; omega
  replace hn := hn d.val a.val i.val
  have b0 := d.isLt
  have b1 := a.isLt
  have b2 := i.isLt
  have e0 := bits_pack 16 i.val [(5, a.val), (5, d.val), (6, 4)] b2 15 0 [] trivial rfl rfl
  have e16 := bits_pack 5 a.val [(5, d.val), (6, 4)] b1 20 16 [(16, i.val)] ⟨b2, trivial⟩ rfl rfl
  have e21 := bits_pack 5 d.val [(6, 4)] b0 25 21 [(16, i.val), (5, a.val)] ⟨b2, b1, trivial⟩ rfl rfl
  have e26 := bits_pack 6 4 [] (by decide) 31 26 [(16, i.val), (5, a.val), (5, d.val)] ⟨b2, b1, b0, trivial⟩ rfl rfl
  simp only [List.nil_append, List.cons_append] at e0 e16 e21 e26
  have hl : pack [(16, i.val), (5, a.val), (5, d.val), (6, 4)] < 2 ^ 32 := pack_lt [(16, i.val), (5, a.val), (5, d.val), (6, 4)] ⟨b2, b1, b0, (by decide), trivial⟩ rfl
  generalize pack [(16, i.val), (5, a.val), (5, d.val), (6, 4)] = wd at *
  refine decode_of wd hn.symm ?_ hw hl
  · rw [major_4 e26]; simp only [e0, e16, e21, reduceIte, ofNat_val]

theorem Sys2Proof.Laws.Roundtrip.ori (d : Reg) (a : Reg) (i : Fin 65536) : Statement (.ori d a i) := by
  intro _ hw
  have hn : ∀ x0 x1 x2 : Nat, pack [(16, x2), (5, x1), (5, x0), (6, 5)] = fields 0x14000000 [(x0, 21), (x1, 16), (x2, 0)] := by
    intros; simp only [pack_eq, packAt_cons, packAt_nil, Nat.reduceAdd, fields_cons, fields_nil]; omega
  replace hn := hn d.val a.val i.val
  have b0 := d.isLt
  have b1 := a.isLt
  have b2 := i.isLt
  have e0 := bits_pack 16 i.val [(5, a.val), (5, d.val), (6, 5)] b2 15 0 [] trivial rfl rfl
  have e16 := bits_pack 5 a.val [(5, d.val), (6, 5)] b1 20 16 [(16, i.val)] ⟨b2, trivial⟩ rfl rfl
  have e21 := bits_pack 5 d.val [(6, 5)] b0 25 21 [(16, i.val), (5, a.val)] ⟨b2, b1, trivial⟩ rfl rfl
  have e26 := bits_pack 6 5 [] (by decide) 31 26 [(16, i.val), (5, a.val), (5, d.val)] ⟨b2, b1, b0, trivial⟩ rfl rfl
  simp only [List.nil_append, List.cons_append] at e0 e16 e21 e26
  have hl : pack [(16, i.val), (5, a.val), (5, d.val), (6, 5)] < 2 ^ 32 := pack_lt [(16, i.val), (5, a.val), (5, d.val), (6, 5)] ⟨b2, b1, b0, (by decide), trivial⟩ rfl
  generalize pack [(16, i.val), (5, a.val), (5, d.val), (6, 5)] = wd at *
  refine decode_of wd hn.symm ?_ hw hl
  · rw [major_5 e26]; simp only [e0, e16, e21, reduceIte, ofNat_val]

theorem Sys2Proof.Laws.Roundtrip.xori (d : Reg) (a : Reg) (i : Fin 65536) : Statement (.xori d a i) := by
  intro _ hw
  have hn : ∀ x0 x1 x2 : Nat, pack [(16, x2), (5, x1), (5, x0), (6, 6)] = fields 0x18000000 [(x0, 21), (x1, 16), (x2, 0)] := by
    intros; simp only [pack_eq, packAt_cons, packAt_nil, Nat.reduceAdd, fields_cons, fields_nil]; omega
  replace hn := hn d.val a.val i.val
  have b0 := d.isLt
  have b1 := a.isLt
  have b2 := i.isLt
  have e0 := bits_pack 16 i.val [(5, a.val), (5, d.val), (6, 6)] b2 15 0 [] trivial rfl rfl
  have e16 := bits_pack 5 a.val [(5, d.val), (6, 6)] b1 20 16 [(16, i.val)] ⟨b2, trivial⟩ rfl rfl
  have e21 := bits_pack 5 d.val [(6, 6)] b0 25 21 [(16, i.val), (5, a.val)] ⟨b2, b1, trivial⟩ rfl rfl
  have e26 := bits_pack 6 6 [] (by decide) 31 26 [(16, i.val), (5, a.val), (5, d.val)] ⟨b2, b1, b0, trivial⟩ rfl rfl
  simp only [List.nil_append, List.cons_append] at e0 e16 e21 e26
  have hl : pack [(16, i.val), (5, a.val), (5, d.val), (6, 6)] < 2 ^ 32 := pack_lt [(16, i.val), (5, a.val), (5, d.val), (6, 6)] ⟨b2, b1, b0, (by decide), trivial⟩ rfl
  generalize pack [(16, i.val), (5, a.val), (5, d.val), (6, 6)] = wd at *
  refine decode_of wd hn.symm ?_ hw hl
  · rw [major_6 e26]; simp only [e0, e16, e21, reduceIte, ofNat_val]

theorem Sys2Proof.Laws.Roundtrip.slti (d : Reg) (a : Reg) (i : Fin 65536) : Statement (.slti d a i) := by
  intro _ hw
  have hn : ∀ x0 x1 x2 : Nat, pack [(16, x2), (5, x1), (5, x0), (6, 7)] = fields 0x1C000000 [(x0, 21), (x1, 16), (x2, 0)] := by
    intros; simp only [pack_eq, packAt_cons, packAt_nil, Nat.reduceAdd, fields_cons, fields_nil]; omega
  replace hn := hn d.val a.val i.val
  have b0 := d.isLt
  have b1 := a.isLt
  have b2 := i.isLt
  have e0 := bits_pack 16 i.val [(5, a.val), (5, d.val), (6, 7)] b2 15 0 [] trivial rfl rfl
  have e16 := bits_pack 5 a.val [(5, d.val), (6, 7)] b1 20 16 [(16, i.val)] ⟨b2, trivial⟩ rfl rfl
  have e21 := bits_pack 5 d.val [(6, 7)] b0 25 21 [(16, i.val), (5, a.val)] ⟨b2, b1, trivial⟩ rfl rfl
  have e26 := bits_pack 6 7 [] (by decide) 31 26 [(16, i.val), (5, a.val), (5, d.val)] ⟨b2, b1, b0, trivial⟩ rfl rfl
  simp only [List.nil_append, List.cons_append] at e0 e16 e21 e26
  have hl : pack [(16, i.val), (5, a.val), (5, d.val), (6, 7)] < 2 ^ 32 := pack_lt [(16, i.val), (5, a.val), (5, d.val), (6, 7)] ⟨b2, b1, b0, (by decide), trivial⟩ rfl
  generalize pack [(16, i.val), (5, a.val), (5, d.val), (6, 7)] = wd at *
  refine decode_of wd hn.symm ?_ hw hl
  · rw [major_7 e26]; simp only [e0, e16, e21, reduceIte, ofNat_val]

theorem Sys2Proof.Laws.Roundtrip.sltiu (d : Reg) (a : Reg) (i : Fin 65536) : Statement (.sltiu d a i) := by
  intro _ hw
  have hn : ∀ x0 x1 x2 : Nat, pack [(16, x2), (5, x1), (5, x0), (6, 8)] = fields 0x20000000 [(x0, 21), (x1, 16), (x2, 0)] := by
    intros; simp only [pack_eq, packAt_cons, packAt_nil, Nat.reduceAdd, fields_cons, fields_nil]; omega
  replace hn := hn d.val a.val i.val
  have b0 := d.isLt
  have b1 := a.isLt
  have b2 := i.isLt
  have e0 := bits_pack 16 i.val [(5, a.val), (5, d.val), (6, 8)] b2 15 0 [] trivial rfl rfl
  have e16 := bits_pack 5 a.val [(5, d.val), (6, 8)] b1 20 16 [(16, i.val)] ⟨b2, trivial⟩ rfl rfl
  have e21 := bits_pack 5 d.val [(6, 8)] b0 25 21 [(16, i.val), (5, a.val)] ⟨b2, b1, trivial⟩ rfl rfl
  have e26 := bits_pack 6 8 [] (by decide) 31 26 [(16, i.val), (5, a.val), (5, d.val)] ⟨b2, b1, b0, trivial⟩ rfl rfl
  simp only [List.nil_append, List.cons_append] at e0 e16 e21 e26
  have hl : pack [(16, i.val), (5, a.val), (5, d.val), (6, 8)] < 2 ^ 32 := pack_lt [(16, i.val), (5, a.val), (5, d.val), (6, 8)] ⟨b2, b1, b0, (by decide), trivial⟩ rfl
  generalize pack [(16, i.val), (5, a.val), (5, d.val), (6, 8)] = wd at *
  refine decode_of wd hn.symm ?_ hw hl
  · rw [major_8 e26]; simp only [e0, e16, e21, reduceIte, ofNat_val]

theorem Sys2Proof.Laws.Roundtrip.shi (d : Reg) (a : Reg) (t : ShiftKind) (w : Width) (n : Fin 64) : Statement (.shi d a t w n) := by
  intro _ hw
  have hn : ∀ x0 x1 x2 x3 x4 : Nat, pack [(6, x4), (7, 0), (1, x3), (2, x2), (5, x1), (5, x0), (6, 9)] = fields 0x24000000 [(x0, 21), (x1, 16), (x2, 14), (x3, 13), (x4, 0)] := by
    intros; simp only [pack_eq, packAt_cons, packAt_nil, Nat.reduceAdd, fields_cons, fields_nil]; omega
  replace hn := hn d.val a.val t.toBits w.toBits n.val
  have b0 := d.isLt
  have b1 := a.isLt
  have b2 := ShiftKind.toBits_lt t
  have b3 := Width.toBits_lt w
  have b4 := n.isLt
  have e0 := bits_pack 6 n.val [(7, 0), (1, w.toBits), (2, t.toBits), (5, a.val), (5, d.val), (6, 9)] b4 5 0 [] trivial rfl rfl
  have e6 := bits_pack 7 0 [(1, w.toBits), (2, t.toBits), (5, a.val), (5, d.val), (6, 9)] (Nat.two_pow_pos _) 12 6 [(6, n.val)] ⟨b4, trivial⟩ rfl rfl
  have e13 := bits_pack 1 w.toBits [(2, t.toBits), (5, a.val), (5, d.val), (6, 9)] b3 13 13 [(6, n.val), (7, 0)] ⟨b4, (Nat.two_pow_pos _), trivial⟩ rfl rfl
  have e14 := bits_pack 2 t.toBits [(5, a.val), (5, d.val), (6, 9)] b2 15 14 [(6, n.val), (7, 0), (1, w.toBits)] ⟨b4, (Nat.two_pow_pos _), b3, trivial⟩ rfl rfl
  have e16 := bits_pack 5 a.val [(5, d.val), (6, 9)] b1 20 16 [(6, n.val), (7, 0), (1, w.toBits), (2, t.toBits)] ⟨b4, (Nat.two_pow_pos _), b3, b2, trivial⟩ rfl rfl
  have e21 := bits_pack 5 d.val [(6, 9)] b0 25 21 [(6, n.val), (7, 0), (1, w.toBits), (2, t.toBits), (5, a.val)] ⟨b4, (Nat.two_pow_pos _), b3, b2, b1, trivial⟩ rfl rfl
  have e26 := bits_pack 6 9 [] (by decide) 31 26 [(6, n.val), (7, 0), (1, w.toBits), (2, t.toBits), (5, a.val), (5, d.val)] ⟨b4, (Nat.two_pow_pos _), b3, b2, b1, b0, trivial⟩ rfl rfl
  simp only [List.nil_append, List.cons_append] at e0 e6 e13 e14 e16 e21 e26
  have hl : pack [(6, n.val), (7, 0), (1, w.toBits), (2, t.toBits), (5, a.val), (5, d.val), (6, 9)] < 2 ^ 32 := pack_lt [(6, n.val), (7, 0), (1, w.toBits), (2, t.toBits), (5, a.val), (5, d.val), (6, 9)] ⟨b4, (Nat.two_pow_pos _), b3, b2, b1, b0, (by decide), trivial⟩ rfl
  generalize pack [(6, n.val), (7, 0), (1, w.toBits), (2, t.toBits), (5, a.val), (5, d.val), (6, 9)] = wd at *
  refine decode_of wd hn.symm ?_ hw hl
  · rw [major_9 e26]; rw [e0, e6, e13, e14, e16, e21]; simp only [reduceIte, ofNat_val, ShiftKind.ofBits?_toBits, Width.ofBits_toBits]

theorem Sys2Proof.Laws.Roundtrip.beq (a : Reg) (b : Reg) (o : Fin 8192) : Statement (.beq a b o) := by
  intro _ hw
  have hn : ∀ x0 x1 x2 : Nat, pack [(13, x2), (3, 0), (5, x1), (5, x0), (6, 12)] = fields 0x30000000 [(x0, 21), (x1, 16), (x2, 0)] := by
    intros; simp only [pack_eq, packAt_cons, packAt_nil, Nat.reduceAdd, fields_cons, fields_nil]; omega
  replace hn := hn a.val b.val o.val
  have b0 := a.isLt
  have b1 := b.isLt
  have b2 := o.isLt
  have e0 := bits_pack 13 o.val [(3, 0), (5, b.val), (5, a.val), (6, 12)] b2 12 0 [] trivial rfl rfl
  have e13 := bits_pack 3 0 [(5, b.val), (5, a.val), (6, 12)] (Nat.two_pow_pos _) 15 13 [(13, o.val)] ⟨b2, trivial⟩ rfl rfl
  have e16 := bits_pack 5 b.val [(5, a.val), (6, 12)] b1 20 16 [(13, o.val), (3, 0)] ⟨b2, (Nat.two_pow_pos _), trivial⟩ rfl rfl
  have e21 := bits_pack 5 a.val [(6, 12)] b0 25 21 [(13, o.val), (3, 0), (5, b.val)] ⟨b2, (Nat.two_pow_pos _), b1, trivial⟩ rfl rfl
  have e26 := bits_pack 6 12 [] (by decide) 31 26 [(13, o.val), (3, 0), (5, b.val), (5, a.val)] ⟨b2, (Nat.two_pow_pos _), b1, b0, trivial⟩ rfl rfl
  simp only [List.nil_append, List.cons_append] at e0 e13 e16 e21 e26
  have hl : pack [(13, o.val), (3, 0), (5, b.val), (5, a.val), (6, 12)] < 2 ^ 32 := pack_lt [(13, o.val), (3, 0), (5, b.val), (5, a.val), (6, 12)] ⟨b2, (Nat.two_pow_pos _), b1, b0, (by decide), trivial⟩ rfl
  generalize pack [(13, o.val), (3, 0), (5, b.val), (5, a.val), (6, 12)] = wd at *
  refine decode_of wd hn.symm ?_ hw hl
  · rw [major_12 e26]; simp only [decodeBcc, e13, e0, e16, e21, reduceIte, ofNat_val]

theorem Sys2Proof.Laws.Roundtrip.bne (a : Reg) (b : Reg) (o : Fin 8192) : Statement (.bne a b o) := by
  intro _ hw
  have hn : ∀ x0 x1 x2 : Nat, pack [(13, x2), (3, 1), (5, x1), (5, x0), (6, 12)] = fields 0x30002000 [(x0, 21), (x1, 16), (x2, 0)] := by
    intros; simp only [pack_eq, packAt_cons, packAt_nil, Nat.reduceAdd, fields_cons, fields_nil]; omega
  replace hn := hn a.val b.val o.val
  have b0 := a.isLt
  have b1 := b.isLt
  have b2 := o.isLt
  have e0 := bits_pack 13 o.val [(3, 1), (5, b.val), (5, a.val), (6, 12)] b2 12 0 [] trivial rfl rfl
  have e13 := bits_pack 3 1 [(5, b.val), (5, a.val), (6, 12)] (by decide) 15 13 [(13, o.val)] ⟨b2, trivial⟩ rfl rfl
  have e16 := bits_pack 5 b.val [(5, a.val), (6, 12)] b1 20 16 [(13, o.val), (3, 1)] ⟨b2, (by decide), trivial⟩ rfl rfl
  have e21 := bits_pack 5 a.val [(6, 12)] b0 25 21 [(13, o.val), (3, 1), (5, b.val)] ⟨b2, (by decide), b1, trivial⟩ rfl rfl
  have e26 := bits_pack 6 12 [] (by decide) 31 26 [(13, o.val), (3, 1), (5, b.val), (5, a.val)] ⟨b2, (by decide), b1, b0, trivial⟩ rfl rfl
  simp only [List.nil_append, List.cons_append] at e0 e13 e16 e21 e26
  have hl : pack [(13, o.val), (3, 1), (5, b.val), (5, a.val), (6, 12)] < 2 ^ 32 := pack_lt [(13, o.val), (3, 1), (5, b.val), (5, a.val), (6, 12)] ⟨b2, (by decide), b1, b0, (by decide), trivial⟩ rfl
  generalize pack [(13, o.val), (3, 1), (5, b.val), (5, a.val), (6, 12)] = wd at *
  refine decode_of wd hn.symm ?_ hw hl
  · rw [major_12 e26]; simp only [decodeBcc, e13, e0, e16, e21, reduceIte, ofNat_val]

theorem Sys2Proof.Laws.Roundtrip.blts (a : Reg) (b : Reg) (o : Fin 8192) : Statement (.blts a b o) := by
  intro _ hw
  have hn : ∀ x0 x1 x2 : Nat, pack [(13, x2), (3, 2), (5, x1), (5, x0), (6, 12)] = fields 0x30004000 [(x0, 21), (x1, 16), (x2, 0)] := by
    intros; simp only [pack_eq, packAt_cons, packAt_nil, Nat.reduceAdd, fields_cons, fields_nil]; omega
  replace hn := hn a.val b.val o.val
  have b0 := a.isLt
  have b1 := b.isLt
  have b2 := o.isLt
  have e0 := bits_pack 13 o.val [(3, 2), (5, b.val), (5, a.val), (6, 12)] b2 12 0 [] trivial rfl rfl
  have e13 := bits_pack 3 2 [(5, b.val), (5, a.val), (6, 12)] (by decide) 15 13 [(13, o.val)] ⟨b2, trivial⟩ rfl rfl
  have e16 := bits_pack 5 b.val [(5, a.val), (6, 12)] b1 20 16 [(13, o.val), (3, 2)] ⟨b2, (by decide), trivial⟩ rfl rfl
  have e21 := bits_pack 5 a.val [(6, 12)] b0 25 21 [(13, o.val), (3, 2), (5, b.val)] ⟨b2, (by decide), b1, trivial⟩ rfl rfl
  have e26 := bits_pack 6 12 [] (by decide) 31 26 [(13, o.val), (3, 2), (5, b.val), (5, a.val)] ⟨b2, (by decide), b1, b0, trivial⟩ rfl rfl
  simp only [List.nil_append, List.cons_append] at e0 e13 e16 e21 e26
  have hl : pack [(13, o.val), (3, 2), (5, b.val), (5, a.val), (6, 12)] < 2 ^ 32 := pack_lt [(13, o.val), (3, 2), (5, b.val), (5, a.val), (6, 12)] ⟨b2, (by decide), b1, b0, (by decide), trivial⟩ rfl
  generalize pack [(13, o.val), (3, 2), (5, b.val), (5, a.val), (6, 12)] = wd at *
  refine decode_of wd hn.symm ?_ hw hl
  · rw [major_12 e26]; simp only [decodeBcc, e13, e0, e16, e21, reduceIte, ofNat_val]

theorem Sys2Proof.Laws.Roundtrip.bges (a : Reg) (b : Reg) (o : Fin 8192) : Statement (.bges a b o) := by
  intro _ hw
  have hn : ∀ x0 x1 x2 : Nat, pack [(13, x2), (3, 3), (5, x1), (5, x0), (6, 12)] = fields 0x30006000 [(x0, 21), (x1, 16), (x2, 0)] := by
    intros; simp only [pack_eq, packAt_cons, packAt_nil, Nat.reduceAdd, fields_cons, fields_nil]; omega
  replace hn := hn a.val b.val o.val
  have b0 := a.isLt
  have b1 := b.isLt
  have b2 := o.isLt
  have e0 := bits_pack 13 o.val [(3, 3), (5, b.val), (5, a.val), (6, 12)] b2 12 0 [] trivial rfl rfl
  have e13 := bits_pack 3 3 [(5, b.val), (5, a.val), (6, 12)] (by decide) 15 13 [(13, o.val)] ⟨b2, trivial⟩ rfl rfl
  have e16 := bits_pack 5 b.val [(5, a.val), (6, 12)] b1 20 16 [(13, o.val), (3, 3)] ⟨b2, (by decide), trivial⟩ rfl rfl
  have e21 := bits_pack 5 a.val [(6, 12)] b0 25 21 [(13, o.val), (3, 3), (5, b.val)] ⟨b2, (by decide), b1, trivial⟩ rfl rfl
  have e26 := bits_pack 6 12 [] (by decide) 31 26 [(13, o.val), (3, 3), (5, b.val), (5, a.val)] ⟨b2, (by decide), b1, b0, trivial⟩ rfl rfl
  simp only [List.nil_append, List.cons_append] at e0 e13 e16 e21 e26
  have hl : pack [(13, o.val), (3, 3), (5, b.val), (5, a.val), (6, 12)] < 2 ^ 32 := pack_lt [(13, o.val), (3, 3), (5, b.val), (5, a.val), (6, 12)] ⟨b2, (by decide), b1, b0, (by decide), trivial⟩ rfl
  generalize pack [(13, o.val), (3, 3), (5, b.val), (5, a.val), (6, 12)] = wd at *
  refine decode_of wd hn.symm ?_ hw hl
  · rw [major_12 e26]; simp only [decodeBcc, e13, e0, e16, e21, reduceIte, ofNat_val]

theorem Sys2Proof.Laws.Roundtrip.bltz (a : Reg) (b : Reg) (o : Fin 8192) : Statement (.bltz a b o) := by
  intro _ hw
  have hn : ∀ x0 x1 x2 : Nat, pack [(13, x2), (3, 4), (5, x1), (5, x0), (6, 12)] = fields 0x30008000 [(x0, 21), (x1, 16), (x2, 0)] := by
    intros; simp only [pack_eq, packAt_cons, packAt_nil, Nat.reduceAdd, fields_cons, fields_nil]; omega
  replace hn := hn a.val b.val o.val
  have b0 := a.isLt
  have b1 := b.isLt
  have b2 := o.isLt
  have e0 := bits_pack 13 o.val [(3, 4), (5, b.val), (5, a.val), (6, 12)] b2 12 0 [] trivial rfl rfl
  have e13 := bits_pack 3 4 [(5, b.val), (5, a.val), (6, 12)] (by decide) 15 13 [(13, o.val)] ⟨b2, trivial⟩ rfl rfl
  have e16 := bits_pack 5 b.val [(5, a.val), (6, 12)] b1 20 16 [(13, o.val), (3, 4)] ⟨b2, (by decide), trivial⟩ rfl rfl
  have e21 := bits_pack 5 a.val [(6, 12)] b0 25 21 [(13, o.val), (3, 4), (5, b.val)] ⟨b2, (by decide), b1, trivial⟩ rfl rfl
  have e26 := bits_pack 6 12 [] (by decide) 31 26 [(13, o.val), (3, 4), (5, b.val), (5, a.val)] ⟨b2, (by decide), b1, b0, trivial⟩ rfl rfl
  simp only [List.nil_append, List.cons_append] at e0 e13 e16 e21 e26
  have hl : pack [(13, o.val), (3, 4), (5, b.val), (5, a.val), (6, 12)] < 2 ^ 32 := pack_lt [(13, o.val), (3, 4), (5, b.val), (5, a.val), (6, 12)] ⟨b2, (by decide), b1, b0, (by decide), trivial⟩ rfl
  generalize pack [(13, o.val), (3, 4), (5, b.val), (5, a.val), (6, 12)] = wd at *
  refine decode_of wd hn.symm ?_ hw hl
  · rw [major_12 e26]; simp only [decodeBcc, e13, e0, e16, e21, reduceIte, ofNat_val]

theorem Sys2Proof.Laws.Roundtrip.bgez (a : Reg) (b : Reg) (o : Fin 8192) : Statement (.bgez a b o) := by
  intro _ hw
  have hn : ∀ x0 x1 x2 : Nat, pack [(13, x2), (3, 5), (5, x1), (5, x0), (6, 12)] = fields 0x3000A000 [(x0, 21), (x1, 16), (x2, 0)] := by
    intros; simp only [pack_eq, packAt_cons, packAt_nil, Nat.reduceAdd, fields_cons, fields_nil]; omega
  replace hn := hn a.val b.val o.val
  have b0 := a.isLt
  have b1 := b.isLt
  have b2 := o.isLt
  have e0 := bits_pack 13 o.val [(3, 5), (5, b.val), (5, a.val), (6, 12)] b2 12 0 [] trivial rfl rfl
  have e13 := bits_pack 3 5 [(5, b.val), (5, a.val), (6, 12)] (by decide) 15 13 [(13, o.val)] ⟨b2, trivial⟩ rfl rfl
  have e16 := bits_pack 5 b.val [(5, a.val), (6, 12)] b1 20 16 [(13, o.val), (3, 5)] ⟨b2, (by decide), trivial⟩ rfl rfl
  have e21 := bits_pack 5 a.val [(6, 12)] b0 25 21 [(13, o.val), (3, 5), (5, b.val)] ⟨b2, (by decide), b1, trivial⟩ rfl rfl
  have e26 := bits_pack 6 12 [] (by decide) 31 26 [(13, o.val), (3, 5), (5, b.val), (5, a.val)] ⟨b2, (by decide), b1, b0, trivial⟩ rfl rfl
  simp only [List.nil_append, List.cons_append] at e0 e13 e16 e21 e26
  have hl : pack [(13, o.val), (3, 5), (5, b.val), (5, a.val), (6, 12)] < 2 ^ 32 := pack_lt [(13, o.val), (3, 5), (5, b.val), (5, a.val), (6, 12)] ⟨b2, (by decide), b1, b0, (by decide), trivial⟩ rfl
  generalize pack [(13, o.val), (3, 5), (5, b.val), (5, a.val), (6, 12)] = wd at *
  refine decode_of wd hn.symm ?_ hw hl
  · rw [major_12 e26]; simp only [decodeBcc, e13, e0, e16, e21, reduceIte, ofNat_val]

theorem Sys2Proof.Laws.Roundtrip.jmp (o : Fin 67108864) : Statement (.jmp o) := by
  intro _ hw
  have hn : ∀ x0 : Nat, pack [(26, x0), (6, 13)] = fields 0x34000000 [(x0, 0)] := by
    intros; simp only [pack_eq, packAt_cons, packAt_nil, Nat.reduceAdd, fields_cons, fields_nil]; omega
  replace hn := hn o.val
  have b0 := o.isLt
  have e0 := bits_pack 26 o.val [(6, 13)] b0 25 0 [] trivial rfl rfl
  have e26 := bits_pack 6 13 [] (by decide) 31 26 [(26, o.val)] ⟨b0, trivial⟩ rfl rfl
  simp only [List.nil_append, List.cons_append] at e0 e26
  have hl : pack [(26, o.val), (6, 13)] < 2 ^ 32 := pack_lt [(26, o.val), (6, 13)] ⟨b0, (by decide), trivial⟩ rfl
  generalize pack [(26, o.val), (6, 13)] = wd at *
  refine decode_of wd hn.symm ?_ hw hl
  · rw [major_13 e26]; simp only [e0, reduceIte, ofNat_val]

theorem Sys2Proof.Laws.Roundtrip.call (o : Fin 67108864) : Statement (.call o) := by
  intro _ hw
  have hn : ∀ x0 : Nat, pack [(26, x0), (6, 14)] = fields 0x38000000 [(x0, 0)] := by
    intros; simp only [pack_eq, packAt_cons, packAt_nil, Nat.reduceAdd, fields_cons, fields_nil]; omega
  replace hn := hn o.val
  have b0 := o.isLt
  have e0 := bits_pack 26 o.val [(6, 14)] b0 25 0 [] trivial rfl rfl
  have e26 := bits_pack 6 14 [] (by decide) 31 26 [(26, o.val)] ⟨b0, trivial⟩ rfl rfl
  simp only [List.nil_append, List.cons_append] at e0 e26
  have hl : pack [(26, o.val), (6, 14)] < 2 ^ 32 := pack_lt [(26, o.val), (6, 14)] ⟨b0, (by decide), trivial⟩ rfl
  generalize pack [(26, o.val), (6, 14)] = wd at *
  refine decode_of wd hn.symm ?_ hw hl
  · rw [major_14 e26]; simp only [e0, reduceIte, ofNat_val]

theorem Sys2Proof.Laws.Roundtrip.jr (a : Reg) : Statement (.jr a) := by
  intro _ hw
  have hn : ∀ x0 : Nat, pack [(5, 0), (6, 0), (5, 0), (5, x0), (5, 0), (6, 15)] = fields 0x3C000000 [(x0, 16)] := by
    intros; simp only [pack_eq, packAt_cons, packAt_nil, Nat.reduceAdd, fields_cons, fields_nil]; omega
  replace hn := hn a.val
  have b0 := a.isLt
  have e0 := bits_pack 5 0 [(6, 0), (5, 0), (5, a.val), (5, 0), (6, 15)] (Nat.two_pow_pos _) 4 0 [] trivial rfl rfl
  have e5 := bits_pack 6 0 [(5, 0), (5, a.val), (5, 0), (6, 15)] (Nat.two_pow_pos _) 10 5 [(5, 0)] ⟨(Nat.two_pow_pos _), trivial⟩ rfl rfl
  have e11 := bits_pack 5 0 [(5, a.val), (5, 0), (6, 15)] (Nat.two_pow_pos _) 15 11 [(5, 0), (6, 0)] ⟨(Nat.two_pow_pos _), (Nat.two_pow_pos _), trivial⟩ rfl rfl
  have e16 := bits_pack 5 a.val [(5, 0), (6, 15)] b0 20 16 [(5, 0), (6, 0), (5, 0)] ⟨(Nat.two_pow_pos _), (Nat.two_pow_pos _), (Nat.two_pow_pos _), trivial⟩ rfl rfl
  have e21 := bits_pack 5 0 [(6, 15)] (Nat.two_pow_pos _) 25 21 [(5, 0), (6, 0), (5, 0), (5, a.val)] ⟨(Nat.two_pow_pos _), (Nat.two_pow_pos _), (Nat.two_pow_pos _), b0, trivial⟩ rfl rfl
  have e26 := bits_pack 6 15 [] (by decide) 31 26 [(5, 0), (6, 0), (5, 0), (5, a.val), (5, 0)] ⟨(Nat.two_pow_pos _), (Nat.two_pow_pos _), (Nat.two_pow_pos _), b0, (Nat.two_pow_pos _), trivial⟩ rfl rfl
  simp only [List.nil_append, List.cons_append] at e0 e5 e11 e16 e21 e26
  have hl : pack [(5, 0), (6, 0), (5, 0), (5, a.val), (5, 0), (6, 15)] < 2 ^ 32 := pack_lt [(5, 0), (6, 0), (5, 0), (5, a.val), (5, 0), (6, 15)] ⟨(Nat.two_pow_pos _), (Nat.two_pow_pos _), (Nat.two_pow_pos _), b0, (Nat.two_pow_pos _), (by decide), trivial⟩ rfl
  generalize pack [(5, 0), (6, 0), (5, 0), (5, a.val), (5, 0), (6, 15)] = wd at *
  refine decode_of wd hn.symm ?_ hw hl
  · rw [major_15 e26]; simp only [decodeJump, e5, e0, e11, e16, e21, reduceIte, ofNat_val]

theorem Sys2Proof.Laws.Roundtrip.callr (a : Reg) : Statement (.callr a) := by
  intro _ hw
  have hn : ∀ x0 : Nat, pack [(5, 0), (6, 1), (5, 0), (5, x0), (5, 0), (6, 15)] = fields 0x3C000020 [(x0, 16)] := by
    intros; simp only [pack_eq, packAt_cons, packAt_nil, Nat.reduceAdd, fields_cons, fields_nil]; omega
  replace hn := hn a.val
  have b0 := a.isLt
  have e0 := bits_pack 5 0 [(6, 1), (5, 0), (5, a.val), (5, 0), (6, 15)] (Nat.two_pow_pos _) 4 0 [] trivial rfl rfl
  have e5 := bits_pack 6 1 [(5, 0), (5, a.val), (5, 0), (6, 15)] (by decide) 10 5 [(5, 0)] ⟨(Nat.two_pow_pos _), trivial⟩ rfl rfl
  have e11 := bits_pack 5 0 [(5, a.val), (5, 0), (6, 15)] (Nat.two_pow_pos _) 15 11 [(5, 0), (6, 1)] ⟨(Nat.two_pow_pos _), (by decide), trivial⟩ rfl rfl
  have e16 := bits_pack 5 a.val [(5, 0), (6, 15)] b0 20 16 [(5, 0), (6, 1), (5, 0)] ⟨(Nat.two_pow_pos _), (by decide), (Nat.two_pow_pos _), trivial⟩ rfl rfl
  have e21 := bits_pack 5 0 [(6, 15)] (Nat.two_pow_pos _) 25 21 [(5, 0), (6, 1), (5, 0), (5, a.val)] ⟨(Nat.two_pow_pos _), (by decide), (Nat.two_pow_pos _), b0, trivial⟩ rfl rfl
  have e26 := bits_pack 6 15 [] (by decide) 31 26 [(5, 0), (6, 1), (5, 0), (5, a.val), (5, 0)] ⟨(Nat.two_pow_pos _), (by decide), (Nat.two_pow_pos _), b0, (Nat.two_pow_pos _), trivial⟩ rfl rfl
  simp only [List.nil_append, List.cons_append] at e0 e5 e11 e16 e21 e26
  have hl : pack [(5, 0), (6, 1), (5, 0), (5, a.val), (5, 0), (6, 15)] < 2 ^ 32 := pack_lt [(5, 0), (6, 1), (5, 0), (5, a.val), (5, 0), (6, 15)] ⟨(Nat.two_pow_pos _), (by decide), (Nat.two_pow_pos _), b0, (Nat.two_pow_pos _), (by decide), trivial⟩ rfl
  generalize pack [(5, 0), (6, 1), (5, 0), (5, a.val), (5, 0), (6, 15)] = wd at *
  refine decode_of wd hn.symm ?_ hw hl
  · rw [major_15 e26]; simp only [decodeJump, e5, e0, e11, e16, e21, reduceIte, ofNat_val]

theorem Sys2Proof.Laws.Roundtrip.ret : Statement .ret := by
  intro _ hw
  have hn : pack [(5, 0), (6, 2), (15, 0), (6, 15)] = 0x3C000040 := rfl
  have e0 := bits_pack 5 0 [(6, 2), (15, 0), (6, 15)] (Nat.two_pow_pos _) 4 0 [] trivial rfl rfl
  have e5 := bits_pack 6 2 [(15, 0), (6, 15)] (by decide) 10 5 [(5, 0)] ⟨(Nat.two_pow_pos _), trivial⟩ rfl rfl
  have e11 := bits_pack 15 0 [(6, 15)] (Nat.two_pow_pos _) 25 11 [(5, 0), (6, 2)] ⟨(Nat.two_pow_pos _), (by decide), trivial⟩ rfl rfl
  have e26 := bits_pack 6 15 [] (by decide) 31 26 [(5, 0), (6, 2), (15, 0)] ⟨(Nat.two_pow_pos _), (by decide), (Nat.two_pow_pos _), trivial⟩ rfl rfl
  simp only [List.nil_append, List.cons_append] at e0 e5 e11 e26
  have hl : pack [(5, 0), (6, 2), (15, 0), (6, 15)] < 2 ^ 32 := pack_lt [(5, 0), (6, 2), (15, 0), (6, 15)] ⟨(Nat.two_pow_pos _), (by decide), (Nat.two_pow_pos _), (by decide), trivial⟩ rfl
  generalize pack [(5, 0), (6, 2), (15, 0), (6, 15)] = wd at *
  refine decode_of wd hn.symm ?_ hw hl
  · rw [major_15 e26]; simp only [decodeJump, e5, e0, e11, reduceIte]

theorem Sys2Proof.Laws.Roundtrip.loop (a : Reg) (len : Fin 8192) : Statement (.loop a len) := by
  intro _ hw
  have hn : ∀ x0 x1 : Nat, pack [(13, x1), (3, 0), (5, 0), (5, x0), (6, 16)] = fields 0x40000000 [(x0, 21), (x1, 0)] := by
    intros; simp only [pack_eq, packAt_cons, packAt_nil, Nat.reduceAdd, fields_cons, fields_nil]; omega
  replace hn := hn a.val len.val
  have b0 := a.isLt
  have b1 := len.isLt
  have e0 := bits_pack 13 len.val [(3, 0), (5, 0), (5, a.val), (6, 16)] b1 12 0 [] trivial rfl rfl
  have e13 := bits_pack 3 0 [(5, 0), (5, a.val), (6, 16)] (Nat.two_pow_pos _) 15 13 [(13, len.val)] ⟨b1, trivial⟩ rfl rfl
  have e16 := bits_pack 5 0 [(5, a.val), (6, 16)] (Nat.two_pow_pos _) 20 16 [(13, len.val), (3, 0)] ⟨b1, (Nat.two_pow_pos _), trivial⟩ rfl rfl
  have e21 := bits_pack 5 a.val [(6, 16)] b0 25 21 [(13, len.val), (3, 0), (5, 0)] ⟨b1, (Nat.two_pow_pos _), (Nat.two_pow_pos _), trivial⟩ rfl rfl
  have e26 := bits_pack 6 16 [] (by decide) 31 26 [(13, len.val), (3, 0), (5, 0), (5, a.val)] ⟨b1, (Nat.two_pow_pos _), (Nat.two_pow_pos _), b0, trivial⟩ rfl rfl
  simp only [List.nil_append, List.cons_append] at e0 e13 e16 e21 e26
  have hl : pack [(13, len.val), (3, 0), (5, 0), (5, a.val), (6, 16)] < 2 ^ 32 := pack_lt [(13, len.val), (3, 0), (5, 0), (5, a.val), (6, 16)] ⟨b1, (Nat.two_pow_pos _), (Nat.two_pow_pos _), b0, (by decide), trivial⟩ rfl
  generalize pack [(13, len.val), (3, 0), (5, 0), (5, a.val), (6, 16)] = wd at *
  refine decode_of wd hn.symm ?_ hw hl
  · rw [major_16 e26]; simp only [decodeLoop, e13, e0, e16, e21, reduceIte, ofNat_val]

theorem Sys2Proof.Laws.Roundtrip.loopk (k : Fin 256) (len : Fin 8192) : Statement (.loopk k len) := by
  intro _ hw
  have hn : ∀ x0 x1 : Nat, pack [(13, x1), (3, 1), (2, 0), (8, x0), (6, 16)] = fields 0x40002000 [(x0, 18), (x1, 0)] := by
    intros; simp only [pack_eq, packAt_cons, packAt_nil, Nat.reduceAdd, fields_cons, fields_nil]; omega
  replace hn := hn k.val len.val
  have b0 := k.isLt
  have b1 := len.isLt
  have e0 := bits_pack 13 len.val [(3, 1), (2, 0), (8, k.val), (6, 16)] b1 12 0 [] trivial rfl rfl
  have e13 := bits_pack 3 1 [(2, 0), (8, k.val), (6, 16)] (by decide) 15 13 [(13, len.val)] ⟨b1, trivial⟩ rfl rfl
  have e16 := bits_pack 2 0 [(8, k.val), (6, 16)] (Nat.two_pow_pos _) 17 16 [(13, len.val), (3, 1)] ⟨b1, (by decide), trivial⟩ rfl rfl
  have e18 := bits_pack 8 k.val [(6, 16)] b0 25 18 [(13, len.val), (3, 1), (2, 0)] ⟨b1, (by decide), (Nat.two_pow_pos _), trivial⟩ rfl rfl
  have e26 := bits_pack 6 16 [] (by decide) 31 26 [(13, len.val), (3, 1), (2, 0), (8, k.val)] ⟨b1, (by decide), (Nat.two_pow_pos _), b0, trivial⟩ rfl rfl
  simp only [List.nil_append, List.cons_append] at e0 e13 e16 e18 e26
  have hl : pack [(13, len.val), (3, 1), (2, 0), (8, k.val), (6, 16)] < 2 ^ 32 := pack_lt [(13, len.val), (3, 1), (2, 0), (8, k.val), (6, 16)] ⟨b1, (by decide), (Nat.two_pow_pos _), b0, (by decide), trivial⟩ rfl
  generalize pack [(13, len.val), (3, 1), (2, 0), (8, k.val), (6, 16)] = wd at *
  refine decode_of wd hn.symm ?_ hw hl
  · rw [major_16 e26]; simp only [decodeLoop, e13, e0, e16, e18, reduceIte, ofNat_val]

theorem Sys2Proof.Laws.Roundtrip.lexit : Statement .lexit := by
  intro _ hw
  have hn : pack [(13, 0), (3, 2), (10, 0), (6, 16)] = 0x40004000 := rfl
  have e0 := bits_pack 13 0 [(3, 2), (10, 0), (6, 16)] (Nat.two_pow_pos _) 12 0 [] trivial rfl rfl
  have e13 := bits_pack 3 2 [(10, 0), (6, 16)] (by decide) 15 13 [(13, 0)] ⟨(Nat.two_pow_pos _), trivial⟩ rfl rfl
  have e16 := bits_pack 10 0 [(6, 16)] (Nat.two_pow_pos _) 25 16 [(13, 0), (3, 2)] ⟨(Nat.two_pow_pos _), (by decide), trivial⟩ rfl rfl
  have e26 := bits_pack 6 16 [] (by decide) 31 26 [(13, 0), (3, 2), (10, 0)] ⟨(Nat.two_pow_pos _), (by decide), (Nat.two_pow_pos _), trivial⟩ rfl rfl
  simp only [List.nil_append, List.cons_append] at e0 e13 e16 e26
  have hl : pack [(13, 0), (3, 2), (10, 0), (6, 16)] < 2 ^ 32 := pack_lt [(13, 0), (3, 2), (10, 0), (6, 16)] ⟨(Nat.two_pow_pos _), (by decide), (Nat.two_pow_pos _), (by decide), trivial⟩ rfl
  generalize pack [(13, 0), (3, 2), (10, 0), (6, 16)] = wd at *
  refine decode_of wd hn.symm ?_ hw hl
  · rw [major_16 e26]; simp only [decodeLoop, e13, e0, e16, reduceIte]

theorem Sys2Proof.Laws.Roundtrip.lsave : Statement .lsave := by
  intro _ hw
  have hn : pack [(13, 0), (3, 3), (10, 0), (6, 16)] = 0x40006000 := rfl
  have e0 := bits_pack 13 0 [(3, 3), (10, 0), (6, 16)] (Nat.two_pow_pos _) 12 0 [] trivial rfl rfl
  have e13 := bits_pack 3 3 [(10, 0), (6, 16)] (by decide) 15 13 [(13, 0)] ⟨(Nat.two_pow_pos _), trivial⟩ rfl rfl
  have e16 := bits_pack 10 0 [(6, 16)] (Nat.two_pow_pos _) 25 16 [(13, 0), (3, 3)] ⟨(Nat.two_pow_pos _), (by decide), trivial⟩ rfl rfl
  have e26 := bits_pack 6 16 [] (by decide) 31 26 [(13, 0), (3, 3), (10, 0)] ⟨(Nat.two_pow_pos _), (by decide), (Nat.two_pow_pos _), trivial⟩ rfl rfl
  simp only [List.nil_append, List.cons_append] at e0 e13 e16 e26
  have hl : pack [(13, 0), (3, 3), (10, 0), (6, 16)] < 2 ^ 32 := pack_lt [(13, 0), (3, 3), (10, 0), (6, 16)] ⟨(Nat.two_pow_pos _), (by decide), (Nat.two_pow_pos _), (by decide), trivial⟩ rfl
  generalize pack [(13, 0), (3, 3), (10, 0), (6, 16)] = wd at *
  refine decode_of wd hn.symm ?_ hw hl
  · rw [major_16 e26]; simp only [decodeLoop, e13, e0, e16, reduceIte]

theorem Sys2Proof.Laws.Roundtrip.lrst : Statement .lrst := by
  intro _ hw
  have hn : pack [(13, 0), (3, 4), (10, 0), (6, 16)] = 0x40008000 := rfl
  have e0 := bits_pack 13 0 [(3, 4), (10, 0), (6, 16)] (Nat.two_pow_pos _) 12 0 [] trivial rfl rfl
  have e13 := bits_pack 3 4 [(10, 0), (6, 16)] (by decide) 15 13 [(13, 0)] ⟨(Nat.two_pow_pos _), trivial⟩ rfl rfl
  have e16 := bits_pack 10 0 [(6, 16)] (Nat.two_pow_pos _) 25 16 [(13, 0), (3, 4)] ⟨(Nat.two_pow_pos _), (by decide), trivial⟩ rfl rfl
  have e26 := bits_pack 6 16 [] (by decide) 31 26 [(13, 0), (3, 4), (10, 0)] ⟨(Nat.two_pow_pos _), (by decide), (Nat.two_pow_pos _), trivial⟩ rfl rfl
  simp only [List.nil_append, List.cons_append] at e0 e13 e16 e26
  have hl : pack [(13, 0), (3, 4), (10, 0), (6, 16)] < 2 ^ 32 := pack_lt [(13, 0), (3, 4), (10, 0), (6, 16)] ⟨(Nat.two_pow_pos _), (by decide), (Nat.two_pow_pos _), (by decide), trivial⟩ rfl
  generalize pack [(13, 0), (3, 4), (10, 0), (6, 16)] = wd at *
  refine decode_of wd hn.symm ?_ hw hl
  · rw [major_16 e26]; simp only [decodeLoop, e13, e0, e16, reduceIte]

theorem Sys2Proof.Laws.Roundtrip.pset (d : PReg) (a : Reg) : Statement (.pset d a) := by
  intro _ hw
  have hn : ∀ x0 x1 : Nat, pack [(5, 0), (6, 0), (5, 0), (5, x1), (3, x0), (2, 0), (6, 17)] = fields 0x44000000 [(x0, 21), (x1, 16)] := by
    intros; simp only [pack_eq, packAt_cons, packAt_nil, Nat.reduceAdd, fields_cons, fields_nil]; omega
  replace hn := hn d.val a.val
  have b0 := d.isLt
  have b1 := a.isLt
  have e0 := bits_pack 5 0 [(6, 0), (5, 0), (5, a.val), (3, d.val), (2, 0), (6, 17)] (Nat.two_pow_pos _) 4 0 [] trivial rfl rfl
  have e5 := bits_pack 6 0 [(5, 0), (5, a.val), (3, d.val), (2, 0), (6, 17)] (Nat.two_pow_pos _) 10 5 [(5, 0)] ⟨(Nat.two_pow_pos _), trivial⟩ rfl rfl
  have e11 := bits_pack 5 0 [(5, a.val), (3, d.val), (2, 0), (6, 17)] (Nat.two_pow_pos _) 15 11 [(5, 0), (6, 0)] ⟨(Nat.two_pow_pos _), (Nat.two_pow_pos _), trivial⟩ rfl rfl
  have e16 := bits_pack 5 a.val [(3, d.val), (2, 0), (6, 17)] b1 20 16 [(5, 0), (6, 0), (5, 0)] ⟨(Nat.two_pow_pos _), (Nat.two_pow_pos _), (Nat.two_pow_pos _), trivial⟩ rfl rfl
  have e21 := bits_pack 3 d.val [(2, 0), (6, 17)] b0 23 21 [(5, 0), (6, 0), (5, 0), (5, a.val)] ⟨(Nat.two_pow_pos _), (Nat.two_pow_pos _), (Nat.two_pow_pos _), b1, trivial⟩ rfl rfl
  have e24 := bits_pack 2 0 [(6, 17)] (Nat.two_pow_pos _) 25 24 [(5, 0), (6, 0), (5, 0), (5, a.val), (3, d.val)] ⟨(Nat.two_pow_pos _), (Nat.two_pow_pos _), (Nat.two_pow_pos _), b1, b0, trivial⟩ rfl rfl
  have e26 := bits_pack 6 17 [] (by decide) 31 26 [(5, 0), (6, 0), (5, 0), (5, a.val), (3, d.val), (2, 0)] ⟨(Nat.two_pow_pos _), (Nat.two_pow_pos _), (Nat.two_pow_pos _), b1, b0, (Nat.two_pow_pos _), trivial⟩ rfl rfl
  simp only [List.nil_append, List.cons_append] at e0 e5 e11 e16 e21 e24 e26
  have hl : pack [(5, 0), (6, 0), (5, 0), (5, a.val), (3, d.val), (2, 0), (6, 17)] < 2 ^ 32 := pack_lt [(5, 0), (6, 0), (5, 0), (5, a.val), (3, d.val), (2, 0), (6, 17)] ⟨(Nat.two_pow_pos _), (Nat.two_pow_pos _), (Nat.two_pow_pos _), b1, b0, (Nat.two_pow_pos _), (by decide), trivial⟩ rfl
  generalize pack [(5, 0), (6, 0), (5, 0), (5, a.val), (3, d.val), (2, 0), (6, 17)] = wd at *
  refine decode_of wd hn.symm ?_ hw hl
  · rw [major_17 e26]; simp only [decodePointer, e5, e0, e11, e16, e21, e24, reduceIte, ofNat_val]

theorem Sys2Proof.Laws.Roundtrip.pget (d : Reg) (a : PReg) : Statement (.pget d a) := by
  intro _ hw
  have hn : ∀ x0 x1 : Nat, pack [(5, 0), (6, 1), (5, 0), (3, x1), (2, 0), (5, x0), (6, 17)] = fields 0x44000020 [(x0, 21), (x1, 16)] := by
    intros; simp only [pack_eq, packAt_cons, packAt_nil, Nat.reduceAdd, fields_cons, fields_nil]; omega
  replace hn := hn d.val a.val
  have b0 := d.isLt
  have b1 := a.isLt
  have e0 := bits_pack 5 0 [(6, 1), (5, 0), (3, a.val), (2, 0), (5, d.val), (6, 17)] (Nat.two_pow_pos _) 4 0 [] trivial rfl rfl
  have e5 := bits_pack 6 1 [(5, 0), (3, a.val), (2, 0), (5, d.val), (6, 17)] (by decide) 10 5 [(5, 0)] ⟨(Nat.two_pow_pos _), trivial⟩ rfl rfl
  have e11 := bits_pack 5 0 [(3, a.val), (2, 0), (5, d.val), (6, 17)] (Nat.two_pow_pos _) 15 11 [(5, 0), (6, 1)] ⟨(Nat.two_pow_pos _), (by decide), trivial⟩ rfl rfl
  have e16 := bits_pack 3 a.val [(2, 0), (5, d.val), (6, 17)] b1 18 16 [(5, 0), (6, 1), (5, 0)] ⟨(Nat.two_pow_pos _), (by decide), (Nat.two_pow_pos _), trivial⟩ rfl rfl
  have e19 := bits_pack 2 0 [(5, d.val), (6, 17)] (Nat.two_pow_pos _) 20 19 [(5, 0), (6, 1), (5, 0), (3, a.val)] ⟨(Nat.two_pow_pos _), (by decide), (Nat.two_pow_pos _), b1, trivial⟩ rfl rfl
  have e21 := bits_pack 5 d.val [(6, 17)] b0 25 21 [(5, 0), (6, 1), (5, 0), (3, a.val), (2, 0)] ⟨(Nat.two_pow_pos _), (by decide), (Nat.two_pow_pos _), b1, (Nat.two_pow_pos _), trivial⟩ rfl rfl
  have e26 := bits_pack 6 17 [] (by decide) 31 26 [(5, 0), (6, 1), (5, 0), (3, a.val), (2, 0), (5, d.val)] ⟨(Nat.two_pow_pos _), (by decide), (Nat.two_pow_pos _), b1, (Nat.two_pow_pos _), b0, trivial⟩ rfl rfl
  simp only [List.nil_append, List.cons_append] at e0 e5 e11 e16 e19 e21 e26
  have hl : pack [(5, 0), (6, 1), (5, 0), (3, a.val), (2, 0), (5, d.val), (6, 17)] < 2 ^ 32 := pack_lt [(5, 0), (6, 1), (5, 0), (3, a.val), (2, 0), (5, d.val), (6, 17)] ⟨(Nat.two_pow_pos _), (by decide), (Nat.two_pow_pos _), b1, (Nat.two_pow_pos _), b0, (by decide), trivial⟩ rfl
  generalize pack [(5, 0), (6, 1), (5, 0), (3, a.val), (2, 0), (5, d.val), (6, 17)] = wd at *
  refine decode_of wd hn.symm ?_ hw hl
  · rw [major_17 e26]; simp only [decodePointer, e5, e0, e11, e16, e19, e21, reduceIte, ofNat_val]

theorem Sys2Proof.Laws.Roundtrip.padd (d : PReg) (a : PReg) (b : Reg) : Statement (.padd d a b) := by
  intro _ hw
  have hn : ∀ x0 x1 x2 : Nat, pack [(5, 0), (6, 2), (5, x2), (3, x1), (2, 0), (3, x0), (2, 0), (6, 17)] = fields 0x44000040 [(x0, 21), (x1, 16), (x2, 11)] := by
    intros; simp only [pack_eq, packAt_cons, packAt_nil, Nat.reduceAdd, fields_cons, fields_nil]; omega
  replace hn := hn d.val a.val b.val
  have b0 := d.isLt
  have b1 := a.isLt
  have b2 := b.isLt
  have e0 := bits_pack 5 0 [(6, 2), (5, b.val), (3, a.val), (2, 0), (3, d.val), (2, 0), (6, 17)] (Nat.two_pow_pos _) 4 0 [] trivial rfl rfl
  have e5 := bits_pack 6 2 [(5, b.val), (3, a.val), (2, 0), (3, d.val), (2, 0), (6, 17)] (by decide) 10 5 [(5, 0)] ⟨(Nat.two_pow_pos _), trivial⟩ rfl rfl
  have e11 := bits_pack 5 b.val [(3, a.val), (2, 0), (3, d.val), (2, 0), (6, 17)] b2 15 11 [(5, 0), (6, 2)] ⟨(Nat.two_pow_pos _), (by decide), trivial⟩ rfl rfl
  have e16 := bits_pack 3 a.val [(2, 0), (3, d.val), (2, 0), (6, 17)] b1 18 16 [(5, 0), (6, 2), (5, b.val)] ⟨(Nat.two_pow_pos _), (by decide), b2, trivial⟩ rfl rfl
  have e19 := bits_pack 2 0 [(3, d.val), (2, 0), (6, 17)] (Nat.two_pow_pos _) 20 19 [(5, 0), (6, 2), (5, b.val), (3, a.val)] ⟨(Nat.two_pow_pos _), (by decide), b2, b1, trivial⟩ rfl rfl
  have e21 := bits_pack 3 d.val [(2, 0), (6, 17)] b0 23 21 [(5, 0), (6, 2), (5, b.val), (3, a.val), (2, 0)] ⟨(Nat.two_pow_pos _), (by decide), b2, b1, (Nat.two_pow_pos _), trivial⟩ rfl rfl
  have e24 := bits_pack 2 0 [(6, 17)] (Nat.two_pow_pos _) 25 24 [(5, 0), (6, 2), (5, b.val), (3, a.val), (2, 0), (3, d.val)] ⟨(Nat.two_pow_pos _), (by decide), b2, b1, (Nat.two_pow_pos _), b0, trivial⟩ rfl rfl
  have e26 := bits_pack 6 17 [] (by decide) 31 26 [(5, 0), (6, 2), (5, b.val), (3, a.val), (2, 0), (3, d.val), (2, 0)] ⟨(Nat.two_pow_pos _), (by decide), b2, b1, (Nat.two_pow_pos _), b0, (Nat.two_pow_pos _), trivial⟩ rfl rfl
  simp only [List.nil_append, List.cons_append] at e0 e5 e11 e16 e19 e21 e24 e26
  have hl : pack [(5, 0), (6, 2), (5, b.val), (3, a.val), (2, 0), (3, d.val), (2, 0), (6, 17)] < 2 ^ 32 := pack_lt [(5, 0), (6, 2), (5, b.val), (3, a.val), (2, 0), (3, d.val), (2, 0), (6, 17)] ⟨(Nat.two_pow_pos _), (by decide), b2, b1, (Nat.two_pow_pos _), b0, (Nat.two_pow_pos _), (by decide), trivial⟩ rfl
  generalize pack [(5, 0), (6, 2), (5, b.val), (3, a.val), (2, 0), (3, d.val), (2, 0), (6, 17)] = wd at *
  refine decode_of wd hn.symm ?_ hw hl
  · rw [major_17 e26]; simp only [decodePointer, e5, e0, e11, e16, e19, e21, e24, reduceIte, ofNat_val]

theorem Sys2Proof.Laws.Roundtrip.pwalk (d : PReg) (a : PReg) (b : Reg) : Statement (.pwalk d a b) := by
  intro _ hw
  have hn : ∀ x0 x1 x2 : Nat, pack [(5, 0), (6, 3), (5, x2), (3, x1), (2, 0), (3, x0), (2, 0), (6, 17)] = fields 0x44000060 [(x0, 21), (x1, 16), (x2, 11)] := by
    intros; simp only [pack_eq, packAt_cons, packAt_nil, Nat.reduceAdd, fields_cons, fields_nil]; omega
  replace hn := hn d.val a.val b.val
  have b0 := d.isLt
  have b1 := a.isLt
  have b2 := b.isLt
  have e0 := bits_pack 5 0 [(6, 3), (5, b.val), (3, a.val), (2, 0), (3, d.val), (2, 0), (6, 17)] (Nat.two_pow_pos _) 4 0 [] trivial rfl rfl
  have e5 := bits_pack 6 3 [(5, b.val), (3, a.val), (2, 0), (3, d.val), (2, 0), (6, 17)] (by decide) 10 5 [(5, 0)] ⟨(Nat.two_pow_pos _), trivial⟩ rfl rfl
  have e11 := bits_pack 5 b.val [(3, a.val), (2, 0), (3, d.val), (2, 0), (6, 17)] b2 15 11 [(5, 0), (6, 3)] ⟨(Nat.two_pow_pos _), (by decide), trivial⟩ rfl rfl
  have e16 := bits_pack 3 a.val [(2, 0), (3, d.val), (2, 0), (6, 17)] b1 18 16 [(5, 0), (6, 3), (5, b.val)] ⟨(Nat.two_pow_pos _), (by decide), b2, trivial⟩ rfl rfl
  have e19 := bits_pack 2 0 [(3, d.val), (2, 0), (6, 17)] (Nat.two_pow_pos _) 20 19 [(5, 0), (6, 3), (5, b.val), (3, a.val)] ⟨(Nat.two_pow_pos _), (by decide), b2, b1, trivial⟩ rfl rfl
  have e21 := bits_pack 3 d.val [(2, 0), (6, 17)] b0 23 21 [(5, 0), (6, 3), (5, b.val), (3, a.val), (2, 0)] ⟨(Nat.two_pow_pos _), (by decide), b2, b1, (Nat.two_pow_pos _), trivial⟩ rfl rfl
  have e24 := bits_pack 2 0 [(6, 17)] (Nat.two_pow_pos _) 25 24 [(5, 0), (6, 3), (5, b.val), (3, a.val), (2, 0), (3, d.val)] ⟨(Nat.two_pow_pos _), (by decide), b2, b1, (Nat.two_pow_pos _), b0, trivial⟩ rfl rfl
  have e26 := bits_pack 6 17 [] (by decide) 31 26 [(5, 0), (6, 3), (5, b.val), (3, a.val), (2, 0), (3, d.val), (2, 0)] ⟨(Nat.two_pow_pos _), (by decide), b2, b1, (Nat.two_pow_pos _), b0, (Nat.two_pow_pos _), trivial⟩ rfl rfl
  simp only [List.nil_append, List.cons_append] at e0 e5 e11 e16 e19 e21 e24 e26
  have hl : pack [(5, 0), (6, 3), (5, b.val), (3, a.val), (2, 0), (3, d.val), (2, 0), (6, 17)] < 2 ^ 32 := pack_lt [(5, 0), (6, 3), (5, b.val), (3, a.val), (2, 0), (3, d.val), (2, 0), (6, 17)] ⟨(Nat.two_pow_pos _), (by decide), b2, b1, (Nat.two_pow_pos _), b0, (Nat.two_pow_pos _), (by decide), trivial⟩ rfl
  generalize pack [(5, 0), (6, 3), (5, b.val), (3, a.val), (2, 0), (3, d.val), (2, 0), (6, 17)] = wd at *
  refine decode_of wd hn.symm ?_ hw hl
  · rw [major_17 e26]; simp only [decodePointer, e5, e0, e11, e16, e19, e21, e24, reduceIte, ofNat_val]

theorem Sys2Proof.Laws.Roundtrip.pcoord (d : PReg) (a : Reg) (b : Reg) : Statement (.pcoord d a b) := by
  intro _ hw
  have hn : ∀ x0 x1 x2 : Nat, pack [(5, 0), (6, 4), (5, x2), (5, x1), (3, x0), (2, 0), (6, 17)] = fields 0x44000080 [(x0, 21), (x1, 16), (x2, 11)] := by
    intros; simp only [pack_eq, packAt_cons, packAt_nil, Nat.reduceAdd, fields_cons, fields_nil]; omega
  replace hn := hn d.val a.val b.val
  have b0 := d.isLt
  have b1 := a.isLt
  have b2 := b.isLt
  have e0 := bits_pack 5 0 [(6, 4), (5, b.val), (5, a.val), (3, d.val), (2, 0), (6, 17)] (Nat.two_pow_pos _) 4 0 [] trivial rfl rfl
  have e5 := bits_pack 6 4 [(5, b.val), (5, a.val), (3, d.val), (2, 0), (6, 17)] (by decide) 10 5 [(5, 0)] ⟨(Nat.two_pow_pos _), trivial⟩ rfl rfl
  have e11 := bits_pack 5 b.val [(5, a.val), (3, d.val), (2, 0), (6, 17)] b2 15 11 [(5, 0), (6, 4)] ⟨(Nat.two_pow_pos _), (by decide), trivial⟩ rfl rfl
  have e16 := bits_pack 5 a.val [(3, d.val), (2, 0), (6, 17)] b1 20 16 [(5, 0), (6, 4), (5, b.val)] ⟨(Nat.two_pow_pos _), (by decide), b2, trivial⟩ rfl rfl
  have e21 := bits_pack 3 d.val [(2, 0), (6, 17)] b0 23 21 [(5, 0), (6, 4), (5, b.val), (5, a.val)] ⟨(Nat.two_pow_pos _), (by decide), b2, b1, trivial⟩ rfl rfl
  have e24 := bits_pack 2 0 [(6, 17)] (Nat.two_pow_pos _) 25 24 [(5, 0), (6, 4), (5, b.val), (5, a.val), (3, d.val)] ⟨(Nat.two_pow_pos _), (by decide), b2, b1, b0, trivial⟩ rfl rfl
  have e26 := bits_pack 6 17 [] (by decide) 31 26 [(5, 0), (6, 4), (5, b.val), (5, a.val), (3, d.val), (2, 0)] ⟨(Nat.two_pow_pos _), (by decide), b2, b1, b0, (Nat.two_pow_pos _), trivial⟩ rfl rfl
  simp only [List.nil_append, List.cons_append] at e0 e5 e11 e16 e21 e24 e26
  have hl : pack [(5, 0), (6, 4), (5, b.val), (5, a.val), (3, d.val), (2, 0), (6, 17)] < 2 ^ 32 := pack_lt [(5, 0), (6, 4), (5, b.val), (5, a.val), (3, d.val), (2, 0), (6, 17)] ⟨(Nat.two_pow_pos _), (by decide), b2, b1, b0, (Nat.two_pow_pos _), (by decide), trivial⟩ rfl
  generalize pack [(5, 0), (6, 4), (5, b.val), (5, a.val), (3, d.val), (2, 0), (6, 17)] = wd at *
  refine decode_of wd hn.symm ?_ hw hl
  · rw [major_17 e26]; simp only [decodePointer, e5, e0, e11, e16, e21, e24, reduceIte, ofNat_val]

theorem Sys2Proof.Laws.Roundtrip.ld (d : Reg) (p : PReg) (s : LdSize) (adr : Addr) (o : Ord) : Statement (.ld d p s adr o) := by
  intro _ hw
  have hn : ∀ x0 x1 x2 x3 x4 x5 : Nat, pack [(11, x4), (2, x5), (2, x3), (3, x2), (3, x1), (5, x0), (6, 18)] = fields 0x48000000 [(x0, 21), (x1, 18), (x2, 15), (x3, 13), (x4, 0), (x5, 11)] := by
    intros; simp only [pack_eq, packAt_cons, packAt_nil, Nat.reduceAdd, fields_cons, fields_nil]; omega
  replace hn := hn d.val p.val s.toBits adr.modeBits adr.offBits o.toBits
  have b0 := d.isLt
  have b1 := p.isLt
  have b2 := LdSize.toBits_lt s
  have b3 := Addr.modeBits_lt adr
  have b4 := Addr.offBits_lt adr
  have b5 := Ord.toBits_lt o
  have e0 := bits_pack 11 adr.offBits [(2, o.toBits), (2, adr.modeBits), (3, s.toBits), (3, p.val), (5, d.val), (6, 18)] b4 10 0 [] trivial rfl rfl
  have e11 := bits_pack 2 o.toBits [(2, adr.modeBits), (3, s.toBits), (3, p.val), (5, d.val), (6, 18)] b5 12 11 [(11, adr.offBits)] ⟨b4, trivial⟩ rfl rfl
  have e13 := bits_pack 2 adr.modeBits [(3, s.toBits), (3, p.val), (5, d.val), (6, 18)] b3 14 13 [(11, adr.offBits), (2, o.toBits)] ⟨b4, b5, trivial⟩ rfl rfl
  have e15 := bits_pack 3 s.toBits [(3, p.val), (5, d.val), (6, 18)] b2 17 15 [(11, adr.offBits), (2, o.toBits), (2, adr.modeBits)] ⟨b4, b5, b3, trivial⟩ rfl rfl
  have e18 := bits_pack 3 p.val [(5, d.val), (6, 18)] b1 20 18 [(11, adr.offBits), (2, o.toBits), (2, adr.modeBits), (3, s.toBits)] ⟨b4, b5, b3, b2, trivial⟩ rfl rfl
  have e21 := bits_pack 5 d.val [(6, 18)] b0 25 21 [(11, adr.offBits), (2, o.toBits), (2, adr.modeBits), (3, s.toBits), (3, p.val)] ⟨b4, b5, b3, b2, b1, trivial⟩ rfl rfl
  have e26 := bits_pack 6 18 [] (by decide) 31 26 [(11, adr.offBits), (2, o.toBits), (2, adr.modeBits), (3, s.toBits), (3, p.val), (5, d.val)] ⟨b4, b5, b3, b2, b1, b0, trivial⟩ rfl rfl
  simp only [List.nil_append, List.cons_append] at e0 e11 e13 e15 e18 e21 e26
  have hl : pack [(11, adr.offBits), (2, o.toBits), (2, adr.modeBits), (3, s.toBits), (3, p.val), (5, d.val), (6, 18)] < 2 ^ 32 := pack_lt [(11, adr.offBits), (2, o.toBits), (2, adr.modeBits), (3, s.toBits), (3, p.val), (5, d.val), (6, 18)] ⟨b4, b5, b3, b2, b1, b0, (by decide), trivial⟩ rfl
  generalize pack [(11, adr.offBits), (2, o.toBits), (2, adr.modeBits), (3, s.toBits), (3, p.val), (5, d.val), (6, 18)] = wd at *
  refine decode_of wd hn.symm ?_ hw hl
  · rw [major_18 e26]; rw [e0, e11, e13, e15, e18, e21]; simp only [reduceIte, ofNat_val, LdSize.ofBits?_toBits, Addr.ofBits?_bits, Ord.ofBits_toBits]

theorem Sys2Proof.Laws.Roundtrip.st (d : Reg) (p : PReg) (s : StSize) (adr : Addr) (o : Ord) : Statement (.st d p s adr o) := by
  intro _ hw
  have hn : ∀ x0 x1 x2 x3 x4 x5 : Nat, pack [(11, x4), (2, x5), (2, x3), (3, x2), (3, x1), (5, x0), (6, 19)] = fields 0x4C000000 [(x0, 21), (x1, 18), (x2, 15), (x3, 13), (x4, 0), (x5, 11)] := by
    intros; simp only [pack_eq, packAt_cons, packAt_nil, Nat.reduceAdd, fields_cons, fields_nil]; omega
  replace hn := hn d.val p.val s.toBits adr.modeBits adr.offBits o.toBits
  have b0 := d.isLt
  have b1 := p.isLt
  have b2 := StSize.toBits_lt s
  have b3 := Addr.modeBits_lt adr
  have b4 := Addr.offBits_lt adr
  have b5 := Ord.toBits_lt o
  have e0 := bits_pack 11 adr.offBits [(2, o.toBits), (2, adr.modeBits), (3, s.toBits), (3, p.val), (5, d.val), (6, 19)] b4 10 0 [] trivial rfl rfl
  have e11 := bits_pack 2 o.toBits [(2, adr.modeBits), (3, s.toBits), (3, p.val), (5, d.val), (6, 19)] b5 12 11 [(11, adr.offBits)] ⟨b4, trivial⟩ rfl rfl
  have e13 := bits_pack 2 adr.modeBits [(3, s.toBits), (3, p.val), (5, d.val), (6, 19)] b3 14 13 [(11, adr.offBits), (2, o.toBits)] ⟨b4, b5, trivial⟩ rfl rfl
  have e15 := bits_pack 3 s.toBits [(3, p.val), (5, d.val), (6, 19)] b2 17 15 [(11, adr.offBits), (2, o.toBits), (2, adr.modeBits)] ⟨b4, b5, b3, trivial⟩ rfl rfl
  have e18 := bits_pack 3 p.val [(5, d.val), (6, 19)] b1 20 18 [(11, adr.offBits), (2, o.toBits), (2, adr.modeBits), (3, s.toBits)] ⟨b4, b5, b3, b2, trivial⟩ rfl rfl
  have e21 := bits_pack 5 d.val [(6, 19)] b0 25 21 [(11, adr.offBits), (2, o.toBits), (2, adr.modeBits), (3, s.toBits), (3, p.val)] ⟨b4, b5, b3, b2, b1, trivial⟩ rfl rfl
  have e26 := bits_pack 6 19 [] (by decide) 31 26 [(11, adr.offBits), (2, o.toBits), (2, adr.modeBits), (3, s.toBits), (3, p.val), (5, d.val)] ⟨b4, b5, b3, b2, b1, b0, trivial⟩ rfl rfl
  simp only [List.nil_append, List.cons_append] at e0 e11 e13 e15 e18 e21 e26
  have hl : pack [(11, adr.offBits), (2, o.toBits), (2, adr.modeBits), (3, s.toBits), (3, p.val), (5, d.val), (6, 19)] < 2 ^ 32 := pack_lt [(11, adr.offBits), (2, o.toBits), (2, adr.modeBits), (3, s.toBits), (3, p.val), (5, d.val), (6, 19)] ⟨b4, b5, b3, b2, b1, b0, (by decide), trivial⟩ rfl
  generalize pack [(11, adr.offBits), (2, o.toBits), (2, adr.modeBits), (3, s.toBits), (3, p.val), (5, d.val), (6, 19)] = wd at *
  refine decode_of wd hn.symm ?_ hw hl
  · rw [major_19 e26]; rw [e0, e11, e13, e15, e18, e21]; simp only [reduceIte, ofNat_val, StSize.ofBits?_toBits, Addr.ofBits?_bits, Ord.ofBits_toBits]

theorem Sys2Proof.Laws.Roundtrip.ldv (d : Reg) (p : PReg) (adr : Addr) (o : Ord) : Statement (.ldv d p adr o) := by
  intro _ hw
  have hn : ∀ x0 x1 x2 x3 x4 : Nat, pack [(11, x3), (2, x4), (2, x2), (3, 0), (3, x1), (5, x0), (6, 20)] = fields 0x50000000 [(x0, 21), (x1, 18), (x2, 13), (x3, 0), (x4, 11)] := by
    intros; simp only [pack_eq, packAt_cons, packAt_nil, Nat.reduceAdd, fields_cons, fields_nil]; omega
  replace hn := hn d.val p.val adr.modeBits adr.offBits o.toBits
  have b0 := d.isLt
  have b1 := p.isLt
  have b2 := Addr.modeBits_lt adr
  have b3 := Addr.offBits_lt adr
  have b4 := Ord.toBits_lt o
  have e0 := bits_pack 11 adr.offBits [(2, o.toBits), (2, adr.modeBits), (3, 0), (3, p.val), (5, d.val), (6, 20)] b3 10 0 [] trivial rfl rfl
  have e11 := bits_pack 2 o.toBits [(2, adr.modeBits), (3, 0), (3, p.val), (5, d.val), (6, 20)] b4 12 11 [(11, adr.offBits)] ⟨b3, trivial⟩ rfl rfl
  have e13 := bits_pack 2 adr.modeBits [(3, 0), (3, p.val), (5, d.val), (6, 20)] b2 14 13 [(11, adr.offBits), (2, o.toBits)] ⟨b3, b4, trivial⟩ rfl rfl
  have e15 := bits_pack 3 0 [(3, p.val), (5, d.val), (6, 20)] (Nat.two_pow_pos _) 17 15 [(11, adr.offBits), (2, o.toBits), (2, adr.modeBits)] ⟨b3, b4, b2, trivial⟩ rfl rfl
  have e18 := bits_pack 3 p.val [(5, d.val), (6, 20)] b1 20 18 [(11, adr.offBits), (2, o.toBits), (2, adr.modeBits), (3, 0)] ⟨b3, b4, b2, (Nat.two_pow_pos _), trivial⟩ rfl rfl
  have e21 := bits_pack 5 d.val [(6, 20)] b0 25 21 [(11, adr.offBits), (2, o.toBits), (2, adr.modeBits), (3, 0), (3, p.val)] ⟨b3, b4, b2, (Nat.two_pow_pos _), b1, trivial⟩ rfl rfl
  have e26 := bits_pack 6 20 [] (by decide) 31 26 [(11, adr.offBits), (2, o.toBits), (2, adr.modeBits), (3, 0), (3, p.val), (5, d.val)] ⟨b3, b4, b2, (Nat.two_pow_pos _), b1, b0, trivial⟩ rfl rfl
  simp only [List.nil_append, List.cons_append] at e0 e11 e13 e15 e18 e21 e26
  have hl : pack [(11, adr.offBits), (2, o.toBits), (2, adr.modeBits), (3, 0), (3, p.val), (5, d.val), (6, 20)] < 2 ^ 32 := pack_lt [(11, adr.offBits), (2, o.toBits), (2, adr.modeBits), (3, 0), (3, p.val), (5, d.val), (6, 20)] ⟨b3, b4, b2, (Nat.two_pow_pos _), b1, b0, (by decide), trivial⟩ rfl
  generalize pack [(11, adr.offBits), (2, o.toBits), (2, adr.modeBits), (3, 0), (3, p.val), (5, d.val), (6, 20)] = wd at *
  refine decode_of wd hn.symm ?_ hw hl
  · rw [major_20 e26]; rw [e0, e11, e13, e15, e18, e21]; simp only [reduceIte, ofNat_val, Addr.ofBits?_bits, Ord.ofBits_toBits]

theorem Sys2Proof.Laws.Roundtrip.stv (d : Reg) (p : PReg) (adr : Addr) (o : Ord) : Statement (.stv d p adr o) := by
  intro _ hw
  have hn : ∀ x0 x1 x2 x3 x4 : Nat, pack [(11, x3), (2, x4), (2, x2), (3, 0), (3, x1), (5, x0), (6, 21)] = fields 0x54000000 [(x0, 21), (x1, 18), (x2, 13), (x3, 0), (x4, 11)] := by
    intros; simp only [pack_eq, packAt_cons, packAt_nil, Nat.reduceAdd, fields_cons, fields_nil]; omega
  replace hn := hn d.val p.val adr.modeBits adr.offBits o.toBits
  have b0 := d.isLt
  have b1 := p.isLt
  have b2 := Addr.modeBits_lt adr
  have b3 := Addr.offBits_lt adr
  have b4 := Ord.toBits_lt o
  have e0 := bits_pack 11 adr.offBits [(2, o.toBits), (2, adr.modeBits), (3, 0), (3, p.val), (5, d.val), (6, 21)] b3 10 0 [] trivial rfl rfl
  have e11 := bits_pack 2 o.toBits [(2, adr.modeBits), (3, 0), (3, p.val), (5, d.val), (6, 21)] b4 12 11 [(11, adr.offBits)] ⟨b3, trivial⟩ rfl rfl
  have e13 := bits_pack 2 adr.modeBits [(3, 0), (3, p.val), (5, d.val), (6, 21)] b2 14 13 [(11, adr.offBits), (2, o.toBits)] ⟨b3, b4, trivial⟩ rfl rfl
  have e15 := bits_pack 3 0 [(3, p.val), (5, d.val), (6, 21)] (Nat.two_pow_pos _) 17 15 [(11, adr.offBits), (2, o.toBits), (2, adr.modeBits)] ⟨b3, b4, b2, trivial⟩ rfl rfl
  have e18 := bits_pack 3 p.val [(5, d.val), (6, 21)] b1 20 18 [(11, adr.offBits), (2, o.toBits), (2, adr.modeBits), (3, 0)] ⟨b3, b4, b2, (Nat.two_pow_pos _), trivial⟩ rfl rfl
  have e21 := bits_pack 5 d.val [(6, 21)] b0 25 21 [(11, adr.offBits), (2, o.toBits), (2, adr.modeBits), (3, 0), (3, p.val)] ⟨b3, b4, b2, (Nat.two_pow_pos _), b1, trivial⟩ rfl rfl
  have e26 := bits_pack 6 21 [] (by decide) 31 26 [(11, adr.offBits), (2, o.toBits), (2, adr.modeBits), (3, 0), (3, p.val), (5, d.val)] ⟨b3, b4, b2, (Nat.two_pow_pos _), b1, b0, trivial⟩ rfl rfl
  simp only [List.nil_append, List.cons_append] at e0 e11 e13 e15 e18 e21 e26
  have hl : pack [(11, adr.offBits), (2, o.toBits), (2, adr.modeBits), (3, 0), (3, p.val), (5, d.val), (6, 21)] < 2 ^ 32 := pack_lt [(11, adr.offBits), (2, o.toBits), (2, adr.modeBits), (3, 0), (3, p.val), (5, d.val), (6, 21)] ⟨b3, b4, b2, (Nat.two_pow_pos _), b1, b0, (by decide), trivial⟩ rfl
  generalize pack [(11, adr.offBits), (2, o.toBits), (2, adr.modeBits), (3, 0), (3, p.val), (5, d.val), (6, 21)] = wd at *
  refine decode_of wd hn.symm ?_ hw hl
  · rw [major_21 e26]; rw [e0, e11, e13, e15, e18, e21]; simp only [reduceIte, ofNat_val, Addr.ofBits?_bits, Ord.ofBits_toBits]

theorem Sys2Proof.Laws.Roundtrip.gath (d : Reg) (a : PReg) (b : Reg) (z : GSize) (x : Fin 4) (o : Ord) : Statement (.gath d a b z x o) := by
  intro _ hw
  have hn : ∀ x0 x1 x2 x3 x4 x5 : Nat, pack [(2, x5), (2, x4), (1, 0), (1, 0), (2, x3), (3, 0), (5, x2), (3, x1), (2, 0), (5, x0), (6, 22)] = fields 0x58000000 [(x0, 21), (x1, 16), (x2, 11), (x3, 6), (x4, 2), (x5, 0)] := by
    intros; simp only [pack_eq, packAt_cons, packAt_nil, Nat.reduceAdd, fields_cons, fields_nil]; omega
  replace hn := hn d.val a.val b.val z.toBits x.val o.toBits
  have b0 := d.isLt
  have b1 := a.isLt
  have b2 := b.isLt
  have b3 := GSize.toBits_lt z
  have b4 := x.isLt
  have b5 := Ord.toBits_lt o
  have e0 := bits_pack 2 o.toBits [(2, x.val), (1, 0), (1, 0), (2, z.toBits), (3, 0), (5, b.val), (3, a.val), (2, 0), (5, d.val), (6, 22)] b5 1 0 [] trivial rfl rfl
  have e2 := bits_pack 2 x.val [(1, 0), (1, 0), (2, z.toBits), (3, 0), (5, b.val), (3, a.val), (2, 0), (5, d.val), (6, 22)] b4 3 2 [(2, o.toBits)] ⟨b5, trivial⟩ rfl rfl
  have e4 := bits_pack 1 0 [(1, 0), (2, z.toBits), (3, 0), (5, b.val), (3, a.val), (2, 0), (5, d.val), (6, 22)] (Nat.two_pow_pos _) 4 4 [(2, o.toBits), (2, x.val)] ⟨b5, b4, trivial⟩ rfl rfl
  have e6 := bits_pack 2 z.toBits [(3, 0), (5, b.val), (3, a.val), (2, 0), (5, d.val), (6, 22)] b3 7 6 [(2, o.toBits), (2, x.val), (1, 0), (1, 0)] ⟨b5, b4, (Nat.two_pow_pos _), (Nat.two_pow_pos _), trivial⟩ rfl rfl
  have e11 := bits_pack 5 b.val [(3, a.val), (2, 0), (5, d.val), (6, 22)] b2 15 11 [(2, o.toBits), (2, x.val), (1, 0), (1, 0), (2, z.toBits), (3, 0)] ⟨b5, b4, (Nat.two_pow_pos _), (Nat.two_pow_pos _), b3, (Nat.two_pow_pos _), trivial⟩ rfl rfl
  have e16 := bits_pack 3 a.val [(2, 0), (5, d.val), (6, 22)] b1 18 16 [(2, o.toBits), (2, x.val), (1, 0), (1, 0), (2, z.toBits), (3, 0), (5, b.val)] ⟨b5, b4, (Nat.two_pow_pos _), (Nat.two_pow_pos _), b3, (Nat.two_pow_pos _), b2, trivial⟩ rfl rfl
  have e19 := bits_pack 2 0 [(5, d.val), (6, 22)] (Nat.two_pow_pos _) 20 19 [(2, o.toBits), (2, x.val), (1, 0), (1, 0), (2, z.toBits), (3, 0), (5, b.val), (3, a.val)] ⟨b5, b4, (Nat.two_pow_pos _), (Nat.two_pow_pos _), b3, (Nat.two_pow_pos _), b2, b1, trivial⟩ rfl rfl
  have e21 := bits_pack 5 d.val [(6, 22)] b0 25 21 [(2, o.toBits), (2, x.val), (1, 0), (1, 0), (2, z.toBits), (3, 0), (5, b.val), (3, a.val), (2, 0)] ⟨b5, b4, (Nat.two_pow_pos _), (Nat.two_pow_pos _), b3, (Nat.two_pow_pos _), b2, b1, (Nat.two_pow_pos _), trivial⟩ rfl rfl
  have e26 := bits_pack 6 22 [] (by decide) 31 26 [(2, o.toBits), (2, x.val), (1, 0), (1, 0), (2, z.toBits), (3, 0), (5, b.val), (3, a.val), (2, 0), (5, d.val)] ⟨b5, b4, (Nat.two_pow_pos _), (Nat.two_pow_pos _), b3, (Nat.two_pow_pos _), b2, b1, (Nat.two_pow_pos _), b0, trivial⟩ rfl rfl
  simp only [List.nil_append, List.cons_append] at e0 e2 e4 e6 e11 e16 e19 e21 e26
  have hl : pack [(2, o.toBits), (2, x.val), (1, 0), (1, 0), (2, z.toBits), (3, 0), (5, b.val), (3, a.val), (2, 0), (5, d.val), (6, 22)] < 2 ^ 32 := pack_lt [(2, o.toBits), (2, x.val), (1, 0), (1, 0), (2, z.toBits), (3, 0), (5, b.val), (3, a.val), (2, 0), (5, d.val), (6, 22)] ⟨b5, b4, (Nat.two_pow_pos _), (Nat.two_pow_pos _), b3, (Nat.two_pow_pos _), b2, b1, (Nat.two_pow_pos _), b0, (by decide), trivial⟩ rfl
  generalize pack [(2, o.toBits), (2, x.val), (1, 0), (1, 0), (2, z.toBits), (3, 0), (5, b.val), (3, a.val), (2, 0), (5, d.val), (6, 22)] = wd at *
  have o5 : bits wd 10 5 = z.toBits * 2 := by rw [hn]; simp only [fields_cons, fields_nil, bits]; omega
  refine decode_of wd hn.symm ?_ hw hl
  · rw [major_22 e26]; cases z <;> (simp only [decodeGather, e0, e2, e4, e6, e11, e16, e19, e21, o5, reduceIte, ofNat_val, GSize.ofBits?_toBits, Ord.ofBits_toBits, GSize.toBits, Nat.reduceMul, Nat.reduceAdd] <;> rfl)

theorem Sys2Proof.Laws.Roundtrip.scat (d : Reg) (a : PReg) (b : Reg) (z : GSize) (x : Fin 4) (o : Ord) : Statement (.scat d a b z x o) := by
  intro _ hw
  have hn : ∀ x0 x1 x2 x3 x4 x5 : Nat, pack [(2, x5), (2, x4), (1, 0), (1, 1), (2, x3), (3, 0), (5, x2), (3, x1), (2, 0), (5, x0), (6, 22)] = fields 0x58000020 [(x0, 21), (x1, 16), (x2, 11), (x3, 6), (x4, 2), (x5, 0)] := by
    intros; simp only [pack_eq, packAt_cons, packAt_nil, Nat.reduceAdd, fields_cons, fields_nil]; omega
  replace hn := hn d.val a.val b.val z.toBits x.val o.toBits
  have b0 := d.isLt
  have b1 := a.isLt
  have b2 := b.isLt
  have b3 := GSize.toBits_lt z
  have b4 := x.isLt
  have b5 := Ord.toBits_lt o
  have e0 := bits_pack 2 o.toBits [(2, x.val), (1, 0), (1, 1), (2, z.toBits), (3, 0), (5, b.val), (3, a.val), (2, 0), (5, d.val), (6, 22)] b5 1 0 [] trivial rfl rfl
  have e2 := bits_pack 2 x.val [(1, 0), (1, 1), (2, z.toBits), (3, 0), (5, b.val), (3, a.val), (2, 0), (5, d.val), (6, 22)] b4 3 2 [(2, o.toBits)] ⟨b5, trivial⟩ rfl rfl
  have e4 := bits_pack 1 0 [(1, 1), (2, z.toBits), (3, 0), (5, b.val), (3, a.val), (2, 0), (5, d.val), (6, 22)] (Nat.two_pow_pos _) 4 4 [(2, o.toBits), (2, x.val)] ⟨b5, b4, trivial⟩ rfl rfl
  have e6 := bits_pack 2 z.toBits [(3, 0), (5, b.val), (3, a.val), (2, 0), (5, d.val), (6, 22)] b3 7 6 [(2, o.toBits), (2, x.val), (1, 0), (1, 1)] ⟨b5, b4, (Nat.two_pow_pos _), (by decide), trivial⟩ rfl rfl
  have e11 := bits_pack 5 b.val [(3, a.val), (2, 0), (5, d.val), (6, 22)] b2 15 11 [(2, o.toBits), (2, x.val), (1, 0), (1, 1), (2, z.toBits), (3, 0)] ⟨b5, b4, (Nat.two_pow_pos _), (by decide), b3, (Nat.two_pow_pos _), trivial⟩ rfl rfl
  have e16 := bits_pack 3 a.val [(2, 0), (5, d.val), (6, 22)] b1 18 16 [(2, o.toBits), (2, x.val), (1, 0), (1, 1), (2, z.toBits), (3, 0), (5, b.val)] ⟨b5, b4, (Nat.two_pow_pos _), (by decide), b3, (Nat.two_pow_pos _), b2, trivial⟩ rfl rfl
  have e19 := bits_pack 2 0 [(5, d.val), (6, 22)] (Nat.two_pow_pos _) 20 19 [(2, o.toBits), (2, x.val), (1, 0), (1, 1), (2, z.toBits), (3, 0), (5, b.val), (3, a.val)] ⟨b5, b4, (Nat.two_pow_pos _), (by decide), b3, (Nat.two_pow_pos _), b2, b1, trivial⟩ rfl rfl
  have e21 := bits_pack 5 d.val [(6, 22)] b0 25 21 [(2, o.toBits), (2, x.val), (1, 0), (1, 1), (2, z.toBits), (3, 0), (5, b.val), (3, a.val), (2, 0)] ⟨b5, b4, (Nat.two_pow_pos _), (by decide), b3, (Nat.two_pow_pos _), b2, b1, (Nat.two_pow_pos _), trivial⟩ rfl rfl
  have e26 := bits_pack 6 22 [] (by decide) 31 26 [(2, o.toBits), (2, x.val), (1, 0), (1, 1), (2, z.toBits), (3, 0), (5, b.val), (3, a.val), (2, 0), (5, d.val)] ⟨b5, b4, (Nat.two_pow_pos _), (by decide), b3, (Nat.two_pow_pos _), b2, b1, (Nat.two_pow_pos _), b0, trivial⟩ rfl rfl
  simp only [List.nil_append, List.cons_append] at e0 e2 e4 e6 e11 e16 e19 e21 e26
  have hl : pack [(2, o.toBits), (2, x.val), (1, 0), (1, 1), (2, z.toBits), (3, 0), (5, b.val), (3, a.val), (2, 0), (5, d.val), (6, 22)] < 2 ^ 32 := pack_lt [(2, o.toBits), (2, x.val), (1, 0), (1, 1), (2, z.toBits), (3, 0), (5, b.val), (3, a.val), (2, 0), (5, d.val), (6, 22)] ⟨b5, b4, (Nat.two_pow_pos _), (by decide), b3, (Nat.two_pow_pos _), b2, b1, (Nat.two_pow_pos _), b0, (by decide), trivial⟩ rfl
  generalize pack [(2, o.toBits), (2, x.val), (1, 0), (1, 1), (2, z.toBits), (3, 0), (5, b.val), (3, a.val), (2, 0), (5, d.val), (6, 22)] = wd at *
  have o5 : bits wd 10 5 = z.toBits * 2 + 1 := by rw [hn]; simp only [fields_cons, fields_nil, bits]; omega
  refine decode_of wd hn.symm ?_ hw hl
  · rw [major_22 e26]; cases z <;> (simp only [decodeGather, e0, e2, e4, e6, e11, e16, e19, e21, o5, reduceIte, ofNat_val, GSize.ofBits?_toBits, Ord.ofBits_toBits, GSize.toBits, Nat.reduceMul, Nat.reduceAdd] <;> rfl)

theorem Sys2Proof.Laws.Roundtrip.amo (d : Reg) (a : PReg) (b : Reg) (f : AmoOp) (w : Width) (o : Ord) : Statement (.amo d a b f w o) := by
  intro _ hw
  have hn : ∀ x0 x1 x2 x3 x4 x5 : Nat, pack [(2, x5), (1, x4), (2, 0), (4, x3), (2, 0), (5, x2), (3, x1), (2, 0), (5, x0), (6, 23)] = fields 0x5C000000 [(x0, 21), (x1, 16), (x2, 11), (x3, 5), (x4, 2), (x5, 0)] := by
    intros; simp only [pack_eq, packAt_cons, packAt_nil, Nat.reduceAdd, fields_cons, fields_nil]; omega
  replace hn := hn d.val a.val b.val f.toBits w.toBits o.toBits
  have b0 := d.isLt
  have b1 := a.isLt
  have b2 := b.isLt
  have b3 := AmoOp.toBits_lt f
  have b4 := Width.toBits_lt w
  have b5 := Ord.toBits_lt o
  have e0 := bits_pack 2 o.toBits [(1, w.toBits), (2, 0), (4, f.toBits), (2, 0), (5, b.val), (3, a.val), (2, 0), (5, d.val), (6, 23)] b5 1 0 [] trivial rfl rfl
  have e2 := bits_pack 1 w.toBits [(2, 0), (4, f.toBits), (2, 0), (5, b.val), (3, a.val), (2, 0), (5, d.val), (6, 23)] b4 2 2 [(2, o.toBits)] ⟨b5, trivial⟩ rfl rfl
  have e3 := bits_pack 2 0 [(4, f.toBits), (2, 0), (5, b.val), (3, a.val), (2, 0), (5, d.val), (6, 23)] (Nat.two_pow_pos _) 4 3 [(2, o.toBits), (1, w.toBits)] ⟨b5, b4, trivial⟩ rfl rfl
  have e5 := bits_pack 4 f.toBits [(2, 0), (5, b.val), (3, a.val), (2, 0), (5, d.val), (6, 23)] b3 8 5 [(2, o.toBits), (1, w.toBits), (2, 0)] ⟨b5, b4, (Nat.two_pow_pos _), trivial⟩ rfl rfl
  have e11 := bits_pack 5 b.val [(3, a.val), (2, 0), (5, d.val), (6, 23)] b2 15 11 [(2, o.toBits), (1, w.toBits), (2, 0), (4, f.toBits), (2, 0)] ⟨b5, b4, (Nat.two_pow_pos _), b3, (Nat.two_pow_pos _), trivial⟩ rfl rfl
  have e16 := bits_pack 3 a.val [(2, 0), (5, d.val), (6, 23)] b1 18 16 [(2, o.toBits), (1, w.toBits), (2, 0), (4, f.toBits), (2, 0), (5, b.val)] ⟨b5, b4, (Nat.two_pow_pos _), b3, (Nat.two_pow_pos _), b2, trivial⟩ rfl rfl
  have e19 := bits_pack 2 0 [(5, d.val), (6, 23)] (Nat.two_pow_pos _) 20 19 [(2, o.toBits), (1, w.toBits), (2, 0), (4, f.toBits), (2, 0), (5, b.val), (3, a.val)] ⟨b5, b4, (Nat.two_pow_pos _), b3, (Nat.two_pow_pos _), b2, b1, trivial⟩ rfl rfl
  have e21 := bits_pack 5 d.val [(6, 23)] b0 25 21 [(2, o.toBits), (1, w.toBits), (2, 0), (4, f.toBits), (2, 0), (5, b.val), (3, a.val), (2, 0)] ⟨b5, b4, (Nat.two_pow_pos _), b3, (Nat.two_pow_pos _), b2, b1, (Nat.two_pow_pos _), trivial⟩ rfl rfl
  have e26 := bits_pack 6 23 [] (by decide) 31 26 [(2, o.toBits), (1, w.toBits), (2, 0), (4, f.toBits), (2, 0), (5, b.val), (3, a.val), (2, 0), (5, d.val)] ⟨b5, b4, (Nat.two_pow_pos _), b3, (Nat.two_pow_pos _), b2, b1, (Nat.two_pow_pos _), b0, trivial⟩ rfl rfl
  simp only [List.nil_append, List.cons_append] at e0 e2 e3 e5 e11 e16 e19 e21 e26
  have hl : pack [(2, o.toBits), (1, w.toBits), (2, 0), (4, f.toBits), (2, 0), (5, b.val), (3, a.val), (2, 0), (5, d.val), (6, 23)] < 2 ^ 32 := pack_lt [(2, o.toBits), (1, w.toBits), (2, 0), (4, f.toBits), (2, 0), (5, b.val), (3, a.val), (2, 0), (5, d.val), (6, 23)] ⟨b5, b4, (Nat.two_pow_pos _), b3, (Nat.two_pow_pos _), b2, b1, (Nat.two_pow_pos _), b0, (by decide), trivial⟩ rfl
  generalize pack [(2, o.toBits), (1, w.toBits), (2, 0), (4, f.toBits), (2, 0), (5, b.val), (3, a.val), (2, 0), (5, d.val), (6, 23)] = wd at *
  have o5 : bits wd 10 5 = f.toBits := by rw [hn]; simp only [fields_cons, fields_nil, bits]; omega
  refine decode_of wd hn.symm ?_ hw hl
  · rw [major_23 e26]; cases f <;> (simp only [decodeAtomic, e0, e2, e3, e5, e11, e16, e19, e21, o5, reduceIte, ofNat_val, AmoOp.ofBits?_toBits, Width.ofBits_toBits, Ord.ofBits_toBits, AmoOp.toBits, Nat.reduceMul, Nat.reduceAdd] <;> rfl)

theorem Sys2Proof.Laws.Roundtrip.cas (d : Reg) (a : PReg) (b : Reg) (w : Width) (o : Ord) : Statement (.cas d a b w o) := by
  intro _ hw
  have hn : ∀ x0 x1 x2 x3 x4 : Nat, pack [(2, x4), (1, x3), (2, 0), (6, 9), (5, x2), (3, x1), (2, 0), (5, x0), (6, 23)] = fields 0x5C000120 [(x0, 21), (x1, 16), (x2, 11), (x3, 2), (x4, 0)] := by
    intros; simp only [pack_eq, packAt_cons, packAt_nil, Nat.reduceAdd, fields_cons, fields_nil]; omega
  replace hn := hn d.val a.val b.val w.toBits o.toBits
  have b0 := d.isLt
  have b1 := a.isLt
  have b2 := b.isLt
  have b3 := Width.toBits_lt w
  have b4 := Ord.toBits_lt o
  have e0 := bits_pack 2 o.toBits [(1, w.toBits), (2, 0), (6, 9), (5, b.val), (3, a.val), (2, 0), (5, d.val), (6, 23)] b4 1 0 [] trivial rfl rfl
  have e2 := bits_pack 1 w.toBits [(2, 0), (6, 9), (5, b.val), (3, a.val), (2, 0), (5, d.val), (6, 23)] b3 2 2 [(2, o.toBits)] ⟨b4, trivial⟩ rfl rfl
  have e3 := bits_pack 2 0 [(6, 9), (5, b.val), (3, a.val), (2, 0), (5, d.val), (6, 23)] (Nat.two_pow_pos _) 4 3 [(2, o.toBits), (1, w.toBits)] ⟨b4, b3, trivial⟩ rfl rfl
  have e5 := bits_pack 6 9 [(5, b.val), (3, a.val), (2, 0), (5, d.val), (6, 23)] (by decide) 10 5 [(2, o.toBits), (1, w.toBits), (2, 0)] ⟨b4, b3, (Nat.two_pow_pos _), trivial⟩ rfl rfl
  have e11 := bits_pack 5 b.val [(3, a.val), (2, 0), (5, d.val), (6, 23)] b2 15 11 [(2, o.toBits), (1, w.toBits), (2, 0), (6, 9)] ⟨b4, b3, (Nat.two_pow_pos _), (by decide), trivial⟩ rfl rfl
  have e16 := bits_pack 3 a.val [(2, 0), (5, d.val), (6, 23)] b1 18 16 [(2, o.toBits), (1, w.toBits), (2, 0), (6, 9), (5, b.val)] ⟨b4, b3, (Nat.two_pow_pos _), (by decide), b2, trivial⟩ rfl rfl
  have e19 := bits_pack 2 0 [(5, d.val), (6, 23)] (Nat.two_pow_pos _) 20 19 [(2, o.toBits), (1, w.toBits), (2, 0), (6, 9), (5, b.val), (3, a.val)] ⟨b4, b3, (Nat.two_pow_pos _), (by decide), b2, b1, trivial⟩ rfl rfl
  have e21 := bits_pack 5 d.val [(6, 23)] b0 25 21 [(2, o.toBits), (1, w.toBits), (2, 0), (6, 9), (5, b.val), (3, a.val), (2, 0)] ⟨b4, b3, (Nat.two_pow_pos _), (by decide), b2, b1, (Nat.two_pow_pos _), trivial⟩ rfl rfl
  have e26 := bits_pack 6 23 [] (by decide) 31 26 [(2, o.toBits), (1, w.toBits), (2, 0), (6, 9), (5, b.val), (3, a.val), (2, 0), (5, d.val)] ⟨b4, b3, (Nat.two_pow_pos _), (by decide), b2, b1, (Nat.two_pow_pos _), b0, trivial⟩ rfl rfl
  simp only [List.nil_append, List.cons_append] at e0 e2 e3 e5 e11 e16 e19 e21 e26
  have hl : pack [(2, o.toBits), (1, w.toBits), (2, 0), (6, 9), (5, b.val), (3, a.val), (2, 0), (5, d.val), (6, 23)] < 2 ^ 32 := pack_lt [(2, o.toBits), (1, w.toBits), (2, 0), (6, 9), (5, b.val), (3, a.val), (2, 0), (5, d.val), (6, 23)] ⟨b4, b3, (Nat.two_pow_pos _), (by decide), b2, b1, (Nat.two_pow_pos _), b0, (by decide), trivial⟩ rfl
  generalize pack [(2, o.toBits), (1, w.toBits), (2, 0), (6, 9), (5, b.val), (3, a.val), (2, 0), (5, d.val), (6, 23)] = wd at *
  refine decode_of wd hn.symm ?_ hw hl
  · rw [major_23 e26]; simp only [decodeAtomic, e5, e0, e2, e3, e11, e16, e19, e21, reduceIte, ofNat_val, Width.ofBits_toBits, Ord.ofBits_toBits]

theorem Sys2Proof.Laws.Roundtrip.fadd (d : Reg) (a : PReg) (b : Reg) (f : FaddFmt) (o : Ord) : Statement (.fadd d a b f o) := by
  intro _ hw
  have hn : ∀ x0 x1 x2 x3 x4 : Nat, pack [(2, x4), (3, 0), (1, x3), (5, 5), (5, x2), (3, x1), (2, 0), (5, x0), (6, 23)] = fields 0x5C000140 [(x0, 21), (x1, 16), (x2, 11), (x3, 5), (x4, 0)] := by
    intros; simp only [pack_eq, packAt_cons, packAt_nil, Nat.reduceAdd, fields_cons, fields_nil]; omega
  replace hn := hn d.val a.val b.val f.toBits o.toBits
  have b0 := d.isLt
  have b1 := a.isLt
  have b2 := b.isLt
  have b3 := FaddFmt.toBits_lt f
  have b4 := Ord.toBits_lt o
  have e0 := bits_pack 2 o.toBits [(3, 0), (1, f.toBits), (5, 5), (5, b.val), (3, a.val), (2, 0), (5, d.val), (6, 23)] b4 1 0 [] trivial rfl rfl
  have e2 := bits_pack 3 0 [(1, f.toBits), (5, 5), (5, b.val), (3, a.val), (2, 0), (5, d.val), (6, 23)] (Nat.two_pow_pos _) 4 2 [(2, o.toBits)] ⟨b4, trivial⟩ rfl rfl
  have e5 := bits_pack 1 f.toBits [(5, 5), (5, b.val), (3, a.val), (2, 0), (5, d.val), (6, 23)] b3 5 5 [(2, o.toBits), (3, 0)] ⟨b4, (Nat.two_pow_pos _), trivial⟩ rfl rfl
  have e11 := bits_pack 5 b.val [(3, a.val), (2, 0), (5, d.val), (6, 23)] b2 15 11 [(2, o.toBits), (3, 0), (1, f.toBits), (5, 5)] ⟨b4, (Nat.two_pow_pos _), b3, (by decide), trivial⟩ rfl rfl
  have e16 := bits_pack 3 a.val [(2, 0), (5, d.val), (6, 23)] b1 18 16 [(2, o.toBits), (3, 0), (1, f.toBits), (5, 5), (5, b.val)] ⟨b4, (Nat.two_pow_pos _), b3, (by decide), b2, trivial⟩ rfl rfl
  have e19 := bits_pack 2 0 [(5, d.val), (6, 23)] (Nat.two_pow_pos _) 20 19 [(2, o.toBits), (3, 0), (1, f.toBits), (5, 5), (5, b.val), (3, a.val)] ⟨b4, (Nat.two_pow_pos _), b3, (by decide), b2, b1, trivial⟩ rfl rfl
  have e21 := bits_pack 5 d.val [(6, 23)] b0 25 21 [(2, o.toBits), (3, 0), (1, f.toBits), (5, 5), (5, b.val), (3, a.val), (2, 0)] ⟨b4, (Nat.two_pow_pos _), b3, (by decide), b2, b1, (Nat.two_pow_pos _), trivial⟩ rfl rfl
  have e26 := bits_pack 6 23 [] (by decide) 31 26 [(2, o.toBits), (3, 0), (1, f.toBits), (5, 5), (5, b.val), (3, a.val), (2, 0), (5, d.val)] ⟨b4, (Nat.two_pow_pos _), b3, (by decide), b2, b1, (Nat.two_pow_pos _), b0, trivial⟩ rfl rfl
  simp only [List.nil_append, List.cons_append] at e0 e2 e5 e11 e16 e19 e21 e26
  have hl : pack [(2, o.toBits), (3, 0), (1, f.toBits), (5, 5), (5, b.val), (3, a.val), (2, 0), (5, d.val), (6, 23)] < 2 ^ 32 := pack_lt [(2, o.toBits), (3, 0), (1, f.toBits), (5, 5), (5, b.val), (3, a.val), (2, 0), (5, d.val), (6, 23)] ⟨b4, (Nat.two_pow_pos _), b3, (by decide), b2, b1, (Nat.two_pow_pos _), b0, (by decide), trivial⟩ rfl
  generalize pack [(2, o.toBits), (3, 0), (1, f.toBits), (5, 5), (5, b.val), (3, a.val), (2, 0), (5, d.val), (6, 23)] = wd at *
  have o5 : bits wd 10 5 = 10 + f.toBits := by rw [hn]; simp only [fields_cons, fields_nil, bits]; omega
  refine decode_of wd hn.symm ?_ hw hl
  · rw [major_23 e26]; cases f <;> (simp only [decodeAtomic, e0, e2, e5, e11, e16, e19, e21, o5, reduceIte, ofNat_val, FaddFmt.ofBits_toBits, Ord.ofBits_toBits, FaddFmt.toBits, Nat.reduceMul, Nat.reduceAdd] <;> rfl)

theorem Sys2Proof.Laws.Roundtrip.fenceFull (s : Scope) : Statement (.fenceFull s) := by
  intro _ hw
  have hn : ∀ x0 : Nat, pack [(3, x0), (2, 0), (6, 0), (15, 0), (6, 24)] = fields 0x60000000 [(x0, 0)] := by
    intros; simp only [pack_eq, packAt_cons, packAt_nil, Nat.reduceAdd, fields_cons, fields_nil]; omega
  replace hn := hn s.toBits
  have b0 := Scope.toBits_lt s
  have e0 := bits_pack 3 s.toBits [(2, 0), (6, 0), (15, 0), (6, 24)] b0 2 0 [] trivial rfl rfl
  have e3 := bits_pack 2 0 [(6, 0), (15, 0), (6, 24)] (Nat.two_pow_pos _) 4 3 [(3, s.toBits)] ⟨b0, trivial⟩ rfl rfl
  have e5 := bits_pack 6 0 [(15, 0), (6, 24)] (Nat.two_pow_pos _) 10 5 [(3, s.toBits), (2, 0)] ⟨b0, (Nat.two_pow_pos _), trivial⟩ rfl rfl
  have e11 := bits_pack 15 0 [(6, 24)] (Nat.two_pow_pos _) 25 11 [(3, s.toBits), (2, 0), (6, 0)] ⟨b0, (Nat.two_pow_pos _), (Nat.two_pow_pos _), trivial⟩ rfl rfl
  have e26 := bits_pack 6 24 [] (by decide) 31 26 [(3, s.toBits), (2, 0), (6, 0), (15, 0)] ⟨b0, (Nat.two_pow_pos _), (Nat.two_pow_pos _), (Nat.two_pow_pos _), trivial⟩ rfl rfl
  simp only [List.nil_append, List.cons_append] at e0 e3 e5 e11 e26
  have hl : pack [(3, s.toBits), (2, 0), (6, 0), (15, 0), (6, 24)] < 2 ^ 32 := pack_lt [(3, s.toBits), (2, 0), (6, 0), (15, 0), (6, 24)] ⟨b0, (Nat.two_pow_pos _), (Nat.two_pow_pos _), (Nat.two_pow_pos _), (by decide), trivial⟩ rfl
  generalize pack [(3, s.toBits), (2, 0), (6, 0), (15, 0), (6, 24)] = wd at *
  refine decode_of wd hn.symm ?_ hw hl
  · rw [major_24 e26]; simp only [decodeFence, e5, e0, e3, e11, reduceIte, Scope.ofBits?_toBits]

theorem Sys2Proof.Laws.Roundtrip.fenceAcq (s : Scope) : Statement (.fenceAcq s) := by
  intro _ hw
  have hn : ∀ x0 : Nat, pack [(3, x0), (2, 0), (6, 1), (15, 0), (6, 24)] = fields 0x60000020 [(x0, 0)] := by
    intros; simp only [pack_eq, packAt_cons, packAt_nil, Nat.reduceAdd, fields_cons, fields_nil]; omega
  replace hn := hn s.toBits
  have b0 := Scope.toBits_lt s
  have e0 := bits_pack 3 s.toBits [(2, 0), (6, 1), (15, 0), (6, 24)] b0 2 0 [] trivial rfl rfl
  have e3 := bits_pack 2 0 [(6, 1), (15, 0), (6, 24)] (Nat.two_pow_pos _) 4 3 [(3, s.toBits)] ⟨b0, trivial⟩ rfl rfl
  have e5 := bits_pack 6 1 [(15, 0), (6, 24)] (by decide) 10 5 [(3, s.toBits), (2, 0)] ⟨b0, (Nat.two_pow_pos _), trivial⟩ rfl rfl
  have e11 := bits_pack 15 0 [(6, 24)] (Nat.two_pow_pos _) 25 11 [(3, s.toBits), (2, 0), (6, 1)] ⟨b0, (Nat.two_pow_pos _), (by decide), trivial⟩ rfl rfl
  have e26 := bits_pack 6 24 [] (by decide) 31 26 [(3, s.toBits), (2, 0), (6, 1), (15, 0)] ⟨b0, (Nat.two_pow_pos _), (by decide), (Nat.two_pow_pos _), trivial⟩ rfl rfl
  simp only [List.nil_append, List.cons_append] at e0 e3 e5 e11 e26
  have hl : pack [(3, s.toBits), (2, 0), (6, 1), (15, 0), (6, 24)] < 2 ^ 32 := pack_lt [(3, s.toBits), (2, 0), (6, 1), (15, 0), (6, 24)] ⟨b0, (Nat.two_pow_pos _), (by decide), (Nat.two_pow_pos _), (by decide), trivial⟩ rfl
  generalize pack [(3, s.toBits), (2, 0), (6, 1), (15, 0), (6, 24)] = wd at *
  refine decode_of wd hn.symm ?_ hw hl
  · rw [major_24 e26]; simp only [decodeFence, e5, e0, e3, e11, reduceIte, Scope.ofBits?_toBits]

theorem Sys2Proof.Laws.Roundtrip.fenceRel (s : Scope) : Statement (.fenceRel s) := by
  intro _ hw
  have hn : ∀ x0 : Nat, pack [(3, x0), (2, 0), (6, 2), (15, 0), (6, 24)] = fields 0x60000040 [(x0, 0)] := by
    intros; simp only [pack_eq, packAt_cons, packAt_nil, Nat.reduceAdd, fields_cons, fields_nil]; omega
  replace hn := hn s.toBits
  have b0 := Scope.toBits_lt s
  have e0 := bits_pack 3 s.toBits [(2, 0), (6, 2), (15, 0), (6, 24)] b0 2 0 [] trivial rfl rfl
  have e3 := bits_pack 2 0 [(6, 2), (15, 0), (6, 24)] (Nat.two_pow_pos _) 4 3 [(3, s.toBits)] ⟨b0, trivial⟩ rfl rfl
  have e5 := bits_pack 6 2 [(15, 0), (6, 24)] (by decide) 10 5 [(3, s.toBits), (2, 0)] ⟨b0, (Nat.two_pow_pos _), trivial⟩ rfl rfl
  have e11 := bits_pack 15 0 [(6, 24)] (Nat.two_pow_pos _) 25 11 [(3, s.toBits), (2, 0), (6, 2)] ⟨b0, (Nat.two_pow_pos _), (by decide), trivial⟩ rfl rfl
  have e26 := bits_pack 6 24 [] (by decide) 31 26 [(3, s.toBits), (2, 0), (6, 2), (15, 0)] ⟨b0, (Nat.two_pow_pos _), (by decide), (Nat.two_pow_pos _), trivial⟩ rfl rfl
  simp only [List.nil_append, List.cons_append] at e0 e3 e5 e11 e26
  have hl : pack [(3, s.toBits), (2, 0), (6, 2), (15, 0), (6, 24)] < 2 ^ 32 := pack_lt [(3, s.toBits), (2, 0), (6, 2), (15, 0), (6, 24)] ⟨b0, (Nat.two_pow_pos _), (by decide), (Nat.two_pow_pos _), (by decide), trivial⟩ rfl
  generalize pack [(3, s.toBits), (2, 0), (6, 2), (15, 0), (6, 24)] = wd at *
  refine decode_of wd hn.symm ?_ hw hl
  · rw [major_24 e26]; simp only [decodeFence, e5, e0, e3, e11, reduceIte, Scope.ofBits?_toBits]

theorem Sys2Proof.Laws.Roundtrip.fencePath : Statement .fencePath := by
  intro _ hw
  have hn : pack [(5, 4), (6, 3), (15, 0), (6, 24)] = 0x60000064 := rfl
  have e0 := bits_pack 5 4 [(6, 3), (15, 0), (6, 24)] (by decide) 4 0 [] trivial rfl rfl
  have e5 := bits_pack 6 3 [(15, 0), (6, 24)] (by decide) 10 5 [(5, 4)] ⟨(by decide), trivial⟩ rfl rfl
  have e11 := bits_pack 15 0 [(6, 24)] (Nat.two_pow_pos _) 25 11 [(5, 4), (6, 3)] ⟨(by decide), (by decide), trivial⟩ rfl rfl
  have e26 := bits_pack 6 24 [] (by decide) 31 26 [(5, 4), (6, 3), (15, 0)] ⟨(by decide), (by decide), (Nat.two_pow_pos _), trivial⟩ rfl rfl
  simp only [List.nil_append, List.cons_append] at e0 e5 e11 e26
  have hl : pack [(5, 4), (6, 3), (15, 0), (6, 24)] < 2 ^ 32 := pack_lt [(5, 4), (6, 3), (15, 0), (6, 24)] ⟨(by decide), (by decide), (Nat.two_pow_pos _), (by decide), trivial⟩ rfl
  generalize pack [(5, 4), (6, 3), (15, 0), (6, 24)] = wd at *
  refine decode_of wd hn.symm ?_ hw hl
  · rw [major_24 e26]; simp only [decodeFence, e5, e0, e11, reduceIte]

theorem Sys2Proof.Laws.Roundtrip.fenceWin : Statement .fenceWin := by
  intro _ hw
  have hn : pack [(5, 5), (6, 4), (15, 0), (6, 24)] = 0x60000085 := rfl
  have e0 := bits_pack 5 5 [(6, 4), (15, 0), (6, 24)] (by decide) 4 0 [] trivial rfl rfl
  have e5 := bits_pack 6 4 [(15, 0), (6, 24)] (by decide) 10 5 [(5, 5)] ⟨(by decide), trivial⟩ rfl rfl
  have e11 := bits_pack 15 0 [(6, 24)] (Nat.two_pow_pos _) 25 11 [(5, 5), (6, 4)] ⟨(by decide), (by decide), trivial⟩ rfl rfl
  have e26 := bits_pack 6 24 [] (by decide) 31 26 [(5, 5), (6, 4), (15, 0)] ⟨(by decide), (by decide), (Nat.two_pow_pos _), trivial⟩ rfl rfl
  simp only [List.nil_append, List.cons_append] at e0 e5 e11 e26
  have hl : pack [(5, 5), (6, 4), (15, 0), (6, 24)] < 2 ^ 32 := pack_lt [(5, 5), (6, 4), (15, 0), (6, 24)] ⟨(by decide), (by decide), (Nat.two_pow_pos _), (by decide), trivial⟩ rfl
  generalize pack [(5, 5), (6, 4), (15, 0), (6, 24)] = wd at *
  refine decode_of wd hn.symm ?_ hw hl
  · rw [major_24 e26]; simp only [decodeFence, e5, e0, e11, reduceIte]

theorem Sys2Proof.Laws.Roundtrip.qbind (d : PReg) (q : QReg) : Statement (.qbind d q) := by
  intro _ hw
  have hn : ∀ x0 x1 : Nat, pack [(4, 0), (13, 0), (4, x1), (3, x0), (2, 0), (6, 25)] = fields 0x64000000 [(x0, 21), (x1, 17)] := by
    intros; simp only [pack_eq, packAt_cons, packAt_nil, Nat.reduceAdd, fields_cons, fields_nil]; omega
  replace hn := hn d.val q.val
  have b0 := d.isLt
  have b1 := q.isLt
  have e0 := bits_pack 4 0 [(13, 0), (4, q.val), (3, d.val), (2, 0), (6, 25)] (Nat.two_pow_pos _) 3 0 [] trivial rfl rfl
  have e4 := bits_pack 13 0 [(4, q.val), (3, d.val), (2, 0), (6, 25)] (Nat.two_pow_pos _) 16 4 [(4, 0)] ⟨(Nat.two_pow_pos _), trivial⟩ rfl rfl
  have e17 := bits_pack 4 q.val [(3, d.val), (2, 0), (6, 25)] b1 20 17 [(4, 0), (13, 0)] ⟨(Nat.two_pow_pos _), (Nat.two_pow_pos _), trivial⟩ rfl rfl
  have e21 := bits_pack 3 d.val [(2, 0), (6, 25)] b0 23 21 [(4, 0), (13, 0), (4, q.val)] ⟨(Nat.two_pow_pos _), (Nat.two_pow_pos _), b1, trivial⟩ rfl rfl
  have e24 := bits_pack 2 0 [(6, 25)] (Nat.two_pow_pos _) 25 24 [(4, 0), (13, 0), (4, q.val), (3, d.val)] ⟨(Nat.two_pow_pos _), (Nat.two_pow_pos _), b1, b0, trivial⟩ rfl rfl
  have e26 := bits_pack 6 25 [] (by decide) 31 26 [(4, 0), (13, 0), (4, q.val), (3, d.val), (2, 0)] ⟨(Nat.two_pow_pos _), (Nat.two_pow_pos _), b1, b0, (Nat.two_pow_pos _), trivial⟩ rfl rfl
  simp only [List.nil_append, List.cons_append] at e0 e4 e17 e21 e24 e26
  have hl : pack [(4, 0), (13, 0), (4, q.val), (3, d.val), (2, 0), (6, 25)] < 2 ^ 32 := pack_lt [(4, 0), (13, 0), (4, q.val), (3, d.val), (2, 0), (6, 25)] ⟨(Nat.two_pow_pos _), (Nat.two_pow_pos _), b1, b0, (Nat.two_pow_pos _), (by decide), trivial⟩ rfl
  generalize pack [(4, 0), (13, 0), (4, q.val), (3, d.val), (2, 0), (6, 25)] = wd at *
  refine decode_of wd hn.symm ?_ hw hl
  · rw [major_25 e26]; simp only [decodeQueue, e0, e4, e17, e21, e24, reduceIte, ofNat_val]

theorem Sys2Proof.Laws.Roundtrip.qwait (q : QReg) (n : Fin 256) : Statement (.qwait q n) := by
  intro _ hw
  have hn : ∀ x0 x1 : Nat, pack [(4, 1), (5, 0), (8, x1), (4, x0), (5, 0), (6, 25)] = fields 0x64000001 [(x0, 17), (x1, 9)] := by
    intros; simp only [pack_eq, packAt_cons, packAt_nil, Nat.reduceAdd, fields_cons, fields_nil]; omega
  replace hn := hn q.val n.val
  have b0 := q.isLt
  have b1 := n.isLt
  have e0 := bits_pack 4 1 [(5, 0), (8, n.val), (4, q.val), (5, 0), (6, 25)] (by decide) 3 0 [] trivial rfl rfl
  have e4 := bits_pack 5 0 [(8, n.val), (4, q.val), (5, 0), (6, 25)] (Nat.two_pow_pos _) 8 4 [(4, 1)] ⟨(by decide), trivial⟩ rfl rfl
  have e9 := bits_pack 8 n.val [(4, q.val), (5, 0), (6, 25)] b1 16 9 [(4, 1), (5, 0)] ⟨(by decide), (Nat.two_pow_pos _), trivial⟩ rfl rfl
  have e17 := bits_pack 4 q.val [(5, 0), (6, 25)] b0 20 17 [(4, 1), (5, 0), (8, n.val)] ⟨(by decide), (Nat.two_pow_pos _), b1, trivial⟩ rfl rfl
  have e21 := bits_pack 5 0 [(6, 25)] (Nat.two_pow_pos _) 25 21 [(4, 1), (5, 0), (8, n.val), (4, q.val)] ⟨(by decide), (Nat.two_pow_pos _), b1, b0, trivial⟩ rfl rfl
  have e26 := bits_pack 6 25 [] (by decide) 31 26 [(4, 1), (5, 0), (8, n.val), (4, q.val), (5, 0)] ⟨(by decide), (Nat.two_pow_pos _), b1, b0, (Nat.two_pow_pos _), trivial⟩ rfl rfl
  simp only [List.nil_append, List.cons_append] at e0 e4 e9 e17 e21 e26
  have hl : pack [(4, 1), (5, 0), (8, n.val), (4, q.val), (5, 0), (6, 25)] < 2 ^ 32 := pack_lt [(4, 1), (5, 0), (8, n.val), (4, q.val), (5, 0), (6, 25)] ⟨(by decide), (Nat.two_pow_pos _), b1, b0, (Nat.two_pow_pos _), (by decide), trivial⟩ rfl
  generalize pack [(4, 1), (5, 0), (8, n.val), (4, q.val), (5, 0), (6, 25)] = wd at *
  refine decode_of wd hn.symm ?_ hw hl
  · rw [major_25 e26]; simp only [decodeQueue, e0, e4, e9, e17, e21, reduceIte, ofNat_val]

theorem Sys2Proof.Laws.Roundtrip.qrsv (q : QReg) (n : Fin 256) : Statement (.qrsv q n) := by
  intro _ hw
  have hn : ∀ x0 x1 : Nat, pack [(4, 2), (5, 0), (8, x1), (4, x0), (5, 0), (6, 25)] = fields 0x64000002 [(x0, 17), (x1, 9)] := by
    intros; simp only [pack_eq, packAt_cons, packAt_nil, Nat.reduceAdd, fields_cons, fields_nil]; omega
  replace hn := hn q.val n.val
  have b0 := q.isLt
  have b1 := n.isLt
  have e0 := bits_pack 4 2 [(5, 0), (8, n.val), (4, q.val), (5, 0), (6, 25)] (by decide) 3 0 [] trivial rfl rfl
  have e4 := bits_pack 5 0 [(8, n.val), (4, q.val), (5, 0), (6, 25)] (Nat.two_pow_pos _) 8 4 [(4, 2)] ⟨(by decide), trivial⟩ rfl rfl
  have e9 := bits_pack 8 n.val [(4, q.val), (5, 0), (6, 25)] b1 16 9 [(4, 2), (5, 0)] ⟨(by decide), (Nat.two_pow_pos _), trivial⟩ rfl rfl
  have e17 := bits_pack 4 q.val [(5, 0), (6, 25)] b0 20 17 [(4, 2), (5, 0), (8, n.val)] ⟨(by decide), (Nat.two_pow_pos _), b1, trivial⟩ rfl rfl
  have e21 := bits_pack 5 0 [(6, 25)] (Nat.two_pow_pos _) 25 21 [(4, 2), (5, 0), (8, n.val), (4, q.val)] ⟨(by decide), (Nat.two_pow_pos _), b1, b0, trivial⟩ rfl rfl
  have e26 := bits_pack 6 25 [] (by decide) 31 26 [(4, 2), (5, 0), (8, n.val), (4, q.val), (5, 0)] ⟨(by decide), (Nat.two_pow_pos _), b1, b0, (Nat.two_pow_pos _), trivial⟩ rfl rfl
  simp only [List.nil_append, List.cons_append] at e0 e4 e9 e17 e21 e26
  have hl : pack [(4, 2), (5, 0), (8, n.val), (4, q.val), (5, 0), (6, 25)] < 2 ^ 32 := pack_lt [(4, 2), (5, 0), (8, n.val), (4, q.val), (5, 0), (6, 25)] ⟨(by decide), (Nat.two_pow_pos _), b1, b0, (Nat.two_pow_pos _), (by decide), trivial⟩ rfl
  generalize pack [(4, 2), (5, 0), (8, n.val), (4, q.val), (5, 0), (6, 25)] = wd at *
  refine decode_of wd hn.symm ?_ hw hl
  · rw [major_25 e26]; simp only [decodeQueue, e0, e4, e9, e17, e21, reduceIte, ofNat_val]

theorem Sys2Proof.Laws.Roundtrip.qpush (q : QReg) (n : Fin 256) : Statement (.qpush q n) := by
  intro _ hw
  have hn : ∀ x0 x1 : Nat, pack [(4, 3), (5, 0), (8, x1), (4, x0), (5, 0), (6, 25)] = fields 0x64000003 [(x0, 17), (x1, 9)] := by
    intros; simp only [pack_eq, packAt_cons, packAt_nil, Nat.reduceAdd, fields_cons, fields_nil]; omega
  replace hn := hn q.val n.val
  have b0 := q.isLt
  have b1 := n.isLt
  have e0 := bits_pack 4 3 [(5, 0), (8, n.val), (4, q.val), (5, 0), (6, 25)] (by decide) 3 0 [] trivial rfl rfl
  have e4 := bits_pack 5 0 [(8, n.val), (4, q.val), (5, 0), (6, 25)] (Nat.two_pow_pos _) 8 4 [(4, 3)] ⟨(by decide), trivial⟩ rfl rfl
  have e9 := bits_pack 8 n.val [(4, q.val), (5, 0), (6, 25)] b1 16 9 [(4, 3), (5, 0)] ⟨(by decide), (Nat.two_pow_pos _), trivial⟩ rfl rfl
  have e17 := bits_pack 4 q.val [(5, 0), (6, 25)] b0 20 17 [(4, 3), (5, 0), (8, n.val)] ⟨(by decide), (Nat.two_pow_pos _), b1, trivial⟩ rfl rfl
  have e21 := bits_pack 5 0 [(6, 25)] (Nat.two_pow_pos _) 25 21 [(4, 3), (5, 0), (8, n.val), (4, q.val)] ⟨(by decide), (Nat.two_pow_pos _), b1, b0, trivial⟩ rfl rfl
  have e26 := bits_pack 6 25 [] (by decide) 31 26 [(4, 3), (5, 0), (8, n.val), (4, q.val), (5, 0)] ⟨(by decide), (Nat.two_pow_pos _), b1, b0, (Nat.two_pow_pos _), trivial⟩ rfl rfl
  simp only [List.nil_append, List.cons_append] at e0 e4 e9 e17 e21 e26
  have hl : pack [(4, 3), (5, 0), (8, n.val), (4, q.val), (5, 0), (6, 25)] < 2 ^ 32 := pack_lt [(4, 3), (5, 0), (8, n.val), (4, q.val), (5, 0), (6, 25)] ⟨(by decide), (Nat.two_pow_pos _), b1, b0, (Nat.two_pow_pos _), (by decide), trivial⟩ rfl
  generalize pack [(4, 3), (5, 0), (8, n.val), (4, q.val), (5, 0), (6, 25)] = wd at *
  refine decode_of wd hn.symm ?_ hw hl
  · rw [major_25 e26]; simp only [decodeQueue, e0, e4, e9, e17, e21, reduceIte, ofNat_val]

theorem Sys2Proof.Laws.Roundtrip.qpop (q : QReg) (n : Fin 256) : Statement (.qpop q n) := by
  intro _ hw
  have hn : ∀ x0 x1 : Nat, pack [(4, 4), (5, 0), (8, x1), (4, x0), (5, 0), (6, 25)] = fields 0x64000004 [(x0, 17), (x1, 9)] := by
    intros; simp only [pack_eq, packAt_cons, packAt_nil, Nat.reduceAdd, fields_cons, fields_nil]; omega
  replace hn := hn q.val n.val
  have b0 := q.isLt
  have b1 := n.isLt
  have e0 := bits_pack 4 4 [(5, 0), (8, n.val), (4, q.val), (5, 0), (6, 25)] (by decide) 3 0 [] trivial rfl rfl
  have e4 := bits_pack 5 0 [(8, n.val), (4, q.val), (5, 0), (6, 25)] (Nat.two_pow_pos _) 8 4 [(4, 4)] ⟨(by decide), trivial⟩ rfl rfl
  have e9 := bits_pack 8 n.val [(4, q.val), (5, 0), (6, 25)] b1 16 9 [(4, 4), (5, 0)] ⟨(by decide), (Nat.two_pow_pos _), trivial⟩ rfl rfl
  have e17 := bits_pack 4 q.val [(5, 0), (6, 25)] b0 20 17 [(4, 4), (5, 0), (8, n.val)] ⟨(by decide), (Nat.two_pow_pos _), b1, trivial⟩ rfl rfl
  have e21 := bits_pack 5 0 [(6, 25)] (Nat.two_pow_pos _) 25 21 [(4, 4), (5, 0), (8, n.val), (4, q.val)] ⟨(by decide), (Nat.two_pow_pos _), b1, b0, trivial⟩ rfl rfl
  have e26 := bits_pack 6 25 [] (by decide) 31 26 [(4, 4), (5, 0), (8, n.val), (4, q.val), (5, 0)] ⟨(by decide), (Nat.two_pow_pos _), b1, b0, (Nat.two_pow_pos _), trivial⟩ rfl rfl
  simp only [List.nil_append, List.cons_append] at e0 e4 e9 e17 e21 e26
  have hl : pack [(4, 4), (5, 0), (8, n.val), (4, q.val), (5, 0), (6, 25)] < 2 ^ 32 := pack_lt [(4, 4), (5, 0), (8, n.val), (4, q.val), (5, 0), (6, 25)] ⟨(by decide), (Nat.two_pow_pos _), b1, b0, (Nat.two_pow_pos _), (by decide), trivial⟩ rfl
  generalize pack [(4, 4), (5, 0), (8, n.val), (4, q.val), (5, 0), (6, 25)] = wd at *
  refine decode_of wd hn.symm ?_ hw hl
  · rw [major_25 e26]; simp only [decodeQueue, e0, e4, e9, e17, e21, reduceIte, ofNat_val]

theorem Sys2Proof.Laws.Roundtrip.qldv (d : Reg) (q : QReg) (n : Fin 256) : Statement (.qldv d q n) := by
  intro _ hw
  have hn : ∀ x0 x1 x2 : Nat, pack [(4, 5), (5, 0), (8, x2), (4, x1), (5, x0), (6, 25)] = fields 0x64000005 [(x0, 21), (x1, 17), (x2, 9)] := by
    intros; simp only [pack_eq, packAt_cons, packAt_nil, Nat.reduceAdd, fields_cons, fields_nil]; omega
  replace hn := hn d.val q.val n.val
  have b0 := d.isLt
  have b1 := q.isLt
  have b2 := n.isLt
  have e0 := bits_pack 4 5 [(5, 0), (8, n.val), (4, q.val), (5, d.val), (6, 25)] (by decide) 3 0 [] trivial rfl rfl
  have e4 := bits_pack 5 0 [(8, n.val), (4, q.val), (5, d.val), (6, 25)] (Nat.two_pow_pos _) 8 4 [(4, 5)] ⟨(by decide), trivial⟩ rfl rfl
  have e9 := bits_pack 8 n.val [(4, q.val), (5, d.val), (6, 25)] b2 16 9 [(4, 5), (5, 0)] ⟨(by decide), (Nat.two_pow_pos _), trivial⟩ rfl rfl
  have e17 := bits_pack 4 q.val [(5, d.val), (6, 25)] b1 20 17 [(4, 5), (5, 0), (8, n.val)] ⟨(by decide), (Nat.two_pow_pos _), b2, trivial⟩ rfl rfl
  have e21 := bits_pack 5 d.val [(6, 25)] b0 25 21 [(4, 5), (5, 0), (8, n.val), (4, q.val)] ⟨(by decide), (Nat.two_pow_pos _), b2, b1, trivial⟩ rfl rfl
  have e26 := bits_pack 6 25 [] (by decide) 31 26 [(4, 5), (5, 0), (8, n.val), (4, q.val), (5, d.val)] ⟨(by decide), (Nat.two_pow_pos _), b2, b1, b0, trivial⟩ rfl rfl
  simp only [List.nil_append, List.cons_append] at e0 e4 e9 e17 e21 e26
  have hl : pack [(4, 5), (5, 0), (8, n.val), (4, q.val), (5, d.val), (6, 25)] < 2 ^ 32 := pack_lt [(4, 5), (5, 0), (8, n.val), (4, q.val), (5, d.val), (6, 25)] ⟨(by decide), (Nat.two_pow_pos _), b2, b1, b0, (by decide), trivial⟩ rfl
  generalize pack [(4, 5), (5, 0), (8, n.val), (4, q.val), (5, d.val), (6, 25)] = wd at *
  refine decode_of wd hn.symm ?_ hw hl
  · rw [major_25 e26]; simp only [decodeQueue, e0, e4, e9, e17, e21, reduceIte, ofNat_val]

theorem Sys2Proof.Laws.Roundtrip.qstv (d : Reg) (q : QReg) (n : Fin 256) : Statement (.qstv d q n) := by
  intro _ hw
  have hn : ∀ x0 x1 x2 : Nat, pack [(4, 6), (5, 0), (8, x2), (4, x1), (5, x0), (6, 25)] = fields 0x64000006 [(x0, 21), (x1, 17), (x2, 9)] := by
    intros; simp only [pack_eq, packAt_cons, packAt_nil, Nat.reduceAdd, fields_cons, fields_nil]; omega
  replace hn := hn d.val q.val n.val
  have b0 := d.isLt
  have b1 := q.isLt
  have b2 := n.isLt
  have e0 := bits_pack 4 6 [(5, 0), (8, n.val), (4, q.val), (5, d.val), (6, 25)] (by decide) 3 0 [] trivial rfl rfl
  have e4 := bits_pack 5 0 [(8, n.val), (4, q.val), (5, d.val), (6, 25)] (Nat.two_pow_pos _) 8 4 [(4, 6)] ⟨(by decide), trivial⟩ rfl rfl
  have e9 := bits_pack 8 n.val [(4, q.val), (5, d.val), (6, 25)] b2 16 9 [(4, 6), (5, 0)] ⟨(by decide), (Nat.two_pow_pos _), trivial⟩ rfl rfl
  have e17 := bits_pack 4 q.val [(5, d.val), (6, 25)] b1 20 17 [(4, 6), (5, 0), (8, n.val)] ⟨(by decide), (Nat.two_pow_pos _), b2, trivial⟩ rfl rfl
  have e21 := bits_pack 5 d.val [(6, 25)] b0 25 21 [(4, 6), (5, 0), (8, n.val), (4, q.val)] ⟨(by decide), (Nat.two_pow_pos _), b2, b1, trivial⟩ rfl rfl
  have e26 := bits_pack 6 25 [] (by decide) 31 26 [(4, 6), (5, 0), (8, n.val), (4, q.val), (5, d.val)] ⟨(by decide), (Nat.two_pow_pos _), b2, b1, b0, trivial⟩ rfl rfl
  simp only [List.nil_append, List.cons_append] at e0 e4 e9 e17 e21 e26
  have hl : pack [(4, 6), (5, 0), (8, n.val), (4, q.val), (5, d.val), (6, 25)] < 2 ^ 32 := pack_lt [(4, 6), (5, 0), (8, n.val), (4, q.val), (5, d.val), (6, 25)] ⟨(by decide), (Nat.two_pow_pos _), b2, b1, b0, (by decide), trivial⟩ rfl
  generalize pack [(4, 6), (5, 0), (8, n.val), (4, q.val), (5, d.val), (6, 25)] = wd at *
  refine decode_of wd hn.symm ?_ hw hl
  · rw [major_25 e26]; simp only [decodeQueue, e0, e4, e9, e17, e21, reduceIte, ofNat_val]

theorem Sys2Proof.Laws.Roundtrip.qwaitSatisfied (slot : SlotId) : Statement (.qwaitSatisfied slot) := fun h => absurd h (Bool.false_ne_true)

theorem Sys2Proof.Laws.Roundtrip.vadd (d : Reg) (a : Reg) (b : Reg) (r : Round) : Statement (.vadd d a b r) := by
  intro _ hw
  have hn : ∀ x0 x1 x2 x3 : Nat, pack [(2, x3), (3, 0), (6, 0), (5, x2), (5, x1), (5, x0), (6, 26)] = fields 0x68000000 [(x0, 21), (x1, 16), (x2, 11), (x3, 0)] := by
    intros; simp only [pack_eq, packAt_cons, packAt_nil, Nat.reduceAdd, fields_cons, fields_nil]; omega
  replace hn := hn d.val a.val b.val r.toBits
  have b0 := d.isLt
  have b1 := a.isLt
  have b2 := b.isLt
  have b3 := Round.toBits_lt r
  have e0 := bits_pack 2 r.toBits [(3, 0), (6, 0), (5, b.val), (5, a.val), (5, d.val), (6, 26)] b3 1 0 [] trivial rfl rfl
  have e2 := bits_pack 3 0 [(6, 0), (5, b.val), (5, a.val), (5, d.val), (6, 26)] (Nat.two_pow_pos _) 4 2 [(2, r.toBits)] ⟨b3, trivial⟩ rfl rfl
  have e5 := bits_pack 6 0 [(5, b.val), (5, a.val), (5, d.val), (6, 26)] (Nat.two_pow_pos _) 10 5 [(2, r.toBits), (3, 0)] ⟨b3, (Nat.two_pow_pos _), trivial⟩ rfl rfl
  have e11 := bits_pack 5 b.val [(5, a.val), (5, d.val), (6, 26)] b2 15 11 [(2, r.toBits), (3, 0), (6, 0)] ⟨b3, (Nat.two_pow_pos _), (Nat.two_pow_pos _), trivial⟩ rfl rfl
  have e16 := bits_pack 5 a.val [(5, d.val), (6, 26)] b1 20 16 [(2, r.toBits), (3, 0), (6, 0), (5, b.val)] ⟨b3, (Nat.two_pow_pos _), (Nat.two_pow_pos _), b2, trivial⟩ rfl rfl
  have e21 := bits_pack 5 d.val [(6, 26)] b0 25 21 [(2, r.toBits), (3, 0), (6, 0), (5, b.val), (5, a.val)] ⟨b3, (Nat.two_pow_pos _), (Nat.two_pow_pos _), b2, b1, trivial⟩ rfl rfl
  have e26 := bits_pack 6 26 [] (by decide) 31 26 [(2, r.toBits), (3, 0), (6, 0), (5, b.val), (5, a.val), (5, d.val)] ⟨b3, (Nat.two_pow_pos _), (Nat.two_pow_pos _), b2, b1, b0, trivial⟩ rfl rfl
  simp only [List.nil_append, List.cons_append] at e0 e2 e5 e11 e16 e21 e26
  have hl : pack [(2, r.toBits), (3, 0), (6, 0), (5, b.val), (5, a.val), (5, d.val), (6, 26)] < 2 ^ 32 := pack_lt [(2, r.toBits), (3, 0), (6, 0), (5, b.val), (5, a.val), (5, d.val), (6, 26)] ⟨b3, (Nat.two_pow_pos _), (Nat.two_pow_pos _), b2, b1, b0, (by decide), trivial⟩ rfl
  generalize pack [(2, r.toBits), (3, 0), (6, 0), (5, b.val), (5, a.val), (5, d.val), (6, 26)] = wd at *
  refine decode_of wd hn.symm ?_ hw hl
  · rw [major_26 e26]; simp only [decodeVFloat, e5, e0, e2, e11, e16, e21, reduceIte, ofNat_val, Round.ofBits_toBits]

theorem Sys2Proof.Laws.Roundtrip.vsub (d : Reg) (a : Reg) (b : Reg) (r : Round) : Statement (.vsub d a b r) := by
  intro _ hw
  have hn : ∀ x0 x1 x2 x3 : Nat, pack [(2, x3), (3, 0), (6, 1), (5, x2), (5, x1), (5, x0), (6, 26)] = fields 0x68000020 [(x0, 21), (x1, 16), (x2, 11), (x3, 0)] := by
    intros; simp only [pack_eq, packAt_cons, packAt_nil, Nat.reduceAdd, fields_cons, fields_nil]; omega
  replace hn := hn d.val a.val b.val r.toBits
  have b0 := d.isLt
  have b1 := a.isLt
  have b2 := b.isLt
  have b3 := Round.toBits_lt r
  have e0 := bits_pack 2 r.toBits [(3, 0), (6, 1), (5, b.val), (5, a.val), (5, d.val), (6, 26)] b3 1 0 [] trivial rfl rfl
  have e2 := bits_pack 3 0 [(6, 1), (5, b.val), (5, a.val), (5, d.val), (6, 26)] (Nat.two_pow_pos _) 4 2 [(2, r.toBits)] ⟨b3, trivial⟩ rfl rfl
  have e5 := bits_pack 6 1 [(5, b.val), (5, a.val), (5, d.val), (6, 26)] (by decide) 10 5 [(2, r.toBits), (3, 0)] ⟨b3, (Nat.two_pow_pos _), trivial⟩ rfl rfl
  have e11 := bits_pack 5 b.val [(5, a.val), (5, d.val), (6, 26)] b2 15 11 [(2, r.toBits), (3, 0), (6, 1)] ⟨b3, (Nat.two_pow_pos _), (by decide), trivial⟩ rfl rfl
  have e16 := bits_pack 5 a.val [(5, d.val), (6, 26)] b1 20 16 [(2, r.toBits), (3, 0), (6, 1), (5, b.val)] ⟨b3, (Nat.two_pow_pos _), (by decide), b2, trivial⟩ rfl rfl
  have e21 := bits_pack 5 d.val [(6, 26)] b0 25 21 [(2, r.toBits), (3, 0), (6, 1), (5, b.val), (5, a.val)] ⟨b3, (Nat.two_pow_pos _), (by decide), b2, b1, trivial⟩ rfl rfl
  have e26 := bits_pack 6 26 [] (by decide) 31 26 [(2, r.toBits), (3, 0), (6, 1), (5, b.val), (5, a.val), (5, d.val)] ⟨b3, (Nat.two_pow_pos _), (by decide), b2, b1, b0, trivial⟩ rfl rfl
  simp only [List.nil_append, List.cons_append] at e0 e2 e5 e11 e16 e21 e26
  have hl : pack [(2, r.toBits), (3, 0), (6, 1), (5, b.val), (5, a.val), (5, d.val), (6, 26)] < 2 ^ 32 := pack_lt [(2, r.toBits), (3, 0), (6, 1), (5, b.val), (5, a.val), (5, d.val), (6, 26)] ⟨b3, (Nat.two_pow_pos _), (by decide), b2, b1, b0, (by decide), trivial⟩ rfl
  generalize pack [(2, r.toBits), (3, 0), (6, 1), (5, b.val), (5, a.val), (5, d.val), (6, 26)] = wd at *
  refine decode_of wd hn.symm ?_ hw hl
  · rw [major_26 e26]; simp only [decodeVFloat, e5, e0, e2, e11, e16, e21, reduceIte, ofNat_val, Round.ofBits_toBits]

theorem Sys2Proof.Laws.Roundtrip.vmul (d : Reg) (a : Reg) (b : Reg) (r : Round) : Statement (.vmul d a b r) := by
  intro _ hw
  have hn : ∀ x0 x1 x2 x3 : Nat, pack [(2, x3), (3, 0), (6, 2), (5, x2), (5, x1), (5, x0), (6, 26)] = fields 0x68000040 [(x0, 21), (x1, 16), (x2, 11), (x3, 0)] := by
    intros; simp only [pack_eq, packAt_cons, packAt_nil, Nat.reduceAdd, fields_cons, fields_nil]; omega
  replace hn := hn d.val a.val b.val r.toBits
  have b0 := d.isLt
  have b1 := a.isLt
  have b2 := b.isLt
  have b3 := Round.toBits_lt r
  have e0 := bits_pack 2 r.toBits [(3, 0), (6, 2), (5, b.val), (5, a.val), (5, d.val), (6, 26)] b3 1 0 [] trivial rfl rfl
  have e2 := bits_pack 3 0 [(6, 2), (5, b.val), (5, a.val), (5, d.val), (6, 26)] (Nat.two_pow_pos _) 4 2 [(2, r.toBits)] ⟨b3, trivial⟩ rfl rfl
  have e5 := bits_pack 6 2 [(5, b.val), (5, a.val), (5, d.val), (6, 26)] (by decide) 10 5 [(2, r.toBits), (3, 0)] ⟨b3, (Nat.two_pow_pos _), trivial⟩ rfl rfl
  have e11 := bits_pack 5 b.val [(5, a.val), (5, d.val), (6, 26)] b2 15 11 [(2, r.toBits), (3, 0), (6, 2)] ⟨b3, (Nat.two_pow_pos _), (by decide), trivial⟩ rfl rfl
  have e16 := bits_pack 5 a.val [(5, d.val), (6, 26)] b1 20 16 [(2, r.toBits), (3, 0), (6, 2), (5, b.val)] ⟨b3, (Nat.two_pow_pos _), (by decide), b2, trivial⟩ rfl rfl
  have e21 := bits_pack 5 d.val [(6, 26)] b0 25 21 [(2, r.toBits), (3, 0), (6, 2), (5, b.val), (5, a.val)] ⟨b3, (Nat.two_pow_pos _), (by decide), b2, b1, trivial⟩ rfl rfl
  have e26 := bits_pack 6 26 [] (by decide) 31 26 [(2, r.toBits), (3, 0), (6, 2), (5, b.val), (5, a.val), (5, d.val)] ⟨b3, (Nat.two_pow_pos _), (by decide), b2, b1, b0, trivial⟩ rfl rfl
  simp only [List.nil_append, List.cons_append] at e0 e2 e5 e11 e16 e21 e26
  have hl : pack [(2, r.toBits), (3, 0), (6, 2), (5, b.val), (5, a.val), (5, d.val), (6, 26)] < 2 ^ 32 := pack_lt [(2, r.toBits), (3, 0), (6, 2), (5, b.val), (5, a.val), (5, d.val), (6, 26)] ⟨b3, (Nat.two_pow_pos _), (by decide), b2, b1, b0, (by decide), trivial⟩ rfl
  generalize pack [(2, r.toBits), (3, 0), (6, 2), (5, b.val), (5, a.val), (5, d.val), (6, 26)] = wd at *
  refine decode_of wd hn.symm ?_ hw hl
  · rw [major_26 e26]; simp only [decodeVFloat, e5, e0, e2, e11, e16, e21, reduceIte, ofNat_val, Round.ofBits_toBits]

theorem Sys2Proof.Laws.Roundtrip.vfma (d : Reg) (a : Reg) (b : Reg) (r : Round) : Statement (.vfma d a b r) := by
  intro _ hw
  have hn : ∀ x0 x1 x2 x3 : Nat, pack [(2, x3), (3, 0), (6, 3), (5, x2), (5, x1), (5, x0), (6, 26)] = fields 0x68000060 [(x0, 21), (x1, 16), (x2, 11), (x3, 0)] := by
    intros; simp only [pack_eq, packAt_cons, packAt_nil, Nat.reduceAdd, fields_cons, fields_nil]; omega
  replace hn := hn d.val a.val b.val r.toBits
  have b0 := d.isLt
  have b1 := a.isLt
  have b2 := b.isLt
  have b3 := Round.toBits_lt r
  have e0 := bits_pack 2 r.toBits [(3, 0), (6, 3), (5, b.val), (5, a.val), (5, d.val), (6, 26)] b3 1 0 [] trivial rfl rfl
  have e2 := bits_pack 3 0 [(6, 3), (5, b.val), (5, a.val), (5, d.val), (6, 26)] (Nat.two_pow_pos _) 4 2 [(2, r.toBits)] ⟨b3, trivial⟩ rfl rfl
  have e5 := bits_pack 6 3 [(5, b.val), (5, a.val), (5, d.val), (6, 26)] (by decide) 10 5 [(2, r.toBits), (3, 0)] ⟨b3, (Nat.two_pow_pos _), trivial⟩ rfl rfl
  have e11 := bits_pack 5 b.val [(5, a.val), (5, d.val), (6, 26)] b2 15 11 [(2, r.toBits), (3, 0), (6, 3)] ⟨b3, (Nat.two_pow_pos _), (by decide), trivial⟩ rfl rfl
  have e16 := bits_pack 5 a.val [(5, d.val), (6, 26)] b1 20 16 [(2, r.toBits), (3, 0), (6, 3), (5, b.val)] ⟨b3, (Nat.two_pow_pos _), (by decide), b2, trivial⟩ rfl rfl
  have e21 := bits_pack 5 d.val [(6, 26)] b0 25 21 [(2, r.toBits), (3, 0), (6, 3), (5, b.val), (5, a.val)] ⟨b3, (Nat.two_pow_pos _), (by decide), b2, b1, trivial⟩ rfl rfl
  have e26 := bits_pack 6 26 [] (by decide) 31 26 [(2, r.toBits), (3, 0), (6, 3), (5, b.val), (5, a.val), (5, d.val)] ⟨b3, (Nat.two_pow_pos _), (by decide), b2, b1, b0, trivial⟩ rfl rfl
  simp only [List.nil_append, List.cons_append] at e0 e2 e5 e11 e16 e21 e26
  have hl : pack [(2, r.toBits), (3, 0), (6, 3), (5, b.val), (5, a.val), (5, d.val), (6, 26)] < 2 ^ 32 := pack_lt [(2, r.toBits), (3, 0), (6, 3), (5, b.val), (5, a.val), (5, d.val), (6, 26)] ⟨b3, (Nat.two_pow_pos _), (by decide), b2, b1, b0, (by decide), trivial⟩ rfl
  generalize pack [(2, r.toBits), (3, 0), (6, 3), (5, b.val), (5, a.val), (5, d.val), (6, 26)] = wd at *
  refine decode_of wd hn.symm ?_ hw hl
  · rw [major_26 e26]; simp only [decodeVFloat, e5, e0, e2, e11, e16, e21, reduceIte, ofNat_val, Round.ofBits_toBits]

theorem Sys2Proof.Laws.Roundtrip.vfms (d : Reg) (a : Reg) (b : Reg) (r : Round) : Statement (.vfms d a b r) := by
  intro _ hw
  have hn : ∀ x0 x1 x2 x3 : Nat, pack [(2, x3), (3, 0), (6, 4), (5, x2), (5, x1), (5, x0), (6, 26)] = fields 0x68000080 [(x0, 21), (x1, 16), (x2, 11), (x3, 0)] := by
    intros; simp only [pack_eq, packAt_cons, packAt_nil, Nat.reduceAdd, fields_cons, fields_nil]; omega
  replace hn := hn d.val a.val b.val r.toBits
  have b0 := d.isLt
  have b1 := a.isLt
  have b2 := b.isLt
  have b3 := Round.toBits_lt r
  have e0 := bits_pack 2 r.toBits [(3, 0), (6, 4), (5, b.val), (5, a.val), (5, d.val), (6, 26)] b3 1 0 [] trivial rfl rfl
  have e2 := bits_pack 3 0 [(6, 4), (5, b.val), (5, a.val), (5, d.val), (6, 26)] (Nat.two_pow_pos _) 4 2 [(2, r.toBits)] ⟨b3, trivial⟩ rfl rfl
  have e5 := bits_pack 6 4 [(5, b.val), (5, a.val), (5, d.val), (6, 26)] (by decide) 10 5 [(2, r.toBits), (3, 0)] ⟨b3, (Nat.two_pow_pos _), trivial⟩ rfl rfl
  have e11 := bits_pack 5 b.val [(5, a.val), (5, d.val), (6, 26)] b2 15 11 [(2, r.toBits), (3, 0), (6, 4)] ⟨b3, (Nat.two_pow_pos _), (by decide), trivial⟩ rfl rfl
  have e16 := bits_pack 5 a.val [(5, d.val), (6, 26)] b1 20 16 [(2, r.toBits), (3, 0), (6, 4), (5, b.val)] ⟨b3, (Nat.two_pow_pos _), (by decide), b2, trivial⟩ rfl rfl
  have e21 := bits_pack 5 d.val [(6, 26)] b0 25 21 [(2, r.toBits), (3, 0), (6, 4), (5, b.val), (5, a.val)] ⟨b3, (Nat.two_pow_pos _), (by decide), b2, b1, trivial⟩ rfl rfl
  have e26 := bits_pack 6 26 [] (by decide) 31 26 [(2, r.toBits), (3, 0), (6, 4), (5, b.val), (5, a.val), (5, d.val)] ⟨b3, (Nat.two_pow_pos _), (by decide), b2, b1, b0, trivial⟩ rfl rfl
  simp only [List.nil_append, List.cons_append] at e0 e2 e5 e11 e16 e21 e26
  have hl : pack [(2, r.toBits), (3, 0), (6, 4), (5, b.val), (5, a.val), (5, d.val), (6, 26)] < 2 ^ 32 := pack_lt [(2, r.toBits), (3, 0), (6, 4), (5, b.val), (5, a.val), (5, d.val), (6, 26)] ⟨b3, (Nat.two_pow_pos _), (by decide), b2, b1, b0, (by decide), trivial⟩ rfl
  generalize pack [(2, r.toBits), (3, 0), (6, 4), (5, b.val), (5, a.val), (5, d.val), (6, 26)] = wd at *
  refine decode_of wd hn.symm ?_ hw hl
  · rw [major_26 e26]; simp only [decodeVFloat, e5, e0, e2, e11, e16, e21, reduceIte, ofNat_val, Round.ofBits_toBits]

theorem Sys2Proof.Laws.Roundtrip.vmin (d : Reg) (a : Reg) (b : Reg) : Statement (.vmin d a b) := by
  intro _ hw
  have hn : ∀ x0 x1 x2 : Nat, pack [(5, 0), (6, 5), (5, x2), (5, x1), (5, x0), (6, 26)] = fields 0x680000A0 [(x0, 21), (x1, 16), (x2, 11)] := by
    intros; simp only [pack_eq, packAt_cons, packAt_nil, Nat.reduceAdd, fields_cons, fields_nil]; omega
  replace hn := hn d.val a.val b.val
  have b0 := d.isLt
  have b1 := a.isLt
  have b2 := b.isLt
  have e0 := bits_pack 5 0 [(6, 5), (5, b.val), (5, a.val), (5, d.val), (6, 26)] (Nat.two_pow_pos _) 4 0 [] trivial rfl rfl
  have e5 := bits_pack 6 5 [(5, b.val), (5, a.val), (5, d.val), (6, 26)] (by decide) 10 5 [(5, 0)] ⟨(Nat.two_pow_pos _), trivial⟩ rfl rfl
  have e11 := bits_pack 5 b.val [(5, a.val), (5, d.val), (6, 26)] b2 15 11 [(5, 0), (6, 5)] ⟨(Nat.two_pow_pos _), (by decide), trivial⟩ rfl rfl
  have e16 := bits_pack 5 a.val [(5, d.val), (6, 26)] b1 20 16 [(5, 0), (6, 5), (5, b.val)] ⟨(Nat.two_pow_pos _), (by decide), b2, trivial⟩ rfl rfl
  have e21 := bits_pack 5 d.val [(6, 26)] b0 25 21 [(5, 0), (6, 5), (5, b.val), (5, a.val)] ⟨(Nat.two_pow_pos _), (by decide), b2, b1, trivial⟩ rfl rfl
  have e26 := bits_pack 6 26 [] (by decide) 31 26 [(5, 0), (6, 5), (5, b.val), (5, a.val), (5, d.val)] ⟨(Nat.two_pow_pos _), (by decide), b2, b1, b0, trivial⟩ rfl rfl
  simp only [List.nil_append, List.cons_append] at e0 e5 e11 e16 e21 e26
  have hl : pack [(5, 0), (6, 5), (5, b.val), (5, a.val), (5, d.val), (6, 26)] < 2 ^ 32 := pack_lt [(5, 0), (6, 5), (5, b.val), (5, a.val), (5, d.val), (6, 26)] ⟨(Nat.two_pow_pos _), (by decide), b2, b1, b0, (by decide), trivial⟩ rfl
  generalize pack [(5, 0), (6, 5), (5, b.val), (5, a.val), (5, d.val), (6, 26)] = wd at *
  refine decode_of wd hn.symm ?_ hw hl
  · rw [major_26 e26]; simp only [decodeVFloat, e5, e0, e11, e16, e21, reduceIte, ofNat_val]

theorem Sys2Proof.Laws.Roundtrip.vmax (d : Reg) (a : Reg) (b : Reg) : Statement (.vmax d a b) := by
  intro _ hw
  have hn : ∀ x0 x1 x2 : Nat, pack [(5, 0), (6, 6), (5, x2), (5, x1), (5, x0), (6, 26)] = fields 0x680000C0 [(x0, 21), (x1, 16), (x2, 11)] := by
    intros; simp only [pack_eq, packAt_cons, packAt_nil, Nat.reduceAdd, fields_cons, fields_nil]; omega
  replace hn := hn d.val a.val b.val
  have b0 := d.isLt
  have b1 := a.isLt
  have b2 := b.isLt
  have e0 := bits_pack 5 0 [(6, 6), (5, b.val), (5, a.val), (5, d.val), (6, 26)] (Nat.two_pow_pos _) 4 0 [] trivial rfl rfl
  have e5 := bits_pack 6 6 [(5, b.val), (5, a.val), (5, d.val), (6, 26)] (by decide) 10 5 [(5, 0)] ⟨(Nat.two_pow_pos _), trivial⟩ rfl rfl
  have e11 := bits_pack 5 b.val [(5, a.val), (5, d.val), (6, 26)] b2 15 11 [(5, 0), (6, 6)] ⟨(Nat.two_pow_pos _), (by decide), trivial⟩ rfl rfl
  have e16 := bits_pack 5 a.val [(5, d.val), (6, 26)] b1 20 16 [(5, 0), (6, 6), (5, b.val)] ⟨(Nat.two_pow_pos _), (by decide), b2, trivial⟩ rfl rfl
  have e21 := bits_pack 5 d.val [(6, 26)] b0 25 21 [(5, 0), (6, 6), (5, b.val), (5, a.val)] ⟨(Nat.two_pow_pos _), (by decide), b2, b1, trivial⟩ rfl rfl
  have e26 := bits_pack 6 26 [] (by decide) 31 26 [(5, 0), (6, 6), (5, b.val), (5, a.val), (5, d.val)] ⟨(Nat.two_pow_pos _), (by decide), b2, b1, b0, trivial⟩ rfl rfl
  simp only [List.nil_append, List.cons_append] at e0 e5 e11 e16 e21 e26
  have hl : pack [(5, 0), (6, 6), (5, b.val), (5, a.val), (5, d.val), (6, 26)] < 2 ^ 32 := pack_lt [(5, 0), (6, 6), (5, b.val), (5, a.val), (5, d.val), (6, 26)] ⟨(Nat.two_pow_pos _), (by decide), b2, b1, b0, (by decide), trivial⟩ rfl
  generalize pack [(5, 0), (6, 6), (5, b.val), (5, a.val), (5, d.val), (6, 26)] = wd at *
  refine decode_of wd hn.symm ?_ hw hl
  · rw [major_26 e26]; simp only [decodeVFloat, e5, e0, e11, e16, e21, reduceIte, ofNat_val]

theorem Sys2Proof.Laws.Roundtrip.vabs (d : Reg) (a : Reg) : Statement (.vabs d a) := by
  intro _ hw
  have hn : ∀ x0 x1 : Nat, pack [(5, 0), (6, 7), (5, 0), (5, x1), (5, x0), (6, 26)] = fields 0x680000E0 [(x0, 21), (x1, 16)] := by
    intros; simp only [pack_eq, packAt_cons, packAt_nil, Nat.reduceAdd, fields_cons, fields_nil]; omega
  replace hn := hn d.val a.val
  have b0 := d.isLt
  have b1 := a.isLt
  have e0 := bits_pack 5 0 [(6, 7), (5, 0), (5, a.val), (5, d.val), (6, 26)] (Nat.two_pow_pos _) 4 0 [] trivial rfl rfl
  have e5 := bits_pack 6 7 [(5, 0), (5, a.val), (5, d.val), (6, 26)] (by decide) 10 5 [(5, 0)] ⟨(Nat.two_pow_pos _), trivial⟩ rfl rfl
  have e11 := bits_pack 5 0 [(5, a.val), (5, d.val), (6, 26)] (Nat.two_pow_pos _) 15 11 [(5, 0), (6, 7)] ⟨(Nat.two_pow_pos _), (by decide), trivial⟩ rfl rfl
  have e16 := bits_pack 5 a.val [(5, d.val), (6, 26)] b1 20 16 [(5, 0), (6, 7), (5, 0)] ⟨(Nat.two_pow_pos _), (by decide), (Nat.two_pow_pos _), trivial⟩ rfl rfl
  have e21 := bits_pack 5 d.val [(6, 26)] b0 25 21 [(5, 0), (6, 7), (5, 0), (5, a.val)] ⟨(Nat.two_pow_pos _), (by decide), (Nat.two_pow_pos _), b1, trivial⟩ rfl rfl
  have e26 := bits_pack 6 26 [] (by decide) 31 26 [(5, 0), (6, 7), (5, 0), (5, a.val), (5, d.val)] ⟨(Nat.two_pow_pos _), (by decide), (Nat.two_pow_pos _), b1, b0, trivial⟩ rfl rfl
  simp only [List.nil_append, List.cons_append] at e0 e5 e11 e16 e21 e26
  have hl : pack [(5, 0), (6, 7), (5, 0), (5, a.val), (5, d.val), (6, 26)] < 2 ^ 32 := pack_lt [(5, 0), (6, 7), (5, 0), (5, a.val), (5, d.val), (6, 26)] ⟨(Nat.two_pow_pos _), (by decide), (Nat.two_pow_pos _), b1, b0, (by decide), trivial⟩ rfl
  generalize pack [(5, 0), (6, 7), (5, 0), (5, a.val), (5, d.val), (6, 26)] = wd at *
  refine decode_of wd hn.symm ?_ hw hl
  · rw [major_26 e26]; simp only [decodeVFloat, e5, e0, e11, e16, e21, reduceIte, ofNat_val]

theorem Sys2Proof.Laws.Roundtrip.vneg (d : Reg) (a : Reg) : Statement (.vneg d a) := by
  intro _ hw
  have hn : ∀ x0 x1 : Nat, pack [(5, 0), (6, 8), (5, 0), (5, x1), (5, x0), (6, 26)] = fields 0x68000100 [(x0, 21), (x1, 16)] := by
    intros; simp only [pack_eq, packAt_cons, packAt_nil, Nat.reduceAdd, fields_cons, fields_nil]; omega
  replace hn := hn d.val a.val
  have b0 := d.isLt
  have b1 := a.isLt
  have e0 := bits_pack 5 0 [(6, 8), (5, 0), (5, a.val), (5, d.val), (6, 26)] (Nat.two_pow_pos _) 4 0 [] trivial rfl rfl
  have e5 := bits_pack 6 8 [(5, 0), (5, a.val), (5, d.val), (6, 26)] (by decide) 10 5 [(5, 0)] ⟨(Nat.two_pow_pos _), trivial⟩ rfl rfl
  have e11 := bits_pack 5 0 [(5, a.val), (5, d.val), (6, 26)] (Nat.two_pow_pos _) 15 11 [(5, 0), (6, 8)] ⟨(Nat.two_pow_pos _), (by decide), trivial⟩ rfl rfl
  have e16 := bits_pack 5 a.val [(5, d.val), (6, 26)] b1 20 16 [(5, 0), (6, 8), (5, 0)] ⟨(Nat.two_pow_pos _), (by decide), (Nat.two_pow_pos _), trivial⟩ rfl rfl
  have e21 := bits_pack 5 d.val [(6, 26)] b0 25 21 [(5, 0), (6, 8), (5, 0), (5, a.val)] ⟨(Nat.two_pow_pos _), (by decide), (Nat.two_pow_pos _), b1, trivial⟩ rfl rfl
  have e26 := bits_pack 6 26 [] (by decide) 31 26 [(5, 0), (6, 8), (5, 0), (5, a.val), (5, d.val)] ⟨(Nat.two_pow_pos _), (by decide), (Nat.two_pow_pos _), b1, b0, trivial⟩ rfl rfl
  simp only [List.nil_append, List.cons_append] at e0 e5 e11 e16 e21 e26
  have hl : pack [(5, 0), (6, 8), (5, 0), (5, a.val), (5, d.val), (6, 26)] < 2 ^ 32 := pack_lt [(5, 0), (6, 8), (5, 0), (5, a.val), (5, d.val), (6, 26)] ⟨(Nat.two_pow_pos _), (by decide), (Nat.two_pow_pos _), b1, b0, (by decide), trivial⟩ rfl
  generalize pack [(5, 0), (6, 8), (5, 0), (5, a.val), (5, d.val), (6, 26)] = wd at *
  refine decode_of wd hn.symm ?_ hw hl
  · rw [major_26 e26]; simp only [decodeVFloat, e5, e0, e11, e16, e21, reduceIte, ofNat_val]

theorem Sys2Proof.Laws.Roundtrip.vdiv (d : Reg) (a : Reg) (b : Reg) (r : Round) : Statement (.vdiv d a b r) := by
  intro _ hw
  have hn : ∀ x0 x1 x2 x3 : Nat, pack [(2, x3), (3, 0), (6, 9), (5, x2), (5, x1), (5, x0), (6, 26)] = fields 0x68000120 [(x0, 21), (x1, 16), (x2, 11), (x3, 0)] := by
    intros; simp only [pack_eq, packAt_cons, packAt_nil, Nat.reduceAdd, fields_cons, fields_nil]; omega
  replace hn := hn d.val a.val b.val r.toBits
  have b0 := d.isLt
  have b1 := a.isLt
  have b2 := b.isLt
  have b3 := Round.toBits_lt r
  have e0 := bits_pack 2 r.toBits [(3, 0), (6, 9), (5, b.val), (5, a.val), (5, d.val), (6, 26)] b3 1 0 [] trivial rfl rfl
  have e2 := bits_pack 3 0 [(6, 9), (5, b.val), (5, a.val), (5, d.val), (6, 26)] (Nat.two_pow_pos _) 4 2 [(2, r.toBits)] ⟨b3, trivial⟩ rfl rfl
  have e5 := bits_pack 6 9 [(5, b.val), (5, a.val), (5, d.val), (6, 26)] (by decide) 10 5 [(2, r.toBits), (3, 0)] ⟨b3, (Nat.two_pow_pos _), trivial⟩ rfl rfl
  have e11 := bits_pack 5 b.val [(5, a.val), (5, d.val), (6, 26)] b2 15 11 [(2, r.toBits), (3, 0), (6, 9)] ⟨b3, (Nat.two_pow_pos _), (by decide), trivial⟩ rfl rfl
  have e16 := bits_pack 5 a.val [(5, d.val), (6, 26)] b1 20 16 [(2, r.toBits), (3, 0), (6, 9), (5, b.val)] ⟨b3, (Nat.two_pow_pos _), (by decide), b2, trivial⟩ rfl rfl
  have e21 := bits_pack 5 d.val [(6, 26)] b0 25 21 [(2, r.toBits), (3, 0), (6, 9), (5, b.val), (5, a.val)] ⟨b3, (Nat.two_pow_pos _), (by decide), b2, b1, trivial⟩ rfl rfl
  have e26 := bits_pack 6 26 [] (by decide) 31 26 [(2, r.toBits), (3, 0), (6, 9), (5, b.val), (5, a.val), (5, d.val)] ⟨b3, (Nat.two_pow_pos _), (by decide), b2, b1, b0, trivial⟩ rfl rfl
  simp only [List.nil_append, List.cons_append] at e0 e2 e5 e11 e16 e21 e26
  have hl : pack [(2, r.toBits), (3, 0), (6, 9), (5, b.val), (5, a.val), (5, d.val), (6, 26)] < 2 ^ 32 := pack_lt [(2, r.toBits), (3, 0), (6, 9), (5, b.val), (5, a.val), (5, d.val), (6, 26)] ⟨b3, (Nat.two_pow_pos _), (by decide), b2, b1, b0, (by decide), trivial⟩ rfl
  generalize pack [(2, r.toBits), (3, 0), (6, 9), (5, b.val), (5, a.val), (5, d.val), (6, 26)] = wd at *
  refine decode_of wd hn.symm ?_ hw hl
  · rw [major_26 e26]; simp only [decodeVFloat, e5, e0, e2, e11, e16, e21, reduceIte, ofNat_val, Round.ofBits_toBits]

theorem Sys2Proof.Laws.Roundtrip.vsqrt (d : Reg) (a : Reg) (r : Round) : Statement (.vsqrt d a r) := by
  intro _ hw
  have hn : ∀ x0 x1 x2 : Nat, pack [(2, x2), (3, 0), (6, 10), (5, 0), (5, x1), (5, x0), (6, 26)] = fields 0x68000140 [(x0, 21), (x1, 16), (x2, 0)] := by
    intros; simp only [pack_eq, packAt_cons, packAt_nil, Nat.reduceAdd, fields_cons, fields_nil]; omega
  replace hn := hn d.val a.val r.toBits
  have b0 := d.isLt
  have b1 := a.isLt
  have b2 := Round.toBits_lt r
  have e0 := bits_pack 2 r.toBits [(3, 0), (6, 10), (5, 0), (5, a.val), (5, d.val), (6, 26)] b2 1 0 [] trivial rfl rfl
  have e2 := bits_pack 3 0 [(6, 10), (5, 0), (5, a.val), (5, d.val), (6, 26)] (Nat.two_pow_pos _) 4 2 [(2, r.toBits)] ⟨b2, trivial⟩ rfl rfl
  have e5 := bits_pack 6 10 [(5, 0), (5, a.val), (5, d.val), (6, 26)] (by decide) 10 5 [(2, r.toBits), (3, 0)] ⟨b2, (Nat.two_pow_pos _), trivial⟩ rfl rfl
  have e11 := bits_pack 5 0 [(5, a.val), (5, d.val), (6, 26)] (Nat.two_pow_pos _) 15 11 [(2, r.toBits), (3, 0), (6, 10)] ⟨b2, (Nat.two_pow_pos _), (by decide), trivial⟩ rfl rfl
  have e16 := bits_pack 5 a.val [(5, d.val), (6, 26)] b1 20 16 [(2, r.toBits), (3, 0), (6, 10), (5, 0)] ⟨b2, (Nat.two_pow_pos _), (by decide), (Nat.two_pow_pos _), trivial⟩ rfl rfl
  have e21 := bits_pack 5 d.val [(6, 26)] b0 25 21 [(2, r.toBits), (3, 0), (6, 10), (5, 0), (5, a.val)] ⟨b2, (Nat.two_pow_pos _), (by decide), (Nat.two_pow_pos _), b1, trivial⟩ rfl rfl
  have e26 := bits_pack 6 26 [] (by decide) 31 26 [(2, r.toBits), (3, 0), (6, 10), (5, 0), (5, a.val), (5, d.val)] ⟨b2, (Nat.two_pow_pos _), (by decide), (Nat.two_pow_pos _), b1, b0, trivial⟩ rfl rfl
  simp only [List.nil_append, List.cons_append] at e0 e2 e5 e11 e16 e21 e26
  have hl : pack [(2, r.toBits), (3, 0), (6, 10), (5, 0), (5, a.val), (5, d.val), (6, 26)] < 2 ^ 32 := pack_lt [(2, r.toBits), (3, 0), (6, 10), (5, 0), (5, a.val), (5, d.val), (6, 26)] ⟨b2, (Nat.two_pow_pos _), (by decide), (Nat.two_pow_pos _), b1, b0, (by decide), trivial⟩ rfl
  generalize pack [(2, r.toBits), (3, 0), (6, 10), (5, 0), (5, a.val), (5, d.val), (6, 26)] = wd at *
  refine decode_of wd hn.symm ?_ hw hl
  · rw [major_26 e26]; simp only [decodeVFloat, e5, e0, e2, e11, e16, e21, reduceIte, ofNat_val, Round.ofBits_toBits]

theorem Sys2Proof.Laws.Roundtrip.vrcp (d : Reg) (a : Reg) (r : Round) : Statement (.vrcp d a r) := by
  intro _ hw
  have hn : ∀ x0 x1 x2 : Nat, pack [(2, x2), (3, 0), (6, 11), (5, 0), (5, x1), (5, x0), (6, 26)] = fields 0x68000160 [(x0, 21), (x1, 16), (x2, 0)] := by
    intros; simp only [pack_eq, packAt_cons, packAt_nil, Nat.reduceAdd, fields_cons, fields_nil]; omega
  replace hn := hn d.val a.val r.toBits
  have b0 := d.isLt
  have b1 := a.isLt
  have b2 := Round.toBits_lt r
  have e0 := bits_pack 2 r.toBits [(3, 0), (6, 11), (5, 0), (5, a.val), (5, d.val), (6, 26)] b2 1 0 [] trivial rfl rfl
  have e2 := bits_pack 3 0 [(6, 11), (5, 0), (5, a.val), (5, d.val), (6, 26)] (Nat.two_pow_pos _) 4 2 [(2, r.toBits)] ⟨b2, trivial⟩ rfl rfl
  have e5 := bits_pack 6 11 [(5, 0), (5, a.val), (5, d.val), (6, 26)] (by decide) 10 5 [(2, r.toBits), (3, 0)] ⟨b2, (Nat.two_pow_pos _), trivial⟩ rfl rfl
  have e11 := bits_pack 5 0 [(5, a.val), (5, d.val), (6, 26)] (Nat.two_pow_pos _) 15 11 [(2, r.toBits), (3, 0), (6, 11)] ⟨b2, (Nat.two_pow_pos _), (by decide), trivial⟩ rfl rfl
  have e16 := bits_pack 5 a.val [(5, d.val), (6, 26)] b1 20 16 [(2, r.toBits), (3, 0), (6, 11), (5, 0)] ⟨b2, (Nat.two_pow_pos _), (by decide), (Nat.two_pow_pos _), trivial⟩ rfl rfl
  have e21 := bits_pack 5 d.val [(6, 26)] b0 25 21 [(2, r.toBits), (3, 0), (6, 11), (5, 0), (5, a.val)] ⟨b2, (Nat.two_pow_pos _), (by decide), (Nat.two_pow_pos _), b1, trivial⟩ rfl rfl
  have e26 := bits_pack 6 26 [] (by decide) 31 26 [(2, r.toBits), (3, 0), (6, 11), (5, 0), (5, a.val), (5, d.val)] ⟨b2, (Nat.two_pow_pos _), (by decide), (Nat.two_pow_pos _), b1, b0, trivial⟩ rfl rfl
  simp only [List.nil_append, List.cons_append] at e0 e2 e5 e11 e16 e21 e26
  have hl : pack [(2, r.toBits), (3, 0), (6, 11), (5, 0), (5, a.val), (5, d.val), (6, 26)] < 2 ^ 32 := pack_lt [(2, r.toBits), (3, 0), (6, 11), (5, 0), (5, a.val), (5, d.val), (6, 26)] ⟨b2, (Nat.two_pow_pos _), (by decide), (Nat.two_pow_pos _), b1, b0, (by decide), trivial⟩ rfl
  generalize pack [(2, r.toBits), (3, 0), (6, 11), (5, 0), (5, a.val), (5, d.val), (6, 26)] = wd at *
  refine decode_of wd hn.symm ?_ hw hl
  · rw [major_26 e26]; simp only [decodeVFloat, e5, e0, e2, e11, e16, e21, reduceIte, ofNat_val, Round.ofBits_toBits]

theorem Sys2Proof.Laws.Roundtrip.vrsq (d : Reg) (a : Reg) (r : Round) : Statement (.vrsq d a r) := by
  intro _ hw
  have hn : ∀ x0 x1 x2 : Nat, pack [(2, x2), (3, 0), (6, 12), (5, 0), (5, x1), (5, x0), (6, 26)] = fields 0x68000180 [(x0, 21), (x1, 16), (x2, 0)] := by
    intros; simp only [pack_eq, packAt_cons, packAt_nil, Nat.reduceAdd, fields_cons, fields_nil]; omega
  replace hn := hn d.val a.val r.toBits
  have b0 := d.isLt
  have b1 := a.isLt
  have b2 := Round.toBits_lt r
  have e0 := bits_pack 2 r.toBits [(3, 0), (6, 12), (5, 0), (5, a.val), (5, d.val), (6, 26)] b2 1 0 [] trivial rfl rfl
  have e2 := bits_pack 3 0 [(6, 12), (5, 0), (5, a.val), (5, d.val), (6, 26)] (Nat.two_pow_pos _) 4 2 [(2, r.toBits)] ⟨b2, trivial⟩ rfl rfl
  have e5 := bits_pack 6 12 [(5, 0), (5, a.val), (5, d.val), (6, 26)] (by decide) 10 5 [(2, r.toBits), (3, 0)] ⟨b2, (Nat.two_pow_pos _), trivial⟩ rfl rfl
  have e11 := bits_pack 5 0 [(5, a.val), (5, d.val), (6, 26)] (Nat.two_pow_pos _) 15 11 [(2, r.toBits), (3, 0), (6, 12)] ⟨b2, (Nat.two_pow_pos _), (by decide), trivial⟩ rfl rfl
  have e16 := bits_pack 5 a.val [(5, d.val), (6, 26)] b1 20 16 [(2, r.toBits), (3, 0), (6, 12), (5, 0)] ⟨b2, (Nat.two_pow_pos _), (by decide), (Nat.two_pow_pos _), trivial⟩ rfl rfl
  have e21 := bits_pack 5 d.val [(6, 26)] b0 25 21 [(2, r.toBits), (3, 0), (6, 12), (5, 0), (5, a.val)] ⟨b2, (Nat.two_pow_pos _), (by decide), (Nat.two_pow_pos _), b1, trivial⟩ rfl rfl
  have e26 := bits_pack 6 26 [] (by decide) 31 26 [(2, r.toBits), (3, 0), (6, 12), (5, 0), (5, a.val), (5, d.val)] ⟨b2, (Nat.two_pow_pos _), (by decide), (Nat.two_pow_pos _), b1, b0, trivial⟩ rfl rfl
  simp only [List.nil_append, List.cons_append] at e0 e2 e5 e11 e16 e21 e26
  have hl : pack [(2, r.toBits), (3, 0), (6, 12), (5, 0), (5, a.val), (5, d.val), (6, 26)] < 2 ^ 32 := pack_lt [(2, r.toBits), (3, 0), (6, 12), (5, 0), (5, a.val), (5, d.val), (6, 26)] ⟨b2, (Nat.two_pow_pos _), (by decide), (Nat.two_pow_pos _), b1, b0, (by decide), trivial⟩ rfl
  generalize pack [(2, r.toBits), (3, 0), (6, 12), (5, 0), (5, a.val), (5, d.val), (6, 26)] = wd at *
  refine decode_of wd hn.symm ?_ hw hl
  · rw [major_26 e26]; simp only [decodeVFloat, e5, e0, e2, e11, e16, e21, reduceIte, ofNat_val, Round.ofBits_toBits]

theorem Sys2Proof.Laws.Roundtrip.vexp2 (d : Reg) (a : Reg) (r : Round) : Statement (.vexp2 d a r) := by
  intro _ hw
  have hn : ∀ x0 x1 x2 : Nat, pack [(2, x2), (3, 0), (6, 13), (5, 0), (5, x1), (5, x0), (6, 26)] = fields 0x680001A0 [(x0, 21), (x1, 16), (x2, 0)] := by
    intros; simp only [pack_eq, packAt_cons, packAt_nil, Nat.reduceAdd, fields_cons, fields_nil]; omega
  replace hn := hn d.val a.val r.toBits
  have b0 := d.isLt
  have b1 := a.isLt
  have b2 := Round.toBits_lt r
  have e0 := bits_pack 2 r.toBits [(3, 0), (6, 13), (5, 0), (5, a.val), (5, d.val), (6, 26)] b2 1 0 [] trivial rfl rfl
  have e2 := bits_pack 3 0 [(6, 13), (5, 0), (5, a.val), (5, d.val), (6, 26)] (Nat.two_pow_pos _) 4 2 [(2, r.toBits)] ⟨b2, trivial⟩ rfl rfl
  have e5 := bits_pack 6 13 [(5, 0), (5, a.val), (5, d.val), (6, 26)] (by decide) 10 5 [(2, r.toBits), (3, 0)] ⟨b2, (Nat.two_pow_pos _), trivial⟩ rfl rfl
  have e11 := bits_pack 5 0 [(5, a.val), (5, d.val), (6, 26)] (Nat.two_pow_pos _) 15 11 [(2, r.toBits), (3, 0), (6, 13)] ⟨b2, (Nat.two_pow_pos _), (by decide), trivial⟩ rfl rfl
  have e16 := bits_pack 5 a.val [(5, d.val), (6, 26)] b1 20 16 [(2, r.toBits), (3, 0), (6, 13), (5, 0)] ⟨b2, (Nat.two_pow_pos _), (by decide), (Nat.two_pow_pos _), trivial⟩ rfl rfl
  have e21 := bits_pack 5 d.val [(6, 26)] b0 25 21 [(2, r.toBits), (3, 0), (6, 13), (5, 0), (5, a.val)] ⟨b2, (Nat.two_pow_pos _), (by decide), (Nat.two_pow_pos _), b1, trivial⟩ rfl rfl
  have e26 := bits_pack 6 26 [] (by decide) 31 26 [(2, r.toBits), (3, 0), (6, 13), (5, 0), (5, a.val), (5, d.val)] ⟨b2, (Nat.two_pow_pos _), (by decide), (Nat.two_pow_pos _), b1, b0, trivial⟩ rfl rfl
  simp only [List.nil_append, List.cons_append] at e0 e2 e5 e11 e16 e21 e26
  have hl : pack [(2, r.toBits), (3, 0), (6, 13), (5, 0), (5, a.val), (5, d.val), (6, 26)] < 2 ^ 32 := pack_lt [(2, r.toBits), (3, 0), (6, 13), (5, 0), (5, a.val), (5, d.val), (6, 26)] ⟨b2, (Nat.two_pow_pos _), (by decide), (Nat.two_pow_pos _), b1, b0, (by decide), trivial⟩ rfl
  generalize pack [(2, r.toBits), (3, 0), (6, 13), (5, 0), (5, a.val), (5, d.val), (6, 26)] = wd at *
  refine decode_of wd hn.symm ?_ hw hl
  · rw [major_26 e26]; simp only [decodeVFloat, e5, e0, e2, e11, e16, e21, reduceIte, ofNat_val, Round.ofBits_toBits]

theorem Sys2Proof.Laws.Roundtrip.vlog2 (d : Reg) (a : Reg) (r : Round) : Statement (.vlog2 d a r) := by
  intro _ hw
  have hn : ∀ x0 x1 x2 : Nat, pack [(2, x2), (3, 0), (6, 14), (5, 0), (5, x1), (5, x0), (6, 26)] = fields 0x680001C0 [(x0, 21), (x1, 16), (x2, 0)] := by
    intros; simp only [pack_eq, packAt_cons, packAt_nil, Nat.reduceAdd, fields_cons, fields_nil]; omega
  replace hn := hn d.val a.val r.toBits
  have b0 := d.isLt
  have b1 := a.isLt
  have b2 := Round.toBits_lt r
  have e0 := bits_pack 2 r.toBits [(3, 0), (6, 14), (5, 0), (5, a.val), (5, d.val), (6, 26)] b2 1 0 [] trivial rfl rfl
  have e2 := bits_pack 3 0 [(6, 14), (5, 0), (5, a.val), (5, d.val), (6, 26)] (Nat.two_pow_pos _) 4 2 [(2, r.toBits)] ⟨b2, trivial⟩ rfl rfl
  have e5 := bits_pack 6 14 [(5, 0), (5, a.val), (5, d.val), (6, 26)] (by decide) 10 5 [(2, r.toBits), (3, 0)] ⟨b2, (Nat.two_pow_pos _), trivial⟩ rfl rfl
  have e11 := bits_pack 5 0 [(5, a.val), (5, d.val), (6, 26)] (Nat.two_pow_pos _) 15 11 [(2, r.toBits), (3, 0), (6, 14)] ⟨b2, (Nat.two_pow_pos _), (by decide), trivial⟩ rfl rfl
  have e16 := bits_pack 5 a.val [(5, d.val), (6, 26)] b1 20 16 [(2, r.toBits), (3, 0), (6, 14), (5, 0)] ⟨b2, (Nat.two_pow_pos _), (by decide), (Nat.two_pow_pos _), trivial⟩ rfl rfl
  have e21 := bits_pack 5 d.val [(6, 26)] b0 25 21 [(2, r.toBits), (3, 0), (6, 14), (5, 0), (5, a.val)] ⟨b2, (Nat.two_pow_pos _), (by decide), (Nat.two_pow_pos _), b1, trivial⟩ rfl rfl
  have e26 := bits_pack 6 26 [] (by decide) 31 26 [(2, r.toBits), (3, 0), (6, 14), (5, 0), (5, a.val), (5, d.val)] ⟨b2, (Nat.two_pow_pos _), (by decide), (Nat.two_pow_pos _), b1, b0, trivial⟩ rfl rfl
  simp only [List.nil_append, List.cons_append] at e0 e2 e5 e11 e16 e21 e26
  have hl : pack [(2, r.toBits), (3, 0), (6, 14), (5, 0), (5, a.val), (5, d.val), (6, 26)] < 2 ^ 32 := pack_lt [(2, r.toBits), (3, 0), (6, 14), (5, 0), (5, a.val), (5, d.val), (6, 26)] ⟨b2, (Nat.two_pow_pos _), (by decide), (Nat.two_pow_pos _), b1, b0, (by decide), trivial⟩ rfl
  generalize pack [(2, r.toBits), (3, 0), (6, 14), (5, 0), (5, a.val), (5, d.val), (6, 26)] = wd at *
  refine decode_of wd hn.symm ?_ hw hl
  · rw [major_26 e26]; simp only [decodeVFloat, e5, e0, e2, e11, e16, e21, reduceIte, ofNat_val, Round.ofBits_toBits]

theorem Sys2Proof.Laws.Roundtrip.vcmp (d : Reg) (a : Reg) (b : Reg) (c : VCmp) : Statement (.vcmp d a b c) := by
  intro _ hw
  have hn : ∀ x0 x1 x2 x3 : Nat, pack [(5, 0), (3, x3), (3, 0), (5, x2), (5, x1), (5, x0), (6, 27)] = fields 0x6C000000 [(x0, 21), (x1, 16), (x2, 11), (x3, 5)] := by
    intros; simp only [pack_eq, packAt_cons, packAt_nil, Nat.reduceAdd, fields_cons, fields_nil]; omega
  replace hn := hn d.val a.val b.val c.toBits
  have b0 := d.isLt
  have b1 := a.isLt
  have b2 := b.isLt
  have b3 := VCmp.toBits_lt c
  have e0 := bits_pack 5 0 [(3, c.toBits), (3, 0), (5, b.val), (5, a.val), (5, d.val), (6, 27)] (Nat.two_pow_pos _) 4 0 [] trivial rfl rfl
  have e5 := bits_pack 3 c.toBits [(3, 0), (5, b.val), (5, a.val), (5, d.val), (6, 27)] b3 7 5 [(5, 0)] ⟨(Nat.two_pow_pos _), trivial⟩ rfl rfl
  have e11 := bits_pack 5 b.val [(5, a.val), (5, d.val), (6, 27)] b2 15 11 [(5, 0), (3, c.toBits), (3, 0)] ⟨(Nat.two_pow_pos _), b3, (Nat.two_pow_pos _), trivial⟩ rfl rfl
  have e16 := bits_pack 5 a.val [(5, d.val), (6, 27)] b1 20 16 [(5, 0), (3, c.toBits), (3, 0), (5, b.val)] ⟨(Nat.two_pow_pos _), b3, (Nat.two_pow_pos _), b2, trivial⟩ rfl rfl
  have e21 := bits_pack 5 d.val [(6, 27)] b0 25 21 [(5, 0), (3, c.toBits), (3, 0), (5, b.val), (5, a.val)] ⟨(Nat.two_pow_pos _), b3, (Nat.two_pow_pos _), b2, b1, trivial⟩ rfl rfl
  have e26 := bits_pack 6 27 [] (by decide) 31 26 [(5, 0), (3, c.toBits), (3, 0), (5, b.val), (5, a.val), (5, d.val)] ⟨(Nat.two_pow_pos _), b3, (Nat.two_pow_pos _), b2, b1, b0, trivial⟩ rfl rfl
  simp only [List.nil_append, List.cons_append] at e0 e5 e11 e16 e21 e26
  have hl : pack [(5, 0), (3, c.toBits), (3, 0), (5, b.val), (5, a.val), (5, d.val), (6, 27)] < 2 ^ 32 := pack_lt [(5, 0), (3, c.toBits), (3, 0), (5, b.val), (5, a.val), (5, d.val), (6, 27)] ⟨(Nat.two_pow_pos _), b3, (Nat.two_pow_pos _), b2, b1, b0, (by decide), trivial⟩ rfl
  generalize pack [(5, 0), (3, c.toBits), (3, 0), (5, b.val), (5, a.val), (5, d.val), (6, 27)] = wd at *
  have o5 : bits wd 10 5 = c.toBits := by rw [hn]; simp only [fields_cons, fields_nil, bits]; omega
  refine decode_of wd hn.symm ?_ hw hl
  · rw [major_27 e26]; cases c <;> (simp only [decodeVCompare, e0, e5, e11, e16, e21, o5, reduceIte, ofNat_val, VCmp.ofBits_toBits, VCmp.toBits, Nat.reduceMul, Nat.reduceAdd] <;> rfl)

theorem Sys2Proof.Laws.Roundtrip.vsel (d : Reg) (a : Reg) (b : Reg) : Statement (.vsel d a b) := by
  intro _ hw
  have hn : ∀ x0 x1 x2 : Nat, pack [(5, 0), (6, 8), (5, x2), (5, x1), (5, x0), (6, 27)] = fields 0x6C000100 [(x0, 21), (x1, 16), (x2, 11)] := by
    intros; simp only [pack_eq, packAt_cons, packAt_nil, Nat.reduceAdd, fields_cons, fields_nil]; omega
  replace hn := hn d.val a.val b.val
  have b0 := d.isLt
  have b1 := a.isLt
  have b2 := b.isLt
  have e0 := bits_pack 5 0 [(6, 8), (5, b.val), (5, a.val), (5, d.val), (6, 27)] (Nat.two_pow_pos _) 4 0 [] trivial rfl rfl
  have e5 := bits_pack 6 8 [(5, b.val), (5, a.val), (5, d.val), (6, 27)] (by decide) 10 5 [(5, 0)] ⟨(Nat.two_pow_pos _), trivial⟩ rfl rfl
  have e11 := bits_pack 5 b.val [(5, a.val), (5, d.val), (6, 27)] b2 15 11 [(5, 0), (6, 8)] ⟨(Nat.two_pow_pos _), (by decide), trivial⟩ rfl rfl
  have e16 := bits_pack 5 a.val [(5, d.val), (6, 27)] b1 20 16 [(5, 0), (6, 8), (5, b.val)] ⟨(Nat.two_pow_pos _), (by decide), b2, trivial⟩ rfl rfl
  have e21 := bits_pack 5 d.val [(6, 27)] b0 25 21 [(5, 0), (6, 8), (5, b.val), (5, a.val)] ⟨(Nat.two_pow_pos _), (by decide), b2, b1, trivial⟩ rfl rfl
  have e26 := bits_pack 6 27 [] (by decide) 31 26 [(5, 0), (6, 8), (5, b.val), (5, a.val), (5, d.val)] ⟨(Nat.two_pow_pos _), (by decide), b2, b1, b0, trivial⟩ rfl rfl
  simp only [List.nil_append, List.cons_append] at e0 e5 e11 e16 e21 e26
  have hl : pack [(5, 0), (6, 8), (5, b.val), (5, a.val), (5, d.val), (6, 27)] < 2 ^ 32 := pack_lt [(5, 0), (6, 8), (5, b.val), (5, a.val), (5, d.val), (6, 27)] ⟨(Nat.two_pow_pos _), (by decide), b2, b1, b0, (by decide), trivial⟩ rfl
  generalize pack [(5, 0), (6, 8), (5, b.val), (5, a.val), (5, d.val), (6, 27)] = wd at *
  refine decode_of wd hn.symm ?_ hw hl
  · rw [major_27 e26]; simp only [decodeVCompare, e5, e0, e11, e16, e21, reduceIte, ofNat_val]

theorem Sys2Proof.Laws.Roundtrip.viadd (d : Reg) (a : Reg) (b : Reg) (s : Bool) (e : Elem) : Statement (.viadd d a b s e) := by
  intro _ hw
  have hn : ∀ x0 x1 x2 x3 x4 : Nat, pack [(2, x4), (1, 0), (1, x3), (1, 0), (6, 0), (5, x2), (5, x1), (5, x0), (6, 28)] = fields 0x70000000 [(x0, 21), (x1, 16), (x2, 11), (x3, 3), (x4, 0)] := by
    intros; simp only [pack_eq, packAt_cons, packAt_nil, Nat.reduceAdd, fields_cons, fields_nil]; omega
  replace hn := hn d.val a.val b.val s.toNat e.toBits
  have b0 := d.isLt
  have b1 := a.isLt
  have b2 := b.isLt
  have b3 := Bool.toNat_lt s
  have b4 := Elem.toBits_lt e
  have e0 := bits_pack 2 e.toBits [(1, 0), (1, s.toNat), (1, 0), (6, 0), (5, b.val), (5, a.val), (5, d.val), (6, 28)] b4 1 0 [] trivial rfl rfl
  have e2 := bits_pack 1 0 [(1, s.toNat), (1, 0), (6, 0), (5, b.val), (5, a.val), (5, d.val), (6, 28)] (Nat.two_pow_pos _) 2 2 [(2, e.toBits)] ⟨b4, trivial⟩ rfl rfl
  have e3 := bits_pack 1 s.toNat [(1, 0), (6, 0), (5, b.val), (5, a.val), (5, d.val), (6, 28)] b3 3 3 [(2, e.toBits), (1, 0)] ⟨b4, (Nat.two_pow_pos _), trivial⟩ rfl rfl
  have e4 := bits_pack 1 0 [(6, 0), (5, b.val), (5, a.val), (5, d.val), (6, 28)] (Nat.two_pow_pos _) 4 4 [(2, e.toBits), (1, 0), (1, s.toNat)] ⟨b4, (Nat.two_pow_pos _), b3, trivial⟩ rfl rfl
  have e5 := bits_pack 6 0 [(5, b.val), (5, a.val), (5, d.val), (6, 28)] (Nat.two_pow_pos _) 10 5 [(2, e.toBits), (1, 0), (1, s.toNat), (1, 0)] ⟨b4, (Nat.two_pow_pos _), b3, (Nat.two_pow_pos _), trivial⟩ rfl rfl
  have e11 := bits_pack 5 b.val [(5, a.val), (5, d.val), (6, 28)] b2 15 11 [(2, e.toBits), (1, 0), (1, s.toNat), (1, 0), (6, 0)] ⟨b4, (Nat.two_pow_pos _), b3, (Nat.two_pow_pos _), (Nat.two_pow_pos _), trivial⟩ rfl rfl
  have e16 := bits_pack 5 a.val [(5, d.val), (6, 28)] b1 20 16 [(2, e.toBits), (1, 0), (1, s.toNat), (1, 0), (6, 0), (5, b.val)] ⟨b4, (Nat.two_pow_pos _), b3, (Nat.two_pow_pos _), (Nat.two_pow_pos _), b2, trivial⟩ rfl rfl
  have e21 := bits_pack 5 d.val [(6, 28)] b0 25 21 [(2, e.toBits), (1, 0), (1, s.toNat), (1, 0), (6, 0), (5, b.val), (5, a.val)] ⟨b4, (Nat.two_pow_pos _), b3, (Nat.two_pow_pos _), (Nat.two_pow_pos _), b2, b1, trivial⟩ rfl rfl
  have e26 := bits_pack 6 28 [] (by decide) 31 26 [(2, e.toBits), (1, 0), (1, s.toNat), (1, 0), (6, 0), (5, b.val), (5, a.val), (5, d.val)] ⟨b4, (Nat.two_pow_pos _), b3, (Nat.two_pow_pos _), (Nat.two_pow_pos _), b2, b1, b0, trivial⟩ rfl rfl
  simp only [List.nil_append, List.cons_append] at e0 e2 e3 e4 e5 e11 e16 e21 e26
  have hl : pack [(2, e.toBits), (1, 0), (1, s.toNat), (1, 0), (6, 0), (5, b.val), (5, a.val), (5, d.val), (6, 28)] < 2 ^ 32 := pack_lt [(2, e.toBits), (1, 0), (1, s.toNat), (1, 0), (6, 0), (5, b.val), (5, a.val), (5, d.val), (6, 28)] ⟨b4, (Nat.two_pow_pos _), b3, (Nat.two_pow_pos _), (Nat.two_pow_pos _), b2, b1, b0, (by decide), trivial⟩ rfl
  generalize pack [(2, e.toBits), (1, 0), (1, s.toNat), (1, 0), (6, 0), (5, b.val), (5, a.val), (5, d.val), (6, 28)] = wd at *
  have f3 : bit wd 3 = s := bit_of e3
  refine decode_of wd hn.symm ?_ hw hl
  · rw [major_28 e26]; simp only [decodeVInt, e5, e0, e2, e4, e11, e16, e21, f3, reduceIte, ofNat_val, Elem.ofBits?_toBits]

theorem Sys2Proof.Laws.Roundtrip.visub (d : Reg) (a : Reg) (b : Reg) (s : Bool) (e : Elem) : Statement (.visub d a b s e) := by
  intro _ hw
  have hn : ∀ x0 x1 x2 x3 x4 : Nat, pack [(2, x4), (1, 0), (1, x3), (1, 0), (6, 1), (5, x2), (5, x1), (5, x0), (6, 28)] = fields 0x70000020 [(x0, 21), (x1, 16), (x2, 11), (x3, 3), (x4, 0)] := by
    intros; simp only [pack_eq, packAt_cons, packAt_nil, Nat.reduceAdd, fields_cons, fields_nil]; omega
  replace hn := hn d.val a.val b.val s.toNat e.toBits
  have b0 := d.isLt
  have b1 := a.isLt
  have b2 := b.isLt
  have b3 := Bool.toNat_lt s
  have b4 := Elem.toBits_lt e
  have e0 := bits_pack 2 e.toBits [(1, 0), (1, s.toNat), (1, 0), (6, 1), (5, b.val), (5, a.val), (5, d.val), (6, 28)] b4 1 0 [] trivial rfl rfl
  have e2 := bits_pack 1 0 [(1, s.toNat), (1, 0), (6, 1), (5, b.val), (5, a.val), (5, d.val), (6, 28)] (Nat.two_pow_pos _) 2 2 [(2, e.toBits)] ⟨b4, trivial⟩ rfl rfl
  have e3 := bits_pack 1 s.toNat [(1, 0), (6, 1), (5, b.val), (5, a.val), (5, d.val), (6, 28)] b3 3 3 [(2, e.toBits), (1, 0)] ⟨b4, (Nat.two_pow_pos _), trivial⟩ rfl rfl
  have e4 := bits_pack 1 0 [(6, 1), (5, b.val), (5, a.val), (5, d.val), (6, 28)] (Nat.two_pow_pos _) 4 4 [(2, e.toBits), (1, 0), (1, s.toNat)] ⟨b4, (Nat.two_pow_pos _), b3, trivial⟩ rfl rfl
  have e5 := bits_pack 6 1 [(5, b.val), (5, a.val), (5, d.val), (6, 28)] (by decide) 10 5 [(2, e.toBits), (1, 0), (1, s.toNat), (1, 0)] ⟨b4, (Nat.two_pow_pos _), b3, (Nat.two_pow_pos _), trivial⟩ rfl rfl
  have e11 := bits_pack 5 b.val [(5, a.val), (5, d.val), (6, 28)] b2 15 11 [(2, e.toBits), (1, 0), (1, s.toNat), (1, 0), (6, 1)] ⟨b4, (Nat.two_pow_pos _), b3, (Nat.two_pow_pos _), (by decide), trivial⟩ rfl rfl
  have e16 := bits_pack 5 a.val [(5, d.val), (6, 28)] b1 20 16 [(2, e.toBits), (1, 0), (1, s.toNat), (1, 0), (6, 1), (5, b.val)] ⟨b4, (Nat.two_pow_pos _), b3, (Nat.two_pow_pos _), (by decide), b2, trivial⟩ rfl rfl
  have e21 := bits_pack 5 d.val [(6, 28)] b0 25 21 [(2, e.toBits), (1, 0), (1, s.toNat), (1, 0), (6, 1), (5, b.val), (5, a.val)] ⟨b4, (Nat.two_pow_pos _), b3, (Nat.two_pow_pos _), (by decide), b2, b1, trivial⟩ rfl rfl
  have e26 := bits_pack 6 28 [] (by decide) 31 26 [(2, e.toBits), (1, 0), (1, s.toNat), (1, 0), (6, 1), (5, b.val), (5, a.val), (5, d.val)] ⟨b4, (Nat.two_pow_pos _), b3, (Nat.two_pow_pos _), (by decide), b2, b1, b0, trivial⟩ rfl rfl
  simp only [List.nil_append, List.cons_append] at e0 e2 e3 e4 e5 e11 e16 e21 e26
  have hl : pack [(2, e.toBits), (1, 0), (1, s.toNat), (1, 0), (6, 1), (5, b.val), (5, a.val), (5, d.val), (6, 28)] < 2 ^ 32 := pack_lt [(2, e.toBits), (1, 0), (1, s.toNat), (1, 0), (6, 1), (5, b.val), (5, a.val), (5, d.val), (6, 28)] ⟨b4, (Nat.two_pow_pos _), b3, (Nat.two_pow_pos _), (by decide), b2, b1, b0, (by decide), trivial⟩ rfl
  generalize pack [(2, e.toBits), (1, 0), (1, s.toNat), (1, 0), (6, 1), (5, b.val), (5, a.val), (5, d.val), (6, 28)] = wd at *
  have f3 : bit wd 3 = s := bit_of e3
  refine decode_of wd hn.symm ?_ hw hl
  · rw [major_28 e26]; simp only [decodeVInt, e5, e0, e2, e4, e11, e16, e21, f3, reduceIte, ofNat_val, Elem.ofBits?_toBits]

theorem Sys2Proof.Laws.Roundtrip.vimul (d : Reg) (a : Reg) (b : Reg) (e : Elem) : Statement (.vimul d a b e) := by
  intro _ hw
  have hn : ∀ x0 x1 x2 x3 : Nat, pack [(2, x3), (3, 0), (6, 2), (5, x2), (5, x1), (5, x0), (6, 28)] = fields 0x70000040 [(x0, 21), (x1, 16), (x2, 11), (x3, 0)] := by
    intros; simp only [pack_eq, packAt_cons, packAt_nil, Nat.reduceAdd, fields_cons, fields_nil]; omega
  replace hn := hn d.val a.val b.val e.toBits
  have b0 := d.isLt
  have b1 := a.isLt
  have b2 := b.isLt
  have b3 := Elem.toBits_lt e
  have e0 := bits_pack 2 e.toBits [(3, 0), (6, 2), (5, b.val), (5, a.val), (5, d.val), (6, 28)] b3 1 0 [] trivial rfl rfl
  have e2 := bits_pack 3 0 [(6, 2), (5, b.val), (5, a.val), (5, d.val), (6, 28)] (Nat.two_pow_pos _) 4 2 [(2, e.toBits)] ⟨b3, trivial⟩ rfl rfl
  have e5 := bits_pack 6 2 [(5, b.val), (5, a.val), (5, d.val), (6, 28)] (by decide) 10 5 [(2, e.toBits), (3, 0)] ⟨b3, (Nat.two_pow_pos _), trivial⟩ rfl rfl
  have e11 := bits_pack 5 b.val [(5, a.val), (5, d.val), (6, 28)] b2 15 11 [(2, e.toBits), (3, 0), (6, 2)] ⟨b3, (Nat.two_pow_pos _), (by decide), trivial⟩ rfl rfl
  have e16 := bits_pack 5 a.val [(5, d.val), (6, 28)] b1 20 16 [(2, e.toBits), (3, 0), (6, 2), (5, b.val)] ⟨b3, (Nat.two_pow_pos _), (by decide), b2, trivial⟩ rfl rfl
  have e21 := bits_pack 5 d.val [(6, 28)] b0 25 21 [(2, e.toBits), (3, 0), (6, 2), (5, b.val), (5, a.val)] ⟨b3, (Nat.two_pow_pos _), (by decide), b2, b1, trivial⟩ rfl rfl
  have e26 := bits_pack 6 28 [] (by decide) 31 26 [(2, e.toBits), (3, 0), (6, 2), (5, b.val), (5, a.val), (5, d.val)] ⟨b3, (Nat.two_pow_pos _), (by decide), b2, b1, b0, trivial⟩ rfl rfl
  simp only [List.nil_append, List.cons_append] at e0 e2 e5 e11 e16 e21 e26
  have hl : pack [(2, e.toBits), (3, 0), (6, 2), (5, b.val), (5, a.val), (5, d.val), (6, 28)] < 2 ^ 32 := pack_lt [(2, e.toBits), (3, 0), (6, 2), (5, b.val), (5, a.val), (5, d.val), (6, 28)] ⟨b3, (Nat.two_pow_pos _), (by decide), b2, b1, b0, (by decide), trivial⟩ rfl
  generalize pack [(2, e.toBits), (3, 0), (6, 2), (5, b.val), (5, a.val), (5, d.val), (6, 28)] = wd at *
  refine decode_of wd hn.symm ?_ hw hl
  · rw [major_28 e26]; simp only [decodeVInt, e5, e0, e2, e11, e16, e21, reduceIte, ofNat_val, Elem.ofBits?_toBits]

theorem Sys2Proof.Laws.Roundtrip.vand (d : Reg) (a : Reg) (b : Reg) : Statement (.vand d a b) := by
  intro _ hw
  have hn : ∀ x0 x1 x2 : Nat, pack [(5, 0), (6, 3), (5, x2), (5, x1), (5, x0), (6, 28)] = fields 0x70000060 [(x0, 21), (x1, 16), (x2, 11)] := by
    intros; simp only [pack_eq, packAt_cons, packAt_nil, Nat.reduceAdd, fields_cons, fields_nil]; omega
  replace hn := hn d.val a.val b.val
  have b0 := d.isLt
  have b1 := a.isLt
  have b2 := b.isLt
  have e0 := bits_pack 5 0 [(6, 3), (5, b.val), (5, a.val), (5, d.val), (6, 28)] (Nat.two_pow_pos _) 4 0 [] trivial rfl rfl
  have e5 := bits_pack 6 3 [(5, b.val), (5, a.val), (5, d.val), (6, 28)] (by decide) 10 5 [(5, 0)] ⟨(Nat.two_pow_pos _), trivial⟩ rfl rfl
  have e11 := bits_pack 5 b.val [(5, a.val), (5, d.val), (6, 28)] b2 15 11 [(5, 0), (6, 3)] ⟨(Nat.two_pow_pos _), (by decide), trivial⟩ rfl rfl
  have e16 := bits_pack 5 a.val [(5, d.val), (6, 28)] b1 20 16 [(5, 0), (6, 3), (5, b.val)] ⟨(Nat.two_pow_pos _), (by decide), b2, trivial⟩ rfl rfl
  have e21 := bits_pack 5 d.val [(6, 28)] b0 25 21 [(5, 0), (6, 3), (5, b.val), (5, a.val)] ⟨(Nat.two_pow_pos _), (by decide), b2, b1, trivial⟩ rfl rfl
  have e26 := bits_pack 6 28 [] (by decide) 31 26 [(5, 0), (6, 3), (5, b.val), (5, a.val), (5, d.val)] ⟨(Nat.two_pow_pos _), (by decide), b2, b1, b0, trivial⟩ rfl rfl
  simp only [List.nil_append, List.cons_append] at e0 e5 e11 e16 e21 e26
  have hl : pack [(5, 0), (6, 3), (5, b.val), (5, a.val), (5, d.val), (6, 28)] < 2 ^ 32 := pack_lt [(5, 0), (6, 3), (5, b.val), (5, a.val), (5, d.val), (6, 28)] ⟨(Nat.two_pow_pos _), (by decide), b2, b1, b0, (by decide), trivial⟩ rfl
  generalize pack [(5, 0), (6, 3), (5, b.val), (5, a.val), (5, d.val), (6, 28)] = wd at *
  refine decode_of wd hn.symm ?_ hw hl
  · rw [major_28 e26]; simp only [decodeVInt, e5, e0, e11, e16, e21, reduceIte, ofNat_val]

theorem Sys2Proof.Laws.Roundtrip.vor (d : Reg) (a : Reg) (b : Reg) : Statement (.vor d a b) := by
  intro _ hw
  have hn : ∀ x0 x1 x2 : Nat, pack [(5, 0), (6, 4), (5, x2), (5, x1), (5, x0), (6, 28)] = fields 0x70000080 [(x0, 21), (x1, 16), (x2, 11)] := by
    intros; simp only [pack_eq, packAt_cons, packAt_nil, Nat.reduceAdd, fields_cons, fields_nil]; omega
  replace hn := hn d.val a.val b.val
  have b0 := d.isLt
  have b1 := a.isLt
  have b2 := b.isLt
  have e0 := bits_pack 5 0 [(6, 4), (5, b.val), (5, a.val), (5, d.val), (6, 28)] (Nat.two_pow_pos _) 4 0 [] trivial rfl rfl
  have e5 := bits_pack 6 4 [(5, b.val), (5, a.val), (5, d.val), (6, 28)] (by decide) 10 5 [(5, 0)] ⟨(Nat.two_pow_pos _), trivial⟩ rfl rfl
  have e11 := bits_pack 5 b.val [(5, a.val), (5, d.val), (6, 28)] b2 15 11 [(5, 0), (6, 4)] ⟨(Nat.two_pow_pos _), (by decide), trivial⟩ rfl rfl
  have e16 := bits_pack 5 a.val [(5, d.val), (6, 28)] b1 20 16 [(5, 0), (6, 4), (5, b.val)] ⟨(Nat.two_pow_pos _), (by decide), b2, trivial⟩ rfl rfl
  have e21 := bits_pack 5 d.val [(6, 28)] b0 25 21 [(5, 0), (6, 4), (5, b.val), (5, a.val)] ⟨(Nat.two_pow_pos _), (by decide), b2, b1, trivial⟩ rfl rfl
  have e26 := bits_pack 6 28 [] (by decide) 31 26 [(5, 0), (6, 4), (5, b.val), (5, a.val), (5, d.val)] ⟨(Nat.two_pow_pos _), (by decide), b2, b1, b0, trivial⟩ rfl rfl
  simp only [List.nil_append, List.cons_append] at e0 e5 e11 e16 e21 e26
  have hl : pack [(5, 0), (6, 4), (5, b.val), (5, a.val), (5, d.val), (6, 28)] < 2 ^ 32 := pack_lt [(5, 0), (6, 4), (5, b.val), (5, a.val), (5, d.val), (6, 28)] ⟨(Nat.two_pow_pos _), (by decide), b2, b1, b0, (by decide), trivial⟩ rfl
  generalize pack [(5, 0), (6, 4), (5, b.val), (5, a.val), (5, d.val), (6, 28)] = wd at *
  refine decode_of wd hn.symm ?_ hw hl
  · rw [major_28 e26]; simp only [decodeVInt, e5, e0, e11, e16, e21, reduceIte, ofNat_val]

theorem Sys2Proof.Laws.Roundtrip.vxor (d : Reg) (a : Reg) (b : Reg) : Statement (.vxor d a b) := by
  intro _ hw
  have hn : ∀ x0 x1 x2 : Nat, pack [(5, 0), (6, 5), (5, x2), (5, x1), (5, x0), (6, 28)] = fields 0x700000A0 [(x0, 21), (x1, 16), (x2, 11)] := by
    intros; simp only [pack_eq, packAt_cons, packAt_nil, Nat.reduceAdd, fields_cons, fields_nil]; omega
  replace hn := hn d.val a.val b.val
  have b0 := d.isLt
  have b1 := a.isLt
  have b2 := b.isLt
  have e0 := bits_pack 5 0 [(6, 5), (5, b.val), (5, a.val), (5, d.val), (6, 28)] (Nat.two_pow_pos _) 4 0 [] trivial rfl rfl
  have e5 := bits_pack 6 5 [(5, b.val), (5, a.val), (5, d.val), (6, 28)] (by decide) 10 5 [(5, 0)] ⟨(Nat.two_pow_pos _), trivial⟩ rfl rfl
  have e11 := bits_pack 5 b.val [(5, a.val), (5, d.val), (6, 28)] b2 15 11 [(5, 0), (6, 5)] ⟨(Nat.two_pow_pos _), (by decide), trivial⟩ rfl rfl
  have e16 := bits_pack 5 a.val [(5, d.val), (6, 28)] b1 20 16 [(5, 0), (6, 5), (5, b.val)] ⟨(Nat.two_pow_pos _), (by decide), b2, trivial⟩ rfl rfl
  have e21 := bits_pack 5 d.val [(6, 28)] b0 25 21 [(5, 0), (6, 5), (5, b.val), (5, a.val)] ⟨(Nat.two_pow_pos _), (by decide), b2, b1, trivial⟩ rfl rfl
  have e26 := bits_pack 6 28 [] (by decide) 31 26 [(5, 0), (6, 5), (5, b.val), (5, a.val), (5, d.val)] ⟨(Nat.two_pow_pos _), (by decide), b2, b1, b0, trivial⟩ rfl rfl
  simp only [List.nil_append, List.cons_append] at e0 e5 e11 e16 e21 e26
  have hl : pack [(5, 0), (6, 5), (5, b.val), (5, a.val), (5, d.val), (6, 28)] < 2 ^ 32 := pack_lt [(5, 0), (6, 5), (5, b.val), (5, a.val), (5, d.val), (6, 28)] ⟨(Nat.two_pow_pos _), (by decide), b2, b1, b0, (by decide), trivial⟩ rfl
  generalize pack [(5, 0), (6, 5), (5, b.val), (5, a.val), (5, d.val), (6, 28)] = wd at *
  refine decode_of wd hn.symm ?_ hw hl
  · rw [major_28 e26]; simp only [decodeVInt, e5, e0, e11, e16, e21, reduceIte, ofNat_val]

theorem Sys2Proof.Laws.Roundtrip.vshl (d : Reg) (a : Reg) (b : Reg) (e : Elem) : Statement (.vshl d a b e) := by
  intro _ hw
  have hn : ∀ x0 x1 x2 x3 : Nat, pack [(2, x3), (3, 0), (6, 6), (5, x2), (5, x1), (5, x0), (6, 28)] = fields 0x700000C0 [(x0, 21), (x1, 16), (x2, 11), (x3, 0)] := by
    intros; simp only [pack_eq, packAt_cons, packAt_nil, Nat.reduceAdd, fields_cons, fields_nil]; omega
  replace hn := hn d.val a.val b.val e.toBits
  have b0 := d.isLt
  have b1 := a.isLt
  have b2 := b.isLt
  have b3 := Elem.toBits_lt e
  have e0 := bits_pack 2 e.toBits [(3, 0), (6, 6), (5, b.val), (5, a.val), (5, d.val), (6, 28)] b3 1 0 [] trivial rfl rfl
  have e2 := bits_pack 3 0 [(6, 6), (5, b.val), (5, a.val), (5, d.val), (6, 28)] (Nat.two_pow_pos _) 4 2 [(2, e.toBits)] ⟨b3, trivial⟩ rfl rfl
  have e5 := bits_pack 6 6 [(5, b.val), (5, a.val), (5, d.val), (6, 28)] (by decide) 10 5 [(2, e.toBits), (3, 0)] ⟨b3, (Nat.two_pow_pos _), trivial⟩ rfl rfl
  have e11 := bits_pack 5 b.val [(5, a.val), (5, d.val), (6, 28)] b2 15 11 [(2, e.toBits), (3, 0), (6, 6)] ⟨b3, (Nat.two_pow_pos _), (by decide), trivial⟩ rfl rfl
  have e16 := bits_pack 5 a.val [(5, d.val), (6, 28)] b1 20 16 [(2, e.toBits), (3, 0), (6, 6), (5, b.val)] ⟨b3, (Nat.two_pow_pos _), (by decide), b2, trivial⟩ rfl rfl
  have e21 := bits_pack 5 d.val [(6, 28)] b0 25 21 [(2, e.toBits), (3, 0), (6, 6), (5, b.val), (5, a.val)] ⟨b3, (Nat.two_pow_pos _), (by decide), b2, b1, trivial⟩ rfl rfl
  have e26 := bits_pack 6 28 [] (by decide) 31 26 [(2, e.toBits), (3, 0), (6, 6), (5, b.val), (5, a.val), (5, d.val)] ⟨b3, (Nat.two_pow_pos _), (by decide), b2, b1, b0, trivial⟩ rfl rfl
  simp only [List.nil_append, List.cons_append] at e0 e2 e5 e11 e16 e21 e26
  have hl : pack [(2, e.toBits), (3, 0), (6, 6), (5, b.val), (5, a.val), (5, d.val), (6, 28)] < 2 ^ 32 := pack_lt [(2, e.toBits), (3, 0), (6, 6), (5, b.val), (5, a.val), (5, d.val), (6, 28)] ⟨b3, (Nat.two_pow_pos _), (by decide), b2, b1, b0, (by decide), trivial⟩ rfl
  generalize pack [(2, e.toBits), (3, 0), (6, 6), (5, b.val), (5, a.val), (5, d.val), (6, 28)] = wd at *
  refine decode_of wd hn.symm ?_ hw hl
  · rw [major_28 e26]; simp only [decodeVInt, e5, e0, e2, e11, e16, e21, reduceIte, ofNat_val, Elem.ofBits?_toBits]

theorem Sys2Proof.Laws.Roundtrip.vshr (d : Reg) (a : Reg) (b : Reg) (t : Bool) (e : Elem) : Statement (.vshr d a b t e) := by
  intro _ hw
  have hn : ∀ x0 x1 x2 x3 x4 : Nat, pack [(2, x4), (1, x3), (2, 0), (6, 7), (5, x2), (5, x1), (5, x0), (6, 28)] = fields 0x700000E0 [(x0, 21), (x1, 16), (x2, 11), (x3, 2), (x4, 0)] := by
    intros; simp only [pack_eq, packAt_cons, packAt_nil, Nat.reduceAdd, fields_cons, fields_nil]; omega
  replace hn := hn d.val a.val b.val t.toNat e.toBits
  have b0 := d.isLt
  have b1 := a.isLt
  have b2 := b.isLt
  have b3 := Bool.toNat_lt t
  have b4 := Elem.toBits_lt e
  have e0 := bits_pack 2 e.toBits [(1, t.toNat), (2, 0), (6, 7), (5, b.val), (5, a.val), (5, d.val), (6, 28)] b4 1 0 [] trivial rfl rfl
  have e2 := bits_pack 1 t.toNat [(2, 0), (6, 7), (5, b.val), (5, a.val), (5, d.val), (6, 28)] b3 2 2 [(2, e.toBits)] ⟨b4, trivial⟩ rfl rfl
  have e3 := bits_pack 2 0 [(6, 7), (5, b.val), (5, a.val), (5, d.val), (6, 28)] (Nat.two_pow_pos _) 4 3 [(2, e.toBits), (1, t.toNat)] ⟨b4, b3, trivial⟩ rfl rfl
  have e5 := bits_pack 6 7 [(5, b.val), (5, a.val), (5, d.val), (6, 28)] (by decide) 10 5 [(2, e.toBits), (1, t.toNat), (2, 0)] ⟨b4, b3, (Nat.two_pow_pos _), trivial⟩ rfl rfl
  have e11 := bits_pack 5 b.val [(5, a.val), (5, d.val), (6, 28)] b2 15 11 [(2, e.toBits), (1, t.toNat), (2, 0), (6, 7)] ⟨b4, b3, (Nat.two_pow_pos _), (by decide), trivial⟩ rfl rfl
  have e16 := bits_pack 5 a.val [(5, d.val), (6, 28)] b1 20 16 [(2, e.toBits), (1, t.toNat), (2, 0), (6, 7), (5, b.val)] ⟨b4, b3, (Nat.two_pow_pos _), (by decide), b2, trivial⟩ rfl rfl
  have e21 := bits_pack 5 d.val [(6, 28)] b0 25 21 [(2, e.toBits), (1, t.toNat), (2, 0), (6, 7), (5, b.val), (5, a.val)] ⟨b4, b3, (Nat.two_pow_pos _), (by decide), b2, b1, trivial⟩ rfl rfl
  have e26 := bits_pack 6 28 [] (by decide) 31 26 [(2, e.toBits), (1, t.toNat), (2, 0), (6, 7), (5, b.val), (5, a.val), (5, d.val)] ⟨b4, b3, (Nat.two_pow_pos _), (by decide), b2, b1, b0, trivial⟩ rfl rfl
  simp only [List.nil_append, List.cons_append] at e0 e2 e3 e5 e11 e16 e21 e26
  have hl : pack [(2, e.toBits), (1, t.toNat), (2, 0), (6, 7), (5, b.val), (5, a.val), (5, d.val), (6, 28)] < 2 ^ 32 := pack_lt [(2, e.toBits), (1, t.toNat), (2, 0), (6, 7), (5, b.val), (5, a.val), (5, d.val), (6, 28)] ⟨b4, b3, (Nat.two_pow_pos _), (by decide), b2, b1, b0, (by decide), trivial⟩ rfl
  generalize pack [(2, e.toBits), (1, t.toNat), (2, 0), (6, 7), (5, b.val), (5, a.val), (5, d.val), (6, 28)] = wd at *
  have f2 : bit wd 2 = t := bit_of e2
  refine decode_of wd hn.symm ?_ hw hl
  · rw [major_28 e26]; simp only [decodeVInt, e5, e0, e3, e11, e16, e21, f2, reduceIte, ofNat_val, Elem.ofBits?_toBits]

theorem Sys2Proof.Laws.Roundtrip.vbcast (d : Reg) (a : Reg) : Statement (.vbcast d a) := by
  intro _ hw
  have hn : ∀ x0 x1 : Nat, pack [(5, 0), (6, 0), (5, 0), (5, x1), (5, x0), (6, 29)] = fields 0x74000000 [(x0, 21), (x1, 16)] := by
    intros; simp only [pack_eq, packAt_cons, packAt_nil, Nat.reduceAdd, fields_cons, fields_nil]; omega
  replace hn := hn d.val a.val
  have b0 := d.isLt
  have b1 := a.isLt
  have e0 := bits_pack 5 0 [(6, 0), (5, 0), (5, a.val), (5, d.val), (6, 29)] (Nat.two_pow_pos _) 4 0 [] trivial rfl rfl
  have e5 := bits_pack 6 0 [(5, 0), (5, a.val), (5, d.val), (6, 29)] (Nat.two_pow_pos _) 10 5 [(5, 0)] ⟨(Nat.two_pow_pos _), trivial⟩ rfl rfl
  have e11 := bits_pack 5 0 [(5, a.val), (5, d.val), (6, 29)] (Nat.two_pow_pos _) 15 11 [(5, 0), (6, 0)] ⟨(Nat.two_pow_pos _), (Nat.two_pow_pos _), trivial⟩ rfl rfl
  have e16 := bits_pack 5 a.val [(5, d.val), (6, 29)] b1 20 16 [(5, 0), (6, 0), (5, 0)] ⟨(Nat.two_pow_pos _), (Nat.two_pow_pos _), (Nat.two_pow_pos _), trivial⟩ rfl rfl
  have e21 := bits_pack 5 d.val [(6, 29)] b0 25 21 [(5, 0), (6, 0), (5, 0), (5, a.val)] ⟨(Nat.two_pow_pos _), (Nat.two_pow_pos _), (Nat.two_pow_pos _), b1, trivial⟩ rfl rfl
  have e26 := bits_pack 6 29 [] (by decide) 31 26 [(5, 0), (6, 0), (5, 0), (5, a.val), (5, d.val)] ⟨(Nat.two_pow_pos _), (Nat.two_pow_pos _), (Nat.two_pow_pos _), b1, b0, trivial⟩ rfl rfl
  simp only [List.nil_append, List.cons_append] at e0 e5 e11 e16 e21 e26
  have hl : pack [(5, 0), (6, 0), (5, 0), (5, a.val), (5, d.val), (6, 29)] < 2 ^ 32 := pack_lt [(5, 0), (6, 0), (5, 0), (5, a.val), (5, d.val), (6, 29)] ⟨(Nat.two_pow_pos _), (Nat.two_pow_pos _), (Nat.two_pow_pos _), b1, b0, (by decide), trivial⟩ rfl
  generalize pack [(5, 0), (6, 0), (5, 0), (5, a.val), (5, d.val), (6, 29)] = wd at *
  refine decode_of wd hn.symm ?_ hw hl
  · rw [major_29 e26]; simp only [decodeVLane, e5, e0, e11, e16, e21, reduceIte, ofNat_val]

theorem Sys2Proof.Laws.Roundtrip.vextr (d : Reg) (a : Reg) (lane : Fin 16) : Statement (.vextr d a lane) := by
  intro _ hw
  have hn : ∀ x0 x1 x2 : Nat, pack [(4, x2), (1, 0), (6, 1), (5, 0), (5, x1), (5, x0), (6, 29)] = fields 0x74000020 [(x0, 21), (x1, 16), (x2, 0)] := by
    intros; simp only [pack_eq, packAt_cons, packAt_nil, Nat.reduceAdd, fields_cons, fields_nil]; omega
  replace hn := hn d.val a.val lane.val
  have b0 := d.isLt
  have b1 := a.isLt
  have b2 := lane.isLt
  have e0 := bits_pack 4 lane.val [(1, 0), (6, 1), (5, 0), (5, a.val), (5, d.val), (6, 29)] b2 3 0 [] trivial rfl rfl
  have e4 := bits_pack 1 0 [(6, 1), (5, 0), (5, a.val), (5, d.val), (6, 29)] (Nat.two_pow_pos _) 4 4 [(4, lane.val)] ⟨b2, trivial⟩ rfl rfl
  have e5 := bits_pack 6 1 [(5, 0), (5, a.val), (5, d.val), (6, 29)] (by decide) 10 5 [(4, lane.val), (1, 0)] ⟨b2, (Nat.two_pow_pos _), trivial⟩ rfl rfl
  have e11 := bits_pack 5 0 [(5, a.val), (5, d.val), (6, 29)] (Nat.two_pow_pos _) 15 11 [(4, lane.val), (1, 0), (6, 1)] ⟨b2, (Nat.two_pow_pos _), (by decide), trivial⟩ rfl rfl
  have e16 := bits_pack 5 a.val [(5, d.val), (6, 29)] b1 20 16 [(4, lane.val), (1, 0), (6, 1), (5, 0)] ⟨b2, (Nat.two_pow_pos _), (by decide), (Nat.two_pow_pos _), trivial⟩ rfl rfl
  have e21 := bits_pack 5 d.val [(6, 29)] b0 25 21 [(4, lane.val), (1, 0), (6, 1), (5, 0), (5, a.val)] ⟨b2, (Nat.two_pow_pos _), (by decide), (Nat.two_pow_pos _), b1, trivial⟩ rfl rfl
  have e26 := bits_pack 6 29 [] (by decide) 31 26 [(4, lane.val), (1, 0), (6, 1), (5, 0), (5, a.val), (5, d.val)] ⟨b2, (Nat.two_pow_pos _), (by decide), (Nat.two_pow_pos _), b1, b0, trivial⟩ rfl rfl
  simp only [List.nil_append, List.cons_append] at e0 e4 e5 e11 e16 e21 e26
  have hl : pack [(4, lane.val), (1, 0), (6, 1), (5, 0), (5, a.val), (5, d.val), (6, 29)] < 2 ^ 32 := pack_lt [(4, lane.val), (1, 0), (6, 1), (5, 0), (5, a.val), (5, d.val), (6, 29)] ⟨b2, (Nat.two_pow_pos _), (by decide), (Nat.two_pow_pos _), b1, b0, (by decide), trivial⟩ rfl
  generalize pack [(4, lane.val), (1, 0), (6, 1), (5, 0), (5, a.val), (5, d.val), (6, 29)] = wd at *
  refine decode_of wd hn.symm ?_ hw hl
  · rw [major_29 e26]; simp only [decodeVLane, e5, e0, e4, e11, e16, e21, reduceIte, ofNat_val]

theorem Sys2Proof.Laws.Roundtrip.vins (d : Reg) (a : Reg) (lane : Fin 16) : Statement (.vins d a lane) := by
  intro _ hw
  have hn : ∀ x0 x1 x2 : Nat, pack [(4, x2), (1, 0), (6, 2), (5, 0), (5, x1), (5, x0), (6, 29)] = fields 0x74000040 [(x0, 21), (x1, 16), (x2, 0)] := by
    intros; simp only [pack_eq, packAt_cons, packAt_nil, Nat.reduceAdd, fields_cons, fields_nil]; omega
  replace hn := hn d.val a.val lane.val
  have b0 := d.isLt
  have b1 := a.isLt
  have b2 := lane.isLt
  have e0 := bits_pack 4 lane.val [(1, 0), (6, 2), (5, 0), (5, a.val), (5, d.val), (6, 29)] b2 3 0 [] trivial rfl rfl
  have e4 := bits_pack 1 0 [(6, 2), (5, 0), (5, a.val), (5, d.val), (6, 29)] (Nat.two_pow_pos _) 4 4 [(4, lane.val)] ⟨b2, trivial⟩ rfl rfl
  have e5 := bits_pack 6 2 [(5, 0), (5, a.val), (5, d.val), (6, 29)] (by decide) 10 5 [(4, lane.val), (1, 0)] ⟨b2, (Nat.two_pow_pos _), trivial⟩ rfl rfl
  have e11 := bits_pack 5 0 [(5, a.val), (5, d.val), (6, 29)] (Nat.two_pow_pos _) 15 11 [(4, lane.val), (1, 0), (6, 2)] ⟨b2, (Nat.two_pow_pos _), (by decide), trivial⟩ rfl rfl
  have e16 := bits_pack 5 a.val [(5, d.val), (6, 29)] b1 20 16 [(4, lane.val), (1, 0), (6, 2), (5, 0)] ⟨b2, (Nat.two_pow_pos _), (by decide), (Nat.two_pow_pos _), trivial⟩ rfl rfl
  have e21 := bits_pack 5 d.val [(6, 29)] b0 25 21 [(4, lane.val), (1, 0), (6, 2), (5, 0), (5, a.val)] ⟨b2, (Nat.two_pow_pos _), (by decide), (Nat.two_pow_pos _), b1, trivial⟩ rfl rfl
  have e26 := bits_pack 6 29 [] (by decide) 31 26 [(4, lane.val), (1, 0), (6, 2), (5, 0), (5, a.val), (5, d.val)] ⟨b2, (Nat.two_pow_pos _), (by decide), (Nat.two_pow_pos _), b1, b0, trivial⟩ rfl rfl
  simp only [List.nil_append, List.cons_append] at e0 e4 e5 e11 e16 e21 e26
  have hl : pack [(4, lane.val), (1, 0), (6, 2), (5, 0), (5, a.val), (5, d.val), (6, 29)] < 2 ^ 32 := pack_lt [(4, lane.val), (1, 0), (6, 2), (5, 0), (5, a.val), (5, d.val), (6, 29)] ⟨b2, (Nat.two_pow_pos _), (by decide), (Nat.two_pow_pos _), b1, b0, (by decide), trivial⟩ rfl
  generalize pack [(4, lane.val), (1, 0), (6, 2), (5, 0), (5, a.val), (5, d.val), (6, 29)] = wd at *
  refine decode_of wd hn.symm ?_ hw hl
  · rw [major_29 e26]; simp only [decodeVLane, e5, e0, e4, e11, e16, e21, reduceIte, ofNat_val]

theorem Sys2Proof.Laws.Roundtrip.vperm (d : Reg) (a : Reg) (b : Reg) : Statement (.vperm d a b) := by
  intro _ hw
  have hn : ∀ x0 x1 x2 : Nat, pack [(5, 0), (6, 3), (5, x2), (5, x1), (5, x0), (6, 29)] = fields 0x74000060 [(x0, 21), (x1, 16), (x2, 11)] := by
    intros; simp only [pack_eq, packAt_cons, packAt_nil, Nat.reduceAdd, fields_cons, fields_nil]; omega
  replace hn := hn d.val a.val b.val
  have b0 := d.isLt
  have b1 := a.isLt
  have b2 := b.isLt
  have e0 := bits_pack 5 0 [(6, 3), (5, b.val), (5, a.val), (5, d.val), (6, 29)] (Nat.two_pow_pos _) 4 0 [] trivial rfl rfl
  have e5 := bits_pack 6 3 [(5, b.val), (5, a.val), (5, d.val), (6, 29)] (by decide) 10 5 [(5, 0)] ⟨(Nat.two_pow_pos _), trivial⟩ rfl rfl
  have e11 := bits_pack 5 b.val [(5, a.val), (5, d.val), (6, 29)] b2 15 11 [(5, 0), (6, 3)] ⟨(Nat.two_pow_pos _), (by decide), trivial⟩ rfl rfl
  have e16 := bits_pack 5 a.val [(5, d.val), (6, 29)] b1 20 16 [(5, 0), (6, 3), (5, b.val)] ⟨(Nat.two_pow_pos _), (by decide), b2, trivial⟩ rfl rfl
  have e21 := bits_pack 5 d.val [(6, 29)] b0 25 21 [(5, 0), (6, 3), (5, b.val), (5, a.val)] ⟨(Nat.two_pow_pos _), (by decide), b2, b1, trivial⟩ rfl rfl
  have e26 := bits_pack 6 29 [] (by decide) 31 26 [(5, 0), (6, 3), (5, b.val), (5, a.val), (5, d.val)] ⟨(Nat.two_pow_pos _), (by decide), b2, b1, b0, trivial⟩ rfl rfl
  simp only [List.nil_append, List.cons_append] at e0 e5 e11 e16 e21 e26
  have hl : pack [(5, 0), (6, 3), (5, b.val), (5, a.val), (5, d.val), (6, 29)] < 2 ^ 32 := pack_lt [(5, 0), (6, 3), (5, b.val), (5, a.val), (5, d.val), (6, 29)] ⟨(Nat.two_pow_pos _), (by decide), b2, b1, b0, (by decide), trivial⟩ rfl
  generalize pack [(5, 0), (6, 3), (5, b.val), (5, a.val), (5, d.val), (6, 29)] = wd at *
  refine decode_of wd hn.symm ?_ hw hl
  · rw [major_29 e26]; simp only [decodeVLane, e5, e0, e11, e16, e21, reduceIte, ofNat_val]

theorem Sys2Proof.Laws.Roundtrip.vscan (d : Reg) (a : Reg) (k : ScanKind) : Statement (.vscan d a k) := by
  intro _ hw
  have hn : ∀ x0 x1 x2 : Nat, pack [(2, x2), (3, 0), (6, 4), (5, 0), (5, x1), (5, x0), (6, 29)] = fields 0x74000080 [(x0, 21), (x1, 16), (x2, 0)] := by
    intros; simp only [pack_eq, packAt_cons, packAt_nil, Nat.reduceAdd, fields_cons, fields_nil]; omega
  replace hn := hn d.val a.val k.toBits
  have b0 := d.isLt
  have b1 := a.isLt
  have b2 := ScanKind.toBits_lt k
  have e0 := bits_pack 2 k.toBits [(3, 0), (6, 4), (5, 0), (5, a.val), (5, d.val), (6, 29)] b2 1 0 [] trivial rfl rfl
  have e2 := bits_pack 3 0 [(6, 4), (5, 0), (5, a.val), (5, d.val), (6, 29)] (Nat.two_pow_pos _) 4 2 [(2, k.toBits)] ⟨b2, trivial⟩ rfl rfl
  have e5 := bits_pack 6 4 [(5, 0), (5, a.val), (5, d.val), (6, 29)] (by decide) 10 5 [(2, k.toBits), (3, 0)] ⟨b2, (Nat.two_pow_pos _), trivial⟩ rfl rfl
  have e11 := bits_pack 5 0 [(5, a.val), (5, d.val), (6, 29)] (Nat.two_pow_pos _) 15 11 [(2, k.toBits), (3, 0), (6, 4)] ⟨b2, (Nat.two_pow_pos _), (by decide), trivial⟩ rfl rfl
  have e16 := bits_pack 5 a.val [(5, d.val), (6, 29)] b1 20 16 [(2, k.toBits), (3, 0), (6, 4), (5, 0)] ⟨b2, (Nat.two_pow_pos _), (by decide), (Nat.two_pow_pos _), trivial⟩ rfl rfl
  have e21 := bits_pack 5 d.val [(6, 29)] b0 25 21 [(2, k.toBits), (3, 0), (6, 4), (5, 0), (5, a.val)] ⟨b2, (Nat.two_pow_pos _), (by decide), (Nat.two_pow_pos _), b1, trivial⟩ rfl rfl
  have e26 := bits_pack 6 29 [] (by decide) 31 26 [(2, k.toBits), (3, 0), (6, 4), (5, 0), (5, a.val), (5, d.val)] ⟨b2, (Nat.two_pow_pos _), (by decide), (Nat.two_pow_pos _), b1, b0, trivial⟩ rfl rfl
  simp only [List.nil_append, List.cons_append] at e0 e2 e5 e11 e16 e21 e26
  have hl : pack [(2, k.toBits), (3, 0), (6, 4), (5, 0), (5, a.val), (5, d.val), (6, 29)] < 2 ^ 32 := pack_lt [(2, k.toBits), (3, 0), (6, 4), (5, 0), (5, a.val), (5, d.val), (6, 29)] ⟨b2, (Nat.two_pow_pos _), (by decide), (Nat.two_pow_pos _), b1, b0, (by decide), trivial⟩ rfl
  generalize pack [(2, k.toBits), (3, 0), (6, 4), (5, 0), (5, a.val), (5, d.val), (6, 29)] = wd at *
  refine decode_of wd hn.symm ?_ hw hl
  · rw [major_29 e26]; simp only [decodeVLane, e5, e0, e2, e11, e16, e21, reduceIte, ofNat_val, ScanKind.ofBits_toBits]

theorem Sys2Proof.Laws.Roundtrip.vredadd (d : Reg) (a : Reg) (r : Round) : Statement (.vredadd d a r) := by
  intro _ hw
  have hn : ∀ x0 x1 x2 : Nat, pack [(2, x2), (3, 0), (6, 0), (5, 0), (5, x1), (5, x0), (6, 30)] = fields 0x78000000 [(x0, 21), (x1, 16), (x2, 0)] := by
    intros; simp only [pack_eq, packAt_cons, packAt_nil, Nat.reduceAdd, fields_cons, fields_nil]; omega
  replace hn := hn d.val a.val r.toBits
  have b0 := d.isLt
  have b1 := a.isLt
  have b2 := Round.toBits_lt r
  have e0 := bits_pack 2 r.toBits [(3, 0), (6, 0), (5, 0), (5, a.val), (5, d.val), (6, 30)] b2 1 0 [] trivial rfl rfl
  have e2 := bits_pack 3 0 [(6, 0), (5, 0), (5, a.val), (5, d.val), (6, 30)] (Nat.two_pow_pos _) 4 2 [(2, r.toBits)] ⟨b2, trivial⟩ rfl rfl
  have e5 := bits_pack 6 0 [(5, 0), (5, a.val), (5, d.val), (6, 30)] (Nat.two_pow_pos _) 10 5 [(2, r.toBits), (3, 0)] ⟨b2, (Nat.two_pow_pos _), trivial⟩ rfl rfl
  have e11 := bits_pack 5 0 [(5, a.val), (5, d.val), (6, 30)] (Nat.two_pow_pos _) 15 11 [(2, r.toBits), (3, 0), (6, 0)] ⟨b2, (Nat.two_pow_pos _), (Nat.two_pow_pos _), trivial⟩ rfl rfl
  have e16 := bits_pack 5 a.val [(5, d.val), (6, 30)] b1 20 16 [(2, r.toBits), (3, 0), (6, 0), (5, 0)] ⟨b2, (Nat.two_pow_pos _), (Nat.two_pow_pos _), (Nat.two_pow_pos _), trivial⟩ rfl rfl
  have e21 := bits_pack 5 d.val [(6, 30)] b0 25 21 [(2, r.toBits), (3, 0), (6, 0), (5, 0), (5, a.val)] ⟨b2, (Nat.two_pow_pos _), (Nat.two_pow_pos _), (Nat.two_pow_pos _), b1, trivial⟩ rfl rfl
  have e26 := bits_pack 6 30 [] (by decide) 31 26 [(2, r.toBits), (3, 0), (6, 0), (5, 0), (5, a.val), (5, d.val)] ⟨b2, (Nat.two_pow_pos _), (Nat.two_pow_pos _), (Nat.two_pow_pos _), b1, b0, trivial⟩ rfl rfl
  simp only [List.nil_append, List.cons_append] at e0 e2 e5 e11 e16 e21 e26
  have hl : pack [(2, r.toBits), (3, 0), (6, 0), (5, 0), (5, a.val), (5, d.val), (6, 30)] < 2 ^ 32 := pack_lt [(2, r.toBits), (3, 0), (6, 0), (5, 0), (5, a.val), (5, d.val), (6, 30)] ⟨b2, (Nat.two_pow_pos _), (Nat.two_pow_pos _), (Nat.two_pow_pos _), b1, b0, (by decide), trivial⟩ rfl
  generalize pack [(2, r.toBits), (3, 0), (6, 0), (5, 0), (5, a.val), (5, d.val), (6, 30)] = wd at *
  refine decode_of wd hn.symm ?_ hw hl
  · rw [major_30 e26]; simp only [decodeVReduce, e5, e0, e2, e11, e16, e21, reduceIte, ofNat_val, Round.ofBits_toBits]

theorem Sys2Proof.Laws.Roundtrip.vredmax (d : Reg) (a : Reg) (t : Dom) : Statement (.vredmax d a t) := by
  intro _ hw
  have hn : ∀ x0 x1 x2 : Nat, pack [(2, 0), (1, x2), (2, 0), (6, 1), (5, 0), (5, x1), (5, x0), (6, 30)] = fields 0x78000020 [(x0, 21), (x1, 16), (x2, 2)] := by
    intros; simp only [pack_eq, packAt_cons, packAt_nil, Nat.reduceAdd, fields_cons, fields_nil]; omega
  replace hn := hn d.val a.val t.toBits
  have b0 := d.isLt
  have b1 := a.isLt
  have b2 := Dom.toBits_lt t
  have e0 := bits_pack 2 0 [(1, t.toBits), (2, 0), (6, 1), (5, 0), (5, a.val), (5, d.val), (6, 30)] (Nat.two_pow_pos _) 1 0 [] trivial rfl rfl
  have e2 := bits_pack 1 t.toBits [(2, 0), (6, 1), (5, 0), (5, a.val), (5, d.val), (6, 30)] b2 2 2 [(2, 0)] ⟨(Nat.two_pow_pos _), trivial⟩ rfl rfl
  have e3 := bits_pack 2 0 [(6, 1), (5, 0), (5, a.val), (5, d.val), (6, 30)] (Nat.two_pow_pos _) 4 3 [(2, 0), (1, t.toBits)] ⟨(Nat.two_pow_pos _), b2, trivial⟩ rfl rfl
  have e5 := bits_pack 6 1 [(5, 0), (5, a.val), (5, d.val), (6, 30)] (by decide) 10 5 [(2, 0), (1, t.toBits), (2, 0)] ⟨(Nat.two_pow_pos _), b2, (Nat.two_pow_pos _), trivial⟩ rfl rfl
  have e11 := bits_pack 5 0 [(5, a.val), (5, d.val), (6, 30)] (Nat.two_pow_pos _) 15 11 [(2, 0), (1, t.toBits), (2, 0), (6, 1)] ⟨(Nat.two_pow_pos _), b2, (Nat.two_pow_pos _), (by decide), trivial⟩ rfl rfl
  have e16 := bits_pack 5 a.val [(5, d.val), (6, 30)] b1 20 16 [(2, 0), (1, t.toBits), (2, 0), (6, 1), (5, 0)] ⟨(Nat.two_pow_pos _), b2, (Nat.two_pow_pos _), (by decide), (Nat.two_pow_pos _), trivial⟩ rfl rfl
  have e21 := bits_pack 5 d.val [(6, 30)] b0 25 21 [(2, 0), (1, t.toBits), (2, 0), (6, 1), (5, 0), (5, a.val)] ⟨(Nat.two_pow_pos _), b2, (Nat.two_pow_pos _), (by decide), (Nat.two_pow_pos _), b1, trivial⟩ rfl rfl
  have e26 := bits_pack 6 30 [] (by decide) 31 26 [(2, 0), (1, t.toBits), (2, 0), (6, 1), (5, 0), (5, a.val), (5, d.val)] ⟨(Nat.two_pow_pos _), b2, (Nat.two_pow_pos _), (by decide), (Nat.two_pow_pos _), b1, b0, trivial⟩ rfl rfl
  simp only [List.nil_append, List.cons_append] at e0 e2 e3 e5 e11 e16 e21 e26
  have hl : pack [(2, 0), (1, t.toBits), (2, 0), (6, 1), (5, 0), (5, a.val), (5, d.val), (6, 30)] < 2 ^ 32 := pack_lt [(2, 0), (1, t.toBits), (2, 0), (6, 1), (5, 0), (5, a.val), (5, d.val), (6, 30)] ⟨(Nat.two_pow_pos _), b2, (Nat.two_pow_pos _), (by decide), (Nat.two_pow_pos _), b1, b0, (by decide), trivial⟩ rfl
  generalize pack [(2, 0), (1, t.toBits), (2, 0), (6, 1), (5, 0), (5, a.val), (5, d.val), (6, 30)] = wd at *
  refine decode_of wd hn.symm ?_ hw hl
  · rw [major_30 e26]; simp only [decodeVReduce, e5, e0, e2, e3, e11, e16, e21, reduceIte, ofNat_val, Dom.ofBits_toBits]

theorem Sys2Proof.Laws.Roundtrip.vredmin (d : Reg) (a : Reg) (t : Dom) : Statement (.vredmin d a t) := by
  intro _ hw
  have hn : ∀ x0 x1 x2 : Nat, pack [(2, 0), (1, x2), (2, 0), (6, 2), (5, 0), (5, x1), (5, x0), (6, 30)] = fields 0x78000040 [(x0, 21), (x1, 16), (x2, 2)] := by
    intros; simp only [pack_eq, packAt_cons, packAt_nil, Nat.reduceAdd, fields_cons, fields_nil]; omega
  replace hn := hn d.val a.val t.toBits
  have b0 := d.isLt
  have b1 := a.isLt
  have b2 := Dom.toBits_lt t
  have e0 := bits_pack 2 0 [(1, t.toBits), (2, 0), (6, 2), (5, 0), (5, a.val), (5, d.val), (6, 30)] (Nat.two_pow_pos _) 1 0 [] trivial rfl rfl
  have e2 := bits_pack 1 t.toBits [(2, 0), (6, 2), (5, 0), (5, a.val), (5, d.val), (6, 30)] b2 2 2 [(2, 0)] ⟨(Nat.two_pow_pos _), trivial⟩ rfl rfl
  have e3 := bits_pack 2 0 [(6, 2), (5, 0), (5, a.val), (5, d.val), (6, 30)] (Nat.two_pow_pos _) 4 3 [(2, 0), (1, t.toBits)] ⟨(Nat.two_pow_pos _), b2, trivial⟩ rfl rfl
  have e5 := bits_pack 6 2 [(5, 0), (5, a.val), (5, d.val), (6, 30)] (by decide) 10 5 [(2, 0), (1, t.toBits), (2, 0)] ⟨(Nat.two_pow_pos _), b2, (Nat.two_pow_pos _), trivial⟩ rfl rfl
  have e11 := bits_pack 5 0 [(5, a.val), (5, d.val), (6, 30)] (Nat.two_pow_pos _) 15 11 [(2, 0), (1, t.toBits), (2, 0), (6, 2)] ⟨(Nat.two_pow_pos _), b2, (Nat.two_pow_pos _), (by decide), trivial⟩ rfl rfl
  have e16 := bits_pack 5 a.val [(5, d.val), (6, 30)] b1 20 16 [(2, 0), (1, t.toBits), (2, 0), (6, 2), (5, 0)] ⟨(Nat.two_pow_pos _), b2, (Nat.two_pow_pos _), (by decide), (Nat.two_pow_pos _), trivial⟩ rfl rfl
  have e21 := bits_pack 5 d.val [(6, 30)] b0 25 21 [(2, 0), (1, t.toBits), (2, 0), (6, 2), (5, 0), (5, a.val)] ⟨(Nat.two_pow_pos _), b2, (Nat.two_pow_pos _), (by decide), (Nat.two_pow_pos _), b1, trivial⟩ rfl rfl
  have e26 := bits_pack 6 30 [] (by decide) 31 26 [(2, 0), (1, t.toBits), (2, 0), (6, 2), (5, 0), (5, a.val), (5, d.val)] ⟨(Nat.two_pow_pos _), b2, (Nat.two_pow_pos _), (by decide), (Nat.two_pow_pos _), b1, b0, trivial⟩ rfl rfl
  simp only [List.nil_append, List.cons_append] at e0 e2 e3 e5 e11 e16 e21 e26
  have hl : pack [(2, 0), (1, t.toBits), (2, 0), (6, 2), (5, 0), (5, a.val), (5, d.val), (6, 30)] < 2 ^ 32 := pack_lt [(2, 0), (1, t.toBits), (2, 0), (6, 2), (5, 0), (5, a.val), (5, d.val), (6, 30)] ⟨(Nat.two_pow_pos _), b2, (Nat.two_pow_pos _), (by decide), (Nat.two_pow_pos _), b1, b0, (by decide), trivial⟩ rfl
  generalize pack [(2, 0), (1, t.toBits), (2, 0), (6, 2), (5, 0), (5, a.val), (5, d.val), (6, 30)] = wd at *
  refine decode_of wd hn.symm ?_ hw hl
  · rw [major_30 e26]; simp only [decodeVReduce, e5, e0, e2, e3, e11, e16, e21, reduceIte, ofNat_val, Dom.ofBits_toBits]

theorem Sys2Proof.Laws.Roundtrip.vpopc (d : Reg) (a : Reg) : Statement (.vpopc d a) := by
  intro _ hw
  have hn : ∀ x0 x1 : Nat, pack [(5, 0), (6, 3), (5, 0), (5, x1), (5, x0), (6, 30)] = fields 0x78000060 [(x0, 21), (x1, 16)] := by
    intros; simp only [pack_eq, packAt_cons, packAt_nil, Nat.reduceAdd, fields_cons, fields_nil]; omega
  replace hn := hn d.val a.val
  have b0 := d.isLt
  have b1 := a.isLt
  have e0 := bits_pack 5 0 [(6, 3), (5, 0), (5, a.val), (5, d.val), (6, 30)] (Nat.two_pow_pos _) 4 0 [] trivial rfl rfl
  have e5 := bits_pack 6 3 [(5, 0), (5, a.val), (5, d.val), (6, 30)] (by decide) 10 5 [(5, 0)] ⟨(Nat.two_pow_pos _), trivial⟩ rfl rfl
  have e11 := bits_pack 5 0 [(5, a.val), (5, d.val), (6, 30)] (Nat.two_pow_pos _) 15 11 [(5, 0), (6, 3)] ⟨(Nat.two_pow_pos _), (by decide), trivial⟩ rfl rfl
  have e16 := bits_pack 5 a.val [(5, d.val), (6, 30)] b1 20 16 [(5, 0), (6, 3), (5, 0)] ⟨(Nat.two_pow_pos _), (by decide), (Nat.two_pow_pos _), trivial⟩ rfl rfl
  have e21 := bits_pack 5 d.val [(6, 30)] b0 25 21 [(5, 0), (6, 3), (5, 0), (5, a.val)] ⟨(Nat.two_pow_pos _), (by decide), (Nat.two_pow_pos _), b1, trivial⟩ rfl rfl
  have e26 := bits_pack 6 30 [] (by decide) 31 26 [(5, 0), (6, 3), (5, 0), (5, a.val), (5, d.val)] ⟨(Nat.two_pow_pos _), (by decide), (Nat.two_pow_pos _), b1, b0, trivial⟩ rfl rfl
  simp only [List.nil_append, List.cons_append] at e0 e5 e11 e16 e21 e26
  have hl : pack [(5, 0), (6, 3), (5, 0), (5, a.val), (5, d.val), (6, 30)] < 2 ^ 32 := pack_lt [(5, 0), (6, 3), (5, 0), (5, a.val), (5, d.val), (6, 30)] ⟨(Nat.two_pow_pos _), (by decide), (Nat.two_pow_pos _), b1, b0, (by decide), trivial⟩ rfl
  generalize pack [(5, 0), (6, 3), (5, 0), (5, a.val), (5, d.val), (6, 30)] = wd at *
  refine decode_of wd hn.symm ?_ hw hl
  · rw [major_30 e26]; simp only [decodeVReduce, e5, e0, e11, e16, e21, reduceIte, ofNat_val]

theorem Sys2Proof.Laws.Roundtrip.vffs (d : Reg) (a : Reg) : Statement (.vffs d a) := by
  intro _ hw
  have hn : ∀ x0 x1 : Nat, pack [(5, 0), (6, 4), (5, 0), (5, x1), (5, x0), (6, 30)] = fields 0x78000080 [(x0, 21), (x1, 16)] := by
    intros; simp only [pack_eq, packAt_cons, packAt_nil, Nat.reduceAdd, fields_cons, fields_nil]; omega
  replace hn := hn d.val a.val
  have b0 := d.isLt
  have b1 := a.isLt
  have e0 := bits_pack 5 0 [(6, 4), (5, 0), (5, a.val), (5, d.val), (6, 30)] (Nat.two_pow_pos _) 4 0 [] trivial rfl rfl
  have e5 := bits_pack 6 4 [(5, 0), (5, a.val), (5, d.val), (6, 30)] (by decide) 10 5 [(5, 0)] ⟨(Nat.two_pow_pos _), trivial⟩ rfl rfl
  have e11 := bits_pack 5 0 [(5, a.val), (5, d.val), (6, 30)] (Nat.two_pow_pos _) 15 11 [(5, 0), (6, 4)] ⟨(Nat.two_pow_pos _), (by decide), trivial⟩ rfl rfl
  have e16 := bits_pack 5 a.val [(5, d.val), (6, 30)] b1 20 16 [(5, 0), (6, 4), (5, 0)] ⟨(Nat.two_pow_pos _), (by decide), (Nat.two_pow_pos _), trivial⟩ rfl rfl
  have e21 := bits_pack 5 d.val [(6, 30)] b0 25 21 [(5, 0), (6, 4), (5, 0), (5, a.val)] ⟨(Nat.two_pow_pos _), (by decide), (Nat.two_pow_pos _), b1, trivial⟩ rfl rfl
  have e26 := bits_pack 6 30 [] (by decide) 31 26 [(5, 0), (6, 4), (5, 0), (5, a.val), (5, d.val)] ⟨(Nat.two_pow_pos _), (by decide), (Nat.two_pow_pos _), b1, b0, trivial⟩ rfl rfl
  simp only [List.nil_append, List.cons_append] at e0 e5 e11 e16 e21 e26
  have hl : pack [(5, 0), (6, 4), (5, 0), (5, a.val), (5, d.val), (6, 30)] < 2 ^ 32 := pack_lt [(5, 0), (6, 4), (5, 0), (5, a.val), (5, d.val), (6, 30)] ⟨(Nat.two_pow_pos _), (by decide), (Nat.two_pow_pos _), b1, b0, (by decide), trivial⟩ rfl
  generalize pack [(5, 0), (6, 4), (5, 0), (5, a.val), (5, d.val), (6, 30)] = wd at *
  refine decode_of wd hn.symm ?_ hw hl
  · rw [major_30 e26]; simp only [decodeVReduce, e5, e0, e11, e16, e21, reduceIte, ofNat_val]

theorem Sys2Proof.Laws.Roundtrip.vcvt (d : Reg) (a : Reg) (r : Round) : Statement (.vcvt d a r) := by
  intro _ hw
  have hn : ∀ x0 x1 x2 : Nat, pack [(2, x2), (3, 0), (6, 0), (5, 0), (5, x1), (5, x0), (6, 31)] = fields 0x7C000000 [(x0, 21), (x1, 16), (x2, 0)] := by
    intros; simp only [pack_eq, packAt_cons, packAt_nil, Nat.reduceAdd, fields_cons, fields_nil]; omega
  replace hn := hn d.val a.val r.toBits
  have b0 := d.isLt
  have b1 := a.isLt
  have b2 := Round.toBits_lt r
  have e0 := bits_pack 2 r.toBits [(3, 0), (6, 0), (5, 0), (5, a.val), (5, d.val), (6, 31)] b2 1 0 [] trivial rfl rfl
  have e2 := bits_pack 3 0 [(6, 0), (5, 0), (5, a.val), (5, d.val), (6, 31)] (Nat.two_pow_pos _) 4 2 [(2, r.toBits)] ⟨b2, trivial⟩ rfl rfl
  have e5 := bits_pack 6 0 [(5, 0), (5, a.val), (5, d.val), (6, 31)] (Nat.two_pow_pos _) 10 5 [(2, r.toBits), (3, 0)] ⟨b2, (Nat.two_pow_pos _), trivial⟩ rfl rfl
  have e11 := bits_pack 5 0 [(5, a.val), (5, d.val), (6, 31)] (Nat.two_pow_pos _) 15 11 [(2, r.toBits), (3, 0), (6, 0)] ⟨b2, (Nat.two_pow_pos _), (Nat.two_pow_pos _), trivial⟩ rfl rfl
  have e16 := bits_pack 5 a.val [(5, d.val), (6, 31)] b1 20 16 [(2, r.toBits), (3, 0), (6, 0), (5, 0)] ⟨b2, (Nat.two_pow_pos _), (Nat.two_pow_pos _), (Nat.two_pow_pos _), trivial⟩ rfl rfl
  have e21 := bits_pack 5 d.val [(6, 31)] b0 25 21 [(2, r.toBits), (3, 0), (6, 0), (5, 0), (5, a.val)] ⟨b2, (Nat.two_pow_pos _), (Nat.two_pow_pos _), (Nat.two_pow_pos _), b1, trivial⟩ rfl rfl
  have e26 := bits_pack 6 31 [] (by decide) 31 26 [(2, r.toBits), (3, 0), (6, 0), (5, 0), (5, a.val), (5, d.val)] ⟨b2, (Nat.two_pow_pos _), (Nat.two_pow_pos _), (Nat.two_pow_pos _), b1, b0, trivial⟩ rfl rfl
  simp only [List.nil_append, List.cons_append] at e0 e2 e5 e11 e16 e21 e26
  have hl : pack [(2, r.toBits), (3, 0), (6, 0), (5, 0), (5, a.val), (5, d.val), (6, 31)] < 2 ^ 32 := pack_lt [(2, r.toBits), (3, 0), (6, 0), (5, 0), (5, a.val), (5, d.val), (6, 31)] ⟨b2, (Nat.two_pow_pos _), (Nat.two_pow_pos _), (Nat.two_pow_pos _), b1, b0, (by decide), trivial⟩ rfl
  generalize pack [(2, r.toBits), (3, 0), (6, 0), (5, 0), (5, a.val), (5, d.val), (6, 31)] = wd at *
  refine decode_of wd hn.symm ?_ hw hl
  · rw [major_31 e26]; simp only [decodeVConvert, e5, e0, e2, e11, e16, e21, reduceIte, ofNat_val, Round.ofBits_toBits]

theorem Sys2Proof.Laws.Roundtrip.vqnt (d : Reg) (a : Reg) (b : Reg) : Statement (.vqnt d a b) := by
  intro _ hw
  have hn : ∀ x0 x1 x2 : Nat, pack [(5, 0), (6, 1), (5, x2), (5, x1), (5, x0), (6, 31)] = fields 0x7C000020 [(x0, 21), (x1, 16), (x2, 11)] := by
    intros; simp only [pack_eq, packAt_cons, packAt_nil, Nat.reduceAdd, fields_cons, fields_nil]; omega
  replace hn := hn d.val a.val b.val
  have b0 := d.isLt
  have b1 := a.isLt
  have b2 := b.isLt
  have e0 := bits_pack 5 0 [(6, 1), (5, b.val), (5, a.val), (5, d.val), (6, 31)] (Nat.two_pow_pos _) 4 0 [] trivial rfl rfl
  have e5 := bits_pack 6 1 [(5, b.val), (5, a.val), (5, d.val), (6, 31)] (by decide) 10 5 [(5, 0)] ⟨(Nat.two_pow_pos _), trivial⟩ rfl rfl
  have e11 := bits_pack 5 b.val [(5, a.val), (5, d.val), (6, 31)] b2 15 11 [(5, 0), (6, 1)] ⟨(Nat.two_pow_pos _), (by decide), trivial⟩ rfl rfl
  have e16 := bits_pack 5 a.val [(5, d.val), (6, 31)] b1 20 16 [(5, 0), (6, 1), (5, b.val)] ⟨(Nat.two_pow_pos _), (by decide), b2, trivial⟩ rfl rfl
  have e21 := bits_pack 5 d.val [(6, 31)] b0 25 21 [(5, 0), (6, 1), (5, b.val), (5, a.val)] ⟨(Nat.two_pow_pos _), (by decide), b2, b1, trivial⟩ rfl rfl
  have e26 := bits_pack 6 31 [] (by decide) 31 26 [(5, 0), (6, 1), (5, b.val), (5, a.val), (5, d.val)] ⟨(Nat.two_pow_pos _), (by decide), b2, b1, b0, trivial⟩ rfl rfl
  simp only [List.nil_append, List.cons_append] at e0 e5 e11 e16 e21 e26
  have hl : pack [(5, 0), (6, 1), (5, b.val), (5, a.val), (5, d.val), (6, 31)] < 2 ^ 32 := pack_lt [(5, 0), (6, 1), (5, b.val), (5, a.val), (5, d.val), (6, 31)] ⟨(Nat.two_pow_pos _), (by decide), b2, b1, b0, (by decide), trivial⟩ rfl
  generalize pack [(5, 0), (6, 1), (5, b.val), (5, a.val), (5, d.val), (6, 31)] = wd at *
  refine decode_of wd hn.symm ?_ hw hl
  · rw [major_31 e26]; simp only [decodeVConvert, e5, e0, e11, e16, e21, reduceIte, ofNat_val]

theorem Sys2Proof.Laws.Roundtrip.vdqnt (d : Reg) (a : Reg) (b : Reg) : Statement (.vdqnt d a b) := by
  intro _ hw
  have hn : ∀ x0 x1 x2 : Nat, pack [(5, 0), (6, 2), (5, x2), (5, x1), (5, x0), (6, 31)] = fields 0x7C000040 [(x0, 21), (x1, 16), (x2, 11)] := by
    intros; simp only [pack_eq, packAt_cons, packAt_nil, Nat.reduceAdd, fields_cons, fields_nil]; omega
  replace hn := hn d.val a.val b.val
  have b0 := d.isLt
  have b1 := a.isLt
  have b2 := b.isLt
  have e0 := bits_pack 5 0 [(6, 2), (5, b.val), (5, a.val), (5, d.val), (6, 31)] (Nat.two_pow_pos _) 4 0 [] trivial rfl rfl
  have e5 := bits_pack 6 2 [(5, b.val), (5, a.val), (5, d.val), (6, 31)] (by decide) 10 5 [(5, 0)] ⟨(Nat.two_pow_pos _), trivial⟩ rfl rfl
  have e11 := bits_pack 5 b.val [(5, a.val), (5, d.val), (6, 31)] b2 15 11 [(5, 0), (6, 2)] ⟨(Nat.two_pow_pos _), (by decide), trivial⟩ rfl rfl
  have e16 := bits_pack 5 a.val [(5, d.val), (6, 31)] b1 20 16 [(5, 0), (6, 2), (5, b.val)] ⟨(Nat.two_pow_pos _), (by decide), b2, trivial⟩ rfl rfl
  have e21 := bits_pack 5 d.val [(6, 31)] b0 25 21 [(5, 0), (6, 2), (5, b.val), (5, a.val)] ⟨(Nat.two_pow_pos _), (by decide), b2, b1, trivial⟩ rfl rfl
  have e26 := bits_pack 6 31 [] (by decide) 31 26 [(5, 0), (6, 2), (5, b.val), (5, a.val), (5, d.val)] ⟨(Nat.two_pow_pos _), (by decide), b2, b1, b0, trivial⟩ rfl rfl
  simp only [List.nil_append, List.cons_append] at e0 e5 e11 e16 e21 e26
  have hl : pack [(5, 0), (6, 2), (5, b.val), (5, a.val), (5, d.val), (6, 31)] < 2 ^ 32 := pack_lt [(5, 0), (6, 2), (5, b.val), (5, a.val), (5, d.val), (6, 31)] ⟨(Nat.two_pow_pos _), (by decide), b2, b1, b0, (by decide), trivial⟩ rfl
  generalize pack [(5, 0), (6, 2), (5, b.val), (5, a.val), (5, d.val), (6, 31)] = wd at *
  refine decode_of wd hn.symm ?_ hw hl
  · rw [major_31 e26]; simp only [decodeVConvert, e5, e0, e11, e16, e21, reduceIte, ofNat_val]

theorem Sys2Proof.Laws.Roundtrip.mzero (t : Fin 16) (e : Fin 2) : Statement (.mzero t e) := by
  intro _ hw
  have hn : ∀ x0 x1 : Nat, pack [(7, 0), (1, x1), (14, 0), (4, x0), (6, 32)] = fields 0x80000000 [(x0, 22), (x1, 7)] := by
    intros; simp only [pack_eq, packAt_cons, packAt_nil, Nat.reduceAdd, fields_cons, fields_nil]; omega
  replace hn := hn t.val e.val
  have b0 := t.isLt
  have b1 := e.isLt
  have e0 := bits_pack 7 0 [(1, e.val), (14, 0), (4, t.val), (6, 32)] (Nat.two_pow_pos _) 6 0 [] trivial rfl rfl
  have e7 := bits_pack 1 e.val [(14, 0), (4, t.val), (6, 32)] b1 7 7 [(7, 0)] ⟨(Nat.two_pow_pos _), trivial⟩ rfl rfl
  have e8 := bits_pack 14 0 [(4, t.val), (6, 32)] (Nat.two_pow_pos _) 21 8 [(7, 0), (1, e.val)] ⟨(Nat.two_pow_pos _), b1, trivial⟩ rfl rfl
  have e22 := bits_pack 4 t.val [(6, 32)] b0 25 22 [(7, 0), (1, e.val), (14, 0)] ⟨(Nat.two_pow_pos _), b1, (Nat.two_pow_pos _), trivial⟩ rfl rfl
  have e26 := bits_pack 6 32 [] (by decide) 31 26 [(7, 0), (1, e.val), (14, 0), (4, t.val)] ⟨(Nat.two_pow_pos _), b1, (Nat.two_pow_pos _), b0, trivial⟩ rfl rfl
  simp only [List.nil_append, List.cons_append] at e0 e7 e8 e22 e26
  have hl : pack [(7, 0), (1, e.val), (14, 0), (4, t.val), (6, 32)] < 2 ^ 32 := pack_lt [(7, 0), (1, e.val), (14, 0), (4, t.val), (6, 32)] ⟨(Nat.two_pow_pos _), b1, (Nat.two_pow_pos _), b0, (by decide), trivial⟩ rfl
  generalize pack [(7, 0), (1, e.val), (14, 0), (4, t.val), (6, 32)] = wd at *
  refine decode_of wd hn.symm ?_ hw hl
  · rw [major_32 e26]; simp only [decodeTile0, e0, e7, e8, e22, reduceIte, ofNat_val]

theorem Sys2Proof.Laws.Roundtrip.manchor (t : Fin 16) (k : Fin 256) (e : Fin 2) : Statement (.manchor t k e) := by
  intro _ hw
  have hn : ∀ x0 x1 x2 : Nat, pack [(7, 1), (1, x2), (8, x1), (6, 0), (4, x0), (6, 32)] = fields 0x80000001 [(x0, 22), (x1, 8), (x2, 7)] := by
    intros; simp only [pack_eq, packAt_cons, packAt_nil, Nat.reduceAdd, fields_cons, fields_nil]; omega
  replace hn := hn t.val k.val e.val
  have b0 := t.isLt
  have b1 := k.isLt
  have b2 := e.isLt
  have e0 := bits_pack 7 1 [(1, e.val), (8, k.val), (6, 0), (4, t.val), (6, 32)] (by decide) 6 0 [] trivial rfl rfl
  have e7 := bits_pack 1 e.val [(8, k.val), (6, 0), (4, t.val), (6, 32)] b2 7 7 [(7, 1)] ⟨(by decide), trivial⟩ rfl rfl
  have e8 := bits_pack 8 k.val [(6, 0), (4, t.val), (6, 32)] b1 15 8 [(7, 1), (1, e.val)] ⟨(by decide), b2, trivial⟩ rfl rfl
  have e16 := bits_pack 6 0 [(4, t.val), (6, 32)] (Nat.two_pow_pos _) 21 16 [(7, 1), (1, e.val), (8, k.val)] ⟨(by decide), b2, b1, trivial⟩ rfl rfl
  have e22 := bits_pack 4 t.val [(6, 32)] b0 25 22 [(7, 1), (1, e.val), (8, k.val), (6, 0)] ⟨(by decide), b2, b1, (Nat.two_pow_pos _), trivial⟩ rfl rfl
  have e26 := bits_pack 6 32 [] (by decide) 31 26 [(7, 1), (1, e.val), (8, k.val), (6, 0), (4, t.val)] ⟨(by decide), b2, b1, (Nat.two_pow_pos _), b0, trivial⟩ rfl rfl
  simp only [List.nil_append, List.cons_append] at e0 e7 e8 e16 e22 e26
  have hl : pack [(7, 1), (1, e.val), (8, k.val), (6, 0), (4, t.val), (6, 32)] < 2 ^ 32 := pack_lt [(7, 1), (1, e.val), (8, k.val), (6, 0), (4, t.val), (6, 32)] ⟨(by decide), b2, b1, (Nat.two_pow_pos _), b0, (by decide), trivial⟩ rfl
  generalize pack [(7, 1), (1, e.val), (8, k.val), (6, 0), (4, t.val), (6, 32)] = wd at *
  refine decode_of wd hn.symm ?_ hw hl
  · rw [major_32 e26]; simp only [decodeTile0, e0, e7, e8, e16, e22, reduceIte, ofNat_val]

theorem Sys2Proof.Laws.Roundtrip.mma (t : Fin 16) (a : PReg) (b : PReg) (k : Fin 256) (e : Fin 2) : Statement (.mma t a b k e) := by
  intro _ hw
  have hn : ∀ x0 x1 x2 x3 x4 : Nat, pack [(7, 2), (1, x4), (8, x3), (3, x2), (3, x1), (4, x0), (6, 32)] = fields 0x80000002 [(x0, 22), (x1, 19), (x2, 16), (x3, 8), (x4, 7)] := by
    intros; simp only [pack_eq, packAt_cons, packAt_nil, Nat.reduceAdd, fields_cons, fields_nil]; omega
  replace hn := hn t.val a.val b.val k.val e.val
  have b0 := t.isLt
  have b1 := a.isLt
  have b2 := b.isLt
  have b3 := k.isLt
  have b4 := e.isLt
  have e0 := bits_pack 7 2 [(1, e.val), (8, k.val), (3, b.val), (3, a.val), (4, t.val), (6, 32)] (by decide) 6 0 [] trivial rfl rfl
  have e7 := bits_pack 1 e.val [(8, k.val), (3, b.val), (3, a.val), (4, t.val), (6, 32)] b4 7 7 [(7, 2)] ⟨(by decide), trivial⟩ rfl rfl
  have e8 := bits_pack 8 k.val [(3, b.val), (3, a.val), (4, t.val), (6, 32)] b3 15 8 [(7, 2), (1, e.val)] ⟨(by decide), b4, trivial⟩ rfl rfl
  have e16 := bits_pack 3 b.val [(3, a.val), (4, t.val), (6, 32)] b2 18 16 [(7, 2), (1, e.val), (8, k.val)] ⟨(by decide), b4, b3, trivial⟩ rfl rfl
  have e19 := bits_pack 3 a.val [(4, t.val), (6, 32)] b1 21 19 [(7, 2), (1, e.val), (8, k.val), (3, b.val)] ⟨(by decide), b4, b3, b2, trivial⟩ rfl rfl
  have e22 := bits_pack 4 t.val [(6, 32)] b0 25 22 [(7, 2), (1, e.val), (8, k.val), (3, b.val), (3, a.val)] ⟨(by decide), b4, b3, b2, b1, trivial⟩ rfl rfl
  have e26 := bits_pack 6 32 [] (by decide) 31 26 [(7, 2), (1, e.val), (8, k.val), (3, b.val), (3, a.val), (4, t.val)] ⟨(by decide), b4, b3, b2, b1, b0, trivial⟩ rfl rfl
  simp only [List.nil_append, List.cons_append] at e0 e7 e8 e16 e19 e22 e26
  have hl : pack [(7, 2), (1, e.val), (8, k.val), (3, b.val), (3, a.val), (4, t.val), (6, 32)] < 2 ^ 32 := pack_lt [(7, 2), (1, e.val), (8, k.val), (3, b.val), (3, a.val), (4, t.val), (6, 32)] ⟨(by decide), b4, b3, b2, b1, b0, (by decide), trivial⟩ rfl
  generalize pack [(7, 2), (1, e.val), (8, k.val), (3, b.val), (3, a.val), (4, t.val), (6, 32)] = wd at *
  refine decode_of wd hn.symm ?_ hw hl
  · rw [major_32 e26]; simp only [decodeTile0, e0, e7, e8, e16, e19, e22, reduceIte, ofNat_val]

theorem Sys2Proof.Laws.Roundtrip.mmas (t : Fin 16) (a : PReg) (b : PReg) (k : Fin 256) (e : Fin 2) : Statement (.mmas t a b k e) := by
  intro _ hw
  have hn : ∀ x0 x1 x2 x3 x4 : Nat, pack [(7, 3), (1, x4), (8, x3), (3, x2), (3, x1), (4, x0), (6, 32)] = fields 0x80000003 [(x0, 22), (x1, 19), (x2, 16), (x3, 8), (x4, 7)] := by
    intros; simp only [pack_eq, packAt_cons, packAt_nil, Nat.reduceAdd, fields_cons, fields_nil]; omega
  replace hn := hn t.val a.val b.val k.val e.val
  have b0 := t.isLt
  have b1 := a.isLt
  have b2 := b.isLt
  have b3 := k.isLt
  have b4 := e.isLt
  have e0 := bits_pack 7 3 [(1, e.val), (8, k.val), (3, b.val), (3, a.val), (4, t.val), (6, 32)] (by decide) 6 0 [] trivial rfl rfl
  have e7 := bits_pack 1 e.val [(8, k.val), (3, b.val), (3, a.val), (4, t.val), (6, 32)] b4 7 7 [(7, 3)] ⟨(by decide), trivial⟩ rfl rfl
  have e8 := bits_pack 8 k.val [(3, b.val), (3, a.val), (4, t.val), (6, 32)] b3 15 8 [(7, 3), (1, e.val)] ⟨(by decide), b4, trivial⟩ rfl rfl
  have e16 := bits_pack 3 b.val [(3, a.val), (4, t.val), (6, 32)] b2 18 16 [(7, 3), (1, e.val), (8, k.val)] ⟨(by decide), b4, b3, trivial⟩ rfl rfl
  have e19 := bits_pack 3 a.val [(4, t.val), (6, 32)] b1 21 19 [(7, 3), (1, e.val), (8, k.val), (3, b.val)] ⟨(by decide), b4, b3, b2, trivial⟩ rfl rfl
  have e22 := bits_pack 4 t.val [(6, 32)] b0 25 22 [(7, 3), (1, e.val), (8, k.val), (3, b.val), (3, a.val)] ⟨(by decide), b4, b3, b2, b1, trivial⟩ rfl rfl
  have e26 := bits_pack 6 32 [] (by decide) 31 26 [(7, 3), (1, e.val), (8, k.val), (3, b.val), (3, a.val), (4, t.val)] ⟨(by decide), b4, b3, b2, b1, b0, trivial⟩ rfl rfl
  simp only [List.nil_append, List.cons_append] at e0 e7 e8 e16 e19 e22 e26
  have hl : pack [(7, 3), (1, e.val), (8, k.val), (3, b.val), (3, a.val), (4, t.val), (6, 32)] < 2 ^ 32 := pack_lt [(7, 3), (1, e.val), (8, k.val), (3, b.val), (3, a.val), (4, t.val), (6, 32)] ⟨(by decide), b4, b3, b2, b1, b0, (by decide), trivial⟩ rfl
  generalize pack [(7, 3), (1, e.val), (8, k.val), (3, b.val), (3, a.val), (4, t.val), (6, 32)] = wd at *
  refine decode_of wd hn.symm ?_ hw hl
  · rw [major_32 e26]; simp only [decodeTile0, e0, e7, e8, e16, e19, e22, reduceIte, ofNat_val]

theorem Sys2Proof.Laws.Roundtrip.mres (t : Fin 16) (a : PReg) (k : Fin 256) (e : Fin 2) : Statement (.mres t a k e) := by
  intro _ hw
  have hn : ∀ x0 x1 x2 x3 : Nat, pack [(7, 0), (1, x3), (8, x2), (3, 0), (3, x1), (4, x0), (6, 33)] = fields 0x84000000 [(x0, 22), (x1, 19), (x2, 8), (x3, 7)] := by
    intros; simp only [pack_eq, packAt_cons, packAt_nil, Nat.reduceAdd, fields_cons, fields_nil]; omega
  replace hn := hn t.val a.val k.val e.val
  have b0 := t.isLt
  have b1 := a.isLt
  have b2 := k.isLt
  have b3 := e.isLt
  have e0 := bits_pack 7 0 [(1, e.val), (8, k.val), (3, 0), (3, a.val), (4, t.val), (6, 33)] (Nat.two_pow_pos _) 6 0 [] trivial rfl rfl
  have e7 := bits_pack 1 e.val [(8, k.val), (3, 0), (3, a.val), (4, t.val), (6, 33)] b3 7 7 [(7, 0)] ⟨(Nat.two_pow_pos _), trivial⟩ rfl rfl
  have e8 := bits_pack 8 k.val [(3, 0), (3, a.val), (4, t.val), (6, 33)] b2 15 8 [(7, 0), (1, e.val)] ⟨(Nat.two_pow_pos _), b3, trivial⟩ rfl rfl
  have e16 := bits_pack 3 0 [(3, a.val), (4, t.val), (6, 33)] (Nat.two_pow_pos _) 18 16 [(7, 0), (1, e.val), (8, k.val)] ⟨(Nat.two_pow_pos _), b3, b2, trivial⟩ rfl rfl
  have e19 := bits_pack 3 a.val [(4, t.val), (6, 33)] b1 21 19 [(7, 0), (1, e.val), (8, k.val), (3, 0)] ⟨(Nat.two_pow_pos _), b3, b2, (Nat.two_pow_pos _), trivial⟩ rfl rfl
  have e22 := bits_pack 4 t.val [(6, 33)] b0 25 22 [(7, 0), (1, e.val), (8, k.val), (3, 0), (3, a.val)] ⟨(Nat.two_pow_pos _), b3, b2, (Nat.two_pow_pos _), b1, trivial⟩ rfl rfl
  have e26 := bits_pack 6 33 [] (by decide) 31 26 [(7, 0), (1, e.val), (8, k.val), (3, 0), (3, a.val), (4, t.val)] ⟨(Nat.two_pow_pos _), b3, b2, (Nat.two_pow_pos _), b1, b0, trivial⟩ rfl rfl
  simp only [List.nil_append, List.cons_append] at e0 e7 e8 e16 e19 e22 e26
  have hl : pack [(7, 0), (1, e.val), (8, k.val), (3, 0), (3, a.val), (4, t.val), (6, 33)] < 2 ^ 32 := pack_lt [(7, 0), (1, e.val), (8, k.val), (3, 0), (3, a.val), (4, t.val), (6, 33)] ⟨(Nat.two_pow_pos _), b3, b2, (Nat.two_pow_pos _), b1, b0, (by decide), trivial⟩ rfl
  generalize pack [(7, 0), (1, e.val), (8, k.val), (3, 0), (3, a.val), (4, t.val), (6, 33)] = wd at *
  refine decode_of wd hn.symm ?_ hw hl
  · rw [major_33 e26]; simp only [decodeTile1, e0, e7, e8, e16, e19, e22, reduceIte, ofNat_val]

theorem Sys2Proof.Laws.Roundtrip.mresc (t : Fin 16) (e : Fin 2) : Statement (.mresc t e) := by
  intro _ hw
  have hn : ∀ x0 x1 : Nat, pack [(7, 1), (1, x1), (14, 0), (4, x0), (6, 33)] = fields 0x84000001 [(x0, 22), (x1, 7)] := by
    intros; simp only [pack_eq, packAt_cons, packAt_nil, Nat.reduceAdd, fields_cons, fields_nil]; omega
  replace hn := hn t.val e.val
  have b0 := t.isLt
  have b1 := e.isLt
  have e0 := bits_pack 7 1 [(1, e.val), (14, 0), (4, t.val), (6, 33)] (by decide) 6 0 [] trivial rfl rfl
  have e7 := bits_pack 1 e.val [(14, 0), (4, t.val), (6, 33)] b1 7 7 [(7, 1)] ⟨(by decide), trivial⟩ rfl rfl
  have e8 := bits_pack 14 0 [(4, t.val), (6, 33)] (Nat.two_pow_pos _) 21 8 [(7, 1), (1, e.val)] ⟨(by decide), b1, trivial⟩ rfl rfl
  have e22 := bits_pack 4 t.val [(6, 33)] b0 25 22 [(7, 1), (1, e.val), (14, 0)] ⟨(by decide), b1, (Nat.two_pow_pos _), trivial⟩ rfl rfl
  have e26 := bits_pack 6 33 [] (by decide) 31 26 [(7, 1), (1, e.val), (14, 0), (4, t.val)] ⟨(by decide), b1, (Nat.two_pow_pos _), b0, trivial⟩ rfl rfl
  simp only [List.nil_append, List.cons_append] at e0 e7 e8 e22 e26
  have hl : pack [(7, 1), (1, e.val), (14, 0), (4, t.val), (6, 33)] < 2 ^ 32 := pack_lt [(7, 1), (1, e.val), (14, 0), (4, t.val), (6, 33)] ⟨(by decide), b1, (Nat.two_pow_pos _), b0, (by decide), trivial⟩ rfl
  generalize pack [(7, 1), (1, e.val), (14, 0), (4, t.val), (6, 33)] = wd at *
  refine decode_of wd hn.symm ?_ hw hl
  · rw [major_33 e26]; simp only [decodeTile1, e0, e7, e8, e22, reduceIte, ofNat_val]

theorem Sys2Proof.Laws.Roundtrip.mrd (t : Fin 16) (d : Reg) (k : Fin 256) (e : Fin 2) : Statement (.mrd t d k e) := by
  intro _ hw
  have hn : ∀ x0 x1 x2 x3 : Nat, pack [(7, 2), (1, x3), (8, x2), (5, x1), (1, 0), (4, x0), (6, 33)] = fields 0x84000002 [(x0, 22), (x1, 16), (x2, 8), (x3, 7)] := by
    intros; simp only [pack_eq, packAt_cons, packAt_nil, Nat.reduceAdd, fields_cons, fields_nil]; omega
  replace hn := hn t.val d.val k.val e.val
  have b0 := t.isLt
  have b1 := d.isLt
  have b2 := k.isLt
  have b3 := e.isLt
  have e0 := bits_pack 7 2 [(1, e.val), (8, k.val), (5, d.val), (1, 0), (4, t.val), (6, 33)] (by decide) 6 0 [] trivial rfl rfl
  have e7 := bits_pack 1 e.val [(8, k.val), (5, d.val), (1, 0), (4, t.val), (6, 33)] b3 7 7 [(7, 2)] ⟨(by decide), trivial⟩ rfl rfl
  have e8 := bits_pack 8 k.val [(5, d.val), (1, 0), (4, t.val), (6, 33)] b2 15 8 [(7, 2), (1, e.val)] ⟨(by decide), b3, trivial⟩ rfl rfl
  have e16 := bits_pack 5 d.val [(1, 0), (4, t.val), (6, 33)] b1 20 16 [(7, 2), (1, e.val), (8, k.val)] ⟨(by decide), b3, b2, trivial⟩ rfl rfl
  have e21 := bits_pack 1 0 [(4, t.val), (6, 33)] (Nat.two_pow_pos _) 21 21 [(7, 2), (1, e.val), (8, k.val), (5, d.val)] ⟨(by decide), b3, b2, b1, trivial⟩ rfl rfl
  have e22 := bits_pack 4 t.val [(6, 33)] b0 25 22 [(7, 2), (1, e.val), (8, k.val), (5, d.val), (1, 0)] ⟨(by decide), b3, b2, b1, (Nat.two_pow_pos _), trivial⟩ rfl rfl
  have e26 := bits_pack 6 33 [] (by decide) 31 26 [(7, 2), (1, e.val), (8, k.val), (5, d.val), (1, 0), (4, t.val)] ⟨(by decide), b3, b2, b1, (Nat.two_pow_pos _), b0, trivial⟩ rfl rfl
  simp only [List.nil_append, List.cons_append] at e0 e7 e8 e16 e21 e22 e26
  have hl : pack [(7, 2), (1, e.val), (8, k.val), (5, d.val), (1, 0), (4, t.val), (6, 33)] < 2 ^ 32 := pack_lt [(7, 2), (1, e.val), (8, k.val), (5, d.val), (1, 0), (4, t.val), (6, 33)] ⟨(by decide), b3, b2, b1, (Nat.two_pow_pos _), b0, (by decide), trivial⟩ rfl
  generalize pack [(7, 2), (1, e.val), (8, k.val), (5, d.val), (1, 0), (4, t.val), (6, 33)] = wd at *
  refine decode_of wd hn.symm ?_ hw hl
  · rw [major_33 e26]; simp only [decodeTile1, e0, e7, e8, e16, e21, e22, reduceIte, ofNat_val]

theorem Sys2Proof.Laws.Roundtrip.mcmp (t : Fin 16) (d : Reg) (k : Fin 256) (e : Fin 2) : Statement (.mcmp t d k e) := by
  intro _ hw
  have hn : ∀ x0 x1 x2 x3 : Nat, pack [(7, 3), (1, x3), (8, x2), (5, x1), (1, 0), (4, x0), (6, 33)] = fields 0x84000003 [(x0, 22), (x1, 16), (x2, 8), (x3, 7)] := by
    intros; simp only [pack_eq, packAt_cons, packAt_nil, Nat.reduceAdd, fields_cons, fields_nil]; omega
  replace hn := hn t.val d.val k.val e.val
  have b0 := t.isLt
  have b1 := d.isLt
  have b2 := k.isLt
  have b3 := e.isLt
  have e0 := bits_pack 7 3 [(1, e.val), (8, k.val), (5, d.val), (1, 0), (4, t.val), (6, 33)] (by decide) 6 0 [] trivial rfl rfl
  have e7 := bits_pack 1 e.val [(8, k.val), (5, d.val), (1, 0), (4, t.val), (6, 33)] b3 7 7 [(7, 3)] ⟨(by decide), trivial⟩ rfl rfl
  have e8 := bits_pack 8 k.val [(5, d.val), (1, 0), (4, t.val), (6, 33)] b2 15 8 [(7, 3), (1, e.val)] ⟨(by decide), b3, trivial⟩ rfl rfl
  have e16 := bits_pack 5 d.val [(1, 0), (4, t.val), (6, 33)] b1 20 16 [(7, 3), (1, e.val), (8, k.val)] ⟨(by decide), b3, b2, trivial⟩ rfl rfl
  have e21 := bits_pack 1 0 [(4, t.val), (6, 33)] (Nat.two_pow_pos _) 21 21 [(7, 3), (1, e.val), (8, k.val), (5, d.val)] ⟨(by decide), b3, b2, b1, trivial⟩ rfl rfl
  have e22 := bits_pack 4 t.val [(6, 33)] b0 25 22 [(7, 3), (1, e.val), (8, k.val), (5, d.val), (1, 0)] ⟨(by decide), b3, b2, b1, (Nat.two_pow_pos _), trivial⟩ rfl rfl
  have e26 := bits_pack 6 33 [] (by decide) 31 26 [(7, 3), (1, e.val), (8, k.val), (5, d.val), (1, 0), (4, t.val)] ⟨(by decide), b3, b2, b1, (Nat.two_pow_pos _), b0, trivial⟩ rfl rfl
  simp only [List.nil_append, List.cons_append] at e0 e7 e8 e16 e21 e22 e26
  have hl : pack [(7, 3), (1, e.val), (8, k.val), (5, d.val), (1, 0), (4, t.val), (6, 33)] < 2 ^ 32 := pack_lt [(7, 3), (1, e.val), (8, k.val), (5, d.val), (1, 0), (4, t.val), (6, 33)] ⟨(by decide), b3, b2, b1, (Nat.two_pow_pos _), b0, (by decide), trivial⟩ rfl
  generalize pack [(7, 3), (1, e.val), (8, k.val), (5, d.val), (1, 0), (4, t.val), (6, 33)] = wd at *
  refine decode_of wd hn.symm ?_ hw hl
  · rw [major_33 e26]; simp only [decodeTile1, e0, e7, e8, e16, e21, e22, reduceIte, ofNat_val]

theorem Sys2Proof.Laws.Roundtrip.msave (t : Fin 16) (a : PReg) (e : Fin 2) : Statement (.msave t a e) := by
  intro _ hw
  have hn : ∀ x0 x1 x2 : Nat, pack [(7, 4), (1, x2), (11, 0), (3, x1), (4, x0), (6, 33)] = fields 0x84000004 [(x0, 22), (x1, 19), (x2, 7)] := by
    intros; simp only [pack_eq, packAt_cons, packAt_nil, Nat.reduceAdd, fields_cons, fields_nil]; omega
  replace hn := hn t.val a.val e.val
  have b0 := t.isLt
  have b1 := a.isLt
  have b2 := e.isLt
  have e0 := bits_pack 7 4 [(1, e.val), (11, 0), (3, a.val), (4, t.val), (6, 33)] (by decide) 6 0 [] trivial rfl rfl
  have e7 := bits_pack 1 e.val [(11, 0), (3, a.val), (4, t.val), (6, 33)] b2 7 7 [(7, 4)] ⟨(by decide), trivial⟩ rfl rfl
  have e8 := bits_pack 11 0 [(3, a.val), (4, t.val), (6, 33)] (Nat.two_pow_pos _) 18 8 [(7, 4), (1, e.val)] ⟨(by decide), b2, trivial⟩ rfl rfl
  have e19 := bits_pack 3 a.val [(4, t.val), (6, 33)] b1 21 19 [(7, 4), (1, e.val), (11, 0)] ⟨(by decide), b2, (Nat.two_pow_pos _), trivial⟩ rfl rfl
  have e22 := bits_pack 4 t.val [(6, 33)] b0 25 22 [(7, 4), (1, e.val), (11, 0), (3, a.val)] ⟨(by decide), b2, (Nat.two_pow_pos _), b1, trivial⟩ rfl rfl
  have e26 := bits_pack 6 33 [] (by decide) 31 26 [(7, 4), (1, e.val), (11, 0), (3, a.val), (4, t.val)] ⟨(by decide), b2, (Nat.two_pow_pos _), b1, b0, trivial⟩ rfl rfl
  simp only [List.nil_append, List.cons_append] at e0 e7 e8 e19 e22 e26
  have hl : pack [(7, 4), (1, e.val), (11, 0), (3, a.val), (4, t.val), (6, 33)] < 2 ^ 32 := pack_lt [(7, 4), (1, e.val), (11, 0), (3, a.val), (4, t.val), (6, 33)] ⟨(by decide), b2, (Nat.two_pow_pos _), b1, b0, (by decide), trivial⟩ rfl
  generalize pack [(7, 4), (1, e.val), (11, 0), (3, a.val), (4, t.val), (6, 33)] = wd at *
  refine decode_of wd hn.symm ?_ hw hl
  · rw [major_33 e26]; simp only [decodeTile1, e0, e7, e8, e19, e22, reduceIte, ofNat_val]

theorem Sys2Proof.Laws.Roundtrip.mload (t : Fin 16) (a : PReg) (e : Fin 2) : Statement (.mload t a e) := by
  intro _ hw
  have hn : ∀ x0 x1 x2 : Nat, pack [(7, 5), (1, x2), (11, 0), (3, x1), (4, x0), (6, 33)] = fields 0x84000005 [(x0, 22), (x1, 19), (x2, 7)] := by
    intros; simp only [pack_eq, packAt_cons, packAt_nil, Nat.reduceAdd, fields_cons, fields_nil]; omega
  replace hn := hn t.val a.val e.val
  have b0 := t.isLt
  have b1 := a.isLt
  have b2 := e.isLt
  have e0 := bits_pack 7 5 [(1, e.val), (11, 0), (3, a.val), (4, t.val), (6, 33)] (by decide) 6 0 [] trivial rfl rfl
  have e7 := bits_pack 1 e.val [(11, 0), (3, a.val), (4, t.val), (6, 33)] b2 7 7 [(7, 5)] ⟨(by decide), trivial⟩ rfl rfl
  have e8 := bits_pack 11 0 [(3, a.val), (4, t.val), (6, 33)] (Nat.two_pow_pos _) 18 8 [(7, 5), (1, e.val)] ⟨(by decide), b2, trivial⟩ rfl rfl
  have e19 := bits_pack 3 a.val [(4, t.val), (6, 33)] b1 21 19 [(7, 5), (1, e.val), (11, 0)] ⟨(by decide), b2, (Nat.two_pow_pos _), trivial⟩ rfl rfl
  have e22 := bits_pack 4 t.val [(6, 33)] b0 25 22 [(7, 5), (1, e.val), (11, 0), (3, a.val)] ⟨(by decide), b2, (Nat.two_pow_pos _), b1, trivial⟩ rfl rfl
  have e26 := bits_pack 6 33 [] (by decide) 31 26 [(7, 5), (1, e.val), (11, 0), (3, a.val), (4, t.val)] ⟨(by decide), b2, (Nat.two_pow_pos _), b1, b0, trivial⟩ rfl rfl
  simp only [List.nil_append, List.cons_append] at e0 e7 e8 e19 e22 e26
  have hl : pack [(7, 5), (1, e.val), (11, 0), (3, a.val), (4, t.val), (6, 33)] < 2 ^ 32 := pack_lt [(7, 5), (1, e.val), (11, 0), (3, a.val), (4, t.val), (6, 33)] ⟨(by decide), b2, (Nat.two_pow_pos _), b1, b0, (by decide), trivial⟩ rfl
  generalize pack [(7, 5), (1, e.val), (11, 0), (3, a.val), (4, t.val), (6, 33)] = wd at *
  refine decode_of wd hn.symm ?_ hw hl
  · rw [major_33 e26]; simp only [decodeTile1, e0, e7, e8, e19, e22, reduceIte, ofNat_val]

theorem Sys2Proof.Laws.Roundtrip.mmerge (t : Fin 16) (a : PReg) (e : Fin 2) : Statement (.mmerge t a e) := by
  intro _ hw
  have hn : ∀ x0 x1 x2 : Nat, pack [(7, 0), (1, x2), (11, 0), (3, x1), (4, x0), (6, 34)] = fields 0x88000000 [(x0, 22), (x1, 19), (x2, 7)] := by
    intros; simp only [pack_eq, packAt_cons, packAt_nil, Nat.reduceAdd, fields_cons, fields_nil]; omega
  replace hn := hn t.val a.val e.val
  have b0 := t.isLt
  have b1 := a.isLt
  have b2 := e.isLt
  have e0 := bits_pack 7 0 [(1, e.val), (11, 0), (3, a.val), (4, t.val), (6, 34)] (Nat.two_pow_pos _) 6 0 [] trivial rfl rfl
  have e7 := bits_pack 1 e.val [(11, 0), (3, a.val), (4, t.val), (6, 34)] b2 7 7 [(7, 0)] ⟨(Nat.two_pow_pos _), trivial⟩ rfl rfl
  have e8 := bits_pack 11 0 [(3, a.val), (4, t.val), (6, 34)] (Nat.two_pow_pos _) 18 8 [(7, 0), (1, e.val)] ⟨(Nat.two_pow_pos _), b2, trivial⟩ rfl rfl
  have e19 := bits_pack 3 a.val [(4, t.val), (6, 34)] b1 21 19 [(7, 0), (1, e.val), (11, 0)] ⟨(Nat.two_pow_pos _), b2, (Nat.two_pow_pos _), trivial⟩ rfl rfl
  have e22 := bits_pack 4 t.val [(6, 34)] b0 25 22 [(7, 0), (1, e.val), (11, 0), (3, a.val)] ⟨(Nat.two_pow_pos _), b2, (Nat.two_pow_pos _), b1, trivial⟩ rfl rfl
  have e26 := bits_pack 6 34 [] (by decide) 31 26 [(7, 0), (1, e.val), (11, 0), (3, a.val), (4, t.val)] ⟨(Nat.two_pow_pos _), b2, (Nat.two_pow_pos _), b1, b0, trivial⟩ rfl rfl
  simp only [List.nil_append, List.cons_append] at e0 e7 e8 e19 e22 e26
  have hl : pack [(7, 0), (1, e.val), (11, 0), (3, a.val), (4, t.val), (6, 34)] < 2 ^ 32 := pack_lt [(7, 0), (1, e.val), (11, 0), (3, a.val), (4, t.val), (6, 34)] ⟨(Nat.two_pow_pos _), b2, (Nat.two_pow_pos _), b1, b0, (by decide), trivial⟩ rfl
  generalize pack [(7, 0), (1, e.val), (11, 0), (3, a.val), (4, t.val), (6, 34)] = wd at *
  refine decode_of wd hn.symm ?_ hw hl
  · rw [major_34 e26]; simp only [decodeTile2, e0, e7, e8, e19, e22, reduceIte, ofNat_val]

theorem Sys2Proof.Laws.Roundtrip.mrstl (k : Fin 256) : Statement (.mrstl k) := by
  intro _ hw
  have hn : ∀ x0 : Nat, pack [(7, 1), (1, 0), (8, x0), (10, 0), (6, 34)] = fields 0x88000001 [(x0, 8)] := by
    intros; simp only [pack_eq, packAt_cons, packAt_nil, Nat.reduceAdd, fields_cons, fields_nil]; omega
  replace hn := hn k.val
  have b0 := k.isLt
  have e0 := bits_pack 7 1 [(1, 0), (8, k.val), (10, 0), (6, 34)] (by decide) 6 0 [] trivial rfl rfl
  have e7 := bits_pack 1 0 [(8, k.val), (10, 0), (6, 34)] (Nat.two_pow_pos _) 7 7 [(7, 1)] ⟨(by decide), trivial⟩ rfl rfl
  have e8 := bits_pack 8 k.val [(10, 0), (6, 34)] b0 15 8 [(7, 1), (1, 0)] ⟨(by decide), (Nat.two_pow_pos _), trivial⟩ rfl rfl
  have e16 := bits_pack 10 0 [(6, 34)] (Nat.two_pow_pos _) 25 16 [(7, 1), (1, 0), (8, k.val)] ⟨(by decide), (Nat.two_pow_pos _), b0, trivial⟩ rfl rfl
  have e26 := bits_pack 6 34 [] (by decide) 31 26 [(7, 1), (1, 0), (8, k.val), (10, 0)] ⟨(by decide), (Nat.two_pow_pos _), b0, (Nat.two_pow_pos _), trivial⟩ rfl rfl
  simp only [List.nil_append, List.cons_append] at e0 e7 e8 e16 e26
  have hl : pack [(7, 1), (1, 0), (8, k.val), (10, 0), (6, 34)] < 2 ^ 32 := pack_lt [(7, 1), (1, 0), (8, k.val), (10, 0), (6, 34)] ⟨(by decide), (Nat.two_pow_pos _), b0, (Nat.two_pow_pos _), (by decide), trivial⟩ rfl
  generalize pack [(7, 1), (1, 0), (8, k.val), (10, 0), (6, 34)] = wd at *
  refine decode_of wd hn.symm ?_ hw hl
  · rw [major_34 e26]; simp only [decodeTile2, e0, e7, e8, e16, reduceIte, ofNat_val]

theorem Sys2Proof.Laws.Roundtrip.mwait (t : Fin 16) (e : Fin 2) : Statement (.mwait t e) := by
  intro _ hw
  have hn : ∀ x0 x1 : Nat, pack [(7, 2), (1, x1), (14, 0), (4, x0), (6, 34)] = fields 0x88000002 [(x0, 22), (x1, 7)] := by
    intros; simp only [pack_eq, packAt_cons, packAt_nil, Nat.reduceAdd, fields_cons, fields_nil]; omega
  replace hn := hn t.val e.val
  have b0 := t.isLt
  have b1 := e.isLt
  have e0 := bits_pack 7 2 [(1, e.val), (14, 0), (4, t.val), (6, 34)] (by decide) 6 0 [] trivial rfl rfl
  have e7 := bits_pack 1 e.val [(14, 0), (4, t.val), (6, 34)] b1 7 7 [(7, 2)] ⟨(by decide), trivial⟩ rfl rfl
  have e8 := bits_pack 14 0 [(4, t.val), (6, 34)] (Nat.two_pow_pos _) 21 8 [(7, 2), (1, e.val)] ⟨(by decide), b1, trivial⟩ rfl rfl
  have e22 := bits_pack 4 t.val [(6, 34)] b0 25 22 [(7, 2), (1, e.val), (14, 0)] ⟨(by decide), b1, (Nat.two_pow_pos _), trivial⟩ rfl rfl
  have e26 := bits_pack 6 34 [] (by decide) 31 26 [(7, 2), (1, e.val), (14, 0), (4, t.val)] ⟨(by decide), b1, (Nat.two_pow_pos _), b0, trivial⟩ rfl rfl
  simp only [List.nil_append, List.cons_append] at e0 e7 e8 e22 e26
  have hl : pack [(7, 2), (1, e.val), (14, 0), (4, t.val), (6, 34)] < 2 ^ 32 := pack_lt [(7, 2), (1, e.val), (14, 0), (4, t.val), (6, 34)] ⟨(by decide), b1, (Nat.two_pow_pos _), b0, (by decide), trivial⟩ rfl
  generalize pack [(7, 2), (1, e.val), (14, 0), (4, t.val), (6, 34)] = wd at *
  refine decode_of wd hn.symm ?_ hw hl
  · rw [major_34 e26]; simp only [decodeTile2, e0, e7, e8, e22, reduceIte, ofNat_val]

theorem Sys2Proof.Laws.Roundtrip.engineUnit (cl : Nat) (e : Fin 2) : Statement (.engineUnit cl e) := fun h => absurd h (Bool.false_ne_true)

theorem Sys2Proof.Laws.Roundtrip.astep (e : Bool) (o : Fin 16) (q : QReg) (n : Fin 256) (g : Fin 8) : Statement (.astep e o q n g) := by
  intro _ hw
  have hn : ∀ x0 x1 x2 x3 x4 : Nat, pack [(4, 0), (2, 0), (3, x4), (8, x3), (4, x2), (4, x1), (1, x0), (6, 35)] = fields 0x8C000000 [(x0, 25), (x1, 21), (x2, 17), (x3, 9), (x4, 6)] := by
    intros; simp only [pack_eq, packAt_cons, packAt_nil, Nat.reduceAdd, fields_cons, fields_nil]; omega
  replace hn := hn e.toNat o.val q.val n.val g.val
  have b0 := Bool.toNat_lt e
  have b1 := o.isLt
  have b2 := q.isLt
  have b3 := n.isLt
  have b4 := g.isLt
  have e0 := bits_pack 4 0 [(2, 0), (3, g.val), (8, n.val), (4, q.val), (4, o.val), (1, e.toNat), (6, 35)] (Nat.two_pow_pos _) 3 0 [] trivial rfl rfl
  have e4 := bits_pack 2 0 [(3, g.val), (8, n.val), (4, q.val), (4, o.val), (1, e.toNat), (6, 35)] (Nat.two_pow_pos _) 5 4 [(4, 0)] ⟨(Nat.two_pow_pos _), trivial⟩ rfl rfl
  have e6 := bits_pack 3 g.val [(8, n.val), (4, q.val), (4, o.val), (1, e.toNat), (6, 35)] b4 8 6 [(4, 0), (2, 0)] ⟨(Nat.two_pow_pos _), (Nat.two_pow_pos _), trivial⟩ rfl rfl
  have e9 := bits_pack 8 n.val [(4, q.val), (4, o.val), (1, e.toNat), (6, 35)] b3 16 9 [(4, 0), (2, 0), (3, g.val)] ⟨(Nat.two_pow_pos _), (Nat.two_pow_pos _), b4, trivial⟩ rfl rfl
  have e17 := bits_pack 4 q.val [(4, o.val), (1, e.toNat), (6, 35)] b2 20 17 [(4, 0), (2, 0), (3, g.val), (8, n.val)] ⟨(Nat.two_pow_pos _), (Nat.two_pow_pos _), b4, b3, trivial⟩ rfl rfl
  have e21 := bits_pack 4 o.val [(1, e.toNat), (6, 35)] b1 24 21 [(4, 0), (2, 0), (3, g.val), (8, n.val), (4, q.val)] ⟨(Nat.two_pow_pos _), (Nat.two_pow_pos _), b4, b3, b2, trivial⟩ rfl rfl
  have e25 := bits_pack 1 e.toNat [(6, 35)] b0 25 25 [(4, 0), (2, 0), (3, g.val), (8, n.val), (4, q.val), (4, o.val)] ⟨(Nat.two_pow_pos _), (Nat.two_pow_pos _), b4, b3, b2, b1, trivial⟩ rfl rfl
  have e26 := bits_pack 6 35 [] (by decide) 31 26 [(4, 0), (2, 0), (3, g.val), (8, n.val), (4, q.val), (4, o.val), (1, e.toNat)] ⟨(Nat.two_pow_pos _), (Nat.two_pow_pos _), b4, b3, b2, b1, b0, trivial⟩ rfl rfl
  simp only [List.nil_append, List.cons_append] at e0 e4 e6 e9 e17 e21 e25 e26
  have hl : pack [(4, 0), (2, 0), (3, g.val), (8, n.val), (4, q.val), (4, o.val), (1, e.toNat), (6, 35)] < 2 ^ 32 := pack_lt [(4, 0), (2, 0), (3, g.val), (8, n.val), (4, q.val), (4, o.val), (1, e.toNat), (6, 35)] ⟨(Nat.two_pow_pos _), (Nat.two_pow_pos _), b4, b3, b2, b1, b0, (by decide), trivial⟩ rfl
  generalize pack [(4, 0), (2, 0), (3, g.val), (8, n.val), (4, q.val), (4, o.val), (1, e.toNat), (6, 35)] = wd at *
  have f25 : bit wd 25 = e := bit_of e25
  refine decode_of wd hn.symm ?_ hw hl
  · rw [major_35 e26]; simp only [decodeStream, e0, e4, e6, e9, e17, e21, f25, reduceIte, ofNat_val]

theorem Sys2Proof.Laws.Roundtrip.astepx (d : Reg) (q : QReg) (n : Fin 256) (g : Fin 8) : Statement (.astepx d q n g) := by
  intro _ hw
  have hn : ∀ x0 x1 x2 x3 : Nat, pack [(4, 1), (2, 0), (3, x3), (8, x2), (4, x1), (5, x0), (6, 35)] = fields 0x8C000001 [(x0, 21), (x1, 17), (x2, 9), (x3, 6)] := by
    intros; simp only [pack_eq, packAt_cons, packAt_nil, Nat.reduceAdd, fields_cons, fields_nil]; omega
  replace hn := hn d.val q.val n.val g.val
  have b0 := d.isLt
  have b1 := q.isLt
  have b2 := n.isLt
  have b3 := g.isLt
  have e0 := bits_pack 4 1 [(2, 0), (3, g.val), (8, n.val), (4, q.val), (5, d.val), (6, 35)] (by decide) 3 0 [] trivial rfl rfl
  have e4 := bits_pack 2 0 [(3, g.val), (8, n.val), (4, q.val), (5, d.val), (6, 35)] (Nat.two_pow_pos _) 5 4 [(4, 1)] ⟨(by decide), trivial⟩ rfl rfl
  have e6 := bits_pack 3 g.val [(8, n.val), (4, q.val), (5, d.val), (6, 35)] b3 8 6 [(4, 1), (2, 0)] ⟨(by decide), (Nat.two_pow_pos _), trivial⟩ rfl rfl
  have e9 := bits_pack 8 n.val [(4, q.val), (5, d.val), (6, 35)] b2 16 9 [(4, 1), (2, 0), (3, g.val)] ⟨(by decide), (Nat.two_pow_pos _), b3, trivial⟩ rfl rfl
  have e17 := bits_pack 4 q.val [(5, d.val), (6, 35)] b1 20 17 [(4, 1), (2, 0), (3, g.val), (8, n.val)] ⟨(by decide), (Nat.two_pow_pos _), b3, b2, trivial⟩ rfl rfl
  have e21 := bits_pack 5 d.val [(6, 35)] b0 25 21 [(4, 1), (2, 0), (3, g.val), (8, n.val), (4, q.val)] ⟨(by decide), (Nat.two_pow_pos _), b3, b2, b1, trivial⟩ rfl rfl
  have e26 := bits_pack 6 35 [] (by decide) 31 26 [(4, 1), (2, 0), (3, g.val), (8, n.val), (4, q.val), (5, d.val)] ⟨(by decide), (Nat.two_pow_pos _), b3, b2, b1, b0, trivial⟩ rfl rfl
  simp only [List.nil_append, List.cons_append] at e0 e4 e6 e9 e17 e21 e26
  have hl : pack [(4, 1), (2, 0), (3, g.val), (8, n.val), (4, q.val), (5, d.val), (6, 35)] < 2 ^ 32 := pack_lt [(4, 1), (2, 0), (3, g.val), (8, n.val), (4, q.val), (5, d.val), (6, 35)] ⟨(by decide), (Nat.two_pow_pos _), b3, b2, b1, b0, (by decide), trivial⟩ rfl
  generalize pack [(4, 1), (2, 0), (3, g.val), (8, n.val), (4, q.val), (5, d.val), (6, 35)] = wd at *
  refine decode_of wd hn.symm ?_ hw hl
  · rw [major_35 e26]; simp only [decodeStream, e0, e4, e6, e9, e17, e21, reduceIte, ofNat_val]

theorem Sys2Proof.Laws.Roundtrip.streamSymbol (slot : SlotId) : Statement (.streamSymbol slot) := fun h => absurd h (Bool.false_ne_true)

theorem Sys2Proof.Laws.Roundtrip.aload (a : PReg) (g : Fin 8) : Statement (.aload a g) := by
  intro _ hw
  have hn : ∀ x0 x1 : Nat, pack [(3, x1), (2, 0), (6, 0), (5, 0), (3, x0), (7, 0), (6, 36)] = fields 0x90000000 [(x0, 16), (x1, 0)] := by
    intros; simp only [pack_eq, packAt_cons, packAt_nil, Nat.reduceAdd, fields_cons, fields_nil]; omega
  replace hn := hn a.val g.val
  have b0 := a.isLt
  have b1 := g.isLt
  have e0 := bits_pack 3 g.val [(2, 0), (6, 0), (5, 0), (3, a.val), (7, 0), (6, 36)] b1 2 0 [] trivial rfl rfl
  have e3 := bits_pack 2 0 [(6, 0), (5, 0), (3, a.val), (7, 0), (6, 36)] (Nat.two_pow_pos _) 4 3 [(3, g.val)] ⟨b1, trivial⟩ rfl rfl
  have e5 := bits_pack 6 0 [(5, 0), (3, a.val), (7, 0), (6, 36)] (Nat.two_pow_pos _) 10 5 [(3, g.val), (2, 0)] ⟨b1, (Nat.two_pow_pos _), trivial⟩ rfl rfl
  have e11 := bits_pack 5 0 [(3, a.val), (7, 0), (6, 36)] (Nat.two_pow_pos _) 15 11 [(3, g.val), (2, 0), (6, 0)] ⟨b1, (Nat.two_pow_pos _), (Nat.two_pow_pos _), trivial⟩ rfl rfl
  have e16 := bits_pack 3 a.val [(7, 0), (6, 36)] b0 18 16 [(3, g.val), (2, 0), (6, 0), (5, 0)] ⟨b1, (Nat.two_pow_pos _), (Nat.two_pow_pos _), (Nat.two_pow_pos _), trivial⟩ rfl rfl
  have e19 := bits_pack 7 0 [(6, 36)] (Nat.two_pow_pos _) 25 19 [(3, g.val), (2, 0), (6, 0), (5, 0), (3, a.val)] ⟨b1, (Nat.two_pow_pos _), (Nat.two_pow_pos _), (Nat.two_pow_pos _), b0, trivial⟩ rfl rfl
  have e26 := bits_pack 6 36 [] (by decide) 31 26 [(3, g.val), (2, 0), (6, 0), (5, 0), (3, a.val), (7, 0)] ⟨b1, (Nat.two_pow_pos _), (Nat.two_pow_pos _), (Nat.two_pow_pos _), b0, (Nat.two_pow_pos _), trivial⟩ rfl rfl
  simp only [List.nil_append, List.cons_append] at e0 e3 e5 e11 e16 e19 e26
  have hl : pack [(3, g.val), (2, 0), (6, 0), (5, 0), (3, a.val), (7, 0), (6, 36)] < 2 ^ 32 := pack_lt [(3, g.val), (2, 0), (6, 0), (5, 0), (3, a.val), (7, 0), (6, 36)] ⟨b1, (Nat.two_pow_pos _), (Nat.two_pow_pos _), (Nat.two_pow_pos _), b0, (Nat.two_pow_pos _), (by decide), trivial⟩ rfl
  generalize pack [(3, g.val), (2, 0), (6, 0), (5, 0), (3, a.val), (7, 0), (6, 36)] = wd at *
  refine decode_of wd hn.symm ?_ hw hl
  · rw [major_36 e26]; simp only [decodeAutomaton, e5, e0, e3, e11, e16, e19, reduceIte, ofNat_val]

theorem Sys2Proof.Laws.Roundtrip.aset (a : Reg) (b : Reg) (g : Fin 8) : Statement (.aset a b g) := by
  intro _ hw
  have hn : ∀ x0 x1 x2 : Nat, pack [(3, x2), (2, 0), (6, 1), (5, x1), (5, x0), (5, 0), (6, 36)] = fields 0x90000020 [(x0, 16), (x1, 11), (x2, 0)] := by
    intros; simp only [pack_eq, packAt_cons, packAt_nil, Nat.reduceAdd, fields_cons, fields_nil]; omega
  replace hn := hn a.val b.val g.val
  have b0 := a.isLt
  have b1 := b.isLt
  have b2 := g.isLt
  have e0 := bits_pack 3 g.val [(2, 0), (6, 1), (5, b.val), (5, a.val), (5, 0), (6, 36)] b2 2 0 [] trivial rfl rfl
  have e3 := bits_pack 2 0 [(6, 1), (5, b.val), (5, a.val), (5, 0), (6, 36)] (Nat.two_pow_pos _) 4 3 [(3, g.val)] ⟨b2, trivial⟩ rfl rfl
  have e5 := bits_pack 6 1 [(5, b.val), (5, a.val), (5, 0), (6, 36)] (by decide) 10 5 [(3, g.val), (2, 0)] ⟨b2, (Nat.two_pow_pos _), trivial⟩ rfl rfl
  have e11 := bits_pack 5 b.val [(5, a.val), (5, 0), (6, 36)] b1 15 11 [(3, g.val), (2, 0), (6, 1)] ⟨b2, (Nat.two_pow_pos _), (by decide), trivial⟩ rfl rfl
  have e16 := bits_pack 5 a.val [(5, 0), (6, 36)] b0 20 16 [(3, g.val), (2, 0), (6, 1), (5, b.val)] ⟨b2, (Nat.two_pow_pos _), (by decide), b1, trivial⟩ rfl rfl
  have e21 := bits_pack 5 0 [(6, 36)] (Nat.two_pow_pos _) 25 21 [(3, g.val), (2, 0), (6, 1), (5, b.val), (5, a.val)] ⟨b2, (Nat.two_pow_pos _), (by decide), b1, b0, trivial⟩ rfl rfl
  have e26 := bits_pack 6 36 [] (by decide) 31 26 [(3, g.val), (2, 0), (6, 1), (5, b.val), (5, a.val), (5, 0)] ⟨b2, (Nat.two_pow_pos _), (by decide), b1, b0, (Nat.two_pow_pos _), trivial⟩ rfl rfl
  simp only [List.nil_append, List.cons_append] at e0 e3 e5 e11 e16 e21 e26
  have hl : pack [(3, g.val), (2, 0), (6, 1), (5, b.val), (5, a.val), (5, 0), (6, 36)] < 2 ^ 32 := pack_lt [(3, g.val), (2, 0), (6, 1), (5, b.val), (5, a.val), (5, 0), (6, 36)] ⟨b2, (Nat.two_pow_pos _), (by decide), b1, b0, (Nat.two_pow_pos _), (by decide), trivial⟩ rfl
  generalize pack [(3, g.val), (2, 0), (6, 1), (5, b.val), (5, a.val), (5, 0), (6, 36)] = wd at *
  refine decode_of wd hn.symm ?_ hw hl
  · rw [major_36 e26]; simp only [decodeAutomaton, e5, e0, e3, e11, e16, e21, reduceIte, ofNat_val]

theorem Sys2Proof.Laws.Roundtrip.atok (a : Reg) (g : Fin 8) : Statement (.atok a g) := by
  intro _ hw
  have hn : ∀ x0 x1 : Nat, pack [(3, x1), (2, 0), (6, 2), (5, 0), (5, x0), (5, 0), (6, 36)] = fields 0x90000040 [(x0, 16), (x1, 0)] := by
    intros; simp only [pack_eq, packAt_cons, packAt_nil, Nat.reduceAdd, fields_cons, fields_nil]; omega
  replace hn := hn a.val g.val
  have b0 := a.isLt
  have b1 := g.isLt
  have e0 := bits_pack 3 g.val [(2, 0), (6, 2), (5, 0), (5, a.val), (5, 0), (6, 36)] b1 2 0 [] trivial rfl rfl
  have e3 := bits_pack 2 0 [(6, 2), (5, 0), (5, a.val), (5, 0), (6, 36)] (Nat.two_pow_pos _) 4 3 [(3, g.val)] ⟨b1, trivial⟩ rfl rfl
  have e5 := bits_pack 6 2 [(5, 0), (5, a.val), (5, 0), (6, 36)] (by decide) 10 5 [(3, g.val), (2, 0)] ⟨b1, (Nat.two_pow_pos _), trivial⟩ rfl rfl
  have e11 := bits_pack 5 0 [(5, a.val), (5, 0), (6, 36)] (Nat.two_pow_pos _) 15 11 [(3, g.val), (2, 0), (6, 2)] ⟨b1, (Nat.two_pow_pos _), (by decide), trivial⟩ rfl rfl
  have e16 := bits_pack 5 a.val [(5, 0), (6, 36)] b0 20 16 [(3, g.val), (2, 0), (6, 2), (5, 0)] ⟨b1, (Nat.two_pow_pos _), (by decide), (Nat.two_pow_pos _), trivial⟩ rfl rfl
  have e21 := bits_pack 5 0 [(6, 36)] (Nat.two_pow_pos _) 25 21 [(3, g.val), (2, 0), (6, 2), (5, 0), (5, a.val)] ⟨b1, (Nat.two_pow_pos _), (by decide), (Nat.two_pow_pos _), b0, trivial⟩ rfl rfl
  have e26 := bits_pack 6 36 [] (by decide) 31 26 [(3, g.val), (2, 0), (6, 2), (5, 0), (5, a.val), (5, 0)] ⟨b1, (Nat.two_pow_pos _), (by decide), (Nat.two_pow_pos _), b0, (Nat.two_pow_pos _), trivial⟩ rfl rfl
  simp only [List.nil_append, List.cons_append] at e0 e3 e5 e11 e16 e21 e26
  have hl : pack [(3, g.val), (2, 0), (6, 2), (5, 0), (5, a.val), (5, 0), (6, 36)] < 2 ^ 32 := pack_lt [(3, g.val), (2, 0), (6, 2), (5, 0), (5, a.val), (5, 0), (6, 36)] ⟨b1, (Nat.two_pow_pos _), (by decide), (Nat.two_pow_pos _), b0, (Nat.two_pow_pos _), (by decide), trivial⟩ rfl
  generalize pack [(3, g.val), (2, 0), (6, 2), (5, 0), (5, a.val), (5, 0), (6, 36)] = wd at *
  refine decode_of wd hn.symm ?_ hw hl
  · rw [major_36 e26]; simp only [decodeAutomaton, e5, e0, e3, e11, e16, e21, reduceIte, ofNat_val]

theorem Sys2Proof.Laws.Roundtrip.acomp (d : Reg) (a : Reg) (b : Reg) : Statement (.acomp d a b) := by
  intro _ hw
  have hn : ∀ x0 x1 x2 : Nat, pack [(5, 0), (6, 3), (5, x2), (5, x1), (5, x0), (6, 36)] = fields 0x90000060 [(x0, 21), (x1, 16), (x2, 11)] := by
    intros; simp only [pack_eq, packAt_cons, packAt_nil, Nat.reduceAdd, fields_cons, fields_nil]; omega
  replace hn := hn d.val a.val b.val
  have b0 := d.isLt
  have b1 := a.isLt
  have b2 := b.isLt
  have e0 := bits_pack 5 0 [(6, 3), (5, b.val), (5, a.val), (5, d.val), (6, 36)] (Nat.two_pow_pos _) 4 0 [] trivial rfl rfl
  have e5 := bits_pack 6 3 [(5, b.val), (5, a.val), (5, d.val), (6, 36)] (by decide) 10 5 [(5, 0)] ⟨(Nat.two_pow_pos _), trivial⟩ rfl rfl
  have e11 := bits_pack 5 b.val [(5, a.val), (5, d.val), (6, 36)] b2 15 11 [(5, 0), (6, 3)] ⟨(Nat.two_pow_pos _), (by decide), trivial⟩ rfl rfl
  have e16 := bits_pack 5 a.val [(5, d.val), (6, 36)] b1 20 16 [(5, 0), (6, 3), (5, b.val)] ⟨(Nat.two_pow_pos _), (by decide), b2, trivial⟩ rfl rfl
  have e21 := bits_pack 5 d.val [(6, 36)] b0 25 21 [(5, 0), (6, 3), (5, b.val), (5, a.val)] ⟨(Nat.two_pow_pos _), (by decide), b2, b1, trivial⟩ rfl rfl
  have e26 := bits_pack 6 36 [] (by decide) 31 26 [(5, 0), (6, 3), (5, b.val), (5, a.val), (5, d.val)] ⟨(Nat.two_pow_pos _), (by decide), b2, b1, b0, trivial⟩ rfl rfl
  simp only [List.nil_append, List.cons_append] at e0 e5 e11 e16 e21 e26
  have hl : pack [(5, 0), (6, 3), (5, b.val), (5, a.val), (5, d.val), (6, 36)] < 2 ^ 32 := pack_lt [(5, 0), (6, 3), (5, b.val), (5, a.val), (5, d.val), (6, 36)] ⟨(Nat.two_pow_pos _), (by decide), b2, b1, b0, (by decide), trivial⟩ rfl
  generalize pack [(5, 0), (6, 3), (5, b.val), (5, a.val), (5, d.val), (6, 36)] = wd at *
  refine decode_of wd hn.symm ?_ hw hl
  · rw [major_36 e26]; simp only [decodeAutomaton, e5, e0, e11, e16, e21, reduceIte, ofNat_val]

theorem Sys2Proof.Laws.Roundtrip.asel (d : Reg) (a : Reg) (b : Reg) : Statement (.asel d a b) := by
  intro _ hw
  have hn : ∀ x0 x1 x2 : Nat, pack [(5, 0), (6, 4), (5, x2), (5, x1), (5, x0), (6, 36)] = fields 0x90000080 [(x0, 21), (x1, 16), (x2, 11)] := by
    intros; simp only [pack_eq, packAt_cons, packAt_nil, Nat.reduceAdd, fields_cons, fields_nil]; omega
  replace hn := hn d.val a.val b.val
  have b0 := d.isLt
  have b1 := a.isLt
  have b2 := b.isLt
  have e0 := bits_pack 5 0 [(6, 4), (5, b.val), (5, a.val), (5, d.val), (6, 36)] (Nat.two_pow_pos _) 4 0 [] trivial rfl rfl
  have e5 := bits_pack 6 4 [(5, b.val), (5, a.val), (5, d.val), (6, 36)] (by decide) 10 5 [(5, 0)] ⟨(Nat.two_pow_pos _), trivial⟩ rfl rfl
  have e11 := bits_pack 5 b.val [(5, a.val), (5, d.val), (6, 36)] b2 15 11 [(5, 0), (6, 4)] ⟨(Nat.two_pow_pos _), (by decide), trivial⟩ rfl rfl
  have e16 := bits_pack 5 a.val [(5, d.val), (6, 36)] b1 20 16 [(5, 0), (6, 4), (5, b.val)] ⟨(Nat.two_pow_pos _), (by decide), b2, trivial⟩ rfl rfl
  have e21 := bits_pack 5 d.val [(6, 36)] b0 25 21 [(5, 0), (6, 4), (5, b.val), (5, a.val)] ⟨(Nat.two_pow_pos _), (by decide), b2, b1, trivial⟩ rfl rfl
  have e26 := bits_pack 6 36 [] (by decide) 31 26 [(5, 0), (6, 4), (5, b.val), (5, a.val), (5, d.val)] ⟨(Nat.two_pow_pos _), (by decide), b2, b1, b0, trivial⟩ rfl rfl
  simp only [List.nil_append, List.cons_append] at e0 e5 e11 e16 e21 e26
  have hl : pack [(5, 0), (6, 4), (5, b.val), (5, a.val), (5, d.val), (6, 36)] < 2 ^ 32 := pack_lt [(5, 0), (6, 4), (5, b.val), (5, a.val), (5, d.val), (6, 36)] ⟨(Nat.two_pow_pos _), (by decide), b2, b1, b0, (by decide), trivial⟩ rfl
  generalize pack [(5, 0), (6, 4), (5, b.val), (5, a.val), (5, d.val), (6, 36)] = wd at *
  refine decode_of wd hn.symm ?_ hw hl
  · rw [major_36 e26]; simp only [decodeAutomaton, e5, e0, e11, e16, e21, reduceIte, ofNat_val]

theorem Sys2Proof.Laws.Roundtrip.amask (d : PReg) (b : Reg) (g : Fin 8) : Statement (.amask d b g) := by
  intro _ hw
  have hn : ∀ x0 x1 x2 : Nat, pack [(3, x2), (2, 0), (6, 5), (5, x1), (5, 0), (3, x0), (2, 0), (6, 36)] = fields 0x900000A0 [(x0, 21), (x1, 11), (x2, 0)] := by
    intros; simp only [pack_eq, packAt_cons, packAt_nil, Nat.reduceAdd, fields_cons, fields_nil]; omega
  replace hn := hn d.val b.val g.val
  have b0 := d.isLt
  have b1 := b.isLt
  have b2 := g.isLt
  have e0 := bits_pack 3 g.val [(2, 0), (6, 5), (5, b.val), (5, 0), (3, d.val), (2, 0), (6, 36)] b2 2 0 [] trivial rfl rfl
  have e3 := bits_pack 2 0 [(6, 5), (5, b.val), (5, 0), (3, d.val), (2, 0), (6, 36)] (Nat.two_pow_pos _) 4 3 [(3, g.val)] ⟨b2, trivial⟩ rfl rfl
  have e5 := bits_pack 6 5 [(5, b.val), (5, 0), (3, d.val), (2, 0), (6, 36)] (by decide) 10 5 [(3, g.val), (2, 0)] ⟨b2, (Nat.two_pow_pos _), trivial⟩ rfl rfl
  have e11 := bits_pack 5 b.val [(5, 0), (3, d.val), (2, 0), (6, 36)] b1 15 11 [(3, g.val), (2, 0), (6, 5)] ⟨b2, (Nat.two_pow_pos _), (by decide), trivial⟩ rfl rfl
  have e16 := bits_pack 5 0 [(3, d.val), (2, 0), (6, 36)] (Nat.two_pow_pos _) 20 16 [(3, g.val), (2, 0), (6, 5), (5, b.val)] ⟨b2, (Nat.two_pow_pos _), (by decide), b1, trivial⟩ rfl rfl
  have e21 := bits_pack 3 d.val [(2, 0), (6, 36)] b0 23 21 [(3, g.val), (2, 0), (6, 5), (5, b.val), (5, 0)] ⟨b2, (Nat.two_pow_pos _), (by decide), b1, (Nat.two_pow_pos _), trivial⟩ rfl rfl
  have e24 := bits_pack 2 0 [(6, 36)] (Nat.two_pow_pos _) 25 24 [(3, g.val), (2, 0), (6, 5), (5, b.val), (5, 0), (3, d.val)] ⟨b2, (Nat.two_pow_pos _), (by decide), b1, (Nat.two_pow_pos _), b0, trivial⟩ rfl rfl
  have e26 := bits_pack 6 36 [] (by decide) 31 26 [(3, g.val), (2, 0), (6, 5), (5, b.val), (5, 0), (3, d.val), (2, 0)] ⟨b2, (Nat.two_pow_pos _), (by decide), b1, (Nat.two_pow_pos _), b0, (Nat.two_pow_pos _), trivial⟩ rfl rfl
  simp only [List.nil_append, List.cons_append] at e0 e3 e5 e11 e16 e21 e24 e26
  have hl : pack [(3, g.val), (2, 0), (6, 5), (5, b.val), (5, 0), (3, d.val), (2, 0), (6, 36)] < 2 ^ 32 := pack_lt [(3, g.val), (2, 0), (6, 5), (5, b.val), (5, 0), (3, d.val), (2, 0), (6, 36)] ⟨b2, (Nat.two_pow_pos _), (by decide), b1, (Nat.two_pow_pos _), b0, (Nat.two_pow_pos _), (by decide), trivial⟩ rfl
  generalize pack [(3, g.val), (2, 0), (6, 5), (5, b.val), (5, 0), (3, d.val), (2, 0), (6, 36)] = wd at *
  refine decode_of wd hn.symm ?_ hw hl
  · rw [major_36 e26]; simp only [decodeAutomaton, e5, e0, e3, e11, e16, e21, e24, reduceIte, ofNat_val]

theorem Sys2Proof.Laws.Roundtrip.aforce (d : Reg) (b : Reg) (g : Fin 8) : Statement (.aforce d b g) := by
  intro _ hw
  have hn : ∀ x0 x1 x2 : Nat, pack [(3, x2), (2, 0), (6, 6), (5, x1), (5, 0), (5, x0), (6, 36)] = fields 0x900000C0 [(x0, 21), (x1, 11), (x2, 0)] := by
    intros; simp only [pack_eq, packAt_cons, packAt_nil, Nat.reduceAdd, fields_cons, fields_nil]; omega
  replace hn := hn d.val b.val g.val
  have b0 := d.isLt
  have b1 := b.isLt
  have b2 := g.isLt
  have e0 := bits_pack 3 g.val [(2, 0), (6, 6), (5, b.val), (5, 0), (5, d.val), (6, 36)] b2 2 0 [] trivial rfl rfl
  have e3 := bits_pack 2 0 [(6, 6), (5, b.val), (5, 0), (5, d.val), (6, 36)] (Nat.two_pow_pos _) 4 3 [(3, g.val)] ⟨b2, trivial⟩ rfl rfl
  have e5 := bits_pack 6 6 [(5, b.val), (5, 0), (5, d.val), (6, 36)] (by decide) 10 5 [(3, g.val), (2, 0)] ⟨b2, (Nat.two_pow_pos _), trivial⟩ rfl rfl
  have e11 := bits_pack 5 b.val [(5, 0), (5, d.val), (6, 36)] b1 15 11 [(3, g.val), (2, 0), (6, 6)] ⟨b2, (Nat.two_pow_pos _), (by decide), trivial⟩ rfl rfl
  have e16 := bits_pack 5 0 [(5, d.val), (6, 36)] (Nat.two_pow_pos _) 20 16 [(3, g.val), (2, 0), (6, 6), (5, b.val)] ⟨b2, (Nat.two_pow_pos _), (by decide), b1, trivial⟩ rfl rfl
  have e21 := bits_pack 5 d.val [(6, 36)] b0 25 21 [(3, g.val), (2, 0), (6, 6), (5, b.val), (5, 0)] ⟨b2, (Nat.two_pow_pos _), (by decide), b1, (Nat.two_pow_pos _), trivial⟩ rfl rfl
  have e26 := bits_pack 6 36 [] (by decide) 31 26 [(3, g.val), (2, 0), (6, 6), (5, b.val), (5, 0), (5, d.val)] ⟨b2, (Nat.two_pow_pos _), (by decide), b1, (Nat.two_pow_pos _), b0, trivial⟩ rfl rfl
  simp only [List.nil_append, List.cons_append] at e0 e3 e5 e11 e16 e21 e26
  have hl : pack [(3, g.val), (2, 0), (6, 6), (5, b.val), (5, 0), (5, d.val), (6, 36)] < 2 ^ 32 := pack_lt [(3, g.val), (2, 0), (6, 6), (5, b.val), (5, 0), (5, d.val), (6, 36)] ⟨b2, (Nat.two_pow_pos _), (by decide), b1, (Nat.two_pow_pos _), b0, (by decide), trivial⟩ rfl
  generalize pack [(3, g.val), (2, 0), (6, 6), (5, b.val), (5, 0), (5, d.val), (6, 36)] = wd at *
  refine decode_of wd hn.symm ?_ hw hl
  · rw [major_36 e26]; simp only [decodeAutomaton, e5, e0, e3, e11, e16, e21, reduceIte, ofNat_val]

theorem Sys2Proof.Laws.Roundtrip.aget (d : Reg) (g : Fin 8) : Statement (.aget d g) := by
  intro _ hw
  have hn : ∀ x0 x1 : Nat, pack [(3, x1), (2, 0), (6, 7), (10, 0), (5, x0), (6, 36)] = fields 0x900000E0 [(x0, 21), (x1, 0)] := by
    intros; simp only [pack_eq, packAt_cons, packAt_nil, Nat.reduceAdd, fields_cons, fields_nil]; omega
  replace hn := hn d.val g.val
  have b0 := d.isLt
  have b1 := g.isLt
  have e0 := bits_pack 3 g.val [(2, 0), (6, 7), (10, 0), (5, d.val), (6, 36)] b1 2 0 [] trivial rfl rfl
  have e3 := bits_pack 2 0 [(6, 7), (10, 0), (5, d.val), (6, 36)] (Nat.two_pow_pos _) 4 3 [(3, g.val)] ⟨b1, trivial⟩ rfl rfl
  have e5 := bits_pack 6 7 [(10, 0), (5, d.val), (6, 36)] (by decide) 10 5 [(3, g.val), (2, 0)] ⟨b1, (Nat.two_pow_pos _), trivial⟩ rfl rfl
  have e11 := bits_pack 10 0 [(5, d.val), (6, 36)] (Nat.two_pow_pos _) 20 11 [(3, g.val), (2, 0), (6, 7)] ⟨b1, (Nat.two_pow_pos _), (by decide), trivial⟩ rfl rfl
  have e21 := bits_pack 5 d.val [(6, 36)] b0 25 21 [(3, g.val), (2, 0), (6, 7), (10, 0)] ⟨b1, (Nat.two_pow_pos _), (by decide), (Nat.two_pow_pos _), trivial⟩ rfl rfl
  have e26 := bits_pack 6 36 [] (by decide) 31 26 [(3, g.val), (2, 0), (6, 7), (10, 0), (5, d.val)] ⟨b1, (Nat.two_pow_pos _), (by decide), (Nat.two_pow_pos _), b0, trivial⟩ rfl rfl
  simp only [List.nil_append, List.cons_append] at e0 e3 e5 e11 e21 e26
  have hl : pack [(3, g.val), (2, 0), (6, 7), (10, 0), (5, d.val), (6, 36)] < 2 ^ 32 := pack_lt [(3, g.val), (2, 0), (6, 7), (10, 0), (5, d.val), (6, 36)] ⟨b1, (Nat.two_pow_pos _), (by decide), (Nat.two_pow_pos _), b0, (by decide), trivial⟩ rfl
  generalize pack [(3, g.val), (2, 0), (6, 7), (10, 0), (5, d.val), (6, 36)] = wd at *
  refine decode_of wd hn.symm ?_ hw hl
  · rw [major_36 e26]; simp only [decodeAutomaton, e5, e0, e3, e11, e21, reduceIte, ofNat_val]

theorem Sys2Proof.Laws.Roundtrip.apush (a : Reg) (g : Fin 8) : Statement (.apush a g) := by
  intro _ hw
  have hn : ∀ x0 x1 : Nat, pack [(3, x1), (2, 0), (6, 8), (5, 0), (5, x0), (5, 0), (6, 36)] = fields 0x90000100 [(x0, 16), (x1, 0)] := by
    intros; simp only [pack_eq, packAt_cons, packAt_nil, Nat.reduceAdd, fields_cons, fields_nil]; omega
  replace hn := hn a.val g.val
  have b0 := a.isLt
  have b1 := g.isLt
  have e0 := bits_pack 3 g.val [(2, 0), (6, 8), (5, 0), (5, a.val), (5, 0), (6, 36)] b1 2 0 [] trivial rfl rfl
  have e3 := bits_pack 2 0 [(6, 8), (5, 0), (5, a.val), (5, 0), (6, 36)] (Nat.two_pow_pos _) 4 3 [(3, g.val)] ⟨b1, trivial⟩ rfl rfl
  have e5 := bits_pack 6 8 [(5, 0), (5, a.val), (5, 0), (6, 36)] (by decide) 10 5 [(3, g.val), (2, 0)] ⟨b1, (Nat.two_pow_pos _), trivial⟩ rfl rfl
  have e11 := bits_pack 5 0 [(5, a.val), (5, 0), (6, 36)] (Nat.two_pow_pos _) 15 11 [(3, g.val), (2, 0), (6, 8)] ⟨b1, (Nat.two_pow_pos _), (by decide), trivial⟩ rfl rfl
  have e16 := bits_pack 5 a.val [(5, 0), (6, 36)] b0 20 16 [(3, g.val), (2, 0), (6, 8), (5, 0)] ⟨b1, (Nat.two_pow_pos _), (by decide), (Nat.two_pow_pos _), trivial⟩ rfl rfl
  have e21 := bits_pack 5 0 [(6, 36)] (Nat.two_pow_pos _) 25 21 [(3, g.val), (2, 0), (6, 8), (5, 0), (5, a.val)] ⟨b1, (Nat.two_pow_pos _), (by decide), (Nat.two_pow_pos _), b0, trivial⟩ rfl rfl
  have e26 := bits_pack 6 36 [] (by decide) 31 26 [(3, g.val), (2, 0), (6, 8), (5, 0), (5, a.val), (5, 0)] ⟨b1, (Nat.two_pow_pos _), (by decide), (Nat.two_pow_pos _), b0, (Nat.two_pow_pos _), trivial⟩ rfl rfl
  simp only [List.nil_append, List.cons_append] at e0 e3 e5 e11 e16 e21 e26
  have hl : pack [(3, g.val), (2, 0), (6, 8), (5, 0), (5, a.val), (5, 0), (6, 36)] < 2 ^ 32 := pack_lt [(3, g.val), (2, 0), (6, 8), (5, 0), (5, a.val), (5, 0), (6, 36)] ⟨b1, (Nat.two_pow_pos _), (by decide), (Nat.two_pow_pos _), b0, (Nat.two_pow_pos _), (by decide), trivial⟩ rfl
  generalize pack [(3, g.val), (2, 0), (6, 8), (5, 0), (5, a.val), (5, 0), (6, 36)] = wd at *
  refine decode_of wd hn.symm ?_ hw hl
  · rw [major_36 e26]; simp only [decodeAutomaton, e5, e0, e3, e11, e16, e21, reduceIte, ofNat_val]

theorem Sys2Proof.Laws.Roundtrip.apop (d : Reg) (g : Fin 8) : Statement (.apop d g) := by
  intro _ hw
  have hn : ∀ x0 x1 : Nat, pack [(3, x1), (2, 0), (6, 9), (10, 0), (5, x0), (6, 36)] = fields 0x90000120 [(x0, 21), (x1, 0)] := by
    intros; simp only [pack_eq, packAt_cons, packAt_nil, Nat.reduceAdd, fields_cons, fields_nil]; omega
  replace hn := hn d.val g.val
  have b0 := d.isLt
  have b1 := g.isLt
  have e0 := bits_pack 3 g.val [(2, 0), (6, 9), (10, 0), (5, d.val), (6, 36)] b1 2 0 [] trivial rfl rfl
  have e3 := bits_pack 2 0 [(6, 9), (10, 0), (5, d.val), (6, 36)] (Nat.two_pow_pos _) 4 3 [(3, g.val)] ⟨b1, trivial⟩ rfl rfl
  have e5 := bits_pack 6 9 [(10, 0), (5, d.val), (6, 36)] (by decide) 10 5 [(3, g.val), (2, 0)] ⟨b1, (Nat.two_pow_pos _), trivial⟩ rfl rfl
  have e11 := bits_pack 10 0 [(5, d.val), (6, 36)] (Nat.two_pow_pos _) 20 11 [(3, g.val), (2, 0), (6, 9)] ⟨b1, (Nat.two_pow_pos _), (by decide), trivial⟩ rfl rfl
  have e21 := bits_pack 5 d.val [(6, 36)] b0 25 21 [(3, g.val), (2, 0), (6, 9), (10, 0)] ⟨b1, (Nat.two_pow_pos _), (by decide), (Nat.two_pow_pos _), trivial⟩ rfl rfl
  have e26 := bits_pack 6 36 [] (by decide) 31 26 [(3, g.val), (2, 0), (6, 9), (10, 0), (5, d.val)] ⟨b1, (Nat.two_pow_pos _), (by decide), (Nat.two_pow_pos _), b0, trivial⟩ rfl rfl
  simp only [List.nil_append, List.cons_append] at e0 e3 e5 e11 e21 e26
  have hl : pack [(3, g.val), (2, 0), (6, 9), (10, 0), (5, d.val), (6, 36)] < 2 ^ 32 := pack_lt [(3, g.val), (2, 0), (6, 9), (10, 0), (5, d.val), (6, 36)] ⟨b1, (Nat.two_pow_pos _), (by decide), (Nat.two_pow_pos _), b0, (by decide), trivial⟩ rfl
  generalize pack [(3, g.val), (2, 0), (6, 9), (10, 0), (5, d.val), (6, 36)] = wd at *
  refine decode_of wd hn.symm ?_ hw hl
  · rw [major_36 e26]; simp only [decodeAutomaton, e5, e0, e3, e11, e21, reduceIte, ofNat_val]

theorem Sys2Proof.Laws.Roundtrip.tbind (a : PReg) (b : PReg) : Statement (.tbind a b) := by
  intro _ hw
  have hn : ∀ x0 x1 : Nat, pack [(5, 0), (6, 0), (3, x1), (2, 0), (3, x0), (7, 0), (6, 37)] = fields 0x94000000 [(x0, 16), (x1, 11)] := by
    intros; simp only [pack_eq, packAt_cons, packAt_nil, Nat.reduceAdd, fields_cons, fields_nil]; omega
  replace hn := hn a.val b.val
  have b0 := a.isLt
  have b1 := b.isLt
  have e0 := bits_pack 5 0 [(6, 0), (3, b.val), (2, 0), (3, a.val), (7, 0), (6, 37)] (Nat.two_pow_pos _) 4 0 [] trivial rfl rfl
  have e5 := bits_pack 6 0 [(3, b.val), (2, 0), (3, a.val), (7, 0), (6, 37)] (Nat.two_pow_pos _) 10 5 [(5, 0)] ⟨(Nat.two_pow_pos _), trivial⟩ rfl rfl
  have e11 := bits_pack 3 b.val [(2, 0), (3, a.val), (7, 0), (6, 37)] b1 13 11 [(5, 0), (6, 0)] ⟨(Nat.two_pow_pos _), (Nat.two_pow_pos _), trivial⟩ rfl rfl
  have e14 := bits_pack 2 0 [(3, a.val), (7, 0), (6, 37)] (Nat.two_pow_pos _) 15 14 [(5, 0), (6, 0), (3, b.val)] ⟨(Nat.two_pow_pos _), (Nat.two_pow_pos _), b1, trivial⟩ rfl rfl
  have e16 := bits_pack 3 a.val [(7, 0), (6, 37)] b0 18 16 [(5, 0), (6, 0), (3, b.val), (2, 0)] ⟨(Nat.two_pow_pos _), (Nat.two_pow_pos _), b1, (Nat.two_pow_pos _), trivial⟩ rfl rfl
  have e19 := bits_pack 7 0 [(6, 37)] (Nat.two_pow_pos _) 25 19 [(5, 0), (6, 0), (3, b.val), (2, 0), (3, a.val)] ⟨(Nat.two_pow_pos _), (Nat.two_pow_pos _), b1, (Nat.two_pow_pos _), b0, trivial⟩ rfl rfl
  have e26 := bits_pack 6 37 [] (by decide) 31 26 [(5, 0), (6, 0), (3, b.val), (2, 0), (3, a.val), (7, 0)] ⟨(Nat.two_pow_pos _), (Nat.two_pow_pos _), b1, (Nat.two_pow_pos _), b0, (Nat.two_pow_pos _), trivial⟩ rfl rfl
  simp only [List.nil_append, List.cons_append] at e0 e5 e11 e14 e16 e19 e26
  have hl : pack [(5, 0), (6, 0), (3, b.val), (2, 0), (3, a.val), (7, 0), (6, 37)] < 2 ^ 32 := pack_lt [(5, 0), (6, 0), (3, b.val), (2, 0), (3, a.val), (7, 0), (6, 37)] ⟨(Nat.two_pow_pos _), (Nat.two_pow_pos _), b1, (Nat.two_pow_pos _), b0, (Nat.two_pow_pos _), (by decide), trivial⟩ rfl
  generalize pack [(5, 0), (6, 0), (3, b.val), (2, 0), (3, a.val), (7, 0), (6, 37)] = wd at *
  refine decode_of wd hn.symm ?_ hw hl
  · rw [major_37 e26]; simp only [decodeDirectory, e5, e0, e11, e14, e16, e19, reduceIte, ofNat_val]

theorem Sys2Proof.Laws.Roundtrip.tbindm (a : PReg) (b : Reg) : Statement (.tbindm a b) := by
  intro _ hw
  have hn : ∀ x0 x1 : Nat, pack [(5, 0), (6, 1), (5, x1), (3, x0), (7, 0), (6, 37)] = fields 0x94000020 [(x0, 16), (x1, 11)] := by
    intros; simp only [pack_eq, packAt_cons, packAt_nil, Nat.reduceAdd, fields_cons, fields_nil]; omega
  replace hn := hn a.val b.val
  have b0 := a.isLt
  have b1 := b.isLt
  have e0 := bits_pack 5 0 [(6, 1), (5, b.val), (3, a.val), (7, 0), (6, 37)] (Nat.two_pow_pos _) 4 0 [] trivial rfl rfl
  have e5 := bits_pack 6 1 [(5, b.val), (3, a.val), (7, 0), (6, 37)] (by decide) 10 5 [(5, 0)] ⟨(Nat.two_pow_pos _), trivial⟩ rfl rfl
  have e11 := bits_pack 5 b.val [(3, a.val), (7, 0), (6, 37)] b1 15 11 [(5, 0), (6, 1)] ⟨(Nat.two_pow_pos _), (by decide), trivial⟩ rfl rfl
  have e16 := bits_pack 3 a.val [(7, 0), (6, 37)] b0 18 16 [(5, 0), (6, 1), (5, b.val)] ⟨(Nat.two_pow_pos _), (by decide), b1, trivial⟩ rfl rfl
  have e19 := bits_pack 7 0 [(6, 37)] (Nat.two_pow_pos _) 25 19 [(5, 0), (6, 1), (5, b.val), (3, a.val)] ⟨(Nat.two_pow_pos _), (by decide), b1, b0, trivial⟩ rfl rfl
  have e26 := bits_pack 6 37 [] (by decide) 31 26 [(5, 0), (6, 1), (5, b.val), (3, a.val), (7, 0)] ⟨(Nat.two_pow_pos _), (by decide), b1, b0, (Nat.two_pow_pos _), trivial⟩ rfl rfl
  simp only [List.nil_append, List.cons_append] at e0 e5 e11 e16 e19 e26
  have hl : pack [(5, 0), (6, 1), (5, b.val), (3, a.val), (7, 0), (6, 37)] < 2 ^ 32 := pack_lt [(5, 0), (6, 1), (5, b.val), (3, a.val), (7, 0), (6, 37)] ⟨(Nat.two_pow_pos _), (by decide), b1, b0, (Nat.two_pow_pos _), (by decide), trivial⟩ rfl
  generalize pack [(5, 0), (6, 1), (5, b.val), (3, a.val), (7, 0), (6, 37)] = wd at *
  refine decode_of wd hn.symm ?_ hw hl
  · rw [major_37 e26]; simp only [decodeDirectory, e5, e0, e11, e16, e19, reduceIte, ofNat_val]

theorem Sys2Proof.Laws.Roundtrip.tunbind (a : PReg) : Statement (.tunbind a) := by
  intro _ hw
  have hn : ∀ x0 : Nat, pack [(5, 0), (6, 2), (5, 0), (3, x0), (7, 0), (6, 37)] = fields 0x94000040 [(x0, 16)] := by
    intros; simp only [pack_eq, packAt_cons, packAt_nil, Nat.reduceAdd, fields_cons, fields_nil]; omega
  replace hn := hn a.val
  have b0 := a.isLt
  have e0 := bits_pack 5 0 [(6, 2), (5, 0), (3, a.val), (7, 0), (6, 37)] (Nat.two_pow_pos _) 4 0 [] trivial rfl rfl
  have e5 := bits_pack 6 2 [(5, 0), (3, a.val), (7, 0), (6, 37)] (by decide) 10 5 [(5, 0)] ⟨(Nat.two_pow_pos _), trivial⟩ rfl rfl
  have e11 := bits_pack 5 0 [(3, a.val), (7, 0), (6, 37)] (Nat.two_pow_pos _) 15 11 [(5, 0), (6, 2)] ⟨(Nat.two_pow_pos _), (by decide), trivial⟩ rfl rfl
  have e16 := bits_pack 3 a.val [(7, 0), (6, 37)] b0 18 16 [(5, 0), (6, 2), (5, 0)] ⟨(Nat.two_pow_pos _), (by decide), (Nat.two_pow_pos _), trivial⟩ rfl rfl
  have e19 := bits_pack 7 0 [(6, 37)] (Nat.two_pow_pos _) 25 19 [(5, 0), (6, 2), (5, 0), (3, a.val)] ⟨(Nat.two_pow_pos _), (by decide), (Nat.two_pow_pos _), b0, trivial⟩ rfl rfl
  have e26 := bits_pack 6 37 [] (by decide) 31 26 [(5, 0), (6, 2), (5, 0), (3, a.val), (7, 0)] ⟨(Nat.two_pow_pos _), (by decide), (Nat.two_pow_pos _), b0, (Nat.two_pow_pos _), trivial⟩ rfl rfl
  simp only [List.nil_append, List.cons_append] at e0 e5 e11 e16 e19 e26
  have hl : pack [(5, 0), (6, 2), (5, 0), (3, a.val), (7, 0), (6, 37)] < 2 ^ 32 := pack_lt [(5, 0), (6, 2), (5, 0), (3, a.val), (7, 0), (6, 37)] ⟨(Nat.two_pow_pos _), (by decide), (Nat.two_pow_pos _), b0, (Nat.two_pow_pos _), (by decide), trivial⟩ rfl
  generalize pack [(5, 0), (6, 2), (5, 0), (3, a.val), (7, 0), (6, 37)] = wd at *
  refine decode_of wd hn.symm ?_ hw hl
  · rw [major_37 e26]; simp only [decodeDirectory, e5, e0, e11, e16, e19, reduceIte, ofNat_val]

theorem Sys2Proof.Laws.Roundtrip.topen (d : Reg) (a : PReg) : Statement (.topen d a) := by
  intro _ hw
  have hn : ∀ x0 x1 : Nat, pack [(5, 0), (6, 3), (5, 0), (3, x1), (2, 0), (5, x0), (6, 37)] = fields 0x94000060 [(x0, 21), (x1, 16)] := by
    intros; simp only [pack_eq, packAt_cons, packAt_nil, Nat.reduceAdd, fields_cons, fields_nil]; omega
  replace hn := hn d.val a.val
  have b0 := d.isLt
  have b1 := a.isLt
  have e0 := bits_pack 5 0 [(6, 3), (5, 0), (3, a.val), (2, 0), (5, d.val), (6, 37)] (Nat.two_pow_pos _) 4 0 [] trivial rfl rfl
  have e5 := bits_pack 6 3 [(5, 0), (3, a.val), (2, 0), (5, d.val), (6, 37)] (by decide) 10 5 [(5, 0)] ⟨(Nat.two_pow_pos _), trivial⟩ rfl rfl
  have e11 := bits_pack 5 0 [(3, a.val), (2, 0), (5, d.val), (6, 37)] (Nat.two_pow_pos _) 15 11 [(5, 0), (6, 3)] ⟨(Nat.two_pow_pos _), (by decide), trivial⟩ rfl rfl
  have e16 := bits_pack 3 a.val [(2, 0), (5, d.val), (6, 37)] b1 18 16 [(5, 0), (6, 3), (5, 0)] ⟨(Nat.two_pow_pos _), (by decide), (Nat.two_pow_pos _), trivial⟩ rfl rfl
  have e19 := bits_pack 2 0 [(5, d.val), (6, 37)] (Nat.two_pow_pos _) 20 19 [(5, 0), (6, 3), (5, 0), (3, a.val)] ⟨(Nat.two_pow_pos _), (by decide), (Nat.two_pow_pos _), b1, trivial⟩ rfl rfl
  have e21 := bits_pack 5 d.val [(6, 37)] b0 25 21 [(5, 0), (6, 3), (5, 0), (3, a.val), (2, 0)] ⟨(Nat.two_pow_pos _), (by decide), (Nat.two_pow_pos _), b1, (Nat.two_pow_pos _), trivial⟩ rfl rfl
  have e26 := bits_pack 6 37 [] (by decide) 31 26 [(5, 0), (6, 3), (5, 0), (3, a.val), (2, 0), (5, d.val)] ⟨(Nat.two_pow_pos _), (by decide), (Nat.two_pow_pos _), b1, (Nat.two_pow_pos _), b0, trivial⟩ rfl rfl
  simp only [List.nil_append, List.cons_append] at e0 e5 e11 e16 e19 e21 e26
  have hl : pack [(5, 0), (6, 3), (5, 0), (3, a.val), (2, 0), (5, d.val), (6, 37)] < 2 ^ 32 := pack_lt [(5, 0), (6, 3), (5, 0), (3, a.val), (2, 0), (5, d.val), (6, 37)] ⟨(Nat.two_pow_pos _), (by decide), (Nat.two_pow_pos _), b1, (Nat.two_pow_pos _), b0, (by decide), trivial⟩ rfl
  generalize pack [(5, 0), (6, 3), (5, 0), (3, a.val), (2, 0), (5, d.val), (6, 37)] = wd at *
  refine decode_of wd hn.symm ?_ hw hl
  · rw [major_37 e26]; simp only [decodeDirectory, e5, e0, e11, e16, e19, e21, reduceIte, ofNat_val]

theorem Sys2Proof.Laws.Roundtrip.topenw (d : Reg) (a : PReg) (b : Reg) : Statement (.topenw d a b) := by
  intro _ hw
  have hn : ∀ x0 x1 x2 : Nat, pack [(5, 0), (6, 4), (5, x2), (3, x1), (2, 0), (5, x0), (6, 37)] = fields 0x94000080 [(x0, 21), (x1, 16), (x2, 11)] := by
    intros; simp only [pack_eq, packAt_cons, packAt_nil, Nat.reduceAdd, fields_cons, fields_nil]; omega
  replace hn := hn d.val a.val b.val
  have b0 := d.isLt
  have b1 := a.isLt
  have b2 := b.isLt
  have e0 := bits_pack 5 0 [(6, 4), (5, b.val), (3, a.val), (2, 0), (5, d.val), (6, 37)] (Nat.two_pow_pos _) 4 0 [] trivial rfl rfl
  have e5 := bits_pack 6 4 [(5, b.val), (3, a.val), (2, 0), (5, d.val), (6, 37)] (by decide) 10 5 [(5, 0)] ⟨(Nat.two_pow_pos _), trivial⟩ rfl rfl
  have e11 := bits_pack 5 b.val [(3, a.val), (2, 0), (5, d.val), (6, 37)] b2 15 11 [(5, 0), (6, 4)] ⟨(Nat.two_pow_pos _), (by decide), trivial⟩ rfl rfl
  have e16 := bits_pack 3 a.val [(2, 0), (5, d.val), (6, 37)] b1 18 16 [(5, 0), (6, 4), (5, b.val)] ⟨(Nat.two_pow_pos _), (by decide), b2, trivial⟩ rfl rfl
  have e19 := bits_pack 2 0 [(5, d.val), (6, 37)] (Nat.two_pow_pos _) 20 19 [(5, 0), (6, 4), (5, b.val), (3, a.val)] ⟨(Nat.two_pow_pos _), (by decide), b2, b1, trivial⟩ rfl rfl
  have e21 := bits_pack 5 d.val [(6, 37)] b0 25 21 [(5, 0), (6, 4), (5, b.val), (3, a.val), (2, 0)] ⟨(Nat.two_pow_pos _), (by decide), b2, b1, (Nat.two_pow_pos _), trivial⟩ rfl rfl
  have e26 := bits_pack 6 37 [] (by decide) 31 26 [(5, 0), (6, 4), (5, b.val), (3, a.val), (2, 0), (5, d.val)] ⟨(Nat.two_pow_pos _), (by decide), b2, b1, (Nat.two_pow_pos _), b0, trivial⟩ rfl rfl
  simp only [List.nil_append, List.cons_append] at e0 e5 e11 e16 e19 e21 e26
  have hl : pack [(5, 0), (6, 4), (5, b.val), (3, a.val), (2, 0), (5, d.val), (6, 37)] < 2 ^ 32 := pack_lt [(5, 0), (6, 4), (5, b.val), (3, a.val), (2, 0), (5, d.val), (6, 37)] ⟨(Nat.two_pow_pos _), (by decide), b2, b1, (Nat.two_pow_pos _), b0, (by decide), trivial⟩ rfl
  generalize pack [(5, 0), (6, 4), (5, b.val), (3, a.val), (2, 0), (5, d.val), (6, 37)] = wd at *
  refine decode_of wd hn.symm ?_ hw hl
  · rw [major_37 e26]; simp only [decodeDirectory, e5, e0, e11, e16, e19, e21, reduceIte, ofNat_val]

theorem Sys2Proof.Laws.Roundtrip.topenwTimeout (slot : SlotId) : Statement (.topenwTimeout slot) := fun h => absurd h (Bool.false_ne_true)

theorem Sys2Proof.Laws.Roundtrip.tclose (a : Reg) : Statement (.tclose a) := by
  intro _ hw
  have hn : ∀ x0 : Nat, pack [(5, 0), (6, 5), (5, 0), (5, x0), (5, 0), (6, 37)] = fields 0x940000A0 [(x0, 16)] := by
    intros; simp only [pack_eq, packAt_cons, packAt_nil, Nat.reduceAdd, fields_cons, fields_nil]; omega
  replace hn := hn a.val
  have b0 := a.isLt
  have e0 := bits_pack 5 0 [(6, 5), (5, 0), (5, a.val), (5, 0), (6, 37)] (Nat.two_pow_pos _) 4 0 [] trivial rfl rfl
  have e5 := bits_pack 6 5 [(5, 0), (5, a.val), (5, 0), (6, 37)] (by decide) 10 5 [(5, 0)] ⟨(Nat.two_pow_pos _), trivial⟩ rfl rfl
  have e11 := bits_pack 5 0 [(5, a.val), (5, 0), (6, 37)] (Nat.two_pow_pos _) 15 11 [(5, 0), (6, 5)] ⟨(Nat.two_pow_pos _), (by decide), trivial⟩ rfl rfl
  have e16 := bits_pack 5 a.val [(5, 0), (6, 37)] b0 20 16 [(5, 0), (6, 5), (5, 0)] ⟨(Nat.two_pow_pos _), (by decide), (Nat.two_pow_pos _), trivial⟩ rfl rfl
  have e21 := bits_pack 5 0 [(6, 37)] (Nat.two_pow_pos _) 25 21 [(5, 0), (6, 5), (5, 0), (5, a.val)] ⟨(Nat.two_pow_pos _), (by decide), (Nat.two_pow_pos _), b0, trivial⟩ rfl rfl
  have e26 := bits_pack 6 37 [] (by decide) 31 26 [(5, 0), (6, 5), (5, 0), (5, a.val), (5, 0)] ⟨(Nat.two_pow_pos _), (by decide), (Nat.two_pow_pos _), b0, (Nat.two_pow_pos _), trivial⟩ rfl rfl
  simp only [List.nil_append, List.cons_append] at e0 e5 e11 e16 e21 e26
  have hl : pack [(5, 0), (6, 5), (5, 0), (5, a.val), (5, 0), (6, 37)] < 2 ^ 32 := pack_lt [(5, 0), (6, 5), (5, 0), (5, a.val), (5, 0), (6, 37)] ⟨(Nat.two_pow_pos _), (by decide), (Nat.two_pow_pos _), b0, (Nat.two_pow_pos _), (by decide), trivial⟩ rfl
  generalize pack [(5, 0), (6, 5), (5, 0), (5, a.val), (5, 0), (6, 37)] = wd at *
  refine decode_of wd hn.symm ?_ hw hl
  · rw [major_37 e26]; simp only [decodeDirectory, e5, e0, e11, e16, e21, reduceIte, ofNat_val]

theorem Sys2Proof.Laws.Roundtrip.tinfo (d : Reg) (a : Reg) (i : Fin 16) : Statement (.tinfo d a i) := by
  intro _ hw
  have hn : ∀ x0 x1 x2 : Nat, pack [(4, x2), (1, 0), (6, 6), (5, 0), (5, x1), (5, x0), (6, 37)] = fields 0x940000C0 [(x0, 21), (x1, 16), (x2, 0)] := by
    intros; simp only [pack_eq, packAt_cons, packAt_nil, Nat.reduceAdd, fields_cons, fields_nil]; omega
  replace hn := hn d.val a.val i.val
  have b0 := d.isLt
  have b1 := a.isLt
  have b2 := i.isLt
  have e0 := bits_pack 4 i.val [(1, 0), (6, 6), (5, 0), (5, a.val), (5, d.val), (6, 37)] b2 3 0 [] trivial rfl rfl
  have e4 := bits_pack 1 0 [(6, 6), (5, 0), (5, a.val), (5, d.val), (6, 37)] (Nat.two_pow_pos _) 4 4 [(4, i.val)] ⟨b2, trivial⟩ rfl rfl
  have e5 := bits_pack 6 6 [(5, 0), (5, a.val), (5, d.val), (6, 37)] (by decide) 10 5 [(4, i.val), (1, 0)] ⟨b2, (Nat.two_pow_pos _), trivial⟩ rfl rfl
  have e11 := bits_pack 5 0 [(5, a.val), (5, d.val), (6, 37)] (Nat.two_pow_pos _) 15 11 [(4, i.val), (1, 0), (6, 6)] ⟨b2, (Nat.two_pow_pos _), (by decide), trivial⟩ rfl rfl
  have e16 := bits_pack 5 a.val [(5, d.val), (6, 37)] b1 20 16 [(4, i.val), (1, 0), (6, 6), (5, 0)] ⟨b2, (Nat.two_pow_pos _), (by decide), (Nat.two_pow_pos _), trivial⟩ rfl rfl
  have e21 := bits_pack 5 d.val [(6, 37)] b0 25 21 [(4, i.val), (1, 0), (6, 6), (5, 0), (5, a.val)] ⟨b2, (Nat.two_pow_pos _), (by decide), (Nat.two_pow_pos _), b1, trivial⟩ rfl rfl
  have e26 := bits_pack 6 37 [] (by decide) 31 26 [(4, i.val), (1, 0), (6, 6), (5, 0), (5, a.val), (5, d.val)] ⟨b2, (Nat.two_pow_pos _), (by decide), (Nat.two_pow_pos _), b1, b0, trivial⟩ rfl rfl
  simp only [List.nil_append, List.cons_append] at e0 e4 e5 e11 e16 e21 e26
  have hl : pack [(4, i.val), (1, 0), (6, 6), (5, 0), (5, a.val), (5, d.val), (6, 37)] < 2 ^ 32 := pack_lt [(4, i.val), (1, 0), (6, 6), (5, 0), (5, a.val), (5, d.val), (6, 37)] ⟨b2, (Nat.two_pow_pos _), (by decide), (Nat.two_pow_pos _), b1, b0, (by decide), trivial⟩ rfl
  generalize pack [(4, i.val), (1, 0), (6, 6), (5, 0), (5, a.val), (5, d.val), (6, 37)] = wd at *
  refine decode_of wd hn.symm ?_ hw hl
  · rw [major_37 e26]; simp only [decodeDirectory, e5, e0, e4, e11, e16, e21, reduceIte, ofNat_val]

theorem Sys2Proof.Laws.Roundtrip.thaddr (d : Reg) (a : Reg) (b : Reg) : Statement (.thaddr d a b) := by
  intro _ hw
  have hn : ∀ x0 x1 x2 : Nat, pack [(5, 0), (6, 7), (5, x2), (5, x1), (5, x0), (6, 37)] = fields 0x940000E0 [(x0, 21), (x1, 16), (x2, 11)] := by
    intros; simp only [pack_eq, packAt_cons, packAt_nil, Nat.reduceAdd, fields_cons, fields_nil]; omega
  replace hn := hn d.val a.val b.val
  have b0 := d.isLt
  have b1 := a.isLt
  have b2 := b.isLt
  have e0 := bits_pack 5 0 [(6, 7), (5, b.val), (5, a.val), (5, d.val), (6, 37)] (Nat.two_pow_pos _) 4 0 [] trivial rfl rfl
  have e5 := bits_pack 6 7 [(5, b.val), (5, a.val), (5, d.val), (6, 37)] (by decide) 10 5 [(5, 0)] ⟨(Nat.two_pow_pos _), trivial⟩ rfl rfl
  have e11 := bits_pack 5 b.val [(5, a.val), (5, d.val), (6, 37)] b2 15 11 [(5, 0), (6, 7)] ⟨(Nat.two_pow_pos _), (by decide), trivial⟩ rfl rfl
  have e16 := bits_pack 5 a.val [(5, d.val), (6, 37)] b1 20 16 [(5, 0), (6, 7), (5, b.val)] ⟨(Nat.two_pow_pos _), (by decide), b2, trivial⟩ rfl rfl
  have e21 := bits_pack 5 d.val [(6, 37)] b0 25 21 [(5, 0), (6, 7), (5, b.val), (5, a.val)] ⟨(Nat.two_pow_pos _), (by decide), b2, b1, trivial⟩ rfl rfl
  have e26 := bits_pack 6 37 [] (by decide) 31 26 [(5, 0), (6, 7), (5, b.val), (5, a.val), (5, d.val)] ⟨(Nat.two_pow_pos _), (by decide), b2, b1, b0, trivial⟩ rfl rfl
  simp only [List.nil_append, List.cons_append] at e0 e5 e11 e16 e21 e26
  have hl : pack [(5, 0), (6, 7), (5, b.val), (5, a.val), (5, d.val), (6, 37)] < 2 ^ 32 := pack_lt [(5, 0), (6, 7), (5, b.val), (5, a.val), (5, d.val), (6, 37)] ⟨(Nat.two_pow_pos _), (by decide), b2, b1, b0, (by decide), trivial⟩ rfl
  generalize pack [(5, 0), (6, 7), (5, b.val), (5, a.val), (5, d.val), (6, 37)] = wd at *
  refine decode_of wd hn.symm ?_ hw hl
  · rw [major_37 e26]; simp only [decodeDirectory, e5, e0, e11, e16, e21, reduceIte, ofNat_val]

theorem Sys2Proof.Laws.Roundtrip.spawn (d : Reg) (a : PReg) : Statement (.spawn d a) := by
  intro _ hw
  have hn : ∀ x0 x1 : Nat, pack [(5, 0), (6, 0), (5, 0), (3, x1), (2, 0), (5, x0), (6, 38)] = fields 0x98000000 [(x0, 21), (x1, 16)] := by
    intros; simp only [pack_eq, packAt_cons, packAt_nil, Nat.reduceAdd, fields_cons, fields_nil]; omega
  replace hn := hn d.val a.val
  have b0 := d.isLt
  have b1 := a.isLt
  have e0 := bits_pack 5 0 [(6, 0), (5, 0), (3, a.val), (2, 0), (5, d.val), (6, 38)] (Nat.two_pow_pos _) 4 0 [] trivial rfl rfl
  have e5 := bits_pack 6 0 [(5, 0), (3, a.val), (2, 0), (5, d.val), (6, 38)] (Nat.two_pow_pos _) 10 5 [(5, 0)] ⟨(Nat.two_pow_pos _), trivial⟩ rfl rfl
  have e11 := bits_pack 5 0 [(3, a.val), (2, 0), (5, d.val), (6, 38)] (Nat.two_pow_pos _) 15 11 [(5, 0), (6, 0)] ⟨(Nat.two_pow_pos _), (Nat.two_pow_pos _), trivial⟩ rfl rfl
  have e16 := bits_pack 3 a.val [(2, 0), (5, d.val), (6, 38)] b1 18 16 [(5, 0), (6, 0), (5, 0)] ⟨(Nat.two_pow_pos _), (Nat.two_pow_pos _), (Nat.two_pow_pos _), trivial⟩ rfl rfl
  have e19 := bits_pack 2 0 [(5, d.val), (6, 38)] (Nat.two_pow_pos _) 20 19 [(5, 0), (6, 0), (5, 0), (3, a.val)] ⟨(Nat.two_pow_pos _), (Nat.two_pow_pos _), (Nat.two_pow_pos _), b1, trivial⟩ rfl rfl
  have e21 := bits_pack 5 d.val [(6, 38)] b0 25 21 [(5, 0), (6, 0), (5, 0), (3, a.val), (2, 0)] ⟨(Nat.two_pow_pos _), (Nat.two_pow_pos _), (Nat.two_pow_pos _), b1, (Nat.two_pow_pos _), trivial⟩ rfl rfl
  have e26 := bits_pack 6 38 [] (by decide) 31 26 [(5, 0), (6, 0), (5, 0), (3, a.val), (2, 0), (5, d.val)] ⟨(Nat.two_pow_pos _), (Nat.two_pow_pos _), (Nat.two_pow_pos _), b1, (Nat.two_pow_pos _), b0, trivial⟩ rfl rfl
  simp only [List.nil_append, List.cons_append] at e0 e5 e11 e16 e19 e21 e26
  have hl : pack [(5, 0), (6, 0), (5, 0), (3, a.val), (2, 0), (5, d.val), (6, 38)] < 2 ^ 32 := pack_lt [(5, 0), (6, 0), (5, 0), (3, a.val), (2, 0), (5, d.val), (6, 38)] ⟨(Nat.two_pow_pos _), (Nat.two_pow_pos _), (Nat.two_pow_pos _), b1, (Nat.two_pow_pos _), b0, (by decide), trivial⟩ rfl
  generalize pack [(5, 0), (6, 0), (5, 0), (3, a.val), (2, 0), (5, d.val), (6, 38)] = wd at *
  refine decode_of wd hn.symm ?_ hw hl
  · rw [major_38 e26]; simp only [decodeGraph, e5, e0, e11, e16, e19, e21, reduceIte, ofNat_val]

theorem Sys2Proof.Laws.Roundtrip.nend : Statement .nend := by
  intro _ hw
  have hn : pack [(5, 0), (6, 1), (15, 0), (6, 38)] = 0x98000020 := rfl
  have e0 := bits_pack 5 0 [(6, 1), (15, 0), (6, 38)] (Nat.two_pow_pos _) 4 0 [] trivial rfl rfl
  have e5 := bits_pack 6 1 [(15, 0), (6, 38)] (by decide) 10 5 [(5, 0)] ⟨(Nat.two_pow_pos _), trivial⟩ rfl rfl
  have e11 := bits_pack 15 0 [(6, 38)] (Nat.two_pow_pos _) 25 11 [(5, 0), (6, 1)] ⟨(Nat.two_pow_pos _), (by decide), trivial⟩ rfl rfl
  have e26 := bits_pack 6 38 [] (by decide) 31 26 [(5, 0), (6, 1), (15, 0)] ⟨(Nat.two_pow_pos _), (by decide), (Nat.two_pow_pos _), trivial⟩ rfl rfl
  simp only [List.nil_append, List.cons_append] at e0 e5 e11 e26
  have hl : pack [(5, 0), (6, 1), (15, 0), (6, 38)] < 2 ^ 32 := pack_lt [(5, 0), (6, 1), (15, 0), (6, 38)] ⟨(Nat.two_pow_pos _), (by decide), (Nat.two_pow_pos _), (by decide), trivial⟩ rfl
  generalize pack [(5, 0), (6, 1), (15, 0), (6, 38)] = wd at *
  refine decode_of wd hn.symm ?_ hw hl
  · rw [major_38 e26]; simp only [decodeGraph, e5, e0, e11, reduceIte]

theorem Sys2Proof.Laws.Roundtrip.nwait (a : Reg) : Statement (.nwait a) := by
  intro _ hw
  have hn : ∀ x0 : Nat, pack [(5, 0), (6, 2), (5, 0), (5, x0), (5, 0), (6, 38)] = fields 0x98000040 [(x0, 16)] := by
    intros; simp only [pack_eq, packAt_cons, packAt_nil, Nat.reduceAdd, fields_cons, fields_nil]; omega
  replace hn := hn a.val
  have b0 := a.isLt
  have e0 := bits_pack 5 0 [(6, 2), (5, 0), (5, a.val), (5, 0), (6, 38)] (Nat.two_pow_pos _) 4 0 [] trivial rfl rfl
  have e5 := bits_pack 6 2 [(5, 0), (5, a.val), (5, 0), (6, 38)] (by decide) 10 5 [(5, 0)] ⟨(Nat.two_pow_pos _), trivial⟩ rfl rfl
  have e11 := bits_pack 5 0 [(5, a.val), (5, 0), (6, 38)] (Nat.two_pow_pos _) 15 11 [(5, 0), (6, 2)] ⟨(Nat.two_pow_pos _), (by decide), trivial⟩ rfl rfl
  have e16 := bits_pack 5 a.val [(5, 0), (6, 38)] b0 20 16 [(5, 0), (6, 2), (5, 0)] ⟨(Nat.two_pow_pos _), (by decide), (Nat.two_pow_pos _), trivial⟩ rfl rfl
  have e21 := bits_pack 5 0 [(6, 38)] (Nat.two_pow_pos _) 25 21 [(5, 0), (6, 2), (5, 0), (5, a.val)] ⟨(Nat.two_pow_pos _), (by decide), (Nat.two_pow_pos _), b0, trivial⟩ rfl rfl
  have e26 := bits_pack 6 38 [] (by decide) 31 26 [(5, 0), (6, 2), (5, 0), (5, a.val), (5, 0)] ⟨(Nat.two_pow_pos _), (by decide), (Nat.two_pow_pos _), b0, (Nat.two_pow_pos _), trivial⟩ rfl rfl
  simp only [List.nil_append, List.cons_append] at e0 e5 e11 e16 e21 e26
  have hl : pack [(5, 0), (6, 2), (5, 0), (5, a.val), (5, 0), (6, 38)] < 2 ^ 32 := pack_lt [(5, 0), (6, 2), (5, 0), (5, a.val), (5, 0), (6, 38)] ⟨(Nat.two_pow_pos _), (by decide), (Nat.two_pow_pos _), b0, (Nat.two_pow_pos _), (by decide), trivial⟩ rfl
  generalize pack [(5, 0), (6, 2), (5, 0), (5, a.val), (5, 0), (6, 38)] = wd at *
  refine decode_of wd hn.symm ?_ hw hl
  · rw [major_38 e26]; simp only [decodeGraph, e5, e0, e11, e16, e21, reduceIte, ofNat_val]

theorem Sys2Proof.Laws.Roundtrip.barr (a : Reg) (c : Fin 16) : Statement (.barr a c) := by
  intro _ hw
  have hn : ∀ x0 x1 : Nat, pack [(4, x1), (1, 0), (6, 3), (5, 0), (5, x0), (5, 0), (6, 38)] = fields 0x98000060 [(x0, 16), (x1, 0)] := by
    intros; simp only [pack_eq, packAt_cons, packAt_nil, Nat.reduceAdd, fields_cons, fields_nil]; omega
  replace hn := hn a.val c.val
  have b0 := a.isLt
  have b1 := c.isLt
  have e0 := bits_pack 4 c.val [(1, 0), (6, 3), (5, 0), (5, a.val), (5, 0), (6, 38)] b1 3 0 [] trivial rfl rfl
  have e4 := bits_pack 1 0 [(6, 3), (5, 0), (5, a.val), (5, 0), (6, 38)] (Nat.two_pow_pos _) 4 4 [(4, c.val)] ⟨b1, trivial⟩ rfl rfl
  have e5 := bits_pack 6 3 [(5, 0), (5, a.val), (5, 0), (6, 38)] (by decide) 10 5 [(4, c.val), (1, 0)] ⟨b1, (Nat.two_pow_pos _), trivial⟩ rfl rfl
  have e11 := bits_pack 5 0 [(5, a.val), (5, 0), (6, 38)] (Nat.two_pow_pos _) 15 11 [(4, c.val), (1, 0), (6, 3)] ⟨b1, (Nat.two_pow_pos _), (by decide), trivial⟩ rfl rfl
  have e16 := bits_pack 5 a.val [(5, 0), (6, 38)] b0 20 16 [(4, c.val), (1, 0), (6, 3), (5, 0)] ⟨b1, (Nat.two_pow_pos _), (by decide), (Nat.two_pow_pos _), trivial⟩ rfl rfl
  have e21 := bits_pack 5 0 [(6, 38)] (Nat.two_pow_pos _) 25 21 [(4, c.val), (1, 0), (6, 3), (5, 0), (5, a.val)] ⟨b1, (Nat.two_pow_pos _), (by decide), (Nat.two_pow_pos _), b0, trivial⟩ rfl rfl
  have e26 := bits_pack 6 38 [] (by decide) 31 26 [(4, c.val), (1, 0), (6, 3), (5, 0), (5, a.val), (5, 0)] ⟨b1, (Nat.two_pow_pos _), (by decide), (Nat.two_pow_pos _), b0, (Nat.two_pow_pos _), trivial⟩ rfl rfl
  simp only [List.nil_append, List.cons_append] at e0 e4 e5 e11 e16 e21 e26
  have hl : pack [(4, c.val), (1, 0), (6, 3), (5, 0), (5, a.val), (5, 0), (6, 38)] < 2 ^ 32 := pack_lt [(4, c.val), (1, 0), (6, 3), (5, 0), (5, a.val), (5, 0), (6, 38)] ⟨b1, (Nat.two_pow_pos _), (by decide), (Nat.two_pow_pos _), b0, (Nat.two_pow_pos _), (by decide), trivial⟩ rfl
  generalize pack [(4, c.val), (1, 0), (6, 3), (5, 0), (5, a.val), (5, 0), (6, 38)] = wd at *
  refine decode_of wd hn.symm ?_ hw hl
  · rw [major_38 e26]; simp only [decodeGraph, e5, e0, e4, e11, e16, e21, reduceIte, ofNat_val]

theorem Sys2Proof.Laws.Roundtrip.yardAny (d : Reg) (a : Reg) : Statement (.yardAny d a) := by
  intro _ hw
  have hn : ∀ x0 x1 : Nat, pack [(5, 0), (6, 4), (5, 0), (5, x1), (5, x0), (6, 38)] = fields 0x98000080 [(x0, 21), (x1, 16)] := by
    intros; simp only [pack_eq, packAt_cons, packAt_nil, Nat.reduceAdd, fields_cons, fields_nil]; omega
  replace hn := hn d.val a.val
  have b0 := d.isLt
  have b1 := a.isLt
  have e0 := bits_pack 5 0 [(6, 4), (5, 0), (5, a.val), (5, d.val), (6, 38)] (Nat.two_pow_pos _) 4 0 [] trivial rfl rfl
  have e5 := bits_pack 6 4 [(5, 0), (5, a.val), (5, d.val), (6, 38)] (by decide) 10 5 [(5, 0)] ⟨(Nat.two_pow_pos _), trivial⟩ rfl rfl
  have e11 := bits_pack 5 0 [(5, a.val), (5, d.val), (6, 38)] (Nat.two_pow_pos _) 15 11 [(5, 0), (6, 4)] ⟨(Nat.two_pow_pos _), (by decide), trivial⟩ rfl rfl
  have e16 := bits_pack 5 a.val [(5, d.val), (6, 38)] b1 20 16 [(5, 0), (6, 4), (5, 0)] ⟨(Nat.two_pow_pos _), (by decide), (Nat.two_pow_pos _), trivial⟩ rfl rfl
  have e21 := bits_pack 5 d.val [(6, 38)] b0 25 21 [(5, 0), (6, 4), (5, 0), (5, a.val)] ⟨(Nat.two_pow_pos _), (by decide), (Nat.two_pow_pos _), b1, trivial⟩ rfl rfl
  have e26 := bits_pack 6 38 [] (by decide) 31 26 [(5, 0), (6, 4), (5, 0), (5, a.val), (5, d.val)] ⟨(Nat.two_pow_pos _), (by decide), (Nat.two_pow_pos _), b1, b0, trivial⟩ rfl rfl
  simp only [List.nil_append, List.cons_append] at e0 e5 e11 e16 e21 e26
  have hl : pack [(5, 0), (6, 4), (5, 0), (5, a.val), (5, d.val), (6, 38)] < 2 ^ 32 := pack_lt [(5, 0), (6, 4), (5, 0), (5, a.val), (5, d.val), (6, 38)] ⟨(Nat.two_pow_pos _), (by decide), (Nat.two_pow_pos _), b1, b0, (by decide), trivial⟩ rfl
  generalize pack [(5, 0), (6, 4), (5, 0), (5, a.val), (5, d.val), (6, 38)] = wd at *
  refine decode_of wd hn.symm ?_ hw hl
  · rw [major_38 e26]; simp only [decodeGraph, e0, e5, e11, e16, e21, reduceIte, ofNat_val]

theorem Sys2Proof.Laws.Roundtrip.yardAll (d : Reg) (a : Reg) : Statement (.yardAll d a) := by
  intro _ hw
  have hn : ∀ x0 x1 : Nat, pack [(5, 1), (6, 4), (5, 0), (5, x1), (5, x0), (6, 38)] = fields 0x98000081 [(x0, 21), (x1, 16)] := by
    intros; simp only [pack_eq, packAt_cons, packAt_nil, Nat.reduceAdd, fields_cons, fields_nil]; omega
  replace hn := hn d.val a.val
  have b0 := d.isLt
  have b1 := a.isLt
  have e0 := bits_pack 5 1 [(6, 4), (5, 0), (5, a.val), (5, d.val), (6, 38)] (by decide) 4 0 [] trivial rfl rfl
  have e5 := bits_pack 6 4 [(5, 0), (5, a.val), (5, d.val), (6, 38)] (by decide) 10 5 [(5, 1)] ⟨(by decide), trivial⟩ rfl rfl
  have e11 := bits_pack 5 0 [(5, a.val), (5, d.val), (6, 38)] (Nat.two_pow_pos _) 15 11 [(5, 1), (6, 4)] ⟨(by decide), (by decide), trivial⟩ rfl rfl
  have e16 := bits_pack 5 a.val [(5, d.val), (6, 38)] b1 20 16 [(5, 1), (6, 4), (5, 0)] ⟨(by decide), (by decide), (Nat.two_pow_pos _), trivial⟩ rfl rfl
  have e21 := bits_pack 5 d.val [(6, 38)] b0 25 21 [(5, 1), (6, 4), (5, 0), (5, a.val)] ⟨(by decide), (by decide), (Nat.two_pow_pos _), b1, trivial⟩ rfl rfl
  have e26 := bits_pack 6 38 [] (by decide) 31 26 [(5, 1), (6, 4), (5, 0), (5, a.val), (5, d.val)] ⟨(by decide), (by decide), (Nat.two_pow_pos _), b1, b0, trivial⟩ rfl rfl
  simp only [List.nil_append, List.cons_append] at e0 e5 e11 e16 e21 e26
  have hl : pack [(5, 1), (6, 4), (5, 0), (5, a.val), (5, d.val), (6, 38)] < 2 ^ 32 := pack_lt [(5, 1), (6, 4), (5, 0), (5, a.val), (5, d.val), (6, 38)] ⟨(by decide), (by decide), (Nat.two_pow_pos _), b1, b0, (by decide), trivial⟩ rfl
  generalize pack [(5, 1), (6, 4), (5, 0), (5, a.val), (5, d.val), (6, 38)] = wd at *
  refine decode_of wd hn.symm ?_ hw hl
  · rw [major_38 e26]; simp only [decodeGraph, e0, e5, e11, e16, e21, reduceIte, ofNat_val]

theorem Sys2Proof.Laws.Roundtrip.yardDet : Statement .yardDet := by
  intro _ hw
  have hn : pack [(5, 2), (6, 4), (15, 0), (6, 38)] = 0x98000082 := rfl
  have e0 := bits_pack 5 2 [(6, 4), (15, 0), (6, 38)] (by decide) 4 0 [] trivial rfl rfl
  have e5 := bits_pack 6 4 [(15, 0), (6, 38)] (by decide) 10 5 [(5, 2)] ⟨(by decide), trivial⟩ rfl rfl
  have e11 := bits_pack 15 0 [(6, 38)] (Nat.two_pow_pos _) 25 11 [(5, 2), (6, 4)] ⟨(by decide), (by decide), trivial⟩ rfl rfl
  have e26 := bits_pack 6 38 [] (by decide) 31 26 [(5, 2), (6, 4), (15, 0)] ⟨(by decide), (by decide), (Nat.two_pow_pos _), trivial⟩ rfl rfl
  simp only [List.nil_append, List.cons_append] at e0 e5 e11 e26
  have hl : pack [(5, 2), (6, 4), (15, 0), (6, 38)] < 2 ^ 32 := pack_lt [(5, 2), (6, 4), (15, 0), (6, 38)] ⟨(by decide), (by decide), (Nat.two_pow_pos _), (by decide), trivial⟩ rfl
  generalize pack [(5, 2), (6, 4), (15, 0), (6, 38)] = wd at *
  refine decode_of wd hn.symm ?_ hw hl
  · rw [major_38 e26]; simp only [decodeGraph, e0, e5, e11, reduceIte]

theorem Sys2Proof.Laws.Roundtrip.cpy (d : PReg) (a : PReg) (b : Reg) (l : Bool) (n : Bool) (r : Bool) (q : Bool) : Statement (.cpy d a b l n r q) := by
  intro _ hw
  have hn : ∀ x0 x1 x2 x3 x4 x5 x6 : Nat, pack [(1, x6), (1, x5), (1, x4), (1, x3), (1, 0), (6, 0), (5, x2), (3, x1), (2, 0), (3, x0), (2, 0), (6, 39)] = fields 0x9C000000 [(x0, 21), (x1, 16), (x2, 11), (x3, 3), (x4, 2), (x5, 1), (x6, 0)] := by
    intros; simp only [pack_eq, packAt_cons, packAt_nil, Nat.reduceAdd, fields_cons, fields_nil]; omega
  replace hn := hn d.val a.val b.val l.toNat n.toNat r.toNat q.toNat
  have b0 := d.isLt
  have b1 := a.isLt
  have b2 := b.isLt
  have b3 := Bool.toNat_lt l
  have b4 := Bool.toNat_lt n
  have b5 := Bool.toNat_lt r
  have b6 := Bool.toNat_lt q
  have e0 := bits_pack 1 q.toNat [(1, r.toNat), (1, n.toNat), (1, l.toNat), (1, 0), (6, 0), (5, b.val), (3, a.val), (2, 0), (3, d.val), (2, 0), (6, 39)] b6 0 0 [] trivial rfl rfl
  have e1 := bits_pack 1 r.toNat [(1, n.toNat), (1, l.toNat), (1, 0), (6, 0), (5, b.val), (3, a.val), (2, 0), (3, d.val), (2, 0), (6, 39)] b5 1 1 [(1, q.toNat)] ⟨b6, trivial⟩ rfl rfl
  have e2 := bits_pack 1 n.toNat [(1, l.toNat), (1, 0), (6, 0), (5, b.val), (3, a.val), (2, 0), (3, d.val), (2, 0), (6, 39)] b4 2 2 [(1, q.toNat), (1, r.toNat)] ⟨b6, b5, trivial⟩ rfl rfl
  have e3 := bits_pack 1 l.toNat [(1, 0), (6, 0), (5, b.val), (3, a.val), (2, 0), (3, d.val), (2, 0), (6, 39)] b3 3 3 [(1, q.toNat), (1, r.toNat), (1, n.toNat)] ⟨b6, b5, b4, trivial⟩ rfl rfl
  have e4 := bits_pack 1 0 [(6, 0), (5, b.val), (3, a.val), (2, 0), (3, d.val), (2, 0), (6, 39)] (Nat.two_pow_pos _) 4 4 [(1, q.toNat), (1, r.toNat), (1, n.toNat), (1, l.toNat)] ⟨b6, b5, b4, b3, trivial⟩ rfl rfl
  have e5 := bits_pack 6 0 [(5, b.val), (3, a.val), (2, 0), (3, d.val), (2, 0), (6, 39)] (Nat.two_pow_pos _) 10 5 [(1, q.toNat), (1, r.toNat), (1, n.toNat), (1, l.toNat), (1, 0)] ⟨b6, b5, b4, b3, (Nat.two_pow_pos _), trivial⟩ rfl rfl
  have e11 := bits_pack 5 b.val [(3, a.val), (2, 0), (3, d.val), (2, 0), (6, 39)] b2 15 11 [(1, q.toNat), (1, r.toNat), (1, n.toNat), (1, l.toNat), (1, 0), (6, 0)] ⟨b6, b5, b4, b3, (Nat.two_pow_pos _), (Nat.two_pow_pos _), trivial⟩ rfl rfl
  have e16 := bits_pack 3 a.val [(2, 0), (3, d.val), (2, 0), (6, 39)] b1 18 16 [(1, q.toNat), (1, r.toNat), (1, n.toNat), (1, l.toNat), (1, 0), (6, 0), (5, b.val)] ⟨b6, b5, b4, b3, (Nat.two_pow_pos _), (Nat.two_pow_pos _), b2, trivial⟩ rfl rfl
  have e19 := bits_pack 2 0 [(3, d.val), (2, 0), (6, 39)] (Nat.two_pow_pos _) 20 19 [(1, q.toNat), (1, r.toNat), (1, n.toNat), (1, l.toNat), (1, 0), (6, 0), (5, b.val), (3, a.val)] ⟨b6, b5, b4, b3, (Nat.two_pow_pos _), (Nat.two_pow_pos _), b2, b1, trivial⟩ rfl rfl
  have e21 := bits_pack 3 d.val [(2, 0), (6, 39)] b0 23 21 [(1, q.toNat), (1, r.toNat), (1, n.toNat), (1, l.toNat), (1, 0), (6, 0), (5, b.val), (3, a.val), (2, 0)] ⟨b6, b5, b4, b3, (Nat.two_pow_pos _), (Nat.two_pow_pos _), b2, b1, (Nat.two_pow_pos _), trivial⟩ rfl rfl
  have e24 := bits_pack 2 0 [(6, 39)] (Nat.two_pow_pos _) 25 24 [(1, q.toNat), (1, r.toNat), (1, n.toNat), (1, l.toNat), (1, 0), (6, 0), (5, b.val), (3, a.val), (2, 0), (3, d.val)] ⟨b6, b5, b4, b3, (Nat.two_pow_pos _), (Nat.two_pow_pos _), b2, b1, (Nat.two_pow_pos _), b0, trivial⟩ rfl rfl
  have e26 := bits_pack 6 39 [] (by decide) 31 26 [(1, q.toNat), (1, r.toNat), (1, n.toNat), (1, l.toNat), (1, 0), (6, 0), (5, b.val), (3, a.val), (2, 0), (3, d.val), (2, 0)] ⟨b6, b5, b4, b3, (Nat.two_pow_pos _), (Nat.two_pow_pos _), b2, b1, (Nat.two_pow_pos _), b0, (Nat.two_pow_pos _), trivial⟩ rfl rfl
  simp only [List.nil_append, List.cons_append] at e0 e1 e2 e3 e4 e5 e11 e16 e19 e21 e24 e26
  have hl : pack [(1, q.toNat), (1, r.toNat), (1, n.toNat), (1, l.toNat), (1, 0), (6, 0), (5, b.val), (3, a.val), (2, 0), (3, d.val), (2, 0), (6, 39)] < 2 ^ 32 := pack_lt [(1, q.toNat), (1, r.toNat), (1, n.toNat), (1, l.toNat), (1, 0), (6, 0), (5, b.val), (3, a.val), (2, 0), (3, d.val), (2, 0), (6, 39)] ⟨b6, b5, b4, b3, (Nat.two_pow_pos _), (Nat.two_pow_pos _), b2, b1, (Nat.two_pow_pos _), b0, (Nat.two_pow_pos _), (by decide), trivial⟩ rfl
  generalize pack [(1, q.toNat), (1, r.toNat), (1, n.toNat), (1, l.toNat), (1, 0), (6, 0), (5, b.val), (3, a.val), (2, 0), (3, d.val), (2, 0), (6, 39)] = wd at *
  have f3 : bit wd 3 = l := bit_of e3
  have f2 : bit wd 2 = n := bit_of e2
  have f1 : bit wd 1 = r := bit_of e1
  have f0 : bit wd 0 = q := bit_of e0
  refine decode_of wd hn.symm ?_ hw hl
  · rw [major_39 e26]; simp only [decodeEngine, e5, e4, e11, e16, e19, e21, e24, f3, f2, f1, f0, reduceIte, ofNat_val]

theorem Sys2Proof.Laws.Roundtrip.cpyx (d : PReg) (a : PReg) (b : Reg) (l : Bool) (n : Bool) (r : Bool) (q : Bool) : Statement (.cpyx d a b l n r q) := by
  intro _ hw
  have hn : ∀ x0 x1 x2 x3 x4 x5 x6 : Nat, pack [(1, x6), (1, x5), (1, x4), (1, x3), (1, 0), (6, 1), (5, x2), (3, x1), (2, 0), (3, x0), (2, 0), (6, 39)] = fields 0x9C000020 [(x0, 21), (x1, 16), (x2, 11), (x3, 3), (x4, 2), (x5, 1), (x6, 0)] := by
    intros; simp only [pack_eq, packAt_cons, packAt_nil, Nat.reduceAdd, fields_cons, fields_nil]; omega
  replace hn := hn d.val a.val b.val l.toNat n.toNat r.toNat q.toNat
  have b0 := d.isLt
  have b1 := a.isLt
  have b2 := b.isLt
  have b3 := Bool.toNat_lt l
  have b4 := Bool.toNat_lt n
  have b5 := Bool.toNat_lt r
  have b6 := Bool.toNat_lt q
  have e0 := bits_pack 1 q.toNat [(1, r.toNat), (1, n.toNat), (1, l.toNat), (1, 0), (6, 1), (5, b.val), (3, a.val), (2, 0), (3, d.val), (2, 0), (6, 39)] b6 0 0 [] trivial rfl rfl
  have e1 := bits_pack 1 r.toNat [(1, n.toNat), (1, l.toNat), (1, 0), (6, 1), (5, b.val), (3, a.val), (2, 0), (3, d.val), (2, 0), (6, 39)] b5 1 1 [(1, q.toNat)] ⟨b6, trivial⟩ rfl rfl
  have e2 := bits_pack 1 n.toNat [(1, l.toNat), (1, 0), (6, 1), (5, b.val), (3, a.val), (2, 0), (3, d.val), (2, 0), (6, 39)] b4 2 2 [(1, q.toNat), (1, r.toNat)] ⟨b6, b5, trivial⟩ rfl rfl
  have e3 := bits_pack 1 l.toNat [(1, 0), (6, 1), (5, b.val), (3, a.val), (2, 0), (3, d.val), (2, 0), (6, 39)] b3 3 3 [(1, q.toNat), (1, r.toNat), (1, n.toNat)] ⟨b6, b5, b4, trivial⟩ rfl rfl
  have e4 := bits_pack 1 0 [(6, 1), (5, b.val), (3, a.val), (2, 0), (3, d.val), (2, 0), (6, 39)] (Nat.two_pow_pos _) 4 4 [(1, q.toNat), (1, r.toNat), (1, n.toNat), (1, l.toNat)] ⟨b6, b5, b4, b3, trivial⟩ rfl rfl
  have e5 := bits_pack 6 1 [(5, b.val), (3, a.val), (2, 0), (3, d.val), (2, 0), (6, 39)] (by decide) 10 5 [(1, q.toNat), (1, r.toNat), (1, n.toNat), (1, l.toNat), (1, 0)] ⟨b6, b5, b4, b3, (Nat.two_pow_pos _), trivial⟩ rfl rfl
  have e11 := bits_pack 5 b.val [(3, a.val), (2, 0), (3, d.val), (2, 0), (6, 39)] b2 15 11 [(1, q.toNat), (1, r.toNat), (1, n.toNat), (1, l.toNat), (1, 0), (6, 1)] ⟨b6, b5, b4, b3, (Nat.two_pow_pos _), (by decide), trivial⟩ rfl rfl
  have e16 := bits_pack 3 a.val [(2, 0), (3, d.val), (2, 0), (6, 39)] b1 18 16 [(1, q.toNat), (1, r.toNat), (1, n.toNat), (1, l.toNat), (1, 0), (6, 1), (5, b.val)] ⟨b6, b5, b4, b3, (Nat.two_pow_pos _), (by decide), b2, trivial⟩ rfl rfl
  have e19 := bits_pack 2 0 [(3, d.val), (2, 0), (6, 39)] (Nat.two_pow_pos _) 20 19 [(1, q.toNat), (1, r.toNat), (1, n.toNat), (1, l.toNat), (1, 0), (6, 1), (5, b.val), (3, a.val)] ⟨b6, b5, b4, b3, (Nat.two_pow_pos _), (by decide), b2, b1, trivial⟩ rfl rfl
  have e21 := bits_pack 3 d.val [(2, 0), (6, 39)] b0 23 21 [(1, q.toNat), (1, r.toNat), (1, n.toNat), (1, l.toNat), (1, 0), (6, 1), (5, b.val), (3, a.val), (2, 0)] ⟨b6, b5, b4, b3, (Nat.two_pow_pos _), (by decide), b2, b1, (Nat.two_pow_pos _), trivial⟩ rfl rfl
  have e24 := bits_pack 2 0 [(6, 39)] (Nat.two_pow_pos _) 25 24 [(1, q.toNat), (1, r.toNat), (1, n.toNat), (1, l.toNat), (1, 0), (6, 1), (5, b.val), (3, a.val), (2, 0), (3, d.val)] ⟨b6, b5, b4, b3, (Nat.two_pow_pos _), (by decide), b2, b1, (Nat.two_pow_pos _), b0, trivial⟩ rfl rfl
  have e26 := bits_pack 6 39 [] (by decide) 31 26 [(1, q.toNat), (1, r.toNat), (1, n.toNat), (1, l.toNat), (1, 0), (6, 1), (5, b.val), (3, a.val), (2, 0), (3, d.val), (2, 0)] ⟨b6, b5, b4, b3, (Nat.two_pow_pos _), (by decide), b2, b1, (Nat.two_pow_pos _), b0, (Nat.two_pow_pos _), trivial⟩ rfl rfl
  simp only [List.nil_append, List.cons_append] at e0 e1 e2 e3 e4 e5 e11 e16 e19 e21 e24 e26
  have hl : pack [(1, q.toNat), (1, r.toNat), (1, n.toNat), (1, l.toNat), (1, 0), (6, 1), (5, b.val), (3, a.val), (2, 0), (3, d.val), (2, 0), (6, 39)] < 2 ^ 32 := pack_lt [(1, q.toNat), (1, r.toNat), (1, n.toNat), (1, l.toNat), (1, 0), (6, 1), (5, b.val), (3, a.val), (2, 0), (3, d.val), (2, 0), (6, 39)] ⟨b6, b5, b4, b3, (Nat.two_pow_pos _), (by decide), b2, b1, (Nat.two_pow_pos _), b0, (Nat.two_pow_pos _), (by decide), trivial⟩ rfl
  generalize pack [(1, q.toNat), (1, r.toNat), (1, n.toNat), (1, l.toNat), (1, 0), (6, 1), (5, b.val), (3, a.val), (2, 0), (3, d.val), (2, 0), (6, 39)] = wd at *
  have f3 : bit wd 3 = l := bit_of e3
  have f2 : bit wd 2 = n := bit_of e2
  have f1 : bit wd 1 = r := bit_of e1
  have f0 : bit wd 0 = q := bit_of e0
  refine decode_of wd hn.symm ?_ hw hl
  · rw [major_39 e26]; simp only [decodeEngine, e5, e4, e11, e16, e19, e21, e24, f3, f2, f1, f0, reduceIte, ofNat_val]

theorem Sys2Proof.Laws.Roundtrip.sealOut (d : PReg) (a : PReg) (b : Reg) (n : Bool) (r : Bool) (q : Bool) : Statement (.sealOut d a b n r q) := by
  intro _ hw
  have hn : ∀ x0 x1 x2 x3 x4 x5 : Nat, pack [(1, x5), (1, x4), (1, x3), (2, 0), (6, 2), (5, x2), (3, x1), (2, 0), (3, x0), (2, 0), (6, 39)] = fields 0x9C000040 [(x0, 21), (x1, 16), (x2, 11), (x3, 2), (x4, 1), (x5, 0)] := by
    intros; simp only [pack_eq, packAt_cons, packAt_nil, Nat.reduceAdd, fields_cons, fields_nil]; omega
  replace hn := hn d.val a.val b.val n.toNat r.toNat q.toNat
  have b0 := d.isLt
  have b1 := a.isLt
  have b2 := b.isLt
  have b3 := Bool.toNat_lt n
  have b4 := Bool.toNat_lt r
  have b5 := Bool.toNat_lt q
  have e0 := bits_pack 1 q.toNat [(1, r.toNat), (1, n.toNat), (2, 0), (6, 2), (5, b.val), (3, a.val), (2, 0), (3, d.val), (2, 0), (6, 39)] b5 0 0 [] trivial rfl rfl
  have e1 := bits_pack 1 r.toNat [(1, n.toNat), (2, 0), (6, 2), (5, b.val), (3, a.val), (2, 0), (3, d.val), (2, 0), (6, 39)] b4 1 1 [(1, q.toNat)] ⟨b5, trivial⟩ rfl rfl
  have e2 := bits_pack 1 n.toNat [(2, 0), (6, 2), (5, b.val), (3, a.val), (2, 0), (3, d.val), (2, 0), (6, 39)] b3 2 2 [(1, q.toNat), (1, r.toNat)] ⟨b5, b4, trivial⟩ rfl rfl
  have e3 := bits_pack 2 0 [(6, 2), (5, b.val), (3, a.val), (2, 0), (3, d.val), (2, 0), (6, 39)] (Nat.two_pow_pos _) 4 3 [(1, q.toNat), (1, r.toNat), (1, n.toNat)] ⟨b5, b4, b3, trivial⟩ rfl rfl
  have e5 := bits_pack 6 2 [(5, b.val), (3, a.val), (2, 0), (3, d.val), (2, 0), (6, 39)] (by decide) 10 5 [(1, q.toNat), (1, r.toNat), (1, n.toNat), (2, 0)] ⟨b5, b4, b3, (Nat.two_pow_pos _), trivial⟩ rfl rfl
  have e11 := bits_pack 5 b.val [(3, a.val), (2, 0), (3, d.val), (2, 0), (6, 39)] b2 15 11 [(1, q.toNat), (1, r.toNat), (1, n.toNat), (2, 0), (6, 2)] ⟨b5, b4, b3, (Nat.two_pow_pos _), (by decide), trivial⟩ rfl rfl
  have e16 := bits_pack 3 a.val [(2, 0), (3, d.val), (2, 0), (6, 39)] b1 18 16 [(1, q.toNat), (1, r.toNat), (1, n.toNat), (2, 0), (6, 2), (5, b.val)] ⟨b5, b4, b3, (Nat.two_pow_pos _), (by decide), b2, trivial⟩ rfl rfl
  have e19 := bits_pack 2 0 [(3, d.val), (2, 0), (6, 39)] (Nat.two_pow_pos _) 20 19 [(1, q.toNat), (1, r.toNat), (1, n.toNat), (2, 0), (6, 2), (5, b.val), (3, a.val)] ⟨b5, b4, b3, (Nat.two_pow_pos _), (by decide), b2, b1, trivial⟩ rfl rfl
  have e21 := bits_pack 3 d.val [(2, 0), (6, 39)] b0 23 21 [(1, q.toNat), (1, r.toNat), (1, n.toNat), (2, 0), (6, 2), (5, b.val), (3, a.val), (2, 0)] ⟨b5, b4, b3, (Nat.two_pow_pos _), (by decide), b2, b1, (Nat.two_pow_pos _), trivial⟩ rfl rfl
  have e24 := bits_pack 2 0 [(6, 39)] (Nat.two_pow_pos _) 25 24 [(1, q.toNat), (1, r.toNat), (1, n.toNat), (2, 0), (6, 2), (5, b.val), (3, a.val), (2, 0), (3, d.val)] ⟨b5, b4, b3, (Nat.two_pow_pos _), (by decide), b2, b1, (Nat.two_pow_pos _), b0, trivial⟩ rfl rfl
  have e26 := bits_pack 6 39 [] (by decide) 31 26 [(1, q.toNat), (1, r.toNat), (1, n.toNat), (2, 0), (6, 2), (5, b.val), (3, a.val), (2, 0), (3, d.val), (2, 0)] ⟨b5, b4, b3, (Nat.two_pow_pos _), (by decide), b2, b1, (Nat.two_pow_pos _), b0, (Nat.two_pow_pos _), trivial⟩ rfl rfl
  simp only [List.nil_append, List.cons_append] at e0 e1 e2 e3 e5 e11 e16 e19 e21 e24 e26
  have hl : pack [(1, q.toNat), (1, r.toNat), (1, n.toNat), (2, 0), (6, 2), (5, b.val), (3, a.val), (2, 0), (3, d.val), (2, 0), (6, 39)] < 2 ^ 32 := pack_lt [(1, q.toNat), (1, r.toNat), (1, n.toNat), (2, 0), (6, 2), (5, b.val), (3, a.val), (2, 0), (3, d.val), (2, 0), (6, 39)] ⟨b5, b4, b3, (Nat.two_pow_pos _), (by decide), b2, b1, (Nat.two_pow_pos _), b0, (Nat.two_pow_pos _), (by decide), trivial⟩ rfl
  generalize pack [(1, q.toNat), (1, r.toNat), (1, n.toNat), (2, 0), (6, 2), (5, b.val), (3, a.val), (2, 0), (3, d.val), (2, 0), (6, 39)] = wd at *
  have f2 : bit wd 2 = n := bit_of e2
  have f1 : bit wd 1 = r := bit_of e1
  have f0 : bit wd 0 = q := bit_of e0
  refine decode_of wd hn.symm ?_ hw hl
  · rw [major_39 e26]; simp only [decodeEngine, e5, e3, e11, e16, e19, e21, e24, f2, f1, f0, reduceIte, ofNat_val]

theorem Sys2Proof.Laws.Roundtrip.evcfg (a : Reg) (b : Reg) : Statement (.evcfg a b) := by
  intro _ hw
  have hn : ∀ x0 x1 : Nat, pack [(5, 0), (6, 3), (5, x1), (5, x0), (5, 0), (6, 39)] = fields 0x9C000060 [(x0, 16), (x1, 11)] := by
    intros; simp only [pack_eq, packAt_cons, packAt_nil, Nat.reduceAdd, fields_cons, fields_nil]; omega
  replace hn := hn a.val b.val
  have b0 := a.isLt
  have b1 := b.isLt
  have e0 := bits_pack 5 0 [(6, 3), (5, b.val), (5, a.val), (5, 0), (6, 39)] (Nat.two_pow_pos _) 4 0 [] trivial rfl rfl
  have e5 := bits_pack 6 3 [(5, b.val), (5, a.val), (5, 0), (6, 39)] (by decide) 10 5 [(5, 0)] ⟨(Nat.two_pow_pos _), trivial⟩ rfl rfl
  have e11 := bits_pack 5 b.val [(5, a.val), (5, 0), (6, 39)] b1 15 11 [(5, 0), (6, 3)] ⟨(Nat.two_pow_pos _), (by decide), trivial⟩ rfl rfl
  have e16 := bits_pack 5 a.val [(5, 0), (6, 39)] b0 20 16 [(5, 0), (6, 3), (5, b.val)] ⟨(Nat.two_pow_pos _), (by decide), b1, trivial⟩ rfl rfl
  have e21 := bits_pack 5 0 [(6, 39)] (Nat.two_pow_pos _) 25 21 [(5, 0), (6, 3), (5, b.val), (5, a.val)] ⟨(Nat.two_pow_pos _), (by decide), b1, b0, trivial⟩ rfl rfl
  have e26 := bits_pack 6 39 [] (by decide) 31 26 [(5, 0), (6, 3), (5, b.val), (5, a.val), (5, 0)] ⟨(Nat.two_pow_pos _), (by decide), b1, b0, (Nat.two_pow_pos _), trivial⟩ rfl rfl
  simp only [List.nil_append, List.cons_append] at e0 e5 e11 e16 e21 e26
  have hl : pack [(5, 0), (6, 3), (5, b.val), (5, a.val), (5, 0), (6, 39)] < 2 ^ 32 := pack_lt [(5, 0), (6, 3), (5, b.val), (5, a.val), (5, 0), (6, 39)] ⟨(Nat.two_pow_pos _), (by decide), b1, b0, (Nat.two_pow_pos _), (by decide), trivial⟩ rfl
  generalize pack [(5, 0), (6, 3), (5, b.val), (5, a.val), (5, 0), (6, 39)] = wd at *
  refine decode_of wd hn.symm ?_ hw hl
  · rw [major_39 e26]; simp only [decodeEngine, e5, e0, e11, e16, e21, reduceIte, ofNat_val]

theorem Sys2Proof.Laws.Roundtrip.evwait (a : Reg) : Statement (.evwait a) := by
  intro _ hw
  have hn : ∀ x0 : Nat, pack [(5, 0), (6, 4), (5, 0), (5, x0), (5, 0), (6, 39)] = fields 0x9C000080 [(x0, 16)] := by
    intros; simp only [pack_eq, packAt_cons, packAt_nil, Nat.reduceAdd, fields_cons, fields_nil]; omega
  replace hn := hn a.val
  have b0 := a.isLt
  have e0 := bits_pack 5 0 [(6, 4), (5, 0), (5, a.val), (5, 0), (6, 39)] (Nat.two_pow_pos _) 4 0 [] trivial rfl rfl
  have e5 := bits_pack 6 4 [(5, 0), (5, a.val), (5, 0), (6, 39)] (by decide) 10 5 [(5, 0)] ⟨(Nat.two_pow_pos _), trivial⟩ rfl rfl
  have e11 := bits_pack 5 0 [(5, a.val), (5, 0), (6, 39)] (Nat.two_pow_pos _) 15 11 [(5, 0), (6, 4)] ⟨(Nat.two_pow_pos _), (by decide), trivial⟩ rfl rfl
  have e16 := bits_pack 5 a.val [(5, 0), (6, 39)] b0 20 16 [(5, 0), (6, 4), (5, 0)] ⟨(Nat.two_pow_pos _), (by decide), (Nat.two_pow_pos _), trivial⟩ rfl rfl
  have e21 := bits_pack 5 0 [(6, 39)] (Nat.two_pow_pos _) 25 21 [(5, 0), (6, 4), (5, 0), (5, a.val)] ⟨(Nat.two_pow_pos _), (by decide), (Nat.two_pow_pos _), b0, trivial⟩ rfl rfl
  have e26 := bits_pack 6 39 [] (by decide) 31 26 [(5, 0), (6, 4), (5, 0), (5, a.val), (5, 0)] ⟨(Nat.two_pow_pos _), (by decide), (Nat.two_pow_pos _), b0, (Nat.two_pow_pos _), trivial⟩ rfl rfl
  simp only [List.nil_append, List.cons_append] at e0 e5 e11 e16 e21 e26
  have hl : pack [(5, 0), (6, 4), (5, 0), (5, a.val), (5, 0), (6, 39)] < 2 ^ 32 := pack_lt [(5, 0), (6, 4), (5, 0), (5, a.val), (5, 0), (6, 39)] ⟨(Nat.two_pow_pos _), (by decide), (Nat.two_pow_pos _), b0, (Nat.two_pow_pos _), (by decide), trivial⟩ rfl
  generalize pack [(5, 0), (6, 4), (5, 0), (5, a.val), (5, 0), (6, 39)] = wd at *
  refine decode_of wd hn.symm ?_ hw hl
  · rw [major_39 e26]; simp only [decodeEngine, e5, e0, e11, e16, e21, reduceIte, ofNat_val]

theorem Sys2Proof.Laws.Roundtrip.gcommit (g : Fin 4) : Statement (.gcommit g) := by
  intro _ hw
  have hn : ∀ x0 : Nat, pack [(2, x0), (3, 0), (6, 0), (15, 0), (6, 40)] = fields 0xA0000000 [(x0, 0)] := by
    intros; simp only [pack_eq, packAt_cons, packAt_nil, Nat.reduceAdd, fields_cons, fields_nil]; omega
  replace hn := hn g.val
  have b0 := g.isLt
  have e0 := bits_pack 2 g.val [(3, 0), (6, 0), (15, 0), (6, 40)] b0 1 0 [] trivial rfl rfl
  have e2 := bits_pack 3 0 [(6, 0), (15, 0), (6, 40)] (Nat.two_pow_pos _) 4 2 [(2, g.val)] ⟨b0, trivial⟩ rfl rfl
  have e5 := bits_pack 6 0 [(15, 0), (6, 40)] (Nat.two_pow_pos _) 10 5 [(2, g.val), (3, 0)] ⟨b0, (Nat.two_pow_pos _), trivial⟩ rfl rfl
  have e11 := bits_pack 15 0 [(6, 40)] (Nat.two_pow_pos _) 25 11 [(2, g.val), (3, 0), (6, 0)] ⟨b0, (Nat.two_pow_pos _), (Nat.two_pow_pos _), trivial⟩ rfl rfl
  have e26 := bits_pack 6 40 [] (by decide) 31 26 [(2, g.val), (3, 0), (6, 0), (15, 0)] ⟨b0, (Nat.two_pow_pos _), (Nat.two_pow_pos _), (Nat.two_pow_pos _), trivial⟩ rfl rfl
  simp only [List.nil_append, List.cons_append] at e0 e2 e5 e11 e26
  have hl : pack [(2, g.val), (3, 0), (6, 0), (15, 0), (6, 40)] < 2 ^ 32 := pack_lt [(2, g.val), (3, 0), (6, 0), (15, 0), (6, 40)] ⟨b0, (Nat.two_pow_pos _), (Nat.two_pow_pos _), (Nat.two_pow_pos _), (by decide), trivial⟩ rfl
  generalize pack [(2, g.val), (3, 0), (6, 0), (15, 0), (6, 40)] = wd at *
  refine decode_of wd hn.symm ?_ hw hl
  · rw [major_40 e26]; simp only [decodeGuard, e5, e0, e2, e11, reduceIte, ofNat_val]

theorem Sys2Proof.Laws.Roundtrip.gdrop (g : Fin 4) : Statement (.gdrop g) := by
  intro _ hw
  have hn : ∀ x0 : Nat, pack [(2, x0), (3, 0), (6, 1), (15, 0), (6, 40)] = fields 0xA0000020 [(x0, 0)] := by
    intros; simp only [pack_eq, packAt_cons, packAt_nil, Nat.reduceAdd, fields_cons, fields_nil]; omega
  replace hn := hn g.val
  have b0 := g.isLt
  have e0 := bits_pack 2 g.val [(3, 0), (6, 1), (15, 0), (6, 40)] b0 1 0 [] trivial rfl rfl
  have e2 := bits_pack 3 0 [(6, 1), (15, 0), (6, 40)] (Nat.two_pow_pos _) 4 2 [(2, g.val)] ⟨b0, trivial⟩ rfl rfl
  have e5 := bits_pack 6 1 [(15, 0), (6, 40)] (by decide) 10 5 [(2, g.val), (3, 0)] ⟨b0, (Nat.two_pow_pos _), trivial⟩ rfl rfl
  have e11 := bits_pack 15 0 [(6, 40)] (Nat.two_pow_pos _) 25 11 [(2, g.val), (3, 0), (6, 1)] ⟨b0, (Nat.two_pow_pos _), (by decide), trivial⟩ rfl rfl
  have e26 := bits_pack 6 40 [] (by decide) 31 26 [(2, g.val), (3, 0), (6, 1), (15, 0)] ⟨b0, (Nat.two_pow_pos _), (by decide), (Nat.two_pow_pos _), trivial⟩ rfl rfl
  simp only [List.nil_append, List.cons_append] at e0 e2 e5 e11 e26
  have hl : pack [(2, g.val), (3, 0), (6, 1), (15, 0), (6, 40)] < 2 ^ 32 := pack_lt [(2, g.val), (3, 0), (6, 1), (15, 0), (6, 40)] ⟨b0, (Nat.two_pow_pos _), (by decide), (Nat.two_pow_pos _), (by decide), trivial⟩ rfl
  generalize pack [(2, g.val), (3, 0), (6, 1), (15, 0), (6, 40)] = wd at *
  refine decode_of wd hn.symm ?_ hw hl
  · rw [major_40 e26]; simp only [decodeGuard, e5, e0, e2, e11, reduceIte, ofNat_val]

theorem Sys2Proof.Laws.Roundtrip.trap (c : Fin 256) : Statement (.trap c) := by
  intro _ hw
  have hn : ∀ x0 : Nat, pack [(8, 0), (8, x0), (10, 0), (6, 41)] = fields 0xA4000000 [(x0, 8)] := by
    intros; simp only [pack_eq, packAt_cons, packAt_nil, Nat.reduceAdd, fields_cons, fields_nil]; omega
  replace hn := hn c.val
  have b0 := c.isLt
  have e0 := bits_pack 8 0 [(8, c.val), (10, 0), (6, 41)] (Nat.two_pow_pos _) 7 0 [] trivial rfl rfl
  have e8 := bits_pack 8 c.val [(10, 0), (6, 41)] b0 15 8 [(8, 0)] ⟨(Nat.two_pow_pos _), trivial⟩ rfl rfl
  have e16 := bits_pack 10 0 [(6, 41)] (Nat.two_pow_pos _) 25 16 [(8, 0), (8, c.val)] ⟨(Nat.two_pow_pos _), b0, trivial⟩ rfl rfl
  have e26 := bits_pack 6 41 [] (by decide) 31 26 [(8, 0), (8, c.val), (10, 0)] ⟨(Nat.two_pow_pos _), b0, (Nat.two_pow_pos _), trivial⟩ rfl rfl
  simp only [List.nil_append, List.cons_append] at e0 e8 e16 e26
  have hl : pack [(8, 0), (8, c.val), (10, 0), (6, 41)] < 2 ^ 32 := pack_lt [(8, 0), (8, c.val), (10, 0), (6, 41)] ⟨(Nat.two_pow_pos _), b0, (Nat.two_pow_pos _), (by decide), trivial⟩ rfl
  generalize pack [(8, 0), (8, c.val), (10, 0), (6, 41)] = wd at *
  refine decode_of wd hn.symm ?_ hw hl
  · rw [major_41 e26]; simp only [decodeSystem, e0, e8, e16, reduceIte, ofNat_val]

theorem Sys2Proof.Laws.Roundtrip.eret : Statement .eret := by
  intro _ hw
  have hn : pack [(8, 1), (18, 0), (6, 41)] = 0xA4000001 := rfl
  have e0 := bits_pack 8 1 [(18, 0), (6, 41)] (by decide) 7 0 [] trivial rfl rfl
  have e8 := bits_pack 18 0 [(6, 41)] (Nat.two_pow_pos _) 25 8 [(8, 1)] ⟨(by decide), trivial⟩ rfl rfl
  have e26 := bits_pack 6 41 [] (by decide) 31 26 [(8, 1), (18, 0)] ⟨(by decide), (Nat.two_pow_pos _), trivial⟩ rfl rfl
  simp only [List.nil_append, List.cons_append] at e0 e8 e26
  have hl : pack [(8, 1), (18, 0), (6, 41)] < 2 ^ 32 := pack_lt [(8, 1), (18, 0), (6, 41)] ⟨(by decide), (Nat.two_pow_pos _), (by decide), trivial⟩ rfl
  generalize pack [(8, 1), (18, 0), (6, 41)] = wd at *
  refine decode_of wd hn.symm ?_ hw hl
  · rw [major_41 e26]; simp only [decodeSystem, e0, e8, reduceIte]

theorem Sys2Proof.Laws.Roundtrip.uret : Statement .uret := by
  intro _ hw
  have hn : pack [(8, 2), (18, 0), (6, 41)] = 0xA4000002 := rfl
  have e0 := bits_pack 8 2 [(18, 0), (6, 41)] (by decide) 7 0 [] trivial rfl rfl
  have e8 := bits_pack 18 0 [(6, 41)] (Nat.two_pow_pos _) 25 8 [(8, 2)] ⟨(by decide), trivial⟩ rfl rfl
  have e26 := bits_pack 6 41 [] (by decide) 31 26 [(8, 2), (18, 0)] ⟨(by decide), (Nat.two_pow_pos _), trivial⟩ rfl rfl
  simp only [List.nil_append, List.cons_append] at e0 e8 e26
  have hl : pack [(8, 2), (18, 0), (6, 41)] < 2 ^ 32 := pack_lt [(8, 2), (18, 0), (6, 41)] ⟨(by decide), (Nat.two_pow_pos _), (by decide), trivial⟩ rfl
  generalize pack [(8, 2), (18, 0), (6, 41)] = wd at *
  refine decode_of wd hn.symm ?_ hw hl
  · rw [major_41 e26]; simp only [decodeSystem, e0, e8, reduceIte]

theorem Sys2Proof.Laws.Roundtrip.sysr (d : Reg) (i : Fin 256) : Statement (.sysr d i) := by
  intro _ hw
  have hn : ∀ x0 x1 : Nat, pack [(8, 3), (8, x1), (5, 0), (5, x0), (6, 41)] = fields 0xA4000003 [(x0, 21), (x1, 8)] := by
    intros; simp only [pack_eq, packAt_cons, packAt_nil, Nat.reduceAdd, fields_cons, fields_nil]; omega
  replace hn := hn d.val i.val
  have b0 := d.isLt
  have b1 := i.isLt
  have e0 := bits_pack 8 3 [(8, i.val), (5, 0), (5, d.val), (6, 41)] (by decide) 7 0 [] trivial rfl rfl
  have e8 := bits_pack 8 i.val [(5, 0), (5, d.val), (6, 41)] b1 15 8 [(8, 3)] ⟨(by decide), trivial⟩ rfl rfl
  have e16 := bits_pack 5 0 [(5, d.val), (6, 41)] (Nat.two_pow_pos _) 20 16 [(8, 3), (8, i.val)] ⟨(by decide), b1, trivial⟩ rfl rfl
  have e21 := bits_pack 5 d.val [(6, 41)] b0 25 21 [(8, 3), (8, i.val), (5, 0)] ⟨(by decide), b1, (Nat.two_pow_pos _), trivial⟩ rfl rfl
  have e26 := bits_pack 6 41 [] (by decide) 31 26 [(8, 3), (8, i.val), (5, 0), (5, d.val)] ⟨(by decide), b1, (Nat.two_pow_pos _), b0, trivial⟩ rfl rfl
  simp only [List.nil_append, List.cons_append] at e0 e8 e16 e21 e26
  have hl : pack [(8, 3), (8, i.val), (5, 0), (5, d.val), (6, 41)] < 2 ^ 32 := pack_lt [(8, 3), (8, i.val), (5, 0), (5, d.val), (6, 41)] ⟨(by decide), b1, (Nat.two_pow_pos _), b0, (by decide), trivial⟩ rfl
  generalize pack [(8, 3), (8, i.val), (5, 0), (5, d.val), (6, 41)] = wd at *
  refine decode_of wd hn.symm ?_ hw hl
  · rw [major_41 e26]; simp only [decodeSystem, e0, e8, e16, e21, reduceIte, ofNat_val]

theorem Sys2Proof.Laws.Roundtrip.sysw (a : Reg) (i : Fin 256) : Statement (.sysw a i) := by
  intro _ hw
  have hn : ∀ x0 x1 : Nat, pack [(8, 4), (8, x1), (5, x0), (5, 0), (6, 41)] = fields 0xA4000004 [(x0, 16), (x1, 8)] := by
    intros; simp only [pack_eq, packAt_cons, packAt_nil, Nat.reduceAdd, fields_cons, fields_nil]; omega
  replace hn := hn a.val i.val
  have b0 := a.isLt
  have b1 := i.isLt
  have e0 := bits_pack 8 4 [(8, i.val), (5, a.val), (5, 0), (6, 41)] (by decide) 7 0 [] trivial rfl rfl
  have e8 := bits_pack 8 i.val [(5, a.val), (5, 0), (6, 41)] b1 15 8 [(8, 4)] ⟨(by decide), trivial⟩ rfl rfl
  have e16 := bits_pack 5 a.val [(5, 0), (6, 41)] b0 20 16 [(8, 4), (8, i.val)] ⟨(by decide), b1, trivial⟩ rfl rfl
  have e21 := bits_pack 5 0 [(6, 41)] (Nat.two_pow_pos _) 25 21 [(8, 4), (8, i.val), (5, a.val)] ⟨(by decide), b1, b0, trivial⟩ rfl rfl
  have e26 := bits_pack 6 41 [] (by decide) 31 26 [(8, 4), (8, i.val), (5, a.val), (5, 0)] ⟨(by decide), b1, b0, (Nat.two_pow_pos _), trivial⟩ rfl rfl
  simp only [List.nil_append, List.cons_append] at e0 e8 e16 e21 e26
  have hl : pack [(8, 4), (8, i.val), (5, a.val), (5, 0), (6, 41)] < 2 ^ 32 := pack_lt [(8, 4), (8, i.val), (5, a.val), (5, 0), (6, 41)] ⟨(by decide), b1, b0, (Nat.two_pow_pos _), (by decide), trivial⟩ rfl
  generalize pack [(8, 4), (8, i.val), (5, a.val), (5, 0), (6, 41)] = wd at *
  refine decode_of wd hn.symm ?_ hw hl
  · rw [major_41 e26]; simp only [decodeSystem, e0, e8, e16, e21, reduceIte, ofNat_val]

theorem Sys2Proof.Laws.Roundtrip.swpwp (a : Reg) : Statement (.swpwp a) := by
  intro _ hw
  have hn : ∀ x0 : Nat, pack [(8, 5), (8, 0), (5, x0), (5, 0), (6, 41)] = fields 0xA4000005 [(x0, 16)] := by
    intros; simp only [pack_eq, packAt_cons, packAt_nil, Nat.reduceAdd, fields_cons, fields_nil]; omega
  replace hn := hn a.val
  have b0 := a.isLt
  have e0 := bits_pack 8 5 [(8, 0), (5, a.val), (5, 0), (6, 41)] (by decide) 7 0 [] trivial rfl rfl
  have e8 := bits_pack 8 0 [(5, a.val), (5, 0), (6, 41)] (Nat.two_pow_pos _) 15 8 [(8, 5)] ⟨(by decide), trivial⟩ rfl rfl
  have e16 := bits_pack 5 a.val [(5, 0), (6, 41)] b0 20 16 [(8, 5), (8, 0)] ⟨(by decide), (Nat.two_pow_pos _), trivial⟩ rfl rfl
  have e21 := bits_pack 5 0 [(6, 41)] (Nat.two_pow_pos _) 25 21 [(8, 5), (8, 0), (5, a.val)] ⟨(by decide), (Nat.two_pow_pos _), b0, trivial⟩ rfl rfl
  have e26 := bits_pack 6 41 [] (by decide) 31 26 [(8, 5), (8, 0), (5, a.val), (5, 0)] ⟨(by decide), (Nat.two_pow_pos _), b0, (Nat.two_pow_pos _), trivial⟩ rfl rfl
  simp only [List.nil_append, List.cons_append] at e0 e8 e16 e21 e26
  have hl : pack [(8, 5), (8, 0), (5, a.val), (5, 0), (6, 41)] < 2 ^ 32 := pack_lt [(8, 5), (8, 0), (5, a.val), (5, 0), (6, 41)] ⟨(by decide), (Nat.two_pow_pos _), b0, (Nat.two_pow_pos _), (by decide), trivial⟩ rfl
  generalize pack [(8, 5), (8, 0), (5, a.val), (5, 0), (6, 41)] = wd at *
  refine decode_of wd hn.symm ?_ hw hl
  · rw [major_41 e26]; simp only [decodeSystem, e0, e8, e16, e21, reduceIte, ofNat_val]

theorem Sys2Proof.Laws.Roundtrip.hbeat : Statement .hbeat := by
  intro _ hw
  have hn : pack [(8, 6), (18, 0), (6, 41)] = 0xA4000006 := rfl
  have e0 := bits_pack 8 6 [(18, 0), (6, 41)] (by decide) 7 0 [] trivial rfl rfl
  have e8 := bits_pack 18 0 [(6, 41)] (Nat.two_pow_pos _) 25 8 [(8, 6)] ⟨(by decide), trivial⟩ rfl rfl
  have e26 := bits_pack 6 41 [] (by decide) 31 26 [(8, 6), (18, 0)] ⟨(by decide), (Nat.two_pow_pos _), trivial⟩ rfl rfl
  simp only [List.nil_append, List.cons_append] at e0 e8 e26
  have hl : pack [(8, 6), (18, 0), (6, 41)] < 2 ^ 32 := pack_lt [(8, 6), (18, 0), (6, 41)] ⟨(by decide), (Nat.two_pow_pos _), (by decide), trivial⟩ rfl
  generalize pack [(8, 6), (18, 0), (6, 41)] = wd at *
  refine decode_of wd hn.symm ?_ hw hl
  · rw [major_41 e26]; simp only [decodeSystem, e0, e8, reduceIte]

theorem Sys2Proof.Laws.Roundtrip.wfe : Statement .wfe := by
  intro _ hw
  have hn : pack [(8, 7), (18, 0), (6, 41)] = 0xA4000007 := rfl
  have e0 := bits_pack 8 7 [(18, 0), (6, 41)] (by decide) 7 0 [] trivial rfl rfl
  have e8 := bits_pack 18 0 [(6, 41)] (Nat.two_pow_pos _) 25 8 [(8, 7)] ⟨(by decide), trivial⟩ rfl rfl
  have e26 := bits_pack 6 41 [] (by decide) 31 26 [(8, 7), (18, 0)] ⟨(by decide), (Nat.two_pow_pos _), trivial⟩ rfl rfl
  simp only [List.nil_append, List.cons_append] at e0 e8 e26
  have hl : pack [(8, 7), (18, 0), (6, 41)] < 2 ^ 32 := pack_lt [(8, 7), (18, 0), (6, 41)] ⟨(by decide), (Nat.two_pow_pos _), (by decide), trivial⟩ rfl
  generalize pack [(8, 7), (18, 0), (6, 41)] = wd at *
  refine decode_of wd hn.symm ?_ hw hl
  · rw [major_41 e26]; simp only [decodeSystem, e0, e8, reduceIte]

theorem Sys2Proof.Laws.Roundtrip.wfeWake (slot : SlotId) : Statement (.wfeWake slot) := fun h => absurd h (Bool.false_ne_true)

theorem Sys2Proof.Laws.Roundtrip.halt : Statement .halt := by
  intro _ hw
  have hn : pack [(8, 8), (18, 0), (6, 41)] = 0xA4000008 := rfl
  have e0 := bits_pack 8 8 [(18, 0), (6, 41)] (by decide) 7 0 [] trivial rfl rfl
  have e8 := bits_pack 18 0 [(6, 41)] (Nat.two_pow_pos _) 25 8 [(8, 8)] ⟨(by decide), trivial⟩ rfl rfl
  have e26 := bits_pack 6 41 [] (by decide) 31 26 [(8, 8), (18, 0)] ⟨(by decide), (Nat.two_pow_pos _), trivial⟩ rfl rfl
  simp only [List.nil_append, List.cons_append] at e0 e8 e26
  have hl : pack [(8, 8), (18, 0), (6, 41)] < 2 ^ 32 := pack_lt [(8, 8), (18, 0), (6, 41)] ⟨(by decide), (Nat.two_pow_pos _), (by decide), trivial⟩ rfl
  generalize pack [(8, 8), (18, 0), (6, 41)] = wd at *
  refine decode_of wd hn.symm ?_ hw hl
  · rw [major_41 e26]; simp only [decodeSystem, e0, e8, reduceIte]

theorem Sys2Proof.Laws.Roundtrip.spill : Statement .spill := by
  intro _ hw
  have hn : pack [(8, 9), (18, 0), (6, 41)] = 0xA4000009 := rfl
  have e0 := bits_pack 8 9 [(18, 0), (6, 41)] (by decide) 7 0 [] trivial rfl rfl
  have e8 := bits_pack 18 0 [(6, 41)] (Nat.two_pow_pos _) 25 8 [(8, 9)] ⟨(by decide), trivial⟩ rfl rfl
  have e26 := bits_pack 6 41 [] (by decide) 31 26 [(8, 9), (18, 0)] ⟨(by decide), (Nat.two_pow_pos _), trivial⟩ rfl rfl
  simp only [List.nil_append, List.cons_append] at e0 e8 e26
  have hl : pack [(8, 9), (18, 0), (6, 41)] < 2 ^ 32 := pack_lt [(8, 9), (18, 0), (6, 41)] ⟨(by decide), (Nat.two_pow_pos _), (by decide), trivial⟩ rfl
  generalize pack [(8, 9), (18, 0), (6, 41)] = wd at *
  refine decode_of wd hn.symm ?_ hw hl
  · rw [major_41 e26]; simp only [decodeSystem, e0, e8, reduceIte]

theorem Sys2Proof.Laws.Roundtrip.wmon (a : PReg) : Statement (.wmon a) := by
  intro _ hw
  have hn : ∀ x0 : Nat, pack [(8, 10), (8, 0), (3, x0), (7, 0), (6, 41)] = fields 0xA400000A [(x0, 16)] := by
    intros; simp only [pack_eq, packAt_cons, packAt_nil, Nat.reduceAdd, fields_cons, fields_nil]; omega
  replace hn := hn a.val
  have b0 := a.isLt
  have e0 := bits_pack 8 10 [(8, 0), (3, a.val), (7, 0), (6, 41)] (by decide) 7 0 [] trivial rfl rfl
  have e8 := bits_pack 8 0 [(3, a.val), (7, 0), (6, 41)] (Nat.two_pow_pos _) 15 8 [(8, 10)] ⟨(by decide), trivial⟩ rfl rfl
  have e16 := bits_pack 3 a.val [(7, 0), (6, 41)] b0 18 16 [(8, 10), (8, 0)] ⟨(by decide), (Nat.two_pow_pos _), trivial⟩ rfl rfl
  have e19 := bits_pack 7 0 [(6, 41)] (Nat.two_pow_pos _) 25 19 [(8, 10), (8, 0), (3, a.val)] ⟨(by decide), (Nat.two_pow_pos _), b0, trivial⟩ rfl rfl
  have e26 := bits_pack 6 41 [] (by decide) 31 26 [(8, 10), (8, 0), (3, a.val), (7, 0)] ⟨(by decide), (Nat.two_pow_pos _), b0, (Nat.two_pow_pos _), trivial⟩ rfl rfl
  simp only [List.nil_append, List.cons_append] at e0 e8 e16 e19 e26
  have hl : pack [(8, 10), (8, 0), (3, a.val), (7, 0), (6, 41)] < 2 ^ 32 := pack_lt [(8, 10), (8, 0), (3, a.val), (7, 0), (6, 41)] ⟨(by decide), (Nat.two_pow_pos _), b0, (Nat.two_pow_pos _), (by decide), trivial⟩ rfl
  generalize pack [(8, 10), (8, 0), (3, a.val), (7, 0), (6, 41)] = wd at *
  refine decode_of wd hn.symm ?_ hw hl
  · rw [major_41 e26]; simp only [decodeSystem, e0, e8, e16, e19, reduceIte, ofNat_val]

theorem Sys2Proof.Laws.Roundtrip.rdtime (d : Reg) : Statement (.rdtime d) := by
  intro _ hw
  have hn : ∀ x0 : Nat, pack [(8, 11), (13, 0), (5, x0), (6, 41)] = fields 0xA400000B [(x0, 21)] := by
    intros; simp only [pack_eq, packAt_cons, packAt_nil, Nat.reduceAdd, fields_cons, fields_nil]; omega
  replace hn := hn d.val
  have b0 := d.isLt
  have e0 := bits_pack 8 11 [(13, 0), (5, d.val), (6, 41)] (by decide) 7 0 [] trivial rfl rfl
  have e8 := bits_pack 13 0 [(5, d.val), (6, 41)] (Nat.two_pow_pos _) 20 8 [(8, 11)] ⟨(by decide), trivial⟩ rfl rfl
  have e21 := bits_pack 5 d.val [(6, 41)] b0 25 21 [(8, 11), (13, 0)] ⟨(by decide), (Nat.two_pow_pos _), trivial⟩ rfl rfl
  have e26 := bits_pack 6 41 [] (by decide) 31 26 [(8, 11), (13, 0), (5, d.val)] ⟨(by decide), (Nat.two_pow_pos _), b0, trivial⟩ rfl rfl
  simp only [List.nil_append, List.cons_append] at e0 e8 e21 e26
  have hl : pack [(8, 11), (13, 0), (5, d.val), (6, 41)] < 2 ^ 32 := pack_lt [(8, 11), (13, 0), (5, d.val), (6, 41)] ⟨(by decide), (Nat.two_pow_pos _), b0, (by decide), trivial⟩ rfl
  generalize pack [(8, 11), (13, 0), (5, d.val), (6, 41)] = wd at *
  refine decode_of wd hn.symm ?_ hw hl
  · rw [major_41 e26]; simp only [decodeSystem, e0, e8, e21, reduceIte, ofNat_val]

theorem Sys2Proof.Laws.Roundtrip.rdwin (d : Reg) : Statement (.rdwin d) := by
  intro _ hw
  have hn : ∀ x0 : Nat, pack [(8, 12), (13, 0), (5, x0), (6, 41)] = fields 0xA400000C [(x0, 21)] := by
    intros; simp only [pack_eq, packAt_cons, packAt_nil, Nat.reduceAdd, fields_cons, fields_nil]; omega
  replace hn := hn d.val
  have b0 := d.isLt
  have e0 := bits_pack 8 12 [(13, 0), (5, d.val), (6, 41)] (by decide) 7 0 [] trivial rfl rfl
  have e8 := bits_pack 13 0 [(5, d.val), (6, 41)] (Nat.two_pow_pos _) 20 8 [(8, 12)] ⟨(by decide), trivial⟩ rfl rfl
  have e21 := bits_pack 5 d.val [(6, 41)] b0 25 21 [(8, 12), (13, 0)] ⟨(by decide), (Nat.two_pow_pos _), trivial⟩ rfl rfl
  have e26 := bits_pack 6 41 [] (by decide) 31 26 [(8, 12), (13, 0), (5, d.val)] ⟨(by decide), (Nat.two_pow_pos _), b0, trivial⟩ rfl rfl
  simp only [List.nil_append, List.cons_append] at e0 e8 e21 e26
  have hl : pack [(8, 12), (13, 0), (5, d.val), (6, 41)] < 2 ^ 32 := pack_lt [(8, 12), (13, 0), (5, d.val), (6, 41)] ⟨(by decide), (Nat.two_pow_pos _), b0, (by decide), trivial⟩ rfl
  generalize pack [(8, 12), (13, 0), (5, d.val), (6, 41)] = wd at *
  refine decode_of wd hn.symm ?_ hw hl
  · rw [major_41 e26]; simp only [decodeSystem, e0, e8, e21, reduceIte, ofNat_val]

theorem Sys2Proof.Laws.Roundtrip.permix (d : Reg) (a : Reg) (k : Fin 256) : Statement (.permix d a k) := by
  intro _ hw
  have hn : ∀ x0 x1 x2 : Nat, pack [(8, 13), (8, x2), (5, x1), (5, x0), (6, 41)] = fields 0xA400000D [(x0, 21), (x1, 16), (x2, 8)] := by
    intros; simp only [pack_eq, packAt_cons, packAt_nil, Nat.reduceAdd, fields_cons, fields_nil]; omega
  replace hn := hn d.val a.val k.val
  have b0 := d.isLt
  have b1 := a.isLt
  have b2 := k.isLt
  have e0 := bits_pack 8 13 [(8, k.val), (5, a.val), (5, d.val), (6, 41)] (by decide) 7 0 [] trivial rfl rfl
  have e8 := bits_pack 8 k.val [(5, a.val), (5, d.val), (6, 41)] b2 15 8 [(8, 13)] ⟨(by decide), trivial⟩ rfl rfl
  have e16 := bits_pack 5 a.val [(5, d.val), (6, 41)] b1 20 16 [(8, 13), (8, k.val)] ⟨(by decide), b2, trivial⟩ rfl rfl
  have e21 := bits_pack 5 d.val [(6, 41)] b0 25 21 [(8, 13), (8, k.val), (5, a.val)] ⟨(by decide), b2, b1, trivial⟩ rfl rfl
  have e26 := bits_pack 6 41 [] (by decide) 31 26 [(8, 13), (8, k.val), (5, a.val), (5, d.val)] ⟨(by decide), b2, b1, b0, trivial⟩ rfl rfl
  simp only [List.nil_append, List.cons_append] at e0 e8 e16 e21 e26
  have hl : pack [(8, 13), (8, k.val), (5, a.val), (5, d.val), (6, 41)] < 2 ^ 32 := pack_lt [(8, 13), (8, k.val), (5, a.val), (5, d.val), (6, 41)] ⟨(by decide), b2, b1, b0, (by decide), trivial⟩ rfl
  generalize pack [(8, 13), (8, k.val), (5, a.val), (5, d.val), (6, 41)] = wd at *
  refine decode_of wd hn.symm ?_ hw hl
  · rw [major_41 e26]; simp only [decodeSystem, e0, e8, e16, e21, reduceIte, ofNat_val]

theorem Sys2Proof.Laws.Roundtrip.hnop (p : Fin 4194304) : Statement (.hnop p) := by
  intro _ hw
  have hn : ∀ x0 : Nat, pack [(22, x0), (4, 0), (6, 63)] = fields 0xFC000000 [(x0, 0)] := by
    intros; simp only [pack_eq, packAt_cons, packAt_nil, Nat.reduceAdd, fields_cons, fields_nil]; omega
  replace hn := hn p.val
  have b0 := p.isLt
  have e0 := bits_pack 22 p.val [(4, 0), (6, 63)] b0 21 0 [] trivial rfl rfl
  have e22 := bits_pack 4 0 [(6, 63)] (Nat.two_pow_pos _) 25 22 [(22, p.val)] ⟨b0, trivial⟩ rfl rfl
  have e26 := bits_pack 6 63 [] (by decide) 31 26 [(22, p.val), (4, 0)] ⟨b0, (Nat.two_pow_pos _), trivial⟩ rfl rfl
  simp only [List.nil_append, List.cons_append] at e0 e22 e26
  have hl : pack [(22, p.val), (4, 0), (6, 63)] < 2 ^ 32 := pack_lt [(22, p.val), (4, 0), (6, 63)] ⟨b0, (Nat.two_pow_pos _), (by decide), trivial⟩ rfl
  generalize pack [(22, p.val), (4, 0), (6, 63)] = wd at *
  refine decode_of wd hn.symm ?_ hw hl
  · rw [major_63 e26]; simp only [decodeHint, e22, e0, reduceIte, ofNat_val]

theorem Sys2Proof.Laws.Roundtrip.himm (p : Fin 4194304) : Statement (.himm p) := by
  intro _ hw
  have hn : ∀ x0 : Nat, pack [(22, x0), (4, 1), (6, 63)] = fields 0xFC400000 [(x0, 0)] := by
    intros; simp only [pack_eq, packAt_cons, packAt_nil, Nat.reduceAdd, fields_cons, fields_nil]; omega
  replace hn := hn p.val
  have b0 := p.isLt
  have e0 := bits_pack 22 p.val [(4, 1), (6, 63)] b0 21 0 [] trivial rfl rfl
  have e22 := bits_pack 4 1 [(6, 63)] (by decide) 25 22 [(22, p.val)] ⟨b0, trivial⟩ rfl rfl
  have e26 := bits_pack 6 63 [] (by decide) 31 26 [(22, p.val), (4, 1)] ⟨b0, (by decide), trivial⟩ rfl rfl
  simp only [List.nil_append, List.cons_append] at e0 e22 e26
  have hl : pack [(22, p.val), (4, 1), (6, 63)] < 2 ^ 32 := pack_lt [(22, p.val), (4, 1), (6, 63)] ⟨b0, (by decide), (by decide), trivial⟩ rfl
  generalize pack [(22, p.val), (4, 1), (6, 63)] = wd at *
  refine decode_of wd hn.symm ?_ hw hl
  · rw [major_63 e26]; simp only [decodeHint, e22, e0, reduceIte, ofNat_val]

theorem Sys2Proof.Laws.Roundtrip.hfmt (a : Fin 13) (b : Fin 13) (o : Fin 13) (s : Fin 4) (x : Bool) : Statement (.hfmt a b o s x) := by
  intro _ hw
  have hn : ∀ x0 x1 x2 x3 x4 : Nat, pack [(4, 0), (1, x4), (2, x3), (5, x2), (5, x1), (5, x0), (4, 2), (6, 63)] = fields 0xFC800000 [(x0, 17), (x1, 12), (x2, 7), (x3, 5), (x4, 4)] := by
    intros; simp only [pack_eq, packAt_cons, packAt_nil, Nat.reduceAdd, fields_cons, fields_nil]; omega
  replace hn := hn a.val b.val o.val s.val x.toNat
  have b0 := (lt13 a)
  have b1 := (lt13 b)
  have b2 := (lt13 o)
  have b3 := s.isLt
  have b4 := Bool.toNat_lt x
  have e0 := bits_pack 4 0 [(1, x.toNat), (2, s.val), (5, o.val), (5, b.val), (5, a.val), (4, 2), (6, 63)] (Nat.two_pow_pos _) 3 0 [] trivial rfl rfl
  have e4 := bits_pack 1 x.toNat [(2, s.val), (5, o.val), (5, b.val), (5, a.val), (4, 2), (6, 63)] b4 4 4 [(4, 0)] ⟨(Nat.two_pow_pos _), trivial⟩ rfl rfl
  have e5 := bits_pack 2 s.val [(5, o.val), (5, b.val), (5, a.val), (4, 2), (6, 63)] b3 6 5 [(4, 0), (1, x.toNat)] ⟨(Nat.two_pow_pos _), b4, trivial⟩ rfl rfl
  have e7 := bits_pack 5 o.val [(5, b.val), (5, a.val), (4, 2), (6, 63)] b2 11 7 [(4, 0), (1, x.toNat), (2, s.val)] ⟨(Nat.two_pow_pos _), b4, b3, trivial⟩ rfl rfl
  have e12 := bits_pack 5 b.val [(5, a.val), (4, 2), (6, 63)] b1 16 12 [(4, 0), (1, x.toNat), (2, s.val), (5, o.val)] ⟨(Nat.two_pow_pos _), b4, b3, b2, trivial⟩ rfl rfl
  have e17 := bits_pack 5 a.val [(4, 2), (6, 63)] b0 21 17 [(4, 0), (1, x.toNat), (2, s.val), (5, o.val), (5, b.val)] ⟨(Nat.two_pow_pos _), b4, b3, b2, b1, trivial⟩ rfl rfl
  have e22 := bits_pack 4 2 [(6, 63)] (by decide) 25 22 [(4, 0), (1, x.toNat), (2, s.val), (5, o.val), (5, b.val), (5, a.val)] ⟨(Nat.two_pow_pos _), b4, b3, b2, b1, b0, trivial⟩ rfl rfl
  have e26 := bits_pack 6 63 [] (by decide) 31 26 [(4, 0), (1, x.toNat), (2, s.val), (5, o.val), (5, b.val), (5, a.val), (4, 2)] ⟨(Nat.two_pow_pos _), b4, b3, b2, b1, b0, (by decide), trivial⟩ rfl rfl
  simp only [List.nil_append, List.cons_append] at e0 e4 e5 e7 e12 e17 e22 e26
  have hl : pack [(4, 0), (1, x.toNat), (2, s.val), (5, o.val), (5, b.val), (5, a.val), (4, 2), (6, 63)] < 2 ^ 32 := pack_lt [(4, 0), (1, x.toNat), (2, s.val), (5, o.val), (5, b.val), (5, a.val), (4, 2), (6, 63)] ⟨(Nat.two_pow_pos _), b4, b3, b2, b1, b0, (by decide), (by decide), trivial⟩ rfl
  generalize pack [(4, 0), (1, x.toNat), (2, s.val), (5, o.val), (5, b.val), (5, a.val), (4, 2), (6, 63)] = wd at *
  have f4 : bit wd 4 = x := bit_of e4
  refine decode_of wd hn.symm ?_ hw hl
  · rw [major_63 e26]; simp only [decodeHint, e22, e0, e5, e7, e12, e17, f4, reduceIte, ofNat_val]; rw [if_pos ⟨a.isLt, b.isLt, o.isLt⟩]

theorem Sys2Proof.Laws.Roundtrip.hscope (s : Scope) : Statement (.hscope s) := by
  intro _ hw
  have hn : ∀ x0 : Nat, pack [(3, x0), (19, 0), (4, 3), (6, 63)] = fields 0xFCC00000 [(x0, 0)] := by
    intros; simp only [pack_eq, packAt_cons, packAt_nil, Nat.reduceAdd, fields_cons, fields_nil]; omega
  replace hn := hn s.toBits
  have b0 := Scope.toBits_lt s
  have e0 := bits_pack 3 s.toBits [(19, 0), (4, 3), (6, 63)] b0 2 0 [] trivial rfl rfl
  have e3 := bits_pack 19 0 [(4, 3), (6, 63)] (Nat.two_pow_pos _) 21 3 [(3, s.toBits)] ⟨b0, trivial⟩ rfl rfl
  have e22 := bits_pack 4 3 [(6, 63)] (by decide) 25 22 [(3, s.toBits), (19, 0)] ⟨b0, (Nat.two_pow_pos _), trivial⟩ rfl rfl
  have e26 := bits_pack 6 63 [] (by decide) 31 26 [(3, s.toBits), (19, 0), (4, 3)] ⟨b0, (Nat.two_pow_pos _), (by decide), trivial⟩ rfl rfl
  simp only [List.nil_append, List.cons_append] at e0 e3 e22 e26
  have hl : pack [(3, s.toBits), (19, 0), (4, 3), (6, 63)] < 2 ^ 32 := pack_lt [(3, s.toBits), (19, 0), (4, 3), (6, 63)] ⟨b0, (Nat.two_pow_pos _), (by decide), (by decide), trivial⟩ rfl
  generalize pack [(3, s.toBits), (19, 0), (4, 3), (6, 63)] = wd at *
  refine decode_of wd hn.symm ?_ hw hl
  · rw [major_63 e26]; simp only [decodeHint, e22, e0, e3, reduceIte, Scope.ofBits?_toBits]

theorem Sys2Proof.Laws.Roundtrip.hrealign (n : Fin 4194304) : Statement (.hrealign n) := by
  intro _ hw
  have hn : ∀ x0 : Nat, pack [(22, x0), (4, 4), (6, 63)] = fields 0xFD000000 [(x0, 0)] := by
    intros; simp only [pack_eq, packAt_cons, packAt_nil, Nat.reduceAdd, fields_cons, fields_nil]; omega
  replace hn := hn n.val
  have b0 := n.isLt
  have e0 := bits_pack 22 n.val [(4, 4), (6, 63)] b0 21 0 [] trivial rfl rfl
  have e22 := bits_pack 4 4 [(6, 63)] (by decide) 25 22 [(22, n.val)] ⟨b0, trivial⟩ rfl rfl
  have e26 := bits_pack 6 63 [] (by decide) 31 26 [(22, n.val), (4, 4)] ⟨b0, (by decide), trivial⟩ rfl rfl
  simp only [List.nil_append, List.cons_append] at e0 e22 e26
  have hl : pack [(22, n.val), (4, 4), (6, 63)] < 2 ^ 32 := pack_lt [(22, n.val), (4, 4), (6, 63)] ⟨b0, (by decide), (by decide), trivial⟩ rfl
  generalize pack [(22, n.val), (4, 4), (6, 63)] = wd at *
  refine decode_of wd hn.symm ?_ hw hl
  · rw [major_63 e26]; simp only [decodeHint, e22, e0, reduceIte, ofNat_val]

theorem Sys2Proof.Laws.Roundtrip.realignTimeout (slot : SlotId) : Statement (.realignTimeout slot) := fun h => absurd h (Bool.false_ne_true)

theorem Sys2Proof.Laws.Roundtrip.hpromo (p : Fin 4) : Statement (.hpromo p) := by
  intro _ hw
  have hn : ∀ x0 : Nat, pack [(2, x0), (20, 0), (4, 5), (6, 63)] = fields 0xFD400000 [(x0, 0)] := by
    intros; simp only [pack_eq, packAt_cons, packAt_nil, Nat.reduceAdd, fields_cons, fields_nil]; omega
  replace hn := hn p.val
  have b0 := p.isLt
  have e0 := bits_pack 2 p.val [(20, 0), (4, 5), (6, 63)] b0 1 0 [] trivial rfl rfl
  have e2 := bits_pack 20 0 [(4, 5), (6, 63)] (Nat.two_pow_pos _) 21 2 [(2, p.val)] ⟨b0, trivial⟩ rfl rfl
  have e22 := bits_pack 4 5 [(6, 63)] (by decide) 25 22 [(2, p.val), (20, 0)] ⟨b0, (Nat.two_pow_pos _), trivial⟩ rfl rfl
  have e26 := bits_pack 6 63 [] (by decide) 31 26 [(2, p.val), (20, 0), (4, 5)] ⟨b0, (Nat.two_pow_pos _), (by decide), trivial⟩ rfl rfl
  simp only [List.nil_append, List.cons_append] at e0 e2 e22 e26
  have hl : pack [(2, p.val), (20, 0), (4, 5), (6, 63)] < 2 ^ 32 := pack_lt [(2, p.val), (20, 0), (4, 5), (6, 63)] ⟨b0, (Nat.two_pow_pos _), (by decide), (by decide), trivial⟩ rfl
  generalize pack [(2, p.val), (20, 0), (4, 5), (6, 63)] = wd at *
  refine decode_of wd hn.symm ?_ hw hl
  · rw [major_63 e26]; simp only [decodeHint, e22, e0, e2, reduceIte, ofNat_val]

theorem Sys2Proof.Laws.Roundtrip.hguard (g : Fin 4) : Statement (.hguard g) := by
  intro _ hw
  have hn : ∀ x0 : Nat, pack [(2, x0), (20, 0), (4, 6), (6, 63)] = fields 0xFD800000 [(x0, 0)] := by
    intros; simp only [pack_eq, packAt_cons, packAt_nil, Nat.reduceAdd, fields_cons, fields_nil]; omega
  replace hn := hn g.val
  have b0 := g.isLt
  have e0 := bits_pack 2 g.val [(20, 0), (4, 6), (6, 63)] b0 1 0 [] trivial rfl rfl
  have e2 := bits_pack 20 0 [(4, 6), (6, 63)] (Nat.two_pow_pos _) 21 2 [(2, g.val)] ⟨b0, trivial⟩ rfl rfl
  have e22 := bits_pack 4 6 [(6, 63)] (by decide) 25 22 [(2, g.val), (20, 0)] ⟨b0, (Nat.two_pow_pos _), trivial⟩ rfl rfl
  have e26 := bits_pack 6 63 [] (by decide) 31 26 [(2, g.val), (20, 0), (4, 6)] ⟨b0, (Nat.two_pow_pos _), (by decide), trivial⟩ rfl rfl
  simp only [List.nil_append, List.cons_append] at e0 e2 e22 e26
  have hl : pack [(2, g.val), (20, 0), (4, 6), (6, 63)] < 2 ^ 32 := pack_lt [(2, g.val), (20, 0), (4, 6), (6, 63)] ⟨b0, (Nat.two_pow_pos _), (by decide), (by decide), trivial⟩ rfl
  generalize pack [(2, g.val), (20, 0), (4, 6), (6, 63)] = wd at *
  refine decode_of wd hn.symm ?_ hw hl
  · rw [major_63 e26]; simp only [decodeHint, e22, e0, e2, reduceIte, ofNat_val]

theorem Sys2Proof.Laws.Roundtrip.hnt : Statement .hnt := by
  intro _ hw
  have hn : pack [(22, 0), (4, 7), (6, 63)] = 0xFDC00000 := rfl
  have e0 := bits_pack 22 0 [(4, 7), (6, 63)] (Nat.two_pow_pos _) 21 0 [] trivial rfl rfl
  have e22 := bits_pack 4 7 [(6, 63)] (by decide) 25 22 [(22, 0)] ⟨(Nat.two_pow_pos _), trivial⟩ rfl rfl
  have e26 := bits_pack 6 63 [] (by decide) 31 26 [(22, 0), (4, 7)] ⟨(Nat.two_pow_pos _), (by decide), trivial⟩ rfl rfl
  simp only [List.nil_append, List.cons_append] at e0 e22 e26
  have hl : pack [(22, 0), (4, 7), (6, 63)] < 2 ^ 32 := pack_lt [(22, 0), (4, 7), (6, 63)] ⟨(Nat.two_pow_pos _), (by decide), (by decide), trivial⟩ rfl
  generalize pack [(22, 0), (4, 7), (6, 63)] = wd at *
  refine decode_of wd hn.symm ?_ hw hl
  · rw [major_63 e26]; simp only [decodeHint, e22, e0, reduceIte]

theorem Sys2Proof.Laws.Roundtrip.notifyEntry (slot : SlotId) : Statement (.notifyEntry slot) := fun h => absurd h (Bool.false_ne_true)

theorem Sys2Proof.Laws.Roundtrip.copyChunk (cl : Nat) (e : Fin 4) : Statement (.copyChunk cl e) := fun h => absurd h (Bool.false_ne_true)

theorem Sys2Proof.Laws.Roundtrip.commandCompletion (cmd : Nat) : Statement (.commandCompletion cmd) := fun h => absurd h (Bool.false_ne_true)

theorem Sys2Proof.Laws.Roundtrip.armedCommandStart (cmd : Nat) : Statement (.armedCommandStart cmd) := fun h => absurd h (Bool.false_ne_true)

theorem Sys2Proof.Laws.Roundtrip.sealStart  : Statement .sealStart := by
  intro h
  exact absurd h (by decide)

theorem Sys2Proof.Laws.Roundtrip.nodeEnd (node : Nat) : Statement (.nodeEnd node) := fun h => absurd h (Bool.false_ne_true)

theorem Sys2Proof.Laws.Roundtrip.deferredDrain (die : Nat) : Statement (.deferredDrain die) := fun h => absurd h (Bool.false_ne_true)

theorem Sys2Proof.Laws.Roundtrip.leaseGrant (node : Nat) : Statement (.leaseGrant node) := fun h => absurd h (Bool.false_ne_true)

theorem Sys2Proof.Laws.Roundtrip.dispatchDecision (die : Nat) : Statement (.dispatchDecision die) := fun h => absurd h (Bool.false_ne_true)

theorem Sys2Proof.Laws.Roundtrip.reserving (node : Nat) : Statement (.reserving node) := fun h => absurd h (Bool.false_ne_true)

theorem Sys2Proof.Laws.Roundtrip.prioritySpill (node : Nat) : Statement (.prioritySpill node) := fun h => absurd h (Bool.false_ne_true)

theorem Sys2Proof.Laws.Roundtrip.launch (node : Nat) : Statement (.launch node) := fun h => absurd h (Bool.false_ne_true)

theorem Sys2Proof.Laws.Roundtrip.heartbeatExpiry (slot : SlotId) : Statement (.heartbeatExpiry slot) := fun h => absurd h (Bool.false_ne_true)

theorem Sys2Proof.Laws.Roundtrip.fenceTestDone (core : Nat) (passed : Bool) : Statement (.fenceTestDone core passed) := fun h => absurd h (Bool.false_ne_true)

theorem Sys2Proof.Laws.Roundtrip.slotSpill (slot : SlotId) : Statement (.slotSpill slot) := fun h => absurd h (Bool.false_ne_true)

theorem Sys2Proof.Laws.Roundtrip.resumption (node : Nat) : Statement (.resumption node) := fun h => absurd h (Bool.false_ne_true)

theorem Sys2Proof.Laws.Roundtrip.entryTimeout (core : Nat) (k : Nat) : Statement (.entryTimeout core k) := fun h => absurd h (Bool.false_ne_true)

theorem Sys2Proof.Laws.Roundtrip.storeLinePerform (core : Nat) (k : Nat) : Statement (.storeLinePerform core k) := fun h => absurd h (Bool.false_ne_true)

theorem Sys2Proof.Laws.Roundtrip.accessResponse (slot : SlotId) (data : VecWord) : Statement (.accessResponse slot data) := fun h => absurd h (Bool.false_ne_true)

theorem Sys2Proof.Laws.Roundtrip.pageWalk (cl : Nat) (asid : BitVec 16) (va : VAddr) (kind : AccessKind) : Statement (.pageWalk cl asid va kind) := fun h => absurd h (Bool.false_ne_true)

theorem Sys2Proof.Laws.Roundtrip.vexeyAdmission (req : VexeyKey) (flits : Nat) : Statement (.vexeyAdmission req flits) := fun h => absurd h (Bool.false_ne_true)

theorem Sys2Proof.Laws.Roundtrip.vexeyWrite (msg : Message) (payload : VecWord) : Statement (.vexeyWrite msg payload) := fun h => absurd h (Bool.false_ne_true)

theorem Sys2Proof.Laws.Roundtrip.vexeyRead (msg : Message) : Statement (.vexeyRead msg) := fun h => absurd h (Bool.false_ne_true)

theorem Sys2Proof.Laws.Roundtrip.readData (msg : Message) (payload : VecWord) : Statement (.readData msg payload) := fun h => absurd h (Bool.false_ne_true)

theorem Sys2Proof.Laws.Roundtrip.vexeyAtomic (msg : Message) (req : AtomicReq) : Statement (.vexeyAtomic msg req) := fun h => absurd h (Bool.false_ne_true)

theorem Sys2Proof.Laws.Roundtrip.atomicData (msg : Message) (payload : VecWord) : Statement (.atomicData msg payload) := fun h => absurd h (Bool.false_ne_true)

theorem Sys2Proof.Laws.Roundtrip.performed (msg : Message) : Statement (.performed msg) := fun h => absurd h (Bool.false_ne_true)

theorem Sys2Proof.Laws.Roundtrip.clockMessage (ofs : BitVec 32) : Statement (.clockMessage ofs) := fun h => absurd h (Bool.false_ne_true)

theorem Sys2Proof.Laws.Roundtrip.linkFailure (link : Fin 16) : Statement (.linkFailure link) := fun h => absurd h (Bool.false_ne_true)

theorem Sys2Proof.Laws.Roundtrip.syncLost  : Statement .syncLost := by
  intro h
  exact absurd h (by decide)

theorem Sys2Proof.Laws.Roundtrip.syncRegained  : Statement .syncRegained := by
  intro h
  exact absurd h (by decide)

theorem Sys2Proof.Laws.Roundtrip.hostWrite (port : Fin 2) (pa : Nat) (data : List Byte) : Statement (.hostWrite port pa data) := fun h => absurd h (Bool.false_ne_true)

theorem Sys2Proof.Laws.Roundtrip.hostRead (port : Fin 2) (pa : Nat) (n : Nat) : Statement (.hostRead port pa n) := fun h => absurd h (Bool.false_ne_true)

theorem Sys2Proof.Laws.Roundtrip.launchSubmission (port : Fin 2) (off : Nat) (data : List Byte) : Statement (.launchSubmission port off data) := fun h => absurd h (Bool.false_ne_true)

theorem Sys2Proof.Laws.Roundtrip.dmaRequest (port : Fin 2) (rid : BitVec 16) (va : VAddr) (rd : Nat) (data : List Byte) : Statement (.dmaRequest port rid va rd data) := fun h => absurd h (Bool.false_ne_true)

theorem Sys2Proof.Laws.Roundtrip.interruptLineRaise (line : Nat) : Statement (.interruptLineRaise line) := fun h => absurd h (Bool.false_ne_true)

theorem Sys2Proof.Laws.Roundtrip.functionReset (port : Fin 2) : Statement (.functionReset port) := fun h => absurd h (Bool.false_ne_true)

theorem Sys2Proof.Laws.Roundtrip.functionReady (port : Fin 2) : Statement (.functionReady port) := fun h => absurd h (Bool.false_ne_true)

theorem Sys2Proof.Laws.Roundtrip.faultRecordPost (ring : Nat) : Statement (.faultRecordPost ring) := fun h => absurd h (Bool.false_ne_true)

theorem Sys2Proof.Laws.Roundtrip.tinv (v : DWord) : Statement (.tinv v) := fun h => absurd h (Bool.false_ne_true)

theorem Sys2Proof.Laws.Roundtrip.invalidationDone  : Statement .invalidationDone := by
  intro h
  exact absurd h (by decide)

theorem Sys2Proof.Laws.Roundtrip.spillreq (v : DWord) : Statement (.spillreq v) := fun h => absurd h (Bool.false_ne_true)

theorem Sys2Proof.Laws.Roundtrip.nodekill (v : DWord) : Statement (.nodekill v) := fun h => absurd h (Bool.false_ne_true)

theorem Sys2Proof.Laws.Roundtrip.leasego (v : DWord) : Statement (.leasego v) := fun h => absurd h (Bool.false_ne_true)

theorem Sys2Proof.Laws.Roundtrip.leaseno (v : DWord) : Statement (.leaseno v) := fun h => absurd h (Bool.false_ne_true)

theorem Sys2Proof.Laws.Roundtrip.fenceack (v : DWord) : Statement (.fenceack v) := fun h => absurd h (Bool.false_ne_true)

theorem Sys2Proof.Laws.Roundtrip.relasid (v : DWord) : Statement (.relasid v) := fun h => absurd h (Bool.false_ne_true)

theorem Sys2Proof.Laws.Roundtrip.grantEntryWrite (off : Nat) (v : DWord) : Statement (.grantEntryWrite off v) := fun h => absurd h (Bool.false_ne_true)

theorem Sys2Proof.Laws.Roundtrip.bankModeRequest (cl : Nat) (bank : Fin 64) (v : DWord) : Statement (.bankModeRequest cl bank v) := fun h => absurd h (Bool.false_ne_true)

theorem Sys2Proof.Laws.Roundtrip.furlRequest (cl : Nat) (bank : Fin 64) (v : DWord) : Statement (.furlRequest cl bank v) := fun h => absurd h (Bool.false_ne_true)

theorem Sys2Proof.Laws.Roundtrip.bankSwitchDone (cl : Nat) (bank : Fin 64) : Statement (.bankSwitchDone cl bank) := fun h => absurd h (Bool.false_ne_true)

theorem Sys2Proof.Laws.Roundtrip.bankReef (bank : BankId) : Statement (.bankReef bank) := fun h => absurd h (Bool.false_ne_true)

theorem Sys2Proof.Laws.Roundtrip.routineLoad (cl : Nat) (v : DWord) : Statement (.routineLoad cl v) := fun h => absurd h (Bool.false_ne_true)

theorem Sys2Proof.Laws.Roundtrip.routineUnload (cl : Nat) (v : DWord) : Statement (.routineUnload cl v) := fun h => absurd h (Bool.false_ne_true)

theorem Sys2Proof.Laws.Roundtrip.routineLoadDone (cl : Nat) : Statement (.routineLoadDone cl) := fun h => absurd h (Bool.false_ne_true)

theorem Sys2Proof.Laws.Roundtrip.protectionEntryWrite (core : Nat) (e : Fin 8) (v : DWord) : Statement (.protectionEntryWrite core e v) := fun h => absurd h (Bool.false_ne_true)

theorem Sys2Proof.Laws.Roundtrip.registerWrite (pa : Nat) (v : DWord) : Statement (.registerWrite pa v) := fun h => absurd h (Bool.false_ne_true)

theorem Sys2Proof.Laws.Roundtrip.limiterMeasure (die : Nat) (mw : Nat) : Statement (.limiterMeasure die mw) := fun h => absurd h (Bool.false_ne_true)

theorem Sys2Proof.Laws.Roundtrip.attest (world : BitVec 4) (nonce : List Byte) : Statement (.attest world nonce) := fun h => absurd h (Bool.false_ne_true)

theorem Sys2Proof.Laws.Roundtrip.park (slot : SlotId) : Statement (.park slot) := fun h => absurd h (Bool.false_ne_true)

theorem Sys2Proof.Laws.Roundtrip.resume (slot : SlotId) : Statement (.resume slot) := fun h => absurd h (Bool.false_ne_true)

theorem Sys2Proof.Laws.Roundtrip.stepSlot (slot : SlotId) : Statement (.stepSlot slot) := fun h => absurd h (Bool.false_ne_true)

theorem Sys2Proof.Laws.Roundtrip.readMem (pa : Nat) (n : Nat) : Statement (.readMem pa n) := fun h => absurd h (Bool.false_ne_true)

theorem Sys2Proof.Laws.Roundtrip.writeMem (pa : Nat) (data : List Byte) : Statement (.writeMem pa data) := fun h => absurd h (Bool.false_ne_true)

theorem Sys2Proof.Laws.Roundtrip.traceCfg (cfg : TraceCfg) : Statement (.traceCfg cfg) := fun h => absurd h (Bool.false_ne_true)

theorem Sys2Proof.Laws.Roundtrip.counters  : Statement .counters := by
  intro h
  exact absurd h (by decide)

theorem Sys2Proof.Laws.Roundtrip.bootlog  : Statement .bootlog := by
  intro h
  exact absurd h (by decide)

theorem Sys2Proof.Laws.Roundtrip.traceSample  : Statement .traceSample := by
  intro h
  exact absurd h (by decide)

theorem Sys2Proof.Laws.Roundtrip.counterSnapshot  : Statement .counterSnapshot := by
  intro h
  exact absurd h (by decide)

theorem Sys2Proof.Laws.Roundtrip.resetModule (boot : BootScript) : Statement (.resetModule boot) := fun h => absurd h (Bool.false_ne_true)

theorem Sys2Proof.Laws.Roundtrip.illegalWord (w : Word) : Statement (.illegalWord w) := fun h => absurd h (Bool.false_ne_true)

theorem Sys2Proof.Laws.Roundtrip.windowStart  : Statement .windowStart := by
  intro h
  exact absurd h (by decide)

theorem Sys2Proof.Laws.Roundtrip.backInvalidateResponse (line : Nat) : Statement (.backInvalidateResponse line) := fun h => absurd h (Bool.false_ne_true)

theorem Sys2Proof.Laws.Roundtrip.hintType8to15 (t : Fin 8) (p : Fin 4194304) : Statement (.hintType8to15 t p) := by
  intro _ hw
  have b0 := t.isLt
  have b1 := p.isLt
  obtain ⟨n, hn⟩ : ∃ n, n = 0xFE000000 + t.val * 2 ^ 22 + p.val * 2 ^ 0 := ⟨_, rfl⟩
  have e0 : bits n 31 26 = 63 := by simp only [hn, bits]; omega
  have e2 : bits n 24 22 = t.val := by simp only [hn, bits]; omega
  have e3 : bits n 21 0 = p.val := by simp only [hn, bits]; omega
  refine decode_of n ?_ ?_ hw ?_
  · exact hn ▸ rfl
  · have e1 : bits n 25 22 = 8 ∨ bits n 25 22 = 9 ∨ bits n 25 22 = 10 ∨ bits n 25 22 = 11 ∨ bits n 25 22 = 12 ∨
        bits n 25 22 = 13 ∨ bits n 25 22 = 14 ∨ bits n 25 22 = 15 := by simp only [hn, bits]; omega
    rcases e1 with h | h | h | h | h | h | h | h <;> simp only [major_63 e0, decodeHint, h, e2, e3, ofNat_val]
  · omega
end

