-- ==== Sys2Proof/Laws/Pointers.lean ====
section
/-!
SUPPORT. Pointer arithmetic keeps a pointer valid (spec/06_memory_instr.md R119, R120).
-/
namespace Sys2Proof.Machine

theorem bits_lt (n hi lo : Nat) : bits n hi lo < 2 ^ (hi + 1 - lo) := Nat.mod_lt _ (Nat.two_pow_pos _)

theorem wrap_lt (w : Nat) (x : Int) : wrap w x < 2 ^ w := by
  unfold wrap
  have h0 : (2 ^ w : Int) = ((2 ^ w : Nat) : Int) := by norm_cast
  have h : (0 : Int) < (2 ^ w : Int) := by rw [h0]; exact Int.natCast_pos.mpr (Nat.two_pow_pos w)
  have h1 := Int.emod_nonneg x (Int.ne_of_gt h)
  have h2 := Int.emod_lt_of_pos x h
  rw [h0] at h1 h2 ⊢
  omega

/-- A digit within its span keeps its span. -/
theorem spanFits_walk {c r x m : Nat} (hr : r < x) (h : spanFits c x m = true) : spanFits (c - c % x + r) x m = true := by
  have e : (c - c % x + r) % x = r := by
    have : c - c % x = x * (c / x) := by have := Nat.div_add_mod c x; omega
    rw [this, Nat.mul_add_mod, Nat.mod_eq_of_lt hr]
  have := of_decide_eq_true h
  unfold spanFits
  rw [e]
  exact decide_eq_true (by omega)

/-- The fields of an LM pointer put together. -/
theorem lm_valid {a b c d e w o : Nat} (ha : a < 8) (hb : b < 4) (hc : c < 4) (hd : d < 8) (he : e < 8) (hw : w < 2 ^ 31)
    (ho : o < 2 ^ 17) (h1 : w / 2 ^ 23 % 2 ^ 8 = 0) (h2 : w % 2 ^ 9 = 0) (h3 : w / 2 ^ 9 % 2 ^ 4 ≤ 13)
    (x1 : spanFits e (w / 2 ^ 20 % 2 ^ 3 + 1) 8 = true) (x2 : spanFits d (w / 2 ^ 17 % 2 ^ 3 + 1) 8 = true)
    (x3 : spanFits c (w / 2 ^ 15 % 2 ^ 2 + 1) 4 = true) (x4 : spanFits b (w / 2 ^ 13 % 2 ^ 2 + 1) 4 = true) :
    ptrValid (BitVec.ofNat 64 (a * 2 ^ 58 + b * 2 ^ 56 + c * 2 ^ 54 + d * 2 ^ 51 + e * 2 ^ 48 + w * 2 ^ 17 + o)) = true := by
  have hn : a * 2 ^ 58 + b * 2 ^ 56 + c * 2 ^ 54 + d * 2 ^ 51 + e * 2 ^ 48 + w * 2 ^ 17 + o < 2 ^ 61 := by omega
  generalize hN : a * 2 ^ 58 + b * 2 ^ 56 + c * 2 ^ 54 + d * 2 ^ 51 + e * 2 ^ 48 + w * 2 ^ 17 + o = N at hn
  have ht : (BitVec.ofNat 64 N).toNat = N := by rw [BitVec.toNat_ofNat, Nat.mod_eq_of_lt (by omega)]
  unfold ptrValid ptrSpace
  rw [ht]
  have s0 : bits N 63 61 = 0 := by unfold bits; omega
  have s1 : bits N 47 40 = w / 2 ^ 23 % 2 ^ 8 := by unfold bits; omega
  have s2 : bits N 25 17 = w % 2 ^ 9 := by unfold bits; omega
  have s3 : bits N 29 26 = w / 2 ^ 9 % 2 ^ 4 := by unfold bits; omega
  have s4 : bits N 50 48 = e := by unfold bits; omega
  have s5 : bits N 53 51 = d := by unfold bits; omega
  have s6 : bits N 55 54 = c := by unfold bits; omega
  have s7 : bits N 57 56 = b := by unfold bits; omega
  have s8 : bits N 39 37 = w / 2 ^ 20 % 2 ^ 3 := by unfold bits; omega
  have s9 : bits N 36 34 = w / 2 ^ 17 % 2 ^ 3 := by unfold bits; omega
  have sa : bits N 33 32 = w / 2 ^ 15 % 2 ^ 2 := by unfold bits; omega
  have sb : bits N 31 30 = w / 2 ^ 13 % 2 ^ 2 := by unfold bits; omega
  simp only [s0, s1, s2, s3, s4, s5, s6, s7, s8, s9, sa, sb, h1, h2, x1, x2, x3, x4, decide_eq_true h3, decide_true, Bool.and_self]

/-- adv keeps a pointer valid (R119, R120). -/
theorem ptrValid_adv {p : DWord} (i : Int) (h : ptrValid p = true) : ptrValid (adv p i) = true := by
  have hp : p.toNat < 2 ^ 64 := p.isLt
  unfold adv
  split
  · next hs =>
    unfold ptrValid at h
    rw [hs] at h
    simp only [Bool.and_eq_true, decide_eq_true_eq] at h
    obtain ⟨⟨⟨⟨⟨⟨h1, h2⟩, h3⟩, x1⟩, x2⟩, x3⟩, x4⟩ := h
    generalize p.toNat = n at *
    unfold advLm
    have m : ∀ (x : Int) (k : Nat), (x % ((k + 1 : Nat) : Int)).toNat < k + 1 := by
      intro x k
      have h1 := Int.emod_nonneg x (b := ((k + 1 : Nat) : Int)) (by omega)
      have h2 := Int.emod_lt_of_pos x (b := ((k + 1 : Nat) : Int)) (by omega)
      omega
    dsimp only
    have w1 : bits n 47 17 / 2 ^ 20 % 2 ^ 3 = bits n 39 37 := by unfold bits; omega
    have w2 : bits n 47 17 / 2 ^ 17 % 2 ^ 3 = bits n 36 34 := by unfold bits; omega
    have w3 : bits n 47 17 / 2 ^ 15 % 2 ^ 2 = bits n 33 32 := by unfold bits; omega
    have w4 : bits n 47 17 / 2 ^ 13 % 2 ^ 2 = bits n 31 30 := by unfold bits; omega
    have w5 : bits n 47 17 / 2 ^ 23 % 2 ^ 8 = bits n 47 40 := by unfold bits; omega
    have w6 : bits n 47 17 % 2 ^ 9 = bits n 25 17 := by unfold bits; omega
    have w7 : bits n 47 17 / 2 ^ 9 % 2 ^ 4 = bits n 29 26 := by unfold bits; omega
    have lt : ∀ {c x r m : Nat}, spanFits c x m = true → r < x → c - c % x + r < m := by
      intro c x r m h hr
      have := of_decide_eq_true h
      omega
    refine lm_valid (bits_lt n 60 58) ?_ ?_ ?_ ?_ (bits_lt n 47 17) (wrap_lt 17 _) (w5 ▸ h1) (w6 ▸ h2) (by rw [w7]; exact h3)
      ?_ ?_ ?_ ?_
    · exact lt x4 (m _ _)
    · exact lt x3 (m _ _)
    · exact lt x2 (m _ _)
    · exact lt x1 (m _ _)
    · rw [w1]; exact spanFits_walk (m _ _) x1
    · rw [w2]; exact spanFits_walk (m _ _) x2
    · rw [w3]; exact spanFits_walk (m _ _) x3
    · rw [w4]; exact spanFits_walk (m _ _) x4
  · next hs =>
    have hv := h
    unfold ptrValid at hv
    rw [hs] at hv
    have hz := of_decide_eq_true hv
    have hw := wrap_lt 22 (ptrSramOff p + i)
    generalize wrap 22 (ptrSramOff p + i) = o at hw
    unfold ptrSpace at hs
    generalize p.toNat = n at *
    have ht : (BitVec.ofNat 64 (bits n 63 22 * 2 ^ 22 + o)).toNat = bits n 63 22 * 2 ^ 22 + o := by
      rw [BitVec.toNat_ofNat, Nat.mod_eq_of_lt]; have := bits_lt n 63 22; omega
    unfold ptrValid ptrSpace
    rw [ht]
    have e1 : bits (bits n 63 22 * 2 ^ 22 + o) 63 61 = 1 := by unfold bits at *; omega
    have e2 : bits (bits n 63 22 * 2 ^ 22 + o) 53 22 = 0 := by unfold bits at *; omega
    simp only [e1, e2, decide_true]
  · next hs =>
    have hv := h
    unfold ptrValid at hv
    rw [hs] at hv
    have hz := of_decide_eq_true hv
    have hw := wrap_lt 55 ((ptrVa p).toNat + i)
    generalize wrap 55 ((ptrVa p).toNat + i) = o at hw
    unfold ptrSpace at hs
    generalize p.toNat = n at *
    have ht : (BitVec.ofNat 64 (bits n 63 55 * 2 ^ 55 + o)).toNat = bits n 63 55 * 2 ^ 55 + o := by
      rw [BitVec.toNat_ofNat, Nat.mod_eq_of_lt]; have := bits_lt n 63 55; omega
    unfold ptrValid ptrSpace
    rw [ht]
    have e1 : bits (bits n 63 55 * 2 ^ 55 + o) 63 61 = 2 := by unfold bits at *; omega
    have e2 : bits (bits n 63 55 * 2 ^ 55 + o) 60 55 = 0 := by unfold bits at *; omega
    simp only [e1, e2, decide_true]
  · exact h
end Sys2Proof.Machine
end

