-- ==== Sys2Proof/Tests/Slice0.lean ====
section
/-!
SUPPORT. Tests of one word or one step each, whose expected results are the spec's worked examples, and for each statement
with hypotheses a concrete state and operands that meet them.
-/

namespace Sys2Proof.Tests

set_option Elab.async false
set_option exponentiation.threshold 1024

open Sys2Proof Sys2Proof.Machine

/-! ## Ill-formed instructions, one for each check of WellFormed -/

theorem test_wf_sext : (Instr.sext 1 2 .w .w32).wf = false := by decide
theorem test_wf_zext : (Instr.zext 1 2 .w .w32).wf = false := by decide
theorem test_wf_shi : (Instr.shi 1 2 .shl .w32 32).wf = false := by decide
theorem test_wf_loop : (Instr.loop 1 0).wf = false := by decide
theorem test_wf_loopk : (Instr.loopk 1 0).wf = false := by decide
theorem test_wf_qwait : (Instr.qwait 1 0).wf = false := by decide
theorem test_wf_qrsv : (Instr.qrsv 1 0).wf = false := by decide
theorem test_wf_qpush : (Instr.qpush 1 0).wf = false := by decide
theorem test_wf_qpop : (Instr.qpop 1 0).wf = false := by decide
theorem test_wf_vqnt : (Instr.vqnt 1 3 2).wf = false := by decide
theorem test_wf_vdqnt : (Instr.vdqnt 3 1 2).wf = false := by decide
theorem test_wf_astep_count : (Instr.astep true 1 2 0 3).wf = false := by decide
theorem test_wf_astep_output : (Instr.astep false 1 2 8 3).wf = false := by decide
theorem test_wf_astepx_count : (Instr.astepx 2 1 0 3).wf = false := by decide
theorem test_wf_astepx_pair : (Instr.astepx 3 1 8 3).wf = false := by decide
theorem test_wf_acomp : (Instr.acomp 2 4 5).wf = false := by decide
theorem test_wf_asel : (Instr.asel 1 3 2).wf = false := by decide
theorem test_wf_tinfo : (Instr.tinfo 1 2 12).wf = false := by decide
theorem test_wf_hrealign : (Instr.hrealign 0).wf = false := by decide

/-- A word whose fields break a check is ILLEGAL (R55): SHI at .w32 by 32. -/
theorem test_wf_refused : decode (encode (.shi 3 2 .shl .w32 32)) = .error .illegalValue ∧ (Instr.shi 3 2 .shl .w32 31).wf = true := ⟨rfl, rfl⟩

/-! ## Words that spec/ writes out beside their assembly -/

/-- A word decodes to an instruction, and is its encoding. -/
def means (w : Word) (i : Instr) : Prop := decode w = .ok i ∧ encode i = w

/-- The scalar words (R69, R98, R103 to R107). -/
theorem test_decode_scalar :
    means 0x04642820 (.sub 3 4 5 .w32) ∧
    means 0x04E80381 (.sext 7 8 .b .w64) ∧
    means 0x08C21442 (.mulK 6 2 20 .w64) ∧
    means 0x0840064A (.orK 2 0 6 .w64) ∧
    means 0x05083801 (.add 8 8 7 .w64) ∧
    means 0x060E7AA1 (.seq 16 14 15 .w64) ∧
    means 0x0D6B0001 (.addi 11 11 1) ∧
    means 0x0D40FFFF (.addi 10 0 65535) ∧
    means 0x2463200B (.shi 3 3 .shl .w64 11) ∧
    means 0x05F303A3 (.zext 15 19 .h .w64) :=
  ⟨⟨rfl, rfl⟩, ⟨rfl, rfl⟩, ⟨rfl, rfl⟩, ⟨rfl, rfl⟩, ⟨rfl, rfl⟩, ⟨rfl, rfl⟩, ⟨rfl, rfl⟩, ⟨rfl, rfl⟩, ⟨rfl, rfl⟩, ⟨rfl, rfl⟩⟩

/-- The control words (R105 to R110). -/
theorem test_decode_control :
    means 0x31032002 (.bne 8 3 2) ∧
    means 0x31404003 (.blts 10 0 3) ∧
    means 0x30280015 (.beq 1 8 21) ∧
    means 0x3800000D (.call 13) ∧
    means 0x3C090000 (.jr 9) ∧
    means 0x3C000040 (.ret) ∧
    means 0x40C00004 (.loop 6 4) ∧
    means 0x4024200A (.loopk 9 10) ∧
    means 0x40006000 (.lsave) ∧
    means 0x40004000 (.lexit) ∧
    means 0x40008000 (.lrst) :=
  ⟨⟨rfl, rfl⟩, ⟨rfl, rfl⟩, ⟨rfl, rfl⟩, ⟨rfl, rfl⟩, ⟨rfl, rfl⟩, ⟨rfl, rfl⟩, ⟨rfl, rfl⟩, ⟨rfl, rfl⟩, ⟨rfl, rfl⟩, ⟨rfl, rfl⟩, ⟨rfl, rfl⟩⟩

/-- The pointer and memory words (R118 to R125). -/
theorem test_decode_memory :
    means 0x44432080 (.pcoord 2 3 4) ∧
    means 0x44422860 (.pwalk 2 2 5) ∧
    means 0x44450000 (.pset 2 5) ∧
    means 0x44636040 (.padd 3 3 12) ∧
    means 0x44830020 (.pget 4 3) ∧
    means 0x48E9A008 (.ld 7 2 .d (.postImm 8) .plain) ∧
    means 0x48E5E00A (.ld 7 1 .d (.index 10) .plain) ∧
    means 0x49272004 (.ld 9 1 .wzx (.postImm 4) .plain) ∧
    means 0x4D198060 (.st 8 6 .d (.plain 96) .plain) ∧
    means 0x50844805 (.ldv 4 1 (.postReg 5) .acq) ∧
    means 0x560C0140 (.stv 16 3 (.plain 320) .plain) ∧
    means 0x64400000 (.qbind 2 0) :=
  ⟨⟨rfl, rfl⟩, ⟨rfl, rfl⟩, ⟨rfl, rfl⟩, ⟨rfl, rfl⟩, ⟨rfl, rfl⟩, ⟨rfl, rfl⟩, ⟨rfl, rfl⟩, ⟨rfl, rfl⟩, ⟨rfl, rfl⟩, ⟨rfl, rfl⟩, ⟨rfl, rfl⟩, ⟨rfl, rfl⟩⟩

/-- The vector words (R140 to R155). -/
theorem test_decode_vector :
    means 0x72101020 (.visub 16 16 2 false .i32) ∧
    means 0x74C40000 (.vbcast 6 4) ∧
    means 0x74C90040 (.vins 6 9 0) ∧
    means 0x75DD0020 (.vextr 14 29 0) ∧
    means 0x76020081 (.vscan 16 2 .iadd) ∧
    means 0x7D801820 (.vqnt 12 0 3) ∧
    means 0x7DCC1840 (.vdqnt 14 12 3) :=
  ⟨⟨rfl, rfl⟩, ⟨rfl, rfl⟩, ⟨rfl, rfl⟩, ⟨rfl, rfl⟩, ⟨rfl, rfl⟩, ⟨rfl, rfl⟩, ⟨rfl, rfl⟩⟩

/-- The tile words (R61, R158). -/
theorem test_decode_tile :
    means 0x80800000 (.mzero 2 0) ∧
    means 0x80400F81 (.manchor 1 15 1) ∧
    means 0x800A1002 (.mma 0 1 2 16 0) ∧
    means 0x80651C83 (.mmas 1 4 5 28 1) ∧
    means 0x84181000 (.mres 0 3 16 0) ∧
    means 0x84000081 (.mresc 0 1) ∧
    means 0x848A1602 (.mrd 2 10 22 0) ∧
    means 0x84062003 (.mcmp 0 6 32 0) ∧
    means 0x84300084 (.msave 0 6 1) ∧
    means 0x88B80000 (.mmerge 2 7 0) ∧
    means 0x88002101 (.mrstl 33) ∧
    means 0x88000002 (.mwait 0 0) :=
  ⟨⟨rfl, rfl⟩, ⟨rfl, rfl⟩, ⟨rfl, rfl⟩, ⟨rfl, rfl⟩, ⟨rfl, rfl⟩, ⟨rfl, rfl⟩, ⟨rfl, rfl⟩, ⟨rfl, rfl⟩, ⟨rfl, rfl⟩, ⟨rfl, rfl⟩, ⟨rfl, rfl⟩, ⟨rfl, rfl⟩⟩

/-- The automaton words (R60, R195, R201 to R204). -/
theorem test_decode_automaton :
    means 0x8EA42000 (.astep true 5 2 16 0) ∧
    means 0x8E041041 (.astepx 16 2 8 1) ∧
    means 0x90040002 (.aload 4 2) ∧
    means 0x90060040 (.atok 6 0) ∧
    means 0x93109060 (.acomp 24 16 18) ∧
    means 0x93D07880 (.asel 30 16 15) ∧
    means 0x906028A0 (.amask 3 5 0) ∧
    means 0x90E028C0 (.aforce 7 5 0) :=
  ⟨⟨rfl, rfl⟩, ⟨rfl, rfl⟩, ⟨rfl, rfl⟩, ⟨rfl, rfl⟩, ⟨rfl, rfl⟩, ⟨rfl, rfl⟩, ⟨rfl, rfl⟩, ⟨rfl, rfl⟩⟩

/-- The directory and graph words (R213 to R221). -/
theorem test_decode_directory :
    means 0x94024020 (.tbindm 2 8) ∧
    means 0x95C10060 (.topen 14 1) ∧
    means 0x95664880 (.topenw 11 6 9) ∧
    means 0x958B00E0 (.thaddr 12 11 0) ∧
    means 0x940E00A0 (.tclose 14) ∧
    means 0x98000020 (.nend) ∧
    means 0x98070062 (.barr 7 2) :=
  ⟨⟨rfl, rfl⟩, ⟨rfl, rfl⟩, ⟨rfl, rfl⟩, ⟨rfl, rfl⟩, ⟨rfl, rfl⟩, ⟨rfl, rfl⟩, ⟨rfl, rfl⟩⟩

/-- The engine, system and hint words (R62, R223, R231). -/
theorem test_decode_system :
    means 0x9C412805 (.cpy 2 1 5 false true false true) ∧
    means 0x9CC74800 (.cpy 6 7 9 false false false false) ∧
    means 0xA4010604 (.sysw 1 6) ∧
    means 0xA6800803 (.sysr 20 8) ∧
    means 0xA4000002 (.uret) ∧
    means 0xFC8C6000 (.hfmt 6 6 0 0 false) ∧
    means 0xFC886020 (.hfmt 4 6 0 1 false) ∧
    means 0xFC800310 (.hfmt 0 0 6 0 true) :=
  ⟨⟨rfl, rfl⟩, ⟨rfl, rfl⟩, ⟨rfl, rfl⟩, ⟨rfl, rfl⟩, ⟨rfl, rfl⟩, ⟨rfl, rfl⟩, ⟨rfl, rfl⟩, ⟨rfl, rfl⟩⟩

/-! ## One step each, with the results that spec/ works out -/

/-- A thread at supervisor level between two words, whose handlers exist. -/
def start : State := { State.reset with thr := { placeThread with stvec := 0x1000, utvec := 0x2000, uivec := 0x3000 } }

/-- The same at user level. -/
def user : State := { start with thr := { start.thr with status := Status.zero } }

/-- A start with scalar registers written. -/
def withS (l : List (Nat × DWord)) : State := l.foldl (fun s x => s.setS (Fin.ofNat 32 x.1) x.2) start

/-- Something of the next state. -/
def see {α : Type} (f : State → α) : Out → Option α
  | .next s => some (f s)
  | _ => none

/-- A second word after a first. -/
def andThen (o : Out) (f : State → Out) : Out :=
  match o with
  | .next s => f s
  | _ => o

/-- Sixteen lanes, zero after those given. -/
def vec (l : List Nat) : VecWord := ofLanes ((l ++ List.replicate (16 - l.length) 0).map (BitVec.ofNat 32))

/-- R97 to R100: DIVS.W32 of 0x80000000 by -1, and by 0. -/
theorem test_divs : see (fun t => (t.thr.sreg 3, t.thr.pc)) (exec (.divs 3 1 2 .w32) (withS [(1, 0x80000000), (2, 0xFFFFFFFFFFFFFFFF)])) =
    some (0xFFFFFFFF80000000, 0x200004) := by decide +kernel
theorem test_divs_zero : see (fun t => t.thr.sreg 3) (exec (.divs 3 1 2 .w32) (withS [(1, 0x80000000)])) =
    some 0xFFFFFFFFFFFFFFFF := by decide +kernel

/-- R10: a write to s0 is discarded, and a source may be the destination. -/
theorem test_add_zero_register : see (fun t => t.thr.sreg 0) (exec (.add 0 1 1 .w64) (withS [(1, 5)])) = some 0 := by decide +kernel
theorem test_sub_wraps : see (fun t => t.thr.sreg 1) (exec (.sub 1 2 1 .w32) (withS [(1, 1)])) =
    some 0xFFFFFFFFFFFFFFFF := by decide +kernel

/-- R103: ADDI takes a signed immediate. -/
theorem test_addi : see (fun t => t.thr.sreg 10) (exec (.addi 10 0 65535) start) = some 0xFFFFFFFFFFFFFFFF := by decide +kernel

/-- R105, R106: a backward branch, and CALL links the following word. -/
theorem test_blts : see (fun t => t.thr.pc) (exec (.blts 3 4 8187) (withS [(3, 0xFFFFFFFFFFFFFFFF)])) = some 0x1FFFEC := by decide +kernel
theorem test_call : see (fun t => (t.thr.pc, t.thr.sreg 31)) (exec (.call 13) start) = some (0x200034, 0x200004) := by decide +kernel

/-- R110, R111: LOOP with a count of 2 pushes an entry; with 0 it goes to the end of the body. -/
theorem test_loop : see (fun t => (t.thr.pc, t.thr.loops)) (exec (.loop 6 4) (withS [(6, 2)])) =
    some (0x200004, [{ len := 4, count := 1, start := 0x200004 }]) := by decide +kernel
theorem test_loop_zero : see (fun t => (t.thr.pc, t.thr.loops)) (exec (.loop 6 4) start) = some (0x200014, []) := by decide +kernel

/-- R120 to R122: the worked walk of core (4,1) in cluster (2,3) of die 5. -/
theorem test_pcoord : see (fun t => t.thr.preg 2) (exec (.pcoord 2 3 4) (withS [(3, 0x53214), (4, 0x10000)])) =
    some 0x178C000000010000 := by decide +kernel
theorem test_pwalk : see (fun t => t.thr.preg 2) (exec (.pwalk 2 2 5) ((withS [(5, 0x1803)]).setP 2 0x178C000000010000)) =
    some 0x178C00600C010000 := by decide +kernel

/-- R150: the order of addition is part of the result. -/
theorem test_vredadd : see (fun t => t.thr.sreg 7) (exec (.vredadd 7 5 .rn)
    (start.setV 5 (vec [0x3F800000, 0x4B800000, 0x3F800000, 0xCB800000]))) = some 0x3F800000 := by decide +kernel
theorem test_vscan : see (fun t => lanes (t.thr.vreg 6)) (exec (.vscan 6 5 .fadd)
    (start.setV 5 (vec [0x3F800000, 0x4B800000, 0x3F800000, 0xCB800000]))) =
    some (lanes (vec [0x3F800000, 0x4B800000, 0x4B800000])) := by decide +kernel

/-- A state with a pending HFMT of a payload. -/
def hinted (n : Nat) (s : State) : State :=
  { s with thr := { s.thr with status := { s.thr.status with hpend := 2 }, pay := { s.thr.pay with hfmt := BitVec.ofNat 22 n } } }

/-- R84, R154, R155: the worked block. The payloads are those of the words 0xFC800310 and 0xFC8C0000. -/
theorem test_vqnt : see (fun t => lanes (t.thr.vreg 12)) (exec (.vqnt 12 0 3) (hinted 0x310 ((withS [(3, 0x0760)]).setV 0
    (vec [0x3F800000, 0xC0000000, 0x3F000000, 0x42200000, 0x40400000, 0xC2700000, 0, 0x3FC00000])))) =
    some (lanes (vec [0x7E4BDB53, 0x58000060, 0, 0, 0, 0, 0, 0, 0x8005C270, 0, 0, 0, 0x7B7])) := by decide +kernel
theorem test_vdqnt : see (fun t => (lanes (t.thr.vreg 14), t.thr.vreg 15)) (exec (.vdqnt 14 12 3) (hinted 0xC0000 ((withS [(3, 0x0760)]).setV 12
    (vec [0x7E4BDB53, 0x58000060, 0, 0, 0, 0, 0, 0, 0x8005C270, 0, 0, 0, 0x7B7])))) =
    some (lanes (vec [0x3F7D0000, 0xBFFD0000, 0x3EFD0000, 0x42210000, 0x40380000, 0xC2700000, 0, 0x3FB80000]), 0) := by decide +kernel

/-- R201, R202: two chunk maps composed, and a start state selected. -/
theorem test_acomp : see (fun t => (lanes (t.thr.vreg 20), lanes (t.thr.vreg 21))) (exec (.acomp 20 16 18)
    ((((start.setV 16 (vec [2, 0x10000, 0x20002])).setV 17 (vec [0x80000001, 0x80000000, 0x80000002])).setV 18
      (vec [1, 0x10001, 0x20000])).setV 19 (vec [0x80000000, 0x80000002, 0x80000001]))) =
    some (lanes (vec [0, 0x10001, 0x20000]), lanes (vec [0x80000002, 0x80000000, 0x80000003])) := by decide +kernel
theorem test_asel : see (fun t => lanes (t.thr.vreg 22)) (exec (.asel 22 20 5)
    (((withS [(5, 5)]).setV 20 (vec [0, 0x10001, 0x20000])).setV 21 (vec [0x80000002, 0x80000000, 0x80000003]))) =
    some (lanes (vec [0xFFFFFFFF, 0, 0x40000000])) := by decide +kernel

/-- R236: TRAP 5 saves the following address and enters the handler; R67: ERET at user level is PRIV. -/
theorem test_trap : see (fun t => (t.thr.epc, t.thr.eval, t.thr.pc, t.thr.status.priv)) (exec (.trap 5) user) =
    some (0x200004, 5, 0x1000, 1) := by decide +kernel
theorem test_eret_user : see (fun t => (t.thr.ecause, t.thr.epc)) (exec .eret user) =
    some (BitVec.ofNat 64 Cause.priv.code, 0x200000) := by decide +kernel

/-- R125: bytes are little-endian, and a post-increment writes the pointer register. -/
theorem test_st : see (fun t => (t.mem, t.thr.preg 6)) (exec (.st 8 6 .w (.postImm 4) .plain)
    ((withS [(8, 0xF1234567)]).setP 6 0x0000000000010000)) =
    some ([(2 ^ 40 + 0x10000, 0x67), (2 ^ 40 + 0x10001, 0x45), (2 ^ 40 + 0x10002, 0x23), (2 ^ 40 + 0x10003, 0xF1)], 0x10004) := by
  decide +kernel
theorem test_ld : see (fun t => t.thr.sreg 7) (exec (.ld 7 6 .wsx (.plain 0) .plain)
    { start.setP 6 0x10000 with mem := [(2 ^ 40 + 0x10000, 0x67), (2 ^ 40 + 0x10003, 0xF1)] }) = some 0xFFFFFFFFF1000067 := by
  decide +kernel

/-- R131: an atomic returns the old value and stores the sum. -/
theorem test_amo : see (fun t => (t.thr.sreg 7, t.mem)) (exec (.amo 7 6 8 .add .w32 .plain)
    { (withS [(8, 0xFFFFFFFF)]).setP 6 0x10000 with mem := [(2 ^ 40 + 0x10000, 1)] }) = some (1, []) := by decide +kernel

/-- R21, R46: HIMM widens the next immediate, and a hint before a word that takes none is ILLEGAL. -/
theorem test_himm : see (fun t => t.thr.sreg 1) (andThen (exec (.himm 1) start) (exec (.addi 1 0 0))) = some 0x10000 := by decide +kernel
theorem test_himm_illegal : see (fun t => t.thr.ecause) (andThen (exec (.himm 1) start) (exec (.add 1 0 0 .w64))) =
    some (BitVec.ofNat 64 Cause.illegal.code) := by decide +kernel


/-- The S-box of FIPS 197 (section 5.1.1). -/
theorem test_aes_box : aesBox 0x53 = 0xED ∧ aesBox 0 = 0x63 := by decide +kernel
/-! ## States and operands that meet the hypotheses of the statements -/

/-- Nothing keeps a word of a slot with no pending hint from its own effect. -/
theorem idle_mayRun (i : Instr) {s : State} (h1 : s.thr.status.hpend = 0) (h2 : s.thr.status.hdup = false)
    (h3 : isTransform s.thr.id = false) (h4 : s.upset = 0) (h5 : s.thr.failed = false := by rfl) : mayRun i s := by
  refine ⟨?_, fun h => absurd h (by rw [h3]; decide), ⟨h5, .inl h4⟩, .inl ?_⟩
  · unfold hintFault; rw [h1, h2]; simp
  · unfold Status.pending; rw [h1]; rfl

theorem start_mayRun (i : Instr) : mayRun i start := idle_mayRun i rfl rfl rfl rfl
theorem user_mayRun (i : Instr) : mayRun i user := idle_mayRun i rfl rfl rfl rfl
theorem start_mayRunAt (i : Instr) : mayRunAt 1 i start := ⟨start_mayRun i, by decide⟩
theorem start_hasHandler : start.hasHandler := ⟨rfl, rfl, by decide⟩
theorem user_hasHandler : user.hasHandler := ⟨rfl, rfl, by decide⟩

/-- The start with a pointer to byte 0x10000 of the own LM. -/
def atLm : State := start.setP 1 0x10000

theorem meets_AluFunctions (d a b : Reg) (w : Width) : mayRun (.add d a b w) start ∧ mayRun (.remz d a b w) start ∧
    mayRun (.clz d a w) start ∧ mayRun (.sext d a .h w) start :=
  ⟨start_mayRun _, start_mayRun _, start_mayRun _, start_mayRun _⟩

/-- The start with HIMM pending. -/
def himmStart : State := { start with thr := { start.thr with status := { start.thr.status with hpend := 1 } } }
theorem himmStart_hasHandler : himmStart.hasHandler := ⟨rfl, rfl, by decide⟩

theorem meets_AluWindowForms_words : windowForms[24]? = some (.sltz, .sltzK) ∧ windowForms[25]? = none ∧
    (0x08000019 : Word).toNat / 2 ^ 26 = 2 ∧ 25 ≤ (0x08000019 : Word).toNat % 2 ^ 6 ∧ (0x08000080 : Word).toNat / 2 ^ 26 = 2 ∧
    (0x08000080 : Word).getLsbD 7 = true ∧ himmStart.hasHandler ∧ himmStart.thr.status.pending 1 = true :=
  ⟨rfl, rfl, by decide +kernel, by decide +kernel, by decide +kernel, by decide +kernel, himmStart_hasHandler, rfl⟩
theorem meets_AluWindowForms : (Instr.add, Instr.addK) ∈ windowForms ∧ mayRun (.addK 1 2 255 .w64) start ∧
    start.badAt (windowHome start.thr.id 255) 8 = false ∧ mayRun (.add 1 2 3 .w64) start ∧ start.thr.sreg 3 = start.win 255 :=
  ⟨.head _, start_mayRun _, rfl, start_mayRun _, by decide +kernel⟩
theorem meets_ImmediateAndShiftForms : mayRun (.addi 1 2 0x8000) start ∧ (31 : Fin 64).val < widthBits .w32 ∧
    (63 : Fin 64).val < widthBits .w64 ∧ mayRun (.shi 1 2 .shra .w64 63) start := ⟨start_mayRun _, by decide, by decide, start_mayRun _⟩
theorem meets_ConditionalBranches (a b : Reg) (o : Fin 8192) : mayRun (.beq a b o) start ∧ mayRun (.bgez a b o) start :=
  ⟨start_mayRun _, start_mayRun _⟩

theorem meets_JumpsCallsAndReturns : himmStart.hasHandler ∧ himmStart.thr.status.pending 1 = true ∧
    mayRun (.jr 1) (withS [(1, 0x7FFFFFFFFFFFFC)]) ∧ ((withS [(1, 0x7FFFFFFFFFFFFC)]).thr.sreg 1).extractLsb' 55 9 = 0 ∧
    ((withS [(1, 0x7FFFFFFFFFFFFC)]).thr.sreg 1).extractLsb' 0 2 = 0 ∧ (withS [(31, 1)]).hasHandler ∧
    ((withS [(31, 1)]).thr.sreg 31).extractLsb' 0 2 ≠ 0 ∧ ((withS [(1, 0x80000000000000)]).thr.sreg 1).extractLsb' 55 9 ≠ 0 :=
  ⟨⟨rfl, rfl, by decide⟩, rfl, idle_mayRun _ rfl rfl rfl rfl, by decide +kernel, by decide +kernel, ⟨rfl, rfl, by decide⟩,
    by decide +kernel, by decide +kernel⟩

/-- The start with four active loops. -/
def looping : State := { start with thr := { start.thr with loops := List.replicate 4 { len := 1, count := 1, start := 0x100 } } }

theorem meets_LoopWords_loop (len : Fin 8192) : start.thr.loops.length < 4 ∧ mayRun (.loop 1 len) start ∧ start.thr.sreg 1 = 0 ∧
    ((withS [(1, 0x1000000000000)]).thr.sreg 1).toNat = 2 ^ 48 ∧ ((withS [(1, 0x1000000000001)]).thr.sreg 1).toNat = 2 ^ 48 + 1 ∧
    (withS [(1, 0x1000000000001)]).hasHandler ∧ looping.hasHandler ∧ 4 ≤ looping.thr.loops.length :=
  ⟨by decide, start_mayRun _, by decide +kernel, by decide +kernel, by decide +kernel, ⟨rfl, rfl, by decide⟩, ⟨rfl, rfl, by decide⟩,
    by decide⟩
theorem meets_LoopWords_loopk (len : Fin 8192) : mayRun (.loopk 255 len) { start with mem := [(2 ^ 40 + 2040, 1)] } ∧
    ({ start with mem := [(2 ^ 40 + 2040, 1)] } : State).badAt (windowHome start.thr.id 255) 8 = false ∧
    start.win 255 = 0 ∧ ({ start with mem := [(2 ^ 40 + 2040, 1)] } : State).win 255 = 1 :=
  ⟨idle_mayRun _ rfl rfl rfl rfl, rfl, by decide +kernel, by decide +kernel⟩
theorem meets_LoopWords_saves : mayRun .lrst start ∧ loadLoops start.thr.ws.loopSave = some [] ∧
    (∀ e ∈ looping.thr.loops, e.len ≠ 0 ∧ e.start.extractLsb' 0 2 = 0) ∧ looping.thr.loops.length ≤ 4 :=
  ⟨start_mayRun _, by decide +kernel, by decide +kernel, by decide +kernel⟩

/-- Pointers: one into the own LM, one of no space; and amounts and walk words. -/
def pointed : State := ((withS [(2, 1), (3, 0x53214), (4, 0x1FFFF), (5, 0x3FFF), (6, 0x4000)]).setP 1 0x10000).setP 3 0xE000000000000000

/-- The pointer of PWALK with a walk word. -/
def walked (x : DWord) (b : DWord) : DWord := (x.extractLsb' 40 24 ++ b.setWidth 14 ++ x.setWidth 26 : BitVec 64)

theorem meets_PointerWords : mayRun (.padd 1 1 2) pointed ∧ ptrValid (pointed.thr.preg 1) = true ∧ pointed.hasHandler ∧
    ptrValid (pointed.thr.preg 3) = false ∧ (pointed.thr.preg 1).extractLsb' 61 3 = 0 ∧ (pointed.thr.sreg 5).toNat = 2 ^ 14 - 1 ∧
    ptrValid (walked (pointed.thr.preg 1) (pointed.thr.sreg 0)) = true ∧ ptrValid (walked (pointed.thr.preg 1) (pointed.thr.sreg 5)) = false ∧
    (pointed.thr.sreg 6).toNat = 2 ^ 14 ∧ coordOk (pointed.thr.sreg 3).toNat = true ∧ (pointed.thr.sreg 4).toNat = 2 ^ 17 - 1 :=
  ⟨idle_mayRun _ rfl rfl rfl rfl, by decide +kernel, ⟨rfl, rfl, by decide⟩, by decide +kernel, by decide +kernel,
    by decide +kernel, by decide +kernel, by decide +kernel, by decide +kernel, by decide +kernel, by decide +kernel⟩

theorem meets_VectorFloatLanes (d a b : Reg) (r : Round) : mayRun (.vfma d a b r) start ∧ mayRun (.vlog2 d a r) start :=
  ⟨start_mayRun _, start_mayRun _⟩
theorem meets_FloatResultsAreCanonical : (0xFFFFFFFF : Nat) < 2 ^ 32 ∧ isNanS (addS .rn 0x7F800000 0xFF800000) = true ∧
    (0x7F7FFFFF : Nat) < 0x7F800000 := by decide +kernel
theorem meets_VectorCompareAndSelect (d a b : Reg) (c : VCmp) : mayRun (.vcmp d a b c) start ∧ mayRun (.vsel d a b) start ∧
    [VCmp.feq, .fne, .flt, .fle, .ieq, .ine, .ilts, .iltz][7]? = some .iltz ∧ (0x6C000001 : Word).toNat / 2 ^ 26 = 0x1B ∧
    (0x6C000001 : Word).toNat % 2 ^ 5 ≠ 0 :=
  ⟨start_mayRun _, start_mayRun _, rfl, by decide +kernel, by decide +kernel⟩
theorem meets_VectorIntegerElements (d a b : Reg) (e : Elem) : mayRun (.viadd d a b true e) start ∧ mayRun (.vxor d a b) start :=
  ⟨start_mayRun _, start_mayRun _⟩
theorem meets_VectorLaneMoves (d a : Reg) (k : ScanKind) : mayRun (.vscan d a k) start ∧ mayRun (.vins d a 15) start :=
  ⟨start_mayRun _, start_mayRun _⟩
theorem meets_VectorReductions (d a : Reg) : mayRun (.vredadd d a .rn) start ∧ mayRun (.vffs d a) start ∧ start.thr.vreg 0 = 0 ∧
    (start.setV 1 1).thr.vreg 1 ≠ 0 ∧ ((start.setV 1 1).thr.vreg 1).getLsbD 0 = true :=
  ⟨start_mayRun _, start_mayRun _, by decide +kernel, by decide +kernel, by decide +kernel⟩
theorem meets_VectorConversions : mayRun (.vcvt 1 2 .rn) start ∧ vcvtBad .rn start = false ∧ mayRun (.vqnt 12 0 3) (withS [(3, 0x1FFF)]) ∧
    vqntBad (withS [(3, 0x1FFF)]) = false ∧ ((withS [(3, 0x1FFF)]).thr.sreg 3).extractLsb' 13 51 = 0 ∧
    ((withS [(3, 0x2000)]).thr.sreg 3).extractLsb' 13 51 ≠ 0 ∧ (withS [(3, 0x2000)]).hasHandler ∧
    mayRun (.vdqnt 14 12 3) (withS [(3, 0x1FFF)]) ∧ vdqntBad (withS [(3, 0x1FFF)]) = false :=
  ⟨start_mayRun _, by decide +kernel, idle_mayRun _ rfl rfl rfl rfl, by decide +kernel, by decide +kernel, by decide +kernel,
    ⟨rfl, rfl, by decide⟩, idle_mayRun _ rfl rfl rfl rfl, by decide +kernel⟩

theorem atLm_mayRun (i : Instr) : mayRun i atLm := idle_mayRun i rfl rfl rfl rfl
theorem atLm_hasHandler : atLm.hasHandler := ⟨rfl, rfl, by decide⟩

/-- An access of n bytes at byte 0x10000 of the own LM. -/
def lane0 (n : Nat) : LaneReq := { home := .lm 0 0x10000, ea := 0x10000, n := n, leaf := none }

theorem own_load : ownAccess atLm 0x10000 4 true false ∧ ownAccess atLm 0x10000 64 true false := by
  unfold ownAccess; decide +kernel
theorem own_store : ownAccess atLm 0x10000 4 false true ∧ ownAccess atLm 0x10000 64 false true := by
  unfold ownAccess; decide +kernel
theorem own_atomic : ownAccess atLm 0x10000 8 true true ∧ ownAccess atLm 0x10000 4 true true ∧ ownAccess atLm 0x10000 2 true true := by
  unfold ownAccess; decide +kernel

theorem meets_LoadsFromOwnMemory : (effective atLm.thr 1 (.plain 0)).1 = 0x10000 ∧ mayRun (.ld 7 1 .wsx (.plain 0) .plain) atLm ∧
    ownAccess atLm 0x10000 (ldBytes .wsx) true false ∧ atLm.badAt (ownHome atLm 0x10000) 4 = false ∧
    ownAccess atLm 0x10000 64 true false ∧ atLm.badAt (ownHome atLm 0x10000) 64 = false ∧
    atLm.memOk ∧ ptrSpace 0x10000 ≠ 2 ∧ ∃ t, exec (.ld 7 1 .wsx (.plain 0) .plain) atLm = .next t :=
  ⟨by decide +kernel, atLm_mayRun _, own_load.1, rfl, own_load.2, rfl, rfl, by decide +kernel, ⟨_, rfl⟩⟩

theorem meets_LoadsAndAtomicsAtHand_quiet : hostsQuiet (some .sy) atLm ∧ atLm.revivalOf (lane0 4) = none := ⟨fun _ => rfl, rfl⟩
theorem meets_LoadsAndAtomicsAtHand (d : Reg) : yields (accessThen 0x10000 4 .load atLm) (lane0 4) atLm ∧
    passes (releaseIf (ordReleases .plain) .dv atLm) atLm ∧
    (∃ bs t, atHandAll (.load d 4 true) false [lane0 4] atLm bs t) ∧
    yields (accessThen 0x10000 64 .load atLm) (lane0 64) atLm ∧
    (∃ bs t, atHandAll (.vector d) false [lane0 64] atLm bs t) ∧
    yields (accessThen 0x10000 4 .atomic atLm) (lane0 4) atLm ∧
    (∃ bs t, atHandAll (.atomic d (.amo .add .w32 1)) false [lane0 4] (atLm.sbSend 0 fun _ => false) bs t) ∧
    (∃ bs t, atHandAll (.atomic d (.cas .w32 0 1)) false [lane0 4] (atLm.sbSend 0 fun _ => false) bs t) ∧
    (∃ bs t, atHandAll (.atomic d (.fadd .f32 1)) false [lane0 4] (atLm.sbSend 0 fun _ => false) bs t) :=
  ⟨fun _ => rfl, fun _ => rfl, ⟨_, _, _, _, _, rfl, rfl, rfl, rfl⟩, fun _ => rfl, ⟨_, _, _, _, _, rfl, rfl, rfl, rfl⟩, fun _ => rfl,
    ⟨_, _, _, _, _, rfl, rfl, rfl, rfl⟩, ⟨_, _, _, _, _, rfl, rfl, rfl, rfl⟩, ⟨_, _, _, _, _, rfl, rfl, rfl, rfl⟩⟩

/-- A store-buffer entry of slot 0 for a line. -/
def sbLine (line : Home) (sent : Bool) : SbEntry :=
  { line := line, share := .own, mask := 1, data := 7, born := 0, sent := sent, order := sent.toNat, ring := false,
    writers := [0], world := 0, target := 0, va := 0, waiting := false, asids := [] }

/-- The start with a store of slot 0 to line 0 of module HBM in its core's buffer. -/
def storing : State := start.setSb 0 [sbLine (.hbm 0) false]

/-- The start with its core's buffer full of entries that wait for a Vexey port. -/
def crowded : State := start.setSb 0 ((List.range 8).map fun i => { sbLine (.peer 1 (64 * i)) true with waiting := true })

theorem meets_StoresToOwnMemory : atLm.memOk ∧ atLm.thr.progress = 0 ∧ mayRun (.st 7 1 .w (.postImm 4) .plain) atLm ∧
    (effective atLm.thr 1 (.postImm 4)).1 = 0x10000 ∧ ownAccess atLm 0x10000 (stBytes .w) false true ∧ ownAccess atLm 0x10000 64 false true :=
  ⟨rfl, rfl, atLm_mayRun _, by decide +kernel, own_store.1, own_store.2⟩

theorem plain_settled (l : List Home) (t : State) : storeSettled l .plain t :=
  ⟨(fun h => nomatch (show none = some Scope.sy from h)), rfl⟩
theorem own_storeThen (l : List Byte) : passes (storeThen (lane0 64) l false atLm) (atLm.perform (.lm 0 0x10000) l) := fun _ => rfl

/-- The 16 lane accesses of a scatter whose offsets are all zero. -/
def lanes0 : List LaneReq := List.replicate 16 (lane0 4)

/-- The states that stores to the own LM lead to. -/
def storedIn (m : Memory) (b : List Nat) (c : List (BankId × Nat)) : State := { atLm with mem := m, bad := b, touched := c }

theorem sixteen_lanes : yields (lanesThen 4 .store (laneAddrs atLm.thr 1 2 0) atLm []) lanes0 atLm := fun _ => rfl

theorem stored_ok (m : Memory) (b : List Nat) (c : List (BankId × Nat)) :
    (storedIn m b c).homeCheck (some (storedIn m b c).thr.id.core) (lane0 4).home (lane0 4).n true false = .ok := by
  show atLm.homeCheck (some 0) (.lm 0 0x10000) 4 true false = .ok
  rfl

theorem stored_free (m : Memory) (b : List Nat) (c : List (BankId × Nat)) : (storedIn m b c).laneRefused (lane0 4) = none := by
  unfold State.laneRefused
  rw [stored_ok]

theorem stored_room (m : Memory) (b : List Nat) (c : List (BankId × Nat)) :
    (storedIn m b c).makeRoom (lane0 4).home.line = storedIn m b c := by
  unfold State.makeRoom
  exact if_pos rfl

theorem scat_one (m : Memory) (b : List Nat) (c : List (BankId × Nat)) (l : List Byte) :
    ∃ m' b' c', passes (storeThen (lane0 4) l false (storedIn m b c)) (storedIn m' b' c') := by
  have h : ∀ body, storeThen (lane0 4) l false (storedIn m b c) body = body ((storedIn m b c).perform (.lm 0 0x10000) l) := by
    intro body
    unfold storeThen
    dsimp only
    rw [stored_ok]
    rfl
  exact ⟨_, _, _, h⟩

theorem scat_all (l : List (List Byte)) : ∀ (m : Memory) (b : List Nat) (c : List (BankId × Nat)),
    ∃ m' b' c', passes (scatLanes false (l.map fun d => (lane0 4, d)) (storedIn m b c)) (storedIn m' b' c') := by
  induction l with
  | nil => intro m b c; exact ⟨m, b, c, fun _ => rfl⟩
  | cons d l ih =>
    intro m b c
    obtain ⟨m1, b1, c1, h1⟩ := scat_one m b c d
    obtain ⟨m2, b2, c2, h2⟩ := ih m1 b1 c1
    refine ⟨m2, b2, c2, fun body => ?_⟩
    rw [List.map_cons, scatLanes, stored_free, if_neg (by decide), stored_room]
    exact (h1 _).trans (h2 body)

theorem meets_StoresAndScattersComplete : yields (accessThen 0x10000 4 .store atLm) (lane0 4) atLm ∧ atLm.thr.progress = 0 ∧
    passes (releaseIf (ordReleases .plain) .dv atLm) atLm ∧
    (∃ t, passes (storeThen (lane0 4) (toBytes 4 5) false atLm) t ∧ storeSettled [(lane0 4).home.line] .plain t) ∧
    (∃ t, yields (accessThen 0x10000 64 .store atLm) (lane0 64) atLm ∧ passes (storeThen (lane0 64) (toBytes 64 5) false atLm) t ∧
      storeSettled [(lane0 64).home.line] .plain t) ∧
    yields (lanesThen 4 .store (laneAddrs atLm.thr 1 2 0) atLm []) lanes0 atLm ∧
    (∃ t, passes (scatLanes false (lanes0.zip ((lanes (atLm.thr.vreg 2)).map fun y => toBytes 4 y.toNat)) atLm) t ∧
      (∀ q ∈ lanes0, t.laneRefused q = none) ∧ storeSettled (lanes0.map (·.home.line)) .plain t) := by
  refine ⟨fun _ => rfl, rfl, fun _ => rfl, ⟨_, fun _ => rfl, plain_settled _ _⟩, ⟨_, fun _ => rfl, own_storeThen _, plain_settled _ _⟩,
    sixteen_lanes, ?_⟩
  obtain ⟨m, b, c, h⟩ := scat_all ((lanes (atLm.thr.vreg 2)).map fun y => toBytes 4 y.toNat) [] [] []
  refine ⟨storedIn m b c, ?_, fun q hq => (by rw [List.eq_of_mem_replicate hq]; exact stored_free m b c), plain_settled _ _⟩
  have e : lanes0.zip ((lanes (atLm.thr.vreg 2)).map fun y => toBytes 4 y.toNat) =
      ((lanes (atLm.thr.vreg 2)).map fun y => toBytes 4 y.toNat).map fun d => (lane0 4, d) := by
    unfold lanes lanes0
    rw [List.map_map, List.map_map]
    rfl
  rw [e]
  exact h

/-- Accesses to another core's LM and to module HBM. -/
def farLane : LaneReq := { home := .lm 1 0, ea := 0, n := 4, leaf := none }
def hbmLane : LaneReq := { home := .hbm 0, ea := 0, n := 4, leaf := none }
def hbmLane9 : LaneReq := { home := .hbm 576, ea := 0, n := 4, leaf := none }

theorem meets_StoresGoWhereTheirHomeIs : start.homeCheck (some 0) (lane0 4).home 4 true false = .ok ∧
    start.homeCheck (some 0) farLane.home 4 true false = .ok ∧ farLane.home.isGlobal = false ∧
    start.homeCheck (some 0) hbmLane.home 4 true false = .ok ∧ hbmLane.home.isGlobal = true ∧
    (∃ t, (start.markWrite hbmLane).sbStore 0 (start.sbEntry hbmLane [1, 2, 3, 4] false) = some t) ∧
    crowded.homeCheck (some 0) hbmLane9.home 4 true false = .ok ∧
    (crowded.markWrite hbmLane9).sbStore 0 (crowded.sbEntry hbmLane9 [1, 2, 3, 4] false) = none :=
  ⟨rfl, rfl, rfl, rfl, rfl, ⟨_, rfl⟩, rfl, rfl⟩

/-- The start with a misaligned pointer and one of no space. -/
def badPtrs : State := (start.setP 1 0x10001).setP 2 0xE000000000000000

theorem meets_AccessChecksTrap : badPtrs.hasHandler ∧ mayRun (.ld 7 2 .wsx (.plain 0) .plain) badPtrs ∧
    ptrValid (effective badPtrs.thr 2 (.plain 0)).1 = false ∧ ptrValid (badPtrs.thr.preg 2) = false ∧
    ptrValid (effective badPtrs.thr 1 (.plain 0)).1 = true ∧ ptrAligned (effective badPtrs.thr 1 (.plain 0)).1 2 = false ∧
    ptrAligned (effective badPtrs.thr 1 (.plain 0)).1 64 = false ∧ ptrAligned (badPtrs.thr.preg 1) 4 = false :=
  ⟨⟨rfl, rfl, by decide⟩, idle_mayRun _ rfl rfl rfl rfl, by decide +kernel, by decide +kernel, by decide +kernel, by decide +kernel,
    by decide +kernel, by decide +kernel⟩

theorem meets_AtomicsInOwnMemory : atLm.memOk ∧ atLm.sbOf atLm.thr.id.core = [] ∧ atLm.thr.preg 1 = 0x10000 ∧
    ownAccess atLm 0x10000 (widthBits .w64 / 8) true true ∧ atLm.badAt (ownHome atLm 0x10000) 8 = false ∧
    ownAccess atLm 0x10000 4 true true ∧ atLm.badAt (ownHome atLm 0x10000) 4 = false ∧
    ownAccess atLm 0x10000 2 true true ∧ atLm.badAt (ownHome atLm 0x10000) 2 = false ∧ mayRun (.amo 7 1 8 .swp .w64 .plain) atLm :=
  ⟨rfl, rfl, by decide +kernel, own_atomic.1, rfl, own_atomic.2.1, rfl, own_atomic.2.2, rfl, atLm_mayRun _⟩

/-- The start two windows after its last Vexey write. -/
def afterWrite : State := { start with thr := { start.thr with lastWindow := some 0 }, time := 8192 }

/-- The start with the frame of a device's write begun at port 0 and not yet ended. -/
def hostWriting : State := { start with fabric := { start.fabric with begun := [(2, 0)] } }

theorem meets_FencesOrderAndComplete : mayRun (.fenceAcq .dv) start ∧ passes (releaseThen .dv start) start ∧
    (∀ e ∈ start.sbOf 0, e.line.isGlobal = true → e.writers.contains start.thr.id.slot = false) ∧
    afterWrite.thr.lastWindow = some 0 ∧ 2 ≤ afterWrite.windowNow ∧ passes (releaseThen .sy afterWrite) afterWrite ∧
    (start.sbOf 0).any (covered start.thr .cl) = false ∧ (storing.sbOf 0).any (covered storing.thr .cl) = true ∧
    mayRun (.fenceRel .cl) storing ∧ hostsQuiet (some .sy) start ∧ mayRun (.fenceAcq .sy) hostWriting ∧ hostWriting.hostsPending = true ∧
    afterWrite.hostsPending = false :=
  ⟨start_mayRun _, fun _ => rfl, (by intro e he; have : start.sbOf 0 = [] := rfl; rw [this] at he; exact absurd he (List.not_mem_nil)), rfl, by decide +kernel, fun _ => rfl, by decide +kernel,
    by decide +kernel, idle_mayRun _ rfl rfl rfl rfl, fun _ => rfl, idle_mayRun _ rfl rfl rfl rfl, rfl, rfl⟩

/-- A page of another package that is discarded: bit 9 of its leaf, at 0x300000, is set. -/
def discLane : LaneReq := { home := .peer 5 0x10000, ea := 0, n := 4, leaf := some { level := 0, vpn := 1, word := 0x200, addr := 0x300000 } }
def discarding : State := { start with mem := [(0x300001, 2)] }
theorem meets_StoresGoWhereTheirHomeIs_revival : start.revivalOf hbmLane = none ∧ (∃ t, discarding.revivalOf discLane = some t) ∧
    atLm.revivalOf (lane0 8) = none :=
  ⟨rfl, Option.isSome_iff_exists.mp (by decide +kernel), rfl⟩
/-- A descriptor of a ring of two slots at byte 0x10000 of the own LM: role 1 consumes, role 2 produces. -/
def ringWord (role : Nat) : QWord := BitVec.ofNat 128 (0x10000 * 2 ^ 64 + 2 ^ 63 + role * 2 ^ 61 + 2 ^ 56)

/-- The start with a consumer and a producer descriptor, and a consumer descriptor in memory at 0x12000. -/
def ringed : State :=
  { ((start.setP 1 0x12000).setQ 1 (ringWord 1)).setQ 2 (ringWord 2) with mem := [(2 ^ 40 + 0x12007, 0xA1), (2 ^ 40 + 0x1200A, 1)] }

theorem ringed_mayRun (i : Instr) : mayRun i ringed := idle_mayRun i rfl rfl rfl rfl

theorem meets_RingWords_checks : ringed.qOk (ringed.thr.qreg 1) = true ∧ qRole (ringed.thr.qreg 1) = 1 ∧ qCap (ringed.thr.qreg 1) = 2 ∧
    ringed.qOk (ringed.thr.qreg 2) = true ∧ qRole (ringed.thr.qreg 2) = 2 ∧ qCap (ringed.thr.qreg 2) = 2 ∧
    ringed.qOk (ringed.thr.qreg 3) = false ∧ ringed.hasHandler ∧ mayRun (.qwait 3 1) ringed ∧ mayRun (.qpush 1 1) ringed ∧
    isTransform ringed.thr.id = false :=
  ⟨by decide +kernel, by decide +kernel, by decide +kernel, by decide +kernel, by decide +kernel, by decide +kernel,
    by decide +kernel, ⟨rfl, rfl, by decide⟩, ringed_mayRun _, ringed_mayRun _, rfl⟩

theorem meets_RingWords_bind : ∃ l u, yields (readThen (ringed.thr.preg 1) 16 ringed) l u ∧ u.qOk (BitVec.ofNat 128 (ofBytes l)) = true :=
  ⟨_, _, fun _ => rfl, by decide +kernel⟩
theorem meets_RingWords_waits : (∃ r u, yields (controlThen (ringed.thr.qreg 1) .load ringed) r u) ∧
    ∃ r u, yields (controlThen (ringed.thr.qreg 2) .load ringed) r u := ⟨⟨_, _, fun _ => rfl⟩, ⟨_, _, fun _ => rfl⟩⟩
theorem meets_RingWords_counts : passes (releaseThen .dv ringed) ringed ∧ (∃ v, passes (countThen (ringed.thr.qreg 2) 0 2 ringed) v) ∧
    ∃ v, passes (countThen (ringed.thr.qreg 1) 4 2 ringed) v := ⟨fun _ => rfl, ⟨_, fun _ => rfl⟩, ⟨_, fun _ => rfl⟩⟩
theorem meets_RingWords_slots : ∃ r u l v, yields (accessThen (adv (qBase (ringed.thr.qreg 1)) 128) 64 .load ringed) r u ∧
    u.homeCheck (some u.thr.id.core) r.home 64 false false = .ok ∧ u.atHand r false = some l ∧
    yields (accessThen (adv (qBase (ringed.thr.qreg 2)) 128) 64 .store ringed) r u ∧
    passes (storeThen r (toBytes 64 (u.thr.vreg 1).toNat) false u) v :=
  ⟨{ home := .lm 0 0x10080, ea := 0x10080, n := 64, leaf := none }, ringed, _, _, fun _ => rfl, rfl, rfl, fun _ => rfl, fun _ => rfl⟩
/-- The same with descriptors of a ring in the LM of core 1. -/
def farWord (role : Nat) : QWord := BitVec.ofNat 128 (0x1000000010000 * 2 ^ 64 + 2 ^ 63 + role * 2 ^ 61 + 2 ^ 56)
def farRing : State := (ringed.setQ 1 (farWord 1)).setQ 2 (farWord 2)
def farSlot : LaneReq := { home := .lm 1 0x10080, ea := 0x1000000010080, n := 64, leaf := none }
theorem farRing_mayRun (i : Instr) : mayRun i farRing := idle_mayRun i rfl rfl rfl rfl

theorem meets_RingWords_badBind : ∃ l u, yields (readThen 0x12040 16 (ringed.setP 1 0x12040)) l u ∧ u.hasHandler ∧
    u.qOk (BitVec.ofNat 128 (ofBytes l)) = false := ⟨_, _, fun _ => rfl, ⟨rfl, rfl, by decide⟩, by decide +kernel⟩
theorem meets_RingWords_far : farRing.qOk (farRing.thr.qreg 1) = true ∧ qRole (farRing.thr.qreg 1) = 1 ∧
    mayRun (.qldv 3 1 1) farRing ∧ yields (accessThen (adv (qBase (farRing.thr.qreg 1)) 128) 64 .load farRing) farSlot farRing ∧
    farRing.homeCheck (some farRing.thr.id.core) farSlot.home 64 false false = .ok ∧ farRing.atHand farSlot false = none ∧
    farRing.badAt farSlot.home 64 = false :=
  ⟨by decide +kernel, by decide +kernel, farRing_mayRun _, fun _ => rfl, rfl, by decide +kernel, rfl⟩
theorem meets_RingWords_limits : mayRun (.qrsv 1 1) ringed ∧ qRole (ringed.thr.qreg 1) ≠ 2 ∧ mayRun (.qpop 1 3) ringed ∧
    qCap (ringed.thr.qreg 1) < (3 : Fin 256).val ∧ mayRun (.qldv 3 1 2) ringed ∧ qCap (ringed.thr.qreg 1) - 1 < (2 : Fin 256).val ∧
    mayRun (.qstv 3 2 2) ringed ∧ qCap (ringed.thr.qreg 2) - 1 < (2 : Fin 256).val ∧ ringed.qOk (ringed.thr.qreg 0) = false :=
  ⟨ringed_mayRun _, by decide +kernel, ringed_mayRun _, by decide +kernel, ringed_mayRun _, by decide +kernel, ringed_mayRun _,
    by decide +kernel, by decide +kernel⟩
theorem meets_RingWords_homes : (∃ r u, yields (controlThen (ringed.thr.qreg 2) .store ringed) r u ∧ r.home = .lm u.thr.id.core 0x10000) ∧
    ∃ r u, yields (controlThen (farRing.thr.qreg 2) .store farRing) r u ∧ (∀ o, r.home ≠ .lm u.thr.id.core o) ∧
      (∀ x o, r.home ≠ .xlm x o) :=
  ⟨⟨_, _, fun _ => rfl, rfl⟩, ⟨_, _, fun _ => rfl, (by intro o h; exact absurd (Home.lm.inj h).1 (by decide)), (by intro x o h; exact Home.noConfusion h)⟩⟩
/-- Window words of slot 0 in core 0: word k at byte 8 k of its LM. -/
def winMem (l : List (Nat × Nat)) : Memory := l.foldl (fun m x => m.write (2 ^ 40 + 8 * x.1) (toBytes 8 x.2)) []

/-- A state of the worked product (K 3, N 1, M 1), scaled in words 24 to 27, with an image header at the start of a
scratch bank; slot 0 owns tile 0. -/
def tiled : State :=
  { ((start.setP 1 0x10000).setP 2 0x10008).setP 3 0x2000000000000000 with
    mem := (winMem [(16, 0x30101), (17, 0x800000008), (21, 0x20000), (22, 0x4020000000000000), (23, 0x10000), (24, 0x100030101),
      (25, 0x800000008), (28, 0x7FC0000000000000), (29, 2), (30, 2 ^ 55), (31, 511), (32, 2 ^ 64 - 512)]).write
        (2 ^ 41) (toBytes 16 (0xACC1 * 2 ^ 48 + 2 * 2 ^ 32))
    banks := [((0, 0), { Bank.reset with mode := 1 })]
    tiles := [((0, 0, 0), { Tile.zero with owner := some ⟨0, 0⟩, elems := [(1, { TileElem.zero with nan := true })] }),
      ((0, 0, 2), { Tile.zero with owner := some ⟨0, 1⟩ })] }

theorem tiled_mayRun (i : Instr) : mayRun i tiled := idle_mayRun i rfl rfl rfl rfl
theorem tiled_hasHandler : tiled.hasHandler := ⟨rfl, rfl, by decide⟩
theorem tiled_owns : ownsTile tiled 0 0 := rfl
theorem tiled_free : engineFree tiled 0 := rfl
/-- The same with tile 1, which nobody holds, claimed by slot 0's instruction in flight. -/
def claimer : State := tiled.claimed (.tile 0 1)
theorem tiled_claims : ownsOrClaims tiled 0 1 claimer := .inr ⟨⟨rfl, by decide +kernel⟩, rfl⟩
/-- The same with slot 1's instruction in flight claiming it. -/
def contested : State := { tiled with others := [{ tiled.thr with id := ⟨0, 1⟩, claims := [.tile 0 1] }] }

/-- The geometry words from k on, and the state in which the word has read them. -/
def geoWords (k n : Nat) : List DWord := (List.range n).map (fun i => tiled.win (k + i))
def withGeo (k n : Nat) : State := { tiled with thr := { tiled.thr with geo := geoWords k n } }
theorem tiled_reads (k n : Nat) (h : k + n ≤ 256) (h0 : 0 ≠ n) (hb : tiled.badAt (windowHome tiled.thr.id k) (8 * n) = false) :
    geoRead tiled k n (geoWords k n) (withGeo k n) := ⟨h, .inr ⟨h0, hb, rfl, rfl⟩⟩
/-- Words that have been read are not read again. -/
theorem meets_geoRead_again : geoRead (withGeo 16 2) 16 2 (geoWords 16 2) (withGeo 16 2) := ⟨by decide, .inl ⟨rfl, rfl, rfl⟩⟩

theorem meets_TileWordsAreSent_claims : ownsOrClaims tiled 0 0 tiled ∧ ownsOrClaims tiled 0 1 claimer ∧
    engineFree claimer 0 ∧ windowOk claimer 31 1 ∧ (claimer.win 31).toInt = 511 ∧
    windowOk claimer 32 1 ∧ (claimer.win 32).toInt = -512 ∧
    (claimer.tile 0 0 1).av = false ∧ mayRun (.manchor 1 31 0) tiled :=
  ⟨.inl ⟨rfl, rfl⟩, tiled_claims, rfl, ⟨by decide, rfl⟩, by decide +kernel, ⟨by decide, rfl⟩, by decide +kernel, rfl, tiled_mayRun _⟩

/-- What a product of tile 0 sends. -/
def product (scaled : Bool) (k : Nat) : TileJob :=
  { tiled.newJob (if scaled then .mmas 0 1 2 24 0 else .mma 0 1 2 16 0) 0 (if scaled then .mmas else .mma) with
    pa := tiled.thr.preg 1, pb := tiled.thr.preg 2, win := geoWords k (if scaled then 4 else 2),
    fmtA := fmtOr (fmtA tiled.thr.hfmt) 6, fmtB := fmtOr (fmtB tiled.thr.hfmt) 6,
    scale := if scaled then (if fmtScaleMode tiled.thr.hfmt = 0 then 3 else fmtScaleMode tiled.thr.hfmt) else 0,
    side := scaled && fmtSideBit tiled.thr.hfmt }

theorem meets_TileWordsAreSent_mma : mmaBad false tiled = false ∧ ownsTile tiled 0 0 ∧ geoRead tiled 16 2 (geoWords 16 2) (withGeo 16 2) ∧
    productGeoOk false ((geoWords 16 2).getD 0 0) = true ∧
    strideOk (geoM ((geoWords 16 2).getD 0 0)) (geoA ((geoWords 16 2).getD 1 0)) (product false 16).opA.rowBytes 8 = true ∧
    strideOk (geoN ((geoWords 16 2).getD 0 0)) (geoB ((geoWords 16 2).getD 1 0)) (product false 16).opB.rowBytes 8 = true ∧
    passes (declaredThen .engRead ((product false 16).opA.ranges ++ (product false 16).opB.ranges) (withGeo 16 2)) (withGeo 16 2) ∧
    engineFree (withGeo 16 2) 0 ∧ localStored (withGeo 16 2) := by
  refine ⟨by decide +kernel, rfl, tiled_reads 16 2 (by decide) (by decide) rfl, by decide +kernel, by decide +kernel, by decide +kernel, ?_, rfl, rfl⟩
  rw [show (product false 16).opA.ranges ++ (product false 16).opB.ranges = [(0x10000, 3, 8), (0x10008, 3, 8)] by decide +kernel]
  exact fun _ => rfl

theorem meets_TileWordsAreSent_mmas : mmaBad true tiled = false ∧ ownsTile tiled 0 0 ∧ geoRead tiled 24 4 (geoWords 24 4) (withGeo 24 4) ∧
    productGeoOk true ((geoWords 24 4).getD 0 0) = true ∧
    strideOk (geoM ((geoWords 24 4).getD 0 0)) (geoA ((geoWords 24 4).getD 1 0)) (product true 24).opA.rowBytes 8 = true ∧
    strideOk (geoN ((geoWords 24 4).getD 0 0)) (geoB ((geoWords 24 4).getD 1 0)) (product true 24).opB.rowBytes 8 = true ∧
    passes (declaredThen .engRead ((product true 24).opA.ranges ++ (product true 24).opB.ranges) (withGeo 24 4)) (withGeo 24 4) ∧
    engineFree (withGeo 24 4) 0 ∧ localStored (withGeo 24 4) := by
  refine ⟨by decide +kernel, rfl, tiled_reads 24 4 (by decide) (by decide) rfl, by decide +kernel, by decide +kernel, by decide +kernel, ?_, rfl, rfl⟩
  rw [show (product true 24).opA.ranges ++ (product true 24).opB.ranges = [(0x10000, 3, 8), (0x10000, 2, 2), (0x10008, 3, 8), (0x10008, 2, 2)] by decide +kernel]
  exact fun _ => rfl

theorem meets_TileWordsAreSent_results : mresBad tiled = false ∧ ownsTile tiled 0 0 ∧ geoOk ((geoWords 16 2).getD 0 0) = true ∧
    strideOk (geoM ((geoWords 16 2).getD 0 0)) 8 4 4 = true ∧
    (∃ v, passes (declaredThen .engWrite [(adv (tiled.thr.preg 1) 0, 4, 4)] (withGeo 16 2)) v ∧
      engineFree v 0) ∧ engineFree tiled 0 ∧
    (∃ v, passes (imageThen (tiled.thr.preg 3) (imageBytes (tiled.tile 0 0 0).canon) .engWrite tiled) v) ∧ mayRun (.msave 0 3 0) tiled :=
  ⟨by decide +kernel, rfl, by decide +kernel, by decide +kernel, ⟨_, fun _ => rfl, rfl⟩, tiled_free, ⟨_, fun _ => rfl⟩,
    tiled_mayRun _⟩

/-- The same with an instruction in the engine's round. -/
def multiplying : State := tiled.setJobs 0 0 [tiled.newJob (.mzero 0 0) 0 .mzero]

theorem meets_TileWordsAreSent_waits : mayRun (.msave 0 3 0) multiplying ∧ ownsTile multiplying 0 0 ∧ ¬ engineFree multiplying 0 ∧
    ∃ v, passes (imageThen (multiplying.thr.preg 3) (imageBytes true) .engWrite multiplying) v :=
  ⟨idle_mayRun _ rfl rfl rfl rfl, rfl,
    (fun h => nomatch (show some (tiled.newJob (.mzero 0 0) 0 .mzero) = none from h)), ⟨_, fun _ => rfl⟩⟩
theorem meets_TileWordsAreSent_ownClaim : tiled.thr.claims = [] ∧ claimer.thr.claims = [.tile 0 1] := ⟨rfl, rfl⟩

theorem meets_TileImagesAreSent : ∃ l x, passes (imageThen (tiled.thr.preg 3) (imageBytes true) .engRead tiled) tiled ∧
    tiled.engineRead (tiled.engineUser tiled.thr.id tiled.thr.node) (tiled.thr.preg 3) 16 = .done l x ∧
    parseHeader (ofBytes l) = some (true, false, 0) ∧ localStored tiled ∧ engineFree tiled 0 ∧ mayRun (.mload 0 3 0) tiled ∧
    mayRun (.mmerge 0 3 0) tiled ∧ ∃ y, passes (rangeThen .slot (tiled.thr.preg 3) (imageBytes true) .engRead true x) y :=
  ⟨_, _, fun _ => rfl, rfl, by decide +kernel, rfl, tiled_free, tiled_mayRun _, tiled_mayRun _, ⟨_, fun _ => rfl⟩⟩
/-- The same with the pointer of the image at bytes of zeros in the scratch bank. -/
def misplaced : State := tiled.setP 3 0x2000000000000040
theorem meets_TileImagesAreSent_malformed : ∃ l x, passes (imageThen (misplaced.thr.preg 3) (imageBytes true) .engRead misplaced) misplaced ∧
    misplaced.engineRead (misplaced.engineUser misplaced.thr.id misplaced.thr.node) (misplaced.thr.preg 3) 16 = .done l x ∧
    parseHeader (ofBytes l) = none ∧ x.hasHandler ∧ ownsTile misplaced 0 0 ∧ ownsOrClaims misplaced 0 0 misplaced ∧
    mayRun (.mmerge 0 3 0) misplaced :=
  ⟨_, _, fun _ => rfl, rfl, by decide +kernel, ⟨rfl, rfl, by decide⟩, rfl, .inl ⟨rfl, rfl⟩, idle_mayRun _ rfl rfl rfl rfl⟩
theorem meets_TileImagesAreSent_claimed : passes (imageThen (tiled.thr.preg 3) (imageBytes true) .engRead claimer) claimer := fun _ => rfl

/-- An access of an engine that is done. -/
def isDone : EngineStep → Bool
  | .done _ _ => true
  | _ => false
theorem done_of {e : EngineStep} (h : isDone e = true) : ∃ l u, e = .done l u := by
  cases e with
  | done l u => exact ⟨l, u, rfl⟩
  | _ => cases h

/-- Jobs that save and load tile 0 of engine 0: the image at the scratch bank's start. -/
def imageJob (op : TileOp) (done : Nat) : TileJob :=
  { tiled.newJob (.msave 0 3 0) 0 op with pa := 0x2000000000000000, win := [BitVec.ofNat 64 (0xACC1 * 2 ^ 48 + 2 * 2 ^ 32)], done := done }
def tileUser : EngineUser := tiled.jobUser 0 (imageJob .msave 0)

theorem meets_TileImagesAreSent_units : (-512 : Int) ≤ Tile.zero.a ∧ Tile.zero.a ≤ 511 ∧ (imageJob .msave 0).done = 0 ∧ 0 < (imageJob .msave 1).done ∧
    (∃ l u, tiled.engineWriteRange tileUser 0x2000000000000000 (imageHeader Tile.zero ++ rowRecords Tile.zero 0) = .done l u) ∧
    (∃ l u, tiled.engineWriteRange tileUser (adv 0x2000000000000000 (528 : Nat)) (rowRecords Tile.zero 1) = .done l u) ∧
    parseHeader (((imageJob .mload 0).win.getD 0 0).toNat) = some (true, false, 0) ∧
    ∃ l u, tiled.engineReadRange tileUser (adv 0x2000000000000000 (16 : Nat)) 512 = .done l u :=
  ⟨by decide, by decide, rfl, by decide, done_of (by decide +kernel), done_of (by decide +kernel), by decide +kernel, done_of (by decide +kernel)⟩

theorem meets_TileReadsAnswer_mrd : ownsTile tiled 0 0 ∧ engineFree tiled 0 ∧ windowOk tiled 255 1 ∧ (tiled.win 20).toNat = 0 ∧
    windowOk tiled 20 1 ∧ (tiled.win 23).toNat = 2 ^ 16 ∧ windowOk tiled 23 1 ∧ (tiled.win 21).toNat = 2 ^ 17 ∧ windowOk tiled 21 1 ∧
    mayRun (.mrd 0 4 21 0) tiled :=
  ⟨rfl, tiled_free, ⟨by decide, rfl⟩, by decide +kernel, ⟨by decide, rfl⟩, by decide +kernel, ⟨by decide, rfl⟩, by decide +kernel,
    ⟨by decide, rfl⟩, tiled_mayRun _⟩
theorem meets_TileReadsAnswer_mcmp : (tiled.win 22).toNat / 2 ^ 10 % 2 ^ 22 = 0 ∧ fp32.decode ((tiled.win 22).toNat / 2 ^ 32) ≠ .nan ∧
    ((tiled.tile 0 0 0).elem 0).nan = false ∧ ((tiled.tile 0 0 0).elem 1).nan = true ∧ (tiled.win 28).toNat / 2 ^ 10 % 2 ^ 22 = 0 ∧
    fp32.decode ((tiled.win 28).toNat / 2 ^ 32) = .nan := by decide +kernel
theorem meets_TileReadsAnswer_mrstl : (tiled.win 20).toNat % 4 = 0 ∧ (tiled.win 20).toNat / 2 ^ 55 = 0 ∧ (tiled.win 29).toNat % 4 ≠ 0 ∧
    (tiled.win 30).toNat / 2 ^ 55 ≠ 0 ∧ tiled.hasHandler ∧ windowOk tiled 29 1 ∧ windowOk tiled 30 1 :=
  ⟨by decide +kernel, by decide +kernel, by decide +kernel, by decide +kernel, tiled_hasHandler, ⟨by decide, rfl⟩, ⟨by decide, rfl⟩⟩

theorem meets_TileReadsAnswer_mwait : (∀ j, tiled.outstanding tiled.thr.id (0 : Fin 2) = some j → j.tile ≠ 0) ∧
    mayRun (.mwait 0 0) multiplying ∧
    ∃ j, multiplying.outstanding multiplying.thr.id (0 : Fin 2) = some j ∧ j.tile = 0 :=
  ⟨fun j h => absurd (show none = some j from h) (by simp), idle_mayRun _ rfl rfl rfl rfl, ⟨_, rfl, rfl⟩⟩

theorem meets_TileOwnershipIsChecked : tiled.hasHandler ∧ mayRun (.mresc 1 0) tiled ∧ (tiled.tile 0 0 1).owner = none ∧
    mayRun (.mzero 2 0) tiled ∧ (tiled.tile 0 0 2).owner ≠ none ∧ (tiled.tile 0 0 2).owner ≠ some tiled.thr.id ∧
    mayRun (.mma 1 1 2 16 0) tiled ∧ mmaBad false tiled = false ∧ mayRun (.mmas 1 1 2 24 0) tiled ∧ mmaBad true tiled = false ∧
    mayRun (.mres 1 1 16 0) tiled ∧ mresBad tiled = false :=
  ⟨tiled_hasHandler, tiled_mayRun _, rfl, tiled_mayRun _, by decide +kernel, by decide +kernel, tiled_mayRun _, by decide +kernel,
    tiled_mayRun _, by decide +kernel, tiled_mayRun _, by decide +kernel⟩
theorem meets_TileOwnershipIsChecked_claims : contested.hasHandler ∧ mayRun (.mload 1 3 0) contested ∧
    contested.holder 0 (.tile 0 1) = some ⟨0, 1⟩ ∧ (⟨0, 1⟩ : SlotId) ≠ contested.thr.id :=
  ⟨⟨rfl, rfl, by decide⟩, idle_mayRun _ rfl rfl rfl rfl, by decide +kernel, by decide⟩

/-- The first instruction of the round, and the agent that makes its accesses. -/
def mzeroJob : TileJob := tiled.newJob (.mzero 0 0) 0 .mzero
def mmaJob (retried : Bool) : TileJob :=
  { tiled.newJob (.mma 0 1 2 16 0) 0 .mma with
    win := geoWords 16 2, pa := 0x10000, pb := 0x10008, fmtA := 6, fmtB := 6, retried := retried }
def mismatching (retried : Bool) : State := { tiled.setJobs 0 0 [mmaJob retried] with upset := 1 }

theorem meets_EngineUnits : ∃ x u, multiplying.engineJobs 0 0 = [mzeroJob] ∧ mzeroJob.done < mzeroJob.units ∧ multiplying.upset = 0 ∧
    (∀ n, multiplying.node? mzeroJob.node = some n → multiplying.shut n = false) ∧
    tileUnit (multiplying.jobUser 0 mzeroJob) mzeroJob (multiplying.tile 0 0 mzeroJob.tile) multiplying = .ok x u ∧
    (tiled.setJobs 0 0 [{ mzeroJob with done := 1 }]).engineJobs 0 0 = [{ mzeroJob with done := 1 }] ∧
    ({ mzeroJob with done := 1 } : TileJob).units ≤ 1 ∧
    (tiled.setJobs 0 0 [{ mzeroJob with done := 1 }]).writesOut (tiled.jobUser 0 mzeroJob).who = false :=
  ⟨_, _, rfl, by decide, rfl, fun n h => absurd (show none = some n from h) (by simp), rfl, rfl, by decide, rfl⟩
/-- Another instruction of the round has let this slot's have one unit, and has none left. -/
theorem meets_EngineUnits_round : ∃ y : TileJob, y = { mzeroJob with slot := ⟨0, 1⟩, served := [⟨0, 0⟩], done := 1 } ∧
    mzeroJob.slot ∈ y.served ∧ y.units ≤ y.done := ⟨_, rfl, by decide, by decide⟩
theorem meets_EngineUnits_upset : ∃ x u y v, (mismatching false).engineJobs 0 0 = [mmaJob false] ∧ (mmaJob false).done < (mmaJob false).units ∧
    0 < (mismatching false).upset ∧ (mmaJob false).op = .mma ∧ (mismatching true).faultUnitFull 0 = false ∧
    tileUnit ((mismatching false).jobUser 0 (mmaJob false)) (mmaJob false) ((mismatching false).tile 0 0 0) (mismatching false) = .ok x u ∧
    tileUnit ((mismatching true).jobUser 0 (mmaJob true)) (mmaJob true) ((mismatching true).tile 0 0 0) (mismatching true) = .ok y v :=
  ⟨_, _, _, _, rfl, by decide +kernel, by decide, rfl, by decide, rfl, rfl⟩
theorem meets_EngineUnits_step : ∃ da db t u, (mmaJob false).done < (mmaJob false).regularSteps ∧
    gatherRanges tileUser [(adv (adv 0x10000 (0 : Nat)) (0 : Nat), 3)] [] tiled = .got da t ∧
    gatherRanges tileUser [(adv (adv 0x10008 (0 : Nat)) (0 : Nat), 3)] [] t = .got db u ∧ min (mmaJob false).opA.depth
      (stepDepth (mmaJob false).fmtA (mmaJob false).fmtB) = 3 ∧ (mmaJob false).opA.rows = 1 ∧ (mmaJob false).opB.rows = 1 :=
  ⟨_, _, _, _, by decide +kernel, rfl, rfl, by decide +kernel, by decide +kernel, by decide +kernel⟩
theorem meets_EngineUnits_results : ∃ l t, (geoWords 16 1).getD 0 0 = 0x30101 ∧ (0 : Nat) < (0x30101 : DWord).toNat % 2 ^ 6 ∧
    tiled.engineWriteRange tileUser (adv 0x10000 (0 : Nat)) (toBytes 4 (Tile.zero.resolve 0 1)) = .done l t ∧
    ∃ r v, tiled.engineReadRange tileUser (adv 0x2000000000000000 (16 : Nat)) 512 = .done r v :=
  ⟨_, _, by decide +kernel, by decide, rfl, done_of (by decide +kernel)⟩
/-- Elements of each kind that a result distinguishes. -/
theorem meets_EngineUnits_resolve : ∃ a b c d e : Tile, (a.elem 0).nan = true ∧ ((b.elem 0).infp = true ∧ (b.elem 0).infn = false ∧ (b.elem 0).nan = false) ∧
    ((c.elem 0).infn = true ∧ (c.elem 0).infp = false ∧ (c.elem 0).nan = false) ∧
    ((d.elem 0).ovf = true ∧ (d.elem 0).infp = false ∧ (d.elem 0).infn = false ∧ (d.elem 0).nan = false) ∧
    ((e.elem 0).v ≠ 0 ∧ (e.elem 0).ovf = false ∧ (e.elem 0).infp = false ∧ (e.elem 0).infn = false ∧ (e.elem 0).nan = false ∧ e.av = true) ∧
    ((Tile.zero.elem 0).v = 0 ∧ (Tile.zero.elem 0).ovf = false) :=
  let el := fun (f : TileElem) => { Tile.zero with av := true, elems := [(0, f)] }
  ⟨el { TileElem.zero with nan := true }, el { TileElem.zero with infp := true }, el { TileElem.zero with infn := true },
    el { TileElem.zero with ovf := true }, el { TileElem.zero with v := 1 }, by decide +kernel⟩
/-- One product of 1, at depth 0 of element 0, and a source of value 1. -/
theorem meets_TileAccumulationIsExact : (Tile.zero.av = false → (Tile.zero.elem 0).v = 0) ∧
    ((([(0, [Fp.fin false 1 0])] : List (Nat × List Fp)).map (·.1)).Nodup) ∧ (0, [Fp.fin false 1 0]) ∈ [(0, [Fp.fin false 1 0])] ∧
    ((Tile.zero.step 0 [(0, [Fp.fin false 1 0])]).elem 0).inx = false ∧ ((Tile.zero.step 0 [(0, [Fp.fin false 1 0])]).elem 0).ovf = false ∧
    (0 : Int) ≤ ((1000 : Nat) : Int) + (Tile.zero.step 0 [(0, [Fp.fin false 1 0])]).a - 64 ∧ (0 : Int) ≤ ((1000 : Nat) : Int) + Tile.zero.a - 64 ∧
    ((Tile.zero.merge 0 true 5 [(0, 1, 0)]).elem 0).inx = false ∧ ((Tile.zero.merge 0 true 5 [(0, 1, 0)]).elem 0).ovf = false ∧
    (0 : Int) ≤ ((1000 : Nat) : Int) + (Tile.zero.merge 0 true 5 [(0, 1, 0)]).a - 64 := by
  decide +kernel
theorem meets_EngineUnits_anchors : ∃ (j : TileJob) (x y z : Tile), j.op = .manchor ∧ x.av = false ∧ y.av = true ∧
    (j.win.getD 0 0).toInt = 511 ∧ (j.win.getD 0 0).toInt ≤ y.a ∧ z.av = true ∧ z.a < (j.win.getD 0 0).toInt :=
  ⟨{ tiled.newJob (.manchor 0 31 0) 0 .manchor with win := [511] }, Tile.zero, { Tile.zero with av := true, a := 511 },
    { Tile.zero with av := true, a := -512 }, rfl, rfl, rfl, by decide, by decide, rfl, by decide⟩

/-- Module HBM mapped onto itself, with a lease of 64 KiB at 4 MiB, and handlers. -/
def mapped : State :=
  { State.reset.placed 0 with
    thr := start.thr
    nodes := [{ placeNode with grants := [{ base := 0x400000, len := 0x10000, rw := true, pins := [], obj := none }] }] }

/-- An FSM of two states whose tables lie in the lease, and a PDA of two states whose stack holds one symbol. -/
def fsm : Image :=
  { pda := false, n := 2, c := 1, token := false, t := 1, limit := 0, v := 1, cmap := 64, trans := 320, outt := 0, mask := 384, len := 512 }
def pda : Image := { fsm with pda := true, t := 2, limit := 1 }

/-- A group of slot 0. -/
def grouped (i : Image) (base : DWord) (l : Lane) : LaneGroup :=
  { LaneGroup.zero with owner := some ⟨0, 0⟩, base := base, img := i, xout := 0x14000, xstr := 64, lanes := List.replicate 16 l }

/-- Group 0 runs the FSM, group 1 the PDA with empty stacks, group 2 the PDA with full ones; group 3 is another slot's. A binding
stands at 0x12000, the PDA's entry for state 0 pushes symbol 1, and the ring at 0x10000 holds a slot. -/
def autoed : State :=
  { mapped with
    thr := { (((mapped.setP 1 0x12000).setQ 1 (ringWord 1)).setQ 2 (ringWord 2)).thr with wp := mapped.thr.wp }
    groups := [((0, 0), grouped fsm 0x4000000000400000 Lane.zero), ((0, 1), grouped pda 0x4000000000401000 Lane.zero),
      ((0, 2), grouped pda 0x4000000000401000 { Lane.zero with stack := [1] }), ((0, 3), { LaneGroup.zero with owner := some ⟨0, 1⟩ })]
    mem := [(0x0, 1), (0x2, 16), (0x100000, 255), (0x400002, 1), (0x400005, 1), (0x400006, 123), (0x400007, 161), 
      (0x400010, 64), (0x400018, 64), (0x400019, 1), (0x400028, 128), (0x400029, 1), (0x400031, 2), (0x401142, 20), 
      (0x401146, 20), (2 ^ 40 + 0x10000, 1), (2 ^ 40 + 0x12002, 64), (2 ^ 40 + 0x12007, 64), (2 ^ 40 + 0x12011, 64), 
      (2 ^ 40 + 0x12012, 1), (2 ^ 40 + 0x12018, 64)] }

theorem autoed_mayRun (i : Instr) : mayRun i autoed := idle_mayRun i rfl rfl rfl rfl
theorem autoed_hasHandler : autoed.hasHandler := ⟨rfl, rfl, by decide⟩

/-- Lane 0 alone takes part: bit 31 is set in the others. -/
def lane0Only (x : Nat) : VecWord := vec (x :: List.replicate 15 0x80000000)

/-- The groups as the slot names them. -/
theorem meets_AutomatonLaneWords_owned : ownsGroup autoed 0 (grouped fsm 0x4000000000400000 Lane.zero) ∧
    ownsGroup autoed 1 (grouped pda 0x4000000000401000 Lane.zero) ∧ takesUser autoed ∧ autoed.hasHandler ∧ mayRun (.atok 6 0) autoed :=
  ⟨⟨rfl, rfl⟩, ⟨rfl, rfl⟩, ⟨by decide, rfl⟩, autoed_hasHandler, autoed_mayRun _⟩
theorem meets_AutomatonLaneWords_aset : (∃ ls, asetLanes fsm (List.replicate 16 Lane.zero)
      ((laneNats (lane0Only 1)).zip (laneNats 0)) = some ls) ∧
    asetLanes fsm (List.replicate 16 Lane.zero) ((laneNats (lane0Only 2)).zip (laneNats 0)) = none :=
  ⟨Option.isSome_iff_exists.mp (by decide +kernel), by decide +kernel⟩
theorem meets_AutomatonLaneWords_apush : pda.pda = true ∧
    (∀ p ∈ (List.replicate 16 Lane.zero).zip (laneNats (lane0Only 1)), (p.2 / 2 ^ 31 % 2 = 1 ∨ p.1.rej = true) ∨
      (p.2 / 2 ^ 8 % 2 ^ 23 = 0 ∧ 1 ≤ p.2 % 256 ∧ p.2 % 256 < pda.t) ∧ p.1.stack.length < pda.limit) ∧
    (∃ p, (pushers (grouped pda 0 { Lane.zero with stack := [1] }).lanes (laneNats (lane0Only 1))).find?
      (fun p => decide (pda.limit ≤ p.2.1.stack.length)) = some p) :=
  ⟨rfl, by decide +kernel, Option.isSome_iff_exists.mp (by decide +kernel)⟩

/-- What lane 0 alone does on symbol 0. -/
def moves (g : Nat) : List (Lane × Option Nat) :=
  (autoed.group 0 g).lanes.zip ((laneNats (lane0Only 0)).map (fun w => if bit w 31 then none else some (w % 2 ^ 18)))

/-- The outcome of a group's step. -/
def movedTo (g : Nat) : Option (List LaneMove) :=
  match laneMoves (autoed.engineUser ⟨0, 0⟩ 1) (autoed.group 0 g) (moves g) [] autoed with
  | .ok (ms, _) => some ms
  | .error _ => none

theorem moved_of {g : Nat} {ms : List LaneMove} (h : movedTo g = some ms) :
    ∃ u, laneMoves (autoed.engineUser ⟨0, 0⟩ 1) (autoed.group 0 g) (moves g) [] autoed = .ok (ms, u) := by
  unfold movedTo at h
  split at h
  · next e => cases h; exact ⟨_, e⟩
  · cases h

theorem meets_AutomatonLaneWords_atok : (∀ w ∈ laneNats (lane0Only 0), w / 2 ^ 31 % 2 = 1 ∨ symbolBad fsm w = false) ∧
    (laneNats (lane0Only 0)).length = 16 ∧ (∃ ms u, laneMoves (autoed.engineUser ⟨0, 0⟩ 1) (autoed.group 0 0) (moves 0) [] autoed =
      .ok (ms, u) ∧ overflowing ms = none) ∧
    (∃ ms u, laneMoves (autoed.engineUser ⟨0, 0⟩ 1) (autoed.group 0 2) (moves 2) [] autoed = .ok (ms, u) ∧ overflowing ms = some 0) := by
  refine ⟨by decide +kernel, by decide +kernel, ?_, ?_⟩
  · have h : ((movedTo 0).map overflowing) = some none := by decide +kernel
    obtain ⟨ms, h1, h2⟩ := Option.map_eq_some_iff.mp h
    obtain ⟨u, h3⟩ := moved_of h1
    exact ⟨ms, u, h3, h2⟩
  · have h : ((movedTo 2).map overflowing) = some (some 0) := by decide +kernel
    obtain ⟨ms, h1, h2⟩ := Option.map_eq_some_iff.mp h
    obtain ⟨u, h3⟩ := moved_of h1
    exact ⟨ms, u, h3, h2⟩

/-- Entries of the PDA: one that pushes at the limit, one that pops an empty stack, one whose next state does not exist. -/
theorem meets_AutomatonSteps : (0x140000 / 2 ^ 28 % 16 = 0 ∧ 0x140000 % 2 ^ 16 < pda.n ∧ 0x140000 / 2 ^ 18 % 4 = 1 ∧
      0x140000 / 2 ^ 20 % 2 ^ 8 < pda.t) ∧ ({ Lane.zero with stack := [1] } : Lane).stack.length = pda.limit ∧
    Lane.zero.stack.length ≠ pda.limit ∧ 0x80000 / 2 ^ 18 % 4 = 2 ∧ 0xC0000 / 2 ^ 18 % 4 = 3 ∧ 0x20000 / 2 ^ 17 % 2 = 1 ∧
    ¬ (2 % 2 ^ 16 < pda.n) ∧ ∃ m b, stepLane pda Lane.zero 1 = .moved m b := by
  refine ⟨by decide, by decide, by decide, by decide, by decide, by decide, by decide, ⟨_, _, rfl⟩⟩

theorem meets_AutomatonMapWords : mayRun (.acomp 20 16 18) start ∧ mapV (2, 0x80000001) = true ∧ 0x80000001 / 2 ^ 29 % 4 = 0 ∧
    ([(0x20000, 0x80000001)] : List (Nat × Nat)).find? (fun y => mapV y && mapStart y = mapEnd (2, 0x80000001)) = some (0x20000, 0x80000001) ∧
    mapV (0, 0) = false ∧ 0xA0000000 / 2 ^ 29 % 4 ≠ 0 ∧ mayRun (.asel 22 20 5) (withS [(5, 0xFFFF)]) ∧
    ((withS [(5, 0xFFFF)]).thr.sreg 5).toNat < 2 ^ 16 ∧ 2 ^ 16 ≤ ((withS [(5, 0x10000)]).thr.sreg 5).toNat ∧ (withS [(5, 0x10000)]).hasHandler :=
  ⟨start_mayRun _, by decide, by decide, by decide, by decide, by decide, idle_mayRun _ rfl rfl rfl rfl, by decide +kernel,
    by decide +kernel, ⟨rfl, rfl, by decide⟩⟩

/-- The segments of lane 0's mask row, and the write of it. -/
def rowOf : Except EngineStop (List Byte × State) :=
  maskSegments (autoed.engineUser ⟨0, 0⟩ 1) (grouped fsm 0x4000000000400000 Lane.zero) (maskOff fsm Lane.zero)
    (List.range (ceilDiv fsm.v 512)) [] autoed

theorem meets_AutomatonMasksAndImages_row : ∃ l u, rowOf = .ok (l, u) ∧ mayRun (.aforce 7 5 0) autoed ∧
    ownsGroup autoed 0 (grouped fsm 0x4000000000400000 Lane.zero) ∧ (autoed.thr.sreg 5).toNat < 16 ∧ fsm.mask ≠ 0 ∧ Lane.zero.rej = false ∧
    mayRun (.amask 1 5 0) autoed ∧ u.thr.progress = 0 ∧ ptrAligned (u.thr.preg 1) 64 = true ∧
    passes (rangeThen .slot (u.thr.preg 1) (clipRow fsm.v l).length .engWrite true u) u ∧
    ∃ w, passes (maskWrites (u.engineUser u.thr.id u.thr.node) (u.thr.preg 1) (segments (clipRow fsm.v l)) 0 u) w ∧
      w.writesOut (u.engineUser u.thr.id u.thr.node).who = false :=
  ⟨_, _, rfl, autoed_mayRun _, ⟨rfl, rfl⟩, by decide +kernel, by decide, rfl, autoed_mayRun _, rfl, by decide +kernel, fun _ => rfl,
    _, fun _ => rfl, rfl⟩
/-- Slot 0's word in flight has claimed group 4. -/
def groupClaimed : State := autoed.claimed (.group 4)
theorem meets_AutomatonMasksAndImages_aload : mayRun (.aload 1 4) autoed ∧ ownsOrClaimsGroup autoed 4 groupClaimed ∧
    (autoed.group 0 3).owner ≠ none ∧ (autoed.group 0 3).owner ≠ some autoed.thr.id ∧ autoed.hasHandler ∧
    (∃ node, groupClaimed.node? autoed.thr.node = some node ∧ ∃ x ∈ node.grants, x.base ≤ (ptrVa 0x4000000000400000).toNat ∧
      (ptrVa 0x4000000000400000).toNat + fsm.len ≤ x.base + x.len) ∧
    ∃ l u h v, yields (readThen (autoed.thr.preg 1) 64 groupClaimed) l u ∧
      parseBinding l = some (0x4000000000400000, false, 0x14000, 64) ∧ imageNamed 0x4000000000400000 false u 0x4000000000400000 u ∧
      yields (readThen 0x4000000000400000 64 u) h v ∧ parseImage h = some fsm ∧ ∃ node, v.node? v.thr.node = some node :=
  ⟨autoed_mayRun _, .inr ⟨rfl, by decide +kernel, rfl⟩, by decide +kernel, by decide +kernel, autoed_hasHandler,
    ⟨_, rfl, _, .head _, by decide +kernel, by decide +kernel⟩,
    ⟨_, _, _, _, fun _ => rfl, by decide +kernel, .inl ⟨rfl, rfl, rfl⟩, fun _ => rfl, by decide +kernel, _, rfl⟩⟩
theorem meets_AutomatonMasksAndImages_again : 0 < (1 : Nat) ∧ ownsOrClaimsGroup autoed 0 autoed := ⟨by decide, .inl ⟨rfl, rfl⟩⟩

theorem meets_AutomatonStreams_begin : autoed.qOk (autoed.thr.qreg 1) = true ∧ qRole (autoed.thr.qreg 1) = 1 ∧
    passes (areaThen (qBase (autoed.thr.qreg 1)) autoed) autoed ∧ autoed.qOk (autoed.thr.qreg 2) = true ∧
    qRole (autoed.thr.qreg 2) = 2 ∧ passes (areaThen (qBase (autoed.thr.qreg 2)) autoed) autoed ∧ 4 * 16 ≤ (autoed.group 0 0).xstr ∧
    passes (areaThen (autoed.group 0 0).xout autoed) autoed ∧ mayRun (.astepx 2 1 16 0) autoed :=
  ⟨by decide +kernel, by decide +kernel, fun _ => rfl, by decide +kernel, by decide +kernel, fun _ => rfl, by decide +kernel,
    fun _ => rfl, autoed_mayRun _⟩

/-- A stream of one symbol that has acquired its slot, and one that has stepped it. -/
def aStream : StreamJob := { autoed.newStream (.astep false 0 1 1 0) 0 1 none 1 none with acquired := true }
def streamed : State := { autoed with thr := { autoed.thr with wait := .stream aStream } }

theorem meets_AutomatonStreams_symbol : streamed.thr.wait = .stream aStream ∧ streamed.thr.run ≠ .vacant ∧
    (∀ n, streamed.node? streamed.thr.node = some n → streamed.shut n = false) ∧ aStream.pendingOut = [] ∧ aStream.done < aStream.n ∧
    aStream.paced ≤ streamed.clock ∧ aStream.acquired = true ∧ aStream.qout = none ∧ aStream.run = none ∧
    (∃ h t l u, streamed.engineRead (streamed.engineUser ⟨0, 0⟩ 1) (qBase (streamed.thr.qreg 1)) 4 = .done h t ∧
      1 ≤ filledSlots (streamed.thr.qreg 1) (ofBytes h) ∧
      t.engineRead (streamed.engineUser ⟨0, 0⟩ 1) (adv (ringSlot (streamed.thr.qreg 1) (qPos (streamed.thr.qreg 1))) (0 : Nat)) 1 = .done l u) ∧
    (0 : Nat) + symbolBytes fsm < 64 :=
  ⟨rfl, by decide, fun n h => (by cases h; rfl), rfl, by decide, by decide +kernel, rfl, rfl, rfl, ⟨_, _, _, _, rfl, by decide +kernel, rfl⟩, by decide⟩
theorem meets_AutomatonStreams_end : ∃ j : StreamJob, j = { aStream with done := 1 } ∧ j.done = j.n ∧ j.resumed = false ∧ j.qout = none :=
  ⟨_, rfl, rfl, rfl, rfl⟩
/-- The symbol's step: whether a lane overflows, whether the thread is untouched, and whether the symbol is one of the image's. -/
def symbolStep : Option (Option Nat × Bool × Bool) :=
  let user := streamed.engineUser ⟨0, 0⟩ 1
  let x := streamed.group 0 0
  match streamed.engineRead user (qBase (streamed.thr.qreg 1)) 4 with
  | .done _ t =>
    (match t.engineRead user (adv (ringSlot (streamed.thr.qreg 1) (qPos (streamed.thr.qreg 1))) (0 : Nat)) 1 with
     | .done l u =>
       (match laneMoves user x (x.lanes.map (fun y => (y, some (ofBytes l)))) [] u with
        | .ok (ms, v) => some (overflowing ms, decide (v.thr = streamed.thr), decide (ofBytes l < min (2 ^ 18) x.img.v) || !x.img.token)
        | .error _ => none)
     | _ => none)
  | _ => none
theorem meets_AutomatonStreams_moves : symbolStep = some (none, true, true) := by decide +kernel
/-- An object whose one extent is the line at 4 MiB. -/
def object5 : ObjRec :=
  { idx := 5, bound := true, opens := 1, leases := 0, asid := 0, ns := 7, fmt := 0x21, dims := [1, 0, 0, 0, 0, 0],
    extents := [(0x4000000000400000, 64)], len := 64, desc := 0x4000000000402000, offsets := 0 }

/-- Names at 0x12000 (7, bound to object 5), 0x12040 (9, of a namespace with no grant) and 0x12080 (granted, not bound); the entry of
TBINDM at 0x12000 unbinds, and a descriptor stands at 0x402000. Open entry 1 is a handle of object 5. -/
def bound : State :=
  { (((((((mapped.setP 1 0x12000).setP 2 0x4000000000402000).setP 3 0x12040).setP 4 0x12080).setS 1 1).setS 2 (5 * 2 ^ 44 + 1)).setS 3 63).setS 4
      64 with
    dir := { Directory.reset with
      grants := [(7, 2 ^ 63)]
      names := [{ name := 7, obj := 5 }]
      objs := [object5]
      opens := [{ idx := 1, gen := 0, obj := some 5, asid := 0 }]
      unused := 2 }
    mem := [(0x0, 1), (0x2, 16), (0x100000, 255), (0x402000, 33), (0x402008, 1), (0x402042, 64), (0x402047, 64), 
      (0x402048, 64), (2 ^ 40 + 0x12000, 7), 
      (2 ^ 40 + 0x12040, 9), (2 ^ 40 + 0x12080, 7), (2 ^ 40 + 0x12082, 1)] }

theorem bound_mayRun (i : Instr) : mayRun i bound := idle_mayRun i rfl rfl rfl rfl
theorem bound_hasHandler : bound.hasHandler := ⟨rfl, rfl, by decide⟩

/-- The state in which the slot's directory instruction is performed. -/
def turned : State := dirAt bound
theorem turned_hasHandler : turned.hasHandler := ⟨rfl, rfl, by decide⟩

theorem bound_reads : ∃ u, readsName (turned.thr.preg 1) turned 7 u ∧ mayBind (u.dir.grant (nameNs 7)) u.thr.asid u.thr.world = true ∧
    mayOpen (u.dir.grant (nameNs 7)) u.thr.asid u.thr.world = true ∧ u.dir.lookup 7 = some 5 ∧
    (∃ h d, u.dir.allocate 5 u.thr.asid = some (h, d)) :=
  ⟨_, ⟨_, fun _ => rfl, by decide +kernel, by decide⟩, by decide +kernel, by decide +kernel, by decide +kernel, ⟨_, _, rfl⟩⟩
theorem bound_describes : ∃ d w, yields (descThen (turned.thr.preg 2) turned) d w ∧
    bindOverflow w [{ name := 7, desc := some (w.thr.preg 2, d) }] = none := ⟨_, _, fun _ => rfl, by decide +kernel⟩
theorem bound_refused : ∃ u, readsName (turned.thr.preg 3) turned 9 u ∧ ¬ mayBind (u.dir.grant (nameNs 9)) u.thr.asid u.thr.world = true ∧
    mayOpen (u.dir.grant (nameNs 9)) u.thr.asid u.thr.world = false ∧ u.hasHandler :=
  ⟨_, ⟨_, fun _ => rfl, by decide +kernel, by decide⟩, by decide +kernel, by decide +kernel, turned_hasHandler⟩
theorem bound_absent : ∃ u, readsName (turned.thr.preg 4) turned 0x10007 u ∧
    mayOpen (u.dir.grant (nameNs 0x10007)) u.thr.asid u.thr.world = true ∧ u.dir.lookup 0x10007 = none ∧
    u.nameWaits.length < Config.waitLimit :=
  ⟨_, ⟨_, fun _ => rfl, by decide +kernel, by decide⟩, by decide +kernel, by decide +kernel, by decide⟩


set_option maxRecDepth 8000 in
theorem bound_entries : ∃ l v, yields (fun k => entriesThen (turned.thr.preg 1) 1 0 turned [] k) l v ∧ bindOverflow v l = none :=
  ⟨_, _, fun _ => rfl, by decide +kernel⟩
theorem meets_DirectoryBindings : passes (releaseThen .dv bound) bound ∧ dirReady bound ∧ mayRun (.tbind 1 2) bound ∧
    (bound.thr.sreg 1).toNat = 1 ∧ (bound.thr.sreg 0).toNat = 0 ∧ 16 < (bound.thr.sreg 3).toNat ∧ bound.hasHandler ∧
    start.dir.waits = [] ∧ start.dir.lookup 7 = none :=
  ⟨fun _ => rfl, rfl, bound_mayRun _, by decide +kernel, by decide +kernel, by decide +kernel, bound_hasHandler,
    rfl, rfl⟩
theorem meets_DirectoryOpens : dirReady bound ∧ mayRun (.topenw 1 1 3) bound ∧ (bound.thr.sreg 3).toNat < 2 ^ 32 ∧
    (bound.thr.sreg 0).toNat = 0 ∧ bound.dir.obj? 5 = some object5 ∧ (∃ h d, bound.dir.allocate 5 0 = some (h, d)) ∧
    bound.dir.unused ≤ 2 ^ 20 ∧ ∀ x ∈ bound.dir.opens, x.idx < bound.dir.unused :=
  ⟨rfl, bound_mayRun _, by decide +kernel, by decide +kernel, rfl, ⟨_, _, rfl⟩, by decide, by decide⟩
theorem meets_DirectoryHandles : dirReady bound ∧ turned.dir.check turned.thr.asid (turned.thr.sreg 2) = .ok object5 ∧
    mayRun (.tclose 2) bound ∧ bound.slotWorks bound.thr.id = false ∧ passes (releaseThen .dv bound) bound ∧
    (∃ p, extentAddr object5.extents (bound.thr.sreg 3).toNat = some p) ∧ extentAddr object5.extents (bound.thr.sreg 4).toNat = none ∧
    bound.hasHandler ∧ turned.dir.check turned.thr.asid (turned.thr.sreg 0) = .error 1 :=
  ⟨rfl, rfl, bound_mayRun _, rfl, fun _ => rfl, Option.isSome_iff_exists.mp (by decide +kernel), by decide +kernel, bound_hasHandler, rfl⟩
theorem meets_DirectoryHandles_reasons : (2 ^ 61 : DWord).toNat / 2 ^ 61 ≠ 0 ∧
    (∃ o, bound.dir.opens.find? (fun o => o.idx = (bound.thr.sreg 2).toNat % 2 ^ 20) = some o ∧ o.obj = some ((bound.thr.sreg 2).toNat / 2 ^ 44) ∧
      o.gen.toNat = (bound.thr.sreg 2).toNat / 2 ^ 20 % 2 ^ 24 ∧ o.asid ≠ 1) ∧
    ∀ o, bound.dir.opens.find? (fun o => o.idx = 2 % 2 ^ 20) = some o → o.obj ≠ some (2 / 2 ^ 44) := by
  refine ⟨by decide +kernel, ⟨{ idx := 1, gen := 0, obj := some 5, asid := 0 }, by decide +kernel, by decide +kernel, by decide +kernel, by decide⟩,
    fun o h => ?_⟩
  have : bound.dir.opens.find? (fun o => o.idx = 2 % 2 ^ 20) = none := by decide +kernel
  rw [this] at h; cases h

/-- The binding at 0x12000 names its image by the handle of object 5, whose extent starts at 4 MiB: the directory admits it. -/
theorem meets_AutomatonMasksAndImages_handle :
    imageNamed (bound.thr.sreg 2) true bound 0x4000000000400000 turned :=
  .inr ⟨rfl, rfl, rfl, object5, rfl, by decide +kernel⟩

/-- A record at 0x10000 of the own LM whose width is 1, a malformed one, of zeros, at 0x11000, and 512 in s1. -/
def spawning : State :=
  { ((withS [(1, 512), (2, 1), (4, 513)]).setP 1 0x10000).setP 2 0x11000 with mem := [(2 ^ 40 + 0x1002D, 8)] }

theorem spawning_mayRun (i : Instr) : mayRun i spawning := idle_mayRun i rfl rfl rfl rfl
theorem meets_NodeWords_spawn : passes (releaseThen .dv spawning) spawning ∧ spawning.hasHandler ∧ spawning.poolFull 0 = false ∧
    mayRun (.spawn 1 1) spawning ∧
    (∃ r l q m v w, recordRead (spawning.thr.preg 1) spawning r l v ∧ recordRead (adv (spawning.thr.preg 1) 64) v q m w ∧
      (checkRecord false w.thr.world w.thr.asid (l ++ m) (spawning.thr.preg 1)).toOption.isSome = true ∧ w.poolFull 0 = false ∧
      isDone (w.hardwareWrite (.slot w.thr.id) (clusterOf w.thr.id.core) w.thr.world
        { q with home := q.home.plus 8, n := 8 } (toBytes 8 1)) = true ∧ w.writesOut (.slot w.thr.id) = false) ∧
    (∃ r l q m v w, recordRead (spawning.thr.preg 2) spawning r l v ∧ recordRead (adv (spawning.thr.preg 2) 64) v q m w ∧
      (checkRecord false w.thr.world w.thr.asid (l ++ m) (spawning.thr.preg 2)).toOption.isSome = false ∧ w.hasHandler) :=
  ⟨fun _ => rfl, ⟨rfl, rfl, by decide⟩, rfl, spawning_mayRun _,
    ⟨_, _, _, _, _, _, fun _ => rfl, fun _ => rfl, by decide +kernel, rfl, by decide +kernel, rfl⟩,
    ⟨_, _, _, _, _, _, fun _ => rfl, fun _ => rfl, by decide +kernel, rfl, rfl, by decide⟩⟩

/-- A command that makes a copy of 64 bytes from 0xC000 to 0x10000 of the own LM. -/
def copyCmd : Cmd :=
  { id := 1, kind := .cpy, slot := ⟨0, 0⟩, node := 1, cl := 0, engine := 3, src := 0xC000, dst := 0x10000, len := 64, routine := 0, tag := 0,
    arm := false, term := 0, cnt := false, ctr := 0, clr := false, nfy := false, acq := false, scope := .co, hnt := false, guard := none,
    st := .queued, pos := 0, buf := [], sent := 0, since := none, drained := 0, pc := 0x200000, fifoSrc := false, fifoDst := false,
    retried := false, termMet := false, bound := 64, early := false, output := [], fate := none, readBy := none }

/-- A transform slot that has published 64 bytes, the bound, and ends with as many. -/
def routine : State :=
  { withS [(3, 64)] with
    thr := { (withS [(3, 64)]).thr with id := ⟨8192, 0⟩ }
    mem := [(2 ^ 42 + 0x5800, 1)]
    cmds := [{ copyCmd with kind := .cpyx, engine := 0, st := .running }] }

/-- A full pool. -/
def poolful : State := start.setDie 0 { Die.reset with pool := List.replicate 4096 1 }

theorem meets_NodeWords_rest : mayRun .nend start ∧ isTransform start.thr.id = false ∧ nendIdle start ∧ passes (releaseThen .dv start.cancelArmed) start ∧
    mayRun (.nwait 1) (withS [(1, 7)]) ∧ (withS [(1, 7)]).node? ((withS [(1, 7)]).thr.sreg 1).toNat = none ∧
    (∃ n, (State.reset.placed 0).node? 1 = some n ∧ n.unreported = true) ∧ mayRun (.spawn 1 1) { spawning with thr := { spawning.thr with progress := 7 } } ∧ mayRun .nend routine ∧ isTransform routine.thr.id = true ∧
    (routine.thr.sreg 3).toNat = 64 * routine.readHome (ownLm routine.thr.id 0x5800) 4 ∧ (routine.thr.sreg 3).toNat = routine.routineB ∧ poolful.poolFull 0 = true ∧ start.poolFull 0 = false :=
  ⟨start_mayRun _, rfl, ⟨rfl, fun _ h => nomatch h⟩, fun _ => rfl, idle_mayRun _ rfl rfl rfl rfl, rfl, ⟨_, rfl, rfl⟩, idle_mayRun _ rfl rfl rfl rfl,
    ⟨rfl, by decide +kernel, ⟨rfl, .inl rfl⟩, .inl rfl⟩, rfl,
    by decide +kernel, by decide +kernel, by decide +kernel, rfl⟩

/-- Barrier 3 of cluster 0 when one of two has arrived. -/
def arrived : State := { spawning with barriers := [((0, 3), { Barrier.idle with node := some 1, count := 512, arrived := 511 })] }

theorem meets_BarriersAndVotes_barr : mayRun (.barr 1 3) spawning ∧ (spawning.thr.sreg 1).toNat = 512 ∧
    (spawning.barrier 0 3).node = none ∧ (spawning.barrier 0 3).arrived + 1 ≠ 512 ∧ passes (releaseThen .cl spawning) spawning ∧
    (spawning.thr.sreg 2).toNat = 1 ∧ (spawning.barrier 0 3).arrived + 1 = 1 ∧ mayRun (.barr 1 3) arrived ∧
    passes (releaseThen .cl arrived) arrived ∧ (arrived.barrier 0 3).arrived + 1 = 512 ∧ (arrived.barrier 0 3).node = some arrived.thr.node ∧
    (arrived.barrier 0 3).count = 512 ∧ spawning.hasHandler ∧ (spawning.thr.sreg 4).toNat = 513 :=
  ⟨spawning_mayRun _, rfl, rfl, by decide, fun _ => rfl, rfl, rfl, idle_mayRun _ rfl rfl rfl rfl, fun _ => rfl, rfl, rfl, rfl,
    ⟨rfl, rfl, by decide⟩, rfl⟩

/-- A leader whose follower stands at the vote, the follower that has been told, and a detached member. -/
def yarded (role : Role) : State :=
  { start with
    thr := { start.thr with role := role, progress := 3 }
    others := [{ start.thr with id := ⟨0, 1⟩, role := .follower, wait := .stall .yard }] }

theorem meets_BarriersAndVotes_votes (d a : Reg) : mayRun (.yardAll d a) (yarded .leader) ∧ (yarded .leader).attached.length = 1 ∧
    (∀ t ∈ (yarded .leader).attached, t.pc = (yarded .leader).thr.pc ∧ t.wait = .stall .yard ∧ t.progress = 0) ∧
    mayRun (.yardAny d a) (yarded .follower) ∧ (yarded .follower).thr.progress = 2 + true.toNat ∧ mayRun (.yardAny d a) (yarded .detached) ∧
    mayRun .yardDet (yarded .follower) :=
  ⟨idle_mayRun _ rfl rfl rfl rfl, rfl, by decide +kernel, idle_mayRun _ rfl rfl rfl rfl, rfl, idle_mayRun _ rfl rfl rfl rfl,
    idle_mayRun _ rfl rfl rfl rfl⟩

/-- A node whose one member has ended, or that PRIV ends. -/
def ended : State := { State.reset.placed 0 with
  nodes := [{ placeNode with members := [{ id := ⟨0, 0⟩, ended := true, spilled := false }] }] }
def privEnd : Ending := { cause := .priv, pc := 0, cls := 0, eval := 0, member := ⟨0, 0⟩, before := false, row := 0 }
def caused : State := { State.reset.placed 0 with nodes := [{ placeNode with ending := some privEnd, endedAt := 7 }] }
def causedNow : State := { State.reset.placed 0 with nodes := [{ placeNode with ending := some privEnd, endedAt := (State.reset.placed 0).clock }] }

/-- The node at a step of its end: its status record stands at 0x10000 of its LM, and its list, of one successor, at 0x11000. -/
def endingNode (c : Option Ending) (p : EndStep) : Node :=
  { placeNode with stat := 0x10000, succ := 0x11000, ends := some { cause := c, pc := 0, step := p, due := [0x12000] } }
def ending (c : Option Ending) (p : EndStep) : State :=
  { State.reset.placed 0 with nodes := [endingNode c p], mem := [(2 ^ 40 + 0x11002, 1), (2 ^ 40 + 0x12020, 1), (2 ^ 40 + 0x1202D, 8)] }
def endingFull : State := { ending (some privEnd) .signal with
  ctl := { (ending (some privEnd) .signal).ctl with
    records := List.replicate 32 { unit := .fault 0, ring := 0, w0 := 0, w1 := 0, w2 := 0, w3 := 0 } } }

theorem meets_NodeEnds_begins : (∃ n, ended.node? 1 = some n ∧ n.ends = none ∧ n.ending = none ∧ n.allEnded = true) ∧
    (∃ n, caused.node? 1 = some n ∧ n.ends = none ∧ n.ending = some privEnd ∧ n.endedAt ≠ caused.clock) ∧
    (∃ n, causedNow.node? 1 = some n ∧ n.ends = none ∧ n.ending = some privEnd ∧ n.endedAt = causedNow.clock) ∧
    (∃ n, (State.reset.placed 0).node? 1 = some n ∧ n.ends = none ∧ n.ending = none ∧ n.allEnded = false) :=
  ⟨⟨_, rfl, rfl, rfl, rfl⟩, ⟨_, rfl, rfl, rfl, by decide⟩, ⟨_, rfl, rfl, rfl, rfl⟩, ⟨_, rfl, rfl, rfl, rfl⟩⟩
theorem meets_NodeEnds_steps (c : Option Ending) (p : EndStep) : (ending c p).node? 1 = some (endingNode c p) ∧
    (endingNode c p).ends = some { cause := c, pc := 0, step := p, due := [0x12000] } ∧ (ending c p).midChunk 1 = false ∧
    (∀ x ∈ (ending c p).cmds, x.node = 1 → x.kind = .seal_ → x.st ≠ .queued ∧ x.st ≠ .running) ∧
    (ending c p).nodeLines 1 (fun _ => true) = false ∧ (ending c p).nodeWrites (endingNode c p) = false ∧
    (∀ g ∈ (endingNode c p).grants, g.obj = none) ∧ (ending c p).dirTurn (.end_ 1) = true ∧ (ending c p).writesOut (.node 1) = false ∧
    (ending c p).recordsFull (endingNode c p) = false ∧ endingFull.recordsFull (endingNode (some privEnd) .signal) = true :=
  ⟨rfl, rfl, rfl, (fun _ h => nomatch h), rfl, rfl, (fun _ h => nomatch h), rfl, rfl, rfl, by decide +kernel⟩

/-- What has become of a successor. -/
def succOf : SuccStep → Nat
  | .done _ => 1
  | .due _ => 2
  | .hold _ => 0
theorem meets_NodeEnds_accesses : (∃ x t, (ending none .status).engineWriteRange (State.nodeUser (endingNode none .status)) 0x10000
      (toBytes 16 0) = .done x t) ∧
    (∃ l t, (ending none .list).engineReadRange (State.nodeUser (endingNode none .list)) 0x11000 128 = .done l t) ∧
    succOf ((ending none (.deps [0x12000])).decrement (endingNode none (.deps [0x12000])) 0x12000) = 2 ∧
    succOf ((ending none (.deps [0x13001])).decrement (endingNode none (.deps [0x13001])) 0x13001) = 1 ∧
    succOf ((ending none .submit).submitSuccessor (endingNode none .submit) 0x12000) = 1 :=
  ⟨done_of (by decide +kernel), done_of (by decide +kernel), by decide +kernel, by decide +kernel, by decide +kernel⟩

/-- The state after a word or a step. -/
def after (o : Out) : State :=
  match o with
  | .next s => s
  | _ => start

/-- Control words: 64 bytes at once, one of routine 7, one of no bytes, one armed with term 2, and a routine that is not loaded. -/
def copying : State :=
  (({ withS [(1, 64), (2, 0x0007000000000040), (4, 0x0000048000000040), (5, 0x0001000000000040)] with
    routines := [{ cl := 0, num := 7, oadd := 64, omul := 16, words := [] }] } : State).setP 1 0xC000).setP 2 0x10000

theorem copying_mayRun (i : Instr) : mayRun i copying := idle_mayRun i rfl rfl rfl rfl

theorem meets_EngineCommandWords_cpy (l q : Bool) : mayRun (.cpy 2 1 1 l true true q) copying ∧
    copying.routineOk .cpy 0 (controlWord (copying.thr.sreg 1)).routine = true ∧
    copying.fifoAt (copying.thr.preg 1) = none ∧ copying.fifoAt (copying.thr.preg 2) = none ∧
    passes (commandRanges .cpy (copying.thr.preg 1) (copying.thr.preg 2) (endLen none 64) (endLen none 64) false copying) copying ∧
    passes (commandRanges .cpy (copying.thr.preg 1) (copying.thr.preg 2) (endLen none 64) (endLen none 64) true copying) copying ∧
    copying.notifiesDue < 8 ∧ copying.queueFull .cpy 0 = false ∧ passes (releaseIf true copying.thr.status.scope copying) copying ∧
    passes (guardOk none (copying.thr.preg 2) 64 copying) copying ∧ passes (guardThen none 64 copying) copying ∧
    passes (guardOk (some 1) (copying.thr.preg 2) 64 copying) copying ∧ (∃ x, passes (guardThen (some 1) 64 copying) x) ∧
    (controlWord (copying.thr.sreg 4)).arm = true ∧ copying.claimedByOther (copying.term 0 (controlWord (copying.thr.sreg 4)).term).node = false ∧
    (controlWord (copying.thr.sreg 0)).len = 0 :=
  ⟨copying_mayRun _, by decide +kernel, by decide +kernel, by decide +kernel, fun _ => rfl, fun _ => rfl, by decide +kernel, by decide +kernel,
    fun _ => rfl, fun _ => rfl, fun _ => rfl, fun _ => rfl, ⟨_, fun _ => rfl⟩, by decide +kernel, by decide +kernel, by decide +kernel⟩
theorem meets_EngineCommandWords_cpyx (l n q : Bool) : mayRun (.cpyx 2 1 2 l n false q) copying ∧
    copying.routineOk .cpyx 0 (controlWord (copying.thr.sreg 2)).routine = true ∧
    copying.destLen .cpyx 0 7 64 = 128 ∧
    passes (commandRanges .cpyx (copying.thr.preg 1) (copying.thr.preg 2) (endLen none 64) (endLen none 128) false copying) copying ∧
    copying.queueFull .cpyx 0 = false ∧ passes (releaseIf false copying.thr.status.scope copying) copying :=
  ⟨copying_mayRun _, by decide +kernel, by decide +kernel, fun _ => rfl, by decide +kernel, fun _ => rfl⟩
theorem meets_EngineCommandWords_seal (n q : Bool) : mayRun (.sealOut 2 1 1 n false q) copying ∧
    copying.routineOk .seal_ 0 (controlWord (copying.thr.sreg 1)).routine = true ∧
    passes (commandRanges .seal_ (copying.thr.preg 1) (copying.thr.preg 2) 64 320 false copying) copying ∧ copying.queueFull .seal_ 0 = false :=
  ⟨copying_mayRun _, by decide +kernel, fun _ => rfl, by decide +kernel⟩
theorem meets_EngineCommandWords_bad (k : CmdKind) : copying.hasHandler ∧ copying.routineOk k 0 (controlWord (copying.thr.sreg 5)).routine = false := by
  refine ⟨⟨rfl, rfl, by decide⟩, ?_⟩
  cases k <;> decide +kernel

/-- A command waits; words that cannot be read, 0xC000 of the LM among them. -/
def queued (c : Cmd) (bad : List Nat) : State := { State.reset.placed 0 with cmds := [c], bad := bad }

/-- What becomes of a chunk: it goes through, or fails with a cause. -/
def chunkGoes : CmdStep → Bool
  | .go _ _ => true
  | _ => false
def chunkCause : CmdStep → Option Cause
  | .fail x => some x
  | _ => none
theorem chunkGoes_of {r : CmdStep} (h : chunkGoes r = true) : ∃ c u, r = .go c u := by
  cases r with
  | go c u => exact ⟨c, u, rfl⟩
  | _ => cases h
theorem chunkCause_of {r : CmdStep} {x : Cause} (h : chunkCause r = some x) : r = .fail x := by
  cases r with
  | fail y => cases h; rfl
  | _ => cases h

theorem meets_EngineCommandSteps_copy :
    (∃ c, (queued copyCmd []).engineCmd (Cmd.ofEngine 0 3) = some c ∧ ∃ c' u, (queued copyCmd []).chunk c = .go c' u) ∧
    (∃ c x, (queued { copyCmd with src := 0x4000400000000000 } []).engineCmd (Cmd.ofEngine 0 3) = some c ∧ x ≠ .mcheck ∧
      (queued { copyCmd with src := 0x4000400000000000 } []).chunk c = .fail x) ∧
    (∃ c, (queued copyCmd [2 ^ 37 + 0x1800]).engineCmd (Cmd.ofEngine 0 3) = some c ∧ c.retried = false ∧
      (queued copyCmd [2 ^ 37 + 0x1800]).chunk c = .fail .mcheck) ∧
    (∃ c, (queued { copyCmd with retried := true } [2 ^ 37 + 0x1800]).engineCmd (Cmd.ofEngine 0 3) = some c ∧ c.retried = true ∧
      (queued { copyCmd with retried := true } [2 ^ 37 + 0x1800]).chunk c = .fail .mcheck) ∧
    copyCmd.fifoSrc = false ∧ copyCmd.fifoDst = false :=
  ⟨⟨_, rfl, chunkGoes_of (by decide +kernel)⟩, ⟨_, .lease, rfl, by decide, chunkCause_of (by decide +kernel)⟩,
    ⟨_, rfl, rfl, chunkCause_of (by decide +kernel)⟩, ⟨_, rfl, rfl, chunkCause_of (by decide +kernel)⟩, rfl, rfl⟩
/-- The same where the destination is a ring. -/
theorem meets_EngineCommandSteps_ring : ∃ c, (queued { copyCmd with fifoDst := true } [2 ^ 37 + 0x1800]).engineCmd (Cmd.ofEngine 0 3) = some c ∧
    c.retried = false ∧ c.early = false ∧ c.fifoDst = true ∧ (queued { copyCmd with fifoDst := true } [2 ^ 37 + 0x1800]).chunk c = .fail .mcheck :=
  ⟨_, rfl, rfl, rfl, rfl, chunkCause_of (by decide +kernel)⟩
theorem meets_EngineCommandSteps_seal :
    (∃ c, (queued { copyCmd with kind := .seal_ } []).engineCmd (fun c => c.kind = .seal_) = some c ∧
      ∃ c' u, (queued { copyCmd with kind := .seal_ } []).sealStep c = .go c' u) ∧
    (∃ c x, (queued { copyCmd with kind := .seal_, dst := 0x4000400000000000 } []).engineCmd (fun c => c.kind = .seal_) = some c ∧ x ≠ .mcheck ∧
      (queued { copyCmd with kind := .seal_, dst := 0x4000400000000000 } []).sealStep c = .fail x) ∧
    (∃ c, (queued { copyCmd with kind := .seal_ } [2 ^ 37 + 0x1800]).engineCmd (fun c => c.kind = .seal_) = some c ∧ c.retried = false ∧
      (queued { copyCmd with kind := .seal_ } [2 ^ 37 + 0x1800]).sealStep c = .fail .mcheck) :=
  ⟨⟨_, rfl, chunkGoes_of (by decide +kernel)⟩, ⟨_, .lease, rfl, by decide, chunkCause_of (by decide +kernel)⟩, ⟨_, rfl, rfl, chunkCause_of (by decide +kernel)⟩⟩
theorem meets_EngineCommandSteps_ends : (queued { copyCmd with arm := true, termMet := true } []).cmds.find? (fun c => c.id = 1) =
      some { copyCmd with arm := true, termMet := true } ∧
    (∀ y ∈ (queued { copyCmd with arm := true, termMet := true } []).cmds, y.st ≠ .running ∧ copyCmd.id ≤ y.id) ∧
    (queued { copyCmd with st := .finishing 3 } []).cmds.find? (fun c => c.id = 1) = some { copyCmd with st := .finishing 3 } ∧
    (queued { copyCmd with arm := true, termMet := true } []).cmdStopped { copyCmd with arm := true, termMet := true } = false ∧
    (∀ y ∈ (queued { copyCmd with arm := true, termMet := true } []).cmds, y.id = 1 → y = { copyCmd with arm := true, termMet := true }) ∧
    (queued { copyCmd with st := .finishing 3 } []).fabric.items = [] ∧ causeOfCode 3 = some .align ∧
    (queued { copyCmd with st := .finishing 3 } []).writesOut (.cmd 1) = false ∧
    (∀ n ∈ (queued { copyCmd with st := .finishing 3 } []).nodes, n.id = copyCmd.node → n.closing = false) ∧
    (∃ n ∈ (queued { copyCmd with st := .finishing 3 } []).nodes, n.id = copyCmd.node) :=
  ⟨rfl, by decide +kernel, rfl, rfl, by decide +kernel, rfl, rfl, rfl, by decide +kernel, _, .head _, rfl⟩
theorem meets_EngineCommandSteps_early :
    ∃ c, (queued { copyCmd with early := true, src := 0x4000400000000000 } []).engineCmd (Cmd.ofEngine 0 3) = some c ∧ c.early = true ∧
      (queued { copyCmd with early := true, src := 0x4000400000000000 } []).chunk c = .fail .lease :=
  ⟨_, rfl, rfl, chunkCause_of (by decide +kernel)⟩

/-- Operands of EVCFG and EVWAIT at the ends of their ranges; s1 to s4 name counters 31 and 32, s5 a term. -/
def crossed : State :=
  { withS [(1, 31), (2, 47), (3, 0x3FFFFFFFF), (4, 0x400000000), (5, 48), (6, 0x8000), (7, 0x10000), (8, 0x4000)] with
    counters := [((0, 1), { node := some 9, value := 0, source := 0, slot := ⟨0, 1⟩ })]
    terms := [((0, 15), { node := some 1, conds := 0 }), ((0, 13), { node := some 9, conds := 0 })]
    trueTerms := [(0, 14)] }

theorem crossed_mayRun (i : Instr) : mayRun i crossed := idle_mayRun i rfl rfl rfl rfl
theorem meets_CrossbarAndGuardWords_crossbar : mayRun (.evcfg 1 3) crossed ∧ (crossed.thr.sreg 1).toNat = 31 ∧ (crossed.thr.sreg 3).toNat = 2 ^ 34 - 1 ∧
    (crossed.counter 0 31).node = none ∧ (crossed.thr.sreg 2).toNat = 47 ∧ (crossed.term 0 15).node = some crossed.thr.node ∧ crossed.hasHandler ∧
    (crossed.thr.sreg 5).toNat = 48 ∧ (crossed.thr.sreg 4).toNat = 2 ^ 34 ∧ (crossed.counter 0 1).node ≠ none ∧
    (crossed.counter 0 1).node ≠ some crossed.thr.node ∧ mayRun (.evwait 6) crossed ∧ (crossed.thr.sreg 6).toNat = 2 ^ 15 ∧
    (∀ i, i < 16 → bit 0x8000 i = true → (0, i) ∉ crossed.trueTerms) ∧ (crossed.thr.sreg 8).toNat = 2 ^ 14 ∧ bit 0x4000 14 = true ∧
    (0, 14) ∈ crossed.trueTerms ∧ (crossed.thr.sreg 7).toNat = 2 ^ 16 := by
  refine ⟨crossed_mayRun _, ?_, ?_, rfl, ?_, rfl, ⟨rfl, rfl, by decide⟩, ?_, ?_, by decide, by decide, crossed_mayRun _, ?_, ?_, ?_, ?_, .head _, ?_⟩ <;>
    decide +kernel

/-- The slot has a command under guard 3, held or queued. -/
def guarded (st : CmdState) : State := queued { copyCmd with guard := some 3, st := st } []
theorem meets_CrossbarAndGuardWords_guards : mayRun (.gcommit 3) (guarded (.held 0)) ∧ (guarded (.held 0)).guarded 3 { copyCmd with guard := some 3 } = true ∧
    (∀ c ∈ (guarded (.held 0)).cmds, ∃ n, c.st = .held n) ∧ mayRun (.gcommit 3) (guarded .queued) ∧
    (∃ c ∈ (guarded .queued).cmds, (guarded .queued).guarded 3 c = true ∧ ∀ n, c.st ≠ .held n) ∧ mayRun (.gdrop 3) (guarded .queued) :=
  ⟨idle_mayRun _ rfl rfl rfl rfl, by decide +kernel, fun c h => ⟨0, by cases h with | head => rfl | tail _ h => cases h⟩,
    idle_mayRun _ rfl rfl rfl rfl, ⟨_, .head _, by decide +kernel, fun _ h => nomatch h⟩, idle_mayRun _ rfl rfl rfl rfl⟩
/-- A held write to a home that takes it, and one where a workspace has come to lie. -/
def aHeld (h : Home) : HeldWrite :=
  { slot := ⟨0, 0⟩, node := 1, guard := 3, cmd := 1, home := h, ea := 0x10000, n := 8, data := 5, ring := false }
def holding (h : Home) : State :=
  { start with cmds := [{ copyCmd with guard := some 3, st := .held 0 }], heldWrites := [aHeld h] }
theorem meets_CrossbarAndGuardWords_held : mayRun (.gcommit 3) (holding (.lm 0 0x10000)) ∧ (holding (.lm 0 0x10000)).heldOf 3 = [aHeld (.lm 0 0x10000)] ∧
    (holding (.lm 0 0x10000)).heldCheck (aHeld (.lm 0 0x10000)) = .ok ∧ (holding (.lm 0 start.thr.wp)).hasHandler ∧
    (holding (.lm 0 start.thr.wp)).heldOf 3 = [aHeld (.lm 0 start.thr.wp)] ∧
    (holding (.lm 0 start.thr.wp)).heldCheck (aHeld (.lm 0 start.thr.wp)) = .refuse .wsalias :=
  ⟨idle_mayRun _ rfl rfl rfl rfl, rfl, by decide +kernel, ⟨rfl, rfl, by decide +kernel⟩, rfl, by decide +kernel⟩
theorem meets_CrossbarAndGuardWords_terms : 32 ≤ (45 : Nat) ∧ (crossed.term 0 13).node ≠ none ∧ (crossed.term 0 13).node ≠ some crossed.thr.node := by
  decide +kernel

/-- The user has HREALIGN pending and four loops. -/
def hintedUser : State :=
  { user with thr := { user.thr with status := { user.thr.status with hpend := 8 }, loops := List.replicate 4 { len := 1, count := 1, start := 0x100 } } }

theorem meets_TrapEntries (c : Fin 256) (r : Reg) : user.hasHandler ∧ mayRun (.trap c) user ∧ decode 0xFC9FFFFF = .error .hintPayload ∧
    decode 0 = .error .reservedMajor ∧ himmStart.hasHandler ∧ hintFault (.add 1 2 3 .w64) himmStart.thr.status = true ∧ user.thr.status.priv = 0 ∧
    mayRun .eret user ∧ mayRun .halt user ∧ mayRun (.sysr r 0x09) user ∧ mayRun (.sysw r 0x16) user :=
  ⟨user_hasHandler, user_mayRun _, rfl, rfl, ⟨rfl, rfl, by decide⟩, by decide +kernel, rfl, user_mayRun _, user_mayRun _,
    user_mayRun _, user_mayRun _⟩

theorem meets_TrapEntries_hints : (Instr.add 1 2 3 .w64).hasWord = true ∧ (encode (.add 1 2 3 .w64)).toNat / 2 ^ 26 ≠ 0x3F ∧
    (Instr.uret).hasWord = true ∧ (encode .uret).toNat / 2 ^ 26 ≠ 0x3F ∧ hintFault .uret himmStart.thr.status = true := by decide +kernel

/-- A slot just after an entry. -/
def trapped (t : Thread) : State := { start with thr := t.enterTrap .operand 3 0x55 0x200008 0x1000 40 }
def upcalled (t : Thread) : State := { start with thr := t.enterUser 0x200008 0x66 0x2000 40 }

theorem meets_ReturnsRestoreEntries (p : Payloads) : loopsOk hintedUser.thr.loops ∧ hintedUser.thr.status.priv.toNat ≤ 1 ∧ start.thr.status.priv.toNat = 1 ∧
    mayRun .eret (trapped hintedUser.thr) ∧ mayRun .eret (trapped { start.thr with pay := p }) ∧
    hintedUser.thr.status.inui = false ∧ (0x200008 : VAddr).extractLsb' 0 2 = 0 ∧ mayRun .uret (upcalled hintedUser.thr) ∧
    mayRunAt 1 .eret start ∧ (∃ s : State, mayRunAt 1 .eret s ∧ s.hasHandler ∧ savedStatusBad s.thr = true) ∧
    (∃ s : State, mayRunAt 1 .eret s ∧ s.hasHandler ∧ loadLoops s.thr.ws.loopSave = none) ∧ mayRun .uret start ∧ start.thr.status.inui = false := by
  refine ⟨⟨by decide, by decide +kernel⟩, by decide, by decide, idle_mayRun _ rfl rfl rfl rfl, idle_mayRun _ rfl rfl rfl rfl, rfl, by decide,
    idle_mayRun _ rfl rfl rfl rfl, start_mayRunAt _,
    ⟨{ start with thr := { start.thr with ws := { start.thr.ws with statusSave := 2 ^ 24 } } }, ⟨idle_mayRun _ rfl rfl rfl rfl, by decide⟩,
      ⟨rfl, rfl, by decide⟩, by decide +kernel⟩,
    ⟨{ start with thr := { start.thr with ws := { start.thr.ws with loopSave := start.thr.ws.loopSave.set 0 (2 ^ 127) } } },
      ⟨idle_mayRun _ rfl rfl rfl rfl, by decide⟩, ⟨rfl, rfl, by decide⟩, by decide +kernel⟩, start_mayRun _, rfl⟩

/-- Values at the ends of the ranges of HBIVL and SWPWP, and an armed or a tripped monitor. -/
def system : State := withS [(1, 0x1000), (2, 0x100000000), (3, 0xFFF), (4, 0x100000001), (5, 0x9800), (6, 0x4001), (7, 0x1F500), (8, 0x1F540)]

theorem system_mayRunAt (i : Instr) : mayRunAt 1 i system := ⟨idle_mayRun i rfl rfl rfl rfl, by decide⟩
theorem meets_SystemRegisters (d a : Reg) : (∀ n, n < 0x17 → (system.sysReg n).isSome = true) ∧ mayRunAt 1 (.sysr d 9) system ∧
    mayRun (.sysr d 0) user ∧ (0 : Fin 256).val ∉ [0x02, 0x03, 0x04, 0x09] ∧ mayRunAt 1 (.sysw a 0x0A) system ∧
    (system.thr.sreg 1).toNat = 2 ^ 12 ∧ (system.thr.sreg 2).toNat = 2 ^ 32 ∧ (system.thr.sreg 3).toNat = 2 ^ 12 - 1 ∧
    (system.thr.sreg 4).toNat = 2 ^ 32 + 1 ∧ system.protectedWorld system.thr.world = false ∧ system.hasHandler ∧
    mayRun (.swpwp a) system ∧ system.wpBad (system.thr.sreg 5).toNat = false ∧ system.badAt (.lm 0 0x9800) Config.wsBytes = false ∧
    system.wpBad (system.thr.sreg 6).toNat = true ∧ system.wpBad (system.thr.sreg 7).toNat = false ∧ system.wpBad (system.thr.sreg 8).toNat = true := by
  refine ⟨by decide +kernel, system_mayRunAt _, user_mayRun _, by decide, system_mayRunAt _, ?_, ?_, ?_, ?_, rfl, ⟨rfl, rfl, by decide⟩,
    (system_mayRunAt _).1, ?_, ?_, ?_, ?_, ?_⟩ <;> decide +kernel

/-- A tile instruction of the slot is outstanding, and the two levels at which SYSW writes STATUS. -/
theorem meets_SystemRegisters_more (a : Reg) : (∃ j, multiplying.outstanding multiplying.thr.id 0 = some j ∧ j.tile < 16 ∧
      0x20 ≤ j.word.toNat / 2 ^ 26 ∧ j.word.toNat / 2 ^ 26 ≤ 0x22) ∧ mayRun (.sysr 1 0x13) multiplying ∧ multiplying.outstanding multiplying.thr.id 1 = none ∧
    mayRunAt 1 (.sysw a 0x00) system ∧ mayRun (.sysw a 0x00) user ∧ mayRun (.sysw a 0x15) user ∧ user.thr.status.priv = 0 ∧
    (0x16 : Nat) < (0x17 : Fin 256).val :=
  ⟨⟨_, rfl, by decide, by decide +kernel, by decide +kernel⟩, idle_mayRun _ rfl rfl rfl rfl, rfl, system_mayRunAt _, user_mayRun _,
    user_mayRun _, rfl, by decide⟩

/-- A window for PERMIX at word 253 with N = 2^48, a save area, a leader's follower, and a high line of service core 0. -/
def monitored (b : Bool) : State :=
  { system with
    thr := { system.thr with savea := 0x4000000, monitor := some { ptr := 0x10000, line := .lm 0 0x10000, tripped := b }, role := .leader }
    mem := [(2 ^ 40 + 0x7EE, 1)] }

theorem meets_SlotWords (d a : Reg) : mayRun (.rdtime d) system ∧ mayRun (.permix d 1 253) (monitored true) ∧ windowOk (monitored true) 253 3 ∧
    ((monitored true).thr.sreg 1).toNat < ((monitored true).win 253).toNat ∧ ((monitored true).win 253).toNat = 2 ^ 48 ∧ system.hasHandler ∧
    mayRun (.permix d a 254) system ∧ mayRun .hbeat (yarded .follower) ∧ (yarded .follower).thr.role ≠ .leader ∧ mayRun .hbeat (monitored true) ∧
    (monitored true).thr.role = .leader ∧ isTransform (monitored true).thr.id = false ∧ mayRunAt 1 .halt system ∧ system.lineHigh 0 = false ∧
    mayRun .spill (monitored true) ∧ (monitored true).thr.savea ≠ 0 ∧ mayRun .spill system ∧ system.thr.savea = 0 ∧ mayRun .wfe system ∧
    system.thr.monitor = none ∧ mayRun .wfe (monitored true) ∧ mayRun .wfe (monitored false) :=
  ⟨(system_mayRunAt _).1, idle_mayRun _ rfl rfl rfl rfl, ⟨by decide, rfl⟩, by decide +kernel, by decide +kernel, ⟨rfl, rfl, by decide⟩,
    (system_mayRunAt _).1, idle_mayRun _ rfl rfl rfl rfl, by decide, idle_mayRun _ rfl rfl rfl rfl, rfl, rfl, system_mayRunAt _, by decide +kernel,
    idle_mayRun _ rfl rfl rfl rfl, by decide, (system_mayRunAt _).1, rfl, (system_mayRunAt _).1, rfl, idle_mayRun _ rfl rfl rfl rfl,
    idle_mayRun _ rfl rfl rfl rfl⟩
/-- Core 0 is service core 0, whose interrupt line is high. -/
def lined : State := { system with serviceCores := [0], fabric := { system.fabric with irq := [0] } }
theorem meets_SlotWords_line : mayRunAt 1 .halt lined ∧ lined.lineHigh lined.thr.id.core = true ∧ mayRun (.wmon 1) atLm ∧
    ∃ r u, yields (accessThen (atLm.thr.preg 1) 1 .load atLm) r u :=
  ⟨⟨idle_mayRun _ rfl rfl rfl rfl, by decide⟩, by decide +kernel, atLm_mayRun _, ⟨_, _, fun _ => rfl⟩⟩

/-- A slot of a node that stands there as given. -/
def standing (f : Thread → Thread) : State := { State.reset.placed 0 with thr := f placeThread }
/-- A slot that waits. -/
def waits (w : Wait) : State := standing fun t => { t with wait := w }
def tripped : Monitor := { ptr := 0x10000, line := .lm 0 0x10000, tripped := true }
def notified : State := standing fun t => { t with
  uivec := 0x3000, status := { t.status with uie := true }, notifies := [{ ucause := 5, acq := none }, { ucause := 6, acq := none }] }
/-- A slot that has let its heartbeat interval go by. -/
def late (w : Wait) : State := standing fun t => { t with wait := w, hbcnt := t.hbivl.toNat }
/-- Core 0 is under test, and window 3 begins with a slot waiting for it. -/
def tested : State := { State.reset.placed 0 with cores := [(0, { Core.reset with fenced := true, testing := true })] }
def windowed : State := { waits (.window 3) with time := BitVec.ofNat 64 (3 * State.reset.windowNs) }

/-- A slot that waits for no ring. -/
theorem quiet_ring {t : Thread} (h : ∀ q n w, t.wait ≠ .ring q n w) (h2 : t.stalledRing = false) : ¬ ringWaits t := by
  rintro (⟨q, n, w, e⟩ | e)
  · exact h q n w e
  · rw [h2] at e; exact Bool.noConfusion e

theorem meets_SlotEvents : (waits .monitor).focus ⟨0, 0⟩ = some (waits .monitor) ∧ (∀ w, (waits w).focus ⟨0, 0⟩ = some (waits w)) ∧
    (standing fun t => { t with wait := .monitor, monitor := some tripped }).focus ⟨0, 0⟩ =
      some (standing fun t => { t with wait := .monitor, monitor := some tripped }) ∧
    (waits (.realign 0)).thr.run = .running ∧ 0 ≤ (waits (.realign 0)).clock ∧
    notified.focus ⟨0, 0⟩ = some notified ∧ notified.thr.takesNotify = true ∧ notified.thr.between notified.clock = true ∧
    isTransform notified.thr.id = false ∧ notified.thr.notifies.length = 2 ∧ notified.thr.wait ≠ .monitor ∧
    (late (.ring 1 1 false)).expired (late (.ring 1 1 false)).thr = true ∧ nodeLives (late (.ring 1 1 false)) ∧
    (late .none).expired (late .none).thr = true ∧ nodeLives (late .none) ∧ (late .none).lateMember ⟨0, 0⟩ = none ∧
    (late (.ring 1 1 false)).lateMember ⟨0, 0⟩ = none ∧
    (late .none).awaitsFabric (late .none).thr = none ∧ isTransform ⟨0, 0⟩ = false ∧ ringWaits (late (.ring 1 1 false)).thr ∧ ¬ ringWaits (late .none).thr ∧
    (∃ t, (waits (.name 1 7 0)).thread? ⟨0, 0⟩ = some t ∧ t.wait = .name 1 7 0 ∧ ∀ n, (waits (.name 1 7 0)).node? t.node = some n → n.closing = false) ∧ (tested.core 0).testing = true ∧
    (∃ x ∈ windowed.threads, x.wait = .window 3) ∧ windowed.windowNow = 3 ∧ windowed.hostsPending = false :=
  ⟨rfl, fun _ => rfl, rfl, rfl, by decide, rfl, by decide +kernel, by decide +kernel, rfl, rfl, by decide, by decide +kernel,
    (fun n h => by cases h; exact ⟨rfl, rfl⟩), by decide +kernel, (fun n h => by cases h; exact ⟨rfl, rfl⟩), rfl, rfl, rfl, rfl, 
    .inl ⟨_, _, _, rfl⟩, quiet_ring (fun _ _ _ h => nomatch (show Wait.none = Wait.ring _ _ _ from h)) rfl,
    ⟨_, rfl, rfl, fun n h => by cases h; rfl⟩,
    by decide +kernel, ⟨_, .head _, rfl⟩, by decide +kernel, rfl⟩

/-- A slot whose store's line has waited for a Vexey port beyond its heartbeat. -/
def lateAtPort : State := standing fun t => { t with wait := .stall (.port 0x4000000000010000), hbcnt := t.hbivl.toNat, stvec := 0x1000 }
theorem meets_SlotEvents_window : lateAtPort.focus ⟨0, 0⟩ = some lateAtPort ∧ lateAtPort.expired lateAtPort.thr = true ∧ nodeLives lateAtPort ∧
    lateAtPort.lateMember ⟨0, 0⟩ = none ∧ ¬ ringWaits lateAtPort.thr ∧
    lateAtPort.awaitsFabric lateAtPort.thr = some (some 0x4000000000010000) ∧ lateAtPort.stvecOf lateAtPort.thr ≠ 0 :=
  ⟨rfl, by decide +kernel, (fun n h => by cases h; exact ⟨rfl, rfl⟩), rfl,
    quiet_ring (fun _ _ _ h => nomatch (show Wait.stall (.port 0x4000000000010000) = Wait.ring _ _ _ from h)) rfl, rfl, by decide +kernel⟩

/-- A slot held at its QWAIT for an earlier message, one of a fenced core, one that waits in WFE when a notification is due, and one
whose notification acquires at system scope. -/
def heldAtQwait : State := standing fun t => { t with wait := .stall .fence, word := encode (.qwait 1 1), hbcnt := t.hbivl.toNat }
def lateFenced : State := { late .none with cores := [(0, { Core.reset with fenced := true })] }
def notifiedInWfe (acq : Option Scope) : State :=
  { notified with thr := { notified.thr with wait := .monitor, monitor := some tripped, notifies := [{ ucause := 5, acq := acq }] } }
theorem meets_SlotEvents_more : heldAtQwait.focus ⟨0, 0⟩ = some heldAtQwait ∧ heldAtQwait.expired heldAtQwait.thr = true ∧
    ringWaits heldAtQwait.thr ∧ nodeLives heldAtQwait ∧ heldAtQwait.lateMember ⟨0, 0⟩ = none ∧
    lateFenced.focus ⟨0, 0⟩ = some lateFenced ∧ lateFenced.expired lateFenced.thr = true ∧ (lateFenced.core 0).fenced = true ∧
    (∀ a, (notifiedInWfe a).focus ⟨0, 0⟩ = some (notifiedInWfe a) ∧ (notifiedInWfe a).thr.wait = .monitor ∧
      (notifiedInWfe a).thr.takesNotify = true ∧ (notifiedInWfe a).thr.between (notifiedInWfe a).clock = true ∧
      (notifiedInWfe a).hostsPending = false) ∧ (∃ n ∈ (notifiedInWfe (some .sy)).thr.notifies, n.acq = some .sy) :=
  ⟨rfl, by decide +kernel, .inr (by decide +kernel), (fun n h => by cases h; exact ⟨rfl, rfl⟩), rfl, rfl, by decide +kernel, by decide +kernel,
    (fun a => ⟨rfl, rfl, rfl, rfl, rfl⟩), _, .head _, rfl⟩

/-- An entry of core 0 for one word of line 0x10000 of HBM, written by slot 0. -/
def anEntry (h : Home) (sent waiting : Bool) : SbEntry :=
  { line := h, mask := 0xF, data := 0x11223344, sent := sent, born := 0, va := 0x4000000000010000, world := 0, target := 0, writers := [0],
    share := .shared, asids := [0], order := sent.toNat, ring := false, waiting := waiting }
def withEntry (e : SbEntry) : State := { State.reset.placed 0 with sb := [(0, [e])] }

/-- A load of 4 bytes at 0x10000 of the own LM on its way, alone or before another of a gather. -/
def loading (l : List LaneReq) : State :=
  waits (.access { lanes := l, got := [], dest := .load 7 4 false, upd := none, acq := none, hnt := false, tag := none })
/-- An atomic on its way. -/
def adding : State :=
  waits (.access { lanes := [lane0 4], got := [], dest := .atomic 7 (.amo .add .w32 1), upd := none, acq := none, hnt := false, tag := none })

theorem meets_AccessEvents_lines : (∃ e, ((withEntry (anEntry (.hbm 0x10000) true false)).sbOf 0)[0]? = some e ∧ e.sent = true ∧ e.waiting = false ∧
      earlierInList ((withEntry (anEntry (.hbm 0x10000) true false)).sbOf 0) e = false ∧
      (withEntry (anEntry (.hbm 0x10000) true false)).releasedBefore 0 e = true ∧ e.toDirectory = false ∧
      (withEntry (anEntry (.hbm 0x10000) true false)).lineReady e = true ∧ e.line = .hbm (64 * 0x400)) ∧
    (withEntry (anEntry (.hbm 0x10000) true false)).memOk ∧
    (∃ e, ((withEntry (anEntry (.hbm 0x10000) false false)).sbOf 0)[0]? = some e ∧ e.sent = false ∧
      e.born + Config.sbTimeout ≤ ({ withEntry (anEntry (.hbm 0x10000) false false) with clock := Config.sbTimeout } : State).clock) :=
  ⟨⟨_, rfl, rfl, rfl, by decide +kernel, by decide +kernel, rfl, by decide +kernel, rfl⟩, by unfold State.memOk; decide +kernel,
    ⟨_, rfl, rfl, by decide +kernel⟩⟩
/-- Homes that keep bytes: HBM, another core's LM, a bank; and a store to the directory's page. -/
theorem meets_AccessEvents_homes : (∃ k, Home.key (.hbm 0x10000) = some k) ∧ (∃ k, Home.key (.lm 1 0x10040) = some k) ∧
    (∃ k, Home.key (.sram 0 0x40) = some k) ∧ 0x10000 % 64 = 0 ∧ (withEntry (anEntry (.hbm 0x10000) true false)).sealedFor (0x10000 / 64) = none ∧
    (anEntry (.ctl 0xFFF0000100000) true false).toDirectory = true ∧
    (withEntry (anEntry (.ctl 0xFFF0000100000) true false)).dirTurn (.store 0 (anEntry (.ctl 0xFFF0000100000) true false).order) = true ∧
    (withEntry (anEntry (.ctl 0xFFF0000100000) true false)).lineReady (anEntry (.ctl 0xFFF0000100000) true false) = true :=
  ⟨⟨_, rfl⟩, ⟨_, rfl⟩, ⟨_, rfl⟩, by decide, rfl, by decide +kernel, by decide +kernel, rfl⟩

/-- A load and an atomic of core 0 at the LM of core 1, performed there. -/
def awayAt (d : AccessDest) (h : Home) : State :=
  waits (.access { lanes := [{ home := h, ea := 0, n := 4, leaf := none }], got := [], dest := d, upd := none, acq := none, hnt := false, tag := none })
theorem meets_AccessEvents_away : let x : LaneReq := { home := .lm 1 0x10080, ea := 0, n := 4, leaf := none };
    let l := awayAt (.load 7 4 false) x.home; let a := awayAt (.atomic 7 (.amo .add .w32 1)) x.home;
    l.focus ⟨0, 0⟩ = some l ∧ l.nowStep (.load 7 4 false) x false = none ∧ l.earlierMessage 0 x.home = false ∧ l.snooped x = false ∧
    (∃ k, x.home.key = some k) ∧ l.homeCheck (some l.thr.id.core) x.home x.n false false = .ok ∧ l.badAt x.home x.n = false ∧
    x.home.isGlobal = false ∧ x.leaf = none ∧ a.focus ⟨0, 0⟩ = some a ∧ a.nowStep (.atomic 7 (.amo .add .w32 1)) x false = none ∧
    a.homeCheck (some a.thr.id.core) x.home x.n true false = .ok ∧ (a.markWrite x).badAt x.home x.n = false ∧
    (a.markWrite x).tagFails x.home x.n = false :=
  ⟨rfl, rfl, rfl, rfl, ⟨_, rfl⟩, rfl, rfl, rfl, rfl, rfl, rfl, rfl, rfl, rfl⟩

theorem meets_AccessEvents_loads : (loading [lane0 4]).focus ⟨0, 0⟩ = some (loading [lane0 4]) ∧
    (∃ l g, (loading [lane0 4]).nowStep (.load 7 4 false) (lane0 4) false = some (.value l g)) ∧
    (∃ l g, (loading [lane0 4, lane0 4]).nowStep (.load 7 4 false) (lane0 4) false = some (.value l g)) ∧
    (∃ l g, adding.nowStep (.atomic 7 (.amo .add .w32 1)) (lane0 4) false = some (.value l g)) :=
  ⟨rfl, ⟨_, _, rfl⟩, ⟨_, _, rfl⟩, ⟨_, _, rfl⟩⟩
theorem meets_AccessEvents_walks : 0 < Config.clusters ∧ (State.reset.placed 0).tlbFind (.l2 0) 0 0 = none ∧
    (∃ l, (State.reset.placed 0).walk 0 0 = .ok l ∧ leafDenies ((State.reset.placed 0).markAccessed l).1.word .store false = none) ∧
    ∃ x, (State.reset.placed 0).walk 1 0 = .error x :=
  ⟨by decide, by decide +kernel, ⟨_, rfl, by decide +kernel⟩, ⟨_, rfl⟩⟩
/-- A wait for two slots of a ring of two whose TAIL is 2, and for two free ones. -/
def ringWaiting (q : QReg) (w : Bool) (tail : List (Nat × Byte)) : State :=
  { ringed with thr := { ringed.thr with wait := .ring q 2 w }, mem := tail ++ ringed.mem }
theorem meets_SlotEvents_rings :
    (∃ r u, yields (controlThen ((ringWaiting 1 false [(2 ^ 40 + 0x10000, 2)]).thr.qreg 1) .load (ringWaiting 1 false [(2 ^ 40 + 0x10000, 2)])) r u ∧
      2 ≤ (u.ringTail r.home + 2 ^ 32 - 0) % 2 ^ 32) ∧ (ringWaiting 1 false [(2 ^ 40 + 0x10000, 2)]).qOk (ringWord 1) = true ∧
    (∃ r u, yields (controlThen ((ringWaiting 2 true []).thr.qreg 2) .load (ringWaiting 2 true [])) r u ∧ 2 + (0 + 2 ^ 32 - u.ringHead r.home) % 2 ^ 32 ≤ 2) ∧
    (ringWaiting 2 true []).focus ⟨0, 0⟩ = some (ringWaiting 2 true []) ∧ (ringWaiting 2 true []).qOk (ringWord 2) = true ∧
    ((ringWaiting 2 true []).thr.qreg 2) = ringWord 2 ∧ (ringWord 2).toNat % 2 ^ 32 = 0 ∧ qCap (ringWord 2) = 2 := by
  refine ⟨⟨_, _, fun _ => rfl, ?_⟩, ?_, ⟨_, _, fun _ => rfl, ?_⟩, rfl, ?_, ?_, ?_, ?_⟩ <;> decide +kernel

/-- A module whose one node stands as given. -/
def noded (f : Node → Node) : State := { State.reset.placed 0 with nodes := [f placeNode] }

/-- Its node is in the deferred list, or has its leases next: one table grants a page, others are malformed, name an absent page, or
one without permission. -/
def deferredNode : State := (noded fun n => { n with phase := .deferred }).setDie 0 { Die.reset with deferred := [1] }
def leasing : State := { noded fun n => { n with phase := .leasing, service := false } with serviceCores := [0] }
def wide : State := { noded fun n => { n with phase := .leasing, service := false, width := 65 } with serviceCores := [0] }
def leaseTable (base len : Nat) : List Byte := toBytes 8 base ++ toBytes 8 (2 ^ 63 + 2 ^ 62 + len) ++ List.replicate 112 0

def leaseEntry (base : DWord) (h : Bool) : LeaseEntry := { base := base, rw := true, hform := h, len := 0x1000 }

/-- What the lease unit does with a table: it grants it, waits for a page, ends the node, or has to wait itself. -/
def leasingKind {α : Type} : Leasing α → Nat
  | .ok _ _ => 0
  | .waits _ => 1
  | .ends _ => 2
  | .hold _ => 3
theorem leasingKind_of {α : Type} {r : Leasing α} : (leasingKind r = 0 → ∃ g u, r = .ok g u) ∧ (leasingKind r = 1 → ∃ w, r = .waits w) ∧
    (leasingKind r = 2 → ∃ c, r = .ends c) := by
  cases r <;> exact ⟨fun h => by simp_all [leasingKind], fun h => by simp_all [leasingKind], fun h => by simp_all [leasingKind]⟩

/-- The state in which the unit grants an entry, and what comes of it. -/
def granting : State := leasing.dirServed (.lease 1)
def grants (base : DWord) (h : Bool) : Leasing (List Grant) := grantEntries placeNode [leaseEntry base h] [] granting

theorem meets_SchedulerEvents_leases : (deferredNode.die 0).deferred = [1] ∧ deferredNode.poolFull 0 = false ∧ (deferredNode.node? 1).isSome = true ∧
    (∃ n, leasing.node? 1 = some n ∧ n.phase = .leasing ∧ n.closing = false ∧ leasing.pageWaits n.die < Config.leaseUnitNodes ∧
      leasing.tooWide n = false ∧ (∃ l t, leasing.readTable n = .ok l t ∧ leaseEntries l 8 = some [] ∧ t.dirTurn (.lease n.id) = true)) ∧
    (∃ w, leasing.readTable { placeNode with ltab := 0x4000800000000000 } = .waits w) ∧
    wide.node? 1 = some { placeNode with phase := .leasing, service := false, width := 65 } ∧ wide.tooWide { placeNode with phase := .leasing, service := false, width := 65 } = true ∧
    leaseEntries (leaseTable 0x4000000000010000 0x1000) 8 = some [leaseEntry 0x4000000000010000 false] ∧
    leaseEntries (leaseTable 0 0x1000) 8 = none :=
  ⟨by decide +kernel, by decide +kernel, by decide +kernel,
    ⟨_, rfl, rfl, rfl, by decide +kernel, by decide +kernel, List.replicate 128 0, leasing, rfl, by decide +kernel, rfl⟩,
    leasingKind_of.2.1 (by decide +kernel), rfl, by decide +kernel, by decide +kernel, by decide +kernel⟩
theorem meets_SchedulerEvents_grants : (∃ g u, grants 0x4000000000010000 false = .ok g u) ∧
    (∃ w, grants 0x4000800000000000 false = .waits w) ∧ (∃ w, grants 0x407FFFFFFFFFFFFF false = .waits w) ∧ ∃ c, grants 0 true = .ends c :=
  ⟨leasingKind_of.1 (by decide +kernel), leasingKind_of.2.1 (by decide +kernel), leasingKind_of.2.1 (by decide +kernel),
    leasingKind_of.2.2 (by decide +kernel)⟩

/-- A node that waits for a place of its width at a cycle. -/
def passedOver (width now : Nat) : State :=
  { noded fun n => { n with phase := .ready, passedSince := some 0, width := width, service := false, id := 2 } with clock := now }

/-- Only cluster 0 has 64 compute cores, other nodes hold slots 1 to 7 of its core 1, and a node of the lowest priority, which may be
spilled, holds slot 0 of core 0. -/
def crowdedOut : State :=
  { passedOver 64 4096 with
    thr := { placeThread with savea := 0x4000000 }
    nodes := (passedOver 64 4096).nodes ++ [{ placeNode with prio := 3, service := false }]
    others := (List.range 7).map (fun k => { placeThread with id := ⟨1, k + 1⟩, node := 3 })
    serviceCores := (List.range 15).map (fun k => 64 * (k + 1)) }

/-- A node placed and not launched yet. -/
def placedNode : State := noded fun n => { n with phase := .placed }

/-- A slot with a save area whose turn at the spill engine has come, and a node placed again with its saved member. -/
def spilling : State :=
  { State.reset.placed 0 with thr := { placeThread with savea := 0x4000000 }, spillQueue := [⟨0, 0⟩] }
def savedMember : SavedMember :=
  { thr := placeThread, det := false, lbl := false, tiles := [], groups := [], jobs := [], window := List.replicate 256 0, area := 0x4000000,
    savedAt := 0, waited := 0 }
def resuming : State := noded fun n => { n with phase := .placed, saved := [savedMember] }

theorem meets_SchedulerEvents_choice : ((passedOver 1 0).die 0).nextDecision ≤ (passedOver 1 0).clock ∧ (passedOver 1 0).trust.lock = true ∧
    ((passedOver 1 0).waiting 0).length = 1 ∧
    (∃ n, (passedOver 1 65536).node? 2 = some n ∧ n.waits = true ∧ n.passedSince = some 0 ∧ 65536 ≤ (passedOver 1 65536).clock ∧
      ((passedOver 1 65536).die n.die).reserving = []) :=
  ⟨by decide +kernel, rfl, by decide +kernel, ⟨_, rfl, rfl, rfl, by decide +kernel, rfl⟩⟩
/-- The one compute node that waits there is chosen; and a service node that waits alone where core 0 is a service core. -/
def choosing : State := passedOver 1 0
def serving : State := { noded fun n => { n with phase := .ready, service := true } with serviceCores := [0] }
theorem meets_SchedulerEvents_chosen :
    ((chooseClass ((choosing.waiting 0).filter (fun n => !n.service && choosing.fits n)) 0 ((choosing.die 0).classes.mapIdx (fun k c =>
      c.relist ((choosing.waiting 0).filter (fun n => !n.service && n.prio.toNat = k))))).1.map (·.id)) = some 2 ∧
    (choosing.node? 2).map (·.id) = some 2 ∧ ((choosing.waiting 0).filter (fun n => n.service && choosing.fits n)).length = 0 ∧
    ((serving.waiting 0).filter (fun n => n.service && serving.fits n)).map (·.id) = [1] ∧
    (serving.waiting 0).all (fun n => n.service) = true ∧ (serving.die 0).nextDecision ≤ serving.clock := by
  refine ⟨?_, ?_, ?_, ?_, ?_, ?_⟩ <;> decide +kernel
theorem meets_SchedulerEvents_member : start.memOk ∧ (List.replicate 2048 (0 : Byte)).length = 2048 ∧ (⟨8191, 7⟩ : SlotId).core < Config.cores ∧
    (⟨8191, 7⟩ : SlotId).slot < 8 := ⟨rfl, List.length_replicate, by decide, by decide⟩
theorem meets_SchedulerEvents_quiet : spilling.awaitsHosts none spilling.thr.area 0x110000 = false ∧
    resuming.awaitsHosts none savedMember.area savedMember.areaLen = false := ⟨rfl, rfl⟩
theorem crowdedOut_elsewhere : ∀ q : Fin 16, q = 0 ∨ (crowdedOut.coresOf q.val false).length < 64 := by decide +kernel
theorem crowdedOut_here : ∀ k : Fin 8, (crowdedOut.freeCores 0 k.val false).length < 64 := by decide +kernel
/-- The node that waits there fits nowhere. -/
def tooBig : Node := { placeNode with phase := .ready, passedSince := some 0, width := 64, service := false, id := 2 }
theorem crowdedOut_fits : crowdedOut.fits tooBig = false := by
  have h : crowdedOut.placements tooBig = [] := by
    refine List.filter_eq_nil_iff.mpr fun x hx => ?_
    obtain ⟨y, hy, rfl⟩ := List.mem_map.mp hx
    obtain ⟨q, hq, hm⟩ := List.mem_flatMap.mp (List.mem_filter.mp hy).1
    obtain ⟨k, hk, rfl⟩ := List.mem_map.mp hm
    rw [List.mem_range] at hq hk
    have hz : 16 * tooBig.die + q = q := Nat.zero_add q
    have : (crowdedOut.freeCores q k false).length < 64 := by
      rcases crowdedOut_elsewhere ⟨q, hq⟩ with h | h
      · cases h; exact crowdedOut_here ⟨k, hk⟩
      · exact Nat.lt_of_le_of_lt (List.length_filter_le _ _) h
    intro hw
    exact absurd (of_decide_eq_true hw) (by rw [show (16 * tooBig.die + q, k).1 = q from hz]; exact Nat.not_le.mpr this)
  have hr : tooBig.resumes = false := rfl
  unfold State.fits
  rw [hr, h]; rfl

theorem meets_SchedulerEvents_priority : ∃ n, crowdedOut.node? 2 = some n ∧ n.waits = true ∧ n.passedSince = some 0 ∧ 4096 ≤ crowdedOut.clock ∧
    n.service = false ∧ (crowdedOut.die n.die).reserving = [] ∧ crowdedOut.fits n = false ∧
    (∃ v, crowdedOut.victimFor n = some v ∧ ∃ p, crowdedOut.roomWith n v = some p) :=
  ⟨tooBig, rfl, rfl, rfl, by decide +kernel, rfl, rfl, crowdedOut_fits, { placeNode with prio := 3, service := false }, by decide +kernel,
    Option.isSome_iff_exists.mp (by decide +kernel)⟩
theorem meets_SchedulerEvents_places : (∃ n, placedNode.node? 1 = some n ∧ n.phase = .placed ∧ n.saved = [] ∧ n.closing = false ∧
      placedNode.trust.lock = true ∧ ∃ b t, placedNode.readBlock n = .done b t) ∧
    spilling.focus ⟨0, 0⟩ = some spilling ∧ spilling.beingSpilled ⟨0, 0⟩ = true ∧ spilling.faultUnitFull 0 = false ∧
    (∃ n, spilling.node? spilling.thr.node = some n ∧ n.closing = false ∧ n.phase = .running ∧
      spilling.areaOk n spilling.thr.area (0x1480 + ((spilling.ownTiles ⟨0, 0⟩).map (fun x => tileRoom x.2.2)).foldl (· + ·) 0 +
        1344 * (spilling.ownGroups ⟨0, 0⟩).length) true = true) ∧ spilling.thr.spillable spilling.clock = true ∧
    (∃ n, resuming.node? 1 = some n ∧ n.phase = .placed ∧ n.saved = [savedMember] ∧ n.closing = false ∧ n.saved.all resuming.canReclaim = true ∧
      resuming.held n.recordUnit + n.saved.length ≤ Config.faultUnitRecords ∧
      resuming.areaOk n savedMember.area savedMember.areaLen false = true ∧ resuming.lostMember n = false) :=
  ⟨⟨_, rfl, rfl, rfl, rfl, rfl, _, _, rfl⟩, rfl, by decide +kernel, by decide +kernel, ⟨_, rfl, rfl, rfl, by decide +kernel⟩,
    by decide +kernel, ⟨_, rfl, rfl, rfl, rfl, by decide +kernel, by decide +kernel, by decide +kernel, by decide +kernel⟩⟩

/-- A message to a package about byte 0x10000 of its HBM. -/
def message (op : BitVec 4) (pkg : BitVec 8) : Message := { mask := 0xF, op := op, world := 1, tag := 1, pkg := pkg, pa := 0x10000 }

/-- The ports admit requests to package 5, which has answered none of the given one yet. -/
def ported (items : List VexeyItem) (s : State) : State :=
  { s with fabric := { s.fabric with sync := true, routes := [(5, 2 ^ 63)], items := items } }
def itemFor (req : VexeyReq) : VexeyItem :=
  { req := req, pkg := 5, world := 1, tag := 1, window := 0, link := 0, cl := 0, line := .peer 5 0x10000, stale := false, retried := false, past := false,
    sent := { msg := message 1 5, payload := 0, atomic := none } }
def peerEntry (waiting : Bool) : SbEntry := anEntry (.peer 5 0x10000) true waiting
def farCopy : Cmd := { copyCmd with src := 0x4000000000010000, st := .running }
/-- Slot 0 waits for an atomic at package 5. -/
def peerLane : LaneReq := { home := .peer 5 0x10000, ea := 0x4000000000010000, n := 4, leaf := none }
def farAtomic : State :=
  waits (.access { lanes := [peerLane], got := [], dest := .atomic 7 (.amo .add .w32 1), upd := none, acq := none, hnt := false, tag := some 1 })

/-- World 1 may read and write the frames of worlds 0 and 1; world 2 is protected, and its message carries no seal. -/
def opened : State :=
  { State.reset.placed 0 with trust := { (State.reset.placed 0).trust with fwrow := [0xFFFFFFFF, 0x30003], prot := 4 } }
/-- World 1 may touch no frame. -/
def shutOff : State := { State.reset.placed 0 with trust := { (State.reset.placed 0).trust with fwrow := [0xFFFFFFFF] } }
def unsealed (op : BitVec 4) (pkg : BitVec 8) : Message := { message op pkg with world := 2 }

theorem meets_FabricEvents_requests : (∀ op, forUs (State.reset.placed 0) (message op 0)) ∧ (message 1 5).pkg ≠ (State.reset.placed 0).fabric.pkgid ∧
    (ported [] (State.reset.placed 0)).linkTo 5 = some 0 ∧ (∀ op, forUs opened (message op 0)) ∧ forUs opened (unsealed 1 0) ∧
    opened.openMessage (message 1 0) 7 none = some 7 ∧ opened.openMessage (message 4 0) 0 (some .dec) = some 0 ∧
    opened.openMessage (unsealed 1 0) 7 none = none ∧
    opened.writeAdmitted (message 1 0) = true ∧ shutOff.writeAdmitted (message 1 0) = false ∧
    opened.readDenied (message 2 0) 0x10000 64 false = false ∧ shutOff.readDenied (message 2 0) 0x10000 64 false = true ∧
    opened.readDenied (message 4 0) 0x10000 4 true = false ∧
    ((ported [] (withEntry (peerEntry true))).sbOf 0)[0]? = some (peerEntry true) ∧ (peerEntry true).line = .peer 5 0x10000 ∧
    (peerEntry true).waiting = true ∧ waitsBefore ((ported [] (withEntry (peerEntry true))).sbOf 0) (peerEntry true) = false ∧
    ((ported [] (withEntry (peerEntry true))).admitRequest (.line 0 (peerEntry false)) 1 5 0x10000 0xF 0 0x11223344 none).isSome = true := by
  refine ⟨fun _ => ⟨rfl, rfl⟩, by decide, ?_, fun _ => ⟨rfl, rfl⟩, ⟨rfl, rfl⟩, ?_, ?_, ?_, ?_, ?_, ?_, ?_, ?_, rfl, rfl, rfl, ?_, ?_⟩ <;>
    decide +kernel
theorem meets_FabricEvents_answers :
    (ported [itemFor (.line 0 (peerEntry false))] (withEntry (peerEntry false))).itemOf (message 6 5) = some (itemFor (.line 0 (peerEntry false))) ∧
    (ported [itemFor (.write (.slot ⟨0, 0⟩))] (State.reset.placed 0)).itemOf (message 6 5) = some (itemFor (.write (.slot ⟨0, 0⟩))) ∧
    (ported [itemFor (.chunk 1)] (queued farCopy [])).itemOf (message 3 5) = some (itemFor (.chunk 1)) ∧
    (ported [itemFor (.chunk 1)] (queued farCopy [])).openMessage (message 3 5) 7 none = some 7 ∧
    (ported [itemFor (.chunk 1)] (queued farCopy [])).cmds.find? (fun c => c.id = 1) = some farCopy ∧
    (∃ p n, (ported [itemFor (.chunk 1)] (queued farCopy [])).nextPiece farCopy = some (p, n)) ∧
    (ported [itemFor (.access ⟨0, 0⟩)] farAtomic).itemOf (message 5 5) = some (itemFor (.access ⟨0, 0⟩)) ∧
    (ported [itemFor (.access ⟨0, 0⟩)] farAtomic).openMessage (message 5 5) 7 none = some 7 ∧
    (∃ f r, ((ported [itemFor (.access ⟨0, 0⟩)] farAtomic).dropItem (itemFor (.access ⟨0, 0⟩))).focus ⟨0, 0⟩ = some f ∧ f.thr.wait = .access r ∧
      r.lanes = [peerLane] ∧ r.tag = some 1 ∧ peerLane.home.line = (itemFor (.access ⟨0, 0⟩)).line ∧ (atomicOf r.dest).isSome = true) ∧
    (ported [itemFor (.access ⟨0, 0⟩)] opened).itemOf (unsealed 3 5) = some (itemFor (.access ⟨0, 0⟩)) ∧
    (ported [itemFor (.access ⟨0, 0⟩)] opened).openMessage (unsealed 3 5) 7 none = none ∧
    (itemFor (.access ⟨0, 0⟩)).retried = false ∧ (itemFor (.access ⟨0, 0⟩)).req.ofCmd = none :=
  ⟨rfl, rfl, rfl, rfl, rfl, ⟨_, _, rfl⟩, rfl, rfl, ⟨_, _, rfl, rfl, rfl, rfl, rfl, rfl⟩, rfl, rfl, rfl, rfl⟩

/-- The shared clock in and out of sync, at the ends of the ranges, and a line that a host may hold. -/
def clocked (sync : Bool) (ofs : BitVec 32) (since : Option Nat) (now : Nat) : State :=
  { State.reset.placed 0 with
    fabric := { (State.reset.placed 0).fabric with sync := sync, ofs := ofs, syncAt := 0, goodSince := since, hostLines := [(0x400, 1)] }
    time := BitVec.ofNat 64 now }
theorem meets_FabricEvents_clock : (clocked true 251 none 0).fabric.sync = true ∧ 250 < (clocked true 251 none 0).fabric.ofs.toInt.natAbs ∧
    250 < (clocked true 0xFFFFFF05 none 0).fabric.ofs.toInt.natAbs ∧
    (clocked true 0 none 1000000).fabric.syncAt + 1000000 ≤ (clocked true 0 none 1000000).time.toNat ∧
    (clocked false 100 (some 0) 10002432).fabric.sync = false ∧ 0 + 10000000 ≤ (clocked false 100 (some 0) 10002432).windowNow * State.reset.windowNs ∧
    (({ clocked false 100 (some 0) 10002432 with fabric := { (clocked false 100 (some 0) 10002432).fabric with syncAt := 9500000 } } : State).time.toNat) <
      9500000 + 1000000 ∧ (0x400, 1) ∈ (clocked true 0 none 0).fabric.hostLines := by
  refine ⟨rfl, ?_, ?_, ?_, rfl, ?_, ?_, .head _⟩ <;> decide +kernel

/-- A module whose ports are endpoints of world 1, which may read and write worlds 0 and 1. The address space of ASID 1 maps 0x400000 for
it, launch window 63 is enabled for it, device 7 has an entry of REQMAP, and a record lies at 0x400000. No function is in reset, or
port 1's is. -/
def hosted (inReset : List Nat) : State :=
  { State.reset.placed 0 with
    trust := { (State.reset.placed 0).trust with fwrow := [0xFFFFFFFF, 0x30003] }
    fabric := { (State.reset.placed 0).fabric with lwcfg := [(63, 0x8001000000010000)], inReset := inReset, reqmap := [(7, 0x8001000000000001)] }
    mem := [(0, 1), (2, 16), (8, 1), (10, 17), (0x100000, 255), (0x110000, 0xFF), (0x110006, 0x10), (0x40002D, 8), (0x400030, 1), (0x400032, 1)] }
def submission : List Byte := toBytes 8 0x4000000000400000 ++ List.replicate 56 0
/-- The port reads and writes the record for world 1. -/
def hostUser : EngineUser := portUser 0 0 1 1

theorem meets_HostEvents_bytes : (hosted []).unreadable 0x400000 64 = false ∧
    ({ hosted [] with bad := [0x80000] } : State).unreadable 0x400000 64 = true := by refine ⟨?_, ?_⟩ <;> decide +kernel
theorem meets_HostEvents_memory : (hosted []).isEndpoint 0 = true ∧ (0x400000 + [(1 : Byte)].length ≤ Config.hbmBytes) ∧
    (hosted []).admitsFrames ((hosted []).portWorld 0) 0x400000 1 false true = true ∧
    shutOff.admitsFrames (shutOff.portWorld 0) 0x400000 1 false true = false ∧
    (hosted [1]).isEndpoint 1 = true ∧ (hosted [1]).fabric.inReset.contains 1 = true ∧ (hosted [1]).fabric.inReset.contains 0 = false ∧
    (hosted []).admitsFrames ((hosted []).portWorld 0) 0x400000 64 true false = true ∧
    shutOff.admitsFrames (shutOff.portWorld 0) 0x400000 64 true false = false := by
  refine ⟨rfl, ?_, ?_, ?_, rfl, rfl, rfl, ?_, ?_⟩ <;> decide +kernel

/-- What an engine step ends with. -/
def stepDone : EngineStep → Option (List Byte)
  | .done l _ => some l
  | _ => none
theorem stepDone_of {r : EngineStep} {l : List Byte} (h : stepDone r = some l) : ∃ t, r = .done l t := by
  cases r with
  | done m t => cases h; exact ⟨t, rfl⟩
  | _ => cases h
def stepState (s : State) : EngineStep → State
  | .done _ t => t
  | _ => s
/-- The record and the state in which it has been read. -/
def hostRecord : List Byte := List.replicate 45 0 ++ [8, 0, 0, 1, 0, 1] ++ List.replicate 77 0
def recordAt : State := stepState (hosted []) ((hosted []).engineReadRange hostUser 0x4000000000400000 128)

theorem meets_HostEvents_launch : (0x3F040 / 0x1000 < 64 ∧ 0x3F040 % 64 = 0) ∧ (assocD (hosted []).fabric.lwcfg 63 0).getLsbD 63 = true ∧
    (assocD (hosted []).fabric.lwcfg 0 0 : DWord).getLsbD 63 = false ∧ submission.length = 64 ∧ (hosted []).poolFull 0 = false ∧
    descriptorOk (wordAt submission) = true ∧ (∃ t, (hosted []).engineReadRange hostUser 0x4000000000400000 128 = .done hostRecord t) ∧
    (checkRecord true 1 1 hostRecord 0x4000000000400000).toOption.isSome = true ∧
    descriptorOk (wordAt (List.replicate 64 1)) = false ∧ (List.replicate 64 (1 : Byte)).length = 64 ∧
    (checkRecord true 1 1 (List.replicate 128 0) 0x4000000000400000).toOption.isSome = false ∧
    (∃ w v, recordAt.writeNodeId hostUser 0x4000000000400000 = .done w v) :=
  ⟨by decide, by decide +kernel, by decide +kernel, by decide +kernel, rfl, by decide +kernel, stepDone_of (by decide +kernel), by decide +kernel,
    by decide +kernel, rfl, by decide +kernel, [], stepDone_of (by decide +kernel)⟩
/-- The same module self-hosted. -/
def selfHosted : State := { hosted [] with typel := { (hosted []).typel with selfHosted := true } }
/-- A device's write of 4 bytes for ASID 1, or for ASID 2, which maps nothing: what becomes of it. -/
def dmaOf (asid : BitVec 16) : Except DWord (List LaneReq) × State := dmaLanes asid .engWrite (cutPieces 64 2 0x400000 4) selfHosted []
def dmaDone (r : Except DWord (List LaneReq) × State) (world : BitVec 4) : Option (Bool × Nat) :=
  match r with
  | (.ok l, t) => some (l.all (t.dmaAdmits 0 world false), (dmaWrite (deviceAgent 0) world l [1, 2, 3, 4] 0 t).1)
  | _ => none

theorem meets_HostEvents_devices : selfHosted.typel.selfHosted = true ∧ (0x400000 + [(1 : Byte), 2, 3, 4].length ≤ 2 ^ 55) ∧
    (assocD selfHosted.fabric.reqmap 8 0 : DWord).getLsbD 63 = false ∧ (assocD selfHosted.fabric.reqmap 7 0 : DWord).getLsbD 63 = true ∧
    assocD selfHosted.fabric.begun 2 0 = 0 ∧ dmaDone (dmaOf 1) 1 = some (true, 4) ∧ (dmaDone (dmaOf 1) 5).map Prod.fst = some false ∧
    dmaDone (dmaOf 2) 1 = none ∧ 0 < (hosted []).serviceCores.length ∧ 0 ∉ (hosted []).fabric.inReset ∧ 1 ∈ (hosted [1]).fabric.inReset := by
  refine ⟨rfl, ?_, ?_, ?_, rfl, ?_, ?_, ?_, ?_, ?_, ?_⟩ <;> decide +kernel

/-- Ring 0 holds 63 of its 64 records, and one waits for it. -/
def ringing : State :=
  { opened with ctl :=
    { opened.ctl with
      rings := [(0, { base := 0x800000, log2 := 6, prod := 63, cons := 0 })]
      records := [{ unit := .fault 0, ring := 0, w0 := 1, w1 := 2, w2 := 3, w3 := 4 }] } }
theorem meets_HostEvents_records : (∃ r l, takeRecord 0 ringing.ctl.records = some (r, l)) ∧ (ringing.ring 0).takes = true ∧
    ringing.ringStands (ringing.ring 0) = true ∧ ringing.awaitsHosts none (ringing.ring 0).slot 32 = false :=
  ⟨⟨_, _, rfl⟩, by decide +kernel, by decide +kernel, rfl⟩
theorem meets_HostEvents_quiet : (hosted []).awaitsHosts (some 0) 0x400000 64 = false ∧ (hosted []).memOk ∧
    (∀ k, (hosted []).sealedFor k = none) ∧ selfHosted.writesOut (deviceAgent 0) = false :=
  ⟨rfl, by unfold State.memOk; decide +kernel, fun _ => rfl, rfl⟩

/-- A load of package 5's bytes that waits for its READ_DATA; a later write may have passed (stale), or not. -/
def farLoad : State :=
  waits (.access { lanes := [peerLane], got := [], dest := .load 7 4 false, upd := none, acq := none, hnt := false, tag := some 1 })
def readItem (stale : Bool) : VexeyItem := { itemFor (.access ⟨0, 0⟩) with stale := stale }
theorem meets_FabricEvents_reads (stale : Bool) : (ported [readItem stale] farLoad).itemOf (message 3 5) = some (readItem stale) ∧
    (ported [readItem stale] farLoad).openMessage (message 3 5) 7 none = some 7 ∧
    (∃ f r, ((ported [readItem stale] farLoad).dropItem (readItem stale)).focus ⟨0, 0⟩ = some f ∧ f.thr.wait = .access r ∧
      r.lanes = [peerLane] ∧ r.tag = some 1 ∧ peerLane.home.line = (readItem stale).line ∧ (atomicOf r.dest).isSome = false) ∧
    (readItem stale).stale = stale := by
  cases stale <;> exact ⟨rfl, rfl, ⟨_, _, rfl, rfl, rfl, rfl, rfl, rfl⟩, rfl⟩

/-- An invalidation of ASID 1's pages is in progress, or none. -/
def invalidating : State := { State.reset.placed 0 with ctl := { (State.reset.placed 0).ctl with tinv := [0x0001000000000000] } }
/-- Node 1 waits for the OS; core 0 is fenced; bank 5 of cluster 1 switches to SRAM mode. -/
def controlled (held : List DWord) : State :=
  { noded fun n => { n with phase := .pageWait } with
    cores := [(0, { Core.reset with fenced := true })]
    banks := [((1, 5), { Bank.reset with switching := some (1, false), held := held })] }

theorem meets_ControlEvents_node : invalidating.ctl.tinv = [0x0001000000000000] ∧ invalidating.invalidationWaits 0x0001000000000000 = false ∧
    (State.reset.placed 0).node? ((0x500000002 : DWord).toNat % 2 ^ 32) = none ∧ ((controlled []).node? ((0x500000001 : DWord).toNat % 2 ^ 32)).isSome = true ∧
    causeOfCode ((0x500000001 : DWord).toNat / 2 ^ 32 % 2 ^ 8) = some .wsalias ∧
    (∃ n, (controlled []).node? ((1 : DWord).toNat % 2 ^ 32) = some n ∧ n.phase = .pageWait) ∧ coordOk (0 : DWord).toNat = true ∧
    ((controlled []).core (coordCore (0 : DWord).toNat)).fenced = true ∧ (controlled []).dirBlocked = false ∧ 2 ^ 16 ≤ (0x10000 : DWord).toNat ∧
    (0xFFFF8 < 0x100000 ∧ 0xFFFF8 % 8 = 0) ∧ 0xFFE0001FFFFF8 % 8 = 0 ∧ (ctlRegion 0xFFE0001FFFFF8).isSome = true ∧
    ctlRegion 0xFFE0001FFFFF8 ≠ some 0 ∧ (ctlRegion 0xFFF0000DFFFF8).isSome = true := by
  refine ⟨rfl, ?_, rfl, rfl, ?_, ⟨_, rfl, rfl⟩, ?_, ?_, ?_, ?_, ?_, ?_, ?_, ?_, ?_⟩ <;> decide +kernel

/-- A routine store at rest, which names routine 7 to load or to unload; and one whose load of an image at 0x400000 is in progress, with
a good image of one word, or none, there. -/
def storing7 (unload : Bool) : State :=
  (State.reset.placed 0).setRoutineReg 1 { rsnum := if unload then 0x107 else 7, busy := false, fail := false, loading := none }
def loading7 (good : Bool) : State :=
  { (State.reset.placed 0).setRoutineReg 1 { rsnum := 7, busy := true, fail := false, loading := some (0x400000, 7) } with
    mem := if good then [(0x400000, 1), (0x400006, 1), (0x400007, 0x7E), (0x400008, 16)] else [] }

theorem meets_ControlEvents_banks : 127 < Config.clusters ∧ (State.reset.placed 0).clock = 0 ∧
    ((0 : DWord).extractLsb' 0 2 = ((State.reset.placed 0).bank 1 5).reqMode ∨ (1 : DWord).extractLsb' 0 2 = ((State.reset.placed 0).bank 1 5).reqMode) ∧
    ((controlled []).bank 1 5).switching = some (1, false) ∧ (2 : DWord).extractLsb' 0 2 ≠ 3 ∧ ((controlled []).bank 1 5).held = [] ∧
    bankExists (.lm 8191 15) = true ∧ bankExists (.sram 127 63) = true ∧ BankId.sram 127 63 ∉ (State.reset.placed 0).reefed := by
  refine ⟨?_, rfl, ?_, rfl, ?_, rfl, ?_, ?_, ?_⟩ <;> decide +kernel
theorem meets_ControlEvents_routines : bit ((storing7 false).routineReg 1).rsnum.toNat 8 = false ∧ ((storing7 false).routineReg 1).busy = false ∧
    ((storing7 false).routineReg 1).rsnum.toNat % 2 ^ 8 ≠ 0 ∧ bit ((storing7 true).routineReg 1).rsnum.toNat 8 = true ∧
    ((storing7 true).routineReg 1).rsnum.toNat % 2 ^ 8 ≠ 0 ∧ ((loading7 false).routineReg 1).loading = some (0x400000, 7) ∧
    (loading7 true).readableAt 0x400000 64 = true ∧ (loading7 true).readableAt (0x400000 + 64) (4 * 1) = true ∧
    (loading7 true).readableAt (Config.hbmBytes - 32) 64 = false ∧ routineHeader ((loading7 false).mem.read 0x400000 64) = none ∧
    routineHeader ((loading7 true).mem.read 0x400000 64) = some (1, 0, 16) ∧ 1 ≤ (loading7 true).freeWords 1 7 ∧ (loading7 true).cmds = [] ∧
    8191 < Config.cores ∧ (0x8000000000005005 : DWord).toNat / 2 ^ 12 % 2 ^ 12 ≤ (0x8000000000005005 : DWord).toNat % 2 ^ 11 := by
  refine ⟨?_, rfl, ?_, ?_, ?_, rfl, ?_, ?_, ?_, ?_, ?_, ?_, rfl, ?_, ?_⟩ <;> decide +kernel
/-- An entry of world 2 over lines 16 and 17 of LM, which world 1 holds. -/
theorem meets_ControlEvents_entries : entryBad 0xE200000000012010 = false ∧ entryCovers 0xE200000000012010 17 = true ∧
    (State.reset.placed 0).targetWorld (.lm 7 (64 * 17)) none ≠ entryWorld 0xE200000000012010 := by
  refine ⟨?_, ?_, ?_⟩ <;> decide +kernel

/-- A slot of world 1, which consents or does not, running or parked, in a module whose HBM no leaf maps. -/
def debugged (consent : Bool) (run : RunState) : State :=
  { State.reset.placed 0 with
    thr := { placeThread with world := 1, run := run }, mem := [], trust := { (State.reset.placed 0).trust with dcons := if consent then 2 else 0 } }
def aTrace (on : Bool) : TraceCfg := { on := on, period := 1024, clusters := [0], base := 0x400000, m := 8, intervalNs := 10000 }

theorem meets_ModuleEvents_debug : (debugged true .running).thread? ⟨0, 0⟩ = some (debugged true .running).thr ∧ isTransform ⟨0, 0⟩ = false ∧
    (debugged false .running).consents 1 = false ∧ (debugged true .running).consents 1 = true ∧
    ((debugged true .running).parkGroup (debugged true .running).thr).all Thread.parkable = true ∧
    (debugged true .parked).thread? ⟨0, 0⟩ = some (debugged true .parked).thr ∧ (debugged true .parked).thr.run = .parked ∧
    (0 < 64 ∧ 64 ≤ 4096 ∧ 0x400000 + 64 ≤ Config.hbmBytes) ∧
    (∀ w ∈ (debugged true .running).debugWorlds (.hbm 0x400000) 64, (debugged true .running).consents w = true) ∧
    (debugged true .running).fabric.hostLines = [] ∧ (debugged true .running).homeCheck none (.hbm 0x400000) 64 false true = .ok ∧
    (debugged true .running).homeCheck none (.hbm 0x400000) 64 true true = .ok ∧ (debugged true .running).badAt (.hbm 0x400000) 64 = false ∧
    (debugged true .running).tagFails (.hbm 0x400000) 64 = false := by
  refine ⟨rfl, rfl, ?_, ?_, ?_, rfl, rfl, ?_, ?_, rfl, ?_, ?_, rfl, ?_⟩ <;> decide +kernel
/-- World 1 is protected, and no leaf maps frame 5, so that it is world 1's. -/
theorem meets_ModuleEvents_dump : let s := { debugged true .running with trust := { (debugged true .running).trust with prot := 2 } };
    1 ∈ s.frameWorlds (65536 * 5) ∧ s.protectedWorld 1 = true := by refine ⟨?_, ?_⟩ <;> decide +kernel
theorem meets_ModuleEvents_trace : 11 < 12 ∧ (List.replicate 32 (0 : Byte)).length = 32 ∧ (aTrace false).on = false ∧ (aTrace true).on = true ∧
    traceOk (aTrace true) = true ∧
    (∀ x ∈ (debugged true .running).debugWorlds (.hbm (aTrace true).base) (32 * 2 ^ (aTrace true).m), (debugged true .running).consents x = true) ∧
    (let s : State := { State.reset.placed 0 with clock := 1024, time := 100000, typel := { (State.reset.placed 0).typel with trace := aTrace true } };
      s.typel.trace.on = true ∧ s.typel.lastSample + s.typel.trace.period ≤ s.clock ∧ s.typel.booted = true ∧
      s.typel.lastSnap + s.typel.trace.intervalNs ≤ s.time.toNat) := by
  refine ⟨?_, ?_, rfl, rfl, ?_, ?_, rfl, ?_, rfl, ?_⟩ <;> decide +kernel
theorem meets_ModuleEvents_start : (default : BootScript).failing = [] ∧ State.reset.typel.closed = true ∧ (default : BootScript).osNodes = [] :=
  ⟨rfl, rfl, rfl⟩
/-- A module that has run for 1,024 cycles. -/
def longIdle : State := { State.reset.placed 0 with clock := 1024 }
theorem meets_ControlEvents_more : (∃ n, spilling.node? ((1 : DWord).toNat % 2 ^ 32) = some n ∧ n.phase = .running ∧ n.closing = false ∧
      spilling.nodeThreads n.id ≠ [] ∧ (∀ x ∈ spilling.nodeThreads n.id, x.run = .ended ∨ x.savea ≠ 0) ∧
      ∃ m ∈ n.members, m.ended = false ∧ m.spilled = false ∧ m.id ∉ n.spillAsked) ∧
    bound.dirFree = true ∧ (∃ o ∈ bound.dir.opens, o.asid.toNat = (0 : DWord).toNat ∧ o.obj.isSome = true) ∧ (bound.dir.grant 7).getLsbD 63 = true ∧
    112 / 16 = 7 ∧ ((State.reset.placed 0).core 1).fenced = false ∧ 0 < leasing.serviceCores.length ∧
    (clocked false 0 none 0).fabric.sync = false ∧ (clocked true 0 none 0).fabric.sync = true ∧
    ((State.reset.placed 0).bank 1 5).switching = none ∧ BankId.sram 127 63 ∉ longIdle.reefed ∧
    assocD longIdle.touched (BankId.sram 127 63) 0 + 1024 ≤ longIdle.clock :=
  ⟨⟨_, rfl, rfl, rfl, by decide +kernel, by decide +kernel, by decide +kernel⟩, by decide +kernel, ⟨_, .head _, by decide +kernel, rfl⟩, by decide +kernel,
    by decide, rfl, by decide, rfl, rfl, rfl, by decide +kernel, by decide⟩
/-- A load whose image has more words than another routine leaves free. -/
def loadingMuch : State :=
  { loading7 true with routines := [{ cl := 1, num := 8, oadd := 0, omul := 16, words := List.replicate Config.routineWords 0 }] }
theorem meets_ControlEvents_routineTooBig : (loadingMuch.routineReg 1).loading = some (0x400000, 7) ∧ loadingMuch.readableAt 0x400000 64 = true ∧
    routineHeader (loadingMuch.mem.read 0x400000 64) = some (1, 0, 16) ∧ loadingMuch.freeWords 1 7 < 1 := by
  refine ⟨rfl, ?_, ?_, ?_⟩ <;> decide +kernel

theorem meets_ModuleEvents_more : (∀ u ∈ (debugged true .running).parkGroup (debugged true .running).thr, u.parkable = true ∧ u.stepping ≠ .parking) ∧
    (debugged true .running).awaitsHosts none 0x400000 64 = false ∧ (List.replicate 64 (0 : Byte)).length = 64 ∧
    (∀ w ∈ (debugged true .running).debugWorlds (.lm 3 0x100) 64, (debugged true .running).consents w = true) ∧ 0x100 + 64 ≤ 2 ^ 17 ∧
    (debugged true .running).homeCheck none (.lm 3 0x100) 64 false true = .ok ∧
    (debugged true .running).homeCheck none (.lm 3 0x100) 64 true true = .ok ∧ (debugged true .running).badAt (.lm 3 0x100) 64 = false ∧
    (let s : State := { State.reset.placed 0 with clock := 1024, time := 100000, typel := { (State.reset.placed 0).typel with trace := aTrace true } };
      s.awaitsHosts none s.snapshotAt snapshotBytes = false) := by
  refine ⟨?_, rfl, rfl, ?_, by decide, ?_, ?_, rfl, rfl⟩ <;> decide +kernel
/-- World 2 is protected: an entry of core 3 gives it lines 16 and 17 of its LM; frame 5 is no protected world's. -/
def dumping : State :=
  { State.reset.placed 0 with
    trust := { (State.reset.placed 0).trust with prot := 4 }
    cores := [(3, { Core.reset with entries := 0xE200000000012010 :: List.replicate 7 0 })] }
/-- World 2 is protected, and the module's one leaf gives it the frames from 0 on. -/
theorem meets_ModuleEvents_dumpLeaf : let s : State := { State.reset.placed 0 with
      mem := [(0, 1), (2, 16), (0x100000, 255), (0x100006, 0x20)], trust := { (State.reset.placed 0).trust with prot := 4 } };
    ∃ l ∈ s.allLeaves, leafMaps (65536 * 0) l = true ∧ s.protectedWorld (pteWorld l.2) = true := by decide +kernel
theorem meets_ModuleEvents_dumpRules : 5 < Config.hbmBytes / 65536 ∧ 3 < Config.cores ∧ dumping.protectedWorld 2 = true ∧
    (∃ e, dumping.protection 3 (64 * 17) = some e ∧ dumping.protectedWorld (e.extractLsb' 56 4) = true) ∧
    (∀ w ∈ dumping.frameWorlds (65536 * 5), dumping.protectedWorld w = false) := by
  refine ⟨by decide +kernel, by decide, by decide +kernel, ⟨0xE200000000012010, by decide +kernel, by decide +kernel⟩, by decide +kernel⟩

/-- Slot 0 is about to fetch ADD s1, s2, s3. -/
def adder : State := State.reset.placed (encode (.add 1 2 3 .w64))
/-- Slot 0 of core 1 is about to fetch it too. -/
def adders : State := { adder with others := [{ placeThread with id := ⟨1, 0⟩ }] }
/-- A started module in which nothing runs. -/
def idleModule : State := { State.reset with typel := { State.reset.typel with booted := true } }

/-- An outcome is a next state. -/
def goesOn : Out → Bool
  | .next _ => true
  | _ => false
theorem goesOn_of {o : Out} (h : goesOn o = true) : ∃ t, o = .next t := by
  cases o with
  | next t => exact ⟨t, rfl⟩
  | _ => cases h

theorem test_step_add : goesOn (step adder) = true ∧ see (fun t => t.thr.pc) (step adder) = some (placePc + 4) := by decide +kernel
theorem adder_running : adder.running ∧ adders.running ∧ idleModule.running :=
  ⟨⟨rfl, rfl, by decide +kernel⟩, ⟨rfl, rfl, by decide +kernel⟩, ⟨rfl, rfl, by decide +kernel⟩⟩
theorem adder_turns : adder.turns ++ adder.unitSteps = [issueSlot ⟨0, 0⟩ adder] := rfl
theorem adders_turns : adders.turns ++ adders.unitSteps = [issueSlot ⟨0, 0⟩ adders, issueSlot ⟨1, 0⟩ adders] := rfl
theorem idle_turns : idleModule.turns = [] ∧ idleModule.unitSteps = [] := ⟨rfl, rfl⟩

theorem meets_StepRunsDecoded_turn : (adder.core 0).nextTurn ≤ adder.clock ∧ adder.allowed 0 = true ∧ adder.turnOf 0 = some adder.thr ∧
    adder.thr.run ≠ .parked ∧ ¬ (adder.thr.stepping = .begun ∧ adder.thr.wait ≠ .none) ∧
    (adder.thr.takesNotify && adder.thr.between adder.clock) = false := by
  refine ⟨?_, ?_, rfl, ?_, ?_, ?_⟩ <;> decide +kernel
theorem meets_StepRunsDecoded_word : adder.turns ≠ [] ∧ adder.focus ⟨0, 0⟩ = some adder ∧ (∃ v, nextWord adder = .word (encode (.add 1 2 3 .w64)) v) ∧
    decode (encode (.add 1 2 3 .w64)) = .ok (.add 1 2 3 .w64) ∧ adder.turns ++ adder.unitSteps = [issueSlot ⟨0, 0⟩ adder] :=
  ⟨by rw [show adder.turns = [issueSlot ⟨0, 0⟩ adder] from rfl]; exact List.cons_ne_nil _ _, rfl, ⟨_, rfl⟩, rfl, adder_turns⟩
theorem meets_StepRunsDecoded_choice : ∃ id, adders.turns ≠ [] ∧ (∃ u v, adders.focus id = some u ∧ nextWord u = .word (encode (.add 1 2 3 .w64)) v) ∧
    2 ≤ (adders.turns ++ adders.unitSteps).length ∧
    (adders.turns ++ adders.unitSteps)[Config.pick adders.fresh % (adders.turns ++ adders.unitSteps).length]? = some (issueSlot id adders) := by
  rw [adders_turns, show adders.turns = [issueSlot ⟨0, 0⟩ adders, issueSlot ⟨1, 0⟩ adders] from rfl]
  have h : Config.pick adders.fresh % 2 < 2 := Nat.mod_lt _ (by decide)
  rcases Nat.lt_succ_iff_lt_or_eq.mp h with h | h
  · refine ⟨⟨0, 0⟩, List.cons_ne_nil _ _, ⟨_, _, rfl, rfl⟩, by decide, ?_⟩
    have : Config.pick adders.fresh % 2 = 0 := by omega
    simp [this]
  · refine ⟨⟨1, 0⟩, List.cons_ne_nil _ _, ⟨_, _, rfl, rfl⟩, by decide, ?_⟩
    simp [h]
theorem meets_StepRunsDecoded_fetch : adder.thr.inWord = false ∧ adder.thr.role ≠ .follower ∧ isTransform adder.thr.id = false ∧
    ∃ l v, adder.textLeaf = (.ok l, v) ∧ l.home v.thr.pc.toNat = .hbm 0x200000 ∧ v.thr.line = some (Home.hbm 0x200000).line ∧
      v.admits v.thr.world (.hbm 0x200000) (some l) true false false = true ∧ v.onRoster v.thr.world (.hbm 0x200000) = true ∧
      pteComp l.word = false ∧ v.discarded l = false ∧ v.badAt (.hbm 0x200000) 4 = false ∧ v.tagFails (.hbm 0x200000) 4 = false ∧
      v.snooped { home := .hbm 0x200000, ea := vaPtr v.thr.pc.toNat, n := 4, leaf := some l } = false ∧ v.seals = [] ∧
      ((v.node? v.thr.node).bind fun n => n.oldText.find? fun x => x.1 = 0x200000 / 4) = none := by
  refine ⟨rfl, by decide, rfl, _, _, rfl, ?_, ?_, ?_, ?_, ?_, ?_, ?_, ?_, ?_, rfl, rfl⟩ <;> decide +kernel
theorem meets_StepRunsDecoded_tick : idleModule.running ∧ idleModule.turns = [] ∧ idleModule.unitSteps = [] := ⟨adder_running.2.2, idle_turns⟩
theorem meets_MemoryStaysCanonical : adder.memOk ∧ ∃ t, step adder = .next t := ⟨by unfold State.memOk; decide +kernel, goesOn_of test_step_add.1⟩
end Sys2Proof.Tests
end

section
/-!
PROOFS. The ownership of tiles (spec/01_machine_state.md R34): what a word that does not claim, and one that may, meets at a tile of
another slot.
-/
namespace Sys2Proof.Machine

/-- A fault whose EVAL is open changes only the thread and the free values used. -/
theorem fault_open_frame (c : Cause) {s : State} (h : s.hasHandler) : ∃ t, fault c 0 none s = .next { s.used with thr := t } := by
  unfold fault
  rw [trapTo_open (s := { s with thr := { s.thr.clearHints with retried := false, progress := 0, geo := [], claims := [] } }) h]
  exact ⟨_, rfl⟩

/-- The owner of a tile as the claims see it is the one that the tile names. -/
theorem State.ownerOf_tile (s : State) (cl e t : Nat) : s.ownerOf cl (.tile e t) = (s.tile cl e t).owner := by
  show (s.tiles.find? (fun p => p.1 = (cl, e, t))).bind (fun p => p.2.owner) = (s.tile cl e t).owner
  unfold State.tile assocD
  cases s.tiles.find? (fun p => p.1 = (cl, e, t)) <;> rfl

/-- The tile's owner is another slot, or another slot's word in flight has claimed it. -/
def State.othersTile (s : State) (cl e t : Nat) : Prop :=
  ((s.tile cl e t).owner ≠ none ∧ (s.tile cl e t).owner ≠ some s.thr.id) ∨
    ∃ id, s.holder cl (.tile e t) = some id ∧ id ≠ s.thr.id

/-- An owned tile is held by its owner, whatever is claimed. -/
theorem State.holder_of_owner {s : State} {cl e t : Nat} {id : SlotId} (h : (s.tile cl e t).owner = some id) :
    s.holder cl (.tile e t) = some id := by
  rw [State.holder, State.ownerOf_tile, h]
  rfl

/-- Another's tile is held by another. -/
theorem State.othersTile.held {s : State} {cl e t : Nat} (h : s.othersTile cl e t) :
    ∃ id, s.holder cl (.tile e t) = some id ∧ id ≠ s.thr.id := by
  rcases h with ⟨h1, h2⟩ | h
  · obtain ⟨id, hid⟩ := Option.ne_none_iff_exists'.mp h1
    exact ⟨id, State.holder_of_owner hid, fun e => h2 (e ▸ hid)⟩
  · exact h

/-- A word that does not claim faults on a tile that is not the slot's. -/
theorem ownerThen_foreign {e t : Nat} {s : State} {body : State → Out}
    (h : (s.tile (clusterOf s.thr.id.core) e t).owner ≠ some s.thr.id) :
    ownerThen e t false s body = fault .operand 0 none s := by
  simp [ownerThen, h]

/-- A word that may claim faults on another's tile. -/
theorem ownerThen_others {e t : Nat} {s : State} {body : State → Out} (h : s.othersTile (clusterOf s.thr.id.core) e t) :
    ownerThen e t true s body = fault .operand 0 none s := by
  obtain ⟨id, hid, hne⟩ := h.held
  have howner : (s.tile (clusterOf s.thr.id.core) e t).owner ≠ some s.thr.id := fun ho =>
    hne (Option.some.inj (hid.symm.trans (State.holder_of_owner ho)))
  simp [ownerThen, howner, State.claimable, hid, hne]

/-- Settles O27: after the start of the word the ownership check comes first, and its fault leaves the tiles and the engines' work. -/
theorem tileOwnershipIsChecked : Obligations.TileOwnershipIsChecked := by
  intro s t e a b d k i hh hi cl x checks others h
  have faults : exec i s = fault .operand 0 none s := by
    rcases h with ⟨(h | ⟨rfl, hb⟩ | ⟨rfl, hb⟩ | ⟨rfl, hb⟩), hx⟩ | ⟨h, ho⟩
    · simp only [List.mem_cons, List.not_mem_nil, or_false] at h
      rcases h with rfl | rfl | rfl | rfl | rfl <;> exact (issue_ok hi).trans (ownerThen_foreign hx)
    · exact (issueWith_ok hi hb (Nat.zero_le _)).trans (ownerThen_foreign hx)
    · exact (issueWith_ok hi hb (Nat.zero_le _)).trans (ownerThen_foreign hx)
    · exact (issueWith_ok hi hb (Nat.zero_le _)).trans (ownerThen_foreign hx)
    · simp only [List.mem_cons, List.not_mem_nil, or_false] at h
      rcases h with rfl | rfl | rfl <;> exact (issue_ok hi).trans (ownerThen_others ho)
  refine ⟨faults ▸ fault_open hh, fun u hu => ?_⟩
  obtain ⟨y, hy⟩ := fault_open_frame .operand hh
  cases hu.symm.trans (faults.trans hy)
  exact ⟨rfl, rfl⟩

end Sys2Proof.Machine
end

section
/-!
PROOFS. Hint words (spec/01_machine_state.md R21, spec/03_encoding.md R62): what recording a type leaves, and what a hint word answers.
-/
namespace Sys2Proof.Machine

/-- The mask of a hint type has that type's bit and no other. -/
theorem hintBit_getLsbD {t k : Nat} (ht : 1 ≤ t ∧ t ≤ 7) (hk : 1 ≤ k) : (hintBit t).getLsbD (k - 1) = decide (k = t) := by
  rw [hintBit, BitVec.getLsbD_ofNat, Nat.testBit_two_pow]
  by_cases h : k = t
  · subst h; simp; omega
  · have : t - 1 ≠ k - 1 := by omega
    simp [h, this]

/-- After a hint of type t is recorded, that type is pending and every other one is as before. -/
theorem Status.pending_record (st : Status) {t k : Nat} (ht : 1 ≤ t ∧ t ≤ 7) (hk : 1 ≤ k) :
    (st.record t).pending k = (st.pending k || decide (k = t)) := by
  rw [Status.pending, show (st.record t).hpend = st.hpend ||| hintBit t from rfl, BitVec.getLsbD_or, hintBit_getLsbD ht hk, Status.pending]

/-- What a hint word of type n answers (type 0 for one that records nothing): the type is pending and marked a duplicate if it was
pending, `val` holds, and everything else of the hints, STATUS, registers and memory stays. -/
def hintGoes (s : State) (o : Out) (n : Nat) (val : State → Prop) : Prop :=
  ∃ u, o = .next u ∧
    (n ≠ 0 → u.thr.status.pending n = true ∧ u.thr.status.hdup = (s.thr.status.hdup || s.thr.status.pending n)) ∧
    (∀ k, 1 ≤ k → k ≤ 7 → k ≠ n → u.thr.status.pending k = s.thr.status.pending k) ∧ val u ∧
    (n ≠ 1 → u.thr.pay.himm = s.thr.pay.himm) ∧ (n ≠ 2 → u.thr.pay.hfmt = s.thr.pay.hfmt) ∧
    (n ≠ 4 → u.thr.pay.hreal = s.thr.pay.hreal) ∧ (n ≠ 3 → u.thr.status.hscope = s.thr.status.hscope) ∧
    (n ≠ 5 → u.thr.status.hpromo = s.thr.status.hpromo) ∧ (n ≠ 6 → u.thr.status.hguard = s.thr.status.hguard) ∧
    (u.thr.status.priv, u.thr.status.uie, u.thr.status.inui, u.thr.status.gout) =
      (s.thr.status.priv, s.thr.status.uie, s.thr.status.inui, s.thr.status.gout) ∧
    u.thr.ws = s.thr.ws ∧ (u.thr.loops, u.thr.pc) = backEdge s.thr.loops (s.thr.pc + 4) ∧ u.mem = s.mem ∧
    u.thr.nextIssue = s.clock + 8

/-- The updates f and g, of STATUS and of the payloads, write no field but the value of hint type n. -/
structure SetsHint (n : Nat) (f : Status → Status) (g : Payloads → Payloads) : Prop where
  frame : ∀ x, (f x).hpend = x.hpend ∧ (f x).hdup = x.hdup ∧
    ((f x).priv, (f x).uie, (f x).inui, (f x).gout) = (x.priv, x.uie, x.inui, x.gout)
  hscope : n ≠ 3 → ∀ x, (f x).hscope = x.hscope
  hpromo : n ≠ 5 → ∀ x, (f x).hpromo = x.hpromo
  hguard : n ≠ 6 → ∀ x, (f x).hguard = x.hguard
  himm : n ≠ 1 → ∀ y, (g y).himm = y.himm
  hfmt : n ≠ 2 → ∀ y, (g y).hfmt = y.hfmt
  hreal : n ≠ 4 → ∀ y, (g y).hreal = y.hreal

/-! The updates of the seven hints. -/

theorem SetsHint.ofHimm (v : BitVec 22) : SetsHint 1 (fun x => x) (fun y => { y with himm := v }) := by constructor <;> simp
theorem SetsHint.ofHfmt (v : BitVec 22) : SetsHint 2 (fun x => x) (fun y => { y with hfmt := v }) := by constructor <;> simp
theorem SetsHint.ofHscope (v : BitVec 3) : SetsHint 3 (fun x => { x with hscope := v }) (fun y => y) := by constructor <;> simp
theorem SetsHint.ofHreal (v : BitVec 22) : SetsHint 4 (fun x => x) (fun y => { y with hreal := v }) := by constructor <;> simp
theorem SetsHint.ofHpromo (v : BitVec 2) : SetsHint 5 (fun x => { x with hpromo := v }) (fun y => y) := by constructor <;> simp
theorem SetsHint.ofHguard (v : BitVec 2) : SetsHint 6 (fun x => { x with hguard := v }) (fun y => y) := by constructor <;> simp
theorem SetsHint.ofHnt : SetsHint 7 (fun x => x) (fun y => y) := by constructor <;> simp

/-- The thread after a hint word at a cycle, with STATUS and the payloads as given. -/
def Thread.hinted (t : Thread) (now : Nat) (st : Status) (p : Payloads) : Thread :=
  Thread.arrive { t with status := st, pay := p, wait := .none, nextIssue := now + 8, justResumed := false } t.following

/-- A word that records nothing leaves what is pending. -/
theorem hintGoes_retireHint (s : State) : hintGoes s (retireHint s) 0 (fun u => u.thr.status.hdup = s.thr.status.hdup) :=
  ⟨_, rfl, fun h => absurd rfl h, fun _ _ _ _ => rfl, rfl, fun _ => rfl, fun _ => rfl, fun _ => rfl, fun _ => rfl, fun _ => rfl,
    fun _ => rfl, rfl, rfl, rfl, rfl, rfl⟩

/-- A word of hint type n that sets its own value records its type and leaves the others. -/
theorem hintGoes_hint (s : State) {n : Nat} {f : Status → Status} {g : Payloads → Payloads} {val : State → Prop}
    (hn : 1 ≤ n ∧ n ≤ 7) (hs : SetsHint n f g)
    (hv : val { s with thr := s.thr.hinted s.clock (f (s.thr.status.record n)) (g s.thr.pay) }) :
    hintGoes s (hint n f g s) n val := by
  obtain ⟨hp, hd, hlive⟩ := hs.frame (s.thr.status.record n)
  have pend (k : Nat) (hk : 1 ≤ k) : (f (s.thr.status.record n)).pending k = (s.thr.status.pending k || decide (k = n)) := by
    rw [Status.pending, hp, ← Status.pending, Status.pending_record _ hn hk]
  refine ⟨_, rfl, fun _ => ⟨?own, hd⟩, fun k h1 _ hk => ?others, hv, fun h => hs.himm h _, fun h => hs.hfmt h _, fun h => hs.hreal h _,
    fun h => hs.hscope h _, fun h => hs.hpromo h _, fun h => hs.hguard h _, hlive, rfl, rfl, rfl, rfl⟩
  case own => exact (pend n hn.1).trans (by simp)
  case others => exact (pend k h1).trans (by simp [hk])

/-- The payload that HFMT packs fits its 22 bits (R63). -/
theorem hfmt_payload_lt (a b o : Fin 13) (f : Fin 4) (x : Bool) :
    2 ^ 17 * a.val + 2 ^ 12 * b.val + 2 ^ 7 * o.val + 2 ^ 5 * f.val + 2 ^ 4 * x.toNat < 2 ^ 22 := by
  have := x.toNat_le
  omega

/-- A recorded HSCOPE gives the scope (R62). -/
theorem Status.scope_recorded (st : Status) (sc : Scope) :
    Status.scope { st.record 3 with hscope := BitVec.ofNat 3 sc.toBits } = sc := by
  have hp : (st.record 3).pending 3 = true := by rw [Status.pending_record st (by decide) (by decide)]; simp
  have hb : Scope.ofBits? (BitVec.ofNat 3 sc.toBits).toNat = some sc := by cases sc <;> rfl
  show (if (st.record 3).pending 3 then _ else _) = sc
  rw [if_pos hp, hb]
  rfl

/-- Settles O48: HNOP and the types 8 to 15 only retire; each of the seven hints records its type and sets its own value. -/
theorem hintWords : Obligations.HintWords := by
  intro s p t a b o f g x sc goes
  have fit22 (q : Nat) (h : q < 2 ^ 22) : (BitVec.ofNat 22 q).toNat = q := BitVec.toNat_ofNat q 22 ▸ Nat.mod_eq_of_lt h
  have fit2 (q : Fin 4) : (BitVec.ofNat 2 q.val).toNat = q.val := BitVec.toNat_ofNat q.val 2 ▸ Nat.mod_eq_of_lt q.isLt
  refine ⟨hintGoes_retireHint s, hintGoes_retireHint s, ?himm, ?hfmt, ?hscope, ?hrealign, ?hpromo, ?hguard, ?hnt⟩
  case himm => exact hintGoes_hint s (by decide) (.ofHimm _) (fit22 _ p.isLt)
  case hfmt => exact hintGoes_hint s (by decide) (.ofHfmt _) (fit22 _ (hfmt_payload_lt a b o f x))
  case hscope => exact hintGoes_hint s (by decide) (.ofHscope _) (Status.scope_recorded _ sc)
  case hrealign =>
    exact hintGoes_hint { s with thr := { s.thr with realigned := false } } (by decide) (.ofHreal _) ⟨fit22 _ p.isLt, rfl⟩
  case hpromo => exact hintGoes_hint s (by decide) (.ofHpromo _) (fit2 f)
  case hguard => exact hintGoes_hint s (by decide) (.ofHguard _) (fit2 g)
  case hnt => exact hintGoes_hint s (by decide) .ofHnt trivial

end Sys2Proof.Machine
end

section
/-!
PROOFS. The system registers (spec/01_machine_state.md R27 to R30, spec/10_system_instr.md R231, R232): STATUS and RPR as words, what SYSR
reads, what SYSW writes, the hints saved in a workspace, and SWPWP.
-/
namespace Sys2Proof.Machine

/-! ## STATUS as a word (R29) -/

/-- The number that STATUS makes, each field in its own bits. -/
theorem Status.toWord_toNat (st : Status) : st.toWord.toNat = st.priv.toNat + (if st.hpend = 0 then 0 else 4) + 8 * st.uie.toNat
    + 16 * st.inui.toNat + 2 ^ 5 * st.gout.toNat + 2 ^ 9 * st.hpend.toNat + 2 ^ 16 * st.hpromo.toNat + 2 ^ 18 * st.hguard.toNat
    + 2 ^ 20 * st.hscope.toNat + 2 ^ 23 * st.hdup.toNat := by
  rw [Status.toWord, BitVec.toNat_ofNat]
  apply Nat.mod_eq_of_lt
  have := st.priv.isLt; have := st.gout.isLt; have := st.hpend.isLt; have := st.hpromo.isLt; have := st.hguard.isLt
  have := st.hscope.isLt; have := st.uie.toNat_le; have := st.inui.toNat_le; have := st.hdup.toNat_le
  split <;> omega

/-- A bit of a word as the parity of its quotient. -/
theorem getLsbD_eq_of_toNat {w : Nat} {x : BitVec w} {i : Nat} {b : Bool} (h : x.toNat / 2 ^ i % 2 = b.toNat) : x.getLsbD i = b := by
  rw [BitVec.getLsbD, Nat.testBit_eq_decide_div_mod_eq, h]
  cases b <;> rfl

/-- Bits of a word as a remainder of its quotient. -/
theorem extractLsb'_eq_of_toNat {w : Nat} {x : BitVec w} {i n : Nat} {y : BitVec n} (h : x.toNat / 2 ^ i % 2 ^ n = y.toNat) :
    x.extractLsb' i n = y := by
  apply BitVec.eq_of_toNat_eq
  rw [BitVec.extractLsb'_toNat, Nat.shiftRight_eq_div_pow, h]

/-- What SYSR STATUS shows (R29). -/
theorem Status.toWord_fields (st : Status) : let v := st.toWord;
    v.extractLsb' 0 2 = st.priv ∧ v.getLsbD 2 = (st.hpend != 0) ∧ v.getLsbD 3 = st.uie ∧ v.getLsbD 4 = st.inui ∧
    v.extractLsb' 5 4 = st.gout ∧ v.extractLsb' 9 7 = st.hpend ∧ v.extractLsb' 16 2 = st.hpromo ∧ v.extractLsb' 18 2 = st.hguard ∧
    v.extractLsb' 20 3 = st.hscope ∧ v.getLsbD 23 = st.hdup ∧ v.extractLsb' 24 40 = 0 := by
  have hv := st.toWord_toNat
  have := st.priv.isLt; have := st.gout.isLt; have := st.hpend.isLt; have := st.hpromo.isLt; have := st.hguard.isLt
  have := st.hscope.isLt; have := st.uie.toNat_le; have := st.inui.toNat_le; have := st.hdup.toNat_le
  have ppb : (if st.hpend = 0 then 0 else 4) = 4 * (st.hpend != 0).toNat := by
    by_cases h : st.hpend = 0
    · rw [if_pos h, h]; rfl
    · rw [if_neg h, bne_iff_ne.mpr h]; rfl
  have := (st.hpend != 0).toNat_le
  rw [ppb] at hv
  refine ⟨extractLsb'_eq_of_toNat ?_, getLsbD_eq_of_toNat ?_, getLsbD_eq_of_toNat ?_, getLsbD_eq_of_toNat ?_, extractLsb'_eq_of_toNat ?_,
    extractLsb'_eq_of_toNat ?_, extractLsb'_eq_of_toNat ?_, extractLsb'_eq_of_toNat ?_, extractLsb'_eq_of_toNat ?_,
    getLsbD_eq_of_toNat ?_, extractLsb'_eq_of_toNat (y := 0#40) ?upper⟩
  case upper => rw [BitVec.toNat_zero]; omega
  all_goals omega

/-! ## Progress of a tile instruction (R178) -/

/-- RPR with no instruction outstanding. -/
theorem rpr_idle {s : State} {id : SlotId} {e : Nat} (hj : s.outstanding id e = none) : s.rpr id e = 0 := by
  rw [State.rpr, hj]

/-- The fields of RPR while an instruction of majors 0x20 to 0x22 is outstanding. -/
theorem rpr_fields {s : State} {id : SlotId} {e : Nat} {j : TileJob} (hj : s.outstanding id e = some j) (ht : j.tile < 16)
    (hlo : 0x20 ≤ j.word.toNat / 2 ^ 26) (hhi : j.word.toNat / 2 ^ 26 ≤ 0x22) : let v := s.rpr id e;
    v.getLsbD 63 = true ∧ v.extractLsb' 59 4 = BitVec.ofNat 4 j.tile ∧ v.extractLsb' 57 2 = j.word.extractLsb' 26 2 ∧
      v.extractLsb' 50 7 = j.word.extractLsb' 0 7 ∧ v.extractLsb' 32 18 = 0 ∧ v.extractLsb' 0 32 = BitVec.ofNat 32 j.done := by
  obtain ⟨m, hm⟩ : ∃ m, j.word.toNat / 2 ^ 26 = 0x20 + m := ⟨_, (Nat.add_sub_cancel' hlo).symm⟩
  have hmajor : bits j.word.toNat 31 26 - 0x20 = m := by
    have e : bits j.word.toNat 31 26 = j.word.toNat / 2 ^ 26 % 2 ^ 6 := rfl
    omega
  have hlow : bits j.word.toNat 6 0 = j.word.toNat % 2 ^ 7 := by rw [bits, Nat.pow_zero, Nat.div_one]
  have hd : j.done % 2 ^ 32 < 2 ^ 32 := Nat.mod_lt _ (by decide)
  have hv : (s.rpr id e).toNat = 2 ^ 63 + j.tile * 2 ^ 59 + m * 2 ^ 57 + j.word.toNat % 2 ^ 7 * 2 ^ 50 + j.done % 2 ^ 32 := by
    simp only [State.rpr, hj, hmajor, hlow, BitVec.toNat_ofNat]
    omega
  have htop : (s.rpr id e).toNat / 2 ^ 59 = 16 + j.tile := by omega
  refine ⟨getLsbD_eq_of_toNat ?_, extractLsb'_eq_of_toNat ?_, extractLsb'_eq_of_toNat ?_, extractLsb'_eq_of_toNat ?_,
    extractLsb'_eq_of_toNat (y := 0#18) ?_, extractLsb'_eq_of_toNat ?_⟩ <;>
    simp only [BitVec.extractLsb'_toNat, BitVec.toNat_ofNat, Nat.shiftRight_eq_div_pow, Bool.toNat_true, hm, htop] <;> omega

/-! ## SYSR (R27) -/

/-- An index reads as the register it names. -/
theorem sysReads_sysReg {s : State} {n : Nat} {v : DWord} (h : s.sysReg n = some v) : sysReads s n v := by
  unfold sysReads
  refine ⟨?status, ?_, ?_, ?_, ?_, ?_, ?_, ?_, ?_, ?_, ?_, ?_, ?_, ?_, ?_, ?_, ?_, ?_, ?_, ?rpr0, ?rpr1, ?_, ?_⟩ <;> rintro rfl
  case status => cases h; exact s.thr.status.toWord_fields
  case rpr0 | rpr1 =>
    cases h
    split
    · next hj => exact rpr_idle hj
    · next j hj => exact rpr_fields hj
  all_goals exact (Option.some.inj h).symm

/-- A word of SYSR that may read its register puts it into sd (R27, R231). -/
theorem exec_sysr {s : State} {d : Reg} {n : Fin 256} {v : DWord} (h : mayRun (.sysr d n) s) (hn : n.val ≤ 0x16)
    (hl : readLevel n.val ≤ s.thr.status.priv.toNat) (hv : s.sysReg n.val = some v) :
    exec (.sysr d n) s = .next ((s.setS d v).passed 8) := by
  have hb : decide (0x16 < n.val) = false := by simpa using hn
  refine (issueWith_ok (bad := fun _ => decide (0x16 < n.val)) h hb hl).trans ?_
  rw [hv]
  rfl

/-- Every index up to 0x16 names a register (R27). -/
theorem sysReg_isSome (s : State) {n : Nat} (hn : n ≤ 0x16) : ∃ v, s.sysReg n = some v := by
  unfold State.sysReg
  split
  case h_24 => grind
  all_goals exact ⟨_, rfl⟩

/-! ## SYSW (R27, R28, R231) -/

/-- No register needs more than supervisor level (R27). -/
theorem writeLevel_le_one (i : Nat) : writeLevel i ≤ 1 := by
  unfold writeLevel
  split <;> decide

/-- A word of SYSW that may write its register and whose value is accepted goes on with the written thread. -/
theorem exec_sysw {s : State} {a : Reg} {n : Fin 256} {t : Thread} (h : mayRun (.sysw a n) s) (hn : n.val ≤ 0x16)
    (hr : readOnly n.val = false) (hl : writeLevel n.val ≤ s.thr.status.priv.toNat)
    (ht : s.writeSys n.val (s.thr.sreg a) = some t) : exec (.sysw a n) s = .next (State.passed 8 { s with thr := t }) := by
  have hb : (decide (0x16 < n.val) || readOnly n.val) = false := by simp [hr, hn]
  refine (issueWith_ok (bad := fun _ => decide (0x16 < n.val) || readOnly n.val) h hb hl).trans ?_
  rw [ht]
  rfl

/-- The indices whose register takes a value as it is: all that are not read-only, but STATUS and ASID; HBIVL in its range, and STVEC
outside a protected world. -/
def sysWrites (s : State) (n : Nat) (v : DWord) : Prop :=
  n ∈ [0x02, 0x03, 0x04, 0x05, 0x06, 0x07, 0x08, 0x15, 0x16] ∨ (n = 0x09 ∧ s.protectedWorld s.thr.world = false) ∨
    (n = 0x0A ∧ 2 ^ 12 ≤ v.toNat ∧ v.toNat ≤ 2 ^ 32)

/-- A writable register reads as it was written, after the word too; a return address takes the saved hints with it (R22). -/
theorem writeSys_reads {s : State} {n : Nat} {v : DWord} (h : sysWrites s n v) :
    n ≤ 0x16 ∧ readOnly n = false ∧ ∃ t, s.writeSys n v = some t ∧ (State.passed 8 { s with thr := t }).sysReg n = some v ∧
      t.ws.s = s.thr.ws.s ∧
      t.ws.statusSave = if n = 0x02 ∨ n = 0x07 then s.thr.ws.statusSave &&& ~~~0xFFFE04 else s.thr.ws.statusSave := by
  rcases h with h | ⟨rfl, hp⟩ | ⟨rfl, hv⟩
  · simp only [List.mem_cons, List.not_mem_nil, or_false] at h
    rcases h with rfl | rfl | rfl | rfl | rfl | rfl | rfl | rfl | rfl <;> exact ⟨by decide, rfl, _, rfl, rfl, rfl, rfl⟩
  · refine ⟨by decide, rfl, { s.thr with stvec := v }, ?_, ?_, rfl, rfl⟩
    · simp [State.writeSys, hp]
    · exact congrArg some (if_neg (by rw [Bool.not_eq_true]; exact hp))
  · exact ⟨by decide, rfl, _, if_pos hv, rfl, rfl, rfl⟩

/-- SYSW of a writable register (R27). -/
theorem exec_sysw_reads {s : State} {a : Reg} {n : Fin 256} (h : mayRun (.sysw a n) s)
    (hw : sysWrites s n.val (s.thr.sreg a)) (hl : writeLevel n.val ≤ s.thr.status.priv.toNat) :
    ∃ t, exec (.sysw a n) s = .next t ∧ sysReads t n.val (s.thr.sreg a) ∧ t.mem = s.mem ∧ t.thr.ws.s = s.thr.ws.s ∧
      t.thr.ws.statusSave = if n.val = 0x02 ∨ n.val = 0x07 then s.thr.ws.statusSave &&& ~~~0xFFFE04 else s.thr.ws.statusSave := by
  obtain ⟨hn, hr, t, ht, hreads, hs, hsave⟩ := writeSys_reads hw
  exact ⟨_, exec_sysw h hn hr hl ht, sysReads_sysReg hreads, rfl, hs, hsave⟩

/-- SYSW STATUS leaves the registers. -/
theorem Thread.writeStatusReg_registers (t : Thread) (v : DWord) : let w := (t.writeStatusReg v).ws;
    (w.s, w.p, w.v, w.q) = (t.ws.s, t.ws.p, t.ws.v, t.ws.q) := by
  unfold Thread.writeStatusReg
  dsimp only
  split <;> rfl

/-- SYSW STATUS writes UIE and, above user level, the saved hints (R231). -/
theorem exec_sysw_status {s : State} {a : Reg} {n : Fin 256} (h : mayRun (.sysw a n) s) (hn : n.val = 0x00) :
    ∃ t, exec (.sysw a n) s = .next t ∧ wroteUie (s.thr.sreg a) s t ∧
      t.thr.ws = if s.thr.status.priv = 0 then s.thr.ws else s.thr.ws.editHints (s.thr.sreg a) := by
  refine ⟨_, exec_sysw (t := s.thr.writeStatusReg (s.thr.sreg a)) h (by omega) (by rw [hn]; rfl) (by rw [hn]; exact Nat.zero_le _)
    (by rw [hn]; rfl), ⟨rfl, rfl, ?_, rfl⟩, rfl⟩
  exact Thread.writeStatusReg_registers _ _

/-! ## The hints saved in a workspace (R22, R231) -/

/-- A bit of a word from which a mask's bits are taken away unless a flag is set. -/
theorem getLsbD_keepIf (b : Bool) (x m : DWord) {i : Nat} (hi : i < 64) :
    (if b then x else x &&& ~~~m).getLsbD i = (x.getLsbD i && (b || !m.getLsbD i)) := by
  cases b <;> simp [hi]

/-- The masks of the hint fields of STATUS, by bits (R29): PPB, HPEND, both, HPROMO, HGUARD, HSCOPE and HDUP. -/
theorem statusMask_getLsbD : ∀ i < 64, (4 : DWord).getLsbD i = decide (i = 2) ∧ (0xFE00 : DWord).getLsbD i = decide (9 ≤ i ∧ i < 16) ∧
    (0xFE04 : DWord).getLsbD i = decide (i = 2 ∨ 9 ≤ i ∧ i < 16) ∧ (0x30000 : DWord).getLsbD i = decide (16 ≤ i ∧ i < 18) ∧
    (0xC0000 : DWord).getLsbD i = decide (18 ≤ i ∧ i < 20) ∧ (0x700000 : DWord).getLsbD i = decide (20 ≤ i ∧ i < 23) ∧
    (0x800000 : DWord).getLsbD i = decide (i = 23) := by
  decide

/-- The pending types of a saved STATUS word that a mask keeps: HPEND of both (R29). -/
theorem and_hpendMask_eq_zero (x m : DWord) : x &&& 0xFE00 &&& m = 0 ↔ x.extractLsb' 9 7 &&& m.extractLsb' 9 7 = 0 := by
  constructor
  · intro h
    ext i hi
    have hbit := congrArg (BitVec.getLsbD · (9 + i)) h
    obtain ⟨-, hmask, -⟩ := statusMask_getLsbD (9 + i) (by omega)
    have hin : 9 ≤ 9 + i ∧ 9 + i < 16 := by omega
    simp only [BitVec.getLsbD_and, hmask, hin] at hbit
    simpa using hbit
  · intro h
    ext i hi
    obtain ⟨-, hmask, -⟩ := statusMask_getLsbD i hi
    rw [BitVec.getElem_and, BitVec.getElem_and, ← BitVec.getLsbD_eq_getElem, ← BitVec.getLsbD_eq_getElem, ← BitVec.getLsbD_eq_getElem, hmask]
    by_cases hin : 9 ≤ i ∧ i < 16
    · have hbit := congrArg (BitVec.getLsbD · (i - 9)) h
      have hlt : i - 9 < 7 := by omega
      have hadd : 9 + (i - 9) = i := by omega
      simp only [BitVec.getLsbD_and, BitVec.getLsbD_extractLsb', hlt, hadd] at hbit
      simpa [hin] using hbit
    · simp [hin]

/-- Bit i of a saved STATUS word stays under SYSW STATUS of m: of HPEND the bits that m has, of a type's value field all or none by the
type's bit in m, HDUP by its own; what is no hint stays (R231). -/
def keepsSavedBit (m : DWord) (i : Nat) : Bool :=
  if 9 ≤ i ∧ i < 16 then m.getLsbD i
  else if 16 ≤ i ∧ i < 18 then m.getLsbD 13
  else if 18 ≤ i ∧ i < 20 then m.getLsbD 14
  else if 20 ≤ i ∧ i < 23 then m.getLsbD 11
  else if i = 23 then m.getLsbD 23
  else true

/-- A bit of the saved STATUS word after SYSW STATUS; PPB is the OR of the pending types that are left. -/
theorem editHints_statusSave_getLsbD (w : Workspace) (m : DWord) {i : Nat} (hi : i < 64) :
    (w.editHints m).statusSave.getLsbD i =
      if i = 2 then (w.statusSave.extractLsb' 9 7 &&& m.extractLsb' 9 7 != 0) else (w.statusSave.getLsbD i && keepsSavedBit m i) := by
  obtain ⟨m2, mpend, mboth, mpromo, mguard, mscope, mdup⟩ := statusMask_getLsbD i hi
  have hppb : (if w.statusSave &&& 0xFE00 &&& m = 0 then 0 else 4 : DWord).getLsbD i =
      (decide (i = 2) && (w.statusSave.extractLsb' 9 7 &&& m.extractLsb' 9 7 != 0)) := by
    by_cases h : w.statusSave &&& 0xFE00 &&& m = 0
    · rw [if_pos h, (and_hpendMask_eq_zero _ _).mp h]; simp
    · have hne : (w.statusSave.extractLsb' 9 7 &&& m.extractLsb' 9 7 != 0) = true :=
        bne_iff_ne.mpr fun hz => h ((and_hpendMask_eq_zero _ _).mpr hz)
      rw [if_neg h, m2, hne, Bool.and_true]
  simp only [Workspace.editHints, getLsbD_keepIf _ _ _ hi, BitVec.getLsbD_or, BitVec.getLsbD_and, BitVec.getLsbD_not, hppb, mpend, mboth,
    mpromo, mguard, mscope, mdup, hi]
  grind [keepsSavedBit]

/-- A field of the saved STATUS word that SYSW STATUS keeps or clears as a whole. -/
theorem editHints_statusSave_field (w : Workspace) (m : DWord) {lo n : Nat} {b : Bool} (hlo : 2 < lo ∨ lo + n ≤ 2) (hn : lo + n ≤ 64)
    (hb : ∀ i, lo ≤ i → i < lo + n → keepsSavedBit m i = b) :
    (w.editHints m).statusSave.extractLsb' lo n = if b then w.statusSave.extractLsb' lo n else 0 := by
  ext i hi
  have hbit := editHints_statusSave_getLsbD w m (i := lo + i) (by omega)
  rw [if_neg (by omega), hb _ (by omega) (by omega)] at hbit
  rw [BitVec.getElem_extractLsb', hbit]
  cases b <;> simp

/-- SYSW STATUS edits the saved hints as R231 says. -/
theorem savedHints_editHints (w : Workspace) (m : DWord) : savedHints m w (w.editHints m) := by
  have hpend : (w.editHints m).statusSave.extractLsb' 9 7 = w.statusSave.extractLsb' 9 7 &&& m.extractLsb' 9 7 := by
    ext i hi
    have hbit := editHints_statusSave_getLsbD w m (i := 9 + i) (by omega)
    rw [if_neg (by omega), keepsSavedBit, if_pos (by omega)] at hbit
    simpa using hbit
  have hdup : (w.editHints m).statusSave.getLsbD 23 = (w.statusSave.getLsbD 23 && m.getLsbD 23) :=
    editHints_statusSave_getLsbD w m (by decide)
  have keeps {lo n : Nat} (hlo : 2 < lo ∨ lo + n ≤ 2) (hn : lo + n ≤ 64) (hb : ∀ i, lo ≤ i → i < lo + n → keepsSavedBit m i = true) :
      (w.editHints m).statusSave.extractLsb' lo n = w.statusSave.extractLsb' lo n := editHints_statusSave_field w m hlo hn hb
  refine ⟨hpend, editHints_statusSave_getLsbD w m (by decide), ?hscope, ?hpromo, ?hguard, hdup, ?priv, ?live, ?upper, rfl, rfl, rfl, rfl, rfl⟩
  case hscope => exact editHints_statusSave_field w m (by omega) (by omega) (by grind [keepsSavedBit])
  case hpromo => exact editHints_statusSave_field w m (by omega) (by omega) (by grind [keepsSavedBit])
  case hguard => exact editHints_statusSave_field w m (by omega) (by omega) (by grind [keepsSavedBit])
  case priv => exact keeps (by omega) (by omega) (by grind [keepsSavedBit])
  case live => exact keeps (by omega) (by omega) (by grind [keepsSavedBit])
  case upper => exact keeps (by omega) (by omega) (by grind [keepsSavedBit])

/-! ## The system registers -/

/-- A word of SYSW whose register no level may write, or whose index names none, is ILLEGAL (R27, R28). -/
theorem exec_sysw_illegal {s : State} {a : Reg} {n : Fin 256} (hh : s.hasHandler) (h : readOnly n.val = true ∨ 0x16 < n.val) :
    exec (.sysw a n) s = .next (s.trapped .illegal 0 ((encode (.sysw a n)).setWidth 64)) := by
  have hb : (decide (0x16 < n.val) || readOnly n.val) = true := by rcases h with h | h <;> simp [h]
  exact (issueWith_illegal (bad := fun _ => decide (0x16 < n.val) || readOnly n.val) (.inr (.inl hb))).trans (fault_handler hh)

/-- SYSW of a value that HBIVL does not take (R28). -/
theorem exec_sysw_refused {s : State} {a : Reg} {n : Fin 256} (hh : s.hasHandler) (h : mayRunAt 1 (.sysw a n) s) (hn : n.val = 0x0A)
    (hv : (s.thr.sreg a).toNat < 2 ^ 12 ∨ 2 ^ 32 < (s.thr.sreg a).toNat) : trapsWith .operand s (exec (.sysw a n) s) := by
  have hb : (decide (0x16 < n.val) || readOnly n.val) = false := by rw [hn]; rfl
  have hw : s.writeSys n.val (s.thr.sreg a) = none := by rw [hn]; exact if_neg (by omega)
  have faults : exec (.sysw a n) s = fault .operand 0 none s := by
    refine (issueWith_ok (bad := fun _ => decide (0x16 < n.val) || readOnly n.val) h.1 hb (by rw [hn]; exact h.2)).trans ?_
    rw [hw]
  exact faults ▸ fault_open hh

/-- SWPWP to a place that may hold a workspace moves there (R232). -/
theorem exec_swpwp_moves {s : State} {a : Reg} (h : mayRun (.swpwp a) s) (hw : s.wpBad (s.thr.sreg a).toNat = false)
    (hb : s.badAt (.lm s.thr.id.core (s.thr.sreg a).toNat) Config.wsBytes = false) :
    exec (.swpwp a) s = retireWithin 8 96 (s.moveWorkspace (s.thr.sreg a).toNat) := by
  refine (issue_ok h).trans ?_
  simp only [hw, hb, Bool.false_eq_true, if_false]

/-- SWPWP elsewhere is a WSPLACE fault (R12, R232). -/
theorem exec_swpwp_faults {s : State} {a : Reg} (hh : s.hasHandler) (h : mayRun (.swpwp a) s) (hw : s.wpBad (s.thr.sreg a).toNat = true) :
    exec (.swpwp a) s = .next (s.trapped .align wsplace (s.thr.sreg a)) := by
  refine (issue_ok h).trans ?_
  simp only [hw, if_true]
  exact fault_handler hh

/-- Settles O46, by the register that an index names and by whether the level may write it. -/
theorem systemRegisters : Obligations.SystemRegisters := by
  refine ⟨?sysr, ?sysrIllegal, ?supervisor, ?user, ?syswIllegal, ?swpwp⟩
  case sysr =>
    intro s d n hn h hl
    obtain ⟨v, hv⟩ := sysReg_isSome s hn
    refine ⟨v, exec_sysr h hn ?_ hv, sysReads_sysReg hv⟩
    unfold readLevel
    split
    · next hp => exact hl (by simpa using hp)
    · exact Nat.zero_le _
  case sysrIllegal =>
    intro s d n hh hn
    have hb : decide (0x16 < n.val) = true := decide_eq_true hn
    exact (issueWith_illegal (bad := fun _ => decide (0x16 < n.val)) (.inr (.inl hb))).trans (fault_handler hh)
  case supervisor =>
    intro s a n h v
    have hl : writeLevel n.val ≤ s.thr.status.priv.toNat := Nat.le_trans (writeLevel_le_one _) h.2
    refine ⟨fun hw => exec_sysw_reads h.1 hw hl, fun hn => ?asid, fun hn => ?status, fun hn hh hv => exec_sysw_refused hh h hn hv⟩
    case asid =>
      refine ⟨_, exec_sysw (t := { s.thr with asid := v.setWidth 16 }) h.1 (by omega) (by rw [hn]; rfl) hl (by rw [hn]; rfl), ?_, rfl⟩
      exact sysReads_sysReg rfl
    case status =>
      obtain ⟨t, ht, hu, hws⟩ := exec_sysw_status h.1 hn
      have hpriv : s.thr.status.priv ≠ 0 := fun hz => absurd h.2 (by rw [hz]; decide)
      exact ⟨t, ht, hu, by rw [hws, if_neg hpriv]; exact savedHints_editHints _ _⟩
  case user =>
    intro s a n h hpriv v
    refine ⟨fun hn => ?plain, fun hn => ?status⟩
    case plain =>
      have hw : sysWrites s n.val v := .inl (by simp only [List.mem_cons, List.not_mem_nil, or_false] at hn ⊢; omega)
      have hl : writeLevel n.val ≤ s.thr.status.priv.toNat := by
        simp only [List.mem_cons, List.not_mem_nil, or_false] at hn
        rcases hn with hn | hn | hn | hn | hn <;> rw [hn] <;> exact Nat.zero_le _
      obtain ⟨t, ht, hreads, hmem, hs, -⟩ := exec_sysw_reads h hw hl
      exact ⟨t, ht, hreads, hmem, hs⟩
    case status =>
      obtain ⟨t, ht, hu, hws⟩ := exec_sysw_status h hn
      exact ⟨t, ht, hu, by rw [hws, if_pos hpriv]⟩
  case syswIllegal =>
    intro s a n hh hn
    exact exec_sysw_illegal hh (hn.imp_left fun hn => by simpa [readOnly] using hn)
  case swpwp =>
    intro s a h v
    exact ⟨fun hw hb => ⟨_, exec_swpwp_moves h hw hb, rfl, rfl, rfl⟩, fun hh hw => exec_swpwp_faults hh h hw⟩

end Sys2Proof.Machine
end

section
/-!
PROOFS. What a slot that waits goes on with (spec/02_idioms.md R47, R48; spec/14_scheduler.md R274; spec/10_system_instr.md R227, R234):
a unit's step on one slot, an acquire, the entry of a notify, the answers to a heartbeat that has run out, and the start of a window.
-/
namespace Sys2Proof.Machine

/-! ## A unit's step on one slot -/

/-- The state with a slot in focus has that slot's thread as the one that executes. -/
theorem State.focus_id {s f : State} {slot : SlotId} (h : s.focus slot = some f) : f.thr.id = slot := by
  unfold State.focus at h
  split at h
  · next hid =>
    split at h
    · cases h
    · cases h; exact hid
  · split at h
    · cases h
    · next t ht => cases h; simpa using List.find?_some ht

/-- A unit's step that goes on in the slot's thread leaves the focus where it was. -/
theorem onSlot_next {row : String} {slot : SlotId} {s f u : State} {g : State → Out} (hf : s.focus slot = some f) (hg : g f = .next u) :
    onSlot row slot s g = .next (s.refocus u) := by
  simp only [onSlot, hf, hg, State.refocus]

/-! ## An acquire touches no thread and no memory (R128, R246) -/

@[simp] theorem State.acquire_thr (s : State) (core : Nat) (sc : Scope) : (s.acquire core sc).thr = s.thr := by
  unfold State.acquire; split <;> rfl
@[simp] theorem State.acquire_others (s : State) (core : Nat) (sc : Scope) : (s.acquire core sc).others = s.others := by
  unfold State.acquire; split <;> rfl
@[simp] theorem State.acquire_mem (s : State) (core : Nat) (sc : Scope) : (s.acquire core sc).mem = s.mem := by
  unfold State.acquire; split <;> rfl
@[simp] theorem State.acquireIf_thr (s : State) (core : Nat) (sc : Option Scope) : (s.acquireIf core sc).thr = s.thr := by
  cases sc with
  | none => rfl
  | some sc => exact s.acquire_thr core sc
@[simp] theorem State.acquireIf_mem (s : State) (core : Nat) (sc : Option Scope) : (s.acquireIf core sc).mem = s.mem := by
  cases sc with
  | none => rfl
  | some sc => exact s.acquire_mem core sc

/-- The acquires of several slots, one after the other. -/
def State.acquireAll (s : State) (l : List Thread) (sc : Scope) : State := l.foldl (fun s t => s.acquire t.id.core sc) s

/-- Together they touch no thread and no memory either. -/
theorem State.acquireAll_frame (s : State) (l : List Thread) (sc : Scope) :
    (s.acquireAll l sc).thr = s.thr ∧ (s.acquireAll l sc).others = s.others ∧ (s.acquireAll l sc).mem = s.mem := by
  induction l generalizing s with
  | nil => exact ⟨rfl, rfl, rfl⟩
  | cons t l ih =>
    obtain ⟨ht, ho, hm⟩ := ih (s.acquire t.id.core sc)
    exact ⟨ht.trans (s.acquire_thr ..), ho.trans (s.acquire_others ..), hm.trans (s.acquire_mem ..)⟩

/-! ## WFE, ring waits and realignments -/

/-- WFE ends with its acquire once its monitor has tripped (R234). -/
theorem exec_wfeWake {s f : State} {slot : SlotId} {m : Monitor} (hf : s.focus slot = some f) (hw : f.thr.wait = .monitor)
    (hr : f.thr.run = .running) (hm : f.thr.monitor = some m) (ht : m.tripped = true) :
    exec (.wfeWake slot) s = .next (s.refocus
      ((({ f with thr := { f.thr with monitor := none } } : State).acquire f.thr.id.core .dv).passed 8)) := by
  refine onSlot_next hf (if_pos ⟨hw, hr, ?_⟩)
  rw [hm]
  exact ht

/-- The slots that a consumer finds filled, counted modulo 2^32 (R134, R136). -/
theorem filledSlots_eq (d : QWord) (tail : Nat) :
    (filledSlots d tail : Int) = ((tail : Int) - (d.toNat % 2 ^ 32 : Nat)) % 2 ^ 32 := by
  have hpos : qPos d = d.toNat % 2 ^ 32 := by rw [qPos, bits, Nat.pow_zero, Nat.div_one]
  rw [filledSlots, ringGap, hpos]
  omega

/-- The slots that a producer finds free, counted modulo 2^32 (R134, R136). -/
theorem freeSlots_eq (d : QWord) (head : Nat) :
    (freeSlots d head : Int) = ((qCap d : Int) - (((d.toNat % 2 ^ 32 : Nat) : Int) - head)) % 2 ^ 32 := by
  have hpos : qPos d = d.toNat % 2 ^ 32 := by rw [qPos, bits, Nat.pow_zero, Nat.div_one]
  rw [freeSlots, ringRoom, ringGap, hpos]
  omega

/-- The count that a ring wait asks for is there. -/
theorem ringReady_of_count {u : State} {d : QWord} {h : Home} {n : Nat} {w : Bool}
    (hn : (w = false ∧ (n : Int) ≤ ((u.ringTail h : Int) - (d.toNat % 2 ^ 32 : Nat)) % 2 ^ 32) ∨
      (w = true ∧ (n : Int) ≤ ((qCap d : Int) - (((d.toNat % 2 ^ 32 : Nat) : Int) - u.ringHead h)) % 2 ^ 32)) :
    u.ringReady d h n w = true := by
  rcases hn with ⟨rfl, hn⟩ | ⟨rfl, hn⟩
  · rw [← filledSlots_eq] at hn
    exact decide_eq_true (Int.ofNat_le.mp hn)
  · rw [← freeSlots_eq] at hn
    exact decide_eq_true (Int.ofNat_le.mp hn)

/-- QWAIT or QRSV of a ring that may be used and whose count is there completes with an acquire (R136). -/
theorem ringWait_ready {f u : State} {q : QReg} {n : Nat} {w : Bool} {r : LaneReq} (hq : f.qOk (f.thr.qreg q) = true)
    (hrole : qRole (f.thr.qreg q) = if w then 2 else 1) (hcap : n ≤ qCap (f.thr.qreg q))
    (hy : yields (controlThen (f.thr.qreg q) .load f) r u) (hready : u.ringReady (f.thr.qreg q) r.home n w = true) :
    ringWait q n w f =
      .next ((u.acquire u.thr.id.core .dv).passedWithin 8 (loadBound u.thr.id (qBase (f.thr.qreg q)))) := by
  have hpass : (!f.qOk (f.thr.qreg q) || decide (qRole (f.thr.qreg q) ≠ if w then 2 else 1) || decide (qCap (f.thr.qreg q) < n)) =
      false := by
    simp [hq, hrole, hcap]
  simp only [ringWait, ringThen, id, hpass, Bool.false_eq_true, if_false]
  refine (hy _).trans ?_
  rw [if_pos hready]
  rfl

/-- A stalled QWAIT or QRSV completes as its word would at the ring's present count. -/
theorem exec_qwaitSatisfied {s f u : State} {slot : SlotId} {q : QReg} {n : Nat} {w : Bool} (hf : s.focus slot = some f)
    (hw : f.thr.wait = .ring q n w) (hu : ringWait q n w f = .next u) (hends : u.thr.wait = .none) :
    exec (.qwaitSatisfied slot) s = .next (s.refocus u) := by
  have hgo : u.thr.wait ≠ .ring q n w := by rw [hends]; exact nofun
  show execQwaitSatisfied slot s = _
  simp only [execQwaitSatisfied, hf, hw, hu, hgo, if_false]
  rfl

/-- A realignment is over at its timeout (R47). -/
theorem exec_realignTimeout {s f : State} {slot : SlotId} {n : Nat} (hf : s.focus slot = some f) (hw : f.thr.wait = .realign n)
    (hn : n ≤ f.clock) (hr : f.thr.run = .running) :
    exec (.realignTimeout slot) s = .next (s.refocus
      (if f.thr.role = .leader then f.rejoinMet else { f with thr := { f.thr with wait := .none, realigned := true } })) := by
  have hopen : ¬ (f.clock < n ∨ f.thr.run ≠ .running) := fun h => h.elim (Nat.not_lt.mpr hn) (· hr)
  refine onSlot_next hf ?_
  simp only [hw, hopen, if_false]
  split <;> rfl

/-! ## The entry of a notify (R39, R227, R237) -/

/-- The thread once its first notify has entered the user handler: a follower detaches (R270). -/
def Thread.notified (t : Thread) (now : Nat) (n : Notify) (rest : List Notify) : Thread :=
  let p := t.pastWfe now
  let u := p.enterUser p.pc n.ucause p.uivec (now + entryCycles p.loops)
  let follows : Bool := u.role = .follower
  { u with notifies := rest, role := if follows then .detached else u.role, fifo := if follows then [] else u.fifo }

@[simp] theorem Thread.pastWfe_uivec (t : Thread) (now : Nat) : (t.pastWfe now).uivec = t.uivec := by
  unfold Thread.pastWfe; split <;> rfl

/-- A pending notify that may be taken enters the handler, with the acquire that its command asked for. -/
theorem exec_notifyEntry {s f : State} {slot : SlotId} {n : Notify} {rest : List Notify} (hf : s.focus slot = some f)
    (ht : f.thr.takesNotify = true) (hb : f.thr.between f.clock = true) (hx : isTransform f.thr.id = false)
    (hn : f.thr.notifies = n :: rest) (hq : n.acq = some .sy → f.hostsPending = false) :
    exec (.notifyEntry slot) s = .next (s.refocus
      (({ f with thr := f.thr.notified f.clock n rest } : State).acquireIf f.thr.id.core n.acq)) := by
  have hquiet : ¬ (n.acq = some .sy && f.hostsPending) = true := by simpa using hq
  refine onSlot_next hf ?_
  simp only [ht, hb, hx, hn, Bool.not_true, Bool.or_false, Bool.false_eq_true, if_false]
  exact if_neg hquiet

/-- What the entry of a notify leaves, whatever the slot was at. -/
theorem Thread.notified_entry (t : Thread) (now : Nat) (n : Notify) (rest : List Notify) : let u := t.notified now n rest;
    u.ucause = n.ucause ∧ u.pc = pcOf t.uivec ∧ u.status.inui = true ∧ u.notifies = rest ∧ u.loops = [] ∧ u.wait = .none ∧
      u.role ≠ .follower := by
  refine ⟨rfl, congrArg pcOf (t.pastWfe_uivec now), rfl, rfl, rfl, rfl, ?_⟩
  show (if decide ((t.pastWfe now).role = .follower) then Role.detached else (t.pastWfe now).role) ≠ .follower
  split
  · exact nofun
  · next h => simpa using h

/-- A notify between two words saves the address of the next word and the hints that are pending. -/
theorem Thread.notified_between {t : Thread} {now : Nat} {n : Notify} {rest : List Notify} (h : t.wait ≠ .monitor) :
    (t.notified now n rest).upc = t.pc.setWidth 64 ∧ (t.notified now n rest).ws.statusSave = t.status.toWord := by
  have hp : t.pastWfe now = t := if_neg h
  constructor
  · show (t.pastWfe now).pc.setWidth 64 = _
    rw [hp]
  · show (t.pastWfe now).status.toWord = _
    rw [hp]

/-- A notify in WFE ends it, and saves the address of the word that follows and no hint (R234). -/
theorem Thread.notified_wfe {t : Thread} {now : Nat} {n : Notify} {rest : List Notify} (h : t.wait = .monitor) :
    (t.notified now n rest).upc = ((backEdge t.loops (t.pc + 4)).2).setWidth 64 ∧
      (t.notified now n rest).ws.statusSave = t.status.clearHints.toWord := by
  have hp : t.pastWfe now = (t.done now).arrive t.following := if_pos h
  constructor
  · show (t.pastWfe now).pc.setWidth 64 = _
    rw [hp]
    rfl
  · show (t.pastWfe now).status.toWord = _
    rw [hp]
    rfl

/-! ## A heartbeat that has run out (R48, R274) -/

/-- What comes of a slot's heartbeat that has run out, in a slot of a core (R48, R274, R367). -/
def heartbeatAnswer (slot : SlotId) (s : State) : Out :=
  match s.thr.wait with
  | .ring .. => .next (endByHeartbeat .qtimeout s.thr s)
  | _ => if s.thr.stalledRing then .next (endByHeartbeat .qtimeout s.thr s) else match s.awaitsFabric s.thr with
    | some v => fault .window 0 v { s with thr := { s.thr with hbMet := true } }
    | none => .next (if (s.core slot.core).fenced then endByHeartbeat .heartbeat s.thr s else s.fenceCore s.thr)

/-- A node that has no end in progress takes the end that a heartbeat gives it. -/
theorem nodeLives_takesEnd {f : State} (h : nodeLives f) (e : Ending) :
    (f.node? f.thr.node).any (fun n => !f.takesEnd e n) = false := by
  cases hn : f.node? f.thr.node with
  | none => rfl
  | some n =>
    obtain ⟨hending, hends⟩ := h n hn
    simp [State.takesEnd, hending, hends]

/-- HEARTBEAT_EXPIRY of a slot that stands at a core, whose count has run out and whose node lives. -/
theorem exec_heartbeatExpiry {s f u : State} {slot : SlotId} (hf : s.focus slot = some f) (he : f.expired f.thr = true)
    (hn : nodeLives f) (hx : isTransform slot = false) (hl : s.lateMember slot = none) (hu : heartbeatAnswer slot f = .next u) :
    exec (.heartbeatExpiry slot) s = .next (s.refocus u) := by
  show execHeartbeatExpiry slot s = _
  unfold execHeartbeatExpiry
  rw [hl]
  refine onSlot_next hf ?_
  simp only [he, nodeLives_takesEnd hn, hx, Bool.not_true, Bool.or_false, Bool.false_eq_true, if_false]
  exact hu

/-- In a ring wait the node ends with QTIMEOUT (R48). -/
theorem heartbeatAnswer_ring {slot : SlotId} {s : State} (h : ringWaits s.thr) :
    heartbeatAnswer slot s = .next (endByHeartbeat .qtimeout s.thr s) := by
  unfold heartbeatAnswer
  split
  · rfl
  · next hw =>
    rcases h with ⟨q, n, w, h⟩ | h
    · exact absurd h (hw q n w)
    · exact if_pos h

/-- Elsewhere it turns on whether the slot waits for a Vexey port (R138). -/
theorem heartbeatAnswer_else {slot : SlotId} {s : State} (h : ¬ ringWaits s.thr) :
    heartbeatAnswer slot s = match s.awaitsFabric s.thr with
      | some v => fault .window 0 v { s with thr := { s.thr with hbMet := true } }
      | none => .next (if (s.core slot.core).fenced then endByHeartbeat .heartbeat s.thr s else s.fenceCore s.thr) := by
  unfold heartbeatAnswer
  split
  · next q n w hw => exact absurd (.inl ⟨q, n, w, hw⟩) h
  · exact if_neg fun hs => h (.inr hs)

/-- A slot whose STVEC reads other than 0 has a handler for its traps (R236, R350). -/
theorem State.hasHandler_of_stvecOf {s : State} (hx : isTransform s.thr.id = false) (h : s.stvecOf s.thr ≠ 0) :
    s.hasHandler ∧ s.stvecOf s.thr = s.thr.stvec := by
  unfold State.stvecOf at h ⊢
  split at h
  · exact absurd rfl h
  · next hp =>
    rw [if_neg hp]
    exact ⟨⟨hx, by simpa using hp, h⟩, rfl⟩

/-- A fault whose value the manual leaves open is the trap with a free value (log 19). -/
theorem fault_none {c : Cause} {cls : BitVec 8} {s : State} (h : s.hasHandler) :
    fault c cls none s = .next (s.trapped c cls (Config.openEval s.fresh)).used :=
  trapTo_open (s := { s with thr := { s.thr.clearHints with retried := false, progress := 0, geo := [], claims := [] } }) h

/-- A fault with a handler enters the trap with the value given, or with one that is left open, and leaves memory. -/
theorem fault_enters {c : Cause} {cls : BitVec 8} {v : Option DWord} {s : State} (h : s.hasHandler) :
    ∃ x u, fault c cls v s = .next u ∧ (∀ y, v = some y → x = y) ∧ u.thr = (s.trapped c cls x).thr ∧ u.mem = s.mem := by
  cases v with
  | some y => exact ⟨y, _, fault_handler h, fun _ hy => Option.some.inj hy, rfl, rfl⟩
  | none => exact ⟨_, _, fault_none h, fun _ hy => (nomatch hy), rfl, rfl⟩

/-- A slot that waits for a Vexey port traps WINDOW, once for the count (R48, R138). -/
theorem heartbeatAnswer_port {slot : SlotId} {s : State} {v : Option DWord} (h : ¬ ringWaits s.thr) (ha : s.awaitsFabric s.thr = some v)
    (hx : isTransform s.thr.id = false) (hv : s.stvecOf s.thr ≠ 0) : ∃ u : State, heartbeatAnswer slot s = .next u ∧
      u.thr.ecause = BitVec.ofNat 64 Cause.window.code ∧ u.thr.pc = pcOf (s.stvecOf s.thr) ∧ u.thr.epc = s.thr.pc.setWidth 64 ∧
      (∀ x, v = some x → u.thr.eval = x) ∧ u.thr.hbMet = true ∧ u.mem = s.mem := by
  obtain ⟨hh, hvec⟩ := State.hasHandler_of_stvecOf hx hv
  obtain ⟨x, u, hu, hval, hthr, hmem⟩ :=
    fault_enters (c := .window) (cls := 0) (v := v) (s := { s with thr := { s.thr with hbMet := true } }) hh
  refine ⟨u, ?_, ?_⟩
  · rw [heartbeatAnswer_else h, ha]
    exact hu
  · rw [hthr, hvec]
    exact ⟨rfl, rfl, rfl, hval, rfl, hmem⟩

/-! ## Waits for names, and the test of a fenced core -/

/-- A TOPENW whose timeout has come is answered with 0 (R293). -/
theorem exec_topenwTimeout {s : State} {slot : SlotId} {t : Thread} {d : Reg} {name due : Nat} (ht : s.thread? slot = some t)
    (hw : t.wait = .name d name due) (hdue : due ≤ s.clock) (hn : ∀ n, s.node? t.node = some n → n.closing = false) :
    exec (.topenwTimeout slot) s = .next (s.answerName slot (some 0)) := by
  have hopen : ¬ (decide (s.clock < due) || (s.node? t.node).any Node.closing) = true := by
    cases hnode : s.node? t.node with
    | none => simpa using hdue
    | some n => simpa [hn n hnode] using hdue
  show execTopenwTimeout slot s = _
  simp only [execTopenwTimeout, ht, hw]
  exact if_neg hopen

/-- Records that a unit takes change no core and no memory. -/
theorem State.foldl_post (l : List FaultRecord) (s : State) :
    (l.foldl State.post s).cores = s.cores ∧ (l.foldl State.post s).mem = s.mem := by
  induction l generalizing s with
  | nil => exact ⟨rfl, rfl⟩
  | cons r l ih => exact ih (s.post r)

/-- A core that offers its records keeps those that have no room, and changes nothing else of itself. -/
theorem State.offerOwed_core (s : State) (core : Nat) : ∃ l, (s.offerOwed core).core core = { s.core core with owed := l } :=
  ⟨_, (congrArg (assocD · core Core.reset) (State.foldl_post _ _).1).trans (State.setCore_core ..)⟩

@[simp] theorem State.offerOwed_testing (s : State) (core : Nat) : ((s.offerOwed core).core core).testing = (s.core core).testing := by
  obtain ⟨l, hl⟩ := s.offerOwed_core core
  rw [hl]
@[simp] theorem State.offerOwed_fenced (s : State) (core : Nat) : ((s.offerOwed core).core core).fenced = (s.core core).fenced := by
  obtain ⟨l, hl⟩ := s.offerOwed_core core
  rw [hl]
@[simp] theorem State.offerOwed_mem (s : State) (core : Nat) : (s.offerOwed core).mem = s.mem := (State.foldl_post _ _).2

/-- The test of an acknowledged core ends, with the core in service or fenced (R274). -/
theorem exec_fenceTestDone {s : State} {core : Nat} (b : Bool) (h : (s.core core).testing = true) :
    ∃ t : State, exec (.fenceTestDone core b) s = .next t ∧ (t.core core).testing = false ∧ (t.core core).fenced = !b ∧
      t.mem = s.mem := by
  have hgo : ¬ (!(s.core core).testing) = true := by rw [h]; decide
  refine ⟨_, if_neg hgo, ?_⟩
  simp only [State.offerOwed_testing, State.offerOwed_fenced, State.offerOwed_mem, State.setCore_core, State.setCore_mem, and_self]

/-! ## The start of a window (R133, R248) -/

/-- The window has begun for which a FENCE.win waits, and no host's write holds it. -/
def State.windowReady (s : State) (t : Thread) : Bool :=
  match t.wait with
  | .window w => decide (w ≤ s.windowNow) && !s.hostsPending
  | _ => false

/-- A thread once the window has begun. -/
def State.pastWindow (s : State) (t : Thread) : Thread :=
  if s.windowReady t then t.stepOr ((t.done (s.clock + 8)).arrive t.following) else t

/-- WINDOW_START with a slot that waits for it. -/
theorem exec_windowStart {s : State} (h : ∃ x ∈ s.threads, s.windowReady x = true) :
    exec .windowStart s = .next (({ s with thr := s.pastWindow s.thr, others := s.others.map s.pastWindow } : State).acquireAll
      (s.threads.filter s.windowReady) .sy) := by
  obtain ⟨x, hx, hr⟩ := h
  have hmem : x ∈ s.threads.filter s.windowReady := List.mem_filter.mpr ⟨hx, hr⟩
  show (match s.threads.filter s.windowReady with
    | [] => notEnabled "WINDOW_START"
    | l => .next (({ s with thr := s.pastWindow s.thr, others := s.others.map s.pastWindow } : State).acquireAll l .sy)) = _
  split
  · next he => rw [he] at hmem; cases hmem
  · rfl

/-- A thread past the window waits for no window that has begun. -/
theorem State.pastWindow_waits {s : State} {t : Thread} {w : Nat} (hq : s.hostsPending = false)
    (h : (s.pastWindow t).wait = .window w) : s.windowNow < w := by
  unfold State.pastWindow Thread.stepOr at h
  split at h
  · split at h <;> cases h
  · next hr =>
    simpa [State.windowReady, h, hq] using hr

/-- A thread of the module is the one in focus or one of the others. -/
theorem State.mem_threads {s : State} {t : Thread} (h : t ∈ s.threads) : t = s.thr ∨ t ∈ s.others := by
  unfold State.threads at h
  split at h
  · exact .inr (by simpa using h)
  · simpa using h

/-- Settles O49, by what the slot waits for. -/
theorem slotEvents : Obligations.SlotEvents := by
  refine ⟨fun s f slot hf => ⟨?wfe, ?ring, ?realign, ?notify, ?heartbeat⟩, ?topenw, ?test, ?window⟩
  case wfe => exact fun m hw hr hm ht => exec_wfeWake hf hw hr hm ht
  case ring =>
    intro q n w r u d hw hq hrole hcap hy hn
    exact exec_qwaitSatisfied hf hw (ringWait_ready hq hrole hcap hy (ringReady_of_count hn)) rfl
  case realign => exact fun n hw hn hr => exec_realignTimeout hf hw hn hr
  case notify =>
    intro n rest ht hb hx hn hq
    refine ⟨_, exec_notifyEntry hf ht hb hx hn hq, ?_⟩
    obtain ⟨hcause, hpc, hin, hrest, hloops, hwait, hrole⟩ := f.thr.notified_entry f.clock n rest
    rw [State.acquireIf_thr, State.acquireIf_mem]
    exact ⟨hcause, hpc, hin, hrest, hloops, hwait, rfl, hrole, Thread.notified_between, Thread.notified_wfe⟩
  case heartbeat =>
    intro he hn hx hl
    refine ⟨fun hr => exec_heartbeatExpiry hf he hn hx hl (heartbeatAnswer_ring hr), fun hr ha => ?atCore, fun v hr ha hv => ?atPort⟩
    case atCore =>
      refine exec_heartbeatExpiry hf he hn hx hl ?_
      rw [heartbeatAnswer_else hr, ha]
    case atPort =>
      obtain ⟨u, hu, htrap⟩ := heartbeatAnswer_port (slot := slot) hr ha (State.focus_id hf ▸ hx) hv
      exact ⟨u, exec_heartbeatExpiry hf he hn hx hl hu, htrap⟩
  case topenw => exact fun s slot t d name due ht hw hdue hn => exec_topenwTimeout ht hw hdue hn
  case test => exact fun s core b h => exec_fenceTestDone b h
  case window =>
    intro s hq ⟨x, hx, w, hw, hle⟩
    have hready : s.windowReady x = true := by simp [State.windowReady, hw, hq, hle]
    refine ⟨_, exec_windowStart ⟨x, hx, hready⟩, ?_⟩
    obtain ⟨hthr, hothers, hmem⟩ := State.acquireAll_frame { s with thr := s.pastWindow s.thr, others := s.others.map s.pastWindow }
      (s.threads.filter s.windowReady) .sy
    refine ⟨fun y hy v hv => ?_, hmem⟩
    have hy' := State.mem_threads hy
    rw [hthr, hothers] at hy'
    rcases hy' with rfl | hy'
    · exact State.pastWindow_waits hq hv
    · obtain ⟨z, -, rfl⟩ := List.mem_map.mp hy'
      exact State.pastWindow_waits hq hv

end Sys2Proof.Machine
end

section
/-!
PROOFS. Decoding and encoding agree both ways (spec/03_encoding.md R50, R54 to R62, R66): the word of a legal instruction decodes to it,
by the family Roundtrip; a word that decodes is its instruction's word, since every bit of it lies in a field that the decoder reads as
an operand or checks.
-/
namespace Sys2Proof

/-! ## The values of fields -/

/-- A field is below every bound that its width keeps to. -/
theorem bits_lt_of_le {n hi lo k : Nat} (h : 2 ^ (hi + 1 - lo) ≤ k) : bits n hi lo < k :=
  Nat.lt_of_lt_of_le (Machine.bits_lt n hi lo) h

/-- A field that lies in a field of known value. -/
theorem bits_of_field {n hi lo x : Nat} (hf : bits n hi lo = x) (hi' lo' : Nat) (hlo : lo ≤ lo' := by decide)
    (hhi : hi' ≤ hi := by decide) (h : lo' ≤ hi' := by decide) :
    bits n hi' lo' = x / 2 ^ (lo' - lo) % 2 ^ (hi' + 1 - lo') := by
  obtain ⟨a, rfl⟩ := Nat.exists_eq_add_of_le hlo
  obtain ⟨b, rfl⟩ := Nat.exists_eq_add_of_le h
  obtain ⟨c, rfl⟩ := Nat.exists_eq_add_of_le hhi
  have hw : lo + a + b + c + 1 - lo = a + (b + 1 + c) := by omega
  have hv : lo + a + b + 1 - (lo + a) = b + 1 := by omega
  rw [← hf, bits, bits, hw, hv, Nat.add_sub_cancel_left, Nat.pow_add 2 lo a, ← Nat.div_div_eq_div_mul, Nat.pow_add 2 a,
    Nat.mod_mul_right_div_self, Nat.pow_add 2 (b + 1), Nat.mod_mul_right_mod]

theorem val_ofNat_of_lt {k x : Nat} [NeZero k] (h : x < k) : (Fin.ofNat k x).val = x := Nat.mod_eq_of_lt h

theorem bit_toNat (n i : Nat) : (bit n i).toNat = bits n i i := by
  rw [bits, Nat.add_sub_cancel_left, Nat.pow_one, bit]
  rcases Nat.mod_two_eq_zero_or_one (n / 2 ^ i) with h | h <;> rw [h] <;> rfl

theorem Width.toBits_ofBits {x : Nat} (h : x < 2) : (Width.ofBits x).toBits = x := by
  match x with
  | 0 | 1 => rfl

theorem FaddFmt.toBits_ofBits {x : Nat} (h : x < 2) : (FaddFmt.ofBits x).toBits = x := by
  match x with
  | 0 | 1 => rfl

theorem Dom.toBits_ofBits {x : Nat} (h : x < 2) : (Dom.ofBits x).toBits = x := by
  match x with
  | 0 | 1 => rfl

theorem Ord.toBits_ofBits {x : Nat} (h : x < 4) : (Ord.ofBits x).toBits = x := by
  match x with
  | 0 | 1 | 2 | 3 => rfl

theorem Round.toBits_ofBits {x : Nat} (h : x < 4) : (Round.ofBits x).toBits = x := by
  match x with
  | 0 | 1 | 2 | 3 => rfl

theorem ScanKind.toBits_ofBits {x : Nat} (h : x < 4) : (ScanKind.ofBits x).toBits = x := by
  match x with
  | 0 | 1 | 2 | 3 => rfl

theorem VCmp.toBits_ofBits {x : Nat} (h : x < 8) : (VCmp.ofBits x).toBits = x := by
  match x with
  | 0 | 1 | 2 | 3 | 4 | 5 | 6 | 7 => rfl

theorem ExtFrom.toBits_of_ofBits? {x : Nat} {e : ExtFrom} (h : ExtFrom.ofBits? x = some e) : e.toBits = x := by
  unfold ExtFrom.ofBits? at h
  split at h <;> cases h <;> rfl

theorem ShiftKind.toBits_of_ofBits? {x : Nat} {t : ShiftKind} (h : ShiftKind.ofBits? x = some t) : t.toBits = x := by
  unfold ShiftKind.ofBits? at h
  split at h <;> cases h <;> rfl

theorem LdSize.toBits_of_ofBits? {x : Nat} {s : LdSize} (h : LdSize.ofBits? x = some s) : s.toBits = x := by
  unfold LdSize.ofBits? at h
  split at h <;> cases h <;> rfl

theorem StSize.toBits_of_ofBits? {x : Nat} {s : StSize} (h : StSize.ofBits? x = some s) : s.toBits = x := by
  unfold StSize.ofBits? at h
  split at h <;> cases h <;> rfl

theorem Scope.toBits_of_ofBits? {x : Nat} {s : Scope} (h : Scope.ofBits? x = some s) : s.toBits = x := by
  unfold Scope.ofBits? at h
  split at h <;> cases h <;> rfl

theorem GSize.toBits_of_ofBits? {x : Nat} {z : GSize} (h : GSize.ofBits? x = some z) : z.toBits = x := by
  unfold GSize.ofBits? at h
  split at h <;> cases h <;> rfl

theorem AmoOp.toBits_of_ofBits? {x : Nat} {f : AmoOp} (h : AmoOp.ofBits? x = some f) : f.toBits = x := by
  unfold AmoOp.ofBits? at h
  split at h <;> cases h <;> rfl

theorem Elem.toBits_of_ofBits? {x : Nat} {e : Elem} (h : Elem.ofBits? x = some e) : e.toBits = x := by
  unfold Elem.ofBits? at h
  split at h <;> cases h <;> rfl

/-- The address mode and the offset that an address was read from (R58). -/
theorem Addr.bits_of_ofBits? {n : Nat} {adr : Addr} (h : Addr.ofBits? (bits n 14 13) (bits n 10 0) = some adr) :
    adr.modeBits = bits n 14 13 ∧ adr.offBits = bits n 10 0 := by
  have hm : bits n 14 13 < 4 := bits_lt_of_le (by decide)
  have ho : bits n 10 0 < 2048 := bits_lt_of_le (by decide)
  have hreg : ∀ {x : Nat}, x / 32 = 0 → x % 32 = x := fun {x} h => by omega
  generalize bits n 14 13 = m at h hm ⊢
  generalize bits n 10 0 = off at h ho ⊢
  match m with
  | 0 | 1 => cases h; exact ⟨rfl, Nat.mod_eq_of_lt ho⟩
  | 2 | 3 =>
    change (if off / 32 = 0 then _ else _) = _ at h
    split at h
    · next hz => cases h; exact ⟨rfl, hreg hz⟩
    · cases h

/-! ## A word as the sum of its fields (R50) -/

/-- The sum of the fields into which the bits of n below top are cut: l holds the number of the lowest bit of each, highest first. -/
def cutSum (n : Nat) : Nat → List Nat → Nat
  | _, [] => 0
  | top, lo :: l => bits n (top - 1) lo * 2 ^ lo + cutSum n lo l

/-- The top field and the bits below it. -/
theorem bits_add_mod (n : Nat) {lo top : Nat} (h : lo < top) :
    bits n (top - 1) lo * 2 ^ lo + n % 2 ^ lo = n % 2 ^ top := by
  rw [bits, Nat.sub_add_cancel (Nat.one_le_of_lt h)]
  obtain ⟨k, rfl⟩ := Nat.exists_eq_add_of_lt h
  rw [Nat.add_assoc, Nat.pow_add, Nat.add_sub_cancel_left, Nat.mod_mul, Nat.mul_comm, Nat.add_comm]

/-- The cuts below top go down to bit 0. -/
def cutsDown : Nat → List Nat → Bool
  | top, [] => top == 0
  | top, lo :: l => decide (lo < top) && cutsDown lo l

/-- Cut down to bit 0, the fields make up the number. -/
theorem cutSum_eq (n : Nat) : ∀ (l : List Nat) (top : Nat), cutsDown top l = true → cutSum n top l = n % 2 ^ top
  | [], top, h => by
    rw [cutsDown, beq_iff_eq] at h
    rw [h, Nat.pow_zero, Nat.mod_one]
    rfl
  | lo :: l, top, h => by
    rw [cutsDown, Bool.and_eq_true, decide_eq_true_eq] at h
    obtain ⟨hlo, hl⟩ := h
    rw [cutSum, cutSum_eq n l lo hl, bits_add_mod n hlo]

/-! ## What a decoder may answer for a number -/

/-- An instruction that the decoder answers for the number n has a word, and its word holds n. -/
def Faithful (n : Nat) (r : Decoded) : Prop := ∀ i, r = .ok i → i.hasWord = true ∧ encodeNat i = n

theorem Faithful.error {n : Nat} {e : DecodeError} : Faithful n (.error e) := by
  rintro _ ⟨⟩

/-- A bit field is checked first. -/
theorem Faithful.guard {n : Nat} {c : Prop} [Decidable c] {r : Decoded} {e : DecodeError} (h : c → Faithful n r) :
    Faithful n (if c then r else .error e) := by
  split
  · next hc => exact h hc
  · exact .error

/-- The fields of the instruction are those of the number: l is where the number is cut, every bit of it in one field, and each field is
an operand's or known. -/
theorem Faithful.ok {n : Nat} {i : Instr} (hn : n < 2 ^ 32) (l : List Nat) (hw : i.hasWord = true := by rfl)
    (hc : cutsDown 32 l = true := by decide)
    (he : encodeNat i = cutSum n 32 l := by
      delta encodeNat
      simp only [cutSum, Nat.reduceAdd, Nat.reduceSub, Nat.reduceMul, Nat.reduceDiv, Nat.reduceMod, Nat.reducePow,
        Nat.reduceLeDiff, Nat.reduceLT, Laws.Roundtrip.fields_cons, Laws.Roundtrip.fields_nil, val_ofNat_of_lt, bits_lt_of_le, bit_toNat,
        Width.toBits_ofBits, FaddFmt.toBits_ofBits, Dom.toBits_ofBits, Ord.toBits_ofBits, Round.toBits_ofBits,
        ScanKind.toBits_ofBits, VCmp.toBits_ofBits, *] <;> omega) : Faithful n (.ok i) := by
  rintro _ ⟨⟩
  exact ⟨hw, he.trans ((cutSum_eq n l 32 hc).trans (Nat.mod_eq_of_lt hn))⟩

/-! ## The groups (R53), each with the fields of its instructions (R54 to R62) -/

section
variable {n : Nat} (hn : n < 2 ^ 32)
include hn

theorem decodeAlu_faithful (hm : bits n 31 26 = 1) : Faithful n (decodeAlu n) := by
  unfold decodeAlu
  split
  iterate 25 next => exact .guard fun _ => .ok hn [26, 21, 16, 11, 5, 1, 0]
  iterate 3 next => exact .guard fun _ => .guard fun _ => .ok hn [26, 21, 16, 11, 5, 1, 0]
  iterate 2 next =>
    refine .guard fun _ => .guard fun _ => ?_
    split
    · next h => have hv := ExtFrom.toBits_of_ofBits? h; exact .ok hn [26, 21, 16, 11, 5, 3, 1, 0]
    · exact .error
  · exact .guard fun _ => .guard fun _ => .ok hn [26, 21, 16, 11, 5, 1, 0]
  · exact .error

theorem decodeAluK_faithful (hm : bits n 31 26 = 2) : Faithful n (decodeAluK n) := by
  unfold decodeAluK
  split
  iterate 25 next => exact .guard fun _ => .ok hn [26, 21, 16, 8, 7, 6, 0]
  exact .error

theorem decodeBcc_faithful (hm : bits n 31 26 = 12) : Faithful n (decodeBcc n) := by
  unfold decodeBcc
  split
  iterate 6 next => exact .ok hn [26, 21, 16, 13, 0]
  exact .error

theorem decodeJump_faithful (hm : bits n 31 26 = 15) : Faithful n (decodeJump n) := by
  unfold decodeJump
  split
  iterate 2 next => exact .guard fun _ => .guard fun _ => .guard fun _ => .ok hn [26, 21, 16, 11, 5, 0]
  · exact .guard fun _ => .guard fun _ => .ok hn [26, 11, 5, 0]
  · exact .error

theorem decodeLoop_faithful (hm : bits n 31 26 = 16) : Faithful n (decodeLoop n) := by
  unfold decodeLoop
  split
  · exact .guard fun _ => .ok hn [26, 21, 16, 13, 0]
  · exact .guard fun _ => .ok hn [26, 18, 16, 13, 0]
  iterate 3 next => exact .guard fun _ => .guard fun _ => .ok hn [26, 16, 13, 0]
  exact .error

theorem decodePointer_faithful (hm : bits n 31 26 = 17) : Faithful n (decodePointer n) := by
  unfold decodePointer
  split
  · exact .guard fun _ => .guard fun _ => .guard fun _ => .ok hn [26, 24, 21, 16, 11, 5, 0]
  · exact .guard fun _ => .guard fun _ => .guard fun _ => .ok hn [26, 21, 19, 16, 11, 5, 0]
  iterate 2 next => exact .guard fun _ => .guard fun _ => .guard fun _ => .ok hn [26, 24, 21, 19, 16, 11, 5, 0]
  · exact .guard fun _ => .guard fun _ => .ok hn [26, 24, 21, 16, 11, 5, 0]
  · exact .error

theorem decodeGather_faithful (hm : bits n 31 26 = 22) : Faithful n (decodeGather n) := by
  unfold decodeGather
  split
  iterate 6 next hf =>
    have hz := bits_of_field hf 7 6
    refine .guard fun _ => .guard fun _ => ?_
    split
    · next h => have hv := GSize.toBits_of_ofBits? h; exact .ok hn [26, 21, 19, 16, 11, 5, 4, 2, 0]
    · exact .error
  exact .error

theorem decodeAtomic_faithful (hm : bits n 31 26 = 23) : Faithful n (decodeAtomic n) := by
  unfold decodeAtomic
  split
  iterate 9 next hf =>
    have ho := bits_of_field hf 8 5
    refine .guard fun _ => .guard fun _ => ?_
    split
    · next h => have hv := AmoOp.toBits_of_ofBits? h; exact .ok hn [26, 21, 19, 16, 11, 5, 3, 2, 0]
    · exact .error
  · exact .guard fun _ => .guard fun _ => .ok hn [26, 21, 19, 16, 11, 5, 3, 2, 0]
  iterate 2 next hf =>
    have ho := bits_of_field hf 5 5
    exact .guard fun _ => .guard fun _ => .ok hn [26, 21, 19, 16, 11, 5, 2, 0]
  exact .error

theorem decodeFence_faithful (hm : bits n 31 26 = 24) : Faithful n (decodeFence n) := by
  unfold decodeFence
  split
  iterate 3 next =>
    refine .guard fun _ => .guard fun _ => ?_
    split
    · next h => have hv := Scope.toBits_of_ofBits? h; exact .ok hn [26, 11, 5, 3, 0]
    · exact .error
  iterate 2 next => exact .guard fun _ => .guard fun _ => .ok hn [26, 11, 5, 0]
  exact .error

theorem decodeQueue_faithful (hm : bits n 31 26 = 25) : Faithful n (decodeQueue n) := by
  unfold decodeQueue
  split
  · exact .guard fun _ => .guard fun _ => .ok hn [26, 24, 21, 17, 4, 0]
  iterate 4 next => exact .guard fun _ => .guard fun _ => .ok hn [26, 21, 17, 9, 4, 0]
  iterate 2 next => exact .guard fun _ => .ok hn [26, 21, 17, 9, 4, 0]
  exact .error

theorem decodeVFloat_faithful (hm : bits n 31 26 = 26) : Faithful n (decodeVFloat n) := by
  unfold decodeVFloat
  split
  iterate 5 next => exact .guard fun _ => .ok hn [26, 21, 16, 11, 5, 2, 0]
  iterate 2 next => exact .guard fun _ => .ok hn [26, 21, 16, 11, 5, 0]
  iterate 2 next => exact .guard fun _ => .guard fun _ => .ok hn [26, 21, 16, 11, 5, 0]
  · exact .guard fun _ => .ok hn [26, 21, 16, 11, 5, 2, 0]
  iterate 5 next => exact .guard fun _ => .guard fun _ => .ok hn [26, 21, 16, 11, 5, 2, 0]
  exact .error

theorem decodeVCompare_faithful (hm : bits n 31 26 = 27) : Faithful n (decodeVCompare n) := by
  unfold decodeVCompare
  split
  iterate 8 next hf =>
    have hc := bits_of_field hf 7 5
    exact .guard fun _ => .ok hn [26, 21, 16, 11, 5, 0]
  · exact .guard fun _ => .ok hn [26, 21, 16, 11, 5, 0]
  · exact .error

theorem decodeVInt_faithful (hm : bits n 31 26 = 28) : Faithful n (decodeVInt n) := by
  unfold decodeVInt
  split
  iterate 2 next =>
    refine .guard fun _ => .guard fun _ => ?_
    split
    · next h => have hv := Elem.toBits_of_ofBits? h; exact .ok hn [26, 21, 16, 11, 5, 4, 3, 2, 0]
    · exact .error
  · refine .guard fun _ => ?_
    split
    · next h => have hv := Elem.toBits_of_ofBits? h; exact .ok hn [26, 21, 16, 11, 5, 2, 0]
    · exact .error
  iterate 3 next => exact .guard fun _ => .ok hn [26, 21, 16, 11, 5, 0]
  · refine .guard fun _ => ?_
    split
    · next h => have hv := Elem.toBits_of_ofBits? h; exact .ok hn [26, 21, 16, 11, 5, 2, 0]
    · exact .error
  · refine .guard fun _ => ?_
    split
    · next h => have hv := Elem.toBits_of_ofBits? h; exact .ok hn [26, 21, 16, 11, 5, 3, 2, 0]
    · exact .error
  · exact .error

theorem decodeVLane_faithful (hm : bits n 31 26 = 29) : Faithful n (decodeVLane n) := by
  unfold decodeVLane
  split
  · exact .guard fun _ => .guard fun _ => .ok hn [26, 21, 16, 11, 5, 0]
  iterate 2 next => exact .guard fun _ => .guard fun _ => .ok hn [26, 21, 16, 11, 5, 4, 0]
  · exact .guard fun _ => .ok hn [26, 21, 16, 11, 5, 0]
  · exact .guard fun _ => .guard fun _ => .ok hn [26, 21, 16, 11, 5, 2, 0]
  · exact .error

theorem decodeVReduce_faithful (hm : bits n 31 26 = 30) : Faithful n (decodeVReduce n) := by
  unfold decodeVReduce
  split
  · exact .guard fun _ => .guard fun _ => .ok hn [26, 21, 16, 11, 5, 2, 0]
  iterate 2 next => exact .guard fun _ => .guard fun _ => .guard fun _ => .ok hn [26, 21, 16, 11, 5, 3, 2, 0]
  iterate 2 next => exact .guard fun _ => .guard fun _ => .ok hn [26, 21, 16, 11, 5, 0]
  exact .error

theorem decodeVConvert_faithful (hm : bits n 31 26 = 31) : Faithful n (decodeVConvert n) := by
  unfold decodeVConvert
  split
  · exact .guard fun _ => .guard fun _ => .ok hn [26, 21, 16, 11, 5, 2, 0]
  iterate 2 next => exact .guard fun _ => .ok hn [26, 21, 16, 11, 5, 0]
  exact .error

theorem decodeTile0_faithful (hm : bits n 31 26 = 32) : Faithful n (decodeTile0 n) := by
  unfold decodeTile0
  split
  · exact .guard fun _ => .ok hn [26, 22, 8, 7, 0]
  · exact .guard fun _ => .ok hn [26, 22, 16, 8, 7, 0]
  iterate 2 next => exact .ok hn [26, 22, 19, 16, 8, 7, 0]
  exact .error

theorem decodeTile1_faithful (hm : bits n 31 26 = 33) : Faithful n (decodeTile1 n) := by
  unfold decodeTile1
  split
  · exact .guard fun _ => .ok hn [26, 22, 19, 16, 8, 7, 0]
  · exact .guard fun _ => .ok hn [26, 22, 8, 7, 0]
  iterate 2 next => exact .guard fun _ => .ok hn [26, 22, 21, 16, 8, 7, 0]
  iterate 2 next => exact .guard fun _ => .ok hn [26, 22, 19, 8, 7, 0]
  exact .error

theorem decodeTile2_faithful (hm : bits n 31 26 = 34) : Faithful n (decodeTile2 n) := by
  unfold decodeTile2
  split
  · exact .guard fun _ => .ok hn [26, 22, 19, 8, 7, 0]
  · exact .guard fun _ => .guard fun _ => .ok hn [26, 16, 8, 7, 0]
  · exact .guard fun _ => .ok hn [26, 22, 8, 7, 0]
  · exact .error

theorem decodeStream_faithful (hm : bits n 31 26 = 35) : Faithful n (decodeStream n) := by
  unfold decodeStream
  split
  · exact .guard fun _ => .ok hn [26, 25, 21, 17, 9, 6, 4, 0]
  · exact .guard fun _ => .ok hn [26, 21, 17, 9, 6, 4, 0]
  · exact .error

theorem decodeAutomaton_faithful (hm : bits n 31 26 = 36) : Faithful n (decodeAutomaton n) := by
  unfold decodeAutomaton
  split
  · exact .guard fun _ => .guard fun _ => .guard fun _ => .ok hn [26, 19, 16, 11, 5, 3, 0]
  · exact .guard fun _ => .guard fun _ => .ok hn [26, 21, 16, 11, 5, 3, 0]
  · exact .guard fun _ => .guard fun _ => .guard fun _ => .ok hn [26, 21, 16, 11, 5, 3, 0]
  iterate 2 next => exact .guard fun _ => .ok hn [26, 21, 16, 11, 5, 0]
  · exact .guard fun _ => .guard fun _ => .guard fun _ => .ok hn [26, 24, 21, 16, 11, 5, 3, 0]
  · exact .guard fun _ => .guard fun _ => .ok hn [26, 21, 16, 11, 5, 3, 0]
  · exact .guard fun _ => .guard fun _ => .ok hn [26, 21, 11, 5, 3, 0]
  · exact .guard fun _ => .guard fun _ => .guard fun _ => .ok hn [26, 21, 16, 11, 5, 3, 0]
  · exact .guard fun _ => .guard fun _ => .ok hn [26, 21, 11, 5, 3, 0]
  · exact .error

theorem decodeDirectory_faithful (hm : bits n 31 26 = 37) : Faithful n (decodeDirectory n) := by
  unfold decodeDirectory
  split
  · exact .guard fun _ => .guard fun _ => .guard fun _ => .ok hn [26, 19, 16, 14, 11, 5, 0]
  · exact .guard fun _ => .guard fun _ => .ok hn [26, 19, 16, 11, 5, 0]
  · exact .guard fun _ => .guard fun _ => .guard fun _ => .ok hn [26, 19, 16, 11, 5, 0]
  · exact .guard fun _ => .guard fun _ => .guard fun _ => .ok hn [26, 21, 19, 16, 11, 5, 0]
  · exact .guard fun _ => .guard fun _ => .ok hn [26, 21, 19, 16, 11, 5, 0]
  · exact .guard fun _ => .guard fun _ => .guard fun _ => .ok hn [26, 21, 16, 11, 5, 0]
  · exact .guard fun _ => .guard fun _ => .ok hn [26, 21, 16, 11, 5, 4, 0]
  · exact .guard fun _ => .ok hn [26, 21, 16, 11, 5, 0]
  · exact .error

theorem decodeGraph_faithful (hm : bits n 31 26 = 38) : Faithful n (decodeGraph n) := by
  unfold decodeGraph
  split
  · exact .guard fun _ => .guard fun _ => .guard fun _ => .ok hn [26, 21, 19, 16, 11, 5, 0]
  · exact .guard fun _ => .guard fun _ => .ok hn [26, 11, 5, 0]
  · exact .guard fun _ => .guard fun _ => .guard fun _ => .ok hn [26, 21, 16, 11, 5, 0]
  · exact .guard fun _ => .guard fun _ => .guard fun _ => .ok hn [26, 21, 16, 11, 5, 4, 0]
  · split
    iterate 2 next => exact .guard fun _ => .ok hn [26, 21, 16, 11, 5, 0]
    · exact .guard fun _ => .ok hn [26, 11, 5, 0]
    · exact .error
  · exact .error

theorem decodeEngine_faithful (hm : bits n 31 26 = 39) : Faithful n (decodeEngine n) := by
  unfold decodeEngine
  split
  iterate 2 next =>
    exact .guard fun _ => .guard fun _ => .guard fun _ => .ok hn [26, 24, 21, 19, 16, 11, 5, 4, 3, 2, 1, 0]
  · exact .guard fun _ => .guard fun _ => .guard fun _ => .ok hn [26, 24, 21, 19, 16, 11, 5, 3, 2, 1, 0]
  · exact .guard fun _ => .guard fun _ => .ok hn [26, 21, 16, 11, 5, 0]
  · exact .guard fun _ => .guard fun _ => .guard fun _ => .ok hn [26, 21, 16, 11, 5, 0]
  · exact .error

theorem decodeGuard_faithful (hm : bits n 31 26 = 40) : Faithful n (decodeGuard n) := by
  unfold decodeGuard
  split
  iterate 2 next => exact .guard fun _ => .guard fun _ => .ok hn [26, 11, 5, 2, 0]
  exact .error

theorem decodeSystem_faithful (hm : bits n 31 26 = 41) : Faithful n (decodeSystem n) := by
  unfold decodeSystem
  split
  · exact .guard fun _ => .ok hn [26, 16, 8, 0]
  iterate 2 next => exact .guard fun _ => .ok hn [26, 8, 0]
  iterate 2 next => exact .guard fun _ => .ok hn [26, 21, 16, 8, 0]
  · exact .guard fun _ => .guard fun _ => .ok hn [26, 21, 16, 8, 0]
  iterate 4 next => exact .guard fun _ => .ok hn [26, 8, 0]
  · exact .guard fun _ => .guard fun _ => .ok hn [26, 19, 16, 8, 0]
  iterate 2 next => exact .guard fun _ => .ok hn [26, 21, 8, 0]
  · exact .ok hn [26, 21, 16, 8, 0]
  · exact .error

theorem decodeHint_faithful (hm : bits n 31 26 = 63) : Faithful n (decodeHint n) := by
  unfold decodeHint
  split
  · exact .ok hn [26, 22, 0]
  iterate 8 next hf =>
    have ht := bits_of_field hf 24 22
    exact .ok hn [26, 22, 0]
  · exact .ok hn [26, 22, 0]
  · exact .guard fun _ => .guard fun ⟨_, _, _⟩ => .ok hn [26, 22, 17, 12, 7, 5, 4, 0]
  · refine .guard fun _ => ?_
    split
    · next h => have hv := Scope.toBits_of_ofBits? h; exact .ok hn [26, 22, 3, 0]
    · exact .error
  · exact .ok hn [26, 22, 0]
  iterate 2 next => exact .guard fun _ => .ok hn [26, 22, 2, 0]
  · exact .guard fun _ => .ok hn [26, 22, 0]
  · exact .error

theorem decodeMajor_faithful : Faithful n (decodeMajor n) := by
  unfold decodeMajor
  split
  · next hm => exact decodeAlu_faithful hn hm
  · next hm => exact decodeAluK_faithful hn hm
  iterate 6 next => exact .ok hn [26, 21, 16, 0]
  · refine .guard fun _ => ?_
    split
    · next h => have hv := ShiftKind.toBits_of_ofBits? h; exact .ok hn [26, 21, 16, 14, 13, 6, 0]
    · exact .error
  · next hm => exact decodeBcc_faithful hn hm
  iterate 2 next => exact .ok hn [26, 0]
  · next hm => exact decodeJump_faithful hn hm
  · next hm => exact decodeLoop_faithful hn hm
  · next hm => exact decodePointer_faithful hn hm
  · split
    · next hs =>
      have hv := LdSize.toBits_of_ofBits? hs
      split
      · next h => obtain ⟨hmode, hoff⟩ := Addr.bits_of_ofBits? h; exact .ok hn [26, 21, 18, 15, 13, 11, 0]
      · exact .error
    · exact .error
  · split
    · next hs =>
      have hv := StSize.toBits_of_ofBits? hs
      split
      · next h => obtain ⟨hmode, hoff⟩ := Addr.bits_of_ofBits? h; exact .ok hn [26, 21, 18, 15, 13, 11, 0]
      · exact .error
    · exact .error
  iterate 2 next =>
    refine .guard fun _ => ?_
    split
    · next h => obtain ⟨hmode, hoff⟩ := Addr.bits_of_ofBits? h; exact .ok hn [26, 21, 18, 15, 13, 11, 0]
    · exact .error
  · next hm => exact decodeGather_faithful hn hm
  · next hm => exact decodeAtomic_faithful hn hm
  · next hm => exact decodeFence_faithful hn hm
  · next hm => exact decodeQueue_faithful hn hm
  · next hm => exact decodeVFloat_faithful hn hm
  · next hm => exact decodeVCompare_faithful hn hm
  · next hm => exact decodeVInt_faithful hn hm
  · next hm => exact decodeVLane_faithful hn hm
  · next hm => exact decodeVReduce_faithful hn hm
  · next hm => exact decodeVConvert_faithful hn hm
  · next hm => exact decodeTile0_faithful hn hm
  · next hm => exact decodeTile1_faithful hn hm
  · next hm => exact decodeTile2_faithful hn hm
  · next hm => exact decodeStream_faithful hn hm
  · next hm => exact decodeAutomaton_faithful hn hm
  · next hm => exact decodeDirectory_faithful hn hm
  · next hm => exact decodeGraph_faithful hn hm
  · next hm => exact decodeEngine_faithful hn hm
  · next hm => exact decodeGuard_faithful hn hm
  · next hm => exact decodeSystem_faithful hn hm
  · next hm => exact decodeHint_faithful hn hm
  · exact .error

end

/-! ## Both ways -/

/-- The word of a legal instruction decodes to it. -/
theorem decode_encode (i : Instr) : Laws.Roundtrip.Statement i := by
  cases i with
  | add => exact Laws.Roundtrip.add _ _ _ _
  | sub => exact Laws.Roundtrip.sub _ _ _ _
  | mul => exact Laws.Roundtrip.mul _ _ _ _
  | mulhs => exact Laws.Roundtrip.mulhs _ _ _ _
  | mulhz => exact Laws.Roundtrip.mulhz _ _ _ _
  | divs => exact Laws.Roundtrip.divs _ _ _ _
  | divz => exact Laws.Roundtrip.divz _ _ _ _
  | rems => exact Laws.Roundtrip.rems _ _ _ _
  | remz => exact Laws.Roundtrip.remz _ _ _ _
  | and => exact Laws.Roundtrip.and _ _ _ _
  | or => exact Laws.Roundtrip.or _ _ _ _
  | xor => exact Laws.Roundtrip.xor _ _ _ _
  | andn => exact Laws.Roundtrip.andn _ _ _ _
  | shl => exact Laws.Roundtrip.shl _ _ _ _
  | shrl => exact Laws.Roundtrip.shrl _ _ _ _
  | shra => exact Laws.Roundtrip.shra _ _ _ _
  | rol => exact Laws.Roundtrip.rol _ _ _ _
  | mins => exact Laws.Roundtrip.mins _ _ _ _
  | maxs => exact Laws.Roundtrip.maxs _ _ _ _
  | minz => exact Laws.Roundtrip.minz _ _ _ _
  | maxz => exact Laws.Roundtrip.maxz _ _ _ _
  | seq => exact Laws.Roundtrip.seq _ _ _ _
  | sne => exact Laws.Roundtrip.sne _ _ _ _
  | slts => exact Laws.Roundtrip.slts _ _ _ _
  | sltz => exact Laws.Roundtrip.sltz _ _ _ _
  | clz => exact Laws.Roundtrip.clz _ _ _
  | ctz => exact Laws.Roundtrip.ctz _ _ _
  | popc => exact Laws.Roundtrip.popc _ _ _
  | sext => exact Laws.Roundtrip.sext _ _ _ _
  | zext => exact Laws.Roundtrip.zext _ _ _ _
  | bswp => exact Laws.Roundtrip.bswp _ _ _
  | addK => exact Laws.Roundtrip.addK _ _ _ _
  | subK => exact Laws.Roundtrip.subK _ _ _ _
  | mulK => exact Laws.Roundtrip.mulK _ _ _ _
  | mulhsK => exact Laws.Roundtrip.mulhsK _ _ _ _
  | mulhzK => exact Laws.Roundtrip.mulhzK _ _ _ _
  | divsK => exact Laws.Roundtrip.divsK _ _ _ _
  | divzK => exact Laws.Roundtrip.divzK _ _ _ _
  | remsK => exact Laws.Roundtrip.remsK _ _ _ _
  | remzK => exact Laws.Roundtrip.remzK _ _ _ _
  | andK => exact Laws.Roundtrip.andK _ _ _ _
  | orK => exact Laws.Roundtrip.orK _ _ _ _
  | xorK => exact Laws.Roundtrip.xorK _ _ _ _
  | andnK => exact Laws.Roundtrip.andnK _ _ _ _
  | shlK => exact Laws.Roundtrip.shlK _ _ _ _
  | shrlK => exact Laws.Roundtrip.shrlK _ _ _ _
  | shraK => exact Laws.Roundtrip.shraK _ _ _ _
  | rolK => exact Laws.Roundtrip.rolK _ _ _ _
  | minsK => exact Laws.Roundtrip.minsK _ _ _ _
  | maxsK => exact Laws.Roundtrip.maxsK _ _ _ _
  | minzK => exact Laws.Roundtrip.minzK _ _ _ _
  | maxzK => exact Laws.Roundtrip.maxzK _ _ _ _
  | seqK => exact Laws.Roundtrip.seqK _ _ _ _
  | sneK => exact Laws.Roundtrip.sneK _ _ _ _
  | sltsK => exact Laws.Roundtrip.sltsK _ _ _ _
  | sltzK => exact Laws.Roundtrip.sltzK _ _ _ _
  | addi => exact Laws.Roundtrip.addi _ _ _
  | andi => exact Laws.Roundtrip.andi _ _ _
  | ori => exact Laws.Roundtrip.ori _ _ _
  | xori => exact Laws.Roundtrip.xori _ _ _
  | slti => exact Laws.Roundtrip.slti _ _ _
  | sltiu => exact Laws.Roundtrip.sltiu _ _ _
  | shi => exact Laws.Roundtrip.shi _ _ _ _ _
  | beq => exact Laws.Roundtrip.beq _ _ _
  | bne => exact Laws.Roundtrip.bne _ _ _
  | blts => exact Laws.Roundtrip.blts _ _ _
  | bges => exact Laws.Roundtrip.bges _ _ _
  | bltz => exact Laws.Roundtrip.bltz _ _ _
  | bgez => exact Laws.Roundtrip.bgez _ _ _
  | jmp => exact Laws.Roundtrip.jmp _
  | call => exact Laws.Roundtrip.call _
  | jr => exact Laws.Roundtrip.jr _
  | callr => exact Laws.Roundtrip.callr _
  | ret => exact Laws.Roundtrip.ret
  | loop => exact Laws.Roundtrip.loop _ _
  | loopk => exact Laws.Roundtrip.loopk _ _
  | lexit => exact Laws.Roundtrip.lexit
  | lsave => exact Laws.Roundtrip.lsave
  | lrst => exact Laws.Roundtrip.lrst
  | pset => exact Laws.Roundtrip.pset _ _
  | pget => exact Laws.Roundtrip.pget _ _
  | padd => exact Laws.Roundtrip.padd _ _ _
  | pwalk => exact Laws.Roundtrip.pwalk _ _ _
  | pcoord => exact Laws.Roundtrip.pcoord _ _ _
  | ld => exact Laws.Roundtrip.ld _ _ _ _ _
  | st => exact Laws.Roundtrip.st _ _ _ _ _
  | ldv => exact Laws.Roundtrip.ldv _ _ _ _
  | stv => exact Laws.Roundtrip.stv _ _ _ _
  | gath => exact Laws.Roundtrip.gath _ _ _ _ _ _
  | scat => exact Laws.Roundtrip.scat _ _ _ _ _ _
  | amo => exact Laws.Roundtrip.amo _ _ _ _ _ _
  | cas => exact Laws.Roundtrip.cas _ _ _ _ _
  | fadd => exact Laws.Roundtrip.fadd _ _ _ _ _
  | fenceFull => exact Laws.Roundtrip.fenceFull _
  | fenceAcq => exact Laws.Roundtrip.fenceAcq _
  | fenceRel => exact Laws.Roundtrip.fenceRel _
  | fencePath => exact Laws.Roundtrip.fencePath
  | fenceWin => exact Laws.Roundtrip.fenceWin
  | qbind => exact Laws.Roundtrip.qbind _ _
  | qwait => exact Laws.Roundtrip.qwait _ _
  | qrsv => exact Laws.Roundtrip.qrsv _ _
  | qpush => exact Laws.Roundtrip.qpush _ _
  | qpop => exact Laws.Roundtrip.qpop _ _
  | qldv => exact Laws.Roundtrip.qldv _ _ _
  | qstv => exact Laws.Roundtrip.qstv _ _ _
  | vadd => exact Laws.Roundtrip.vadd _ _ _ _
  | vsub => exact Laws.Roundtrip.vsub _ _ _ _
  | vmul => exact Laws.Roundtrip.vmul _ _ _ _
  | vfma => exact Laws.Roundtrip.vfma _ _ _ _
  | vfms => exact Laws.Roundtrip.vfms _ _ _ _
  | vmin => exact Laws.Roundtrip.vmin _ _ _
  | vmax => exact Laws.Roundtrip.vmax _ _ _
  | vabs => exact Laws.Roundtrip.vabs _ _
  | vneg => exact Laws.Roundtrip.vneg _ _
  | vdiv => exact Laws.Roundtrip.vdiv _ _ _ _
  | vsqrt => exact Laws.Roundtrip.vsqrt _ _ _
  | vrcp => exact Laws.Roundtrip.vrcp _ _ _
  | vrsq => exact Laws.Roundtrip.vrsq _ _ _
  | vexp2 => exact Laws.Roundtrip.vexp2 _ _ _
  | vlog2 => exact Laws.Roundtrip.vlog2 _ _ _
  | vcmp => exact Laws.Roundtrip.vcmp _ _ _ _
  | vsel => exact Laws.Roundtrip.vsel _ _ _
  | viadd => exact Laws.Roundtrip.viadd _ _ _ _ _
  | visub => exact Laws.Roundtrip.visub _ _ _ _ _
  | vimul => exact Laws.Roundtrip.vimul _ _ _ _
  | vand => exact Laws.Roundtrip.vand _ _ _
  | vor => exact Laws.Roundtrip.vor _ _ _
  | vxor => exact Laws.Roundtrip.vxor _ _ _
  | vshl => exact Laws.Roundtrip.vshl _ _ _ _
  | vshr => exact Laws.Roundtrip.vshr _ _ _ _ _
  | vbcast => exact Laws.Roundtrip.vbcast _ _
  | vextr => exact Laws.Roundtrip.vextr _ _ _
  | vins => exact Laws.Roundtrip.vins _ _ _
  | vperm => exact Laws.Roundtrip.vperm _ _ _
  | vscan => exact Laws.Roundtrip.vscan _ _ _
  | vredadd => exact Laws.Roundtrip.vredadd _ _ _
  | vredmax => exact Laws.Roundtrip.vredmax _ _ _
  | vredmin => exact Laws.Roundtrip.vredmin _ _ _
  | vpopc => exact Laws.Roundtrip.vpopc _ _
  | vffs => exact Laws.Roundtrip.vffs _ _
  | vcvt => exact Laws.Roundtrip.vcvt _ _ _
  | vqnt => exact Laws.Roundtrip.vqnt _ _ _
  | vdqnt => exact Laws.Roundtrip.vdqnt _ _ _
  | mzero => exact Laws.Roundtrip.mzero _ _
  | manchor => exact Laws.Roundtrip.manchor _ _ _
  | mma => exact Laws.Roundtrip.mma _ _ _ _ _
  | mmas => exact Laws.Roundtrip.mmas _ _ _ _ _
  | mres => exact Laws.Roundtrip.mres _ _ _ _
  | mresc => exact Laws.Roundtrip.mresc _ _
  | mrd => exact Laws.Roundtrip.mrd _ _ _ _
  | mcmp => exact Laws.Roundtrip.mcmp _ _ _ _
  | msave => exact Laws.Roundtrip.msave _ _ _
  | mload => exact Laws.Roundtrip.mload _ _ _
  | mmerge => exact Laws.Roundtrip.mmerge _ _ _
  | mrstl => exact Laws.Roundtrip.mrstl _
  | mwait => exact Laws.Roundtrip.mwait _ _
  | astep => exact Laws.Roundtrip.astep _ _ _ _ _
  | astepx => exact Laws.Roundtrip.astepx _ _ _ _
  | aload => exact Laws.Roundtrip.aload _ _
  | aset => exact Laws.Roundtrip.aset _ _ _
  | atok => exact Laws.Roundtrip.atok _ _
  | acomp => exact Laws.Roundtrip.acomp _ _ _
  | asel => exact Laws.Roundtrip.asel _ _ _
  | amask => exact Laws.Roundtrip.amask _ _ _
  | aforce => exact Laws.Roundtrip.aforce _ _ _
  | aget => exact Laws.Roundtrip.aget _ _
  | apush => exact Laws.Roundtrip.apush _ _
  | apop => exact Laws.Roundtrip.apop _ _
  | tbind => exact Laws.Roundtrip.tbind _ _
  | tbindm => exact Laws.Roundtrip.tbindm _ _
  | tunbind => exact Laws.Roundtrip.tunbind _
  | topen => exact Laws.Roundtrip.topen _ _
  | topenw => exact Laws.Roundtrip.topenw _ _ _
  | tclose => exact Laws.Roundtrip.tclose _
  | tinfo => exact Laws.Roundtrip.tinfo _ _ _
  | thaddr => exact Laws.Roundtrip.thaddr _ _ _
  | spawn => exact Laws.Roundtrip.spawn _ _
  | nend => exact Laws.Roundtrip.nend
  | nwait => exact Laws.Roundtrip.nwait _
  | barr => exact Laws.Roundtrip.barr _ _
  | yardAny => exact Laws.Roundtrip.yardAny _ _
  | yardAll => exact Laws.Roundtrip.yardAll _ _
  | yardDet => exact Laws.Roundtrip.yardDet
  | cpy => exact Laws.Roundtrip.cpy _ _ _ _ _ _ _
  | cpyx => exact Laws.Roundtrip.cpyx _ _ _ _ _ _ _
  | sealOut => exact Laws.Roundtrip.sealOut _ _ _ _ _ _
  | evcfg => exact Laws.Roundtrip.evcfg _ _
  | evwait => exact Laws.Roundtrip.evwait _
  | gcommit => exact Laws.Roundtrip.gcommit _
  | gdrop => exact Laws.Roundtrip.gdrop _
  | trap => exact Laws.Roundtrip.trap _
  | eret => exact Laws.Roundtrip.eret
  | uret => exact Laws.Roundtrip.uret
  | sysr => exact Laws.Roundtrip.sysr _ _
  | sysw => exact Laws.Roundtrip.sysw _ _
  | swpwp => exact Laws.Roundtrip.swpwp _
  | hbeat => exact Laws.Roundtrip.hbeat
  | wfe => exact Laws.Roundtrip.wfe
  | halt => exact Laws.Roundtrip.halt
  | spill => exact Laws.Roundtrip.spill
  | wmon => exact Laws.Roundtrip.wmon _
  | rdtime => exact Laws.Roundtrip.rdtime _
  | rdwin => exact Laws.Roundtrip.rdwin _
  | permix => exact Laws.Roundtrip.permix _ _ _
  | hnop => exact Laws.Roundtrip.hnop _
  | hintType8to15 => exact Laws.Roundtrip.hintType8to15 _ _
  | himm => exact Laws.Roundtrip.himm _
  | hfmt => exact Laws.Roundtrip.hfmt _ _ _ _ _
  | hscope => exact Laws.Roundtrip.hscope _
  | hrealign => exact Laws.Roundtrip.hrealign _
  | hpromo => exact Laws.Roundtrip.hpromo _
  | hguard => exact Laws.Roundtrip.hguard _
  | hnt => exact Laws.Roundtrip.hnt
  | _ => exact fun h => absurd h Bool.false_ne_true

/-- A word decodes to a legal instruction that its group answers. -/
theorem decode_eq_ok {w : Word} {i : Instr} : decode w = .ok i ↔ decodeMajor w.toNat = .ok i ∧ i.wf = true := by
  unfold decode
  split
  next j hj =>
    rw [hj, Except.ok.injEq]
    split
    · next hi => rw [Except.ok.injEq]; exact ⟨fun h => ⟨h, h ▸ hi⟩, And.left⟩
    · next hi => exact ⟨fun h => (by cases h), fun ⟨h, hj⟩ => absurd (h ▸ hj) hi⟩
  next e he =>
    rw [he]
    exact ⟨fun h => (by cases h), fun ⟨h, _⟩ => (by cases h)⟩

/-- A word that decodes is its instruction's word. -/
theorem encode_decode {w : Word} {i : Instr} (h : decode w = .ok i) : i.hasWord = true ∧ i.wf = true ∧ encode i = w := by
  obtain ⟨hm, hwf⟩ := decode_eq_ok.mp h
  obtain ⟨hw, he⟩ := decodeMajor_faithful w.isLt i hm
  exact ⟨hw, hwf, by rw [encode, he, BitVec.ofNat_toNat, BitVec.setWidth_eq]⟩

/-- Settles O57: one way by the family Roundtrip, the other since no bit of a word that decodes is left out of its instruction. -/
theorem decodeEncode : Obligations.DecodeEncode := fun _ i =>
  ⟨encode_decode, fun ⟨hw, hwf, he⟩ => he ▸ decode_encode i hw hwf⟩

/-! ## Words of the spec -/

/-- A word that decodes to an error decodes to no instruction. -/
theorem decode_ne_ok {w : Word} {e : DecodeError} (h : decode w = .error e) (i : Instr) : decode w ≠ .ok i := by
  rw [h]
  rintro ⟨⟩

/-- Settles O56: each word is decoded; of the three that encode nothing, two have a reserved major and one a nonzero field that must be
zero. -/
theorem decodeWords : Obligations.DecodeWords :=
  ⟨rfl, rfl, rfl, rfl, rfl, rfl, rfl, rfl, rfl, rfl, rfl, rfl, rfl, rfl, rfl, rfl, rfl, rfl, rfl, rfl, rfl, rfl, rfl, rfl, rfl, rfl, rfl,
    decode_ne_ok (e := .reservedMajor) rfl, decode_ne_ok (e := .reservedMajor) rfl, decode_ne_ok (e := .reservedField) rfl⟩

end Sys2Proof
end

section
/-!
PROOFS. A step that takes a slot's turn (spec/03_encoding.md R49, R50, R68; spec/14_scheduler.md R268, R269): the turn of a core, the word
fetched from HBM, the word's effect in its turn, and the step that the module chooses.
-/
namespace Sys2Proof.Machine

/-! ## The turn of a core (R268) -/

/-- A slot that is not parked, has not stepped and takes no notify has its turn as the core's only step. -/
theorem State.turn_issues {s : State} {t : Thread} {core : Nat} (hc : (s.core core).nextTurn ≤ s.clock) (ha : s.allowed core = true)
    (ht : s.turnOf core = some t) (hp : t.run ≠ .parked) (hs : ¬ (t.stepping = .begun ∧ t.wait ≠ .none))
    (hn : (t.takesNotify && t.between s.clock) = false) : s.turn core = [issueSlot t.id s] := by
  have hopen : (decide (s.clock < (s.core core).nextTurn) || !s.allowed core) = false := by
    rw [ha, decide_eq_false (Nat.not_lt.mpr hc)]
    rfl
  have hstep : ¬ (decide (t.stepping = .begun) && decide (t.wait ≠ .none)) = true := by simpa using hs
  simp only [State.turn, hopen, ht, hp, hn, State.turnIssues, Bool.false_eq_true, if_false, if_neg hstep]

/-! ## The word fetched (R68) -/

/-- A line that enters its slice leaves the thread and the nodes. -/
theorem State.sliceFill_frame (s : State) (h : Home) : (s.sliceFill h).thr = s.thr ∧ (s.sliceFill h).nodes = s.nodes := by
  unfold State.sliceFill
  split
  · split
    · exact ⟨rfl, rfl⟩
    · dsimp only
      split <;> exact ⟨rfl, rfl⟩
  · exact ⟨rfl, rfl⟩

/-- A slot that is in no word, is no follower and is no transform slot fetches at the leaf that its PC translates to. -/
theorem nextWord_fetchAt {u v : State} {l : Leaf} (hin : u.thr.inWord = false) (hrole : u.thr.role ≠ .follower)
    (htr : isTransform u.thr.id = false) (hl : u.textLeaf = (.ok l, v)) : nextWord u = fetchAt l v := by
  have hfetch : fetch u = fetchAt l v := by simp [fetch, htr, hl]
  unfold nextWord
  rw [hin, if_neg Bool.false_ne_true, ← hfetch]
  split
  · next hf _ => exact absurd hf hrole
  · rfl

/-- Bytes of HBM read by an agent through a leaf of a page that stands as written, without failures. -/
theorem State.readFor_hbm {s : State} {a : Agent} {world : BitVec 4} {l : Leaf} {pa n : Nat} {ea : DWord}
    (hcomp : pteComp l.word = false) (hdisc : s.discarded l = false) (hbad : s.badAt (.hbm pa) n = false)
    (htag : s.tagFails (.hbm pa) n = false) :
    s.readFor a world { home := .hbm pa, ea := ea, n := n, leaf := some l } =
      .bytes (s.openedBytes (pteWorld l.word) (.hbm pa) n) (if s.allocates a then s.sliceFill (.hbm pa) else s) := by
  simp [State.readFor, State.reviving, State.readLane, hcomp, hdisc, hbad, htag]

/-- A word of text that has not been written since the launch is fetched as it stands. -/
theorem textForm_unwritten {pa : Nat} {w : Word} {s : State}
    (h : ((s.node? s.thr.node).bind fun n => n.oldText.find? fun x => x.1 = pa / 4) = none) : textForm pa w s = .word w s := by
  rw [textForm, h]

/-- The line of HBM is at the fetch port, and the checks of the target pass: its bytes are the word. -/
theorem fetchAt_hbm {v : State} {l : Leaf} {pa : Nat} (hhome : l.home v.thr.pc.toNat = .hbm pa)
    (hline : v.thr.line = some (Home.hbm pa).line) (hadm : v.admits v.thr.world (.hbm pa) (some l) true false false = true)
    (hros : v.onRoster v.thr.world (.hbm pa) = true) (hcomp : pteComp l.word = false) (hdisc : v.discarded l = false)
    (hbad : v.badAt (.hbm pa) 4 = false) (htag : v.tagFails (.hbm pa) 4 = false)
    (hsnoop : v.snooped { home := .hbm pa, ea := vaPtr v.thr.pc.toNat, n := 4, leaf := some l } = false)
    (hold : ((v.node? v.thr.node).bind fun n => n.oldText.find? fun x => x.1 = pa / 4) = none) :
    fetchAt l v = .word (BitVec.ofNat 32 (ofBytes (v.openedBytes (pteWorld l.word) (.hbm pa) 4)))
      (if v.allocates (.slot v.thr.id) then v.sliceFill (.hbm pa) else v) := by
  simp only [fetchAt, hhome, hadm, hros, lineThen, hline, hsnoop, State.readFor_hbm hcomp hdisc hbad htag, Bool.and_self, Bool.not_true,
    Bool.false_eq_true, if_false, if_true]
  refine textForm_unwritten ?_
  split
  · obtain ⟨hthr, hnodes⟩ := v.sliceFill_frame (.hbm pa)
    rwa [State.node?, hthr, hnodes]
  · exact hold

/-- Where no line is sealed, opening a range gives the bytes of memory. -/
theorem State.openedBytes_unsealed {s : State} (h : s.seals = []) (w : BitVec 4) (pa n : Nat) :
    s.openedBytes w (.hbm pa) n = s.mem.read pa n := by
  have hnone : ∀ k, s.sealedFor k = none := fun k => by rw [State.sealedFor, h]; rfl
  simp [State.openedBytes, hnone, State.readBytes, Home.key, List.mapIdx_eq_zipIdx_map]

/-! ## The word's turn -/

/-- The turn of a slot whose next word decodes is the instruction's effect with what follows it. -/
theorem issueSlot_decoded {s u v : State} {id : SlotId} {w : Word} {i : Instr} (hf : s.focus id = some u)
    (hw : nextWord u = .word w v) (hd : decode w = .ok i) : issueSlot id s = wordDone i w v := by
  have hrun : ∀ x, runWord w x = exec i x := fun x => by rw [runWord, hd]
  rw [issueSlot, hf]
  simp only [issueFocus, hw, issueWord, hrun]
  rfl

/-! ## The step that is chosen (log 2) -/

/-- What follows every step, of a step's answer. -/
def settleOut : Out → Out
  | .next u => .next u.settle
  | .fault x => .fault x
  | .refused x => .refused x

/-- A step that a free value has chosen, which is then used. -/
def chosenBy (fresh : Nat) : Out → Out
  | .next u => .next { u with fresh := max u.fresh (fresh + 1) }
  | .fault x => .fault x
  | .refused x => .refused x

/-- Of two possible steps or more the one that the free value picks is taken. -/
theorem choose_many {s : State} {l : List Out} {o : Out} (h2 : 2 ≤ l.length) (ho : l[Config.pick s.fresh % l.length]? = some o) :
    choose s l = chosenBy s.fresh o := by
  match l, h2 with
  | a :: b :: l, _ =>
    have ho' : (a :: b :: l)[Config.pick s.fresh % ((b :: l).length + 1)]? = some o := ho
    simp only [choose, ho']
    cases o <;> rfl

/-- A running module takes a step of its own. -/
theorem step_running {s : State} (h : s.running) : step s = settleOut s.inner := by
  obtain ⟨hboot, hinbox, hdue⟩ := h
  have hadv : s.advance = s.inner := by
    simp [State.advance, hboot, hinbox, hdue, State.outside]
  rw [← hadv]
  rfl

/-- While a core may take its turn, the turns and the units' steps are what may come next. -/
theorem State.inner_turns {s : State} (h : s.turns ≠ []) : s.inner = choose s (s.turns ++ s.unitSteps) := by
  unfold State.inner
  split
  · next he => exact absurd he h
  · rfl

/-- A cycle passes when there is nothing to do. -/
theorem State.inner_idle {s : State} (ht : s.turns = []) (hu : s.unitSteps = []) : s.inner = .next s.tick := by
  simp [State.inner, ht, hu, choose]

/-- Settles O59, by the turn, the fetch, the choice and the passing of a cycle. -/
theorem stepRunsDecoded : Obligations.StepRunsDecoded := by
  refine ⟨fun s t core => State.turn_issues, ?choice, ?fetch, fun s hr ht hu => ?tick⟩
  case choice =>
    intro s u v id w i hr ht hf hw hd
    have hturn := issueSlot_decoded hf hw hd
    have hstep : step s = settleOut (choose s (s.turns ++ s.unitSteps)) := by rw [step_running hr, State.inner_turns ht]
    refine ⟨fun hl => ?only, fun h2 hl => ?many⟩
    case only =>
      rw [hstep, hl, hturn]
      rfl
    case many =>
      rw [hstep, choose_many h2 hl, hturn]
      cases wordDone i w v <;> rfl
  case fetch =>
    intro u v l pa hin hrole htr hl hhome hline hadm hros hcomp hdisc hbad htag hsnoop hold
    exact ⟨(nextWord_fetchAt hin hrole htr hl).trans (fetchAt_hbm hhome hline hadm hros hcomp hdisc hbad htag hsnoop hold),
      fun hseals => State.openedBytes_unsealed hseals _ _ _⟩
  case tick =>
    rw [step_running hr, State.inner_idle ht hu]
    rfl

end Sys2Proof.Machine
end

section
/-!
PROOFS. The exactness of the tiles' accumulation (spec/04_numbers.md R85 to R88, R92). Each stage of a step or of a merge adds to an
element's value exactly its share, or leaves INX or OVF set there (`Tile.Adds`); the shares of the stages sum up to the products, or to
the merged value, because the share of the stage that sets INX is what the floors discarded.
-/
namespace Sys2Proof.Machine

/-! ## What a stage adds -/

/-- 2^e. -/
def pow2 (e : Int) : Rat := 2 ^ e

/-- m x 2^e. -/
def dyadic (m e : Int) : Rat := m * pow2 e

/-- The value of an element, V x 2^(A - 64) (R85). -/
def Tile.val (t : Tile) (i : Nat) : Rat := dyadic (t.elem i).int (t.a - 64)

/-- INX and OVF of an element are clear. -/
def TileElem.clean (e : TileElem) : Prop := e.inx = false ∧ e.ovf = false

/-- From t to u the element i has got x added exactly, unless INX or OVF is set of it in u; its NAN, INFP and INFN stand. -/
structure Tile.Adds (i : Nat) (x : Rat) (t u : Tile) : Prop where
  flags : ((u.elem i).nan, (u.elem i).infp, (u.elem i).infn) = ((t.elem i).nan, (t.elem i).infp, (t.elem i).infn)
  exact : (u.elem i).clean → (t.elem i).clean ∧ u.val i = t.val i + x

/-! ## Elements of a tile -/

/-- V as the library reads two's complement. -/
theorem TileElem.int_eq (e : TileElem) : e.int = e.v.toInt := by
  have hlt : e.v.toNat < 2 ^ 96 := e.v.isLt
  rw [TileElem.int, toSigned, BitVec.toInt_eq_toNat_cond]
  split <;> split <;> omega

/-- An integer within the window is stored as it is (R88). -/
theorem TileElem.int_of_window {e : TileElem} {n : Int} (hv : e.v = BitVec.ofInt 96 n) (lo : -2 ^ 95 ≤ n) (hi : n < 2 ^ 95) :
    e.int = n := by
  rw [TileElem.int_eq, hv, BitVec.toInt_ofInt_eq_self (by decide) lo hi]

theorem TileElem.int_bounds (e : TileElem) : -2 ^ 95 ≤ e.int ∧ e.int < 2 ^ 95 := by
  rw [TileElem.int_eq]
  exact ⟨e.v.le_toInt, e.v.toInt_lt⟩

/-- The flags joined to an element leave its value. -/
@[simp] theorem TileElem.orFlags_int (e : TileElem) (n : Nat) : (e.orFlags n).int = e.int := rfl

/-- What a list gives a key, taken apart at its head. -/
theorem assocD_cons {α β : Type} [DecidableEq α] (j : α) (b : β) (l : List (α × β)) (k : α) (d : β) :
    assocD ((j, b) :: l) k d = if j = k then b else assocD l k d := by
  unfold assocD
  by_cases h : j = k <;> simp [h]

theorem assocD_putElem (l : List (Nat × TileElem)) (i j : Nat) (e d : TileElem) :
    assocD (putElem l j e) i d = if j = i then e else assocD l i d := by
  induction l with
  | nil => exact assocD_cons j e [] i d
  | cons p l ih =>
    obtain ⟨k, f⟩ := p
    unfold putElem
    split
    · rw [assocD_cons]
    · split
      · next hjk => simp only [assocD_cons, ← hjk]; split <;> rfl
      · next hjk =>
        rw [assocD_cons, assocD_cons, ih]
        split
        · next hki => rw [if_neg (fun hji => hjk (hji.trans hki.symm))]
        · rfl

/-- An element read after one is put into the tile. -/
@[simp] theorem Tile.elem_put (t : Tile) (i j : Nat) (e : TileElem) : (t.put j e).elem i = if j = i then e else t.elem i :=
  assocD_putElem t.elems i j e TileElem.zero

@[simp] theorem Tile.put_a (t : Tile) (j : Nat) (e : TileElem) : (t.put j e).a = t.a := rfl
@[simp] theorem Tile.put_av (t : Tile) (j : Nat) (e : TileElem) : (t.put j e).av = t.av := rfl

/-- An element moved down by d bits, as a rebase moves it (R88). -/
def TileElem.rebased (d : Nat) (e : TileElem) : TileElem :=
  if e.ovf then e else { e with v := BitVec.ofInt 96 (e.int / 2 ^ d), c := 0, inx := e.inx || e.int % 2 ^ d ≠ 0 }

@[simp] theorem Tile.rebase_a (t : Tile) (d : Nat) : (t.rebase d).a = t.a + d := rfl

/-- A rebase moves each element, listed or not. -/
theorem Tile.elem_rebase (t : Tile) (d i : Nat) : (t.rebase d).elem i = (t.elem i).rebased d := by
  have hzero : TileElem.zero.rebased d = TileElem.zero := by
    simp [TileElem.rebased, TileElem.zero, TileElem.int_eq]
  have hlist : ∀ l : List (Nat × TileElem), assocD (l.map fun x => (x.1, x.2.rebased d)) i TileElem.zero =
      (assocD l i TileElem.zero).rebased d := by
    intro l
    induction l with
    | nil => exact hzero.symm
    | cons x l ih => rw [List.map_cons, assocD_cons, ih, assocD_cons]; split <;> rfl
  have hmap : (t.rebase d).elems = t.elems.map fun x => (x.1, x.2.rebased d) := by
    refine List.map_congr_left fun x _ => ?_
    unfold TileElem.rebased
    split <;> rfl
  rw [Tile.elem, hmap, hlist, ← Tile.elem]

/-! ## Flags joined to elements (R86, R92) -/

/-- Flags joined to the elements of a list, one after the other. -/
def Tile.joinFlags (t : Tile) (l : List (Nat × Nat)) : Tile :=
  l.foldl (fun t x => if x.2 = 0 then t else t.put x.1 ((t.elem x.1).orFlags x.2)) t

theorem TileElem.orFlags_zero (e : TileElem) : e.orFlags 0 = e := by
  simp [TileElem.orFlags, bit]

theorem Tile.joinFlags_cons (t : Tile) (x : Nat × Nat) (l : List (Nat × Nat)) :
    ∃ u : Tile, t.joinFlags (x :: l) = u.joinFlags l ∧ (u.a = t.a ∧ u.av = t.av) ∧
      ∀ i, u.elem i = if x.1 = i then (t.elem i).orFlags x.2 else t.elem i := by
  refine ⟨if x.2 = 0 then t else t.put x.1 ((t.elem x.1).orFlags x.2), rfl, ?_, fun i => ?_⟩
  · split <;> exact ⟨rfl, rfl⟩
  · by_cases h0 : x.2 = 0
    · simp [h0, TileElem.orFlags_zero]
    · rw [if_neg h0, Tile.elem_put]
      split
      · next hi => rw [hi]
      · rfl

/-- Joining flags leaves the anchor. -/
theorem Tile.joinFlags_anchor (t : Tile) (l : List (Nat × Nat)) : (t.joinFlags l).a = t.a ∧ (t.joinFlags l).av = t.av := by
  induction l generalizing t with
  | nil => exact ⟨rfl, rfl⟩
  | cons x l ih =>
    obtain ⟨u, hu, ⟨ha, hav⟩, -⟩ := t.joinFlags_cons x l
    rw [hu, ← ha, ← hav]
    exact ih u

theorem Tile.joinFlags_other {i : Nat} {l : List (Nat × Nat)} (h : i ∉ l.map (·.1)) (t : Tile) : (t.joinFlags l).elem i = t.elem i := by
  induction l generalizing t with
  | nil => rfl
  | cons x l ih =>
    obtain ⟨hx, hl⟩ := not_or.mp (fun hor => h (List.mem_cons.mpr hor))
    obtain ⟨u, hu, -, helem⟩ := t.joinFlags_cons x l
    rw [hu, ih hl, helem, if_neg (Ne.symm hx)]

/-- An element listed once gets its own flags. -/
theorem Tile.joinFlags_elem {i n : Nat} {l : List (Nat × Nat)} (hn : (l.map (·.1)).Nodup) (h : (i, n) ∈ l) (t : Tile) :
    (t.joinFlags l).elem i = (t.elem i).orFlags n := by
  induction l generalizing t with
  | nil => cases h
  | cons x l ih =>
    obtain ⟨hx, hl⟩ := List.nodup_cons.mp hn
    obtain ⟨u, hu, -, helem⟩ := t.joinFlags_cons x l
    rw [hu]
    rcases List.mem_cons.mp h with rfl | hmem
    · rw [Tile.joinFlags_other hx, helem, if_pos rfl]
    · have hne : x.1 ≠ i := fun he => hx (List.mem_map.mpr ⟨_, hmem, he.symm⟩)
      rw [ih hl hmem, helem, if_neg hne]

/-- Flags joined to an element that is 0 while the tile has no anchor leave it so (R85). -/
theorem Tile.joinFlags_unanchored {t : Tile} {i n : Nat} {l : List (Nat × Nat)} (hn : (l.map (·.1)).Nodup) (h : (i, n) ∈ l)
    (h0 : t.av = false → (t.elem i).int = 0) : (t.joinFlags l).av = false → ((t.joinFlags l).elem i).int = 0 := by
  obtain ⟨-, hav⟩ := t.joinFlags_anchor l
  rwa [hav, joinFlags_elem hn h]

/-! ## Dyadic numbers as rationals -/

theorem pow2_add (e d : Int) : pow2 (e + d) = pow2 e * pow2 d := Rat.zpow_add (by decide) e d

theorem pow2_toNat {e : Int} (h : 0 ≤ e) : pow2 e = ((2 ^ e.toNat : Int) : Rat) := by
  have hcast : pow2 (e.toNat : Int) = ((2 ^ e.toNat : Int) : Rat) := (Rat.zpow_natCast 2 e.toNat).trans (Rat.intCast_pow 2 e.toNat).symm
  rwa [Int.toNat_of_nonneg h] at hcast

/-- The higher of two powers as a whole multiple of the lower. -/
theorem pow2_split {e q : Int} (h : q ≤ e) : pow2 e = ((2 ^ (e - q).toNat : Int) : Rat) * pow2 q := by
  rw [← pow2_toNat (Int.sub_nonneg_of_le h), ← pow2_add, Int.sub_add_cancel]

theorem dyadic_zero (e : Int) : dyadic 0 e = 0 := Rat.zero_mul _

/-- A floor that discards nothing leaves the number. -/
theorem dyadic_floorShift {m e q : Int} (h : shiftExact m e q = true) : dyadic (floorShift m e q) q = dyadic m e := by
  unfold floorShift dyadic
  unfold shiftExact at h
  split at h
  · next hq => rw [if_pos hq, pow2_split hq, Rat.intCast_mul, Rat.mul_assoc]
  · next hq =>
    have hdvd : (2 : Int) ^ (q - e).toNat ∣ m := Int.dvd_of_emod_eq_zero (of_decide_eq_true h)
    rw [if_neg hq, pow2_split (Int.le_of_lt (Int.not_le.mp hq)), ← Rat.mul_assoc, ← Rat.intCast_mul, Int.ediv_mul_cancel hdvd]

theorem toNat_add_sub (q : Int) (d : Nat) : (q + d - q).toNat = d := by omega

/-- Moving down by d bits is a floor by 2^d. -/
theorem floorShift_add (m q : Int) (d : Nat) : floorShift m q (q + d) = m / 2 ^ d := by
  unfold floorShift
  split
  · obtain rfl : d = 0 := by omega
    simp
  · rw [toNat_add_sub]

theorem shiftExact_add {m q : Int} {d : Nat} (h : m % 2 ^ d = 0) : shiftExact m q (q + d) = true := by
  unfold shiftExact
  rw [toNat_add_sub]
  split
  · rfl
  · exact decide_eq_true h

theorem dyadic_add (m n e : Int) : dyadic (m + n) e = dyadic m e + dyadic n e := by
  rw [dyadic, Rat.intCast_add, Rat.add_mul, dyadic, dyadic]

theorem dyadic_sub (m e k : Int) : dyadic m (e - k) = dyadic m e * pow2 (-k) := by
  rw [dyadic, Int.sub_eq_add_neg, pow2_add, ← Rat.mul_assoc, dyadic]

/-- A dyadic number times 2^K is whole where its exponent allows it. -/
theorem dyadic_scaled {m e K : Int} (h : 0 ≤ K + e) : ((m * 2 ^ (K + e).toNat : Int) : Rat) = dyadic m e * pow2 K := by
  rw [Rat.intCast_mul, ← pow2_toNat h, Int.add_comm, pow2_add, ← Rat.mul_assoc, dyadic]

/-! ## Sums of shares -/

/-- The share of element i in what is given to element j. -/
def shareOf (i j : Nat) (x : Rat) : Rat := if j = i then x else 0

theorem shareOf_same (i : Nat) (x : Rat) : shareOf i i x = x := if_pos rfl

theorem shareOf_other {i j : Nat} (h : j ≠ i) (x : Rat) : shareOf i j x = 0 := if_neg h

theorem shareOf_zero (i j : Nat) : shareOf i j 0 = 0 := ite_self 0

theorem shareOf_split (i j : Nat) (x y : Rat) : shareOf i j x = shareOf i j (x - y) + shareOf i j y := by
  unfold shareOf
  split
  · rw [Rat.sub_add_cancel]
  · rw [Rat.add_zero]

/-- The sum of what a list's members give. -/
def total {α : Type} (c : α → Rat) : List α → Rat
  | [] => 0
  | x :: l => c x + total c l

theorem total_map {α β : Type} (c : β → Rat) (f : α → β) (l : List α) : total c (l.map f) = total (fun x => c (f x)) l := by
  induction l with
  | nil => rfl
  | cons x l ih => exact congrArg (c (f x) + ·) ih

/-- A filter that drops only zeros leaves the sum. -/
theorem total_filter_of_zero {α : Type} (c : α → Rat) (p : α → Bool) (h : ∀ x, p x = false → c x = 0) (l : List α) :
    total c (l.filter p) = total c l := by
  induction l with
  | nil => rfl
  | cons x l ih =>
    cases hp : p x with
    | true => rw [List.filter_cons_of_pos hp, total, total, ih]
    | false => rw [List.filter_cons_of_neg (by rw [hp]; exact Bool.false_ne_true), total, ih, h x hp, Rat.zero_add]

theorem total_shareOf_other {α : Type} {i : Nat} {l : List (Nat × α)} (g : α → Rat) (h : i ∉ l.map (·.1)) :
    total (fun x => shareOf i x.1 (g x.2)) l = 0 := by
  induction l with
  | nil => rfl
  | cons x l ih =>
    obtain ⟨hx, hl⟩ := not_or.mp (fun hor => h (List.mem_cons.mpr hor))
    rw [total, shareOf_other (Ne.symm hx), ih hl, Rat.zero_add]

/-- In a list that names an element once, its share is what stands there. -/
theorem total_shareOf {α : Type} {i : Nat} {a : α} {l : List (Nat × α)} (g : α → Rat) (hn : (l.map (·.1)).Nodup) (h : (i, a) ∈ l) :
    total (fun x => shareOf i x.1 (g x.2)) l = g a := by
  induction l with
  | nil => cases h
  | cons x l ih =>
    obtain ⟨hx, hl⟩ := List.nodup_cons.mp hn
    rw [total]
    rcases List.mem_cons.mp h with rfl | hmem
    · rw [total_shareOf_other g hx, Rat.add_zero, shareOf_same]
    · have hne : x.1 ≠ i := fun he => hx (List.mem_map.mpr ⟨_, hmem, he.symm⟩)
      rw [ih hl hmem, shareOf_other hne, Rat.zero_add]

/-- What is given to each element, as what falls short of it and the rest. -/
theorem total_shareOf_split {α : Type} (i : Nat) (key : α → Nat) (c d : α → Rat) (l : List α) :
    total (fun x => shareOf i (key x) (c x)) l =
      total (fun x => shareOf i (key x) (c x - d x)) l + total (fun x => shareOf i (key x) (d x)) l := by
  induction l with
  | nil => exact (Rat.add_zero 0).symm
  | cons x l ih =>
    rw [total, total, total, ih, shareOf_split i (key x) (c x) (d x)]
    ac_rfl

/-! ## Exact addition -/

/-- The value that a step gives to its element (R87). -/
def StepValue.amount (y : StepValue) : Rat := dyadic y.i y.e

/-- An equation of values, with both sides multiplied by 2^K. -/
theorem Tile.scaled_add {t u : Tile} {i : Nat} {K n : Int} {x : Rat} (h : u.val i = t.val i + x) (ht : 0 ≤ K + t.a - 64)
    (hu : 0 ≤ K + u.a - 64) (hn : (n : Rat) = x * pow2 K) :
    (u.elem i).int * 2 ^ (K + u.a - 64).toNat = (t.elem i).int * 2 ^ (K + t.a - 64).toNat + n := by
  rw [Int.add_sub_assoc] at ht hu ⊢
  rw [Int.add_sub_assoc]
  refine Rat.intCast_inj.mp ?_
  rw [Rat.intCast_add, dyadic_scaled hu, dyadic_scaled ht, hn, ← Rat.add_mul]
  exact congrArg (· * pow2 K) h

/-- Steps over a list that keep the anchor. -/
theorem Tile.foldl_a {α : Type} {f : Tile → α → Tile} (ha : ∀ t x, (f t x).a = t.a) (l : List α) (t : Tile) :
    (l.foldl f t).a = t.a := by
  induction l generalizing t with
  | nil => rfl
  | cons x l ih => exact (ih (f t x)).trans (ha t x)

namespace Tile.Adds

theorem refl (i : Nat) (t : Tile) : t.Adds i 0 t := ⟨rfl, fun h => ⟨h, (Rat.add_zero _).symm⟩⟩

theorem trans {i : Nat} {x y : Rat} {t u v : Tile} (h : t.Adds i x u) (k : u.Adds i y v) : t.Adds i (x + y) v := by
  refine ⟨k.flags.trans h.flags, fun hv => ?_⟩
  obtain ⟨hu, hval⟩ := k.exact hv
  obtain ⟨ht, hval'⟩ := h.exact hu
  exact ⟨ht, by rw [hval, hval', Rat.add_assoc]⟩

theorem after {i : Nat} {x : Rat} {t u v : Tile} (h : t.Adds i 0 u) (k : u.Adds i x v) : t.Adds i x v :=
  Rat.zero_add x ▸ h.trans k

/-- The element and the anchor are as they were. -/
theorem of_eq {i : Nat} {t u : Tile} (he : u.elem i = t.elem i) (ha : u.a = t.a) : t.Adds i 0 u := by
  refine ⟨by rw [he], fun h => ⟨he ▸ h, ?_⟩⟩
  rw [Tile.val, he, ha, Rat.add_zero, Tile.val]

/-- Steps over a list that keep the anchor add the sum of their shares. -/
theorem foldl {α : Type} {i : Nat} {q : Int} {f : Tile → α → Tile} {c : α → Rat} (ha : ∀ t x, (f t x).a = t.a)
    (h : ∀ (t : Tile) x, t.a = q → t.Adds i (c x) (f t x)) (l : List α) {t : Tile} (ht : t.a = q) :
    t.Adds i (total c l) (l.foldl f t) := by
  induction l generalizing t with
  | nil => exact refl i t
  | cons x l ih => exact (h t x ht).trans (ih ((ha t x).trans ht))

/-- An anchor set while the element is 0 leaves its value (R85). -/
theorem anchored {i : Nat} {t : Tile} (h : t.av = false → (t.elem i).int = 0) (q : Int) :
    t.Adds i 0 (if t.av then t else { t with av := true, a := q }) := by
  split
  · exact refl i t
  · next hav =>
    refine ⟨rfl, fun hc => ⟨hc, ?_⟩⟩
    have hzero := h (eq_false_of_ne_true hav)
    show dyadic (t.elem i).int (q - 64) = dyadic (t.elem i).int (t.a - 64) + 0
    rw [hzero, dyadic_zero, dyadic_zero, Rat.add_zero]

/-- An element is replaced by one that keeps the flags of special values, and is not clean or has grown by x. -/
theorem put {i j : Nat} {x : Rat} {t : Tile} {e : TileElem} (hf : (e.nan, e.infp, e.infn) = ((t.elem j).nan, (t.elem j).infp, (t.elem j).infn))
    (h : e.clean → (t.elem j).clean ∧ dyadic e.int (t.a - 64) = t.val j + x) : t.Adds i (shareOf i j x) (t.put j e) := by
  by_cases hji : j = i
  · subst hji
    rw [shareOf_same]
    have he : (t.put j e).elem j = e := by rw [Tile.elem_put, if_pos rfl]
    refine ⟨by rw [he, hf], fun hc => ?_⟩
    rw [he] at hc
    obtain ⟨ht, hval⟩ := h hc
    exact ⟨ht, by rw [Tile.val, he, Tile.put_a, hval]⟩
  · rw [shareOf_other hji]
    exact of_eq (by rw [Tile.elem_put, if_neg hji]) rfl

end Tile.Adds

/-- The flag INX, which R87 and R92 set where something was discarded. -/
theorem TileElem.orFlags_inexact (e : TileElem) : e.orFlags 8 = { e with inx := true } := by
  simp [TileElem.orFlags, bit]

/-- Where INX is set any share x is accounted for; a tile left as it is accounts for none (R87, R92). -/
theorem Tile.adds_inexact {t u : Tile} {i j : Nat} {x : Rat} (h : (u = t ∧ x = 0) ∨ u = t.put j ((t.elem j).orFlags 8)) :
    t.Adds i (shareOf i j x) u := by
  rcases h with ⟨rfl, rfl⟩ | rfl
  · rw [shareOf_zero]
    exact .refl i u
  · rw [TileElem.orFlags_inexact]
    exact .put rfl fun ⟨hinx, _⟩ => by cases hinx

/-- A rebase moves each value down exactly, or sets INX (R88). -/
theorem Tile.adds_rebase (t : Tile) (d i : Nat) : t.Adds i 0 (t.rebase d) := by
  have helem := t.elem_rebase d i
  cases hovf : (t.elem i).ovf with
  | true =>
    rw [TileElem.rebased, if_pos hovf] at helem
    exact ⟨by rw [helem], fun ⟨_, ho⟩ => by rw [helem, hovf] at ho; cases ho⟩
  | false =>
    rw [TileElem.rebased, hovf, if_neg Bool.false_ne_true] at helem
    refine ⟨by rw [helem], fun ⟨hinx, _⟩ => ?_⟩
    obtain ⟨hinx, hexact⟩ : (t.elem i).inx = false ∧ (t.elem i).int % 2 ^ d = 0 := by simpa [helem] using hinx
    obtain ⟨lo, hi⟩ := (t.elem i).int_bounds
    have hpos : (0 : Int) < 2 ^ d := Int.pow_pos (by decide)
    have hint : ((t.rebase d).elem i).int = (t.elem i).int / 2 ^ d := by
      refine TileElem.int_of_window (congrArg TileElem.v helem) ?_ ?_
      · exact (Int.le_ediv_iff_mul_le hpos).mpr (by omega)
      · exact Int.ediv_lt_of_lt_mul hpos (by omega)
    refine ⟨⟨hinx, hovf⟩, ?_⟩
    have ha : (t.rebase d).a - 64 = t.a - 64 + d := by rw [Tile.rebase_a]; omega
    rw [Tile.val, hint, ha, ← floorShift_add _ (t.a - 64), dyadic_floorShift (shiftExact_add hexact), Rat.add_zero, Tile.val]

/-- A step's value is added exactly, or INX or OVF is set (R88). -/
theorem Tile.adds_addValue (t : Tile) (fresh i : Nat) (y : StepValue) :
    t.Adds i (shareOf i y.idx y.amount) (t.addValue fresh y) := by
  unfold Tile.addValue
  dsimp only
  split
  · next hovf =>
    refine ⟨rfl, fun hc => ⟨hc, ?_⟩⟩
    obtain ⟨-, ho⟩ := hc
    have hne : y.idx ≠ i := fun hi => by rw [hi, ho] at hovf; cases hovf
    rw [shareOf_other hne, Rat.add_zero]
  · next hovf =>
    split
    · exact .put rfl fun ⟨_, ho⟩ => by cases ho
    · next hfit =>
      refine .put rfl fun ⟨hinx, ho⟩ => ?_
      obtain ⟨hinx, hexact⟩ : (t.elem y.idx).inx = false ∧ shiftExact y.i y.e (t.a - 64) = true := by simpa using hinx
      have hlimit : tileLimit.natAbs = 2 ^ 95 := rfl
      rw [hlimit] at hfit
      refine ⟨⟨hinx, ho⟩, ?_⟩
      rw [TileElem.int_of_window rfl (by omega) (by omega), dyadic_add, dyadic_floorShift hexact]
      rfl

/-! ## Promotion (R88) -/

theorem Tile.addValue_a (t : Tile) (fresh : Nat) (y : StepValue) : (t.addValue fresh y).a = t.a := by
  unfold Tile.addValue
  dsimp only
  split
  · rfl
  · split <;> rfl

/-- A promotion adds the step's values, whatever rebase comes before (R88). -/
theorem Tile.adds_promote (t : Tile) (fresh i : Nat) (ys : List StepValue) :
    t.Adds i (total (fun y => shareOf i y.idx y.amount) ys) (t.promote fresh ys) := by
  have hadd : ∀ u : Tile, u.Adds i (total (fun y => shareOf i y.idx y.amount) ys) (ys.foldl (fun t y => t.addValue fresh y) u) :=
    fun u => .foldl (fun t y => t.addValue_a fresh y) (fun t y _ => t.adds_addValue fresh i y) ys rfl
  unfold Tile.promote
  dsimp only
  split
  · exact hadd t
  · exact (t.adds_rebase _ i).after (hadd _)

/-! ## A step (R86, R87) -/

/-- The exact sum of dyadic numbers. -/
def dyadicSum (ps : List (Int × Int)) : Rat := total (fun p => dyadic p.1 p.2) ps

theorem dyadicSum_cons (p : Int × Int) (ps : List (Int × Int)) : dyadicSum (p :: ps) = dyadic p.1 p.2 + dyadicSum ps := rfl

/-- The inner sum of floors that discard nothing (R87). -/
theorem dyadic_foldl {q : Int} {ps : List (Int × Int)} (h : ∀ p ∈ ps, shiftExact p.1 p.2 q = true) (m : Int) :
    dyadic ((ps.map fun p => floorShift p.1 p.2 q).foldl (· + ·) m) q = dyadic m q + dyadicSum ps := by
  induction ps generalizing m with
  | nil => exact (Rat.add_zero _).symm
  | cons p ps ih =>
    have hhead := dyadic_floorShift (h p List.mem_cons_self)
    rw [List.map_cons, List.foldl_cons, ih fun x hx => h x (List.mem_cons_of_mem p hx), dyadic_add, hhead, dyadicSum_cons, Rat.add_assoc]

/-- The inner sum is exact where no floor discarded anything (R87). -/
theorem innerSum_exact {j : Nat} {ps : List (Int × Int)} (h : (innerSum j ps).2 = false) :
    (innerSum j ps).1.amount = dyadicSum ps := by
  unfold innerSum at h
  have hexact : ∀ p ∈ ps, shiftExact p.1 p.2 (maxInt (ps.map flog2Dyadic) - 31) = true := by
    intro p hp
    simpa using List.any_eq_false.mp h p hp
  exact (dyadic_foldl hexact 0).trans (by rw [dyadic_zero, Rat.zero_add])

/-- The finite nonzero products of the elements that have any (R87). -/
def liveProducts (products : List (Nat × List Fp)) : List (Nat × List (Int × Int)) :=
  (products.map fun x => (x.1, finiteProducts x.2)).filter fun x => !x.2.isEmpty

/-- The share of an element in the live products is the sum of its finite products. -/
theorem total_liveProducts {i : Nat} {ps : List Fp} {products : List (Nat × List Fp)} (hn : (products.map (·.1)).Nodup)
    (h : (i, ps) ∈ products) : total (fun x => shareOf i x.1 (dyadicSum x.2)) (liveProducts products) = dyadicSum (finiteProducts ps) := by
  have hempty : ∀ x : Nat × List (Int × Int), (!x.2.isEmpty) = false → shareOf i x.1 (dyadicSum x.2) = 0 := by
    intro x hx
    have hnil : x.2 = [] := by simpa using hx
    rw [hnil]
    exact shareOf_zero i x.1
  rw [liveProducts, total_filter_of_zero _ _ hempty, total_map]
  exact total_shareOf (fun l => dyadicSum (finiteProducts l)) hn h

/-- The stage that sets INX, and the promotion that follows, add the exact products (R87, R88). -/
theorem Tile.adds_sums (t : Tile) (fresh i : Nat) (live : List (Nat × List (Int × Int))) :
    t.Adds i (total (fun x => shareOf i x.1 (dyadicSum x.2)) live)
      (((live.map fun x => innerSum x.1 x.2).foldl (fun t x => if x.2 then t.put x.1.idx ((t.elem x.1.idx).orFlags 8) else t) t).promote
        fresh ((live.map fun x => innerSum x.1 x.2).map (·.1))) := by
  have hmark : ∀ (u : Tile) (x : Nat × List (Int × Int)), u.Adds i (shareOf i x.1 (dyadicSum x.2 - (innerSum x.1 x.2).1.amount))
      (if (innerSum x.1 x.2).2 then u.put x.1 ((u.elem x.1).orFlags 8) else u) := by
    intro u x
    refine adds_inexact ?_
    split
    · exact .inr rfl
    · next hx => exact .inl ⟨rfl, by rw [innerSum_exact (eq_false_of_ne_true hx), Rat.sub_self]⟩
  have hmarks := Adds.foldl (q := t.a) (fun u x => by split <;> rfl) (fun u x _ => hmark u x) live rfl
  have hpromote := adds_promote (live.foldl (fun u x => if (innerSum x.1 x.2).2 then u.put x.1 ((u.elem x.1).orFlags 8) else u) t) fresh i
    ((live.map fun x => innerSum x.1 x.2).map (·.1))
  rw [total_map, total_map] at hpromote
  rw [total_shareOf_split i (·.1) (fun x => dyadicSum x.2) (fun x => (innerSum x.1 x.2).1.amount) live, List.foldl_map]
  exact hmarks.trans hpromote

/-- The flags that a step's products set (R86). -/
def stepFlags (products : List (Nat × List Fp)) : List (Nat × Nat) := products.map fun x => (x.1, productFlags x.2)

theorem stepFlags_nodup {products : List (Nat × List Fp)} (h : (products.map (·.1)).Nodup) : ((stepFlags products).map (·.1)).Nodup := by
  rwa [stepFlags, List.map_map]

theorem stepFlags_mem {i : Nat} {ps : List Fp} {products : List (Nat × List Fp)} (h : (i, ps) ∈ products) :
    (i, productFlags ps) ∈ stepFlags products :=
  List.mem_map.mpr ⟨_, h, rfl⟩

/-- After the flags of R86, a step adds the finite products (R87, R88). -/
theorem Tile.adds_step {t : Tile} {i : Nat} {ps : List Fp} {products : List (Nat × List Fp)} (fresh : Nat)
    (h0 : t.av = false → (t.elem i).int = 0) (hn : (products.map (·.1)).Nodup) (h : (i, ps) ∈ products) :
    (t.joinFlags (stepFlags products)).Adds i (dyadicSum (finiteProducts ps)) (t.step fresh products) := by
  have hflags : products.foldl (fun t x => if productFlags x.2 = 0 then t else t.put x.1 ((t.elem x.1).orFlags (productFlags x.2))) t =
      t.joinFlags (stepFlags products) := by
    rw [joinFlags, stepFlags, List.foldl_map]
  have hzero := joinFlags_unanchored (stepFlags_nodup hn) (stepFlags_mem h) h0
  rw [← total_liveProducts hn h]
  unfold Tile.step
  rw [hflags]
  generalize t.joinFlags (stepFlags products) = u at hzero ⊢
  have hcanon : u.Adds i 0 { u with canon := false } := .of_eq rfl rfl
  show u.Adds i _ (if (liveProducts products).isEmpty then _ else _)
  split
  · next hnil =>
    rw [List.isEmpty_iff.mp hnil]
    exact hcanon
  · exact hcanon.after ((Adds.anchored (t := { u with canon := false }) hzero _).after (adds_sums _ fresh i (liveProducts products)))

/-! ## A merge (R92) -/

/-- The flags that a merge joins (R92). -/
def mergeFlags (src : List (Nat × Int × Nat)) : List (Nat × Nat) := src.map fun x => (x.1, x.2.2)

theorem mergeFlags_nodup {src : List (Nat × Int × Nat)} (h : (src.map (·.1)).Nodup) : ((mergeFlags src).map (·.1)).Nodup := by
  rwa [mergeFlags, List.map_map]

theorem mergeFlags_mem {i f : Nat} {v : Int} {src : List (Nat × Int × Nat)} (h : (i, v, f) ∈ src) : (i, f) ∈ mergeFlags src :=
  List.mem_map.mpr ⟨_, h, rfl⟩

/-- The step value that a merge at the anchor q makes of a source's element (R92). -/
def mergeValue (a q : Int) (x : Nat × Int × Nat) : StepValue := { idx := x.1, i := floorShift x.2.1 a q, e := q - 64 }

/-- A source's value that the tile's anchor holds is given as it is. -/
theorem mergeValue_amount {a q : Int} {x : Nat × Int × Nat} (h : shiftExact x.2.1 a q = true) :
    (mergeValue a q x).amount = dyadic x.2.1 (a - 64) := by
  rw [StepValue.amount, mergeValue, dyadic_sub, dyadic_floorShift h, ← dyadic_sub]

/-- The values of 0 that a merge does not promote are no one's share. -/
theorem total_mergeValue (i : Nat) (a q : Int) (src : List (Nat × Int × Nat)) :
    total (fun y => shareOf i y.idx y.amount) ((src.map (mergeValue a q)).filter (·.i ≠ 0)) =
      total (fun x => shareOf i x.1 (mergeValue a q x).amount) src := by
  rw [total_filter_of_zero, total_map]
  · rfl
  · intro y hy
    have hi : y.i = 0 := by simpa using hy
    rw [StepValue.amount, hi, dyadic_zero, shareOf_zero]

/-- The stage that sets INX, and the promotion that follows, add the merged value exactly (R92, R88). -/
theorem Tile.adds_merged (t : Tile) (fresh i : Nat) (a : Int) (src : List (Nat × Int × Nat)) :
    let u := src.foldl (fun t x => if shiftExact x.2.1 a t.a then t else t.put x.1 ((t.elem x.1).orFlags 8)) t
    t.Adds i (total (fun x => shareOf i x.1 (dyadic x.2.1 (a - 64))) src)
      (u.promote fresh ((src.map (mergeValue a u.a)).filter (·.i ≠ 0))) := by
  intro u
  have hkeeps : ∀ (u : Tile) (x : Nat × Int × Nat),
      (if shiftExact x.2.1 a u.a then u else u.put x.1 ((u.elem x.1).orFlags 8)).a = u.a := fun u x => by split <;> rfl
  have ha : u.a = t.a := foldl_a hkeeps src t
  have hmarks : t.Adds i (total (fun x => shareOf i x.1 (dyadic x.2.1 (a - 64) - (mergeValue a t.a x).amount)) src) u := by
    refine .foldl hkeeps (fun u x hu => adds_inexact ?_) src rfl
    split
    · next hx => exact .inl ⟨rfl, by rw [mergeValue_amount (hu ▸ hx), Rat.sub_self]⟩
    · exact .inr rfl
  rw [total_shareOf_split i (·.1) (fun x => dyadic x.2.1 (a - 64)) (fun x => (mergeValue a t.a x).amount) src, ← total_mergeValue, ha]
  exact hmarks.trans (adds_promote u fresh i _)

/-- The tile brought to the source's anchor, or to the higher one, keeps the value (R92). -/
theorem Tile.adds_raised {t : Tile} {i : Nat} (a : Int) (h : t.av = false → (t.elem i).int = 0) :
    t.Adds i 0 (if !t.av then { t with av := true, a := a } else if t.a < a then t.rebase (a - t.a).toNat else t) := by
  have hanchor := Adds.anchored h a
  cases hav : t.av with
  | false => simpa [hav] using hanchor
  | true =>
    show t.Adds i 0 (if t.a < a then _ else t)
    split
    · exact t.adds_rebase _ i
    · exact .refl i t

/-- After the flags, a merge of a source with an anchor adds the source's value (R92). -/
theorem Tile.adds_merge {t : Tile} {i f : Nat} {v : Int} {src : List (Nat × Int × Nat)} (fresh : Nat) (a : Int)
    (h0 : t.av = false → (t.elem i).int = 0) (hn : (src.map (·.1)).Nodup) (h : (i, v, f) ∈ src) :
    (t.joinFlags (mergeFlags src)).Adds i (dyadic v (a - 64)) (t.merge fresh true a src) := by
  have hflags : src.foldl (fun t x => if x.2.2 = 0 then t else t.put x.1 ((t.elem x.1).orFlags x.2.2)) t =
      t.joinFlags (mergeFlags src) := by
    rw [joinFlags, mergeFlags, List.foldl_map]
  have hzero := joinFlags_unanchored (mergeFlags_nodup hn) (mergeFlags_mem h) h0
  rw [← total_shareOf (fun x : Int × Nat => dyadic x.1 (a - 64)) hn h]
  unfold Tile.merge
  rw [hflags]
  generalize t.joinFlags (mergeFlags src) = u at hzero ⊢
  have hcanon : u.Adds i 0 { u with canon := false } := .of_eq rfl rfl
  exact hcanon.after ((adds_raised (t := { u with canon := false }) a hzero).after (adds_merged _ fresh i a src))

/-! ## The obligation -/

/-- A finite product times 2^K, as the whole number that the obligation writes; 0 for a special value. -/
def scaledProduct (K : Int) : Fp → Int
  | .fin neg m e => (if neg then -(m : Int) else m) * 2 ^ (K + e).toNat
  | .inf _ => 0
  | .nan => 0

/-- The finite nonzero products sum up to the products, with both sides multiplied by 2^K. -/
theorem sum_scaledProduct {K : Int} {ps : List Fp} (h : ∀ neg m e, Fp.fin neg m e ∈ ps → m ≠ 0 → 0 ≤ K + e) :
    (((ps.map (scaledProduct K)).sum : Int) : Rat) = dyadicSum (finiteProducts ps) * pow2 K := by
  induction ps with
  | nil => exact (Rat.zero_mul _).symm
  | cons p ps ih =>
    have ih := ih fun neg m e hp => h neg m e (List.mem_cons_of_mem p hp)
    rw [List.map_cons, List.sum_cons, Rat.intCast_add, ih]
    match p, h with
    | .nan, _ => exact Rat.zero_add _
    | .inf _, _ => exact Rat.zero_add _
    | .fin neg 0 e, _ =>
      have hnone : scaledProduct K (.fin neg 0 e) = 0 := by cases neg <;> exact Int.zero_mul _
      rw [hnone]
      exact Rat.zero_add _
    | .fin neg (m + 1) e, h =>
      have hlive : finiteProducts (.fin neg (m + 1) e :: ps) = (signedMag neg (m + 1), e) :: finiteProducts ps := rfl
      have hhead := dyadic_scaled (m := signedMag neg (m + 1)) (h neg (m + 1) e List.mem_cons_self m.succ_ne_zero)
      rw [hlive, dyadicSum_cons, Rat.add_mul, ← hhead]
      rfl

/-- The flags of special values among the products (R86). -/
theorem bit_productFlags (ps : List Fp) : bit (productFlags ps) 2 = ps.contains .nan ∧ bit (productFlags ps) 1 = ps.contains (.inf false) ∧
    bit (productFlags ps) 0 = ps.contains (.inf true) := by
  have hany : ∀ p : Fp, ps.any (· = p) = ps.contains p := fun p => by
    rw [List.contains_eq_any_beq]
    exact congrArg ps.any (funext fun q => decide_eq_decide.mpr eq_comm)
  rw [productFlags, hany, hany, hany]
  generalize ps.contains .nan = nan, ps.contains (.inf false) = infp, ps.contains (.inf true) = infn
  revert nan infp infn
  decide

/-- Joining flags leaves every value. -/
theorem Tile.val_joinFlags {i n : Nat} {l : List (Nat × Nat)} (hn : (l.map (·.1)).Nodup) (h : (i, n) ∈ l) (t : Tile) :
    (t.joinFlags l).val i = t.val i := by
  obtain ⟨ha, -⟩ := t.joinFlags_anchor l
  rw [Tile.val, ha, joinFlags_elem hn h, TileElem.orFlags_int, Tile.val]

/-- Settles O29: a step and a merge join their flags and then add their shares stage by stage. -/
theorem tileAccumulationIsExact : Obligations.TileAccumulationIsExact := by
  intro t fresh i K h0 K value
  have hzero : t.av = false → (t.elem i).int = 0 := fun h => by rw [TileElem.int_eq, h0 h]; rfl
  refine ⟨fun products ps hn hmem => ?step, fun a v f src hn hmem => ?merge⟩
  case step =>
    intro y z
    have hadds := Tile.adds_step fresh hzero hn hmem
    have hn := stepFlags_nodup hn
    have hmem := stepFlags_mem hmem
    refine ⟨?flags, fun hinx hovf ht hy hK => ?exact⟩
    case flags =>
      obtain ⟨hnan, hinfp, hinfn⟩ := bit_productFlags ps
      rw [← hnan, ← hinfp, ← hinfn, hadds.flags, Tile.joinFlags_elem hn hmem]
      rfl
    case exact =>
      obtain ⟨-, hval⟩ := hadds.exact ⟨hinx, hovf⟩
      rw [Tile.val_joinFlags hn hmem] at hval
      have hsum := Tile.scaled_add hval ht hy (sum_scaledProduct hK)
      refine hsum.trans (congrArg (value t + List.sum ·) (List.map_congr_left fun p _ => ?_))
      cases p <;> rfl
  case merge =>
    intro y z
    have hadds := Tile.adds_merge fresh a hzero hn hmem
    have hn := mergeFlags_nodup hn
    have hmem := mergeFlags_mem hmem
    refine ⟨?flags, fun hinx hovf ht ha hy => ?exact⟩
    case flags =>
      rw [hadds.flags, Tile.joinFlags_elem hn hmem]
      rfl
    case exact =>
      obtain ⟨-, hval⟩ := hadds.exact ⟨hinx, hovf⟩
      rw [Tile.val_joinFlags hn hmem] at hval
      rw [Int.add_sub_assoc] at ha
      have hsum := Tile.scaled_add hval ht hy (dyadic_scaled ha)
      rwa [← Int.add_sub_assoc] at hsum

end Sys2Proof.Machine
end

section
/-!
PROOFS. Numbers read as two's complement and integers kept modulo a power of two (spec/00_scope.md R6), as bit vectors.
-/
namespace Sys2Proof

/-- Reading w bits as signed is the signed value of those bits. -/
theorem toSigned_eq_toInt (w n : Nat) : toSigned w n = (BitVec.ofNat w n).toInt := by
  have half : 2 ^ (w - 1) ≤ n % 2 ^ w ↔ ¬ 2 * (n % 2 ^ w) < 2 ^ w := by
    cases w with
    | zero => rw [Nat.pow_zero, Nat.mod_one]; decide
    | succ w => rw [Nat.pow_succ', Nat.add_sub_cancel]; omega
  rw [toSigned, BitVec.toInt_eq_toNat_cond, BitVec.toNat_ofNat]
  simp only [half, ite_not]
  push_cast
  rfl

/-- An integer kept modulo 2^w is the bit vector of that integer. -/
theorem ofNat_wrap (w : Nat) (i : Int) : BitVec.ofNat w (wrap w i) = BitVec.ofInt w i := by
  apply BitVec.eq_of_toNat_eq
  rw [BitVec.toNat_ofNat, BitVec.toNat_ofInt, Nat.mod_eq_of_lt (Machine.wrap_lt w i), wrap]
  push_cast
  rfl

/-- Sign extension to 64 bits of a number of w bits. -/
theorem sext64_eq_signExtend (w n : Nat) : sext64 w n = (BitVec.ofNat w n).signExtend 64 := by
  rw [sext64, toSigned_eq_toInt, BitVec.signExtend]

/-- The upper half of 2n bits of an integer is its quotient by 2^n. -/
theorem extractLsb'_ofInt_high (n : Nat) (p : Int) : (BitVec.ofInt (2 * n) p).extractLsb' n n = BitVec.ofInt n (p / 2 ^ n) := by
  have hm : (0 : Int) < 2 ^ n := Int.pow_pos (by decide)
  have hsq : ((2 ^ (2 * n) : Nat) : Int) = 2 ^ n * 2 ^ n := by rw [Nat.two_mul, Nat.pow_add]; push_cast; rfl
  have hhigh : p % (2 ^ n * 2 ^ n) / 2 ^ n = p / 2 ^ n - 2 ^ n * (p / (2 ^ n * 2 ^ n)) := by
    rw [Int.emod_def, Int.mul_assoc, Int.sub_mul_ediv_left _ _ (Int.ne_of_gt hm)]
  apply BitVec.eq_of_toNat_eq
  rw [BitVec.extractLsb'_toNat, Nat.shiftRight_eq_div_pow, BitVec.toNat_ofInt, BitVec.toNat_ofInt, hsq]
  have hlow : ((p % (2 ^ n * 2 ^ n)).toNat : Int) = p % (2 ^ n * 2 ^ n) :=
    Int.toNat_of_nonneg (Int.emod_nonneg _ (Int.ne_of_gt (Int.mul_pos hm hm)))
  have hquot : ((p / 2 ^ n % 2 ^ n).toNat : Int) = p / 2 ^ n % 2 ^ n := Int.toNat_of_nonneg (Int.emod_nonneg _ (Int.ne_of_gt hm))
  apply Int.ofNat_inj.mp
  rw [Int.natCast_emod, Int.natCast_ediv, hlow, Int.natCast_pow, Int.cast_ofNat_Int, hquot, hhigh, Int.sub_mul_emod_self_left]

/-- The remainder of an unsigned division by way of its quotient. -/
theorem umod_eq_sub_mul_udiv {n : Nat} (x y : BitVec n) : x % y = x - y * (x / y) := by
  have hsum : x % y + y * (x / y) = x := by
    apply BitVec.eq_of_toNat_eq
    rw [BitVec.toNat_add, BitVec.toNat_mul, Nat.add_mod_mod, BitVec.toNat_umod, BitVec.toNat_udiv, Nat.mod_add_div,
      Nat.mod_eq_of_lt x.isLt]
  calc x % y = x % y + y * (x / y) - y * (x / y) := (BitVec.add_sub_cancel _ _).symm
    _ = x - y * (x / y) := by rw [hsum]

/-- A quotient of signed values truncated toward zero, kept modulo 2^n, is the signed quotient. -/
theorem ofInt_tdiv {n : Nat} (x y : BitVec n) : BitVec.ofInt n (x.toInt.tdiv y.toInt) = x.sdiv y :=
  BitVec.eq_of_toInt_eq (by rw [BitVec.toInt_ofInt, BitVec.toInt_sdiv])

theorem ofNat_pow_sub_one (n : Nat) : BitVec.ofNat n (2 ^ n - 1) = BitVec.allOnes n := by
  apply BitVec.eq_of_toNat_eq
  rw [BitVec.toNat_ofNat, BitVec.toNat_allOnes, Nat.mod_eq_of_lt (Nat.sub_lt (Nat.two_pow_pos n) Nat.one_pos)]

/-! ## Bit counts -/

theorem lowestBit_le (k n : Nat) : lowestBit k n ≤ k := by
  induction k generalizing n with
  | zero => exact Nat.le_refl 0
  | succ k ih =>
    have := ih (n / 2)
    unfold lowestBit
    split <;> omega

/-- Below the lowest set bit all are 0. -/
theorem testBit_below_lowestBit (k n : Nat) {i : Nat} (hi : i < lowestBit k n) : n.testBit i = false := by
  induction k generalizing n i with
  | zero => exact absurd hi (Nat.not_lt_zero i)
  | succ k ih =>
    unfold lowestBit at hi
    split at hi
    next h => exact absurd hi (Nat.not_lt_zero i)
    next h =>
      cases i with
      | zero => simp [Nat.testBit_zero, h]
      | succ i => rw [Nat.testBit_succ]; exact ih (n / 2) (by omega)

/-- The bit at the lowest set bit is 1, if the low k bits hold one. -/
theorem testBit_lowestBit (k n : Nat) (h : lowestBit k n < k) : n.testBit (lowestBit k n) = true := by
  induction k generalizing n with
  | zero => exact absurd h (Nat.not_lt_zero _)
  | succ k ih =>
    unfold lowestBit at h ⊢
    split at h
    next h1 => simp [h1, Nat.testBit_zero]
    next h1 =>
      rw [if_neg h1, Nat.add_comm, Nat.testBit_succ]
      exact ih (n / 2) (by omega)

/-- The number of one bits counts the bits that are set. -/
theorem popcount_eq_countP (k n : Nat) : popcount k n = (List.range k).countP n.testBit := by
  induction k generalizing n with
  | zero => rfl
  | succ k ih =>
    have htail : (List.range k).countP (n.testBit ∘ Nat.succ) = (List.range k).countP (n / 2).testBit :=
      List.countP_congr fun i _ => by simp [Nat.testBit_succ]
    rw [popcount, ih, List.range_succ_eq_map, List.countP_cons, List.countP_map, htail, Nat.testBit_zero]
    rcases Nat.mod_two_eq_zero_or_one n with h | h <;> simp [h, Nat.add_comm]

/-! ## Bytes -/

@[simp] theorem length_toBytes (k n : Nat) : (toBytes k n).length = k := by
  induction k generalizing n with
  | zero => rfl
  | succ k ih => rw [toBytes, List.length_cons, ih]

/-- Byte j of the little-endian bytes of a number. -/
theorem getElem?_toBytes (k n : Nat) {j : Nat} (h : j < k) : (toBytes k n)[j]? = some (BitVec.ofNat 8 (n / 2 ^ (8 * j))) := by
  induction k generalizing n j with
  | zero => exact absurd h (Nat.not_lt_zero j)
  | succ k ih =>
    cases j with
    | zero => simp [toBytes]
    | succ j =>
      rw [toBytes, List.getElem?_cons_succ, ih (n / 256) (Nat.lt_of_succ_lt_succ h), Nat.mul_succ, Nat.add_comm, Nat.pow_add,
        Nat.div_div_eq_div_mul]

/-- The number that bytes hold packs their values. -/
theorem ofBytes_eq_packed (l : List Byte) : ofBytes l = (l.map BitVec.toNat).foldr (fun x acc => x + 2 ^ 8 * acc) 0 := by
  change l.foldr (fun b acc => b.toNat + 2 ^ 8 * acc) 0 = _
  rw [List.foldr_map]

theorem byte_lt (l : List Byte) : ∀ x ∈ l.map BitVec.toNat, x < 2 ^ 8 := by
  simp only [List.mem_map]
  rintro _ ⟨b, -, rfl⟩
  exact b.isLt

theorem ofBytes_lt (l : List Byte) : ofBytes l < 2 ^ (8 * l.length) := by
  have h := Machine.packed_lt 8 _ (byte_lt l)
  rwa [← ofBytes_eq_packed, List.length_map] at h

/-- Byte i of the number that little-endian bytes hold. -/
theorem ofBytes_div (l : List Byte) (i : Nat) : ofBytes l / 2 ^ (8 * i) % 2 ^ 8 = (l[i]?.getD 0).toNat := by
  rw [ofBytes_eq_packed, Machine.packed_get 8 _ (byte_lt l), List.getD_eq_getElem?_getD, List.getElem?_map]
  cases l[i]? <;> rfl

end Sys2Proof
end

section
/-!
PROOFS. The functions of the ALU (spec/05_scalar_control.md R97 to R100) on N-bit operands: what the model computes in numbers is what
R98 says of bit vectors.
-/
namespace Sys2Proof.Machine

section
variable (w : Width) (x y : DWord)

@[simp] theorem toNat_aluIn : (aluIn w x).toNat = truncW w x := BitVec.toNat_setWidth _ _

theorem toInt_aluIn : (aluIn w x).toInt = signedW w x := by
  rw [signedW, toSigned_eq_toInt, BitVec.ofNat_toNat, aluIn]

theorem ofNat_truncW : BitVec.ofNat (widthBits w) (truncW w x) = aluIn w x := by
  rw [← toNat_aluIn, BitVec.ofNat_toNat, BitVec.setWidth_eq]

theorem truncW_lt_two_pow : truncW w x < 2 ^ widthBits w := Nat.mod_lt _ (Nat.two_pow_pos _)

theorem widthBits_pos : 0 < widthBits w := by cases w <;> decide
theorem widthBits_le : widthBits w ≤ 64 := by cases w <;> decide

theorem truncW_eq_zero : truncW w x = 0 ↔ aluIn w x = 0 := by
  rw [← toNat_aluIn, ← BitVec.toNat_inj, BitVec.ofNat_eq_ofNat, BitVec.toNat_ofNat, Nat.zero_mod]

theorem truncW_inj : truncW w x = truncW w y ↔ aluIn w x = aluIn w y := by
  rw [← toNat_aluIn, ← toNat_aluIn, BitVec.toNat_inj]

theorem truncW_lt : truncW w x < truncW w y ↔ aluIn w x < aluIn w y := by
  rw [← toNat_aluIn, ← toNat_aluIn, BitVec.lt_def]

theorem signedW_lt : signedW w x < signedW w y ↔ (aluIn w x).slt (aluIn w y) = true := by
  rw [← toInt_aluIn, ← toInt_aluIn, BitVec.slt_iff_toInt_lt]

theorem ofNat_addF : BitVec.ofNat (widthBits w) (addF w x y) = aluIn w x + aluIn w y := by
  apply BitVec.eq_of_toNat_eq; simp [addF]

theorem ofNat_subF : BitVec.ofNat (widthBits w) (subF w x y) = aluIn w x - aluIn w y := by
  rw [subF, ofNat_wrap, Int.sub_eq_add_neg, BitVec.ofInt_add, BitVec.ofInt_neg, BitVec.ofInt_natCast, BitVec.ofInt_natCast,
    ofNat_truncW, ofNat_truncW, BitVec.sub_eq_add_neg]

theorem ofNat_mulF : BitVec.ofNat (widthBits w) (mulF w x y) = aluIn w x * aluIn w y := by
  apply BitVec.eq_of_toNat_eq; simp [mulF]

theorem ofNat_divsF : BitVec.ofNat (widthBits w) (divsF w x y) =
    if aluIn w y = 0 then BitVec.allOnes _ else (aluIn w x).sdiv (aluIn w y) := by
  simp only [divsF, truncW_eq_zero]
  split
  · exact ofNat_pow_sub_one _
  · rw [ofNat_wrap, ← toInt_aluIn, ← toInt_aluIn, ofInt_tdiv]

theorem ofNat_divzF : BitVec.ofNat (widthBits w) (divzF w x y) =
    if aluIn w y = 0 then BitVec.allOnes _ else aluIn w x / aluIn w y := by
  simp only [divzF, truncW_eq_zero]
  split
  · exact ofNat_pow_sub_one _
  · rw [BitVec.udiv_def, toNat_aluIn, toNat_aluIn]

theorem ofNat_remsF : BitVec.ofNat (widthBits w) (remsF w x y) =
    if aluIn w y = 0 then aluIn w x else aluIn w x - aluIn w y * (aluIn w x).sdiv (aluIn w y) := by
  simp only [remsF, truncW_eq_zero]
  split
  · exact ofNat_truncW w x
  · rw [ofNat_wrap, ← toInt_aluIn, ← toInt_aluIn, Int.tmod_def, Int.sub_eq_add_neg, BitVec.ofInt_add, BitVec.ofInt_neg,
      BitVec.ofInt_mul, ofInt_tdiv, BitVec.ofInt_toInt, BitVec.ofInt_toInt, BitVec.sub_eq_add_neg]

theorem ofNat_remzF : BitVec.ofNat (widthBits w) (remzF w x y) =
    if aluIn w y = 0 then aluIn w x else aluIn w x - aluIn w y * (aluIn w x / aluIn w y) := by
  simp only [remzF, truncW_eq_zero]
  split
  · exact ofNat_truncW w x
  · rw [← toNat_aluIn, ← toNat_aluIn, ← BitVec.umod_def, umod_eq_sub_mul_udiv]

theorem ofNat_andF : BitVec.ofNat (widthBits w) (andF w x y) = aluIn w x &&& aluIn w y := by
  rw [andF, ofNat_truncW, aluIn, BitVec.setWidth_and]; rfl

theorem ofNat_orF : BitVec.ofNat (widthBits w) (orF w x y) = aluIn w x ||| aluIn w y := by
  rw [orF, ofNat_truncW, aluIn, BitVec.setWidth_or]; rfl

theorem ofNat_xorF : BitVec.ofNat (widthBits w) (xorF w x y) = aluIn w x ^^^ aluIn w y := by
  rw [xorF, ofNat_truncW, aluIn, BitVec.setWidth_xor]; rfl

theorem ofNat_andnF : BitVec.ofNat (widthBits w) (andnF w x y) = aluIn w x &&& ~~~aluIn w y := by
  rw [andnF, ofNat_truncW, aluIn, BitVec.setWidth_and, BitVec.setWidth_not (widthBits_le w)]; rfl

theorem ofNat_mulhzF : BitVec.ofNat (widthBits w) (mulhzF w x y) =
    ((aluIn w x).setWidth (2 * widthBits w) * (aluIn w y).setWidth (2 * widthBits w)).extractLsb' (widthBits w) (widthBits w) := by
  rw [← BitVec.ofNat_toNat, ← BitVec.ofNat_toNat, ← BitVec.ofNat_mul, ← BitVec.ofInt_natCast (2 * widthBits w),
    extractLsb'_ofInt_high, mulhzF, toNat_aluIn, toNat_aluIn, ← BitVec.ofInt_natCast]
  push_cast
  rfl

theorem ofNat_mulhsF : BitVec.ofNat (widthBits w) (mulhsF w x y) =
    ((aluIn w x).signExtend (2 * widthBits w) * (aluIn w y).signExtend (2 * widthBits w)).extractLsb' (widthBits w) (widthBits w) := by
  rw [BitVec.signExtend, BitVec.signExtend, ← BitVec.ofInt_mul, extractLsb'_ofInt_high, mulhsF, ofNat_wrap, toInt_aluIn, toInt_aluIn]

/-- The shift amount of R99 in the operand of N bits. -/
theorem shiftN_eq : shiftN w y = (aluIn w y).toNat % widthBits w := by
  rw [shiftN, toNat_aluIn, truncW, Nat.mod_mod_of_dvd]
  cases w <;> decide

theorem ofNat_shlF : BitVec.ofNat (widthBits w) (shlF w x y) = aluIn w x <<< shiftN w y := by
  apply BitVec.eq_of_toNat_eq
  simp [shlF, Nat.shiftLeft_eq]

theorem ofNat_shrlF : BitVec.ofNat (widthBits w) (shrlF w x y) = aluIn w x >>> shiftN w y := by
  apply BitVec.eq_of_toNat_eq
  rw [BitVec.toNat_ushiftRight, toNat_aluIn, Nat.shiftRight_eq_div_pow, BitVec.toNat_ofNat, shrlF]
  exact Nat.mod_eq_of_lt (Nat.lt_of_le_of_lt (Nat.div_le_self _ _) (truncW_lt_two_pow w x))

theorem ofNat_shraF : BitVec.ofNat (widthBits w) (shraF w x y) = (aluIn w x).sshiftRight (shiftN w y) := by
  rw [shraF, ofNat_wrap, BitVec.sshiftRight_eq, Int.shiftRight_eq_div_pow, toInt_aluIn]
  push_cast; rfl

theorem ofNat_rolF : BitVec.ofNat (widthBits w) (rolF w x y) = (aluIn w x).rotateLeft (shiftN w y) := by
  have hn : shiftN w y < widthBits w := Nat.mod_lt _ (widthBits_pos w)
  have hx : truncW w x < 2 ^ (widthBits w - shiftN w y + shiftN w y) := by
    rw [Nat.sub_add_cancel (Nat.le_of_lt hn)]
    exact truncW_lt_two_pow w x
  have hlow : truncW w x / 2 ^ (widthBits w - shiftN w y) < 2 ^ shiftN w y := by
    rwa [Nat.div_lt_iff_lt_mul (Nat.two_pow_pos _), ← Nat.pow_add, Nat.add_comm]
  have hhigh : truncW w x * 2 ^ shiftN w y % 2 ^ widthBits w =
      (truncW w x % 2 ^ (widthBits w - shiftN w y)) <<< shiftN w y := by
    rw [Nat.shiftLeft_eq, ← Nat.mul_mod_mul_right, ← Nat.pow_add, Nat.sub_add_cancel (Nat.le_of_lt hn)]
  apply BitVec.eq_of_toNat_eq
  rw [BitVec.toNat_rotateLeft, Nat.mod_eq_of_lt hn, toNat_aluIn, Nat.shiftRight_eq_div_pow, Nat.shiftLeft_eq, BitVec.toNat_ofNat, rolF,
    hhigh, Nat.shiftLeft_add_eq_or_of_lt hlow, Nat.mod_eq_of_lt]
  rw [← hhigh]
  exact Nat.or_lt_two_pow (Nat.mod_lt _ (Nat.two_pow_pos _)) (Nat.lt_of_le_of_lt (Nat.div_le_self _ _) (truncW_lt_two_pow w x))

theorem ofNat_minsF : BitVec.ofNat (widthBits w) (minsF w x y) = if (aluIn w y).slt (aluIn w x) then aluIn w y else aluIn w x := by
  simp only [minsF, signedW_lt, apply_ite (BitVec.ofNat _), ofNat_truncW]

theorem ofNat_maxsF : BitVec.ofNat (widthBits w) (maxsF w x y) = if (aluIn w x).slt (aluIn w y) then aluIn w y else aluIn w x := by
  simp only [maxsF, signedW_lt, apply_ite (BitVec.ofNat _), ofNat_truncW]

theorem ofNat_minzF : BitVec.ofNat (widthBits w) (minzF w x y) = if aluIn w y < aluIn w x then aluIn w y else aluIn w x := by
  simp only [minzF, Nat.min_def, ← Nat.not_lt, ite_not, truncW_lt, apply_ite (BitVec.ofNat _), ofNat_truncW]

theorem ofNat_maxzF : BitVec.ofNat (widthBits w) (maxzF w x y) = if aluIn w x < aluIn w y then aluIn w y else aluIn w x := by
  simp only [maxzF, Nat.max_comm (truncW w x), Nat.max_def, ← Nat.not_lt, ite_not, truncW_lt, apply_ite (BitVec.ofNat _), ofNat_truncW]

theorem ofNat_seqF : BitVec.ofNat (widthBits w) (seqF w x y) = if aluIn w x = aluIn w y then 1 else 0 := by
  simp only [seqF, truncW_inj, apply_ite (BitVec.ofNat _)]
  rfl

theorem ofNat_sneF : BitVec.ofNat (widthBits w) (sneF w x y) = if aluIn w x = aluIn w y then 0 else 1 := by
  simp only [sneF, truncW_inj, apply_ite (BitVec.ofNat _)]
  rfl

theorem ofNat_sltsF : BitVec.ofNat (widthBits w) (sltsF w x y) = if (aluIn w x).slt (aluIn w y) then 1 else 0 := by
  simp only [sltsF, signedW_lt, apply_ite (BitVec.ofNat _)]
  rfl

theorem ofNat_sltzF : BitVec.ofNat (widthBits w) (sltzF w x y) = if aluIn w x < aluIn w y then 1 else 0 := by
  simp only [sltzF, truncW_lt, apply_ite (BitVec.ofNat _)]
  rfl

theorem clzF_le : clzF w x ≤ widthBits w := by unfold clzF; split <;> omega

/-- The bits above the N - CLZ low ones are 0, and the next is 1. -/
theorem clzF_spec : (∀ i, widthBits w - clzF w x ≤ i → (aluIn w x).getLsbD i = false) ∧
    (clzF w x < widthBits w → (aluIn w x).getLsbD (widthBits w - 1 - clzF w x) = true) := by
  simp only [BitVec.getLsbD, toNat_aluIn]
  unfold clzF
  split
  next h => simp [h]
  next h =>
    have hlog : (truncW w x).log2 < widthBits w := (Nat.log2_lt h).mpr (truncW_lt_two_pow w x)
    constructor
    · intro i hi
      exact Nat.testBit_lt_two_pow (Nat.lt_of_lt_of_le Nat.lt_log2_self (Nat.pow_le_pow_right (by decide) (by omega)))
    · intro _
      rw [show widthBits w - 1 - (widthBits w - 1 - (truncW w x).log2) = (truncW w x).log2 by omega]
      exact Nat.testBit_log2 h

end

section
variable (w : Width) (x : DWord)

theorem popcF_eq_countP : popcF w x = (List.range (widthBits w)).countP (fun i => (aluIn w x).getLsbD i) := by
  simp only [popcF, popcount_eq_countP, BitVec.getLsbD, toNat_aluIn]

theorem ofNat_sextF (e : ExtFrom) : BitVec.ofNat (widthBits w) (sextF e w x) = (x.setWidth (extBits e)).signExtend _ := by
  rw [sextF, ofNat_wrap, toSigned_eq_toInt, BitVec.ofNat_toNat, BitVec.signExtend]

theorem ofNat_zextF (e : ExtFrom) : BitVec.ofNat (widthBits w) (zextF e x) = (x.setWidth (extBits e)).setWidth _ := by
  rw [zextF, ← BitVec.toNat_setWidth, BitVec.ofNat_toNat]

/-- Byte i of the swapped bytes is byte j, which stands at the same distance from the other end. -/
theorem bswpF_byte {i j : Nat} (h : i + j + 1 = widthBits w / 8) :
    (BitVec.ofNat (widthBits w) (bswpF w x)).extractLsb' (8 * i) 8 = (aluIn w x).extractLsb' (8 * j) 8 := by
  have hrev : (toBytes (widthBits w / 8) (truncW w x)).reverse[i]? = some (BitVec.ofNat 8 (truncW w x / 2 ^ (8 * j))) := by
    rw [List.getElem?_reverse (by rw [length_toBytes]; omega), length_toBytes, show widthBits w / 8 - 1 - i = j by omega,
      getElem?_toBytes _ _ (by omega)]
  have hlt : bswpF w x < 2 ^ widthBits w := by
    have hlen : 8 * (toBytes (widthBits w / 8) (truncW w x)).reverse.length = widthBits w := by
      rw [List.length_reverse, length_toBytes]; cases w <;> rfl
    exact hlen ▸ ofBytes_lt _
  apply extractLsb'_eq_of_toNat
  rw [BitVec.toNat_ofNat, Nat.mod_eq_of_lt hlt, bswpF, ofBytes_div, hrev, BitVec.extractLsb'_toNat, toNat_aluIn,
    Nat.shiftRight_eq_div_pow]
  rfl

end

/-! ## ALU words -/

/-- A scalar result of N bits written and the word completed (R97). -/
theorem writeScalar_eq_aluOut {d : Reg} {w : Width} {v n : Nat} {s : State} {r : BitVec (widthBits w)}
    (h : BitVec.ofNat (widthBits w) v = r) : writeScalar d w v n s = aluOut d r n s := by
  rw [writeScalar, writeW, sext64_eq_signExtend, h]
  rfl

/-- A binary ALU word that may run answers its function's result. -/
theorem alu_answers {i : Instr} {f : Width → DWord → DWord → Nat} {d a b : Reg} {w : Width} {n : Nat} {s : State}
    {r : BitVec (widthBits w)} (h : mayRun i s) (hf : BitVec.ofNat (widthBits w) (f w (s.thr.sreg a) (s.thr.sreg b)) = r) :
    alu i f d a b w n s = aluOut d r n s := (issue_ok h).trans (writeScalar_eq_aluOut hf)

/-- A unary ALU word that may run answers its function's result. -/
theorem aluUnary_answers {i : Instr} {f : DWord → Nat} {d a : Reg} {w : Width} {s : State} {r : BitVec (widthBits w)}
    (h : mayRun i s) (hf : BitVec.ofNat (widthBits w) (f (s.thr.sreg a)) = r) : aluUnary i f d a w s = aluOut d r 8 s :=
  (issue_ok h).trans (writeScalar_eq_aluOut hf)

/-- Settles O1: each word of the ALU answers its function of R98, which `ofNat_addF` and the lemmas after it give. -/
theorem aluFunctions : Obligations.AluFunctions := by
  intro w s d a b x y
  have shifts : shiftN w (s.thr.sreg b) = y.toNat % widthBits w := shiftN_eq w _
  refine ⟨fun h => alu_answers h (ofNat_addF w _ _), fun h => alu_answers h (ofNat_subF w _ _), fun h => alu_answers h (ofNat_mulF w _ _),
    fun h => alu_answers h (ofNat_mulhsF w _ _), fun h => alu_answers h (ofNat_mulhzF w _ _), fun h => alu_answers h (ofNat_divsF w _ _),
    fun h => alu_answers h (ofNat_divzF w _ _), fun h => alu_answers h (ofNat_remsF w _ _), fun h => alu_answers h (ofNat_remzF w _ _),
    fun h => alu_answers h (ofNat_andF w _ _), fun h => alu_answers h (ofNat_orF w _ _), fun h => alu_answers h (ofNat_xorF w _ _),
    fun h => alu_answers h (ofNat_andnF w _ _), fun h => alu_answers h (shifts ▸ ofNat_shlF w _ _),
    fun h => alu_answers h (shifts ▸ ofNat_shrlF w _ _), fun h => alu_answers h (shifts ▸ ofNat_shraF w _ _),
    fun h => alu_answers h (shifts ▸ ofNat_rolF w _ _), fun h => alu_answers h (ofNat_minsF w _ _),
    fun h => alu_answers h (ofNat_maxsF w _ _), fun h => alu_answers h (ofNat_minzF w _ _), fun h => alu_answers h (ofNat_maxzF w _ _),
    fun h => alu_answers h (ofNat_seqF w _ _), fun h => alu_answers h (ofNat_sneF w _ _), fun h => alu_answers h (ofNat_sltsF w _ _),
    fun h => alu_answers h (ofNat_sltzF w _ _),
    fun h => ⟨clzF w (s.thr.sreg a), aluUnary_answers h rfl, clzF_le w _, clzF_spec w _⟩,
    fun h => ⟨ctzF w (s.thr.sreg a), aluUnary_answers h rfl, lowestBit_le _ _, ?below, ?lowest⟩,
    fun h => aluUnary_answers h (congrArg _ (popcF_eq_countP w _)), fun e h => aluUnary_answers h (ofNat_sextF w _ e),
    fun e h => aluUnary_answers h (ofNat_zextF w _ e), fun h => ⟨_, aluUnary_answers h rfl, fun i j hij => bswpF_byte w _ hij⟩⟩
  case below =>
    intro i hi
    rw [BitVec.getLsbD, toNat_aluIn]
    exact testBit_below_lowestBit _ _ hi
  case lowest =>
    intro hlt
    rw [BitVec.getLsbD, toNat_aluIn]
    exact testBit_lowestBit _ _ hlt

end Sys2Proof.Machine
end

section
/-!
PROOFS. The window forms of the ALU (spec/05_scalar_control.md R101): what the ALU and the ALUK word of one code share.
-/
namespace Sys2Proof.Machine

/-! ## Words and their hints -/

/-- A word that holds the number of a legal instruction decodes to it. -/
theorem decode_ofNat {i : Instr} {n : Nat} (hw : i.hasWord = true) (hwf : i.wf = true) (h : encodeNat i = n) :
    decode (BitVec.ofNat 32 n) = .ok i := h ▸ decode_encode i hw hwf

/-- A word with one field. -/
theorem fields_one (b x i : Nat) : fields b [(x, i)] = b + x * 2 ^ i := by
  rw [Laws.Roundtrip.fields_cons, Laws.Roundtrip.fields_nil]

/-- W in a word (R54). -/
theorem Width.toBits_eq_ite (w : Width) : w.toBits = if w = .w64 then 1 else 0 := by cases w <;> rfl

/-- A pending HIMM is illegal before a word that uses no hint of its own (R21, R66). -/
theorem hintFault_of_himm {i : Instr} {st : Status} (hi : ownHints i = 0) (hp : st.pending 1 = true) :
    hintFault i st = true := by
  have hbit : (st.hpend &&& ~~~usableHints i).getLsbD 0 = true := by
    rw [BitVec.getLsbD_and, usableHints, hi]
    exact (Bool.and_true _).trans hp
  have hne : st.hpend &&& ~~~usableHints i ≠ 0 := fun h => by
    rw [h, BitVec.ofNat_eq_ofNat, BitVec.getLsbD_zero] at hbit
    exact Bool.false_ne_true hbit
  rw [hintFault, bne_iff_ne.mpr hne, Bool.or_true]

/-- An ILLEGAL word where the supervisor has a handler. -/
theorem illegal_handler {i : Instr} {s : State} (hh : s.hasHandler) :
    illegal i s = .next (s.trapped .illegal 0 ((encode i).setWidth 64)) := fault_handler hh

/-- A word that uses no hint of its own is ILLEGAL after HIMM (R66). -/
theorem issue_himm {i : Instr} {s : State} {body : State → Out} (hi : ownHints i = 0) (hh : s.hasHandler)
    (hp : s.thr.status.pending 1 = true) : issue i s body = .next (s.trapped .illegal 0 ((encode i).setWidth 64)) :=
  (issueWith_illegal (.inl (hintFault_of_himm hi hp))).trans (illegal_handler hh)

/-! ## The 25 pairs -/

/-- An ALU word and an ALUK word, each by its operands. -/
abbrev FormPair := (Reg → Reg → Reg → Width → Instr) × (Reg → Reg → Fin 256 → Width → Instr)

/-- What the ALU word and the ALUK word of a code share: their encodings but for the second operand, and the function computed. -/
structure SharesFunction (c : Nat) (p : FormPair) : Prop where
  encode_alu : ∀ d a b w, encodeNat (p.1 d a b w) =
    fields (0x01 * 2 ^ 26 + c * 2 ^ 5) [(d.val, 21), (a.val, 16), (b.val, 11), (w.toBits, 0)]
  encode_aluk : ∀ d a k w, encodeNat (p.2 d a k w) =
    fields (0x02 * 2 ^ 26 + c) [(d.val, 21), (a.val, 16), (k.val, 8), (w.toBits, 6)]
  legal_alu : ∀ d a b w, (p.1 d a b w).hasWord = true ∧ (p.1 d a b w).wf = true
  legal_aluk : ∀ d a k w, (p.2 d a k w).hasWord = true ∧ (p.2 d a k w).wf = true
  ownHints_aluk : ∀ d a k w, ownHints (p.2 d a k w) = 0
  exec_eq : ∃ (f : Width → DWord → DWord → Nat) (n : Width → Nat), ∀ w d a,
    (∀ b s, exec (p.1 d a b w) s = alu (p.1 d a b w) f d a b w (n w) s) ∧
    (∀ k s, exec (p.2 d a k w) s = aluk (p.2 d a k w) f d a k w (n w) s)

/-- The pair at place c of the table has code c in both groups. -/
theorem windowForms_shares {c : Nat} {p : FormPair} (h : windowForms[c]? = some p) : SharesFunction c p := by
  obtain ⟨hc, rfl⟩ := List.getElem?_eq_some_iff.mp h
  change c < 25 at hc
  match c, hc with
  | 0, _ | 1, _ | 2, _ | 3, _ | 4, _ | 5, _ | 6, _ | 7, _ | 8, _ | 9, _ | 10, _ | 11, _ | 12, _ | 13, _ | 14, _ | 15, _ | 16, _
  | 17, _ | 18, _ | 19, _ | 20, _ | 21, _ | 22, _ | 23, _ | 24, _ =>
    exact ⟨fun _ _ _ _ => rfl, fun _ _ _ _ => rfl, fun _ _ _ _ => ⟨rfl, rfl⟩, fun _ _ _ _ => ⟨rfl, rfl⟩, fun _ _ _ _ => rfl,
      _, _, fun _ _ _ => ⟨fun _ _ => rfl, fun _ _ => rfl⟩⟩
  | c + 25, hc => exact absurd hc (Nat.not_lt.mpr (Nat.le_add_left 25 c))

/-- Every pair of the table stands at a place. -/
theorem windowForms_mem {p : FormPair} (h : p ∈ windowForms) : ∃ c, SharesFunction c p :=
  (List.mem_iff_getElem?.mp h).imp fun _ => windowForms_shares

/-- Codes from 25 on, and a nonzero bit 7, are unassigned in major 2 (R101). -/
theorem decodeAluK_ne_ok {n : Nat} (h : 25 ≤ bits n 5 0 ∨ bits n 7 7 ≠ 0) (i : Instr) : decodeAluK n ≠ .ok i := by
  unfold decodeAluK
  split
  iterate 25 next hc =>
    rw [if_neg (h.resolve_left (by omega))]
    exact nofun
  exact nofun

/-- A window word without an integrity failure is read. -/
theorem withWindow_ok {k : Nat} {s : State} {body : State → Out} (hbad : s.badAt (windowHome s.thr.id k) 8 = false) :
    withWindow k 1 s body = body s := if_neg (by rw [Nat.mul_one, hbad]; exact Bool.false_ne_true)

/-- An ALUK word that may run and reads its window word answers as the ALU word of its function would with it. -/
theorem aluk_answers {i : Instr} {f : Width → DWord → DWord → Nat} {d a : Reg} {k : Fin 256} {w : Width} {n : Nat} {s : State}
    (h : mayRun i s) (hbad : s.badAt (windowHome s.thr.id k.val) 8 = false) :
    aluk i f d a k w n s = .next (((s.windowWait k.val).2.setS d (writeW w (f w (s.thr.sreg a) (s.win k.val)))).passed
      (n + (s.windowWait k.val).1)) := by
  rw [aluk, issue_ok h, withWindow_ok hbad]
  rfl

/-- Settles O2: the pairs of the table share their code and their function (`windowForms_shares`). -/
theorem aluWindowForms : Obligations.AluWindowForms := by
  refine ⟨fun c p w d a b k hp => ?encoded, fun w i hmajor hbad => ?unassigned, fun p hp w s d a k hh hpend => ?himm,
    fun p hp w s u d a b k hs hbad hu ha hb => ?agree⟩
  case encoded =>
    have hc := windowForms_shares hp
    constructor
    · refine decode_ofNat (hc.legal_alu d a b w).1 (hc.legal_alu d a b w).2 ((hc.encode_alu d a b w).trans ?_)
      simp only [Laws.Roundtrip.fields_cons, Laws.Roundtrip.fields_nil, Width.toBits_eq_ite]
      omega
    · refine decode_ofNat (hc.legal_aluk d a k w).1 (hc.legal_aluk d a k w).2 ((hc.encode_aluk d a k w).trans ?_)
      simp only [Laws.Roundtrip.fields_cons, Laws.Roundtrip.fields_nil, Width.toBits_eq_ite]
      split <;> omega
  case unassigned =>
    have hgroup : bits w.toNat 31 26 = 2 := congrArg (· % 2 ^ 6) hmajor
    have hfields : 25 ≤ bits w.toNat 5 0 ∨ bits w.toNat 7 7 ≠ 0 := by
      refine hbad.imp (fun h => by rwa [bits, Nat.pow_zero, Nat.div_one]) (fun h => ?_)
      rw [BitVec.getLsbD, Nat.testBit_eq_decide_div_mod_eq, decide_eq_true_eq] at h
      rw [bits]
      omega
    intro hdec
    have hmaj := (decode_eq_ok.mp hdec).1
    rw [Laws.Roundtrip.major_2 hgroup] at hmaj
    exact decodeAluK_ne_ok hfields i hmaj
  case himm =>
    obtain ⟨c, hc⟩ := windowForms_mem hp
    obtain ⟨f, n, hexec⟩ := hc.exec_eq
    exact ((hexec w d a).2 k s).trans (issue_himm (hc.ownHints_aluk d a k w) hh hpend)
  case agree =>
    obtain ⟨c, hc⟩ := windowForms_mem hp
    obtain ⟨f, n, hexec⟩ := hc.exec_eq
    obtain ⟨halu, haluk⟩ := hexec w d a
    refine ⟨writeW w (f w (s.thr.sreg a) (s.win k.val)), n w, _, ?_, (haluk k s).trans (aluk_answers hs hbad)⟩
    rw [halu b u, alu, issue_ok hu, ha, hb]
    rfl

end Sys2Proof.Machine
end

section
/-!
PROOFS. Immediates and targets (spec/02_idioms.md R46; spec/03_encoding.md R51; spec/05_scalar_control.md R103 to R107) as bit vectors,
and the words that use them.
-/
namespace Sys2Proof.Machine

/-! ## Immediate forms and SHI (R103, R104) -/

/-- A payload above n bits of a word. -/
theorem ofNat_payload {m n : Nat} (x : BitVec m) {k : Nat} (hk : k < 2 ^ n) :
    BitVec.ofNat (m + n) (x.toNat * 2 ^ n + k) = x ++ BitVec.ofNat n k := by
  apply BitVec.eq_of_toNat_eq
  have hlt : x.toNat * 2 ^ n + k < 2 ^ (m + n) := by
    calc x.toNat * 2 ^ n + k < (x.toNat + 1) * 2 ^ n := by rw [Nat.succ_mul]; omega
      _ ≤ 2 ^ m * 2 ^ n := Nat.mul_le_mul_right _ x.isLt
      _ = 2 ^ (m + n) := (Nat.pow_add 2 m n).symm
  rw [BitVec.toNat_append, BitVec.toNat_ofNat, BitVec.toNat_ofNat, Nat.mod_eq_of_lt hlt, Nat.mod_eq_of_lt hk,
    ← Nat.shiftLeft_add_eq_or_of_lt hk, Nat.shiftLeft_eq]

/-- The immediate of the model is that of R46. -/
theorem immediate_eq_immOperand (t : Thread) (i : Fin 65536) : immediate t i = immOperand t i := by
  unfold immediate immOperand
  split
  · rw [sext64_eq_signExtend]
    exact congrArg (BitVec.signExtend 64) (ofNat_payload t.pay.himm i.isLt)
  · rw [sext64_eq_signExtend]

/-- An immediate form that may run. -/
theorem aluImm_answers {i : Instr} (f : DWord → DWord → DWord) {d a : Reg} {imm : Fin 65536} {s : State} (h : mayRun i s) :
    aluImm i f d a imm s = .next ((s.setS d (f (s.thr.sreg a) (immOperand s.thr imm))).passed 8) := by
  rw [aluImm, issue_ok h, immediate_eq_immOperand]
  rfl

theorem boolWord_slt (x y : DWord) : boolWord (decide (x.toInt < y.toInt)) = if x.slt y then 1 else 0 := by
  simp only [boolWord, decide_eq_true_eq, BitVec.slt_iff_toInt_lt]

theorem boolWord_lt (x y : DWord) : boolWord (decide (x.toNat < y.toNat)) = if x < y then 1 else 0 := by
  simp only [boolWord, decide_eq_true_eq, BitVec.lt_def]

/-- An amount below N is the shift amount that SHI hands to the function of the ALU. -/
theorem shiftN_amount {w : Width} {n : Fin 64} (h : n.val < widthBits w) : shiftN w (BitVec.ofNat 64 n.val) = n.val := by
  rw [shiftN, BitVec.toNat_ofNat, Nat.mod_eq_of_lt (Nat.lt_trans n.isLt (by decide)), Nat.mod_eq_of_lt h]

/-- SHI that may run answers its function's result. -/
theorem shi_answers {d a : Reg} {t : ShiftKind} {w : Width} {n : Fin 64} {s : State} {r : BitVec (widthBits w)}
    (h : mayRun (.shi d a t w n) s) (hf : BitVec.ofNat (widthBits w) (shiftF t w (s.thr.sreg a) (BitVec.ofNat 64 n.val)) = r) :
    exec (.shi d a t w n) s = aluOut d r 8 s := (issue_ok h).trans (writeScalar_eq_aluOut hf)

/-- Settles O3: the immediate is that of R46, and an amount below N is used as it is. -/
theorem immediateAndShiftForms : Obligations.ImmediateAndShiftForms := by
  intro s d a i w n x y
  refine ⟨fun h => aluImm_answers (· + ·) h, fun h => aluImm_answers (· &&& ·) h, fun h => aluImm_answers (· ||| ·) h,
    fun h => aluImm_answers (· ^^^ ·) h, fun h => ?slti, fun h => ?sltiu, fun hn => ?shifts⟩
  case slti => rw [← boolWord_slt x y]; exact aluImm_answers (fun x y => boolWord (decide (x.toInt < y.toInt))) h
  case sltiu => rw [← boolWord_lt x y]; exact aluImm_answers (fun x y => boolWord (decide (x.toNat < y.toNat))) h
  case shifts =>
    have hamount := shiftN_amount hn
    refine ⟨fun h => shi_answers h ?_, fun h => shi_answers h ?_, fun h => shi_answers h ?_⟩
    · exact (ofNat_shlF w x _).trans (by rw [hamount])
    · exact (ofNat_shrlF w x _).trans (by rw [hamount])
    · exact (ofNat_shraF w x _).trans (by rw [hamount])

/-! ## Conditional branches (R105) -/

/-- A target so many words on, for a number of words given as a bit vector. -/
theorem targetAt_toInt {n : Nat} (t : Thread) (x : BitVec n) : targetAt t x.toInt = t.pc + 4 * x.signExtend 55 := by
  rw [targetAt, BitVec.ofInt_mul, BitVec.signExtend]
  rfl

/-- The target of the model is that of R46 and R51. -/
theorem targetAt_branchWords (t : Thread) (o : Fin 8192) : targetAt t (branchWords t o) = branchTarget t o := by
  unfold branchWords branchTarget
  split
  · rw [toSigned_eq_toInt, targetAt_toInt]
    exact congrArg (fun x => t.pc + 4 * BitVec.signExtend 55 x) (ofNat_payload t.pay.himm o.isLt)
  · rw [toSigned_eq_toInt, targetAt_toInt]

/-- A branch that may run is taken to its target where its comparison holds, and falls through where it does not. -/
theorem branch_answers {i : Instr} (taken : DWord → DWord → Bool) {a b : Reg} {o : Fin 8192} {s : State} (h : mayRun i s) :
    branch i taken a b o s =
      if taken (s.thr.sreg a) (s.thr.sreg b) then takenTo (branchTarget s.thr o) s else .next (s.passed 8) := by
  rw [branch, issue_ok h, targetAt_branchWords]
  rfl

/-- Settles O4: each condition of R105 is the comparison that the statement makes. -/
theorem conditionalBranches : Obligations.ConditionalBranches := by
  intro s a b o x y t
  refine ⟨fun h => (branch_answers (fun x y => x = y) h).trans ?eq, fun h => (branch_answers (fun x y => x ≠ y) h).trans ?ne,
    fun h => (branch_answers (fun x y => x.toInt < y.toInt) h).trans ?lts,
    fun h => (branch_answers (fun x y => y.toInt ≤ x.toInt) h).trans ?ges,
    fun h => (branch_answers (fun x y => x.toNat < y.toNat) h).trans ?ltz,
    fun h => (branch_answers (fun x y => y.toNat ≤ x.toNat) h).trans ?gez⟩
  case eq => simp only [decide_eq_true_eq, x, y, t]
  case ne => simp only [decide_eq_true_eq, ne_eq, ite_not, x, y, t]
  case lts => simp only [decide_eq_true_eq, BitVec.slt_iff_toInt_lt, x, y, t]
  case ges => simp only [decide_eq_true_eq, BitVec.slt_iff_toInt_lt, ← Int.not_lt, ite_not, x, y, t]
  case ltz => simp only [decide_eq_true_eq, BitVec.lt_def, x, y, t]
  case gez => simp only [decide_eq_true_eq, BitVec.lt_def, ← Nat.not_lt, ite_not, x, y, t]

/-! ## Jumps, calls and returns (R106, R107) -/

theorem targetAt_jumpWords (t : Thread) (o : Fin 67108864) : targetAt t (jumpWords o) = jumpTarget t o := by
  rw [jumpWords, toSigned_eq_toInt, targetAt_toInt, jumpTarget]

/-- The target of an F-J word is counted modulo 2^55 (R106). -/
theorem jumpTarget_toNat (t : Thread) (o : Fin 67108864) : ((jumpTarget t o).toNat : Int) =
    ((t.pc.toNat : Int) + 4 * (if o.val < 2 ^ 25 then (o.val : Int) else o.val - 2 ^ 26)) % 2 ^ 55 := by
  have hwords : jumpWords o = if o.val < 2 ^ 25 then (o.val : Int) else o.val - 2 ^ 26 := by
    unfold jumpWords toSigned
    split <;> split <;> omega
  rw [← targetAt_jumpWords, targetAt, BitVec.toNat_add, BitVec.toNat_ofInt, hwords]
  omega

theorem targetOk_iff {v : DWord} : targetOk v = true ↔ v.extractLsb' 0 2 = 0 ∧ v.extractLsb' 55 9 = 0 := by
  rw [targetOk, Bool.and_eq_true, decide_eq_true_eq, decide_eq_true_eq]

/-- A register target that is not legal faults where the supervisor has a handler (R107). -/
theorem badTarget_faults {v : DWord} {s : State} {o : Out} (hh : s.hasHandler) (hv : ¬ targetOk v = true) :
    (if targetOk v = true then o else fault .align badTarget (some v) s) = .next (s.trapped .align badTarget v) :=
  (if_neg hv).trans (fault_handler hh)

/-- Settles O5: the targets are those of R106 and R107, which the word reads before its link is written. -/
theorem jumpsCallsAndReturns : Obligations.JumpsCallsAndReturns := by
  constructor
  · intro s a o link x legal
    have ok (v : DWord) (hv : legal v) : targetOk v = true := targetOk_iff.mpr hv
    have bad (v : DWord) (hv : ¬ legal v) : ¬ targetOk v = true := mt targetOk_iff.mp hv
    refine ⟨fun h => ?jmp, fun h => ?call, jumpTarget_toNat s.thr o, fun hh hp => ⟨?jmpHimm, ?callHimm⟩, fun h hx => ?jr,
      fun h hx => ?callr, fun h hx => ?ret, fun hh hx => ⟨fun h => ?jrBad, fun h => ?callrBad⟩, fun hh h hx => ?retBad⟩
    case jmp => rw [← targetAt_jumpWords]; exact issue_ok h
    case call => rw [← targetAt_jumpWords]; exact issue_ok h
    case jmpHimm => exact issue_himm rfl hh hp
    case callHimm => exact issue_himm rfl hh hp
    case jr => exact (issue_ok h).trans (if_pos (ok x hx))
    case callr => exact (issue_ok h).trans (if_pos (ok x hx))
    case ret => exact (issue_ok h).trans (if_pos (ok _ hx))
    case jrBad => exact (issue_ok h).trans (badTarget_faults hh (bad x hx))
    case callrBad => exact (issue_ok h).trans (badTarget_faults hh (bad x hx))
    case retBad => exact (issue_ok h).trans (badTarget_faults hh (bad _ hx))
  · intro a o
    exact ⟨decode_ofNat rfl rfl ((fields_one 0x34000000 o.val 0).trans (by omega)),
      decode_ofNat rfl rfl ((fields_one 0x38000000 o.val 0).trans (by omega)),
      decode_ofNat rfl rfl ((fields_one 0x3C000000 a.val 16).trans (by omega)),
      decode_ofNat rfl rfl ((fields_one 0x3C000020 a.val 16).trans (by omega)), decode_ofNat rfl rfl rfl⟩

end Sys2Proof.Machine
end

section
/-!
PROOFS. The loop words (spec/05_scalar_control.md R110, R113, R114) and the save area of the loop stack (spec/01_machine_state.md R19).
-/
namespace Sys2Proof.Machine

/-! ## The save area -/

/-- The number that a saved entry makes, each field in its own bits. -/
theorem LoopEntry.toWord_toNat (e : LoopEntry) :
    e.toWord.toNat = 2 ^ 127 + 2 ^ 112 * e.len.toNat + 2 ^ 64 * e.count.toNat + e.start.toNat := by
  have hlen := e.len.isLt
  have hcount := e.count.isLt
  have hstart := e.start.isLt
  rw [LoopEntry.toWord, BitVec.toNat_ofNat, Nat.mod_eq_of_lt (by omega)]

/-- The fields of a saved entry (R19). -/
theorem LoopEntry.toWord_fields (e : LoopEntry) : e.toWord.getLsbD 127 = true ∧ e.toWord.extractLsb' 112 13 = e.len ∧
    e.toWord.extractLsb' 64 48 = e.count ∧ e.toWord.extractLsb' 0 55 = e.start ∧ e.toWord.extractLsb' 0 2 = e.start.extractLsb' 0 2 ∧
    e.toWord.extractLsb' 125 2 = 0 ∧ e.toWord.extractLsb' 55 9 = 0 := by
  have hword := e.toWord_toNat
  have hlen := e.len.isLt
  have hcount := e.count.isLt
  have hstart := e.start.isLt
  refine ⟨getLsbD_eq_of_toNat (by rw [hword, Bool.toNat_true]; omega), ?_, ?_, ?_, ?_, ?_, ?_⟩ <;>
    apply extractLsb'_eq_of_toNat <;> rw [hword]
  · omega
  · omega
  · omega
  · rw [BitVec.extractLsb'_toNat, Nat.shiftRight_zero]; omega
  · change _ = 0; omega
  · change _ = 0; omega

theorem LoopEntry.ofWord_toWord (e : LoopEntry) : LoopEntry.ofWord e.toWord = e := by
  obtain ⟨-, hlen, hcount, hstart, -⟩ := e.toWord_fields
  rw [LoopEntry.ofWord, hlen, hcount, hstart]

/-- An entry of nonzero length and aligned start is saved well formed (R114). -/
theorem LoopEntry.savedBad_toWord {e : LoopEntry} (hlen : e.len ≠ 0) (halign : e.start.extractLsb' 0 2 = 0) :
    savedBad e.toWord = false := by
  obtain ⟨-, hl, -, -, ha, hres, hhigh⟩ := e.toWord_fields
  rw [savedBad, hl, ha, hres, hhigh, halign, decide_eq_false hlen]
  rfl

/-- Saved entries before inactive ones are loaded in order. -/
theorem loadEntries_saved (l : List LoopEntry) (n : Nat) (h : ∀ e ∈ l, e.len ≠ 0 ∧ e.start.extractLsb' 0 2 = 0) :
    loadEntries (l.map LoopEntry.toWord ++ List.replicate n 0) = some l := by
  induction l with
  | nil =>
    cases n with
    | zero => rfl
    | succ n =>
      have hzero : savedActive 0#128 = false := BitVec.getLsbD_zero
      simp [List.replicate_succ, loadEntries, hzero]
  | cons e l ih =>
    obtain ⟨hlen, halign⟩ := h e List.mem_cons_self
    have hactive : savedActive e.toWord = true := e.toWord_fields.1
    have hgood : ¬ savedBad e.toWord = true := by
      rw [LoopEntry.savedBad_toWord hlen halign]
      exact Bool.false_ne_true
    rw [List.map_cons, List.cons_append, loadEntries, if_pos hactive, if_neg hgood, ih fun x hx => h x (List.mem_cons_of_mem e hx),
      Option.map_some, LoopEntry.ofWord_toWord]

/-- The save area of a stack holds its entries, outermost first, and zeros behind them. -/
theorem saveLoops_toList {l : List LoopEntry} (h : l.length ≤ 4) :
    (saveLoops l).toList = l.reverse.map LoopEntry.toWord ++ List.replicate (4 - l.length) 0 := by
  match l, h with
  | [], _ | [_], _ | [_, _], _ | [_, _, _], _ | [_, _, _, _], _ => simp [saveLoops]
  | _ :: _ :: _ :: _ :: _ :: _, h => exact absurd h (Nat.not_le.mpr (Nat.le_add_left 5 _))

/-- A loop stack survives the save area (R114). -/
theorem loadLoops_saveLoops {l : List LoopEntry} (h : loopsOk l) : loadLoops (saveLoops l) = some l := by
  obtain ⟨hlen, hentries⟩ := h
  rw [loadLoops, saveLoops_toList hlen, loadEntries_saved _ _ fun e he => hentries e (List.mem_reverse.mp he), Option.map_some,
    List.reverse_reverse]

/-! ## Entering a loop (R110) -/

/-- A count of 0 skips the body. -/
theorem pushLoop_zero (len : Fin 8192) (n : Nat) (s : State) : pushLoop 0 len n s = .next (s.arrived (loopEnd s.thr len) n) := rfl

/-- A count from 1 to 2^48 pushes an entry and falls into the body. -/
theorem pushLoop_push {c : Nat} (len : Fin 8192) (n : Nat) (s : State) (h0 : 0 < c) (h : c ≤ 2 ^ 48) :
    pushLoop c len n s = .next (s.jumped s.thr.following
      ({ len := BitVec.ofNat 13 len.val, count := BitVec.ofNat 48 (c - 1), start := s.thr.following } :: s.thr.loops) n) := by
  rw [pushLoop, if_neg (Nat.not_lt.mpr h), if_neg (Nat.ne_of_gt h0)]
  rfl

/-- A count above 2^48 is an OPERAND fault. -/
theorem pushLoop_fault {c : DWord} (len : Fin 8192) (n : Nat) {s : State} (hh : s.hasHandler) (h : 2 ^ 48 < c.toNat) :
    pushLoop c.toNat len n s = .next (s.trapped .operand 0 c) := by
  rw [pushLoop, if_pos h, BitVec.ofNat_toNat, BitVec.setWidth_eq, fault_handler hh]

/-- Waking a bank leaves the slot as it is. -/
theorem State.wakeBank_thr (s : State) (h : Home) : (s.wakeBank h).thr = s.thr := by
  cases h with
  | sram cl off =>
    unfold State.wakeBank
    dsimp only [Home.bankId]
    split <;> rfl
  | _ => rfl

/-- The read of a window word leaves the slot as it is. -/
theorem State.windowWait_thr (s : State) (k : Nat) : (s.windowWait k).2.thr = s.thr := State.wakeBank_thr s.used _

/-- A loop word of a slot with fewer than four loops goes to its count (R110). -/
theorem loopWord_ok {i : Instr} {s : State} {body : State → Out} (hdepth : s.thr.loops.length < 4) (h : mayRun i s) :
    issueWith i loopsFull 0 s body = body s := issueWith_ok h (decide_eq_false (Nat.not_le.mpr hdepth)) (Nat.zero_le _)

/-- A LOOPK that may run and reads its window word enters its loop with the count there. -/
theorem loopk_answers {k : Fin 256} {len : Fin 8192} {s : State} (hdepth : s.thr.loops.length < 4) (h : mayRun (.loopk k len) s)
    (hbad : s.badAt (windowHome s.thr.id k.val) 8 = false) :
    exec (.loopk k len) s = pushLoop (s.win k.val).toNat len (8 + (s.windowWait k.val).1) (s.windowWait k.val).2 :=
  (loopWord_ok hdepth h).trans (withWindow_ok hbad)

/-- Settles O6: the loop words by their counts, and LRST by the save area's being loaded back. -/
theorem loopWords : Obligations.LoopWords := by
  refine ⟨fun s a k len => ?words, fun l hl h => loadLoops_saveLoops ⟨hl, h⟩⟩
  case words =>
    intro start entry pushed ending
    refine ⟨fun hdepth h => ?loop, fun hdepth h hbad => ⟨8 + (s.windowWait k.val).1, ?loopk⟩, fun hh hdepth => ?full,
      fun h => issue_ok h, fun h => issue_ok h, fun l h hl => ?lrst⟩
    case loop =>
      have henter : exec (.loop a len) s = pushLoop (s.thr.sreg a).toNat len 8 s := loopWord_ok hdepth h
      rw [henter]
      exact ⟨fun h0 => by rw [h0]; rfl, fun h0 hc => pushLoop_push len 8 s h0 hc, fun hh hc => pushLoop_fault len 8 hh hc⟩
    case loopk =>
      rw [loopk_answers hdepth h hbad]
      have hthr := s.windowWait_thr k.val
      constructor
      · intro h0
        rw [h0]
        refine (pushLoop_zero len _ _).trans ?_
        rw [loopEnd, hthr]
        rfl
      · intro h0 hc
        rw [pushLoop_push len _ _ h0 hc, hthr]
        rfl
    case full => exact (issueWith_illegal (.inr (.inl (decide_eq_true hdepth)))).trans (illegal_handler hh)
    case lrst =>
      refine (issue_ok h).trans ?_
      rw [hl]
      rfl

end Sys2Proof.Machine
end

section
/-!
PROOFS. The vector words that work lane by lane (spec/07_vector_instr.md R140, R142 to R144): what a vector word that may run answers,
and the floating-point words.
-/
namespace Sys2Proof.Machine

/-- The signed value of a lane or an element. -/
theorem toSigned_toNat {w : Nat} (x : BitVec w) : toSigned w x.toNat = x.toInt := by
  rw [toSigned_eq_toInt, BitVec.ofNat_toNat, BitVec.setWidth_eq]

section
variable {i : Instr} {d a b : Reg} {n : Nat} {s : State} {P : VecWord → Prop} (h : mayRun i s)
include h

/-- A vector word of one, two and three register operands that may run writes what its function gives for the registers as they were. -/
theorem vec1_writes {f : VecWord → VecWord} (hP : P (f (s.thr.vreg a))) : writesV (vec1 i f d a n s) d n s P :=
  ⟨f (s.thr.vreg a), issue_ok h, hP⟩

theorem vec2_writes {f : VecWord → VecWord → VecWord} (hP : P (f (s.thr.vreg a) (s.thr.vreg b))) :
    writesV (vec2 i f d a b n s) d n s P := ⟨f (s.thr.vreg a) (s.thr.vreg b), issue_ok h, hP⟩

theorem vec3_writes {f : VecWord → VecWord → VecWord → VecWord} (hP : P (f (s.thr.vreg a) (s.thr.vreg b) (s.thr.vreg d))) :
    writesV (vec3 i f d a b n s) d n s P := ⟨f (s.thr.vreg a) (s.thr.vreg b) (s.thr.vreg d), issue_ok h, hP⟩

/-- A vector word that writes a scalar register and may run. -/
theorem vecToS_answers {f : VecWord → DWord} {v : DWord} (hv : f (s.thr.vreg a) = v) :
    vecToS i f d a n s = .next ((s.setS d v).passed n) := hv ▸ issue_ok h

/-- A vector word that may run and works lane by lane writes in each lane what its function gives for the lanes of its operands. -/
theorem laneWord1_writes {f g : Nat → Nat} (hfg : ∀ x : BitVec 32, f x.toNat = g x.toNat) :
    writesV (vec1 i (mapLanes f) d a n s) d n s (lanesAre · fun j => g (lane (s.thr.vreg a) j).toNat) :=
  vec1_writes h fun j hj => by rw [lane_mapLanes f _ j hj, hfg]

theorem laneWord2_writes {f g : Nat → Nat → Nat} (hfg : ∀ x y : BitVec 32, f x.toNat y.toNat = g x.toNat y.toNat) :
    writesV (vec2 i (mapLanes2 f) d a b n s) d n s
      (lanesAre · fun j => g (lane (s.thr.vreg a) j).toNat (lane (s.thr.vreg b) j).toNat) :=
  vec2_writes h fun j hj => by rw [lane_mapLanes2 f _ _ j hj, hfg]

theorem laneWord3_writes (f : Nat → Nat → Nat → Nat) :
    writesV (vec3 i (mapLanes3 f) d a b n s) d n s
      (lanesAre · fun j => f (lane (s.thr.vreg a) j).toNat (lane (s.thr.vreg b) j).toNat (lane (s.thr.vreg d) j).toNat) :=
  vec3_writes h (lane_mapLanes3 f _ _ _)

end

/-- VNEG's change of sign is the change of bit 31 (R143). -/
theorem negS_eq (x : BitVec 32) : negS x.toNat = if isNanS x.toNat then 0x7FC00000 else x.toNat ^^^ 2 ^ 31 := by
  have hlow : (x.toNat ^^^ 2 ^ 31) % 2 ^ 31 = x.toNat % 2 ^ 31 := by rw [Nat.xor_mod_two_pow, Nat.mod_self, Nat.xor_zero]
  have hhigh : (x.toNat ^^^ 2 ^ 31) / 2 ^ 31 = x.toNat / 2 ^ 31 ^^^ 1 := by
    rw [Nat.xor_div_two_pow, Nat.div_self (Nat.two_pow_pos 31)]
  have hx := x.isLt
  have hsign : x.toNat / 2 ^ 31 = 0 ∨ x.toNat / 2 ^ 31 = 1 := by omega
  generalize x.toNat ^^^ 2 ^ 31 = y at hlow hhigh ⊢
  rw [negS, bit]
  congr 1
  rcases hsign with h | h <;> rw [h] at hhigh ⊢
  · rw [if_neg (by decide), ← Nat.div_add_mod y (2 ^ 31), hhigh, hlow, Nat.zero_xor]
    omega
  · rw [if_pos (by decide), ← Nat.div_add_mod y (2 ^ 31), hhigh, hlow, Nat.xor_self]
    omega

/-- Settles O8: each word is its lane function on the lanes of its operands; only VNEG's is written otherwise than the statement's. -/
theorem vectorFloatLanes : Obligations.VectorFloatLanes := by
  intro s d a b r x y z
  refine ⟨fun h => laneWord2_writes h fun _ _ => rfl, fun h => laneWord2_writes h fun _ _ => rfl,
    fun h => laneWord2_writes h fun _ _ => rfl, fun h => laneWord3_writes h _, fun h => laneWord3_writes h _,
    fun h => laneWord2_writes h fun _ _ => rfl, fun h => laneWord2_writes h fun _ _ => rfl,
    fun h => laneWord1_writes h fun _ => rfl, fun h => ?vneg, fun h => laneWord2_writes h fun _ _ => rfl,
    fun h => laneWord1_writes h fun _ => rfl, fun h => laneWord1_writes h fun _ => rfl, fun h => laneWord1_writes h fun _ => rfl,
    fun h => laneWord1_writes h fun _ => rfl, fun h => laneWord1_writes h fun _ => rfl⟩
  case vneg => exact laneWord1_writes (g := fun x => if isNanS x then 0x7FC00000 else x ^^^ 2 ^ 31) h negS_eq

end Sys2Proof.Machine
end

section
/-!
PROOFS. The codes that rounding gives (spec/04_numbers.md R71; spec/07_vector_instr.md R141, R143, R144): a number or an infinity is
rounded to no NaN, so that a NaN comes from the canonical code only.
-/
namespace Sys2Proof.Machine

/-! ## The code of a rounded number -/

/-- A sign before a code below it. -/
def IeeeFmt.signed (f : IeeeFmt) (neg : Bool) (c : Nat) : Nat := (if neg then f.signBit else 0) + c

/-- A number is rounded to a sign and a code that is infinity's at most. -/
theorem IeeeFmt.roundRat_signed (f : IeeeFmt) (mode : Round) (neg : Bool) (num den : Nat) (e : Int) :
    ∃ c, c ≤ f.infCode ∧ f.roundRat mode neg num den e = f.signed neg c := by
  refine ⟨_, ?_, rfl⟩
  split
  next h => split <;> omega
  next h => omega

/-- Such a code has the bits of its format. -/
theorem IeeeFmt.signed_lt {f : IeeeFmt} (neg : Bool) {c : Nat} (hc : c ≤ f.infCode) :
    f.signed neg c < 2 ^ (1 + f.expBits + f.frac) := by
  have hinf : f.infCode < f.signBit := by
    rw [IeeeFmt.infCode, IeeeFmt.signBit, Nat.pow_add]
    exact Nat.mul_lt_mul_of_pos_right (Nat.sub_lt (Nat.two_pow_pos _) Nat.one_pos) (Nat.two_pow_pos _)
  have hwidth : 2 ^ (1 + f.expBits + f.frac) = 2 * f.signBit := by rw [IeeeFmt.signBit, Nat.add_assoc, Nat.pow_add, Nat.pow_one]
  rw [IeeeFmt.signed]
  split <;> omega

theorem IeeeFmt.roundRat_lt (f : IeeeFmt) (mode : Round) (neg : Bool) (num den : Nat) (e : Int) :
    f.roundRat mode neg num den e < 2 ^ (1 + f.expBits + f.frac) := by
  obtain ⟨c, hc, hcode⟩ := f.roundRat_signed mode neg num den e
  rw [hcode]
  exact IeeeFmt.signed_lt neg hc

/-! ## NaNs are canonical -/

/-- If the binary32 word is a NaN, it is the canonical one (R71). -/
def NanIsCanonical (v : Nat) : Prop := isNanS v = true → v = 0x7FC00000

theorem nanIsCanonical_nanCode : NanIsCanonical fp32.nanCode := fun _ => rfl

/-- A word that is no NaN is no further NaN. -/
theorem nanIsCanonical_of_number {v : Nat} (h : isNanS v = false) : NanIsCanonical v := fun hv => absurd (hv.symm.trans h) nofun

/-- A signed code that is infinity's at most is no NaN. -/
theorem isNanS_signed (neg : Bool) {c : Nat} (h : c ≤ fp32.infCode) : isNanS (fp32.signed neg c) = false := by
  have hinf : fp32.infCode = 0x7F800000 := rfl
  have hsign : fp32.signBit = 2 ^ 31 := rfl
  rw [isNanS, decide_eq_false_iff_not, IeeeFmt.signed, hsign]
  split <;> omega

theorem nanIsCanonical_signed (neg : Bool) {c : Nat} (h : c ≤ fp32.infCode) : NanIsCanonical (fp32.signed neg c) :=
  nanIsCanonical_of_number (isNanS_signed neg h)

theorem nanIsCanonical_inf (neg : Bool) : NanIsCanonical (fp32.signed neg fp32.infCode) := nanIsCanonical_signed neg (Nat.le_refl _)

theorem nanIsCanonical_zero (neg : Bool) : NanIsCanonical (if neg then fp32.signBit else 0) :=
  nanIsCanonical_signed neg (Nat.zero_le _)

theorem nanIsCanonical_roundRat (mode : Round) (neg : Bool) (num den : Nat) (e : Int) :
    NanIsCanonical (fp32.roundRat mode neg num den e) := by
  obtain ⟨c, hc, hcode⟩ := fp32.roundRat_signed mode neg num den e
  rw [hcode]
  exact nanIsCanonical_signed neg hc

theorem nanIsCanonical_round (mode : Round) (v : Fp) : NanIsCanonical (fp32.round mode v) := by
  cases v with
  | nan => exact nanIsCanonical_nanCode
  | inf neg => exact nanIsCanonical_inf neg
  | fin neg m e => exact nanIsCanonical_roundRat mode neg m 1 e

theorem NanIsCanonical.ite {p : Prop} [Decidable p] {x y : Nat} (hx : NanIsCanonical x) (hy : NanIsCanonical y) :
    NanIsCanonical (if p then x else y) := by
  split
  · exact hx
  · exact hy

theorem nanIsCanonical_divRound (mode : Round) (x y : Fp) : NanIsCanonical (divRound fp32 mode x y) := by
  match x, y with
  | .nan, _ | .inf _, .nan | .fin _ _ _, .nan | .inf _, .inf _ => exact nanIsCanonical_nanCode
  | .inf s, .fin s' _ _ => exact nanIsCanonical_inf (s != s')
  | .fin s _ _, .inf s' => exact nanIsCanonical_zero (s != s')
  | .fin _ _ _, .fin _ _ _ =>
    rw [divRound]
    exact .ite (.ite nanIsCanonical_nanCode (nanIsCanonical_inf _)) (nanIsCanonical_roundRat _ _ _ _ _)

theorem nanIsCanonical_sqrtRound (mode : Round) (x : Fp) : NanIsCanonical (sqrtRound fp32 mode x) := by
  cases x with
  | nan => exact nanIsCanonical_nanCode
  | inf neg => exact .ite nanIsCanonical_nanCode (nanIsCanonical_inf false)
  | fin neg m e =>
    rw [sqrtRound]
    exact .ite (nanIsCanonical_zero neg) (.ite nanIsCanonical_nanCode (nanIsCanonical_roundRat _ _ _ _ _))

theorem nanIsCanonical_rsqrtRound (mode : Round) (x : Fp) : NanIsCanonical (rsqrtRound fp32 mode x) := by
  cases x with
  | nan => exact nanIsCanonical_nanCode
  | inf neg => exact .ite nanIsCanonical_nanCode (nanIsCanonical_zero false)
  | fin neg m e =>
    rw [rsqrtRound]
    exact .ite (nanIsCanonical_inf neg) (.ite nanIsCanonical_nanCode (nanIsCanonical_roundRat _ _ _ _ _))

theorem nanIsCanonical_exp2Round (mode : Round) (x : Fp) : NanIsCanonical (exp2Round fp32 mode x) := by
  cases x with
  | nan => exact nanIsCanonical_nanCode
  | inf neg => exact .ite (nanIsCanonical_zero false) (nanIsCanonical_inf false)
  | fin neg m e =>
    rw [exp2Round]
    exact .ite (nanIsCanonical_roundRat _ _ _ _ _) (.ite (nanIsCanonical_roundRat _ _ _ _ _)
      (.ite (nanIsCanonical_roundRat _ _ _ _ _) (nanIsCanonical_roundRat _ _ _ _ _)))

theorem nanIsCanonical_log2Round (mode : Round) (x : Fp) : NanIsCanonical (log2Round fp32 mode x) := by
  cases x with
  | nan => exact nanIsCanonical_nanCode
  | inf neg => exact .ite nanIsCanonical_nanCode (nanIsCanonical_inf false)
  | fin neg m e =>
    rw [log2Round]
    exact .ite (nanIsCanonical_inf true) (.ite nanIsCanonical_nanCode
      (.ite (nanIsCanonical_roundRat _ _ _ _ _) (nanIsCanonical_roundRat _ _ _ _ _)))

/-- A choice between two words, NaNs left out where the other is a number (R143). -/
theorem nanIsCanonical_choice (p : Prop) [Decidable p] (x y : Nat) :
    NanIsCanonical (if isNanS x && isNanS y then 0x7FC00000 else if isNanS x then y else if isNanS y then x
      else if p then y else x) := by
  cases hx : isNanS x <;> cases hy : isNanS y
  · change NanIsCanonical (if p then y else x)
    split
    · exact nanIsCanonical_of_number hy
    · exact nanIsCanonical_of_number hx
  · exact nanIsCanonical_of_number hx
  · exact nanIsCanonical_of_number hy
  · exact nanIsCanonical_nanCode

/-- VABS keeps the bits below the sign. -/
theorem nanIsCanonical_absS (x : Nat) : NanIsCanonical (absS x) := by
  unfold absS
  split
  next h => exact nanIsCanonical_nanCode
  next h => exact nanIsCanonical_of_number (by rwa [isNanS, Nat.mod_mod, ← isNanS, ← Bool.not_eq_true])

/-- VNEG keeps the bits below the sign. -/
theorem nanIsCanonical_negS (x : Nat) : NanIsCanonical (negS x) := by
  unfold negS
  split
  next h => exact nanIsCanonical_nanCode
  next h =>
    apply nanIsCanonical_of_number
    rw [isNanS, decide_eq_true_eq] at h
    rw [isNanS, decide_eq_false_iff_not]
    unfold bit
    split
    next hbit => rw [beq_iff_eq] at hbit; omega
    next hbit => omega

/-! ## The sum of a number and its negative -/

theorem fieldsValue_neg (neg : Bool) (frac : Nat) (emin : Int) (n : Nat) :
    fieldsValue (!neg) frac emin n = (fieldsValue neg frac emin n).neg := by
  unfold fieldsValue
  split <;> rfl

/-- A finite word's fields, and those of the word with the other sign. -/
theorem decode_finite {x : Nat} (h : x < 0x7F800000) : fp32.decode x = fieldsValue false 23 fp32.emin x ∧
    fp32.decode (x + 2 ^ 31) = (fieldsValue false 23 fp32.emin x).neg := by
  have hsign : fp32.signBit = 2 ^ 31 := rfl
  have hinf : fp32.infCode = 0x7F800000 := rfl
  obtain ⟨hxneg, hxm⟩ : x / 2 ^ 31 % 2 ≠ 1 ∧ x % 2 ^ 31 = x := by omega
  obtain ⟨hyneg, hym⟩ : (x + 2 ^ 31) / 2 ^ 31 % 2 = 1 ∧ (x + 2 ^ 31) % 2 ^ 31 = x := by omega
  obtain ⟨hnan, hninf⟩ : ¬ 0x7F800000 < x ∧ x ≠ 0x7F800000 := by omega
  rw [← fieldsValue_neg]
  constructor
  · simp only [IeeeFmt.decode, hsign, hinf, hxm, hxneg, if_neg hnan, if_neg hninf, decide_false]
    rfl
  · simp only [IeeeFmt.decode, hsign, hinf, hym, hyneg, if_neg hnan, if_neg hninf, decide_true, Bool.not_false]
    rfl

/-- The exact sum of a finite value and its negative is the zero of the mode (R141). -/
theorem Fp.add_neg (r : Round) (neg : Bool) (m : Nat) (e : Int) :
    Fp.add r (.fin neg m e) (Fp.fin neg m e).neg = .fin (r = .rd) 0 0 := by
  have hsum (k : Nat) : signedMag neg k + signedMag (!neg) k = 0 := by
    cases neg with
    | false => exact Int.add_right_neg _
    | true => exact Int.add_left_neg _
  have hsigns : ¬ (m = 0 ∧ m = 0 ∧ neg = !neg) := fun ⟨_, _, hneg⟩ => (Bool.eq_not_self neg).mp hneg
  rw [Fp.neg, Fp.add, hsum, if_pos rfl, if_neg hsigns]

/-- A finite word and the word with the other sign add to the zero of the mode. -/
theorem addS_neg (r : Round) {x : Nat} (h : x < 0x7F800000) : addS r x (x + 2 ^ 31) = if r = .rd then 0x80000000 else 0 := by
  obtain ⟨hx, hy⟩ := decode_finite h
  have hsum : Fp.add r (fp32.decode x) (fp32.decode (x + 2 ^ 31)) = .fin (r = .rd) 0 0 := by
    rw [hx, hy]
    unfold fieldsValue
    split <;> exact Fp.add_neg r _ _ _
  rw [addS, hsum]
  cases r <;> rfl

/-- Settles O9: every result is rounded, chosen among the operands or made from one by its sign, and none of these makes a NaN. -/
theorem floatResultsAreCanonical : Obligations.FloatResultsAreCanonical := by
  refine ⟨fun r x y z _ _ _ v hv => ?canonical, fun r => ?invalid, fun r x hx => addS_neg r hx⟩
  case canonical =>
    change NanIsCanonical v
    simp only [List.mem_cons, List.not_mem_nil, or_false] at hv
    rcases hv with rfl | rfl | rfl | rfl | rfl | rfl | rfl | rfl | rfl | rfl | rfl | rfl | rfl | rfl | rfl
    iterate 5 exact nanIsCanonical_round r _
    · exact nanIsCanonical_divRound r _ _
    · exact nanIsCanonical_sqrtRound r _
    · exact nanIsCanonical_divRound r _ _
    · exact nanIsCanonical_rsqrtRound r _
    · exact nanIsCanonical_exp2Round r _
    · exact nanIsCanonical_log2Round r _
    · exact nanIsCanonical_choice _ x y
    · exact nanIsCanonical_choice _ x y
    · exact nanIsCanonical_absS x
    · exact nanIsCanonical_negS x
  case invalid => cases r <;> exact ⟨rfl, rfl⟩

end Sys2Proof.Machine
end

section
/-!
PROOFS. The vector comparisons and the selection (spec/07_vector_instr.md R145).
-/
namespace Sys2Proof.Machine

/-- The code of a condition is its place in the table of R145. -/
theorem VCmp.toBits_of_table {n : Nat} {c : VCmp}
    (h : [VCmp.feq, .fne, .flt, .fle, .ieq, .ine, .ilts, .iltz][n]? = some c) : c.toBits = n := by
  obtain ⟨hn, rfl⟩ := List.getElem?_eq_some_iff.mp h
  change n < 8 at hn
  match n, hn with
  | 0, _ | 1, _ | 2, _ | 3, _ | 4, _ | 5, _ | 6, _ | 7, _ => rfl
  | n + 8, hn => exact absurd hn (Nat.not_lt.mpr (Nat.le_add_left 8 n))

/-- A word with three fields, and one with four. -/
theorem fields_three (n x i y j z k : Nat) : fields n [(x, i), (y, j), (z, k)] = n + x * 2 ^ i + y * 2 ^ j + z * 2 ^ k := by
  rw [Laws.Roundtrip.fields_cons, Laws.Roundtrip.fields_cons, fields_one]

theorem fields_four (n x i y j z k u l : Nat) :
    fields n [(x, i), (y, j), (z, k), (u, l)] = n + x * 2 ^ i + y * 2 ^ j + z * 2 ^ k + u * 2 ^ l := by
  rw [Laws.Roundtrip.fields_cons, fields_three]

/-- Every word of major 0x1B has m5 zero. -/
theorem decodeVCompare_ne_ok {n : Nat} (h : bits n 4 0 ≠ 0) (i : Instr) : decodeVCompare n ≠ .ok i := by
  unfold decodeVCompare
  split
  iterate 9
    · rw [if_neg h]
      exact nofun
  · exact nofun

/-- The condition of a comparison on two lanes, the integer ones by the order and the equality of bit vectors (R145). -/
def laneHolds (c : VCmp) (x y : BitVec 32) : Bool :=
  match c with
  | .feq => Fp.eq (fp32.decode x.toNat) (fp32.decode y.toNat)
  | .fne => !Fp.eq (fp32.decode x.toNat) (fp32.decode y.toNat)
  | .flt => Fp.lt (fp32.decode x.toNat) (fp32.decode y.toNat)
  | .fle => Fp.lt (fp32.decode x.toNat) (fp32.decode y.toNat) || Fp.eq (fp32.decode x.toNat) (fp32.decode y.toNat)
  | .ieq => x == y
  | .ine => x != y
  | .ilts => x.slt y
  | .iltz => decide (x < y)

theorem cmpS_toNat (c : VCmp) (x y : BitVec 32) : cmpS c x.toNat y.toNat = laneHolds c x y := by
  cases c with
  | feq | fne | flt | fle | iltz => rfl
  | ieq => exact Bool.eq_iff_iff.mpr (by rw [cmpS, laneHolds, decide_eq_true_eq, BitVec.toNat_inj, beq_iff_eq])
  | ine => exact Bool.eq_iff_iff.mpr (by rw [cmpS, laneHolds, decide_eq_true_eq, ne_eq, BitVec.toNat_inj, bne_iff_ne])
  | ilts => rw [cmpS, laneHolds, BitVec.slt, toSigned_toNat, toSigned_toNat]

/-- Settles O10: the words by their fields, the comparisons lane by lane (`cmpS_toNat`), the selection as it stands. -/
theorem vectorCompareAndSelect : Obligations.VectorCompareAndSelect := by
  refine ⟨fun d a b n c => ?encoded, fun w i hmajor hm5 => ?unassigned, fun s d a b c => ⟨fun h => ?compare, fun h => issue_ok h⟩⟩
  case encoded =>
    constructor
    · intro hc
      have hcode := VCmp.toBits_of_table hc
      exact decode_ofNat rfl rfl ((fields_four 0x6C000000 d.val 21 a.val 16 b.val 11 c.toBits 5).trans (by omega))
    · exact decode_ofNat rfl rfl ((fields_three 0x6C000100 d.val 21 a.val 16 b.val 11).trans (by omega))
  case unassigned =>
    have hgroup : bits w.toNat 31 26 = 27 := congrArg (· % 2 ^ 6) hmajor
    have hfield : bits w.toNat 4 0 ≠ 0 := by rwa [bits, Nat.pow_zero, Nat.div_one]
    intro hdec
    have hmaj := (decode_eq_ok.mp hdec).1
    rw [Laws.Roundtrip.major_27 hgroup] at hmaj
    exact decodeVCompare_ne_ok hfield i hmaj
  case compare =>
    exact vec2_writes h fun j hj => by
      rw [lane_mapLanes2 _ _ _ j hj, cmpS_toNat]
      cases c <;> rfl

end Sys2Proof.Machine
end

section
/-!
PROOFS. The integer vector words (spec/07_vector_instr.md R146) as functions of bit vectors of an element's width.
-/
namespace Sys2Proof.Machine

/-- The number of an element is the element's bits. -/
theorem element_toNat (w : Nat) (v : VecWord) (i : Nat) : element v.toNat w i = (elementOf w v i).toNat := by
  rw [element, elementOf, BitVec.extractLsb'_toNat, Nat.shiftRight_eq_div_pow]

/-- A word that may run and works element by element writes in each element what its function gives, read as a bit vector. -/
theorem elementWord_writes {i : Instr} {d a b : Reg} {n w : Nat} {s : State} {f : Nat → Nat → Nat} {g : BitVec w → BitVec w → BitVec w}
    (h : mayRun i s) (hfg : ∀ x y : BitVec w, BitVec.ofNat w (f x.toNat y.toNat) = g x y) :
    writesV (vec2 i (mapElems2 w f) d a b n s) d n s
      (elementsAre w · fun j => g (elementOf w (s.thr.vreg a) j) (elementOf w (s.thr.vreg b) j)) :=
  vec2_writes h fun j hj => by
    rw [elementOf, element_mapElems2 w f _ _ j hj, element_toNat, element_toNat, hfg]

section
variable {w : Nat} (x y : BitVec w)

/-- A sum is clamped or kept modulo 2^w. -/
theorem ofNat_elemSum_add (t : Bool) : BitVec.ofNat w (elemSum w t false x.toNat y.toNat) =
    if t then clamped w (x.toInt + y.toInt) else x + y := by
  rw [elemSum, toSigned_toNat, toSigned_toNat]
  cases t with
  | true => exact ofNat_wrap w _
  | false =>
    refine (ofNat_wrap w _).trans ?_
    change BitVec.ofInt w (x.toInt + y.toInt) = x + y
    rw [BitVec.ofInt_add, BitVec.ofInt_toInt, BitVec.ofInt_toInt]

/-- A difference is clamped or kept modulo 2^w. -/
theorem ofNat_elemSum_sub (t : Bool) : BitVec.ofNat w (elemSum w t true x.toNat y.toNat) =
    if t then clamped w (x.toInt - y.toInt) else x - y := by
  rw [elemSum, toSigned_toNat, toSigned_toNat]
  cases t with
  | true => exact ofNat_wrap w _
  | false =>
    refine (ofNat_wrap w _).trans ?_
    change BitVec.ofInt w (x.toInt - y.toInt) = x - y
    rw [Int.sub_eq_add_neg, BitVec.ofInt_add, BitVec.ofInt_neg, BitVec.ofInt_toInt, BitVec.ofInt_toInt, BitVec.sub_eq_add_neg]

theorem ofNat_mul_mod : BitVec.ofNat w (x.toNat * y.toNat % 2 ^ w) = x * y := by
  rw [← BitVec.toNat_mul, BitVec.ofNat_toNat, BitVec.setWidth_eq]

/-- The shifts by the amount that y holds. -/
theorem ofNat_shiftLeft_mod : BitVec.ofNat w (x.toNat * 2 ^ (y.toNat % w) % 2 ^ w) = x <<< (y.toNat % w) := by
  rw [← Nat.shiftLeft_eq, ← BitVec.toNat_shiftLeft, BitVec.ofNat_toNat, BitVec.setWidth_eq]

theorem ofNat_shiftRight_mod (t : Bool) : BitVec.ofNat w
    (if t then wrap w (toSigned w x.toNat / 2 ^ (y.toNat % w)) else x.toNat / 2 ^ (y.toNat % w)) =
      if t then x.sshiftRight (y.toNat % w) else x >>> (y.toNat % w) := by
  cases t with
  | true =>
    refine (ofNat_wrap w _).trans ?_
    rw [toSigned_toNat, if_pos rfl, BitVec.sshiftRight_eq, Int.shiftRight_eq_div_pow]
    push_cast
    rfl
  | false =>
    change BitVec.ofNat w (x.toNat / 2 ^ (y.toNat % w)) = x >>> (y.toNat % w)
    rw [← Nat.shiftRight_eq_div_pow, ← BitVec.toNat_ushiftRight, BitVec.ofNat_toNat, BitVec.setWidth_eq]

end

/-- Settles O11: each element function is the one on bit vectors of the element's width. -/
theorem vectorIntegerElements : Obligations.VectorIntegerElements := by
  intro s d a b t e w x y
  refine ⟨fun h => elementWord_writes h fun x y => ofNat_elemSum_add x y t, fun h => elementWord_writes h fun x y => ofNat_elemSum_sub x y t,
    fun h => elementWord_writes h ofNat_mul_mod, fun h => ?vshl, fun h => ?vshr, fun h => issue_ok h, fun h => issue_ok h,
    fun h => issue_ok h⟩
  case vshl => exact elementWord_writes (w := w) (g := fun x y => x <<< (y.toNat % w)) h ofNat_shiftLeft_mod
  case vshr =>
    exact elementWord_writes (w := w) (g := fun x y => if t then x.sshiftRight (y.toNat % w) else x >>> (y.toNat % w)) h
      fun x y => ofNat_shiftRight_mod x y t

end Sys2Proof.Machine
end

section
/-!
PROOFS. The vector words that move lanes and form running results (spec/07_vector_instr.md R147 to R149).
-/
namespace Sys2Proof.Machine

/-! ## Sums and choices fit a lane -/

theorem addS_lt (r : Round) (x y : Nat) : addS r x y < 2 ^ 32 := by
  rw [addS]
  cases Fp.add r (fp32.decode x) (fp32.decode y) with
  | nan =>
    change fp32.nanCode < _
    decide
  | inf neg => exact IeeeFmt.signed_lt (f := fp32) neg (Nat.le_refl _)
  | fin neg m e => exact fp32.roundRat_lt r neg m 1 e

theorem maxS_lt {x y : Nat} (hx : x < 2 ^ 32) (hy : y < 2 ^ 32) : maxS x y < 2 ^ 32 := by
  unfold maxS
  repeat' split
  · decide
  all_goals assumption

/-! ## Running results (R149) -/

/-- Each result is the operation of the one before it and the element. -/
theorem scanList_getD (k : ScanKind) (l : List Nat) (acc : Nat) {j : Nat} (hj : j < l.length) :
    (scanList k acc l).getD j 0 = scanOp k ((acc :: scanList k acc l).getD j 0) (l.getD j 0) := by
  induction l generalizing acc j with
  | nil => exact absurd hj (Nat.not_lt_zero j)
  | cons x l ih =>
    cases j with
    | zero => rfl
    | succ j => exact ih (scanOp k acc x) (Nat.lt_of_succ_lt_succ hj)

theorem length_scanList (k : ScanKind) (l : List Nat) (acc : Nat) : (scanList k acc l).length = l.length := by
  induction l generalizing acc with
  | nil => rfl
  | cons x l ih => rw [scanList, List.length_cons, List.length_cons, ih]

theorem length_scanLanes (k : ScanKind) (l : List Nat) : (scanLanes k l).length = l.length := by
  cases l with
  | nil => rfl
  | cons x l => rw [scanLanes, List.length_cons, List.length_cons, length_scanList]

theorem scanLanes_getD_succ (k : ScanKind) (l : List Nat) {j : Nat} (hj : j + 1 < l.length) :
    (scanLanes k l).getD (j + 1) 0 = scanOp k ((scanLanes k l).getD j 0) (l.getD (j + 1) 0) := by
  cases l with
  | nil => exact absurd hj (Nat.not_lt_zero _)
  | cons x l => exact scanList_getD k l _ (Nat.lt_of_succ_lt_succ hj)

theorem scanFirst_lt (k : ScanKind) {x : Nat} (hx : x < 2 ^ 32) : scanFirst k x < 2 ^ 32 := by
  cases k with
  | iadd | imax => exact hx
  | fadd | fmax =>
    rw [scanFirst]
    split
    · decide
    · exact hx

theorem scanOp_lt (k : ScanKind) {x y : Nat} (hx : x < 2 ^ 32) (hy : y < 2 ^ 32) : scanOp k x y < 2 ^ 32 := by
  cases k with
  | fadd => exact addS_lt _ x y
  | iadd => exact Nat.mod_lt _ (Nat.two_pow_pos 32)
  | fmax => exact maxS_lt hx hy
  | imax =>
    rw [scanOp]
    split
    · exact hy
    · exact hx

/-- The results over lanes fit lanes. -/
theorem scanLanes_getD_lt (k : ScanKind) {l : List Nat} (hl : ∀ x ∈ l, x < 2 ^ 32) {j : Nat} (hj : j < l.length) :
    (scanLanes k l).getD j 0 < 2 ^ 32 := by
  have helem {i : Nat} (hi : i < l.length) : l.getD i 0 < 2 ^ 32 := by
    rw [List.getD_eq_getElem?_getD, List.getElem?_eq_getElem hi, Option.getD_some]
    exact hl _ (List.getElem_mem hi)
  induction j with
  | zero =>
    cases l with
    | nil => exact absurd hj (Nat.not_lt_zero 0)
    | cons x l => exact scanFirst_lt k (hl x List.mem_cons_self)
  | succ j ih =>
    rw [scanLanes_getD_succ k l hj]
    exact scanOp_lt k (ih (Nat.lt_of_succ_lt hj)) (helem hj)

/-- An element of a mapped list, or the default's image (core Lean has it for options only). -/
theorem getD_map_apply {α β : Type} (f : α → β) (l : List α) (x : α) (j : Nat) : (l.map f).getD j (f x) = f (l.getD j x) := by
  rw [List.getD_eq_getElem?_getD, List.getD_eq_getElem?_getD, List.getElem?_map, Option.getD_map]

/-- What VSCAN writes for a vector: the running results over its lanes. -/
def scanned (k : ScanKind) (v : VecWord) : VecWord := ofLanes ((scanLanes k ((lanes v).map BitVec.toNat)).map (BitVec.ofNat 32 ·))

/-- Lane j of them. -/
theorem scanned_lane (k : ScanKind) (v : VecWord) {j : Nat} (hj : j < 16) :
    (lane (scanned k v) j).toNat = (scanLanes k ((lanes v).map BitVec.toNat)).getD j 0 := by
  have hlen : ((lanes v).map BitVec.toNat).length = 16 := by rw [List.length_map, lanes_length]
  have hlt : (scanLanes k ((lanes v).map BitVec.toNat)).getD j 0 < 2 ^ 32 := by
    refine scanLanes_getD_lt k (fun x hx => ?_) (hlen.symm ▸ hj)
    obtain ⟨y, -, rfl⟩ := List.mem_map.mp hx
    exact y.isLt
  have hmap : ((scanLanes k ((lanes v).map BitVec.toNat)).map (BitVec.ofNat 32 ·)).getD j 0 =
      BitVec.ofNat 32 ((scanLanes k ((lanes v).map BitVec.toNat)).getD j 0) :=
    getD_map_apply (BitVec.ofNat 32) _ 0 j
  rw [scanned, lane_ofLanes _ (Nat.le_of_eq (by rw [List.length_map, length_scanLanes, hlen])), hmap, BitVec.toNat_ofNat, Nat.mod_eq_of_lt hlt]

theorem lanes_toNat_getD (v : VecWord) {j : Nat} (hj : j < 16) : ((lanes v).map BitVec.toNat).getD j 0 = (lane v j).toNat := by
  rw [← lanes_getD v j hj]
  exact getD_map_apply BitVec.toNat (lanes v) 0 j

/-- The first lane is the vector's own, and each further one comes from the one before it. -/
theorem scanned_zero (k : ScanKind) (v : VecWord) : (lane (scanned k v) 0).toNat = scanFirst k (lane v 0).toNat :=
  scanned_lane k v (by decide)

theorem scanned_succ (k : ScanKind) (v : VecWord) {j : Nat} (hj : j < 15) :
    (lane (scanned k v) (j + 1)).toNat = scanOp k (lane (scanned k v) j).toNat (lane v (j + 1)).toNat := by
  rw [scanned_lane k v (Nat.lt_succ_of_lt hj), scanned_lane k v (Nat.succ_lt_succ hj), ← lanes_toNat_getD v (Nat.succ_lt_succ hj)]
  exact scanLanes_getD_succ k _ (by rw [List.length_map, lanes_length]; exact Nat.succ_lt_succ hj)

/-! ## The words -/

theorem ofNat_toNat_mod {m : Nat} (x : BitVec m) (n : Nat) : BitVec.ofNat n (x.toNat % 2 ^ n) = x.setWidth n := by
  rw [← BitVec.toNat_setWidth, BitVec.ofNat_toNat, BitVec.setWidth_eq]

/-- A bit of a bit vector's number. -/
theorem bit_toNat_eq_getLsbD {m : Nat} (x : BitVec m) (i : Nat) : bit x.toNat i = x.getLsbD i := by
  rw [BitVec.getLsbD, Nat.testBit_eq_decide_div_mod_eq]
  rfl

/-- Settles O12: the lanes moved by `lane_ofLanes`, `lane_setLane` and `lane_mapLanes`, VSCAN by `scanned_zero` and
`scanned_succ`. -/
theorem vectorLaneMoves : Obligations.VectorLaneMoves := by
  intro s d a b l k x y z
  refine ⟨fun h => ⟨_, issue_ok h, fun j hj => ?vbcast⟩, fun h => ?vextr, fun h => ⟨_, issue_ok h, fun j hj => ?vins⟩,
    fun h => ⟨_, issue_ok h, fun j hj => ?vperm⟩, fun h => ⟨scanned k (s.thr.vreg a), issue_ok h, ?first, fun j hj => ?next⟩⟩
  case vbcast =>
    rw [lane_ofLanes _ (Nat.le_of_eq List.length_replicate), List.getD_eq_getElem?_getD, List.getElem?_replicate, if_pos hj,
      Option.getD_some, ofNat_toNat_mod]
  case vextr =>
    exact vecToS_answers (f := fun v => sext64 32 (lane v l.val).toNat) h
      (by rw [sext64_eq_signExtend, BitVec.ofNat_toNat, BitVec.setWidth_eq])
  case vins =>
    rw [lane_setLane _ _ _ j hj, apply_ite (BitVec.ofNat 32), ofNat_toNat_mod, BitVec.ofNat_toNat, BitVec.setWidth_eq]
  case vperm =>
    rw [lane_mapLanes _ _ j hj, bit_toNat_eq_getLsbD]
  case first =>
    rw [scanned_zero]
    cases k <;> simp [scanFirst, x]
  case next =>
    rw [scanned_succ k _ hj]
    cases k with
    | fadd | fmax => rfl
    | iadd => exact (BitVec.toNat_add _ _).symm
    | imax => simp only [scanOp, toSigned_toNat, BitVec.slt_iff_toInt_lt, x]

end Sys2Proof.Machine
end

section
/-!
PROOFS. The reductions (spec/07_vector_instr.md R150, R151).
-/
namespace Sys2Proof.Machine

/-- The tree of levels is the tree of R150. -/
theorem treeReduce_eq_tree16 (f : Nat → Nat → Nat) (v : VecWord) : treeReduce f v = tree16 f (fun j => (lane v j).toNat) := rfl

/-- A reduction over the tree that may run. -/
theorem treeWord_answers {i : Instr} {d a : Reg} {n : Nat} {s : State} (f : Nat → Nat → Nat) (h : mayRun i s) :
    vecToS i (fun v => BitVec.ofNat 64 (treeReduce f v)) d a n s =
      .next ((s.setS d (BitVec.ofNat 64 (tree16 f (fun j => (lane (s.thr.vreg a) j).toNat)))).passed n) :=
  vecToS_answers h (congrArg (BitVec.ofNat 64) (treeReduce_eq_tree16 f _))

/-- The lanes as signed numbers. -/
def signedLanes (v : VecWord) : List Int := (lanes v).map (fun x => toSigned 32 x.toNat)

theorem mem_signedLanes {v : VecWord} {m : Int} : m ∈ signedLanes v ↔ ∃ j, j < 16 ∧ (lane v j).toInt = m := by
  simp only [signedLanes, lanes, List.map_map, List.mem_map, List.mem_range, Function.comp_apply, toSigned_toNat]

/-- The largest signed lane, folded over the lanes, is a lane and none is larger. -/
theorem reduceDom_max (f : Nat → Nat → Nat) (v : VecWord) : ∃ j, j < 16 ∧ (∀ i, i < 16 → (lane v i).toInt ≤ (lane v j).toInt) ∧
    reduceDom .i f max v = (lane v j).signExtend 64 := by
  obtain ⟨hmem, hmax⟩ := List.max?_eq_some_iff.mp (List.max?_cons' (x := toSigned 32 (lane v 0).toNat) (xs := (signedLanes v).tail))
  obtain ⟨j, hj, hm⟩ := mem_signedLanes.mp hmem
  exact ⟨j, hj, fun i hi => hm ▸ hmax _ (mem_signedLanes.mpr ⟨i, hi, rfl⟩), congrArg (BitVec.ofInt 64) hm.symm⟩

/-- The smallest signed lane, folded over the lanes, is a lane and none is smaller. -/
theorem reduceDom_min (f : Nat → Nat → Nat) (v : VecWord) : ∃ j, j < 16 ∧ (∀ i, i < 16 → (lane v j).toInt ≤ (lane v i).toInt) ∧
    reduceDom .i f min v = (lane v j).signExtend 64 := by
  obtain ⟨hmem, hmin⟩ := List.min?_eq_some_iff.mp (List.min?_cons' (x := toSigned 32 (lane v 0).toNat) (xs := (signedLanes v).tail))
  obtain ⟨j, hj, hm⟩ := mem_signedLanes.mp hmem
  exact ⟨j, hj, fun i hi => hm ▸ hmin _ (mem_signedLanes.mpr ⟨i, hi, rfl⟩), congrArg (BitVec.ofInt 64) hm.symm⟩

/-- A set bit with none set below it is the lowest one. -/
theorem lowestBit_eq {k x n : Nat} (hk : n < k) (hn : x.testBit n = true) (hbelow : ∀ i, i < n → x.testBit i = false) :
    lowestBit k x = n := by
  rcases Nat.lt_trichotomy (lowestBit k x) n with hlt | heq | hgt
  · have hset := testBit_lowestBit k x (Nat.lt_trans hlt hk)
    exact absurd (hset.symm.trans (hbelow _ hlt)) nofun
  · exact heq
  · exact absurd (hn.symm.trans (testBit_below_lowestBit k x hgt)) nofun

/-- Settles O13: the trees by `treeReduce_eq_tree16`, the extremes by `reduceDom_max` and `reduceDom_min`, the bits by the lemmas on
`popcount` and `lowestBit`. -/
theorem vectorReductions : Obligations.VectorReductions := by
  intro s d a r v x
  refine ⟨treeWord_answers (addS r), treeWord_answers maxS, treeWord_answers minS, fun h => ?max, fun h => ?min, fun h => ?count,
    fun h => ?first⟩
  case max =>
    obtain ⟨j, hj, hmax, hred⟩ := reduceDom_max maxS v
    exact ⟨j, hj, hmax, vecToS_answers h hred⟩
  case min =>
    obtain ⟨j, hj, hmin, hred⟩ := reduceDom_min minS v
    exact ⟨j, hj, hmin, vecToS_answers h hred⟩
  case count =>
    exact vecToS_answers (f := fun v => BitVec.ofNat 64 (popcount 512 v.toNat)) h
      (congrArg (BitVec.ofNat 64) (popcount_eq_countP 512 v.toNat))
  case first =>
    have answers {u : DWord} (hu : (if v = 0 then BitVec.allOnes 64 else BitVec.ofNat 64 (lowestBit 512 v.toNat)) = u) :
        exec (.vffs d a) s = .next ((s.setS d u).passed 8) :=
      vecToS_answers (f := fun v => if v = 0 then BitVec.allOnes 64 else BitVec.ofNat 64 (lowestBit 512 v.toNat)) h hu
    refine ⟨fun hzero => answers (if_pos hzero), fun n hn hbelow => answers ?_⟩
    have hne : v ≠ 0 := fun h0 => by
      rw [h0, BitVec.ofNat_eq_ofNat, BitVec.getLsbD_zero] at hn
      exact Bool.false_ne_true hn
    rw [if_neg hne, lowestBit_eq (BitVec.lt_of_getLsbD hn) hn hbelow]

end Sys2Proof.Machine
end

section
/-!
PROOFS. The conversions (spec/07_vector_instr.md R152 to R155; spec/04_numbers.md R77 to R79): a converted element has the bits of its
format, and the elements of a conversion fit a register.
-/
namespace Sys2Proof.Machine

/-! ## Codes fit their formats -/

theorem taperBelow_le (w a b n : Nat) : taperBelow w a b n ≤ n := by
  induction n with
  | zero => exact Nat.le_refl 0
  | succ n ih =>
    rw [taperBelow]
    split
    · exact Nat.le_refl _
    · exact Nat.le_succ_of_le ih

/-- A tapered code has w bits below its sign. -/
theorem taperCode_lt {w : Nat} (hw : 0 < w) (neg : Bool) (num den : Nat) (e : Int) : taperCode w neg num den e < 2 ^ (w + 1) := by
  have hmag : 2 ≤ 2 ^ w := Nat.le_self_pow (Nat.ne_of_gt hw) 2
  have hlo := taperBelow_le w (num * 2 ^ (e + 12).toNat) (den * 2 ^ (-(e + 12)).toNat) (2 ^ w - 1)
  rw [Nat.pow_succ]
  unfold taperCode
  dsimp only
  generalize taperBelow w _ _ (2 ^ w - 1) = lo at hlo ⊢
  repeat' split
  all_goals omega

/-- A narrow code has its sign above a code that is the largest finite one at most. -/
theorem narrowCode_lt {w top : Nat} (hw : 0 < w) (htop : top < 2 ^ (w - 1)) (frac : Nat) (emin : Int) (mode : Round) (neg : Bool)
    (num den : Nat) (e : Int) : narrowCode w frac emin top mode neg num den e < 2 ^ w := by
  have hmin := Nat.min_le_left top (roundCode frac emin mode neg num den e)
  have hsplit := Nat.two_pow_pred_add_two_pow_pred hw
  rw [narrowCode]
  split <;> omega

theorem intCode_lt (w : Nat) (mode : Round) (neg : Bool) (num den : Nat) (e : Int) : intCode w mode neg num den e < 2 ^ w := by
  have hhalf : 2 ^ (w - 1) ≤ 2 ^ w := Nat.pow_le_pow_right (by decide) (Nat.sub_le w 1)
  have hpos := Nat.two_pow_pos (w - 1)
  unfold intCode
  dsimp only
  split
  · exact wrap_lt w _
  · omega

/-- A number converted into a format has its bits (R77 to R79). -/
theorem fmtRound_lt (code : Nat) (mode : Round) (neg : Bool) (num den : Nat) (e : Int) :
    fmtRound code mode neg num den e < 2 ^ fmtBits code := by
  match code with
  | 1 => exact fp32.roundRat_lt mode neg num den e
  | 2 => exact bf16.roundRat_lt mode neg num den e
  | 3 => exact fp16.roundRat_lt mode neg num den e
  | 4 => exact taperCode_lt (w := 7) (by decide) neg num den e
  | 5 => exact taperCode_lt (w := 5) (by decide) neg num den e
  | 6 | 7 | 8 | 9 => exact narrowCode_lt (by decide) (by decide) _ _ mode neg num den e
  | 10 => exact intCode_lt 8 mode neg num den e
  | 11 => exact intCode_lt 4 mode neg num den e
  | 0 | code + 12 => exact intCode_lt 32 mode neg num den e

theorem fmtNan_lt (code : Nat) : fmtNan code < 2 ^ fmtBits code := by
  match code with
  | 0 | 1 | 2 | 3 | 4 | 5 | 6 | 7 | 8 | 9 | 10 | 11 => decide
  | code + 12 => exact Nat.two_pow_pos _

theorem fmtInf_lt (code : Nat) (neg : Bool) : fmtInf code neg < 2 ^ fmtBits code := by
  match code with
  | 0 | 1 | 2 | 3 | 4 | 5 | 6 | 7 | 8 | 9 | 10 | 11 => cases neg <;> decide
  | code + 12 =>
    change (if neg then 0x80000000 else 0x7FFFFFFF) < 2 ^ 32
    split <;> decide

/-- A converted value has the bits of its format. -/
theorem fmtConvert_lt (code : Nat) (mode : Round) (v : Fp) : fmtConvert code mode v < 2 ^ fmtBits code := by
  cases v with
  | nan => exact fmtNan_lt code
  | inf neg => exact fmtInf_lt code neg
  | fin neg m e => exact fmtRound_lt code mode neg m 1 e

/-! ## VCVT (R152) -/

theorem fmtBits_mem (code : Nat) : fmtBits code ∈ [32, 16, 8, 6, 4] := by
  unfold fmtBits
  split <;> decide

/-- The converted elements fit a register. -/
theorem fmtBits_mul_cvtCount_le (src dst : Nat) : fmtBits dst * cvtCount (max (fmtBits src) (fmtBits dst)) ≤ 512 := by
  have h : ∀ x ∈ [32, 16, 8, 6, 4], ∀ y ∈ [32, 16, 8, 6, 4], y * cvtCount (max x y) ≤ 512 := by decide
  exact h _ (fmtBits_mem src) _ (fmtBits_mem dst)

/-- Every element of a conversion, with zeros above the last. -/
theorem cvtVector_elements (src dst : Nat) (r : Round) (v : VecWord) :
    (cvtVector src dst r v).toNat < 2 ^ (cvtCount (max (fmtBits src) (fmtBits dst)) * fmtBits dst) ∧
    ∀ i, i < cvtCount (max (fmtBits src) (fmtBits dst)) →
      element (cvtVector src dst r v).toNat (fmtBits dst) i = fmtConvert dst r (fmtValue src (element v.toNat (fmtBits src) i)) := by
  have hfit := fmtBits_mul_cvtCount_le src dst
  unfold cvtVector
  generalize cvtCount (max (fmtBits src) (fmtBits dst)) = e at hfit ⊢
  have hlt := pack_lt_bits (fmtBits dst) ((List.range e).map fun i => fmtConvert dst r (fmtValue src (element v.toNat (fmtBits src) i)))
  rw [List.length_map, List.length_range] at hlt
  rw [BitVec.toNat_ofNat, Nat.mod_eq_of_lt (Nat.lt_of_lt_of_le hlt (Nat.pow_le_pow_right (by decide) hfit))]
  refine ⟨Nat.mul_comm e _ ▸ hlt, fun i hi => ?_⟩
  rw [element_pack, List.getD_eq_getElem?_getD, List.getElem?_map, List.getElem?_range hi, Option.map_some, Option.getD_some,
    Nat.mod_eq_of_lt (fmtConvert_lt dst r _)]

/-! ## VQNT and VDQNT (R154, R155) -/

/-- Bits [63:13] of the operand are zero. -/
theorem bits_high_eq_zero {x : DWord} : bits x.toNat 63 13 = 0 ↔ x.extractLsb' 13 51 = 0 := by
  rw [← BitVec.toNat_inj, BitVec.extractLsb'_toNat, Nat.shiftRight_eq_div_pow]
  rfl

section
variable {i : Instr} {bad : State → Bool} {b : Reg} {s : State} {body : State → Out} (h : mayRun i s) (hb : bad s = false)
include h hb

/-- A word whose scalar operand has zeros in bits [63:13] goes on. -/
theorem operandWord_goes (hx : (s.thr.sreg b).extractLsb' 13 51 = 0) :
    (issueWith i bad 0 s fun s => if bits (s.thr.sreg b).toNat 63 13 ≠ 0 then fault .operand 0 (some (s.thr.sreg b)) s else body s) =
      body s :=
  (issueWith_ok h hb (Nat.zero_le _)).trans (if_neg (not_not_intro (bits_high_eq_zero.mpr hx)))

/-- A word whose scalar operand has another bit there faults with the operand in EVAL. -/
theorem operandWord_faults (hx : (s.thr.sreg b).extractLsb' 13 51 ≠ 0) (hh : s.hasHandler) :
    (issueWith i bad 0 s fun s => if bits (s.thr.sreg b).toNat 63 13 ≠ 0 then fault .operand 0 (some (s.thr.sreg b)) s else body s) =
      .next (s.trapped .operand 0 (s.thr.sreg b)) :=
  (issueWith_ok h hb (Nat.zero_le _)).trans ((if_pos (mt bits_high_eq_zero.mp hx)).trans (fault_handler hh))

end

/-- The lanes of a vector made from a function of their numbers. -/
theorem lanesAre_ofLanes_range (f : Nat → Nat) : lanesAre (ofLanes ((List.range 16).map fun i => BitVec.ofNat 32 (f i))) f := fun j hj => by
  rw [lane_ofLanes _ (Nat.le_of_eq (by rw [List.length_map, List.length_range])), List.getD_eq_getElem?_getD,
    List.getElem?_map, List.getElem?_range hj, Option.map_some, Option.getD_some]

/-- Settles O14: VCVT by `cvtVector_elements`; VQNT and VDQNT by the two outcomes of their operand. -/
theorem vectorConversions : Obligations.VectorConversions := by
  intro s d a b r h x n
  exact ⟨fun hrun hok => ⟨_, issueWith_ok hrun hok (Nat.zero_le _), cvtVector_elements _ _ r _⟩,
    fun hrun hok => ⟨fun hx => operandWord_goes hrun hok hx, fun hx hh => operandWord_faults hrun hok hx hh⟩,
    fun hrun hok => ⟨fun hx => ⟨_, _, operandWord_goes hrun hok hx, lanesAre_ofLanes_range _, lanesAre_ofLanes_range _⟩,
      fun hx hh => operandWord_faults hrun hok hx hh⟩⟩

end Sys2Proof.Machine
end

section
/-!
PROOFS. The tile instructions at issue (spec/08_tile_instr.md R159 to R163, R170 to R177): the checks that pass, and what each word sends
to its engine or answers.
-/
namespace Sys2Proof.Machine

/-! ## Checks that pass (R34, R159, R161, R162) -/

section
variable {e : Fin 2} {t : Fin 16} {s u : State} {body : State → Out}

theorem ownerThen_own {claims : Bool} (h : ownsTile s e t) : ownerThen e t claims s body = body s := if_pos h

/-- A free tile may be claimed: whoever else has claimed it is the slot itself. -/
theorem freeTile.claimable (h : freeTile s e t) : s.claimable (clusterOf s.thr.id.core) (.tile e t) = true := by
  obtain ⟨hnone, hself⟩ := h
  unfold State.claimable State.holder
  rw [State.ownerOf_tile, hnone, Option.none_or]
  cases hx : s.threads.find? (fun x => clusterOf x.id.core = clusterOf s.thr.id.core && x.claims.contains (.tile e t)) with
  | none => rfl
  | some x =>
    have hp := List.find?_some hx
    rw [Bool.and_eq_true, decide_eq_true_eq] at hp
    exact decide_eq_true (hself x (List.mem_of_find?_eq_some hx) hp.1 hp.2)

theorem ownerThen_ownsOrClaims (h : ownsOrClaims s e t u) : ownerThen e t true s body = body u := by
  rcases h with ⟨hown, rfl⟩ | ⟨hfree, rfl⟩
  · exact ownerThen_own hown
  · have hown : (s.tile (clusterOf s.thr.id.core) e t).owner ≠ some s.thr.id := by rw [hfree.1]; exact nofun
    unfold ownerThen
    simp only [hown, if_false, hfree.claimable, Bool.and_true, if_true]

theorem engineFreeThen_free (h : engineFree s e) : engineFreeThen e s body = body s :=
  if_neg (by rw [show s.outstanding _ _ = _ from h]; decide)

theorem localStoresThen_stored (h : localStored s) : localStoresThen s body = body s := if_neg (ne_true_of_eq_false h)

theorem withWindow_windowOk {k n : Nat} (h : windowOk s k n) : withWindow k n s body = body s := if_neg (ne_true_of_eq_false h.2)

/-- The window words of an instruction, as it holds them afterwards (R162). -/
theorem geoWords_geoRead {k n : Nat} {w : List DWord} {x : State} {body : List DWord → State → Out} (h : geoRead s k n w x) :
    geoWords k n s body = body w x := by
  obtain ⟨hk, ⟨hlen, rfl, rfl⟩ | ⟨hlen, hbad, rfl, rfl⟩⟩ := h
  · rw [geoWords, if_neg (Nat.not_lt.mpr hk), if_pos hlen]
  · rw [geoWords, if_neg (Nat.not_lt.mpr hk), if_neg hlen, withWindow, if_neg (ne_true_of_eq_false hbad)]

/-- Reading the window words changes nothing but that the slot holds them. -/
theorem geoRead_state {k n : Nat} {w : List DWord} {x : State} (h : geoRead s k n w x) : x = { s with thr := { s.thr with geo := w } } := by
  obtain ⟨-, ⟨-, rfl, rfl⟩ | ⟨-, -, -, rfl⟩⟩ := h <;> rfl

end

/-! ## What the words send (R164 to R169, R173) -/

/-- MMA and MMAS whose checks pass send their product (R166, R167). -/
theorem matrixProduct_sends {i : Instr} {t : Fin 16} {a b : PReg} {k : Fin 256} {e : Fin 2} {scaled : Bool} {s v x : State} {w : List DWord}
    (hrun : mayRun i s) (hbad : mmaBad scaled s = false) (hown : ownsTile s e t) (hgeo : geoRead s k.val (if scaled then 4 else 2) w x)
    (hw : productGeoOk scaled (w.getD 0 0) = true)
    (hA : strideOk (geoM (w.getD 0 0)) (geoA (w.getD 1 0)) (s.productJob i t a b w scaled).opA.rowBytes 8 = true)
    (hB : strideOk (geoN (w.getD 0 0)) (geoB (w.getD 1 0)) (s.productJob i t a b w scaled).opB.rowBytes 8 = true)
    (hranges : passes (declaredThen .engRead ((s.productJob i t a b w scaled).opA.ranges ++ (s.productJob i t a b w scaled).opB.ranges) x) v)
    (hfree : engineFree v e) (hst : localStored v) :
    matrixProduct i t a b k e scaled s =
      .next (v.sentTo e (s.productJob i t a b w scaled) (if scaled then 24 else 16) (if scaled then 24 else 16)) := by
  have hjob : x.productJob i t a b w scaled = s.productJob i t a b w scaled := by rw [geoRead_state hgeo]; rfl
  rw [matrixProduct, issueWith_ok hrun hbad (Nat.zero_le _), ownerThen_own hown, geoWords_geoRead hgeo]
  simp only [hjob, hw, hA, hB, Bool.not_true, Bool.or_self, Bool.false_eq_true, if_false]
  rw [hranges, engineFreeThen_free hfree, localStoresThen_stored hst]
  rfl

/-- MRES whose checks pass (R168). -/
theorem exec_mres {t : Fin 16} {a : PReg} {k : Fin 256} {e : Fin 2} {s v x : State} {w : List DWord} (hrun : mayRun (.mres t a k e) s)
    (hbad : mresBad s = false) (hown : ownsTile s e t) (hgeo : geoRead s k.val 2 w x) (hw : geoOk (w.getD 0 0) = true)
    (hst : let size := fmtBits (fmtOr (fmtO s.thr.hfmt) 1) / 8;
      strideOk (geoM (w.getD 0 0)) (geoA (w.getD 1 0)) (geoN (w.getD 0 0) * size) size = true)
    (hranges : let size := fmtBits (fmtOr (fmtO s.thr.hfmt) 1) / 8;
      passes (declaredThen .engWrite ((List.range (geoM (w.getD 0 0))).map (fun i =>
        (adv (s.thr.preg a) (i * geoA (w.getD 1 0) : Nat), geoN (w.getD 0 0) * size, size))) x) v) (hfree : engineFree v e) :
    exec (.mres t a k e) s = .next (v.sentTo e
      { v.newJob (.mres t a k e) t .mres with pa := v.thr.preg a, win := w, fmtO := fmtOr (fmtO s.thr.hfmt) 1 } 16 16) := by
  have hthr : x.thr.hfmt = s.thr.hfmt ∧ x.thr.preg a = s.thr.preg a := by rw [geoRead_state hgeo]; exact ⟨rfl, rfl⟩
  show execMres t a k e s = _
  rw [execMres, issueWith_ok hrun hbad (Nat.zero_le _), ownerThen_own hown, geoWords_geoRead hgeo]
  simp only [hthr, hw, hst, Bool.not_true, Bool.false_eq_true, if_false]
  rw [hranges, engineFreeThen_free hfree]
  rfl

/-- MANCHOR whose window value is an anchor that does not fall (R165). -/
theorem exec_manchor {t : Fin 16} {k : Fin 256} {e : Fin 2} {s u : State} (hrun : mayRun (.manchor t k e) s) (hown : ownsOrClaims s e t u)
    (hfree : engineFree u e) (hwin : windowOk u k.val 1) (hlo : -512 ≤ (u.win k.val).toInt) (hhi : (u.win k.val).toInt ≤ 511)
    (hup : (u.tile (clusterOf u.thr.id.core) e t).av = true → (u.tile (clusterOf u.thr.id.core) e t).a ≤ (u.win k.val).toInt) :
    exec (.manchor t k e) s = .next (u.sentTo e { u.newJob (.manchor t k e) t .manchor with win := [u.win k.val] } 8 8) := by
  show execManchor t k e s = _
  rw [execManchor, issue_ok hrun, ownerThen_ownsOrClaims hown, engineFreeThen_free hfree, withWindow_windowOk hwin]
  refine if_neg ?_
  rintro (h | h | ⟨hav, h⟩)
  · omega
  · omega
  · exact absurd (hup hav) (Int.not_le.mpr h)

/-- Settles O24: the checks pass one after the other, and what each word sends stands in its definition. -/
theorem tileWordsAreSent : Obligations.TileWordsAreSent := by
  refine ⟨?_, ?claims⟩
  case claims =>
    refine fun s e t => ⟨fun h => ?unclaimed, fun h => ?claimed⟩
    case unclaimed => simp [State.ownClaim, State.claimed, h]
    case claimed => simp [State.ownClaim, State.claimed, h]
  intro s u v x t e a b k w h w0 w1
  refine ⟨fun hrun hown hfree => ?mzero, fun hrun hown hfree => exec_manchor hrun hown hfree, fun scaled => ?product,
    fun hrun hbad hown hgeo => exec_mres hrun hbad hown hgeo, fun hrun hown hfree => ?mresc,
    fun hrun hown hfree himage => ?msave, fun hrun hown hbusy himage => ?msaveWaits⟩
  case mzero => exact (issue_ok hrun).trans ((ownerThen_ownsOrClaims hown).trans (engineFreeThen_free hfree))
  case product =>
    cases scaled
    · exact matrixProduct_sends
    · exact matrixProduct_sends
  case mresc => exact (issue_ok hrun).trans ((ownerThen_own hown).trans (engineFreeThen_free hfree))
  case msave =>
    refine (issue_ok hrun).trans ((ownerThen_own hown).trans ((if_neg ?_).trans (himage _)))
    rw [show s.outstanding _ _ = _ from hfree]
    decide
  case msaveWaits =>
    exact (issue_ok hrun).trans ((ownerThen_own hown).trans ((if_pos (Option.isSome_iff_ne_none.mpr hbusy)).trans (himage _)))

/-! ## What the words answer (R170, R171, R176, R177) -/

section
variable {t : Fin 16} {e : Fin 2} {d : Reg} {k : Fin 256} {s : State}

/-- MRD of an element's part that its window word names (R170). -/
theorem exec_mrd (hrun : mayRun (.mrd t d k e) s) (hown : ownsTile s e t) (hwin : windowOk s k.val 1) (hfree : engineFree s e)
    (hhigh : (s.win k.val).toNat / 2 ^ 18 = 0) (hmid : (s.win k.val).toNat / 2 ^ 10 % 2 ^ 6 = 0) (hpart : (s.win k.val).toNat / 2 ^ 16 ≠ 3) :
    exec (.mrd t d k e) s = .next (s.tileAnswer e d (mrdValue (s.tile (clusterOf s.thr.id.core) e t) (s.win k.val))) := by
  show execMrd t d k e s = _
  have hlegal : ¬ (bits (s.win k.val).toNat 63 18 ≠ 0 ∨ bits (s.win k.val).toNat 15 10 ≠ 0 ∨ bits (s.win k.val).toNat 17 16 = 3) := by
    unfold bits
    omega
  rw [execMrd, issue_ok hrun, ownerThen_own hown, withWindow_windowOk hwin]
  exact (if_neg hlegal).trans (engineFreeThen_free hfree)

/-- MCMP of the element that its window word names (R171). -/
theorem exec_mcmp (hrun : mayRun (.mcmp t d k e) s) (hown : ownsTile s e t) (hwin : windowOk s k.val 1) (hfree : engineFree s e)
    (hmid : (s.win k.val).toNat / 2 ^ 10 % 2 ^ 22 = 0) :
    exec (.mcmp t d k e) s = .next (s.tileAnswer e d (mcmpValue (s.tile (clusterOf s.thr.id.core) e t) (s.win k.val))) := by
  show execMcmp t d k e s = _
  rw [execMcmp, issue_ok hrun, ownerThen_own hown, withWindow_windowOk hwin]
  exact (if_neg (Classical.not_not.mpr hmid)).trans (engineFreeThen_free hfree)

/-- MRSTL of a word of which bits 0, 1 and 55 to 63 are 0, or not (R177). -/
theorem exec_mrstl (hrun : mayRun (.mrstl k) s) (hwin : windowOk s k.val 1) :
    exec (.mrstl k) s = if (s.win k.val).toNat % 4 = 0 ∧ (s.win k.val).toNat / 2 ^ 55 = 0
      then .next (State.passed 8 { s with thr := { s.thr with mrstl := s.win k.val } }) else fault .operand 0 none s := by
  have hbits : ((s.win k.val).extractLsb' 0 2 = 0 ∧ (s.win k.val).extractLsb' 55 9 = 0) ↔
      (s.win k.val).toNat % 4 = 0 ∧ (s.win k.val).toNat / 2 ^ 55 = 0 := by
    generalize s.win k.val = w
    have := w.isLt
    simp only [← BitVec.toNat_inj, BitVec.extractLsb'_toNat, Nat.shiftRight_eq_div_pow, BitVec.ofNat_eq_ofNat, BitVec.toNat_ofNat]
    omega
  show execMrstl k s = _
  rw [execMrstl, issue_ok hrun, withWindow_windowOk hwin]
  exact ite_congr (propext hbits) (fun _ => rfl) (fun _ => rfl)

end

/-- The upper word of an element (R170). -/
theorem TileElem.upperWord_eq (y : TileElem) : BitVec.ofInt 64 (y.int / 2 ^ 64) = (y.v.sshiftRight 64).setWidth 64 := by
  rw [TileElem.int_eq, BitVec.sshiftRight, Int.shiftRight_eq_div_pow]
  apply BitVec.eq_of_toNat_eq
  simp only [BitVec.toNat_setWidth, BitVec.toNat_ofInt]
  omega

/-- The operands of MCMP (R171): the element and the FP32 value that its window word names. -/
theorem mcmpValue_eq (x : Tile) (w : DWord) : let y := x.elem (w.toNat % 1024); let c := fp32.decode (w.toNat / 2 ^ 32);
    let z := if y.infp then Fp.inf false else if y.infn then .inf true
      else if x.av then .fin (y.int < 0) y.int.natAbs (x.a - 64) else .fin false 0 0;
    mcmpValue x w = if c = .nan ∨ y.nan = true ∨ (y.infp = true ∧ y.infn = true) then 2
      else if z.lt c then -1 else if c.lt z then 1 else 0 := by
  intro y c z
  have hindex : windowElem w = w.toNat % 1024 := by simp [windowElem, bits]
  have hvalue : bits w.toNat 63 32 = w.toNat / 2 ^ 32 := by have := w.isLt; unfold bits; omega
  rw [mcmpValue, hindex, hvalue]
  refine ite_congr (propext ?_) (fun _ => rfl) (fun _ => rfl)
  rw [Bool.or_eq_true, Bool.or_eq_true, decide_eq_true_eq, Bool.and_eq_true, or_assoc]

/-- Settles O26: the value of MRD by the part its window word names, that of MCMP by what has no order and what has. -/
theorem tileReadsAnswer : Obligations.TileReadsAnswer := by
  intro s t e d k x w y c
  refine ⟨fun hown hwin hfree hrun hhigh hmid => ?mrd, fun hown hwin hfree hrun hmid => ?mcmp,
    fun hrun hwin h4 h55 => (exec_mrstl hrun hwin).trans (if_pos ⟨h4, h55⟩),
    fun hh hrun hwin hbad => ?mrstlBad, fun hrun hother => ?mwait, fun hrun hbusy => ?mwaitStalls⟩
  case mrd =>
    have hindex : windowElem w = w.toNat % 1024 := by simp [windowElem, bits]
    have hpart : bits w.toNat 17 16 = w.toNat / 2 ^ 16 := by unfold bits; omega
    refine ⟨fun hp => ?low, fun hp => ?high, fun hp => ?form⟩
    case low =>
      rw [exec_mrd hrun hown hwin hfree hhigh hmid (by rw [hp]; decide), mrdValue, hpart, hp, hindex]
      rfl
    case high =>
      rw [exec_mrd hrun hown hwin hfree hhigh hmid (by rw [hp]; decide), mrdValue, hpart, hp, hindex, TileElem.upperWord_eq]
      rfl
    case form =>
      rw [exec_mrd hrun hown hwin hfree hhigh hmid (by rw [hp]; decide), mrdValue, hpart, hp, hindex]
      rfl
  case mcmp =>
    refine ⟨fun hnan => ?unordered, fun hc hy hinf => ⟨_, exec_mcmp hrun hown hwin hfree hmid, fun z hz => ?ordered⟩⟩
    case unordered => rw [exec_mcmp hrun hown hwin hfree hmid, mcmpValue_eq, if_pos hnan]
    case ordered =>
      have hboth : ¬ (c = .nan ∨ y.nan = true ∨ (y.infp = true ∧ y.infn = true)) :=
        not_or.mpr ⟨hc, not_or.mpr ⟨ne_true_of_eq_false hy, hinf⟩⟩
      rw [mcmpValue_eq, if_neg hboth, hz]
  case mrstlBad =>
    have hnot : ¬ (w.toNat % 4 = 0 ∧ w.toNat / 2 ^ 55 = 0) := by omega
    exact ((exec_mrstl hrun hwin).trans (if_neg hnot)) ▸ fault_open hh
  case mwait =>
    show execMwait t e s = _
    rw [execMwait, issue_ok hrun]
    cases hj : s.outstanding s.thr.id e with
    | none => rfl
    | some j => exact if_neg (hother j hj)
  case mwaitStalls =>
    obtain ⟨j, hj, ht⟩ := hbusy
    show execMwait t e s = _
    rw [execMwait, issue_ok hrun, hj]
    exact if_pos ht

end Sys2Proof.Machine
end

section
/-!
PROOFS. Images of tiles (spec/08_tile_instr.md R172 to R175): the header and the records as bytes and back, the units that write and read
them, and the words that read a header.
-/
namespace Sys2Proof.Machine

/-! ## Bytes of lists put together -/

theorem ofBytes_toBytes (k n : Nat) : ofBytes (toBytes k n) = n % 2 ^ (8 * k) := by
  induction k generalizing n with
  | zero => simp [toBytes, ofBytes, Nat.mod_one]
  | succ k ih =>
    have hstep : ofBytes (toBytes (k + 1) n) = n % 256 + 256 * ofBytes (toBytes k (n / 256)) := by
      simp [toBytes, ofBytes]
    rw [hstep, ih, show 2 ^ (8 * (k + 1)) = 256 * 2 ^ (8 * k) by rw [Nat.mul_succ, Nat.pow_add, Nat.mul_comm], Nat.mod_mul]

theorem ofBytes_toBytes_toNat {k w : Nat} (x : BitVec w) (h : w = 8 * k) : ofBytes (toBytes k x.toNat) = x.toNat := by
  rw [ofBytes_toBytes, ← h, Nat.mod_eq_of_lt x.isLt]

theorem length_flatMap_range {α : Type} {f : Nat → List α} {b : Nat} (hf : ∀ j, (f j).length = b) (n : Nat) :
    ((List.range n).flatMap f).length = n * b := by
  rw [List.length_flatMap, List.map_congr_left (fun j _ => hf j), List.map_const', List.sum_replicate_nat, List.length_range]

/-- What stands from piece k on, where all pieces have one length. -/
theorem drop_flatMap_range {α : Type} {f : Nat → List α} {b n k : Nat} (hf : ∀ j, (f j).length = b) (hk : k < n) :
    ∃ rest, ((List.range n).flatMap f).drop (b * k) = f k ++ rest := by
  obtain ⟨m, rfl⟩ : ∃ m, n = k + (m + 1) := ⟨n - k - 1, by omega⟩
  have hlen : ((List.range k).flatMap f).length = b * k := (length_flatMap_range hf k).trans (Nat.mul_comm k b)
  refine ⟨((List.range m).map (k + 1 + ·)).flatMap f, ?_⟩
  rw [List.range_add, List.range_succ_eq_map, List.flatMap_append, ← hlen, List.drop_left]
  simp [Function.comp_def, List.flatMap_map, Nat.add_assoc, Nat.add_comm 1]

/-! ## The header (R172, R174) -/

theorem parseHeader_isSome (n : Nat) : (parseHeader n).isSome = true ↔ n / 2 ^ 64 % 2 ^ 64 = 0 ∧ n / 2 ^ 48 % 2 ^ 16 = 0xACC1 ∧
    n / 2 ^ 40 % 2 ^ 8 = 0 ∧ n / 2 ^ 11 % 2 ^ 21 = 0 ∧ (n / 2 ^ 32 % 2 ^ 8 = 1 ∨ n / 2 ^ 32 % 2 ^ 8 = 2) := by
  unfold parseHeader
  split
  · next h => exact ⟨fun _ => h, fun _ => rfl⟩
  · next h => exact ⟨fun h' => absurd h' (by decide), fun h' => absurd h' h⟩

theorem toSigned_wrap {a : Int} (hlo : -512 ≤ a) (hhi : a ≤ 511) : toSigned 10 (wrap 10 a) = a := by
  unfold toSigned wrap
  split <;> omega

/-- The header that MSAVE writes is read as the form, AV and A of its tile. -/
theorem parseHeader_imageHeader {t : Tile} (hlo : -512 ≤ t.a) (hhi : t.a ≤ 511) :
    parseHeader (ofBytes (imageHeader t)) = some (t.canon, t.av, t.a) := by
  have hw := wrap_lt 10 t.a
  have hv := t.av.toNat_lt
  obtain ⟨v, hform, hv2⟩ : ∃ v, (if t.canon then 2 else 1) = v ∧ (v = 1 ∨ v = 2) := ⟨_, rfl, by cases t.canon <;> simp⟩
  have hcanon : decide (v = 2) = t.canon := by rw [← hform]; cases t.canon <;> rfl
  obtain ⟨n, hn⟩ : ∃ n, n = 0xACC1 * 2 ^ 48 + v * 2 ^ 32 + 2 ^ 10 * t.av.toNat + wrap 10 t.a := ⟨_, rfl⟩
  have hbytes : ofBytes (imageHeader t) = n := by
    rw [imageHeader, ofBytes_toBytes, hform, ← hn]
    exact Nat.mod_eq_of_lt (by omega)
  have hfield : bits n 39 32 = v := by unfold bits; omega
  have hanchor : bits n 9 0 = wrap 10 t.a := by unfold bits; omega
  have hflag : bit n 10 = t.av := by
    have : n / 2 ^ 10 % 2 = t.av.toNat := by omega
    rw [bit, this]
    cases t.av <;> rfl
  rw [hbytes, parseHeader, hfield, hanchor, hflag, toSigned_wrap hlo hhi, hcanon]
  exact if_pos ⟨by unfold bits; omega, by unfold bits; omega, by unfold bits; omega, by unfold bits; omega, hv2⟩

/-! ## Records (R172) -/

theorem length_elemRecord (canon : Bool) (y : TileElem) : (elemRecord canon y).length = recordBytes canon := by
  cases canon <;> simp [elemRecord, recordBytes]

theorem length_rowRecords (t : Tile) (i : Nat) : (rowRecords t i).length = 32 * recordBytes t.canon :=
  length_flatMap_range (fun _ => length_elemRecord t.canon _) 32

theorem TileElem.flags_lt (y : TileElem) : y.flags < 256 := by
  have bound (b : Bool) := b.toNat_lt
  have := bound y.ovf; have := bound y.inx; have := bound y.nan; have := bound y.infp; have := bound y.infn
  unfold TileElem.flags
  omega

/-- An element without flags that takes those of another. -/
theorem TileElem.orFlags_flags (y : TileElem) (v c : BitVec 96) :
    ({ TileElem.zero with v := v, c := c } : TileElem).orFlags y.flags = { y with v := v, c := c } := by
  have hbits : ∀ a b c d f : Bool, let n := 16 * a.toNat + 8 * b.toNat + 4 * c.toNat + 2 * d.toNat + f.toNat;
      (bit n 4, bit n 3, bit n 2, bit n 1, bit n 0) = (a, b, c, d, f) := by decide
  have := hbits y.ovf y.inx y.nan y.infp y.infn
  simp only [Prod.mk.injEq] at this
  obtain ⟨h4, h3, h2, h1, h0⟩ := this
  simp only [TileElem.orFlags, TileElem.zero, TileElem.flags, h4, h3, h2, h1, h0, Bool.false_or]

/-- The flags byte of a record, whose bytes above it are 0. -/
theorem ofBytes_flagsByte (y : TileElem) (k : Nat) (rest : List Byte) : ofBytes ((toBytes (k + 1) y.flags ++ rest).take 1) = y.flags := by
  have : ofBytes ((toBytes (k + 1) y.flags ++ rest).take 1) = y.flags % 256 := by simp [toBytes, ofBytes]
  rw [this, Nat.mod_eq_of_lt y.flags_lt]

/-- The record of an element is read as the element, but that the canonical form holds no carry word. -/
theorem parseRecord_elemRecord (canon : Bool) (y : TileElem) (rest : List Byte) :
    parseRecord canon (elemRecord canon y ++ rest) = if canon then { y with c := 0 } else y := by
  cases canon
  case true =>
    have hv : ofBytes ((elemRecord true y ++ rest).take 12) = y.v.toNat := by
      rw [elemRecord, if_pos rfl, List.append_assoc, List.take_left' (length_toBytes ..), ofBytes_toBytes_toNat _ rfl]
    have hf : ofBytes (((elemRecord true y ++ rest).drop 12).take 1) = y.flags := by
      rw [elemRecord, if_pos rfl, List.append_assoc, List.drop_left' (length_toBytes ..), ofBytes_flagsByte]
    simp only [parseRecord, if_true, hv, hf, TileElem.orFlags_flags, BitVec.ofNat_toNat, BitVec.setWidth_eq]
    rw [show y.v + 0 = y.v from BitVec.add_zero _]
  case false =>
    have hs : ofBytes ((elemRecord false y ++ rest).take 12) = y.sumWord.toNat := by
      rw [elemRecord, if_neg (by decide), List.append_assoc, List.append_assoc, List.take_left' (length_toBytes ..), ofBytes_toBytes_toNat _ rfl]
    have hc : ofBytes (((elemRecord false y ++ rest).drop 12).take 12) = y.c.toNat := by
      rw [elemRecord, if_neg (by decide), List.append_assoc, List.append_assoc, List.drop_left' (length_toBytes ..),
        List.take_left' (length_toBytes ..), ofBytes_toBytes_toNat _ rfl]
    have hf : ofBytes (((elemRecord false y ++ rest).drop 24).take 1) = y.flags := by
      rw [elemRecord, if_neg (by decide), List.append_assoc, List.drop_left' (by simp), ofBytes_flagsByte]
    simp only [parseRecord, Bool.false_eq_true, if_false, hs, hc, hf, TileElem.orFlags_flags, BitVec.ofNat_toNat, BitVec.setWidth_eq,
      TileElem.sumWord, BitVec.sub_add_cancel]

/-- The records of row i are read as the elements of row i. -/
theorem parseRow_rowRecords (t : Tile) (i : Nat) : parseRow t.canon i (rowRecords t i) = (List.range 32).map (fun k =>
    (32 * i + k, if t.canon then { t.elem (32 * i + k) with c := 0 } else t.elem (32 * i + k))) := by
  refine List.map_congr_left fun k hk => ?_
  obtain ⟨rest, hrest⟩ := drop_flatMap_range (f := fun j => elemRecord t.canon (t.elem (32 * i + j)))
    (fun j => length_elemRecord t.canon _) (List.mem_range.mp hk)
  rw [rowRecords, hrest, parseRecord_elemRecord]

/-! ## Units of an image (R173, R174) -/

section
variable {s u : State} {user : EngineUser} {j : TileJob} {x : Tile} {l : List Byte}

theorem tileUnit_msave_first (hop : j.op = .msave) (h0 : j.done = 0)
    (hw : s.engineWriteRange user j.pa (imageHeader x ++ rowRecords x 0) = .done l u) : tileUnit user j x s = .ok x u := by
  simp only [tileUnit, hop, h0, if_true, hw, writeUnit]

theorem tileUnit_msave_later (hop : j.op = .msave) (h0 : 0 < j.done)
    (hw : s.engineWriteRange user (adv j.pa (16 + 32 * recordBytes x.canon * j.done : Nat)) (rowRecords x j.done) = .done l u) :
    tileUnit user j x s = .ok x u := by
  simp only [tileUnit, hop, Nat.ne_of_gt h0, if_false, hw, writeUnit]

/-- A row of an image that has been read goes on to the unit's own work. -/
theorem rowThen_done {canon : Bool} {body : List Byte → State → UnitResult}
    (hr : s.engineReadRange user (adv j.pa (16 + 32 * recordBytes canon * j.done : Nat)) (32 * recordBytes canon) = .done l u) :
    rowThen user j canon s body = body l u := by
  rw [rowThen, hr]

theorem tileUnit_mload {canon av : Bool} {a : Int} (hop : j.op = .mload) (hh : parseHeader (j.win.getD 0 0).toNat = some (canon, av, a))
    (hr : s.engineReadRange user (adv j.pa (16 + 32 * recordBytes canon * j.done : Nat)) (32 * recordBytes canon) = .done l u) :
    tileUnit user j x s = .ok (if j.done = 0 then { owner := x.owner, av := av, a := a, canon := canon, elems := parseRow canon 0 l }
      else { x with elems := x.elems ++ parseRow canon j.done l }) u := by
  simp only [tileUnit, hop, hh, rowThen_done hr]
  split
  · next h0 => rw [h0]; rfl
  · rfl

end

/-! ## Words that read a header (R174, R175) -/

section
variable {s v x y : State} {e : Fin 2} {p : DWord} {l : List Byte}

/-- A well-formed header is read once the checks before it pass, and the checks of the whole image follow. -/
theorem loadThen_wellFormed {body : DWord → State → Out} {canon av : Bool} {a : Int}
    (hp : passes (imageThen p (imageBytes true) .engRead s) v) (hfree : engineFree v e)
    (hst : localStored v) (hr : v.engineRead (v.engineUser v.thr.id v.thr.node) p 16 = .done l x)
    (hh : parseHeader (ofBytes l) = some (canon, av, a)) (hy : passes (rangeThen .slot p (imageBytes canon) .engRead true x) y) :
    loadThen e p s body = body (BitVec.ofNat 64 (ofBytes l)) y := by
  rw [loadThen, hp, engineFreeThen_free hfree, localStoresThen_stored hst, headerThen, hr]
  simp only [hh]
  exact hy _

theorem loadThen_malformed {body : DWord → State → Out} (hp : passes (imageThen p (imageBytes true) .engRead s) v) (hfree : engineFree v e)
    (hst : localStored v) (hr : v.engineRead (v.engineUser v.thr.id v.thr.node) p 16 = .done l x) (hh : parseHeader (ofBytes l) = none) :
    loadThen e p s body = fault .operand 0 none x := by
  rw [loadThen, hp, engineFreeThen_free hfree, localStoresThen_stored hst, headerThen, hr]
  simp only [hh]

/-- A fault whose EVAL is open leaves the tiles, and what the word has claimed is its claim no more. -/
theorem fault_open_unclaims {c : Cause} {z : State} (hh : s.hasHandler) (hz : fault c 0 none s = .next z) :
    z.tiles = s.tiles ∧ z.thr.claims = [] := by
  unfold fault at hz
  rw [trapTo_open (s := { s with thr := { s.thr.clearHints with retried := false, progress := 0, geo := [], claims := [] } }) hh] at hz
  cases hz
  exact ⟨rfl, rfl⟩

end

/-- Settles O25: what MLOAD and MMERGE send or trap by what the header holds; header, records and units of an image by its form. -/
theorem tileImagesAreSent : Obligations.TileImagesAreSent := by
  refine ⟨fun s u v x y t e a l => ⟨fun canon av n hh => ⟨fun hrun hown hp hfree hst hr hy => ?mload,
      fun hrun hown hp hfree hst hr hy => ?mmerge⟩, fun hrun hown hp hfree hst hr hh hx => ?mmergeBad,
      fun hrun hown hp hfree hst hr hh hx => ?mloadBad, parseHeader_isSome⟩,
    fun t i => ⟨parseHeader_imageHeader, length_toBytes _ _, length_rowRecords t i, fun _ => parseRow_rowRecords t i⟩,
    fun s u user j x l canon av a => ⟨fun hop => ⟨tileUnit_msave_first hop, tileUnit_msave_later hop⟩, tileUnit_mload⟩⟩
  case mload =>
    exact (issue_ok hrun).trans ((ownerThen_ownsOrClaims hown).trans (loadThen_wellFormed hp hfree hst hr hh hy))
  case mmerge => exact (issue_ok hrun).trans ((ownerThen_own hown).trans (loadThen_wellFormed hp hfree hst hr hh hy))
  case mmergeBad =>
    have faults : exec (.mmerge t a e) s = fault .operand 0 none x :=
      (issue_ok hrun).trans ((ownerThen_own hown).trans (loadThen_malformed hp hfree hst hr hh))
    exact faults ▸ fault_open hx
  case mloadBad =>
    have faults : exec (.mload t a e) s = fault .operand 0 none x :=
      (issue_ok hrun).trans ((ownerThen_ownsOrClaims hown).trans (loadThen_malformed hp hfree hst hr hh))
    exact ⟨faults ▸ fault_open hx, fun z hz => fault_open_unclaims hx (faults.symm.trans hz)⟩

end Sys2Proof.Machine
end

section
/-!
PROOFS. The engine's round and its units (spec/08_tile_instr.md R160, R164 to R169, R175; spec/04_numbers.md R94, R96): what the first
instruction of the round does, what each word's unit gives, and the special values of results.
-/
namespace Sys2Proof.Machine

/-! ## Frames of what a unit updates -/

@[simp] theorem State.engineJobs_setJobs (s : State) (cl e : Nat) (l : List TileJob) : (s.setJobs cl e l).engineJobs cl e = l :=
  (assocD_cons _ _ _ _ _).trans (if_pos rfl)

@[simp] theorem State.tile_setTile (s : State) (cl e t : Nat) (x : Tile) : (s.setTile cl e t x).tile cl e t = x :=
  (assocD_cons _ _ _ _ _).trans (if_pos rfl)

/-- A node at no end takes one. -/
theorem State.takesEnd_open {s : State} {n : Node} {e : Ending} (h : n.closing = false) : s.takesEnd e n = true := by
  rw [Node.closing, Bool.or_eq_false_iff, Option.isSome_eq_false_iff, Option.isSome_eq_false_iff, Option.isNone_iff_eq_none] at h
  obtain ⟨hending, hends⟩ := h
  simp only [State.takesEnd, hending, hends]

/-- A node that takes an end is found with it. -/
theorem State.node?_endNode {s : State} {id : Nat} {n : Node} {e : Ending} (hn : s.node? id = some n) (he : s.takesEnd e n = true) :
    (s.endNode id e).node? id = some { n with ending := some e, endedAt := s.clock } := by
  obtain ⟨hid, -⟩ : n.id = id ∧ n.phase ≠ .ended := by simpa using List.find?_some hn
  have hkeeps : (fun n : Node => decide (n.id = id) && decide (n.phase ≠ .ended)) ∘ (fun n => if decide (n.id = id) && s.takesEnd e n then
      { n with ending := some e, endedAt := s.clock } else n) = fun n => decide (n.id = id) && decide (n.phase ≠ .ended) := by
    funext n
    simp only [Function.comp_apply]
    split <;> rfl
  unfold State.node? at hn ⊢
  unfold State.endNode
  rw [List.find?_map, hkeeps, hn]
  simp [hid, he]

/-! ## The first instruction of the round (R160) -/

/-- The first outstanding instruction of an engine may do a unit, or leave: its node goes on, and no other one that still runs has let
its slot have one already. -/
structure State.serves (s : State) (cl : Nat) (e : Fin 2) (j : TileJob) (rest : List TileJob) : Prop where
  jobs : s.engineJobs cl e.val = j :: rest
  live : ∀ n, s.node? j.node = some n → s.shut n = false
  turn : ∀ y ∈ rest, j.slot ∈ y.served → y.units ≤ y.done ∨ ∃ n, s.node? y.node = some n ∧ s.shut n = true

section
variable {s u : State} {cl : Nat} {e : Fin 2} {j : TileJob} {rest : List TileJob} {x : Tile}

/-- The round once its first instruction has left it. -/
def roundLeft (j : TileJob) (rest : List TileJob) : List TileJob := rest.map (TileJob.forgets j.slot)

/-- The round once its first instruction j has done a unit and stands at the end as j'. -/
def roundGoes (j j' : TileJob) (rest : List TileJob) : List TileJob := rest.map (TileJob.sawUnit j.slot) ++ [{ j' with served := [] }]

theorem State.serves.not_shut (h : s.serves cl e j rest) : ¬ (s.node? j.node).any s.shut = true := by
  cases hn : s.node? j.node with
  | none => exact Bool.false_ne_true
  | some n => simp [h.live n hn]

theorem State.serves.unitAllowed (h : s.serves cl e j rest) :
    unitAllowed j.slot (rest.filter (fun y => !(s.node? y.node).any s.shut)) = true := by
  refine List.all_eq_true.mpr fun y hy => ?_
  obtain ⟨hmem, hruns⟩ := List.mem_filter.mp hy
  by_cases hs : j.slot ∈ y.served
  · rcases h.turn y hmem hs with hdone | ⟨n, hn, hshut⟩
    · simp [hdone]
    · rw [hn, Option.any_some, hshut] at hruns
      cases hruns
  · simp [hs]

/-- An instruction whose units are done leaves the round once its writes are acknowledged (R159). -/
theorem State.serves.leaves (h : s.serves cl e j rest) (hd : j.units ≤ j.done) (hw : s.writesOut (s.jobUser e j).who = false) :
    exec (.engineUnit cl e) s = .next ((s.setJobs cl e.val (roundLeft j rest)).pulseSource j.slot (e.val + 1)) := by
  show execEngineUnit cl e s = _
  rw [execEngineUnit, h.jobs, roundUnit]
  simp only [h.not_shut, hd, hw, if_true, if_false, Bool.false_eq_true, List.nil_append]
  rfl

/-- One that has units left does its next one. -/
theorem State.serves.unit (h : s.serves cl e j rest) (hd : j.done < j.units) {t : Tile}
    (hu : checkedUnit (s.jobUser e j) j (s.tile cl e.val j.tile) s = .ok t u) :
    let v := (u.setTile cl e.val j.tile t).dropGot (s.jobUser e j).who
    exec (.engineUnit cl e) s = .next (if (j.after s).done < j.units ∨ v.writesOut (s.jobUser e j).who = true
      then v.setJobs cl e.val (roundGoes j (j.after s) rest) else (v.setJobs cl e.val (roundLeft j rest)).pulseSource j.slot (e.val + 1)) := by
  intro v
  have hcond : ¬ ((j.after s).done < j.units ∨ v.writesOut (s.jobUser e j).who = true) ↔
      (j.units ≤ (j.after s).done && !v.writesOut (s.jobUser e j).who) = true := by simp
  show execEngineUnit cl e s = _
  rw [execEngineUnit, h.jobs, roundUnit]
  simp only [h.not_shut, Nat.not_le.mpr hd, if_false, Bool.false_eq_true, List.nil_append, h.unitAllowed, Bool.not_true, hu]
  split
  · next hc =>
    rw [if_neg (hcond.mpr hc)]
    rfl
  · next hc =>
    rw [if_pos (Classical.not_not.mp (fun hstays => hc (hcond.mp hstays)))]
    rfl

/-- One whose step fails a second time leaves the round, and its node ends (R96). -/
theorem State.serves.fails (h : s.serves cl e j rest) (hd : j.done < j.units) (hroom : s.faultUnitFull cl = false)
    (hu : checkedUnit (s.jobUser e j) j (s.tile cl e.val j.tile) s = .fail .mcheck 0 0 0) :
    exec (.engineUnit cl e) s = .next (((({ s with upset := s.upset - 1 } : State).setJobs cl e.val (roundLeft j rest)).dropGot
      (s.jobUser e j).who).engineFails j.slot j.node j.pc .mcheck 0 0 0) := by
  show execEngineUnit cl e s = _
  rw [execEngineUnit, h.jobs, roundUnit]
  simp only [h.not_shut, Nat.not_le.mpr hd, if_false, Bool.false_eq_true, List.nil_append, h.unitAllowed, Bool.not_true, hu, hroom,
    Bool.and_false, decide_true, Bool.and_self, if_true]
  rfl

/-- Without a mismatch a unit gives what it computes, and one more is done. -/
theorem checkedUnit_quiet {user : EngineUser} {y : Tile} (hq : s.upset = 0) (hu : tileUnit user j y s = .ok x u) :
    checkedUnit user j y s = .ok x u := by
  simp [checkedUnit, hu, hq]

theorem TileJob.after_quiet (hq : s.upset = 0) : j.after s = { j with done := j.done + 1, retried := false } := by
  simp [TileJob.after, hq]

/-- A mismatch: the first repeats the step, the second ends it (R96). -/
theorem checkedUnit_mismatch {user : EngineUser} {y : Tile} (hq : 0 < s.upset) (hst : j.steps = true) (hu : tileUnit user j y s = .ok x u) :
    checkedUnit user j y s = if j.retried then .fail .mcheck 0 0 0 else .ok y { s with upset := s.upset - 1 } := by
  simp [checkedUnit, hu, hq, hst]

theorem TileJob.after_mismatch (hq : 0 < s.upset) (hst : j.steps = true) (hr : j.retried = false) : j.after s = { j with retried := true } := by
  simp [TileJob.after, hq, hst, hr]

/-- A unit without a mismatch: its tile becomes what it gives, and the instruction goes to the end of the round, or leaves it. -/
theorem State.serves.quietUnit (h : s.serves cl e j rest) (hd : j.done < j.units) (hq : s.upset = 0)
    (hu : tileUnit (s.jobUser e j) j (s.tile cl e.val j.tile) s = .ok x u) :
    let t := (u.setTile cl e.val j.tile x).dropGot (s.jobUser e j).who
    exec (.engineUnit cl e) s = .next (if j.done + 1 < j.units ∨ t.writesOut (s.jobUser e j).who = true
      then t.setJobs cl e.val (roundGoes j { j with done := j.done + 1, retried := false } rest)
      else (t.setJobs cl e.val (roundLeft j rest)).pulseSource j.slot (e.val + 1)) := by
  intro t
  have hexec := h.unit hd (checkedUnit_quiet hq hu)
  rwa [TileJob.after_quiet hq] at hexec

/-- The first mismatch leaves the tile, and the step is to be repeated (R96). -/
theorem State.serves.firstMismatch (h : s.serves cl e j rest) (hd : j.done < j.units) (hq : 0 < s.upset) (hst : j.steps = true)
    (hr : j.retried = false) (hu : tileUnit (s.jobUser e j) j (s.tile cl e.val j.tile) s = .ok x u) :
    ∃ y, exec (.engineUnit cl e) s = .next y ∧ y.upset + 1 = s.upset ∧ y.tile cl e.val j.tile = s.tile cl e.val j.tile ∧
      y.engineJobs cl e.val = roundGoes j { j with retried := true } rest := by
  have hc := checkedUnit_mismatch hq hst hu
  rw [if_neg (ne_true_of_eq_false hr)] at hc
  have hafter := TileJob.after_mismatch hq hst hr
  refine ⟨_, (h.unit hd hc).trans (congrArg _ (if_pos (.inl ?_))), Nat.sub_add_cancel hq, State.tile_setTile _ _ _ _ _, ?_⟩
  · rw [State.engineJobs_setJobs, hafter]
  · rwa [hafter]

/-- The second mismatch ends the node with MCHECK (R96). -/
theorem State.serves.secondMismatch (h : s.serves cl e j rest) (hd : j.done < j.units) (hq : 0 < s.upset) (hst : j.steps = true)
    (hr : j.retried = true) (hroom : s.faultUnitFull cl = false) (hlive : ∀ n, s.node? j.node = some n → n.closing = false)
    (hu : tileUnit (s.jobUser e j) j (s.tile cl e.val j.tile) s = .ok x u) :
    ∃ y, exec (.engineUnit cl e) s = .next y ∧ y.engineJobs cl e.val = roundLeft j rest ∧
      ∀ n, s.node? j.node = some n → ∃ m, y.node? j.node = some m ∧ m.ending.map (·.cause) = some .mcheck := by
  have hc := checkedUnit_mismatch hq hst hu
  rw [if_pos hr] at hc
  refine ⟨_, h.fails hd hroom hc, State.engineJobs_setJobs _ _ _ _, fun n hn => ⟨_, State.node?_endNode hn (State.takesEnd_open (hlive n hn)), rfl⟩⟩

end

/-! ## Units of the words (R164, R165, R169) -/

section
variable {s : State} {user : EngineUser} {j : TileJob} {x : Tile}

theorem tileUnit_mzero (hop : j.op = .mzero) : tileUnit user j x s = .ok { Tile.zero with owner := x.owner } s := by
  rw [tileUnit, hop]

theorem tileUnit_manchor_first (hop : j.op = .manchor) (hav : x.av = false) :
    ∃ c, tileUnit user j x s = .ok { x with av := true, a := (j.win.getD 0 0).toInt, canon := c } s := by
  refine ⟨x.canon || decide ((j.win.getD 0 0).toInt ≠ x.a), ?_⟩
  rw [tileUnit, hop]
  exact if_pos (by rw [hav]; rfl)

theorem tileUnit_manchor_up (hop : j.op = .manchor) (hav : x.av = true) :
    tileUnit user j x s = .ok { x.rebase ((j.win.getD 0 0).toInt - x.a).toNat with canon := true } s := by
  rw [tileUnit, hop]
  exact if_neg (by rw [hav]; decide)

/-- An element that has not overflowed is moved down, its carries resolved (R88, R165). -/
theorem Tile.mem_rebase {d : Nat} {p : Nat × TileElem} (hp : p ∈ x.elems) (hovf : p.2.ovf = false) :
    ∃ q ∈ (x.rebase d).elems, q.1 = p.1 ∧ q.2.c = 0 ∧ q.2.v = BitVec.ofInt 96 (p.2.int / 2 ^ d) := by
  refine ⟨_, List.mem_map_of_mem hp, ?_⟩
  rw [if_neg (ne_true_of_eq_false hovf)]
  exact ⟨rfl, rfl, rfl⟩

/-- Carry words of the elements from lo to lo + 31 cleared (R169). -/
def clearCarries (lo : Nat) (p : Nat × TileElem) : Nat × TileElem := if lo ≤ p.1 ∧ p.1 < lo + 32 then (p.1, { p.2 with c := 0 }) else p

theorem tileUnit_mresc (hop : j.op = .mresc) : tileUnit user j x s =
    .ok { x with canon := x.canon || j.done = 31, elems := x.elems.map (clearCarries (32 * j.done)) } s := by
  rw [tileUnit, hop]
  rfl

theorem clearCarries_keeps (lo : Nat) (p : Nat × TileElem) :
    ((clearCarries lo p).1, (clearCarries lo p).2.v, (clearCarries lo p).2.flags) = (p.1, p.2.v, p.2.flags) := by
  unfold clearCarries
  split <;> rfl

theorem clearCarries_carry {lo : Nat} {p : Nat × TileElem} (hlo : lo ≤ (clearCarries lo p).1) (hhi : (clearCarries lo p).1 < lo + 32) :
    (clearCarries lo p).2.c = 0 := by
  unfold clearCarries at *
  split
  · rfl
  · next hp =>
    rw [if_neg hp] at hlo hhi
    exact absurd ⟨hlo, hhi⟩ hp

end

/-! ## Products, results and merges (R167, R168, R175) -/

section
variable {s t u : State} {user : EngineUser} {j : TileJob} {x : Tile}

/-- What a regular step reads and multiplies (R167). -/
theorem regularUnit_steps {r k0 k1 : Nat} {da db : List (List Byte)} (hk0 : k0 = r * stepDepth j.fmtA j.fmtB)
    (hk1 : k1 = min j.opA.depth (k0 + stepDepth j.fmtA j.fmtB))
    (hA : gatherRanges user (j.opA.stepRanges k0 k1 true false) [] s = .got da t)
    (hB : gatherRanges user (j.opB.stepRanges k0 k1 true false) [] t = .got db u) :
    regularUnit user j x r s = .ok (x.step u.fresh (j.pairs.map (fun y => (32 * y.1 + y.2,
      (((List.range j.opA.rows).map (j.opA.values k0 k1 da)).getD y.1 []).zipWith Fp.mul
        (((List.range j.opB.rows).map (j.opB.values k0 k1 db)).getD y.2 []))))) u.used := by
  subst hk0 hk1
  simp only [regularUnit, hA, hB]
  rfl

/-- The ranges of values and scales of a step. -/
theorem TileOperand.stepRanges_values (o : TileOperand) (k0 k1 : Nat) : o.stepRanges k0 k1 true false =
    (List.range o.rows).map (fun i => (adv (o.row i) (k0 * fmtBits o.fmt / 8 : Nat), ceilDiv (k1 * fmtBits o.fmt) 8 - k0 * fmtBits o.fmt / 8)) ++
      (if o.scaled then (List.range o.rows).map (fun i => (o.scaleAt i (k0 / 32), 2 * ((k1 - 1) / 32 - k0 / 32 + 1))) else []) := by
  simp [TileOperand.stepRanges]

/-- The value of row i at depth k0 + k of what a step has read. -/
def TileOperand.value (o : TileOperand) (k0 : Nat) (data : List (List Byte)) (i k : Nat) : Fp :=
  let v := fmtValue o.fmt (element (ofBytes (data.getD i [])) (fmtBits o.fmt) k)
  if o.scaled then Fp.mul v (scaleValue (element (ofBytes (data.getD (o.rows + i) [])) 16 ((k0 + k) / 32 - k0 / 32))) else v

/-- The products of a step, element after element. -/
theorem TileJob.products_eq (j : TileJob) (k0 k1 : Nat) (da db : List (List Byte)) :
    j.pairs.map (fun y => (32 * y.1 + y.2, (((List.range j.opA.rows).map (j.opA.values k0 k1 da)).getD y.1 []).zipWith Fp.mul
      (((List.range j.opB.rows).map (j.opB.values k0 k1 db)).getD y.2 []))) =
    (List.range j.opA.rows).flatMap (fun i => (List.range j.opB.rows).map (fun c =>
      (32 * i + c, (List.range (k1 - k0)).map (fun k => Fp.mul (j.opA.value k0 da i k) (j.opB.value k0 db c k))))) := by
  have hrow {n i : Nat} (f : Nat → List Fp) (hi : i < n) : ((List.range n).map f).getD i [] = f i := by
    simp [List.getD_eq_getElem?_getD, hi]
  rw [TileJob.pairs, List.map_flatMap, List.flatMap_def, List.flatMap_def]
  refine congrArg _ (List.map_congr_left fun i hi => ?_)
  rw [List.map_map]
  refine List.map_congr_left fun c hc => ?_
  simp only [Function.comp_apply]
  rw [hrow _ (List.mem_range.mp hi), hrow _ (List.mem_range.mp hc)]
  simp only [TileOperand.values, List.zipWith_map, List.zipWith_self]
  rfl

/-- A regular unit of MMA and MMAS (R167). -/
theorem tileUnit_product {k0 k1 : Nat} {da db : List (List Byte)} (hop : j.op = .mma ∨ j.op = .mmas) (hd : j.done < j.regularSteps)
    (hk0 : k0 = j.done * stepDepth j.fmtA j.fmtB) (hk1 : k1 = min j.opA.depth (k0 + stepDepth j.fmtA j.fmtB))
    (hA : gatherRanges user (j.opA.stepRanges k0 k1 true false) [] s = .got da t)
    (hB : gatherRanges user (j.opB.stepRanges k0 k1 true false) [] t = .got db u) :
    tileUnit user j x s = .ok (x.step u.fresh ((List.range j.opA.rows).flatMap (fun i => (List.range j.opB.rows).map (fun c =>
      (32 * i + c, (List.range (k1 - k0)).map (fun k => Fp.mul (j.opA.value k0 da i k) (j.opB.value k0 db c k))))))) u.used := by
  have hunit : tileUnit user j x s = productUnit user j x s := by rcases hop with h | h <;> rw [tileUnit, h]
  rw [hunit, productUnit, if_pos hd, regularUnit_steps hk0 hk1 hA hB, TileJob.products_eq]

theorem tileUnit_mres_past (hop : j.op = .mres) (hd : geoM (j.win.getD 0 0) ≤ j.done) : tileUnit user j x s = .ok x s := by
  rw [tileUnit, hop]
  exact if_pos hd

theorem tileUnit_mres_row {l : List Byte} (hop : j.op = .mres) (hd : j.done < geoM (j.win.getD 0 0))
    (hw : s.engineWriteRange user (adv j.pa (j.done * geoA (j.win.getD 1 0) : Nat)) ((List.range (geoN (j.win.getD 0 0))).flatMap (fun c =>
      toBytes (fmtBits j.fmtO / 8) (x.resolve (32 * j.done + c) j.fmtO))) = .done l t) : tileUnit user j x s = .ok x t := by
  rw [tileUnit, hop]
  simp only [Nat.not_le.mpr hd, if_false, hw, writeUnit]

theorem tileUnit_mmerge {canon av : Bool} {a : Int} {l : List Byte} (hop : j.op = .mmerge)
    (hh : parseHeader (j.win.getD 0 0).toNat = some (canon, av, a))
    (hr : s.engineReadRange user (adv j.pa (16 + 32 * recordBytes canon * j.done : Nat)) (32 * recordBytes canon) = .done l t) :
    tileUnit user j x s = .ok (x.merge t.fresh av a (rowValues canon j.done l)) t.used := by
  rw [tileUnit, hop]
  simp only [hh, rowThen_done hr]

end

/-! ## Results (R94) -/

/-- The output formats with an encoding of IEEE 754, each under its code (R63). -/
def ieeeOutputs : List (Nat × IeeeFmt) := [(1, fp32), (2, bf16), (3, fp16)]

theorem ieeeOutputs_special : ∀ p ∈ ieeeOutputs,
    p.1 ≠ 4 ∧ p.2.decode (fmtNan p.1) = .nan ∧ ∀ neg, p.2.decode (fmtInf p.1 neg) = .inf neg := by decide

theorem ieeeOutputs_round : ∀ p ∈ ieeeOutputs, ∀ neg m e, fmtRound p.1 .rn neg m 1 e = p.2.round .rn (.fin neg m e) := by
  simp only [ieeeOutputs, List.forall_mem_cons]
  exact ⟨fun _ _ _ => rfl, fun _ _ _ => rfl, fun _ _ _ => rfl, nofun⟩

section
variable {x : Tile} {i code : Nat}

theorem Tile.resolve_nan (h : (x.elem i).nan = true ∨ ((x.elem i).infp = true ∧ (x.elem i).infn = true)) : x.resolve i code = fmtNan code :=
  if_pos (by simpa using h)

/-- An element that is no NaN, by its infinities. -/
theorem Tile.resolve_infinite (hn : (x.elem i).nan = false) (h : (x.elem i).infp ≠ (x.elem i).infn) :
    x.resolve i code = fmtInf code (x.elem i).infn := by
  cases hp : (x.elem i).infp with
  | true =>
    have hm : (x.elem i).infn = false := by simpa [hp] using h
    simp [Tile.resolve, hn, hp, hm]
  | false =>
    have hm : (x.elem i).infn = true := by simpa [hp] using h
    simp [Tile.resolve, hn, hp, hm]

/-- An element without a NaN or an infinity, by its overflow, its value and the anchor. -/
theorem Tile.resolve_finite (hc : code ≠ 4) (hn : (x.elem i).nan = false) (hp : (x.elem i).infp = false) (hm : (x.elem i).infn = false) :
    x.resolve i code = if (x.elem i).ovf then fmtInf code ((x.elem i).int < 0) else if !x.av || (x.elem i).v = 0 then 0
      else fmtRound code .rn ((x.elem i).int < 0) (x.elem i).int.natAbs 1 (x.a - 64) := by
  simp [Tile.resolve, hc, hn, hp, hm]

end

/-- Settles O28: the first instruction of the round by its turn and by a mismatch; the units by their words; results by the element. -/
theorem engineUnits : Obligations.EngineUnits := by
  refine ⟨fun s u cl e j rest x hjobs hlive hturn => ?round,
    fun s user j x => ⟨tileUnit_mzero, tileUnit_manchor_first, fun hop hav hup => ?anchor, fun hop => ?mresc⟩,
    fun s t u user j x da db l => ⟨fun hop hd hA hB => ?product, fun hop => ⟨fun hd => ?past, fun hd hw => ?row⟩,
      fun canon av a hop hh hr => tileUnit_mmerge hop hh hr⟩,
    fun x i code fmt h => ?results⟩
  case round =>
    have hserves : s.serves cl e j rest := ⟨hjobs, hlive, hturn⟩
    intro who t quiet counted leaves
    refine ⟨hserves.quietUnit, hserves.leaves, fun hd hq hop hu => ?_⟩
    have hst : j.steps = true := by simpa [TileJob.steps] using hop
    exact ⟨fun hr => hserves.firstMismatch hd hq hst hr hu, fun hr hroom hopen => hserves.secondMismatch hd hq hst hr hroom hopen hu⟩
  case anchor =>
    refine ⟨_, tileUnit_manchor_up hop hav, ?_, hav, rfl, rfl, fun p hp hovf => Tile.mem_rebase hp hovf⟩
    exact (Tile.rebase_a x _).trans (by rw [Int.toNat_of_nonneg (Int.sub_nonneg.mpr hup)]; omega)
  case mresc =>
    refine ⟨_, tileUnit_mresc hop, rfl, ?keeps, fun p hp hlo hhi => ?carry⟩
    case keeps =>
      rw [List.map_map]
      exact List.map_congr_left fun p _ => clearCarries_keeps _ p
    case carry =>
      obtain ⟨q, -, rfl⟩ := List.mem_map.mp hp
      exact clearCarries_carry hlo hhi
  case product =>
    exact tileUnit_product hop hd rfl rfl ((congrArg (gatherRanges user · [] s) (TileOperand.stepRanges_values ..)).trans hA)
      ((congrArg (gatherRanges user · [] t) (TileOperand.stepRanges_values ..)).trans hB)
  case past => exact tileUnit_mres_past hop (by simpa [geoM, bits] using hd)
  case row => exact tileUnit_mres_row hop (by simpa [geoM, bits] using hd) (by simpa [geoA, geoN, bits] using hw)
  case results =>
    obtain ⟨hcode, hnan, hinf⟩ := ieeeOutputs_special _ h
    dsimp only at hcode hnan hinf
    refine ⟨fun hn => ?nan, fun hn hp hm => ?positive, fun hn hp hm => ?negative, fun hn hp hm => ?finite⟩
    case nan => rw [Tile.resolve_nan hn, hnan]
    case positive => rw [Tile.resolve_infinite hn (by rw [hp, hm]; decide), hinf, hm]
    case negative => rw [Tile.resolve_infinite hn (by rw [hp, hm]; decide), hinf, hm]
    case finite =>
      rw [Tile.resolve_finite hcode hn hp hm]
      refine ⟨fun hovf => ?_, fun hovf hv => ?_, fun hovf hv hav => ?_⟩
      · rw [if_pos hovf, hinf]
      · simp [hovf, hv]
      · rw [if_neg (ne_true_of_eq_false hovf), if_neg (by simpa [hav] using hv), ieeeOutputs_round _ h]

end Sys2Proof.Machine
end

section
/-!
PROOFS. The steps of a lane (spec/09_automaton_instr.md R188, R189): the fields of an entry, and what an entry does to a lane.
-/
namespace Sys2Proof.Machine

/-- The low bits of a number, as `bits` reads them. -/
theorem bits_from_zero (n hi : Nat) : bits n hi 0 = n % 2 ^ (hi + 1) := by rw [bits, Nat.pow_zero, Nat.div_one, Nat.sub_zero]

theorem bit_eq_true {n i : Nat} : bit n i = true ↔ n / 2 ^ i % 2 = 1 := beq_iff_eq

theorem bit_eq_false {n i : Nat} : bit n i = false ↔ n / 2 ^ i % 2 = 0 := by
  rw [← Bool.not_eq_true, bit_eq_true]
  omega

/-- A well-formed entry, by the fields of its word. -/
theorem entryOk_iff {i : Image} {e : Nat} : entryOk i e = true ↔ e / 2 ^ 28 % 16 = 0 ∧ e % 2 ^ 16 < i.n ∧
    (i.pda = true ∨ (e / 2 ^ 18 % 4 = 0 ∧ e / 2 ^ 20 % 2 ^ 8 = 0)) ∧
    (e / 2 ^ 18 % 4 = 1 ∨ e / 2 ^ 18 % 4 = 3 → 1 ≤ e / 2 ^ 20 % 2 ^ 8 ∧ e / 2 ^ 20 % 2 ^ 8 < i.t) := by
  simp only [entryOk, entNext, bits_from_zero, Bool.and_eq_true, Bool.or_eq_true, Bool.not_eq_true', decide_eq_true_eq, and_assoc,
    ← Bool.not_eq_true, ← Decidable.imp_iff_not_or]
  rfl

section
variable {i : Image} {l : Lane} {e : Nat}

/-- A malformed entry is not stepped. -/
theorem stepLane_malformed (h : ¬ entryOk i e = true) : stepLane i l e = .malformed := by simp [stepLane, h]

/-- A rejecting entry. -/
theorem stepLane_rejecting (h : entryOk i e = true) (hr : entRej e = true) : stepLane i l e = .moved { l with rej := true } false := by
  simp [stepLane, h, hr]

/-- A push on a full stack. -/
theorem stepLane_overflow (h : entryOk i e = true) (hr : entRej e = false) (ha : entAct e = 1) (hl : l.stack.length = i.limit) :
    stepLane i l e = .overflow := by
  simp [stepLane, h, hr, ha, hl]

/-- A pop or replace on an empty stack rejects. -/
theorem stepLane_empty (h : entryOk i e = true) (hr : entRej e = false) (ha : 2 ≤ entAct e) (hl : l.stack = []) :
    stepLane i l e = .moved { l with rej := true } false := by
  have hact : entAct e ≠ 1 := by omega
  simp [stepLane, h, hr, ha, hact, hl]

/-- The stack after an action that it allows. -/
def actedStack (act sym : Nat) (st : List Nat) : List Nat :=
  match act with
  | 0 => st
  | 1 => sym :: st
  | 2 => st.tail
  | _ => sym :: st.tail

/-- An action that the stack allows goes to the entry's next state. -/
theorem stepLane_moves (h : entryOk i e = true) (hr : entRej e = false) (hpush : entAct e = 1 → l.stack.length ≠ i.limit)
    (hpop : 2 ≤ entAct e → l.stack ≠ []) :
    stepLane i l e = .moved { l with state := entNext e, stack := actedStack (entAct e) (entSym e) l.stack } (entEmit e) := by
  have hfull : ¬ (entAct e = 1 ∧ l.stack.length = i.limit) := fun ⟨ha, hl⟩ => hpush ha hl
  have hempty : ¬ (2 ≤ entAct e ∧ l.stack = []) := fun ⟨ha, hl⟩ => hpop ha hl
  simp only [stepLane, h, hr, hfull, hempty, Bool.not_true, Bool.false_eq_true, if_false]
  rfl

/-- An action other than a push makes no stack deeper. -/
theorem length_actedStack {act sym : Nat} {st : List Nat} (hpush : act ≠ 1) (hpop : 2 ≤ act → st ≠ []) :
    (actedStack act sym st).length ≤ st.length := by
  match act, st with
  | 0, _ => exact Nat.le_refl _
  | 1, _ => exact absurd rfl hpush
  | 2, st => exact List.length_tail ▸ Nat.sub_le _ _
  | n + 3, [] => exact absurd rfl (hpop (Nat.le_add_left 2 (n + 1)))
  | n + 3, t :: st => exact Nat.le_refl _

/-- A step keeps a depth within the limit. -/
theorem stepLane_depth {m : Lane} {b : Bool} (hm : stepLane i l e = .moved m b) (hl : l.stack.length ≤ i.limit) :
    m.stack.length ≤ i.limit := by
  by_cases h : entryOk i e = true
  case neg => cases (stepLane_malformed h).symm.trans hm
  cases hr : entRej e with
  | true =>
    cases (stepLane_rejecting h hr).symm.trans hm
    exact hl
  | false =>
    by_cases hfull : entAct e = 1 ∧ l.stack.length = i.limit
    · cases (stepLane_overflow h hr hfull.1 hfull.2).symm.trans hm
    by_cases hempty : 2 ≤ entAct e ∧ l.stack = []
    · cases (stepLane_empty h hr hempty.1 hempty.2).symm.trans hm
      exact hl
    have hpop (ha : 2 ≤ entAct e) : l.stack ≠ [] := fun hs => hempty ⟨ha, hs⟩
    cases (stepLane_moves h hr (fun ha hs => hfull ⟨ha, hs⟩) hpop).symm.trans hm
    change (actedStack (entAct e) (entSym e) l.stack).length ≤ i.limit
    by_cases ha : entAct e = 1
    · rw [ha]
      exact Nat.lt_of_le_of_ne hl fun hs => hfull ⟨ha, hs⟩
    · exact Nat.le_trans (length_actedStack ha hpop) hl

end

/-- Settles O31: a step by what its entry is, and by what the stack allows. -/
theorem automatonSteps : Obligations.AutomatonSteps := by
  intro i l e act sym ok
  have hact : entAct e = act := rfl
  have hnext : entNext e = e % 2 ^ 16 := bits_from_zero e 15
  refine ⟨fun h => stepLane_malformed (mt entryOk_iff.mp h), fun h hr => stepLane_rejecting (entryOk_iff.mpr h) (bit_eq_true.mpr hr),
    fun h hr => ?steps, fun m b hm hl => stepLane_depth hm hl⟩
  have hok := entryOk_iff.mpr h
  have hrej : entRej e = false := bit_eq_false.mpr hr
  have moves (hpush : act = 1 → l.stack.length ≠ i.limit) (hpop : 2 ≤ act → l.stack ≠ []) :
      stepLane i l e = .moved { l with state := e % 2 ^ 16, stack := actedStack act sym l.stack } (bit e 16) :=
    hnext ▸ stepLane_moves hok hrej hpush hpop
  refine ⟨fun ha hl => stepLane_overflow hok hrej ha hl, fun ha hl => stepLane_empty hok hrej ha hl, fun ha => ?keep, fun ha hl => ?push,
    fun t st hl => ⟨fun ha => ?pop, fun ha => ?replace⟩⟩
  case keep => exact (moves (by omega) (by omega)).trans (by rw [ha]; rfl)
  case push => exact (moves (fun _ => hl) (by omega)).trans (by rw [ha]; rfl)
  case pop => exact (moves (by omega) (fun _ => by rw [hl]; exact List.cons_ne_nil t st)).trans (by rw [ha, hl]; rfl)
  case replace => exact (moves (by omega) (fun _ => by rw [hl]; exact List.cons_ne_nil t st)).trans (by rw [ha, hl]; rfl)

end Sys2Proof.Machine
end

section
/-!
PROOFS. The lane words of a group that the slot owns (spec/09_automaton_instr.md R183, R190, R192 to R194, R205).
-/
namespace Sys2Proof.Machine

section
variable {i : Instr} {g : Fin 8} {x : LaneGroup} {s : State}

/-- The slot's own group passes the check of R183. -/
theorem groupThen_owned {body : Nat → LaneGroup → State → Out} (h : ownsGroup s g x) :
    groupThen g s body = body (effGroup s.thr g) x s := by
  obtain ⟨rfl, howner⟩ := h
  exact if_pos howner

/-- A word that may run, of a group that the slot owns, goes to what it does with the group. -/
theorem groupWord_ok {body : Nat → LaneGroup → State → Out} (hrun : mayRun i s) (h : ownsGroup s g x) :
    issue i s (fun s => groupThen g s body) = body (effGroup s.thr g) x s := (issue_ok hrun).trans (groupThen_owned h)

/-- AUTO_STACK of an instruction that has stepped no symbol enters the user handler where there is one (R205, R237). -/
theorem stackTrap_trapped (n G lane : Nat) {sym : Nat} (hsym : sym < 2 ^ 18) (h : takesUser s) :
    stackTrapped (sym * 2 ^ 16 + G * 2 ^ 12 + lane * 2 ^ 8 + 0x08) s (stackTrap n (stackCause 0 sym G lane) s.thr.following s) := by
  have hcause : stackCause 0 sym G lane = BitVec.ofNat 64 (sym * 2 ^ 16 + G * 2 ^ 12 + lane * 2 ^ 8 + 0x08) := by
    rw [stackCause, Nat.zero_mod, Nat.zero_mul, Nat.zero_add, Nat.mod_eq_of_lt hsym]
  rw [hcause]
  exact ⟨_, if_pos h, rfl, rfl, rfl, rfl, rfl, rfl⟩

/-- ASET by what its lanes describe (R192). -/
theorem exec_aset {a b : Reg} (hrun : mayRun (.aset a b g) s) (hown : ownsGroup s g x) : exec (.aset a b g) s =
    match asetLanes x.img x.lanes ((laneNats (s.thr.vreg a)).zip (laneNats (s.thr.vreg b))) with
    | none => fault .operand 0 none s
    | some ls => .next ((s.putGroup (effGroup s.thr g) { x with lanes := ls }).passed 8) := groupWord_ok hrun hown

/-! ## APUSH (R193) -/

/-- A lane that pushes is a lane of the group with its symbol, neither passed over nor rejected. -/
theorem mem_pushers {ls : List Lane} {ws : List Nat} {p : Nat × Lane × Nat} (h : p ∈ pushers ls ws) :
    p.2 ∈ ls.zip ws ∧ ¬ (p.2.2 / 2 ^ 31 % 2 = 1 ∨ p.2.1.rej = true) := by
  obtain ⟨hmem, hgo⟩ := List.mem_filter.mp h
  rw [Bool.and_eq_true, Bool.not_eq_true', Bool.not_eq_true', bit_eq_false] at hgo
  refine ⟨(List.of_mem_zip hmem).2, ?_⟩
  rintro (hbit | hrej)
  · omega
  · exact absurd (hrej.symm.trans hgo.2) nofun

/-- What holds of every lane that takes part holds of every lane that pushes. -/
theorem forall_pushers {ls : List Lane} {ws : List Nat} {P : Lane × Nat → Prop}
    (h : ∀ p ∈ ls.zip ws, (p.2 / 2 ^ 31 % 2 = 1 ∨ p.1.rej = true) ∨ P p) : ∀ p ∈ pushers ls ws, P p.2 := fun p hp =>
  have ⟨hmem, hgo⟩ := mem_pushers hp
  (h p.2 hmem).resolve_left hgo

/-- APUSH of symbols of the image: the first lane at its limit traps, else all push. -/
theorem exec_apush {a : Reg} (hrun : mayRun (.apush a g) s) (hown : ownsGroup s g x) (hpda : x.img.pda = true)
    (hsym : ∀ p ∈ pushers x.lanes (laneNats (s.thr.vreg a)), p.2.2 / 2 ^ 8 % 2 ^ 23 = 0 ∧ 1 ≤ p.2.2 % 256 ∧ p.2.2 % 256 < x.img.t) :
    exec (.apush a g) s =
      match (pushers x.lanes (laneNats (s.thr.vreg a))).find? (fun p => decide (x.img.limit ≤ p.2.1.stack.length)) with
      | some p => stackTrap 8 (stackCause 0 (p.2.2 % 256) (effGroup s.thr g) p.1) s.thr.following s
      | none => .next ((s.putGroup (effGroup s.thr g) { x with lanes := (x.lanes.zip (laneNats (s.thr.vreg a))).map (fun p =>
          if bit p.2 31 || p.1.rej then p.1 else { p.1 with stack := p.2 % 256 :: p.1.stack }) }).passed 8) := by
  have hgood : (pushers x.lanes (laneNats (s.thr.vreg a))).any
      (fun p => bits p.2.2 30 8 != 0 || p.2.2 % 256 = 0 || decide (x.img.t ≤ p.2.2 % 256)) = false := by
    rw [List.any_eq_false]
    intro p hp
    obtain ⟨hhigh, hpos, hlt⟩ := hsym p hp
    have hbits : bits p.2.2 30 8 = 0 := hhigh
    have hzero : p.2.2 % 256 ≠ 0 := by omega
    simp [hbits, hzero, hlt]
  refine (groupWord_ok hrun hown).trans ?_
  simp only [hpda, hgood, Bool.not_true, Bool.or_self, Bool.false_eq_true, if_false]
  rfl

/-! ## ATOK (R194) -/

/-- ATOK whose symbols are well formed and whose lanes all move or overflow. -/
theorem exec_atok {a : Reg} {ms : List LaneMove} {u : State} (hrun : mayRun (.atok a g) s) (hown : ownsGroup s g x)
    (hsym : ∀ w ∈ laneNats (s.thr.vreg a), w / 2 ^ 31 % 2 = 1 ∨ symbolBad x.img w = false)
    (hmoves : laneMoves (s.engineUser s.thr.id s.thr.node) x
      (x.lanes.zip ((laneNats (s.thr.vreg a)).map (fun w => if bit w 31 then none else some (w % 2 ^ 18)))) [] s = .ok (ms, u)) :
    exec (.atok a g) s = match overflowing ms with
      | some j => stackTrap 16 (stackCause 0 ((laneNats (s.thr.vreg a)).getD j 0 % 2 ^ 18) (effGroup s.thr g) j) u.thr.following u
      | none => .next ((u.putGroup (effGroup s.thr g) { x with lanes := movedLanes x.lanes ms }).passedWithin 16 1016) := by
  have hgood : ((List.range 16).zip (laneNats (s.thr.vreg a))).find? (fun p => !bit p.2 31 && symbolBad x.img p.2) = none := by
    rw [List.find?_eq_none]
    intro p hp
    rcases hsym p.2 (List.of_mem_zip hp).2 with hover | hok
    · simp [bit_eq_true.mpr hover]
    · simp [hok]
  refine (groupWord_ok hrun hown).trans ?_
  simp only [hgood, hmoves, bits_from_zero]
  rfl

end

/-- Settles O30: each word by what its lanes meet; the stack traps by the first lane that has no room. -/
theorem automatonLaneWords : Obligations.AutomatonLaneWords := by
  intro s a b d g x hown G put wa wb free symOk
  refine ⟨fun ls hrun hls => ?aset, fun hrun hh hls => ?asetBad, fun hrun => groupWord_ok hrun hown, fun hrun hpda hlanes => ?apush,
    fun p hrun huser hpda hlanes hfull => ?apushFull, fun hrun hpda => ?apop, fun ms u hrun hsym hlen hmoves => ⟨fun hroom => ?atok,
      fun j hover huser hthr => ?atokFull⟩⟩
  case aset => rw [exec_aset hrun hown, hls]
  case asetBad =>
    rw [exec_aset hrun hown, hls]
    exact fault_open hh
  case apush =>
    have hgo := forall_pushers hlanes
    have hroom : (pushers x.lanes wa).find? (fun p => decide (x.img.limit ≤ p.2.1.stack.length)) = none :=
      List.find?_eq_none.mpr fun p hp => by simpa using (hgo p hp).2
    rw [exec_apush hrun hown hpda fun p hp => (hgo p hp).1, hroom]
  case apushFull =>
    rw [exec_apush hrun hown hpda (forall_pushers hlanes), hfull]
    exact stackTrap_trapped 8 G p.1 (Nat.lt_trans (Nat.mod_lt p.2.2 (by decide)) (by decide)) huser
  case apop => exact (groupWord_ok hrun hown).trans (if_neg (by rw [hpda]; decide))
  case atok => rw [exec_atok hrun hown hsym hmoves, hroom]
  case atokFull =>
    rw [exec_atok hrun hown hsym hmoves, hover]
    exact stackTrap_trapped 16 G j (Nat.mod_lt (wa.getD j 0) (by decide)) huser

end Sys2Proof.Machine
end

section
/-!
PROOFS. The maps of ASTEPX (spec/09_automaton_instr.md R200 to R202): what a lane of ACOMP composes, and what ASEL finds.
-/
namespace Sys2Proof.Machine

/-- The lane of a second map that a composed lane goes on with: the first valid one that starts where the lane ends (R201). -/
def nextLane (L : List (Nat × Nat)) (x : Nat × Nat) : Option (Nat × Nat) := L.find? (fun y => mapV y && mapStart y = mapEnd x)

section
variable {L : List (Nat × Nat)} {x y : Nat × Nat}

/-- The odd word of a lane that goes on with another (R200, R201), its miss bit given. -/
def composedOdd (x y : Nat × Nat) (miss : Bool) : Nat :=
  2 ^ 31 + miss.toNat * 2 ^ 30 + bits y.2 29 29 * 2 ^ 29 + bits x.2 28 24 * 2 ^ 24 + min (bits x.2 23 20 + bits y.2 23 20) 8 * 2 ^ 20
    + bits x.2 19 8 * 2 ^ 8 + min 255 (bits x.2 7 0 + bits y.2 7 0)

theorem composeLane_invalid (hv : mapV x = false) : composeLane L x = (0, 0) := by
  simp [composeLane, hv]

/-- Rejected or missed: bit 29 or bit 30 is set. -/
theorem mapStops_iff (n : Nat) : (bit n 29 || bit n 30) = true ↔ n / 2 ^ 29 % 4 ≠ 0 := by
  rw [Bool.or_eq_true, bit_eq_true, bit_eq_true]
  omega

theorem composeLane_stops (hv : mapV x = true) (hs : x.2 / 2 ^ 29 % 4 ≠ 0) : composeLane L x = x := by
  simp only [composeLane, hv, (mapStops_iff x.2).mpr hs, Bool.not_true, Bool.false_eq_true, if_false, if_true]

theorem composeLane_goes (hv : mapV x = true) (hs : x.2 / 2 ^ 29 % 4 = 0) : composeLane L x = match nextLane L x with
    | none => (x.1, bits x.2 31 31 * 2 ^ 31 + 2 ^ 30 + bits x.2 29 0)
    | some y => (bits x.1 31 16 * 2 ^ 16 + mapEnd y,
        composedOdd x y (bit y.2 30 || bit y.2 28 || decide (8 < bits x.2 23 20 + bits y.2 23 20))) := by
  have hstops : ¬ (bit x.2 29 || bit x.2 30) = true := fun h => (mapStops_iff x.2).mp h hs
  simp only [composeLane, hv, hstops, Bool.not_true, Bool.false_eq_true, if_false]
  rfl

/-- A miss: bit 30 is added to the odd word. -/
theorem composeLane_misses (hx : x.2 < 2 ^ 32) (hv : mapV x = true) (hs : x.2 / 2 ^ 29 % 4 = 0) (hn : nextLane L x = none) :
    composeLane L x = (x.1, x.2 + 2 ^ 30) := by
  have hodd : bits x.2 31 31 * 2 ^ 31 + 2 ^ 30 + bits x.2 29 0 = x.2 + 2 ^ 30 := by
    unfold bits
    omega
  rw [composeLane_goes hv hs, hn, hodd]

theorem composeLane_hits (hv : mapV x = true) (hs : x.2 / 2 ^ 29 % 4 = 0) (hy : nextLane L x = some y) :
    composeLane L x = (bits x.1 31 16 * 2 ^ 16 + mapEnd y,
      composedOdd x y (bit y.2 30 || bit y.2 28 || decide (8 < bits x.2 23 20 + bits y.2 23 20))) := by
  rw [composeLane_goes hv hs, hy]

/-- The composed lane starts where the first one does and ends where the second one does. -/
theorem composedEven_fields (n : Nat) : bits (bits n 31 16 * 2 ^ 16 + mapEnd y) 31 16 = bits n 31 16 ∧
    bits (bits n 31 16 * 2 ^ 16 + mapEnd y) 15 0 = mapEnd y := by
  unfold mapEnd bits
  omega

/-- The top bits and the lowest byte of a number of such fields. -/
theorem oddWord_fields {m r a p e n : Nat} (hm : m < 2) (hr : r < 2) (ha : a < 2 ^ 5) (hp : p < 2 ^ 4) (he : e < 2 ^ 12) (hn : n < 2 ^ 8)
    {w : Nat} (hw : w = 2 ^ 31 + m * 2 ^ 30 + r * 2 ^ 29 + a * 2 ^ 24 + p * 2 ^ 20 + e * 2 ^ 8 + n) :
    w / 2 ^ 31 % 2 = 1 ∧ w / 2 ^ 30 % 2 = m ∧ w / 2 ^ 29 % 2 = r ∧ w % 2 ^ 8 = n := by
  omega

/-- The fields of the odd word (R200). -/
theorem composedOdd_fields (x y : Nat × Nat) (miss : Bool) : bit (composedOdd x y miss) 31 = true ∧
    bit (composedOdd x y miss) 30 = miss ∧ bit (composedOdd x y miss) 29 = bit y.2 29 ∧
    composedOdd x y miss % 2 ^ 8 = min 255 (x.2 % 2 ^ 8 + y.2 % 2 ^ 8) := by
  have hpush : min (bits x.2 23 20 + bits y.2 23 20) 8 < 2 ^ 4 := Nat.lt_of_le_of_lt (Nat.min_le_right _ _) (by decide)
  have hsum : min 255 (bits x.2 7 0 + bits y.2 7 0) < 2 ^ 8 := Nat.lt_of_le_of_lt (Nat.min_le_left _ _) (by decide)
  obtain ⟨h31, h30, h29, hlow⟩ := oddWord_fields (Bool.toNat_lt miss) (bits_lt y.2 29 29) (bits_lt x.2 28 24) hpush (bits_lt x.2 19 8)
    hsum (w := composedOdd x y miss) rfl
  rw [bits_from_zero, bits_from_zero] at hlow
  exact ⟨bit_eq_true.mpr h31, Laws.Roundtrip.bit_of h30, Laws.Roundtrip.bit_of (h29.trans (bit_toNat y.2 29).symm), hlow⟩

end

/-- A state of more than 16 bits has a bit above them. -/
theorem bits_above_sixteen (v : DWord) : bits v.toNat 63 16 ≠ 0 ↔ 2 ^ 16 ≤ v.toNat := by
  have := v.isLt
  unfold bits
  omega

/-- What ASEL writes by the lane it finds. -/
theorem selectLanes_found {m : List (Nat × Nat)} {v : Nat} {x : Nat × Nat} (h : m.find? (fun x => mapV x && mapStart x = v) = some x) :
    selectLanes m v = [BitVec.ofNat 32 (m.findIdx (fun x => mapV x && mapStart x = v)), BitVec.ofNat 32 x.1, BitVec.ofNat 32 x.2] ++
      List.replicate 13 0 := by
  simp only [selectLanes, h]

theorem selectLanes_absent {m : List (Nat × Nat)} {v : Nat} (h : m.find? (fun x => mapV x && mapStart x = v) = none) :
    selectLanes m v = [BitVec.allOnes 32, 0, BitVec.ofNat 32 (2 ^ 30)] ++ List.replicate 13 0 := by
  simp only [selectLanes, h]
  rfl

/-- ASEL by its state: 16 bits, or wider (R202). -/
theorem exec_asel {d a b : Reg} {s : State} (hrun : mayRun (.asel d a b) s) : exec (.asel d a b) s =
    if 2 ^ 16 ≤ (s.thr.sreg b).toNat then fault .operand 0 none s
    else .next ((s.setV d (ofLanes (selectLanes (mappingLanes s.thr a) (s.thr.sreg b).toNat))).passed 16) :=
  (issue_ok hrun).trans (ite_congr (propext (bits_above_sixteen _)) (fun _ => rfl) (fun _ => rfl))

/-- Settles O32: a lane of ACOMP by whether it is valid, stops, misses or goes on; ASEL by the width of its state and what it finds. -/
theorem automatonMapWords : Obligations.AutomatonMapWords := by
  intro s d a b A B v
  refine ⟨fun hrun => issue_ok hrun, fun L x h1 h2 => ?compose, ?select, fun hrun hh hv => ?wide⟩
  case compose =>
    intro r hit
    refine ⟨fun hv => composeLane_invalid hv, fun hv hs => composeLane_stops hv hs, fun hv hs hn => composeLane_misses h2 hv hs hn,
      fun y hv hs hy => ?_⟩
    obtain ⟨hstart, hend⟩ := composedEven_fields (y := y) x.1
    obtain ⟨hvalid, hmiss, hrej, hemits⟩ :=
      composedOdd_fields x y (bit y.2 30 || bit y.2 28 || decide (8 < bits x.2 23 20 + bits y.2 23 20))
    rw [show r = _ from composeLane_hits hv hs hy]
    refine ⟨hvalid, hstart, hend, hemits, hrej, ?_⟩
    rw [hmiss, Bool.or_eq_true, Bool.or_eq_true, decide_eq_true_eq, or_assoc]
    rfl
  case select =>
    intro m hit hrun hv
    rw [exec_asel hrun, if_neg (Nat.not_le.mpr hv)]
    exact ⟨fun x hx => by rw [selectLanes_found hx], fun hnone => by rw [selectLanes_absent hnone]⟩
  case wide =>
    rw [exec_asel hrun, if_pos hv]
    exact fault_open hh

end Sys2Proof.Machine
end

section
/-!
PROOFS. Mask rows, and the binding of an image to a group (spec/09_automaton_instr.md R183 to R187, R203, R204; spec/01_machine_state.md
R36).
-/
namespace Sys2Proof.Machine

/-! ## Mask rows (R203) -/

/-- The mask row r of the group's lane y, and the state u in which it has been read: zeros for a rejected lane. -/
def maskRow (s u : State) (x : LaneGroup) (y : Lane) (r : List Byte) : Prop :=
  (y.rej = true ∧ u = s ∧ r = List.replicate x.img.maskBytes 0) ∨
  (y.rej = false ∧ ∃ l, maskSegments (s.engineUser s.thr.id s.thr.node) x (maskOff x.img y) (List.range (ceilDiv x.img.v 512)) [] s =
    .ok (l, u) ∧ r = clipRow x.img.v l)

section
variable {i : Instr} {g : Fin 8} {x : LaneGroup} {s u : State} {b : Reg} {r : List Byte}

/-- AMASK and AFORCE go on with the row of the lane that they name. -/
theorem maskWord_ok {body : LaneGroup → List Byte → State → Out} (hrun : mayRun i s) (hown : ownsGroup s g x)
    (hlane : (s.thr.sreg b).toNat < 16) (hmask : x.img.mask ≠ 0) (hrow : maskRow s u x (x.lanes.getD (s.thr.sreg b).toNat Lane.zero) r) :
    issue i s (fun s => maskThen g b s body) = body x r u := by
  have hgood : ¬ (16 ≤ (s.thr.sreg b).toNat ∨ x.img.mask = 0) := not_or.mpr ⟨Nat.not_le.mpr hlane, hmask⟩
  refine (groupWord_ok hrun hown).trans ((if_neg hgood).trans ?_)
  rcases hrow with ⟨hrej, rfl, rfl⟩ | ⟨hrej, l, hl, rfl⟩
  · exact if_pos hrej
  · refine (if_neg (ne_true_of_eq_false hrej)).trans ?_
    simp only [hl]

/-- AFORCE of a lane of a group with a mask table (R204). -/
theorem exec_aforce {d : Reg} (hrun : mayRun (.aforce d b g) s) (hown : ownsGroup s g x) (hlane : (s.thr.sreg b).toNat < 16)
    (hmask : x.img.mask ≠ 0) (hrow : maskRow s u x (x.lanes.getD (s.thr.sreg b).toNat Lane.zero) r) : exec (.aforce d b g) s =
      .next ((u.setS d (forcedToken r)).passedWithin (8 + ceilDiv x.img.v 512) (8 + 1001 * ceilDiv x.img.v 512)) :=
  maskWord_ok hrun hown hlane hmask hrow

/-- AMASK of a lane of a group with a mask table, once its segments are written and performed (R203): its range is checked at the first
issue. -/
theorem exec_amask {p : PReg} {v w : State} (hrun : mayRun (.amask p b g) s) (hown : ownsGroup s g x) (hlane : (s.thr.sreg b).toNat < 16)
    (hmask : x.img.mask ≠ 0) (hrow : maskRow s u x (x.lanes.getD (s.thr.sreg b).toNat Lane.zero) r)
    (hrange : (u.thr.progress = 0 ∧ ptrAligned (u.thr.preg p) 64 = true ∧
      passes (rangeThen .slot (u.thr.preg p) r.length .engWrite true u) v) ∨ (0 < u.thr.progress ∧ v = u))
    (hwrites : passes (maskWrites (u.engineUser u.thr.id u.thr.node) (u.thr.preg p) (segments r) 0 v) w)
    (hout : w.writesOut (u.engineUser u.thr.id u.thr.node).who = false) : exec (.amask p b g) s =
      .next (w.passedWithin (8 + ceilDiv x.img.v 512) (908 + 1001 * ceilDiv x.img.v 512)) := by
  have hend : (if w.writesOut (u.engineUser u.thr.id u.thr.node).who then stallFor .fence w
      else retireWithin (8 + ceilDiv x.img.v 512) (908 + 1001 * ceilDiv x.img.v 512) w) =
      .next (w.passedWithin (8 + ceilDiv x.img.v 512) (908 + 1001 * ceilDiv x.img.v 512)) := if_neg (ne_true_of_eq_false hout)
  refine (maskWord_ok hrun hown hlane hmask hrow).trans ?_
  rcases hrange with ⟨hfirst, halign, hpass⟩ | ⟨hlater, rfl⟩
  · have haligned : ¬ (ptrUsable u.thr.id (u.thr.preg p) && !ptrAligned (u.thr.preg p) 64) = true := by simp [halign]
    exact (if_neg (by omega)).trans ((if_neg haligned).trans ((hpass _).trans ((hwrites _).trans hend)))
  · exact (if_pos hlater).trans ((hwrites _).trans hend)

end

/-! ## ALOAD (R36, R183 to R186) -/

/-- The owner of a group as the claims see it is the one that the group names. -/
theorem State.ownerOf_group (s : State) (cl G : Nat) : s.ownerOf cl (.group G) = (s.group cl G).owner := by
  show (s.groups.find? (fun p => p.1 = (cl, G))).bind (fun p => p.2.owner) = (s.group cl G).owner
  unfold State.group assocD
  cases s.groups.find? (fun p => p.1 = (cl, G)) <;> rfl

section
variable {s c u w : State} {G : Nat}

/-- A group that nobody owns and no other slot's word in flight has claimed may be claimed. -/
theorem freeGroup_claimable (hnone : (s.group (clusterOf s.thr.id.core) G).owner = none)
    (hself : ∀ x ∈ s.threads, clusterOf x.id.core = clusterOf s.thr.id.core → x.claims.contains (.group G) = true → x.id = s.thr.id) :
    s.claimable (clusterOf s.thr.id.core) (.group G) = true := by
  unfold State.claimable State.holder
  rw [State.ownerOf_group, hnone, Option.none_or]
  cases hx : s.threads.find? (fun x => clusterOf x.id.core = clusterOf s.thr.id.core && x.claims.contains (.group G)) with
  | none => rfl
  | some x =>
    have hp := List.find?_some hx
    rw [Bool.and_eq_true, decide_eq_true_eq] at hp
    exact decide_eq_true (hself x (List.mem_of_find?_eq_some hx) hp.1 hp.2)

/-- ALOAD goes on with a group that is the slot's, or that it claims (R36). -/
theorem groupClaimThen_ownsOrClaims {body : State → Out} (h : ownsOrClaimsGroup s G c) : groupClaimThen G s body = body c := by
  rcases h with ⟨hown, rfl⟩ | ⟨hnone, hself, rfl⟩
  · exact if_pos hown
  · have hown : (s.group (clusterOf s.thr.id.core) G).owner ≠ some s.thr.id := by rw [hnone]; exact nofun
    exact (if_neg hown).trans (if_pos (freeGroup_claimable hnone hself))

/-- A group that another slot owns is not to be had. -/
theorem groupClaimThen_foreign {body : State → Out} (hother : (s.group (clusterOf s.thr.id.core) G).owner ≠ none)
    (hown : (s.group (clusterOf s.thr.id.core) G).owner ≠ some s.thr.id) : groupClaimThen G s body = fault .operand 0 none s := by
  obtain ⟨id, hid⟩ := Option.ne_none_iff_exists'.mp hother
  have hclaim : s.claimable (clusterOf s.thr.id.core) (.group G) = false := by
    rw [State.claimable, State.holder, State.ownerOf_group, hid, Option.some_or]
    exact decide_eq_false fun h => hown (h ▸ hid)
  exact (if_neg hown).trans (if_neg (ne_true_of_eq_false hclaim))

/-- A claim touches no register. -/
theorem ownsOrClaimsGroup.thr_ws (h : ownsOrClaimsGroup s G c) : c.thr.ws = s.thr.ws := by
  rcases h with ⟨-, rfl⟩ | ⟨-, -, rfl⟩
  · rfl
  · unfold State.claimed
    split <;> rfl

/-- ALOAD goes on at the image that its binding names (R185), where what follows completes a word: a word that does not stall gives up
its turn at the directory. -/
theorem imageBase_named {img base : DWord} {hform : Bool} {t : State} {body : DWord → State → Out} (h : imageNamed img hform u base w)
    (ht : body base w = .next t) (hturn : t.thr.keepsTurn = false) : imageBase img hform u body = .next t := by
  rcases h with ⟨rfl, rfl, rfl⟩ | ⟨rfl, hdir, rfl, o, ho, hbase⟩
  · exact ht
  · simp only [imageBase, Bool.not_true, Bool.false_eq_true, if_false, directoryThen, hdir, if_true, ho, hbase, ht, hturn]

/-- A lease of the node over the whole image. -/
theorem grantFor_of_mem {n : Node} {va len : Nat} (h : ∃ x ∈ n.grants, x.base ≤ va ∧ va + len ≤ x.base + x.len) :
    grantFor n va len false = true := by
  obtain ⟨x, hx, hlo, hhi⟩ := h
  exact List.any_eq_true.mpr ⟨x, List.mem_filter.mpr ⟨hx, rfl⟩, by simp [hlo, hhi]⟩

end

/-- ALOAD whose binding record, image header and lease are in order (R185). -/
theorem exec_aload {p : PReg} {g : Fin 8} {s c u w v : State} {l h : List Byte} {img base xout : DWord} {hform : Bool} {xstr : Nat}
    {i : Image} {node : Node} (hrun : mayRun (.aload p g) s) (hown : ownsOrClaimsGroup s (effGroup s.thr g) c)
    (hrecord : yields (readThen (s.thr.preg p) 64 c) l u) (hbinding : parseBinding l = some (img, hform, xout, xstr))
    (hnamed : imageNamed img hform u base w) (hheader : yields (readThen base 64 w) h v) (himage : parseImage h = some i)
    (hnode : v.node? v.thr.node = some node)
    (hlease : ∃ x ∈ node.grants, x.base ≤ (ptrVa base).toNat ∧ (ptrVa base).toNat + i.len ≤ x.base + x.len) :
    exec (.aload p g) s = .next ((v.putGroup (effGroup s.thr g) { LaneGroup.zero with
      owner := some v.thr.id, base := base, img := i, xout := xout, xstr := xstr }).dropImages.passedWithin 16 1816) := by
  have hp : c.thr.preg p = s.thr.preg p := by rw [Thread.preg, hown.thr_ws]; rfl
  refine (issue_ok hrun).trans ((groupClaimThen_ownsOrClaims hown).trans ?_)
  dsimp only
  rw [hp, hrecord, hbinding]
  refine imageBase_named hnamed ?_ rfl
  rw [hheader, himage]
  simp only [hnode, grantFor_of_mem hlease, if_true]
  rfl

/-- Settles O33: AFORCE and AMASK by the row of their lane, ALOAD by the group, the binding, the image and the lease. -/
theorem automatonMasksAndImages : Obligations.AutomatonMasksAndImages := by
  intro s u v g x d b p l h j y user n row
  refine ⟨fun r hown hlane hmask hrow => ⟨fun hrun => exec_aforce hrun hown hlane hmask hrow, fun v w hrun hrange hwrites hout =>
    exec_amask hrun hown hlane hmask hrow hrange hwrites hout⟩, ?aload⟩
  case aload =>
    intro G old
    refine ⟨fun img hform base xout xstr i node c w hrun hown hrecord hbinding hnamed hheader himage hnode hlease =>
      exec_aload hrun hown hrecord hbinding hnamed hheader himage hnode hlease, fun hrun hh hother hown => ?foreign⟩
    case foreign =>
      have hexec : exec (.aload p g) s = fault .operand 0 none s := (issue_ok hrun).trans (groupClaimThen_foreign hother hown)
      exact hexec ▸ fault_open hh

end Sys2Proof.Machine
end

section
/-!
PROOFS. The streams of the Automaton Engine (spec/09_automaton_instr.md R195 to R197, R199, R209): their start, a symbol, and their end.
-/
namespace Sys2Proof.Machine

/-! ## The start (R196, R197, R199) -/

/-- A ring of the role that a word asks for, which may be used (R20, R136). -/
theorem ringThen_usable {r : QReg} {role : Nat} {s : State} {body : QWord → State → Out} (hq : s.qOk (s.thr.qreg r) = true)
    (hrole : qRole (s.thr.qreg r) = role) : ringThen r role (fun c => c) 0 s body = body (s.thr.qreg r) s :=
  if_neg (by simp [hq, hrole])

section
variable {s u v : State} {q : QReg} {o : Fin 16} {n : Fin 256} {g : Fin 8} {x : LaneGroup}

/-- A stream word whose group and input ring are in order goes on at the input's area. -/
theorem streamWord_ok {i : Instr} {body : Nat → LaneGroup → QWord → State → Out} (hrun : mayRun i s) (hown : ownsGroup s g x)
    (hq : s.qOk (s.thr.qreg q) = true) (hrole : qRole (s.thr.qreg q) = 1) (harea : passes (areaThen (qBase (s.thr.qreg q)) s) u) :
    issue i s (fun s => groupThen g s fun G x s => ringThen q 1 (fun c => c) 0 s fun d s => areaThen (qBase d) s fun s => body G x d s) =
      body (effGroup s.thr g) x (s.thr.qreg q) u :=
  (groupWord_ok hrun hown).trans ((ringThen_usable hq hrole).trans (harea _))

/-- ASTEP without output. -/
theorem exec_astep_silent (hrun : mayRun (.astep false o q n g) s) (hown : ownsGroup s g x) (hq : s.qOk (s.thr.qreg q) = true)
    (hrole : qRole (s.thr.qreg q) = 1) (harea : passes (areaThen (qBase (s.thr.qreg q)) s) u) : exec (.astep false o q n g) s =
      startStream (u.newStream (.astep false o q n g) (effGroup s.thr g) q none n.val none) u :=
  (streamWord_ok hrun hown hq hrole harea).trans (if_neg Bool.false_ne_true)

/-- ASTEP with an output ring. -/
theorem exec_astep_output (hrun : mayRun (.astep true o q n g) s) (hown : ownsGroup s g x) (hq : s.qOk (s.thr.qreg q) = true)
    (hrole : qRole (s.thr.qreg q) = 1) (harea : passes (areaThen (qBase (s.thr.qreg q)) s) u) (ho : u.qOk (u.thr.qreg o) = true)
    (horole : qRole (u.thr.qreg o) = 2) (hoarea : passes (areaThen (qBase (u.thr.qreg o)) u) v) : exec (.astep true o q n g) s =
      startStream (v.newStream (.astep true o q n g) (effGroup s.thr g) q (some o) n.val none) v :=
  (streamWord_ok hrun hown hq hrole harea).trans ((if_pos rfl).trans ((ringThen_usable ho horole).trans (hoarea _)))

/-- ASTEPX with room for the outputs of its lanes: the lanes that run stand at their starts. -/
theorem exec_astepx {d : Reg} (hrun : mayRun (.astepx d q n g) s) (hown : ownsGroup s g x) (hq : s.qOk (s.thr.qreg q) = true)
    (hrole : qRole (s.thr.qreg q) = 1) (harea : passes (areaThen (qBase (s.thr.qreg q)) s) u) (hroom : 4 * n.val ≤ x.xstr)
    (hxout : passes (areaThen x.xout u) v) :
    let runs := (x.lanes.zip (laneNats (v.thr.vreg d))).map (fun p => runLane x.img p.1 p.2)
    exec (.astepx d q n g) s = startStream (v.newStream (.astepx d q n g) (effGroup s.thr g) q none n.val (some (d, runs)))
      (v.putGroup (effGroup s.thr g) { x with lanes := (x.lanes.zip runs).map (fun p =>
        if p.2.ran then { p.1 with state := p.2.start, rej := false } else p.1) }) :=
  (streamWord_ok hrun hown hq hrole harea).trans ((if_neg (Nat.not_lt.mpr hroom)).trans (hxout _))

end

/-! ## A step of the engine (R196, R219) -/

section
variable {s u : State}

/-- The slot that stands in focus is brought into focus by no change. -/
theorem State.focus_self (h : s.thr.run ≠ .vacant) : s.focus s.thr.id = some s := by
  rw [State.focus, if_pos rfl, if_neg h]

theorem State.refocus_self (h : u.thr.id = s.thr.id) : s.refocus u = u := by
  rw [State.refocus, State.focus, if_pos h]
  split <;> rfl

/-- A step of a unit on the slot in focus, which stays in its place. -/
theorem onSlot_self {row : String} {f : State → Out} (hr : s.thr.run ≠ .vacant) (hf : f s = .next u) (hid : u.thr.id = s.thr.id) :
    onSlot row s.thr.id s f = .next u := by
  rw [onSlot_next (State.focus_self hr) hf, State.refocus_self hid]

/-- What STREAM_SYMBOL does for a stream with no pending word: it completes, or steps the next symbol once it is due. -/
def streamGoes (j : StreamJob) (s : State) : Out :=
  if j.done = j.n then finishStream (s.engineUser s.thr.id s.thr.node) j (s.group (clusterOf s.thr.id.core) j.group) s
  else if s.clock < j.paced then notEnabled "STREAM_SYMBOL"
  else nextSymbol (s.engineUser s.thr.id s.thr.node) j (s.group (clusterOf s.thr.id.core) j.group) s

/-- STREAM_SYMBOL of the slot in focus, whose node is not at its end. -/
theorem exec_streamSymbol {j : StreamJob} (hw : s.thr.wait = .stream j) (hr : s.thr.run ≠ .vacant)
    (hopen : ∀ n, s.node? s.thr.node = some n → s.shut n = false) (hpend : j.pendingOut = [])
    (hgo : streamGoes { j with port := none } s = .next u) (hid : u.thr.id = s.thr.id) :
    exec (.streamSymbol s.thr.id) s = .next u := by
  have hlives : ¬ (s.node? s.thr.node).any s.shut = true := by
    cases hn : s.node? s.thr.node with
    | none => exact Bool.false_ne_true
    | some n => simp [hopen n hn]
  refine onSlot_self hr ((if_neg hlives).trans ?_) hid
  rw [hw]
  dsimp only
  rw [hpend] at hgo ⊢
  exact hgo

/-! ## The end (R197, R199, R209) -/

/-- Without output, or with an output slot just published, nothing is left to publish. -/
theorem publishThen_nothing {user : EngineUser} {j : StreamJob} {body : StreamJob → State → Out} (h : j.qout = none ∨ j.outFill = 0) :
    publishThen user j s body = body j s := by
  unfold publishThen
  rcases h with h | h
  · rw [h]
  · split
    · rfl
    · exact if_pos h

theorem State.writeRun_id (s : State) (j : StreamJob) (x : LaneGroup) : (s.writeRun j x).thr.id = s.thr.id := by
  unfold State.writeRun
  split <;> rfl

/-- A stream of a word in its place completes with its map and a pulse. -/
theorem finishStream_ends {user : EngineUser} {j : StreamJob} {x : LaneGroup} (hres : j.resumed = false)
    (h : j.qout = none ∨ j.outFill = 0) : let t := (s.writeRun j x).pulseSource s.thr.id 3
    let least := j.paced + 8 + ceilDiv x.img.t 16 * t.cycles (blindSteps j).1 (blindSteps j).2
    finishStream user j x s = .next (State.passedAt (max (max t.thr.nextIssue least) t.clock + t.used.cycles 0 900) t.used.used) :=
  (publishThen_nothing h).trans (if_neg (ne_true_of_eq_false hres))

/-! ## A symbol (R195 to R197, R209) -/

section
variable {t v : State} {user : EngineUser} {j : StreamJob} {x : LaneGroup} {h l : List Byte}

/-- A symbol that TAIL covers, in a slot that has been acquired, is read at the cursor; one of the image's is stepped. -/
theorem nextSymbol_astep (hacq : j.acquired = true) (hrun : j.run = none)
    (htail : s.engineRead user (qBase (s.thr.qreg j.qin)) 4 = .done h t) (hfilled : 1 ≤ filledSlots (s.thr.qreg j.qin) (ofBytes h))
    (hread : t.engineRead user (adv (ringSlot (s.thr.qreg j.qin) (qPos (s.thr.qreg j.qin))) (x.icur : Nat)) (symbolBytes x.img) = .done l u)
    (hsym : x.img.token = false ∨ ofBytes l < min (2 ^ 18) x.img.v) : nextSymbol user j x s = astepSymbol user j x (ofBytes l) u := by
  have htoken : ¬ (x.img.token && decide (2 ^ 18 ≤ ofBytes l ∨ x.img.v ≤ ofBytes l)) = true := by
    rw [Bool.and_eq_true, decide_eq_true_eq]
    rintro ⟨htok, hout⟩
    rcases hsym with hno | hlt
    · exact absurd (htok.symm.trans hno) nofun
    · omega
  have hjob : { j with acquired := true } = j := by rw [← hacq]
  simp only [nextSymbol, htail, streamStep, Nat.not_lt.mpr hfilled, if_false, if_pos hacq, hjob, hread, if_neg htoken]
  rw [hrun]

/-- A symbol of an ASTEP without output that overflows no lane steps them all; within its slot it moves the cursor on. -/
theorem astepSymbol_steps {sym : Nat} {ms : List LaneMove} (hqout : j.qout = none)
    (hmoves : laneMoves user x (x.lanes.map (fun y => (y, some sym))) [] s = .ok (ms, v)) (hover : overflowing ms = none)
    (hslot : x.icur + symbolBytes x.img < 64) : astepSymbol user j x sym s =
      keepStream { j with done := j.done + 1, paced := v.clock + 1 } (v.setGroup (clusterOf v.thr.id.core) j.group
        { x with lanes := movedLanes x.lanes ms, icur := x.icur + symbolBytes x.img }) := by
  simp only [astepSymbol, hmoves, hover, hqout, consumed, hslot, if_true]

end

end

/-- Settles O34: the stream words by their checks, a symbol by its reads and the moves of the lanes, the end by what is left to publish. -/
theorem automatonStreams : Obligations.AutomatonStreams := by
  refine ⟨fun s u v q o n g x d hown hq hrole harea => ?starts, fun s j hw hr hopen hpend => ?steps⟩
  case starts =>
    intro held
    exact ⟨fun hrun => exec_astep_silent hrun hown hq hrole harea, fun hrun => exec_astep_output hrun hown hq hrole harea,
      fun hrun => exec_astepx hrun hown hq hrole harea⟩
  case steps =>
    intro x user q
    refine ⟨fun hdone hres hout => ?ends, fun h t l u ms v hlt hdue hqout hrun hacq htail hfilled hread hsym hmoves hover hslot hthr =>
      ?symbol⟩
    case ends =>
      intro t least
      refine exec_streamSymbol hw hr hopen hpend ((if_pos hdone).trans (finishStream_ends hres hout)) ?_
      exact State.writeRun_id s j x
    case symbol =>
      refine exec_streamSymbol hw hr hopen hpend ?_ rfl
      have hnext := nextSymbol_astep (j := { j with port := none }) hacq hrun htail hfilled hread hsym
      have hsteps := astepSymbol_steps (j := { j with port := none }) hqout hmoves hover hslot
      refine (if_neg (Nat.ne_of_lt hlt)).trans ((if_neg (Nat.not_lt.mpr hdue)).trans (hnext.trans (hsteps.trans ?_)))
      rw [← hthr]
      rfl

end Sys2Proof.Machine
end

section
/-!
PROOFS. The directory's words (spec/10_system_instr.md R213 to R216, spec/16_directory.md R285 to R293): a word in its turn, the bindings
made in one operation, the opens with their handles, and what a handle is checked for.
-/
namespace Sys2Proof.Machine

/-! ## A word in its turn (R283, R289) -/

/-- A body goes on to a state in which its word does not stall for operands: the directory serves the next client. -/
def endsTurn (o : Out) : Prop := ∃ u, o = .next u ∧ u.thr.keepsTurn = false

/-- A word that completes ends its turn. -/
theorem retireWithin_endsTurn (lo hi : Nat) (s : State) : endsTurn (retireWithin lo hi s) := ⟨_, rfl, rfl⟩

/-- A precise fault ends its turn. -/
theorem fault_endsTurn {c : Cause} {v : Option DWord} {s : State} (hh : s.hasHandler) : endsTurn (fault c 0 v s) := by
  obtain ⟨x, u, hu, -, hthr, -⟩ := fault_enters (c := c) (cls := 0) (v := v) hh
  exact ⟨u, hu, by rw [hthr]; rfl⟩

/-- A directory operation whose turn it is does what its body does. -/
theorem directoryThen_ready {s : State} {body : State → Out} (hready : dirReady s) (hends : endsTurn (body (dirAt s))) :
    directoryThen s body = body (dirAt s) := by
  obtain ⟨u, hu, hkeep⟩ := hends
  refine (if_pos hready).trans ?_
  unfold dirAt at hu ⊢
  rw [hu]
  simp only [hkeep, Bool.false_eq_true, if_false]

/-- A directory word without a release, on its turn. -/
theorem turnWord_answers {i : Instr} {s : State} {body : State → Out} {o : Out}
    (hexec : exec i s = issue i s fun s => directoryThen s body) (hrun : mayRun i s) (hready : dirReady s)
    (hbody : body (dirAt s) = o) (hends : endsTurn o) : exec i s = o := by
  rw [hexec, issue_ok hrun, directoryThen_ready hready (hbody ▸ hends), hbody]

/-- A directory operation after a release that has passed, on its turn. -/
theorem releasedTurn_answers {s u : State} {body : State → Out} {o : Out} (hrel : passes (releaseThen .dv s) u) (hready : dirReady u)
    (hbody : body (dirAt u) = o) (hends : endsTurn o) : (releaseThen .dv s fun s => directoryThen s body) = o := by
  rw [hrel, directoryThen_ready hready (hbody ▸ hends), hbody]

/-- A directory word whose release has passed, on its turn. -/
theorem releasedWord_answers {i : Instr} {s u : State} {body : State → Out} {o : Out}
    (hexec : exec i s = issue i s fun s => releaseThen .dv s fun s => directoryThen s body) (hrun : mayRun i s)
    (hrel : passes (releaseThen .dv s) u) (hready : dirReady u) (hbody : body (dirAt u) = o) (hends : endsTurn o) : exec i s = o :=
  hexec.trans ((issue_ok hrun).trans (releasedTurn_answers hrel hready hbody hends))

/-- A DIRECTORY fault is the trap with its reason. -/
theorem directoryFault_trap {r : Nat} {s : State} (hh : s.hasHandler) : directoryTrap r s (directoryFault r s) := fault_handler hh

/-- A name read goes to what follows. -/
theorem nameThen_readsName {p : DWord} {s u : State} {name : Nat} {body : Nat → State → Out} (h : readsName p s name u) :
    nameThen p s body = body name u := by
  obtain ⟨l, hl, rfl, hzero⟩ := h
  exact (hl _).trans (if_neg (not_not_intro hzero))

/-! ## Bindings (R214, R288) -/

/-- The entries of a binding that fit the tables are bound in one operation. -/
theorem bindThen_fits {l : List BindEntry} {n : Nat} {s : State} (h : bindOverflow s l = none) :
    bindThen l n s = retireWithin 8 n (s.bindAll l) := by
  rw [bindThen, h]

section
variable {s u v : State} {a b : PReg} {r : Reg} {name : Nat}
  (hrel : passes (releaseThen .dv s) u) (hready : dirReady u)
include hrel hready

theorem exec_tbind_binds {w : State} {d : Desc} (hrun : mayRun (.tbind a b) s) (hname : readsName ((dirAt u).thr.preg a) (dirAt u) name v)
    (hmay : mayBind (v.dir.grant (nameNs name)) v.thr.asid v.thr.world = true) (hdesc : yields (descThen (v.thr.preg b) v) d w)
    (hroom : bindOverflow w [{ name := name, desc := some (w.thr.preg b, d) }] = none) :
    exec (.tbind a b) s = .next ((w.bindAll [{ name := name, desc := some (w.thr.preg b, d) }]).passedWithin 8 700) := by
  refine releasedWord_answers rfl hrun hrel hready ((nameThen_readsName hname).trans ?_) (retireWithin_endsTurn 8 700 _)
  rw [hmay]
  exact (hdesc _).trans (bindThen_fits hroom)

theorem exec_tunbind_unbinds (hrun : mayRun (.tunbind a) s) (hname : readsName ((dirAt u).thr.preg a) (dirAt u) name v)
    (hmay : mayBind (v.dir.grant (nameNs name)) v.thr.asid v.thr.world = true) :
    exec (.tunbind a) s = .next ((v.bindAll [{ name := name, desc := none }]).passedWithin 8 700) := by
  refine releasedWord_answers rfl hrun hrel hready ((nameThen_readsName hname).trans ?_) (retireWithin_endsTurn 8 700 _)
  rw [hmay]
  rfl

/-- TBINDM of a count of entries that it may have. -/
theorem exec_tbindm_binds {l : List BindEntry} {n : Nat} (hn : n = ((dirAt u).thr.sreg r).toNat) (hrun : mayRun (.tbindm a r) s)
    (hlo : 1 ≤ n) (hhi : n ≤ 16) (hentries : yields (fun k => entriesThen ((dirAt u).thr.preg a) n 0 (dirAt u) [] k) l v)
    (hroom : bindOverflow v l = none) : exec (.tbindm a r) s = .next ((v.bindAll l).passedWithin 8 (700 + 40 * n)) := by
  have hcount : ¬ (n = 0 ∨ 16 < n) := by omega
  subst hn
  exact releasedWord_answers rfl hrun hrel hready ((if_neg hcount).trans ((hentries _).trans (bindThen_fits hroom)))
    (retireWithin_endsTurn 8 _ _)

theorem exec_tbindm_faults (hrun : mayRun (.tbindm a r) s) (hh : (dirAt u).hasHandler)
    (hn : ((dirAt u).thr.sreg r).toNat = 0 ∨ 16 < ((dirAt u).thr.sreg r).toNat) :
    trapsWith .operand (dirAt u) (exec (.tbindm a r) s) :=
  releasedWord_answers rfl hrun hrel hready (if_pos hn) (fault_endsTurn hh) ▸ fault_open hh

theorem exec_tbind_refused (hrun : mayRun (.tbind a b) s) (hname : readsName ((dirAt u).thr.preg a) (dirAt u) name v)
    (hmay : ¬ mayBind (v.dir.grant (nameNs name)) v.thr.asid v.thr.world = true) (hh : v.hasHandler) :
    directoryTrap 4 v (exec (.tbind a b) s) := by
  refine releasedWord_answers rfl hrun hrel hready ((nameThen_readsName hname).trans ?_) (fault_endsTurn hh) ▸ directoryFault_trap hh
  rw [Bool.eq_false_of_not_eq_true hmay]
  rfl

theorem exec_tunbind_refused (hrun : mayRun (.tunbind a) s) (hname : readsName ((dirAt u).thr.preg a) (dirAt u) name v)
    (hmay : ¬ mayBind (v.dir.grant (nameNs name)) v.thr.asid v.thr.world = true) (hh : v.hasHandler) :
    directoryTrap 4 v (exec (.tunbind a) s) := by
  refine releasedWord_answers rfl hrun hrel hready ((nameThen_readsName hname).trans ?_) (fault_endsTurn hh) ▸ directoryFault_trap hh
  rw [Bool.eq_false_of_not_eq_true hmay]
  rfl

end

/-! ## What a binding leaves in the directory (R288) -/

/-- Where nobody waits for a name, no wait is satisfied. -/
theorem State.foldl_unawaited {s : State} {p : NameWait → Bool} {f : State → NameWait → State} (h : s.dir.waits = []) :
    (s.nameWaits.filter p).foldl f s = s := by
  rw [State.nameWaits, h, List.filter_nil, List.filter_nil, List.foldl_nil]

/-- With nobody waiting for a name, a binding puts the new object and its name at the head of their tables. -/
theorem bindOne_unawaited {s : State} {name : Nat} {p : DWord} {d : Desc} (hwaits : s.dir.waits = []) : ∃ (o : ObjRec),
    (s.bindOne { name := name, desc := some (p, d) }).dir.names = { name := name, obj := o.idx } :: s.dir.names ∧
      (s.bindOne { name := name, desc := some (p, d) }).dir.objs = o :: s.dir.objs ∧
      (o.bound, o.fmt, o.dims, o.extents, o.len, o.desc, o.offsets) = (true, d.fmt, d.dims, d.extents, d.len, p, d.offsets) := by
  simp only [State.bindOne]
  rw [State.foldl_unawaited]
  · exact ⟨_, rfl, rfl, rfl⟩
  · exact hwaits

/-- A name just bound stands for an object with its descriptor. -/
theorem bindOne_binds {s : State} {name : Nat} {p : DWord} {d : Desc} (hwaits : s.dir.waits = []) :
    ∃ i, (s.bindOne { name := name, desc := some (p, d) }).dir.lookup name = some i ∧
      ((s.bindOne { name := name, desc := some (p, d) }).dir.obj? i).map (fun o => (o.bound, o.fmt, o.dims, o.extents, o.len, o.desc, o.offsets))
        = some (true, d.fmt, d.dims, d.extents, d.len, p, d.offsets) := by
  obtain ⟨o, hnames, hobjs, hdesc⟩ := bindOne_unawaited (name := name) (p := p) (d := d) hwaits
  refine ⟨o.idx, ?_, ?_⟩
  · simp [Directory.lookup, hnames]
  · simp [Directory.obj?, hobjs, hdesc]

theorem State.postAll_frame (s : State) (g : ObjRec → FaultRecord) (l : List ObjRec) :
    (l.foldl (fun t o => t.post (g o)) s).mem = s.mem ∧ (l.foldl (fun t o => t.post (g o)) s).thr = s.thr := by
  induction l generalizing s with
  | nil => exact ⟨rfl, rfl⟩
  | cons o l ih => exact ih (s.post (g o))

/-- A reclaim takes objects away, and leaves names, memory and the thread. -/
theorem State.reclaim_frame (s : State) : s.reclaim.dir.names = s.dir.names ∧ s.reclaim.mem = s.mem ∧ s.reclaim.thr = s.thr :=
  ⟨rfl, State.postAll_frame s (reclaimRecord s) _⟩

/-- An unbinding takes every binding of its name away, and no other. -/
theorem Directory.lookup_unbind (d : Directory) (name m : Nat) :
    (d.unbind name).lookup m = if m = name then none else d.lookup m := by
  unfold Directory.unbind
  cases h : d.lookup name with
  | none =>
    by_cases hm : m = name
    · rw [if_pos hm, hm]; exact h
    · rw [if_neg hm]
  | some i =>
    simp only [Directory.lookup, List.find?_filter]
    by_cases hm : m = name
    · simp [hm]
    · have hsame (n : NameRec) : (n.name ≠ name ∧ n.name = m) = (n.name = m) :=
        propext ⟨And.right, fun hn => ⟨hn ▸ hm, hn⟩⟩
      simp only [decide_eq_true_eq, hsame, if_neg hm]

/-- An unbinding leaves memory, the thread and the other names. -/
theorem State.bindAll_unbind (s : State) (name : Nat) : let t := s.bindAll [{ name := name, desc := none }];
    t.dir.names = (s.dir.unbind name).names ∧ t.mem = s.mem ∧ t.thr = s.thr :=
  (s.withDir (s.dir.unbind name)).reclaim_frame

/-- Settles O35: each word by its checks, a new binding by the heads of the tables, and an unbinding by the names it filters out. -/
theorem directoryBindings : Obligations.DirectoryBindings := by
  refine ⟨fun s u v w a b r name d hrel hready => ?words, fun s name p d hwaits _ => bindOne_binds hwaits, fun s name m => ?unbound⟩
  case words =>
    refine ⟨fun hrun hname hmay hdesc => exec_tbind_binds hrel hready hrun hname hmay hdesc, exec_tunbind_unbinds hrel hready,
      fun l hrun => exec_tbindm_binds hrel hready rfl hrun, exec_tbind_refused hrel hready, exec_tunbind_refused hrel hready,
      fun hrun hn hh => exec_tbindm_faults hrel hready hrun hh hn⟩
  case unbound =>
    obtain ⟨hnames, hmem, hthr⟩ := s.bindAll_unbind name
    have hlookup (m : Nat) : (s.bindAll [{ name := name, desc := none }]).dir.lookup m = if m = name then none else s.dir.lookup m := by
      rw [← Directory.lookup_unbind, Directory.lookup, hnames, Directory.lookup]
    exact ⟨(hlookup name).trans (if_pos rfl), fun hm => (hlookup m).trans (if_neg hm), hmem, hthr⟩

end Sys2Proof.Machine
end

section
/-!
PROOFS. Opens (spec/10_system_instr.md R215, spec/16_directory.md R292, R293, spec/01_machine_state.md R37): TOPEN and TOPENW, and the
handle that an open entry gives.
-/
namespace Sys2Proof.Machine

/-! ## TOPEN and TOPENW -/

/-- What an open answers: the value in sd and an acquire at device scope, at most n cycles on. -/
def State.opened (d : Reg) (n : Nat) (x : DWord) (u : State) : State := ((u.setS d x).acquire u.thr.id.core .dv).passedWithin 8 n

/-- An open of a bound name that finds an entry answers its handle. -/
theorem openBound_allocates {n : Nat} {d : Reg} {obj : Nat} {v : State} {h : DWord} {dir : Directory}
    (ha : v.dir.allocate obj v.thr.asid = some (h, dir)) : openBound n d obj v = .next ((v.withDir dir).opened d n h) := by
  rw [openBound, ha]
  rfl

/-- A slot that waits for a name gives up its turn. -/
theorem waitForName_endsTurn (d : Reg) (name n : Nat) (s : State) : endsTurn (waitFor (.name d name n) s) := ⟨_, rfl, rfl⟩

section
variable {s v : State} {d b : Reg} {a : PReg} {name : Nat}
  (hready : dirReady s) (hname : readsName ((dirAt s).thr.preg a) (dirAt s) name v)
include hready hname

theorem exec_topen_bound {obj : Nat} {h : DWord} {dir : Directory} (hrun : mayRun (.topen d a) s)
    (hmay : mayOpen (v.dir.grant (nameNs name)) v.thr.asid v.thr.world = true) (hobj : v.dir.lookup name = some obj)
    (ha : v.dir.allocate obj v.thr.asid = some (h, dir)) : exec (.topen d a) s = .next ((v.withDir dir).opened d 700 h) := by
  refine turnWord_answers rfl hrun hready ((nameThen_readsName hname).trans ?_) (retireWithin_endsTurn 8 700 _)
  rw [hmay, hobj]
  exact openBound_allocates ha

theorem exec_topen_unbound (hrun : mayRun (.topen d a) s)
    (hmay : mayOpen (v.dir.grant (nameNs name)) v.thr.asid v.thr.world = true) (hobj : v.dir.lookup name = none) :
    exec (.topen d a) s = .next (v.opened d 700 0) := by
  refine turnWord_answers rfl hrun hready ((nameThen_readsName hname).trans ?_) (retireWithin_endsTurn 8 700 _)
  rw [hmay, hobj]
  rfl

theorem exec_topen_refused (hrun : mayRun (.topen d a) s)
    (hmay : mayOpen (v.dir.grant (nameNs name)) v.thr.asid v.thr.world = false) (hh : v.hasHandler) :
    directoryTrap 4 v (exec (.topen d a) s) := by
  refine turnWord_answers rfl hrun hready ((nameThen_readsName hname).trans ?_) (fault_endsTurn hh) ▸ directoryFault_trap hh
  rw [hmay]
  rfl

theorem exec_topenw_bound {obj : Nat} {h : DWord} {dir : Directory} (hrun : mayRun (.topenw d a b) s)
    (ht : (s.thr.sreg b).toNat < 2 ^ 32) (hmay : mayOpen (v.dir.grant (nameNs name)) v.thr.asid v.thr.world = true)
    (hobj : v.dir.lookup name = some obj) (ha : v.dir.allocate obj v.thr.asid = some (h, dir)) :
    exec (.topenw d a b) s = .next ((v.withDir dir).opened d (if (s.thr.sreg b).toNat = 0 then 700 else 8) h) := by
  refine turnWord_answers rfl hrun hready ((if_neg (Nat.not_le.mpr ht)).trans ((nameThen_readsName hname).trans ?_))
    (retireWithin_endsTurn 8 _ _)
  rw [hmay, hobj]
  exact openBound_allocates ha

theorem exec_topenw_unbound (hrun : mayRun (.topenw d a b) s) (ht : (s.thr.sreg b).toNat = 0)
    (hmay : mayOpen (v.dir.grant (nameNs name)) v.thr.asid v.thr.world = true) (hobj : v.dir.lookup name = none) :
    exec (.topenw d a b) s = .next (v.opened d 700 0) := by
  have hlow : ¬ 2 ^ 32 ≤ (s.thr.sreg b).toNat := by omega
  refine turnWord_answers rfl hrun hready ((if_neg hlow).trans ((nameThen_readsName hname).trans ?_)) (retireWithin_endsTurn 8 _ _)
  rw [hmay, hobj]
  exact if_pos ht

/-- With room in the wait table, a TOPENW of an unbound name waits there until its timeout (R293). -/
theorem exec_topenw_waits (hrun : mayRun (.topenw d a b) s) (hpos : 0 < (s.thr.sreg b).toNat) (ht : (s.thr.sreg b).toNat < 2 ^ 32)
    (hmay : mayOpen (v.dir.grant (nameNs name)) v.thr.asid v.thr.world = true) (hobj : v.dir.lookup name = none)
    (hroom : v.nameWaits.length < Config.waitLimit) : exec (.topenw d a b) s =
      waitFor (.name d name (v.clock + (s.thr.sreg b).toNat)) (v.withDir { v.dir with
        waits := v.dir.waits ++ [{ slot := v.thr.id, name := name, asid := v.thr.asid, world := v.thr.world }] }) := by
  refine turnWord_answers rfl hrun hready ((if_neg (Nat.not_le.mpr ht)).trans ((nameThen_readsName hname).trans ?_))
    (waitForName_endsTurn _ _ _ _)
  rw [hmay, hobj]
  exact (if_neg (Nat.ne_of_gt hpos)).trans (if_neg (Nat.not_le.mpr hroom))

theorem exec_topenw_refused (hrun : mayRun (.topenw d a b) s) (ht : (s.thr.sreg b).toNat < 2 ^ 32)
    (hmay : mayOpen (v.dir.grant (nameNs name)) v.thr.asid v.thr.world = false) (hh : v.hasHandler) :
    directoryTrap 4 v (exec (.topenw d a b) s) := by
  refine turnWord_answers rfl hrun hready ((if_neg (Nat.not_le.mpr ht)).trans ((nameThen_readsName hname).trans ?_))
    (fault_endsTurn hh) ▸ directoryFault_trap hh
  rw [hmay]
  rfl

end

/-! ## Handles (R37, R292) -/

/-- The fields of a handle. -/
theorem handleOf_fields {obj idx : Nat} (gen : BitVec 24) (hobj : obj < 2 ^ 17) (hidx : idx < 2 ^ 20) :
    let n := (handleOf obj gen idx).toNat
    bits n 63 61 = 0 ∧ bits n 60 44 = obj ∧ bits n 43 20 = gen.toNat ∧ bits n 19 0 = idx := by
  have hgen := gen.isLt
  have hn : (handleOf obj gen idx).toNat = obj * 2 ^ 44 + gen.toNat * 2 ^ 20 + idx := by
    rw [handleOf, BitVec.toNat_ofNat, Nat.mod_eq_of_lt hobj, Nat.mod_eq_of_lt hidx]
    exact Nat.mod_eq_of_lt (by omega)
  simp only [hn, bits]
  refine ⟨?_, ?_, ?_, ?_⟩ <;> omega

/-- An object of a directory is found changed after a change. -/
theorem Directory.obj?_updObj {d : Directory} {i : Nat} {f : ObjRec → ObjRec} {o : ObjRec} (hf : ∀ o, (f o).idx = o.idx)
    (ho : d.obj? i = some o) : (d.updObj i f).obj? i = some (f o) := by
  have hi : o.idx = i := by simpa using List.find?_some ho
  have hidx (x : ObjRec) : (if x.idx = i then f x else x).idx = x.idx := by split <;> simp [hf]
  have hfind : (d.updObj i f).obj? i = (d.obj? i).map (fun x => if x.idx = i then f x else x) := by
    simp only [Directory.obj?, Directory.updObj, List.find?_map, Function.comp_def, hidx]
  rw [hfind, ho, Option.map_some, if_pos hi]

/-- The directory admits a handle whose open entry, object and generation stand and whose address space asks (R213). -/
theorem Directory.check_handle {d : Directory} {obj : Nat} {e : OpenEntry} {o : ObjRec} (hobj : obj < 2 ^ 17) (hidx : e.idx < 2 ^ 20)
    (he : d.opens.find? (fun x => x.idx = e.idx) = some e) (hof : e.obj = some obj) (ho : d.obj? obj = some o) :
    d.check e.asid (handleOf obj e.gen e.idx) = .ok o := by
  obtain ⟨hhigh, hfobj, hfgen, hfidx⟩ := handleOf_fields e.gen hobj hidx
  have hstands : ¬ (e.obj ≠ some obj ∨ e.gen.toNat ≠ e.gen.toNat) := fun h => h.elim (fun h => h hof) (fun h => h rfl)
  unfold Directory.check
  rw [hhigh, hfobj, hfgen, hfidx, he]
  simp only [ne_eq, not_true_eq_false, if_false, hof, or_self, ho]

/-- A handle that the directory allocates is admitted for the address space that opened it (R292). -/
theorem Directory.check_allocate {d e : Directory} {obj : Nat} {asid : BitVec 16} {h : DWord} {o : ObjRec}
    (ha : d.allocate obj asid = some (h, e)) (ho : d.obj? obj = some o) (hobj : obj < 2 ^ 17) (hused : d.unused ≤ 2 ^ 20)
    (hopens : ∀ x ∈ d.opens, x.idx < d.unused) : e.check asid h = .ok { o with opens := o.opens + 1 } := by
  have hupd := Directory.obj?_updObj (f := fun o => { o with opens := o.opens + 1 }) (fun _ => rfl) ho
  unfold Directory.allocate at ha
  split at ha
  · next hfresh =>
    have hnew : d.opens.find? (fun x => x.idx = d.unused) = none := by
      simpa using fun x hx => Nat.ne_of_lt (hopens x hx)
    have hlim : d.unused < 2 ^ 20 := hfresh
    cases ha
    refine Directory.check_handle (e := { idx := d.unused, gen := 0, obj := some obj, asid := asid }) hobj hlim ?_ rfl hupd
    simp [hnew]
  · split at ha
    · cases ha
    · next i rest hfreed =>
      split at ha
      · cases ha
      · next x hx =>
        cases ha
        have hi : x.idx = i := by simpa using List.find?_some hx
        have hlt : x.idx < 2 ^ 20 := Nat.lt_of_lt_of_le (hopens x (List.mem_of_find?_eq_some hx)) hused
        subst hi
        refine Directory.check_handle (e := { x with obj := some obj, asid := asid }) hobj hlt ?_ rfl hupd
        have hidx (y : OpenEntry) : (if y.idx = x.idx then { y with obj := some obj, asid := asid } else y).idx = y.idx := by
          split <;> rfl
        simp only [List.find?_map, Function.comp_def, hidx, hx, Option.map_some, if_true]

/-- Settles O36: each word by the right, the binding and the timeout it meets, and a new handle by its fields. -/
theorem directoryOpens : Obligations.DirectoryOpens := by
  refine ⟨fun s v d b a name hready hname => ⟨fun hmay => ⟨?bound, ?unbound⟩, fun hmay hh => ?refused⟩,
    fun d e obj asid h o ha ho hobj hused hopens => Directory.check_allocate ha ho hobj hused hopens⟩
  case bound =>
    intro obj h dir hobj ha
    exact ⟨fun hrun => exec_topen_bound hready hname hrun hmay hobj ha,
      fun hrun ht => exec_topenw_bound hready hname hrun ht hmay hobj ha⟩
  case unbound =>
    intro hobj
    refine ⟨fun hrun => exec_topen_unbound hready hname hrun hmay hobj, fun hrun ht => exec_topenw_unbound hready hname hrun ht hmay hobj,
      fun hrun hpos ht hroom => ⟨_, exec_topenw_waits hready hname hrun hpos ht hmay hobj hroom, rfl, rfl, rfl, rfl⟩⟩
  case refused =>
    exact ⟨fun hrun => exec_topen_refused hready hname hrun hmay hh, fun hrun ht => exec_topenw_refused hready hname hrun ht hmay hh⟩

end Sys2Proof.Machine
end

section
/-!
PROOFS. Handles (spec/10_system_instr.md R213, R215, R216): TCLOSE, TINFO and THADDR of a handle that the directory admits and of one that
it refuses, and the order of the checks.
-/
namespace Sys2Proof.Machine

/-! ## The order of the checks (R213) -/

/-- High bits above the fields of a handle are refused with reason 2. -/
theorem Directory.check_high {d : Directory} {asid : BitVec 16} {h : DWord} (hhigh : h.toNat / 2 ^ 61 ≠ 0) : d.check asid h = .error 2 := by
  have hlt := h.isLt
  have hbits : bits h.toNat 63 61 ≠ 0 := by rw [bits]; omega
  exact if_pos hbits

/-- The parts of a handle without high bits. -/
theorem handle_parts {h : DWord} (hlow : h.toNat / 2 ^ 61 = 0) : bits h.toNat 63 61 = 0 ∧ bits h.toNat 60 44 = h.toNat / 2 ^ 44 := by
  simp only [bits]
  omega

section
variable {d : Directory} {asid : BitVec 16} {h : DWord} (hlow : h.toNat / 2 ^ 61 = 0)
include hlow

/-- A handle of no open entry, or of one that stands for another object or generation, is refused with reason 1. -/
theorem Directory.check_stale (hstale : ∀ o, d.opens.find? (fun o => o.idx = h.toNat % 2 ^ 20) = some o →
    o.obj ≠ some (h.toNat / 2 ^ 44) ∨ o.gen.toNat ≠ h.toNat / 2 ^ 20 % 2 ^ 24) : d.check asid h = .error 1 := by
  obtain ⟨hhigh, hobj⟩ := handle_parts hlow
  unfold Directory.check
  rw [if_neg (not_not_intro hhigh), bits_from_zero, hobj]
  split
  · rfl
  · next o ho => exact if_pos (hstale o ho)

/-- A handle of another address space is refused with reason 3. -/
theorem Directory.check_foreign {o : OpenEntry} (ho : d.opens.find? (fun o => o.idx = h.toNat % 2 ^ 20) = some o)
    (hobj : o.obj = some (h.toNat / 2 ^ 44)) (hgen : o.gen.toNat = h.toNat / 2 ^ 20 % 2 ^ 24) (hasid : o.asid ≠ asid) :
    d.check asid h = .error 3 := by
  obtain ⟨hhigh, hparts⟩ := handle_parts hlow
  have hstands : ¬ (o.obj ≠ some (h.toNat / 2 ^ 44) ∨ o.gen.toNat ≠ bits h.toNat 43 20) :=
    fun hs => hs.elim (fun hs => hs hobj) (fun hs => hs hgen)
  unfold Directory.check
  rw [if_neg (not_not_intro hhigh), bits_from_zero, hparts, ho]
  exact (if_neg hstands).trans (if_pos hasid)

end

/-! ## The words -/

section
variable {s : State} {d a b : Reg} {i : Fin 16} (hready : dirReady s)
include hready

section
variable {o : ObjRec} (hcheck : (dirAt s).dir.check (dirAt s).thr.asid ((dirAt s).thr.sreg a) = .ok o)
include hcheck

theorem exec_tinfo_item (hrun : mayRun (.tinfo d a i) s) :
    exec (.tinfo d a i) s = .next (((dirAt s).setS d (infoItem o i.val)).passedWithin 8 700) := by
  refine turnWord_answers rfl hrun hready ?_ (retireWithin_endsTurn 8 700 _)
  rw [hcheck]
  rfl

theorem exec_thaddr_address {p : DWord} (hrun : mayRun (.thaddr d a b) s) (hp : extentAddr o.extents (s.thr.sreg b).toNat = some p) :
    exec (.thaddr d a b) s = .next (((dirAt s).setS d p).passedWithin 8 700) := by
  have hat : extentAddr o.extents ((dirAt s).thr.sreg b).toNat = some p := hp
  refine turnWord_answers rfl hrun hready ?_ (retireWithin_endsTurn 8 700 _)
  simp only [hcheck, hat]
  rfl

theorem exec_thaddr_beyond (hrun : mayRun (.thaddr d a b) s) (hh : (dirAt s).hasHandler)
    (hp : extentAddr o.extents (s.thr.sreg b).toNat = none) : trapsWith .operand (dirAt s) (exec (.thaddr d a b) s) := by
  have hat : extentAddr o.extents ((dirAt s).thr.sreg b).toNat = none := hp
  refine turnWord_answers rfl hrun hready ?_ (fault_endsTurn hh) ▸ fault_open hh
  simp only [hcheck, hat]

end

section
variable {r : Nat} (hh : (dirAt s).hasHandler) (hcheck : (dirAt s).dir.check (dirAt s).thr.asid ((dirAt s).thr.sreg a) = .error r)
include hh hcheck

theorem exec_tinfo_refused (hrun : mayRun (.tinfo d a i) s) : directoryTrap r (dirAt s) (exec (.tinfo d a i) s) := by
  refine turnWord_answers rfl hrun hready ?_ (fault_endsTurn hh) ▸ directoryFault_trap hh
  rw [hcheck]
  rfl

theorem exec_thaddr_refused (hrun : mayRun (.thaddr d a b) s) : directoryTrap r (dirAt s) (exec (.thaddr d a b) s) := by
  refine turnWord_answers rfl hrun hready ?_ (fault_endsTurn hh) ▸ directoryFault_trap hh
  rw [hcheck]
  rfl

end

end

section
variable {s u : State} {a : Reg} (hrun : mayRun (.tclose a) s) (hidle : s.slotWorks s.thr.id = false)
  (hrel : passes (releaseThen .dv s) u) (hready : dirReady u)
include hrun hidle hrel hready

/-- TCLOSE of an admitted handle frees its entry, and reclaims what nothing holds any more (R288, R292). -/
theorem exec_tclose_frees {o : ObjRec} (hcheck : (dirAt u).dir.check (dirAt u).thr.asid ((dirAt u).thr.sreg a) = .ok o) :
    exec (.tclose a) s = .next
      (((dirAt u).withDir ((dirAt u).dir.free (((dirAt u).thr.sreg a).toNat % 2 ^ 20))).reclaim.passedWithin 8 700) := by
  refine (issue_ok hrun).trans ((if_neg (ne_true_of_eq_false hidle)).trans ?_)
  refine releasedTurn_answers hrel hready ?_ (retireWithin_endsTurn 8 700 _)
  rw [hcheck, bits_from_zero]
  rfl

theorem exec_tclose_refused {r : Nat} (hh : (dirAt u).hasHandler)
    (hcheck : (dirAt u).dir.check (dirAt u).thr.asid ((dirAt u).thr.sreg a) = .error r) :
    directoryTrap r (dirAt u) (exec (.tclose a) s) := by
  refine ((issue_ok hrun).trans ((if_neg (ne_true_of_eq_false hidle)).trans ?_)).trans (directoryFault_trap hh)
  refine releasedTurn_answers hrel hready ?_ (fault_endsTurn hh)
  rw [hcheck]

end

/-- The addresses of extents laid end to end go on in the next extent (R286). -/
theorem extentAddr_cons (p : DWord) (len : Nat) (l : List (DWord × Nat)) (n : Nat) :
    (n < len → extentAddr ((p, len) :: l) n = some (adv p (n : Nat))) ∧ extentAddr ((p, len) :: l) (len + n) = extentAddr l n := by
  refine ⟨fun h => if_pos h, (if_neg (Nat.not_lt.mpr (Nat.le_add_right len n))).trans ?_⟩
  rw [Nat.add_sub_cancel_left]

/-- Settles O37: each word by what the directory answers to its handle, and the answer by the checks in their order. -/
theorem directoryHandles : Obligations.DirectoryHandles := by
  refine ⟨fun s u d a b i o => ⟨fun hrun hidle hrel hready => exec_tclose_frees hrun hidle hrel hready,
      fun hready hcheck => ⟨?_, fun p => ?_, ?_⟩⟩,
    fun s u d a b i r => ⟨fun hready hh hcheck => ⟨?_, ?_⟩, fun hrun hidle hrel hready hh => ?_⟩,
    fun d asid h => ⟨Directory.check_high, Directory.check_stale, fun o hlow => Directory.check_foreign hlow⟩,
    fun o l p len n => ⟨rfl, rfl, rfl, extentAddr_cons p len l n⟩⟩
  · exact fun hrun _ => exec_tinfo_item hready hcheck hrun
  · exact exec_thaddr_address hready hcheck
  · exact exec_thaddr_beyond hready hcheck
  · exact exec_tinfo_refused hready hh hcheck
  · exact exec_thaddr_refused hready hh hcheck
  · exact exec_tclose_refused hrun hidle hrel hready hh

end Sys2Proof.Machine
end

section
/-!
PROOFS. What a check of an access hands on (spec/06_memory_instr.md R124, R126): one value and one state, in which the same slot executes,
or nothing at all. So a check that passes determines both.
-/
namespace Sys2Proof.Machine

/-- A check either hands one value and a state of the same slot on to what follows, or answers by itself. -/
def handsOn {α : Type} (f : (α → State → Out) → Out) (s : State) : Prop :=
  (∃ x t, t.thr.id = s.thr.id ∧ ∀ body, f body = body x t) ∨ ∃ o, ∀ body, f body = o

section
variable {α β : Type} {s u : State}

/-- What a check that passes hands on stands in the slot of before. -/
theorem handsOn.slot {f : (α → State → Out) → Out} {x : α} (h : handsOn f s) (hf : yields f x u) : u.thr.id = s.thr.id := by
  rcases h with ⟨y, t, hid, ht⟩ | ⟨o, ho⟩
  · have hstate : (Host.Outcome.next t : Out) = .next u := (ht fun _ s => .next s).symm.trans (hf _)
    cases hstate
    exact hid
  · have hclash : (Host.Outcome.next u : Out) = notEnabled "" :=
      (hf fun _ s => .next s).symm.trans ((ho _).trans ((ho _).symm.trans (hf fun _ _ => notEnabled "")))
    cases hclash

theorem handsOn.answer {f : (α → State → Out) → Out} (o : Out) (h : ∀ body, f body = o) : handsOn f s := .inr ⟨o, h⟩

theorem handsOn.pass {f : (α → State → Out) → Out} (x : α) {t : State} (hid : t.thr.id = s.thr.id) (h : ∀ body, f body = body x t) :
    handsOn f s := .inl ⟨x, t, hid, h⟩

/-- From a state of the same slot the check hands on as from this one. -/
theorem handsOn.from {f : (α → State → Out) → Out} {t : State} (h : handsOn f t) (hid : t.thr.id = s.thr.id) : handsOn f s :=
  h.imp_left fun ⟨x, v, hv, hf⟩ => ⟨x, v, hv.trans hid, hf⟩

/-- One check after the other. -/
theorem handsOn.bind {f : (α → State → Out) → Out} {g : α → State → (β → State → Out) → Out} (hf : handsOn f s)
    (hg : ∀ x t, t.thr.id = s.thr.id → handsOn (g x t) t) : handsOn (fun body => f fun x t => g x t body) s := by
  rcases hf with ⟨x, t, hid, ht⟩ | ⟨o, ho⟩
  · have hthen : (fun body => f fun x t => g x t body) = g x t := funext fun body => ht _
    exact hthen ▸ (hg x t hid).from hid
  · exact .inr ⟨o, fun _ => ho _⟩

end

/-! ## A slot stays the same while its access is translated (R302, R303) -/

@[simp] theorem Thread.trip_id (h : Home) (n : Nat) (t : Thread) : (t.trip h n).id = t.id := by
  unfold Thread.trip
  split
  · rfl
  · split <;> rfl

@[simp] theorem State.tlbEnter_thr (s : State) (x : TlbEntry) : (s.tlbEnter x).thr = s.thr := by
  unfold State.tlbEnter
  dsimp only
  split <;> rfl

@[simp] theorem State.tlbFill_thr (s : State) (u : TlbUnit) (asid : BitVec 16) (l : Leaf) : (s.tlbFill u asid l).thr = s.thr :=
  s.tlbEnter_thr _

@[simp] theorem State.countTlb_thr (s : State) (cl : Nat) (hit : Bool) : (s.countTlb cl hit).thr = s.thr := by cases hit <;> rfl

@[simp] theorem State.touchPin_thr (s : State) (u : TlbUnit) (cl : Nat) (asid : BitVec 16) (l : Leaf) :
    (s.touchPin u cl asid l).thr = s.thr := by
  unfold State.touchPin
  dsimp only
  split
  · exact s.countTlb_thr cl true
  · split <;> simp

/-- A write performed at its home leaves the slot where it is. -/
theorem State.perform_slot (s : State) (h : Home) (l : List Byte) : (s.perform h l).thr.id = s.thr.id := by
  have hnote : ((s.wakeBank h).noteText h l.length).thr = s.thr := by
    refine Eq.trans ?_ (s.wakeBank_thr h)
    cases h <;> rfl
  have hpoke (t : State) : (t.poke h l).thr = t.thr := by
    unfold State.poke
    split <;> rfl
  exact (Thread.trip_id ..).trans (congrArg Thread.id ((hpoke _).trans hnote))

theorem State.setLeaf_slot (s : State) (l : Leaf) (off on : DWord) : (s.setLeaf l off on).thr.id = s.thr.id := by
  unfold State.setLeaf
  split
  · rfl
  · exact s.perform_slot _ _

theorem State.markAccessed_slot (s : State) (l : Leaf) : (s.markAccessed l).2.thr.id = s.thr.id := by
  unfold State.markAccessed
  split
  · rfl
  · exact s.setLeaf_slot l 0 0x40

/-- A translation leaves the slot where it is. -/
theorem State.translate_slot (s : State) (u : TlbUnit) (cl : Nat) (asid : BitVec 16) (va : Nat) (k : AccessKind) (user : Bool) :
    (s.translate u cl asid va k user).2.thr.id = s.thr.id := by
  unfold State.translate
  dsimp only
  split
  · repeat' split
    all_goals simp
  · split
    · repeat' split
      all_goals simp
    · split
      · simp
      · have hwalk (l : Leaf) : (((s.countTlb cl false).markAccessed l).2).thr.id = s.thr.id :=
          (State.markAccessed_slot _ l).trans (congrArg Thread.id (s.countTlb_thr cl false))
        repeat' split
        all_goals simp [hwalk]

/-! ## The checks of a load (R124) -/

/-- The firewall's step of a load hands on the request as it stands. -/
theorem firewallThen_handsOn (m : Asker) (ea : DWord) (r : LaneReq) (s : State) : handsOn (firewallThen m ea .load r s) s := by
  unfold firewallThen
  split
  · split
    · split
      · exact .answer _ fun _ => rfl
      · split
        · exact .answer _ fun _ => rfl
        · split
          · exact .pass r rfl fun _ => rfl
          · exact .answer _ fun _ => rfl
    · exact .pass r rfl fun _ => rfl
  · exact .answer _ fun _ => rfl

/-- The translation of a load hands on what the firewall lets pass. -/
theorem translated_handsOn {m : Asker} {ea : DWord} {n : Nat} {l : Leaf} {s v : State} {p : Except DWord Leaf × State}
    (hp : p = (.ok l, v)) (hslot : p.2.thr.id = s.thr.id) :
    handsOn (firewallThen m ea .load { home := l.home (ptrVa ea).toNat, ea := ea, n := n, leaf := some l } v) s := by
  subst hp
  exact (firewallThen_handsOn m ea _ v).from hslot

theorem globalThen_handsOn (m : Asker) (ea : DWord) (n : Nat) (s : State) : handsOn (globalThen m ea n .load s) s := by
  unfold globalThen
  dsimp only
  split
  · split
    · exact .answer _ fun _ => rfl
    · next l v hv => exact translated_handsOn hv (s.translate_slot ..)
  · split
    · exact .answer _ fun _ => rfl
    · split
      · exact .answer _ fun _ => rfl
      · split
        · exact (firewallThen_handsOn m ea _ _).from (congrArg Thread.id (s.touchPin_thr ..))
        · split
          · exact .answer _ fun _ => rfl
          · next l v hv => exact translated_handsOn hv (s.translate_slot ..)

theorem accessThen_handsOn (ea : DWord) (n : Nat) (s : State) : handsOn (accessThen ea n .load s) s := by
  unfold accessThen
  split
  · exact .answer _ fun _ => rfl
  · split
    · exact .answer _ fun _ => rfl
    · unfold spaceThen
      split
      · exact firewallThen_handsOn .slot ea _ s
      · exact firewallThen_handsOn .slot ea _ s
      · exact globalThen_handsOn .slot ea n s

/-! ## Reading at a home (R126) -/

/-- What a unit reads at a home leaves the slot as it is. -/
theorem State.readFor_thr {s t : State} {a : Agent} {world : BitVec 4} {r : LaneReq} {l : List Byte}
    (h : s.readFor a world r = .bytes l t) : t.thr = s.thr := by
  unfold State.readFor at h
  split at h
  · cases h
  · split at h
    · cases h; rfl
    · split at h
      · split at h <;> (cases h; rfl)
      · split at h <;> cases h
        rfl
      · split at h
        · cases h
          split
          · exact (s.sliceFill_frame _).1
          · rfl
        · cases h

theorem homeBytesThen_handsOn (r : LaneReq) (s : State) : handsOn (homeBytesThen r s) s := by
  unfold homeBytesThen
  split
  · exact .answer _ fun _ => rfl
  · exact .answer _ fun _ => rfl
  · split
    · exact .answer _ fun _ => rfl
    · split
      · next l t ht =>
        exact .pass l (congrArg Thread.id ((State.readFor_thr ht).trans (s.wakeBank_thr _))) fun _ => rfl
      · exact .answer _ fun _ => rfl
      · exact .answer _ fun _ => rfl

theorem homeReadThen_handsOn (ea : DWord) (n : Nat) (s : State) :
    handsOn (fun k => homeReadThen ea n s fun r l s => k (r, l) s) s := by
  refine (accessThen_handsOn ea n s).bind (g := fun r s k => homeBytesThen r s fun l s => k (r, l) (s.readAtHome r)) fun r t _ => ?_
  refine (homeBytesThen_handsOn r t).bind (g := fun l s k => k (r, l) (s.readAtHome r)) fun l v _ => ?_
  refine .pass (r, l) ?_ fun _ => rfl
  unfold State.readAtHome
  split <;> rfl

/-- The words of a record are read by the slot that asks for them. -/
theorem recordRead_slot {p : DWord} {s u : State} {r : LaneReq} {l : List Byte} (h : recordRead p s r l u) : u.thr.id = s.thr.id :=
  (homeReadThen_handsOn p 64 s).slot (x := (r, l)) fun body => h fun r l s => body (r, l) s

end Sys2Proof.Machine
end

section
/-!
PROOFS. Nodes (spec/10_system_instr.md R218 to R220, spec/14_scheduler.md R260, spec/20_engines_memory.md R327): what SPAWN checks and
writes, what an admitted node is, the end of a member by NEND, and the wait for a status record.
-/
namespace Sys2Proof.Machine

/-! ## SPAWN (R218) -/

/-- Once the id is written into the record, SPAWN completes with it, or waits until the write is performed. -/
theorem spawned_answers (d : Reg) (id : Nat) (s : State) :
    (s.writesOut (.slot s.thr.id) = false → spawned d id s = .next ((s.setS d (BitVec.ofNat 64 id)).passedWithin 8 1000)) ∧
    (s.writesOut (.slot s.thr.id) = true →
      spawned d id s = stallFor .fence { s with thr := { s.thr with progress := id } }) :=
  ⟨fun h => if_neg (ne_true_of_eq_false h), fun h => if_pos h⟩

/-- SPAWN that issues again after its write only waits for that. -/
theorem exec_spawn_again {s : State} {d : Reg} {a : PReg} (hrun : mayRun (.spawn d a) s) (hprog : s.thr.progress ≠ 0) :
    exec (.spawn d a) s = spawned d s.thr.progress s := (issue_ok hrun).trans (if_pos hprog)

section
variable {s u v w : State} {d : Reg} {a : PReg} {r q : LaneReq} {l m : List Byte} (hrun : mayRun (.spawn d a) s)
  (hprog : s.thr.progress = 0) (hrel : passes (releaseThen .dv s) u) (hlow : recordRead (u.thr.preg a) u r l v)
  (hhigh : recordRead (adv (u.thr.preg a) 64) v q m w)
include hrun hprog hrel hlow hhigh

/-- SPAWN of a record that its submitter may not submit. -/
theorem exec_spawn_refused {c : Cause} (hbad : checkRecord (w.thr.status.priv = 0) w.thr.world w.thr.asid (l ++ m) (u.thr.preg a) = .error c)
    (hh : w.hasHandler) : trapsWith c w (exec (.spawn d a) s) := by
  have faults : exec (.spawn d a) s = fault c 0 none w := by
    refine (issue_ok hrun).trans ((if_neg (not_not_intro hprog)).trans ((hrel _).trans ((hlow _).trans ((hhigh _).trans ?_))))
    rw [hbad]
  exact faults ▸ fault_open hh

/-- SPAWN of a good record, for which its own die's pool has room, goes on once the id is written. -/
theorem exec_spawn_admits {n : Node} {x : List Byte} {y : State}
    (hok : checkRecord (w.thr.status.priv = 0) w.thr.world w.thr.asid (l ++ m) (u.thr.preg a) = .ok n)
    (hroom : w.poolFull (dieOf w.thr.id.core) = false)
    (hwrite : w.hardwareWrite (.slot w.thr.id) (clusterOf w.thr.id.core) w.thr.world { q with home := q.home.plus 8, n := 8 }
      (toBytes 8 w.nodeId.toNat) = .done x y) :
    exec (.spawn d a) s = spawned d w.nodeId.toNat (y.admitNode (dieOf w.thr.id.core) n) := by
  have hslot : w.thr.id = u.thr.id := (recordRead_slot hhigh).trans (recordRead_slot hlow)
  refine (issue_ok hrun).trans ((if_neg (not_not_intro hprog)).trans ((hrel _).trans ((hlow _).trans ((hhigh _).trans ?_))))
  rw [hok, ← hslot]
  refine (if_neg (ne_true_of_eq_false hroom)).trans ?_
  simp only [hwrite]

end

/-- A die's dispatcher reads as it was put back. -/
@[simp] theorem State.die_setDie (s : State) (d : Nat) (x : Die) : (s.setDie d x).die d = x := by
  simp [State.setDie, State.die, assocD, assocSet]

/-- A node that is admitted stands in the pool of its die or, while that is full, in its deferred list (R260). -/
theorem State.admitNode_places (s : State) (die : Nat) (n : Node) :
    (s.poolFull die = false → s.nodeId.toNat ∈ ((s.admitNode die n).die die).pool) ∧
      (s.poolFull die = true → s.nodeId.toNat ∈ ((s.admitNode die n).die die).deferred) := by
  have hdie : (s.admitNode die n).die die = if s.poolFull die then
      { s.die die with deferred := (s.die die).deferred ++ [s.nodeId.toNat] }
      else { s.die die with pool := (s.die die).pool ++ [s.nodeId.toNat] } := s.die_setDie die _
  rw [hdie]
  exact ⟨fun h => by simp [h], fun h => by simp [h]⟩

/-! ## NEND (R219, R327) -/

/-- Commands that do not run are cancelled without touching a slot. -/
theorem State.cancel_queued {s : State} {p : Cmd → Bool} (h : ∀ c, p c = true → c.st ≠ .running) :
    s.cancel p = { s with cmds := s.cmds.filter (fun c => !p c) } := by
  have hfold (l : List Cmd) (hl : ∀ c ∈ l, c.st ≠ .running) : l.foldl (fun s c =>
      if c.kind = .cpyx ∧ c.st = .running ∧ (s.thread? c.transform).isSome then s.dropThread c.transform else s) s = s := by
    induction l with
    | nil => rfl
    | cons c l ih =>
      have hc : ¬ (c.kind = .cpyx ∧ c.st = .running ∧ (s.thread? c.transform).isSome) :=
        fun hr => hl c List.mem_cons_self hr.2.1
      rw [List.foldl_cons, if_neg hc]
      exact ih fun x hx => hl x (List.mem_cons_of_mem c hx)
  unfold State.cancel
  rw [hfold _ fun c hc => h c (List.mem_filter.mp hc).2]

/-- NEND's cancelling of armed commands touches no slot. -/
theorem State.cancelArmed_thr (s : State) : s.cancelArmed.thr = s.thr := by
  rw [State.cancelArmed, State.cancel_queued]
  intro c hc hrun
  simp [hrun] at hc

/-- NEND ends its member once no work is left and its release has passed. -/
theorem exec_nend_member {s u : State} (hrun : mayRun .nend s) (hcore : isTransform s.thr.id = false) (hidle : nendIdle s)
    (hrel : passes (releaseThen .dv s.cancelArmed) u) : exec .nend s = .next u.memberEnds := by
  obtain ⟨hjobs, hcmds⟩ := hidle
  refine (issue_ok hrun).trans ((if_neg (ne_true_of_eq_false hcore)).trans ((if_neg (ne_true_of_eq_false hjobs)).trans ?_))
  refine (if_neg ?_).trans (hrel _)
  rw [Bool.not_eq_true, List.any_eq_false, s.cancelArmed_thr]
  intro c hc hwork
  simp only [Bool.and_eq_true, decide_eq_true_eq] at hwork
  obtain ⟨⟨hslot, hnode⟩, hst⟩ := hwork
  obtain ⟨k, hk⟩ := hcmds c hc hslot hnode
  rw [hk] at hst
  cases hst

/-- A member that has executed NEND is marked in its node. -/
theorem State.memberEnds_member {u : State} {n : Node} (hn : n ∈ u.nodes) (hid : n.id = u.thr.node) : ∃ x ∈ u.memberEnds.nodes,
    x.id = n.id ∧ x.members = n.members.map (fun y => if y.id = u.thr.id then { y with ended := true } else y) := by
  refine ⟨_, List.mem_map_of_mem hn, ?_⟩
  rw [if_pos hid]
  exact ⟨rfl, rfl⟩

/-- NEND of a routine that has published what it says ends it (R327). -/
theorem exec_nend_routine {s : State} (hrun : mayRun .nend s) (hx : isTransform s.thr.id = true)
    (hpub : (s.thr.sreg 3).toNat ≤ 64 * s.readHome (ownLm s.thr.id 0x5800) 4) (hbound : (s.thr.sreg 3).toNat ≤ s.routineB) :
    exec .nend s = .next { s with thr := { s.thr.done s.clock with run := .ended } } :=
  (issue_ok hrun).trans ((if_pos hx).trans (if_neg (by omega)))

/-! ## NWAIT (R220) -/

/-- NWAIT goes on when no node of the id has still to write its status record, and stalls while one has. -/
theorem exec_nwait_answers {s : State} {a : Reg} (hrun : mayRun (.nwait a) s) :
    ((∀ n, s.node? (s.thr.sreg a).toNat = some n → n.unreported = false) →
      exec (.nwait a) s = .next ((s.acquire s.thr.id.core .dv).passed 8)) ∧
    (∀ n, s.node? (s.thr.sreg a).toNat = some n → n.unreported = true → exec (.nwait a) s = stallFor .node s) := by
  refine ⟨fun h => (issue_ok hrun).trans (if_neg ?_), fun n hn hu => (issue_ok hrun).trans (if_pos ?_)⟩
  · cases hn : s.node? (s.thr.sreg a).toNat with
    | none => exact nofun
    | some n => exact ne_true_of_eq_false (h n hn)
  · rw [hn]; exact hu

/-- Settles O38: SPAWN by its checks and its write, NEND by what is left to do, NWAIT by the record. -/
theorem nodeWords : Obligations.NodeWords := by
  refine ⟨fun s u v w d a r q l m hrun hprog hrel hlow hhigh => ?spawn, fun s d a hrun hprog hwrites => ?again,
    fun s die n => ⟨rfl, rfl, s.admitNode_places die n⟩, fun s u hrun => ⟨fun hcore hidle hrel => ?member, exec_nend_routine hrun⟩,
    fun s a => exec_nwait_answers⟩
  case spawn =>
    refine ⟨fun n x y hok hroom hwrite => ?_, fun c => exec_spawn_refused hrun hprog hrel hlow hhigh⟩
    have hexec := exec_spawn_admits hrun hprog hrel hlow hhigh hok hroom hwrite
    obtain ⟨hdone, hwait⟩ := spawned_answers d w.nodeId.toNat (y.admitNode (dieOf w.thr.id.core) n)
    rw [BitVec.ofNat_toNat] at hdone
    exact ⟨fun hout => hexec.trans (hdone hout), fun hout => hexec.trans (hwait hout)⟩
  case again => exact (exec_spawn_again hrun hprog).trans ((spawned_answers d s.thr.progress s).1 hwrites)
  case member => exact ⟨_, exec_nend_member hrun hcore hidle hrel, rfl, rfl, rfl, fun n hn hid => State.memberEnds_member hn hid⟩

end Sys2Proof.Machine
end

section
/-!
PROOFS. Barriers and votes (spec/10_system_instr.md R221, R222, spec/14_scheduler.md R270): the arrivals at a counter, and what a vote's
members write.
-/
namespace Sys2Proof.Machine

/-! ## BARR (R221) -/

/-- A barrier counter reads as it was put back. -/
@[simp] theorem State.barrier_setBarrier (s : State) (cl c : Nat) (b : Barrier) : (s.setBarrier cl c b).barrier cl c = b := by
  simp [State.setBarrier, State.barrier, assocD, assocSet]

/-- An element that is free, or the slot's own node's, is not claimed by another. -/
theorem State.claimedByOther_eq_false {s : State} {o : Option Nat} : s.claimedByOther o = false ↔ o = none ∨ o = some s.thr.node := by
  cases o <;> simp [State.claimedByOther]

/-- An acquire leaves the barriers. -/
@[simp] theorem State.acquire_barriers (s : State) (core : Nat) (sc : Scope) : (s.acquire core sc).barriers = s.barriers := by
  unfold State.acquire; split <;> rfl

/-- A member of the executing slot's node may arrive at this counter with this count (R221). -/
def State.arrivesWell (s : State) (b : Barrier) (n : Nat) : Prop :=
  1 ≤ n ∧ n ≤ 512 ∧ (b.node = none ∨ b.node = some s.thr.node) ∧ (b.arrived = 0 ∨ b.count = n)

/-- An arrival that passes its checks and its release is the last one, which opens the counter, or waits in the round. -/
theorem exec_barr_arrives {s u : State} {a : Reg} {c : Fin 16} {b : Barrier} {n cl : Nat} (hrun : mayRun (.barr a c) s)
    (hn : (s.thr.sreg a).toNat = n) (hcl : clusterOf s.thr.id.core = cl) (hb : s.barrier cl c.val = b) (hwell : s.arrivesWell b n)
    (hrel : passes (releaseThen .cl s) u) : exec (.barr a c) s =
      if b.arrived + 1 = n then retire 8 ((u.openBarrier cl c.val b).acquire u.thr.id.core .cl)
      else waitFor (.barrier c.val b.round)
        (u.setBarrier cl c.val { b with node := some u.thr.node, count := n, arrived := b.arrived + 1 }) := by
  obtain ⟨hlo, hhi, hclaim, hcount⟩ := hwell
  subst hn hcl hb
  refine (issue_ok hrun).trans ((if_neg ?_).trans (hrel _))
  have hzero : (s.thr.sreg a).toNat ≠ 0 := by omega
  simp [hzero, hhi, State.claimedByOther_eq_false.mpr hclaim]
  omega

/-- A count outside 1 to 512 is a bad operand. -/
theorem exec_barr_faults {s : State} {a : Reg} {c : Fin 16} (hrun : mayRun (.barr a c) s) (hh : s.hasHandler)
    (hn : (s.thr.sreg a).toNat = 0 ∨ 512 < (s.thr.sreg a).toNat) : trapsWith .operand s (exec (.barr a c) s) := by
  have faults : exec (.barr a c) s = fault .operand 0 none s := by
    refine (issue_ok hrun).trans (if_pos ?_)
    rcases hn with hn | hn <;> simp [hn]
  exact faults ▸ fault_open hh

/-- The last arrival reopens the counter, and lets the waiters of its node's round go on or, after a STEP, stand at the word again
(R362). -/
theorem State.openBarrier_frame (s : State) (cl c : Nat) (b : Barrier) : (s.openBarrier cl c b).thr = s.thr ∧
    ((s.openBarrier cl c b).barrier cl c).arrived = 0 ∧ (s.openBarrier cl c b).others = s.others.map (fun x =>
      if clusterOf x.id.core = cl ∧ x.node = s.thr.node ∧ x.wait = .barrier c b.round
      then (if x.stepping = .begun then { x with wait := .stall .waitTable } else (x.done (s.clock + 8)).arrive x.following) else x) := by
  refine ⟨rfl, congrArg Barrier.arrived (s.barrier_setBarrier cl c _), List.map_congr_left fun x _ => ?_⟩
  by_cases hmine : clusterOf x.id.core = cl ∧ x.node = s.thr.node
  · rw [if_pos hmine]
    by_cases hwait : x.wait = .barrier c b.round
    · rw [if_pos ⟨hmine.1, hmine.2, hwait⟩]
      exact if_pos hwait
    · rw [if_neg fun h => hwait h.2.2]
      exact if_neg hwait
  · rw [if_neg hmine, if_neg fun h => hmine ⟨h.1, h.2.1⟩]

/-! ## YARD (R222) -/

/-- The instruction of a vote. -/
def voteInstr (all_ : Bool) (d a : Reg) : Instr := if all_ then .yardAll d a else .yardAny d a

theorem exec_voteInstr (all_ : Bool) (d a : Reg) (s : State) : exec (voteInstr all_ d a) s = vote (voteInstr all_ d a) all_ d a s := by
  cases all_ <;> rfl

/-- The outcome of a vote: whether any, or all, of the members' registers are nonzero. -/
theorem votes_eq (all_ : Bool) (a : Reg) (l : List Thread) :
    (if all_ then (l.map (fun t => t.sreg a != 0)).all (fun b => b) else (l.map (fun t => t.sreg a != 0)).any (fun b => b)) =
      if all_ then decide (∀ t ∈ l, t.sreg a ≠ 0) else decide (∃ t ∈ l, t.sreg a ≠ 0) := by
  cases all_
  · rw [Bool.eq_iff_iff]; simp
  · rw [Bool.eq_iff_iff]; simp

/-- The attached followers of the slot's yard that have not ended hold the outcome of a vote. -/
def State.tellFollowers (s : State) (r : Bool) : State :=
  { s with others := s.others.map (fun t =>
      if t.node = s.thr.node ∧ t.role = .follower ∧ t.run ≠ .ended then { t with progress := 2 + r.toNat } else t) }

/-- A follower that the leader waits for is told the outcome. -/
theorem State.tellFollowers_attached {s : State} {t : Thread} (r : Bool) (ht : t ∈ s.attached) :
    ∃ x ∈ (s.tellFollowers r).others, x = { t with progress := if r then 3 else 2 } := by
  simp only [State.attached, State.yard, List.mem_filter, Bool.and_eq_true, decide_eq_true_eq] at ht
  obtain ⟨⟨hmem, ⟨hnode, -⟩, -⟩, hrole, hlives⟩ := ht
  have hcode : 2 + r.toNat = if r then 3 else 2 := by cases r <;> rfl
  exact ⟨_, List.mem_map_of_mem hmem, hcode ▸ if_pos ⟨hnode, hrole, hlives⟩⟩

section
variable {s : State} {all_ : Bool} {d a : Reg} (hrun : mayRun (voteInstr all_ d a) s)
include hrun

/-- A leader whose attached followers all stand at the vote writes the outcome and tells them. -/
theorem exec_vote_leader (hrole : s.thr.role = .leader)
    (hmeet : ∀ t ∈ s.attached, t.pc = s.thr.pc ∧ t.wait = .stall .yard ∧ t.progress = 0) {r : Bool}
    (hr : r = if all_ then decide (∀ t ∈ s.thr :: s.attached, t.sreg a ≠ 0) else decide (∃ t ∈ s.thr :: s.attached, t.sreg a ≠ 0)) :
    exec (voteInstr all_ d a) s = retire 16 ((s.tellFollowers r).setS d (boolWord r)) := by
  have hall : s.attached.all (voting s.thr.pc) = true := by
    rw [List.all_eq_true]
    intro t ht
    obtain ⟨hpc, hwait, hprog⟩ := hmeet t ht
    simp [voting, hpc, hwait, hprog]
  rw [exec_voteInstr, vote, issue_ok hrun, hrole]
  dsimp only
  rw [if_pos hall, votes_eq, ← hr]
  rfl

/-- A follower that has been told the outcome writes it. -/
theorem exec_vote_follower {b : Bool} (hrole : s.thr.role = .follower) (hprog : s.thr.progress = 2 + b.toNat) :
    exec (voteInstr all_ d a) s = .next ((s.setS d (if b then 1 else 0)).passed 16) := by
  have hvalue : BitVec.ofNat 64 (s.thr.progress - 2) = if b then 1 else 0 := by
    rw [hprog, Nat.add_sub_cancel_left]
    cases b <;> rfl
  rw [exec_voteInstr, vote, issue_ok hrun, hrole]
  dsimp only
  rw [if_pos (by omega), hvalue]
  rfl

/-- A detached member votes alone. -/
theorem exec_vote_detached (hrole : s.thr.role = .detached) :
    exec (voteInstr all_ d a) s = .next ((s.setS d (if s.thr.sreg a = 0 then 0 else 1)).passed 16) := by
  have hvalue : boolWord (s.thr.sreg a != 0) = if s.thr.sreg a = 0 then 0 else 1 := by
    by_cases h : s.thr.sreg a = 0 <;> simp [boolWord, h]
  rw [exec_voteInstr, vote, issue_ok hrun, hrole]
  dsimp only
  rw [hvalue]
  rfl

end

/-- YARD.det detaches a follower, and does nothing in another member. -/
theorem exec_yardDet {s : State} (hrun : mayRun .yardDet s) :
    (s.thr.role = .follower → exec .yardDet s =
      .next (State.passed 16 { s with thr := { s.thr with role := .detached, fifo := [] } })) ∧
    (s.thr.role ≠ .follower → exec .yardDet s = .next (s.passed 16)) := by
  have hstart : exec .yardDet s = _ := issue_ok hrun
  cases hrole : s.thr.role <;> rw [hrole] at hstart
  · exact ⟨nofun, fun _ => hstart⟩
  · exact ⟨fun _ => hstart, fun h => absurd rfl h⟩
  · exact ⟨nofun, fun _ => hstart⟩

/-- Settles O39: BARR by whether the arrival is the last, a vote by the member's role. -/
theorem barriersAndVotes : Obligations.BarriersAndVotes := by
  refine ⟨fun s u a c hrun => ⟨fun hlo hhi hclaim hcount hrel => ?arrives, fun hh hn => exec_barr_faults hrun hh hn⟩,
    fun s all_ d a => ?votes, fun s => exec_yardDet⟩
  case arrives =>
    have hexec := exec_barr_arrives hrun rfl rfl rfl ⟨hlo, hhi, hclaim, hcount⟩ hrel
    refine ⟨fun hlast => ⟨_, hexec.trans (if_pos hlast), u.openBarrier_frame _ _ _⟩,
      fun hmore => ⟨_, hexec.trans (if_neg hmore), rfl, ?_, ?_, rfl⟩⟩
    · exact congrArg Barrier.arrived (u.barrier_setBarrier _ _ _)
    · exact congrArg Barrier.count (u.barrier_setBarrier _ _ _)
  case votes =>
    intro i hrun
    exact ⟨fun hrole hmeet => ⟨_, exec_vote_leader hrun hrole hmeet rfl, fun t ht => State.tellFollowers_attached _ ht⟩,
      fun b => exec_vote_follower hrun, exec_vote_detached hrun⟩

end Sys2Proof.Machine
end

section
/-!
PROOFS. The end of a node (spec/10_system_instr.md R219, spec/16_directory.md R289, R290, spec/18_faults_preemption.md R309, R367,
spec/21_fabric_host.md R343): how it begins, and each of its steps.
-/
namespace Sys2Proof.Machine

/-! ## The beginning (R219, R367) -/

section
variable {s : State} {id : Nat} {n : Node} (hn : s.node? id = some n)
include hn

/-- A node with no end in progress whose end has come begins it, a cause's after the cycle of the cause. -/
theorem exec_nodeEnd_begins {f : Finishing} (hends : n.ends = none) (hf : n.finishing = some f) : exec (.nodeEnd id) s =
    if n.ending.isSome && !s.shut n then notEnabled "NODE_END" else .next (s.endAt n f) := by
  show execNodeEnd id s = _
  unfold execNodeEnd
  simp only [hn, hends, hf]

/-- A node whose end has not come has no step of it. -/
theorem exec_nodeEnd_waits (hends : n.ends = none) (hf : n.finishing = none) : exec (.nodeEnd id) s = notEnabled "NODE_END" := by
  show execNodeEnd id s = _
  unfold execNodeEnd
  simp only [hn, hends, hf]

/-- An end in progress goes on with its next step. -/
theorem exec_nodeEnd_goes {f : Finishing} (hends : n.ends = some f) : exec (.nodeEnd id) s = endingStep n f s := by
  show execNodeEnd id s = _
  unfold execNodeEnd
  simp only [hn, hends]

/-- By a cause the end begins after the cycle of the cause. -/
theorem exec_nodeEnd_caused {e : Ending} (hends : n.ends = none) (he : n.ending = some e) :
    (n.endedAt ≠ s.clock →
      exec (.nodeEnd id) s = .next (s.endAt n { cause := some e, pc := e.pc, step := .settle, due := [] })) ∧
    (n.endedAt = s.clock → exec (.nodeEnd id) s = notEnabled "NODE_END") := by
  have hfin : n.finishing = some { cause := some e, pc := e.pc, step := .settle, due := [] } := by rw [Node.finishing, he]
  have hshut : s.shut n = !decide (n.endedAt = s.clock) := by simp [State.shut, Node.closing, he, hends]
  rw [exec_nodeEnd_begins hn hends hfin, hshut, he]
  exact ⟨fun h => by simp [h], fun h => by simp [h]⟩

/-- Without one it begins once every member has executed NEND. -/
theorem exec_nodeEnd_uncaused (hends : n.ends = none) (he : n.ending = none) :
    (n.allEnded = true →
      exec (.nodeEnd id) s = .next (s.endAt n { cause := none, pc := n.nendPc, step := .settle, due := [] })) ∧
    (n.allEnded = false → exec (.nodeEnd id) s = notEnabled "NODE_END") := by
  have hfin : n.finishing = if n.allEnded then some { cause := none, pc := n.nendPc, step := .settle, due := [] } else none := by
    rw [Node.finishing, he]
  constructor
  · intro h
    rw [exec_nodeEnd_begins hn hends (hfin.trans (if_pos h)), he]
    rfl
  · intro h
    exact exec_nodeEnd_waits hn hends (hfin.trans (if_neg (ne_true_of_eq_false h)))

end

/-! ## Its steps -/

section
variable {s : State} {n : Node} {f : Finishing}

/-- After NEND the commands that are left are cancelled. -/
theorem settleStep_uncaused (hc : f.cause = none) :
    settleStep n f s = .next ((s.cancel (fun c => c.node = n.id)).endAt n { f with step := .clear }) := by
  rw [settleStep, hc]

/-- After a cause too, once no chunk is written in part and every seal has its abort record. -/
theorem settleStep_caused {e : Ending} (hc : f.cause = some e) (hmid : s.midChunk n.id = false)
    (hseals : ∀ c ∈ s.cmds, c.node = n.id → c.kind = .seal_ → c.st ≠ .queued ∧ c.st ≠ .running) :
    settleStep n f s = .next (((s.cancel (fun c => c.node = n.id)).abandonSpill n).endAt n { f with step := .clear }) := by
  have hnone : s.cmds.find? (fun c => c.node = n.id && c.kind = .seal_ && (c.st = .queued || c.st = .running)) = none := by
    rw [List.find?_eq_none]
    intro c hcmd hsel
    simp only [Bool.and_eq_true, Bool.or_eq_true, decide_eq_true_eq] at hsel
    obtain ⟨⟨hnode, hkind⟩, hst⟩ := hsel
    obtain ⟨hq, hr⟩ := hseals c hcmd hnode hkind
    exact hst.elim hq hr
  simp only [settleStep, hc, hmid, hnone, Bool.false_eq_true, if_false]

/-- A line that the release still has to send is one that it covers. -/
theorem State.nodeLines_mono {p q : SbEntry → Bool} {id : Nat} (hpq : ∀ x, p x = true → q x = true) (h : s.nodeLines id q = false) :
    s.nodeLines id p = false := by
  simp only [State.nodeLines, List.any_eq_false, Bool.and_eq_true, not_and, Bool.not_eq_true] at h ⊢
  exact fun t ht x hx hcov => Bool.eq_false_of_not_eq_true fun hp => ne_true_of_eq_false (h t ht x hx hcov) (hpq x hp)

section
variable (hlines : s.nodeLines n.id (fun _ => true) = false) (hwrites : s.nodeWrites n = false)
include hlines hwrites

/-- With every line performed, a node without leases goes on. -/
theorem releaseStep_unleased (hfree : ∀ g ∈ n.grants, g.obj = none) : releaseStep n f s = .next (s.endAt n { f with step := .status }) := by
  have hall : n.grants.all (fun g => g.obj.isNone) = true :=
    List.all_eq_true.mpr fun g hg => Option.isNone_iff_eq_none.mpr (hfree g hg)
  have hunsent := State.nodeLines_mono (p := fun x => !x.sent) (fun _ _ => rfl) hlines
  simp [releaseStep, hunsent, hlines, hwrites, hall]

/-- With every line performed, a node with leases ends them on its turn in the directory. -/
theorem releaseStep_leased (hheld : ∃ g ∈ n.grants, g.obj ≠ none) (hturn : s.dirTurn (.end_ n.id) = true) :
    releaseStep n f s = .next (((s.dirServed (.end_ n.id)).endLeases n).endAt n { f with step := .status }) := by
  have hall : ¬ n.grants.all (fun g => g.obj.isNone) = true := by
    obtain ⟨g, hg, hobj⟩ := hheld
    exact fun hall => hobj (Option.isNone_iff_eq_none.mp (List.all_eq_true.mp hall g hg))
  have hunsent := State.nodeLines_mono (p := fun x => !x.sent) (fun _ _ => rfl) hlines
  simp only [releaseStep, hunsent, hlines, hwrites, hturn, if_neg hall, Bool.or_false, Bool.false_eq_true, if_false, if_true]

end

/-- The cause of an end as its status record has it: 0 after NEND (R219). -/
def Finishing.code (f : Finishing) : Nat := (f.cause.map (fun e => e.cause.code)).getD 0

/-- The status record is written where STAT points; then the end goes on. -/
theorem statusStep_writes {x : List Byte} {t : State} (hstat : n.stat ≠ 0)
    (hw : s.engineWriteRange (State.nodeUser n) n.stat (toBytes 8 (n.id * 2 ^ 32 + 2 ^ 8 + f.code) ++ toBytes 8 f.pc.toNat) = .done x t) :
    statusStep n f s = .next (t.endAt n { f with step := .signal }) := by
  cases hc : f.cause with
  | none =>
    simp only [Finishing.code, hc, Option.map_none, Option.getD_none] at hw
    simp only [statusStep, hc, if_neg hstat, hw]
  | some e =>
    simp only [Finishing.code, hc, Option.map_some, Option.getD_some] at hw
    simp only [statusStep, hc, if_neg hstat, hw]

/-- A node that is gone is not found by its id. -/
theorem State.node?_forget (s : State) (n : Node) : (s.forget n).node? n.id = none := by
  simp only [State.node?, State.forget, List.find?_eq_none, List.mem_filter]
  intro m hm hid
  simp only [decide_eq_true_eq, Bool.and_eq_true] at hm hid
  exact hm.2 hid.1

section
variable (hout : s.writesOut (.node n.id) = false)
include hout

theorem signalStep_uncaused (hc : f.cause = none) : signalStep n f s = .next ((s.signalHost n).endAt n { f with step := .list }) := by
  simp only [signalStep, hout, hc, Bool.false_eq_true, if_false]

theorem signalStep_caused {e : Ending} (hc : f.cause = some e) :
    (s.recordsFull n = false → signalStep n f s = .next ((((s.signalHost n).endRecord n e).tellSessions n.id).forget n)) ∧
    (s.recordsFull n = true → signalStep n f s = notEnabled "NODE_END") := by
  simp only [signalStep, hout, hc, Bool.false_eq_true, if_false]
  exact ⟨fun h => if_neg (ne_true_of_eq_false h), fun h => if_pos h⟩

end

/-- A word of bytes fits 64 bits. -/
theorem wordAt_lt (l : List Byte) (i : Nat) : wordAt l i < 2 ^ 64 := by
  refine Nat.lt_of_lt_of_le (ofBytes_lt _) (Nat.pow_le_pow_right (by decide) ?_)
  have := List.length_take_le 8 (l.drop (8 * i))
  omega

/-- The pointers of a successor list are its words up to the first zero. -/
theorem succPtrs_eq_takeWhile (l : List Byte) (k i : Nat) :
    succPtrs l k i = ((List.range' i k).map (fun j => BitVec.ofNat 64 (wordAt l j))).takeWhile (fun w => w ≠ 0) := by
  induction k generalizing i with
  | zero => rfl
  | succ k ih =>
    have hzero : BitVec.ofNat 64 (wordAt l i) = 0 ↔ wordAt l i = 0 := by
      rw [← BitVec.toNat_inj, BitVec.toNat_ofNat, Nat.mod_eq_of_lt (wordAt_lt l i)]
      rfl
    rw [succPtrs, List.range'_succ, List.map_cons, List.takeWhile_cons, ih]
    simp only [ne_eq, hzero]
    by_cases h : wordAt l i = 0 <;> simp [h]

/-- The successors are those of the list, which a node without SUCC has not. -/
theorem listStep_reads : (n.succ = 0 → listStep n f s = .next ((s.dropGot (.node n.id)).endAt n { f with step := .deps [] })) ∧
    (∀ l t, n.succ ≠ 0 → s.engineReadRange (State.nodeUser n) n.succ 128 = .done l t → listStep n f s =
      .next ((t.dropGot (.node n.id)).endAt n { f with step := .deps (((List.range 16).map (fun i => BitVec.ofNat 64 (wordAt l i))).takeWhile
        (fun w => w ≠ 0)) })) := by
  refine ⟨fun h => if_pos h, fun l t h hread => (if_neg h).trans ?_⟩
  rw [hread, List.range_eq_range', ← succPtrs_eq_takeWhile]

/-- With room for a record, the next successor's DEPS is decremented, and one that reaches zero becomes due. -/
theorem depsStep_decrements {p : DWord} {l : List DWord} {t : State} (hroom : s.recordsFull n = false) :
    (s.decrement n p = .done t → depsStep n f (p :: l) s = .next ((t.dropGot (.node n.id)).endAt n { f with step := .deps l })) ∧
    (s.decrement n p = .due t → depsStep n f (p :: l) s =
      .next ((t.dropGot (.node n.id)).endAt n { f with step := .deps l, due := f.due ++ [p] })) := by
  simp only [depsStep, hroom, Bool.false_eq_true, if_false]
  exact ⟨fun h => by rw [h], fun h => by rw [h]⟩

/-- With room for a record, the next successor that is due is submitted. -/
theorem submitStep_submits {p : DWord} {l : List DWord} {t : State} (hdue : f.due = p :: l) (hroom : s.recordsFull n = false)
    (hsub : s.submitSuccessor n p = .done t) : submitStep n f s = .next ((t.dropGot (.node n.id)).endAt n { f with due := l }) := by
  simp only [submitStep, hdue, hroom, hsub, Bool.false_eq_true, if_false]

end

/-- Settles O40: the beginning by its cause or its members, and each step by its own function. -/
theorem nodeEnds : Obligations.NodeEnds := by
  intro s id n hn goes refuses
  obtain rfl : n.id = id := by
    have hfound := List.find?_some hn
    simp only [Bool.and_eq_true, decide_eq_true_eq] at hfound
    exact hfound.1
  refine ⟨fun hends => ⟨fun e he => exec_nodeEnd_caused hn hends he, fun he => (exec_nodeEnd_uncaused hn hends he).1,
    fun he => (exec_nodeEnd_uncaused hn hends he).2⟩, fun f hends => ?steps⟩
  intro gone
  have hgo := exec_nodeEnd_goes hn hends
  obtain ⟨cause, pc, step, due⟩ := f
  refine ⟨?settle, ?settleCause, ?clear, ?release, ?status, ?signal, ?list, ?noDeps, ?deps, ?submit⟩
  case settle =>
    rintro rfl hc
    exact hgo.trans (settleStep_uncaused hc)
  case settleCause =>
    rintro e rfl hc hmid hseals
    exact hgo.trans (settleStep_caused hc hmid hseals)
  case clear =>
    rintro rfl
    exact hgo
  case release =>
    rintro rfl hlines hwrites
    exact ⟨fun hfree => hgo.trans (releaseStep_unleased hlines hwrites hfree),
      fun hheld hturn => hgo.trans (releaseStep_leased hlines hwrites hheld hturn)⟩
  case status =>
    rintro rfl
    refine ⟨fun h => hgo.trans (if_pos h), fun x t hstat hw => ?_⟩
    refine hgo.trans (statusStep_writes (x := x) (f := { cause := cause, pc := pc, step := .status, due := due }) hstat ?_)
    cases cause <;> exact hw
  case signal =>
    rintro rfl hout
    exact ⟨fun hc => hgo.trans (signalStep_uncaused hout hc),
      fun e hc hroom => ⟨hgo.trans ((signalStep_caused hout hc).1 hroom), State.node?_forget _ n⟩,
      fun e hc hfull => hgo.trans ((signalStep_caused hout hc).2 hfull)⟩
  case list =>
    rintro rfl
    exact ⟨fun h => hgo.trans (listStep_reads.1 h), fun l t h hread => hgo.trans (listStep_reads.2 l t h hread)⟩
  case noDeps =>
    rintro rfl
    exact hgo
  case deps =>
    rintro p l t rfl hroom
    exact ⟨fun h => hgo.trans ((depsStep_decrements hroom).1 h), fun h => hgo.trans ((depsStep_decrements hroom).2 h)⟩
  case submit =>
    rintro rfl
    refine ⟨?_, fun p l t hdue hroom hsub => hgo.trans (submitStep_submits hdue hroom hsub)⟩
    rintro rfl
    exact ⟨hgo, s.node?_forget n⟩

end Sys2Proof.Machine
end

section
/-!
PROOFS. Engine commands at issue (spec/10_system_instr.md R223 to R226, spec/14_scheduler.md R272, spec/20_engines_memory.md R324, R325,
spec/22_trust.md R358): the look at the control word, and the place in a queue.
-/
namespace Sys2Proof.Machine

/-- The word of a command. -/
def commandInstr (k : CmdKind) (d a : PReg) (b : Reg) (l n r q : Bool) : Instr :=
  match k with
  | .cpy => .cpy d a b l n r q
  | .cpyx => .cpyx d a b l n r q
  | .seal_ => .sealOut d a b n r q

/-- A command's word that may run is one command of its kind; a seal is never cleared. -/
theorem exec_commandInstr {s : State} {k : CmdKind} {d a : PReg} {b : Reg} {l n r q : Bool} (hrun : mayRun (commandInstr k d a b l n r q) s) :
    exec (commandInstr k d a b l n r q) s = command k d a b (l && k ≠ .seal_) n r q s := by
  cases k
  · rw [show (l && CmdKind.cpy ≠ .seal_) = l from Bool.and_true l]; exact issue_ok hrun
  · rw [show (l && CmdKind.cpyx ≠ .seal_) = l from Bool.and_true l]; exact issue_ok hrun
  · rw [show (l && CmdKind.seal_ ≠ .seal_) = false from Bool.and_false l]; exact issue_ok hrun

/-- The ring at an end of a command, if it is one; a seal has none (R324). -/
def State.ringEnd (s : State) (k : CmdKind) (p : DWord) : Option Nat := if k = .seal_ then none else s.fifoAt p

/-- What a command's control word must be before anything else is looked at: its routine loaded, its counter and its term not another
node's, and its length whole slots where an end is a ring (R224). -/
def State.plainCommand (s : State) (k : CmdKind) (w : ControlWord) (src dst : DWord) : Prop :=
  s.routineOk k (clusterOf s.thr.id.core) w.routine = true ∧
    (w.cnt = true → s.claimedByOther (s.counter (clusterOf s.thr.id.core) w.ctr).node = false) ∧
    (w.arm = true → s.claimedByOther (s.term (clusterOf s.thr.id.core) w.term).node = false) ∧
    ((s.ringEnd k src).isSome = true ∨ (s.ringEnd k dst).isSome = true → w.len % 64 = 0)

/-- The check of the control word, as the command makes it. -/
theorem State.plainCommand_iff {s : State} {k : CmdKind} {w : ControlWord} {src dst : DWord} : s.plainCommand k w src dst ↔
    (!s.routineOk k (clusterOf s.thr.id.core) w.routine || (w.cnt && s.claimedByOther (s.counter (clusterOf s.thr.id.core) w.ctr).node)
      || (w.arm && s.claimedByOther (s.term (clusterOf s.thr.id.core) w.term).node)
      || (((s.ringEnd k src).isSome || (s.ringEnd k dst).isSome) && w.len % 64 ≠ 0)) = false := by
  simp only [State.plainCommand, Bool.or_eq_false_iff, Bool.and_eq_false_imp, Bool.not_eq_false', and_assoc, Bool.or_eq_true,
    decide_eq_false_iff_not, ne_eq, not_not]

section
variable {s u v x : State} {k : CmdKind} {d a : PReg} {b : Reg} {l n r q : Bool}

/-- A command whose control word breaks the first checks has no effect but its trap. -/
theorem command_faults (hh : s.hasHandler) (hplain : ¬ s.plainCommand k (controlWord (s.thr.sreg b)) (s.thr.preg a) (s.thr.preg d)) :
    trapsWith .operand s (command k d a b l n r q s) := by
  have faults : command k d a b l n r q s = fault .operand 0 none s :=
    if_pos (Bool.eq_true_of_not_eq_false (mt State.plainCommand_iff.mpr hplain))
  exact faults ▸ fault_open hh

/-- A command that passes every check and need not wait is queued (R224, R272). -/
theorem command_queues {size : Nat} {guard : Option Nat} {w : ControlWord} (hw : controlWord (s.thr.sreg b) = w)
    (hsize : s.destLen k (clusterOf s.thr.id.core) w.routine w.len = size)
    (hguard : (if s.thr.status.pending 6 then some s.thr.status.hguard.toNat else none) = guard)
    (hplain : s.plainCommand k w (s.thr.preg a) (s.thr.preg d))
    (hranges : passes (commandRanges k (s.thr.preg a) (s.thr.preg d) (endLen (s.ringEnd k (s.thr.preg a)) w.len)
      (endLen (s.ringEnd k (s.thr.preg d)) size) l s) u)
    (hok : passes (guardOk guard (s.thr.preg d) size u) u) (hrel : passes (releaseIf r u.thr.status.scope u) v)
    (hres : passes (guardThen guard size v) x) (hnotify : n = true → x.notifiesDue < 8)
    (hroom : x.queueFull k (clusterOf s.thr.id.core) = false) :
    command k d a b l n r q s = .next ((x.enqueue k (s.thr.preg a) (s.thr.preg d) w guard l n q).passed 8) := by
  subst hw hsize hguard
  have hdue : ¬ (n && decide (8 ≤ x.notifiesDue)) = true := by
    rw [Bool.and_eq_true, decide_eq_true_eq]
    exact fun h => Nat.not_le.mpr (hnotify h.1) h.2
  refine (if_neg (ne_true_of_eq_false (State.plainCommand_iff.mp hplain))).trans ((hranges _).trans ((hok _).trans ((hrel _).trans
    ((hres _).trans ((if_neg hdue).trans ((if_neg (ne_true_of_eq_false hroom)).trans ?_))))))
  rfl

end

/-- The command that is queued has the fields of its word. -/
theorem State.mem_enqueue (s : State) (k : CmdKind) (src dst : DWord) (w : ControlWord) (guard : Option Nat) (l n q : Bool) :
    ∃ c ∈ (s.enqueue k src dst w guard l n q).cmds, c.id = s.nextCmd ∧ c.kind = k ∧ c.src = src ∧ c.dst = dst ∧ c.len = w.len ∧
      c.tag = w.tag ∧ c.slot = s.thr.id ∧ c.node = s.thr.node ∧ c.guard = guard ∧
      c.st = if w.len = 0 ∧ w.arm = false then .finishing 0 else .queued :=
  ⟨_, List.mem_append_right _ (List.mem_singleton.mpr rfl), rfl, rfl, rfl, rfl, rfl, rfl, rfl, rfl, rfl, rfl⟩

/-- Settles O41: by the check of the control word, and then by each of the checks and waits that follow it. -/
theorem engineCommandWords : Obligations.EngineCommandWords := by
  intro s u v x d a b l n r q k i cleared w cl src dst ring size guard plain hrun
  have hexec : exec i s = command k d a b cleared n r q s := exec_commandInstr hrun
  refine ⟨fun hplain hranges hok hrel hres hnotify hroom => ⟨?_, x.mem_enqueue k src dst w guard cleared n q⟩, fun hplain hh => ?_⟩
  · exact hexec.trans (command_queues rfl rfl rfl hplain hranges hok hrel hres hnotify hroom)
  · exact hexec ▸ command_faults hh hplain

end Sys2Proof.Machine
end

section
/-!
PROOFS. Engine commands at work (spec/10_system_instr.md R225 to R227, R229, spec/18_faults_preemption.md R314,
spec/20_engines_memory.md R332): what an attempt at a chunk leaves, the start of an armed command, and completion.
-/
namespace Sys2Proof.Machine

/-! ## The command an engine works on -/

/-- The command that an engine works on stands in the queues under its id. -/
theorem State.engineCmd_mem {s : State} {mine : Cmd → Bool} {c : Cmd} (h : s.engineCmd mine = some c) : ∃ x ∈ s.cmds, x.id = c.id := by
  unfold State.engineCmd at h
  split at h
  · next y hy =>
    split at h
    · cases h
    · cases h; exact ⟨_, List.mem_of_find?_eq_some hy, rfl⟩
  · obtain ⟨y, hy, rfl⟩ := Option.map_eq_some_iff.mp h
    exact ⟨y, List.mem_of_find?_eq_some hy, rfl⟩

/-- A command put back stands in the queues. -/
theorem State.mem_putCmd {s : State} {c x : Cmd} (hx : x ∈ s.cmds) (hid : x.id = c.id) : c ∈ (s.putCmd c).cmds :=
  List.mem_map.mpr ⟨x, hx, if_pos hid⟩

/-- A slot freed leaves memory, the commands and what guards hold. -/
theorem State.dropThread_frame (s : State) (id : SlotId) : (s.dropThread id).mem = s.mem ∧ (s.dropThread id).cmds = s.cmds ∧
    (s.dropThread id).heldWrites = s.heldWrites := by
  unfold State.dropThread
  split <;> exact ⟨rfl, rfl, rfl⟩

/-! ## After an attempt at a chunk (R225, R314) -/

section
variable {s u : State} {row : String} {c c' : Cmd} {x : Cause}

/-- A failure that is no first integrity failure finishes the command with its code. -/
theorem afterChunk_fails (hearly : c.early = false) (hx : x ≠ .mcheck ∨ c.retried = true) :
    s.afterChunk row c (.fail x) = .next (s.endCmd c x.code) := by
  have hre : c.reissues x = false := by rcases hx with h | h <;> simp [Cmd.reissues, h]
  have hagain : ¬ (x = .mcheck ∧ c.retried = false) := by
    rintro ⟨hm, hr⟩
    exact hx.elim (fun h => h hm) fun h => ne_true_of_eq_false hr h
  simp only [State.afterChunk, hre, hearly, if_neg hagain, Bool.false_eq_true, if_false]

/-- The first integrity failure of a command without a ring begins it again, with nothing held (R314). -/
theorem afterChunk_reissues (hretried : c.retried = false) (hsrc : c.fifoSrc = false) (hdst : c.fifoDst = false) :
    s.afterChunk row c (.fail .mcheck) = .next (s.reissue c) := by
  have hre : c.reissues .mcheck = true := by simp [Cmd.reissues, hretried, hsrc, hdst]
  simp only [State.afterChunk, hre, if_true]

/-- The first one of a command with a ring has the chunk done again (log 58). -/
theorem afterChunk_repeats (hearly : c.early = false) (hretried : c.retried = false) (hring : c.fifoSrc = true ∨ c.fifoDst = true) :
    s.afterChunk row c (.fail .mcheck) =
      .next ((s.putCmd { c with retried := true, buf := if c.fifoSrc then c.buf else [] }).dropGot (.cmd c.id)) := by
  have hre : c.reissues .mcheck = false := by rcases hring with h | h <;> simp [Cmd.reissues, h]
  simp only [State.afterChunk, hre, hearly, hretried, Bool.false_eq_true, if_false, and_self, if_true]

/-- What a reissued command leaves: memory as it was, none of its held writes, and the command at its beginning. -/
theorem State.reissue_frame (s : State) (c : Cmd) : (s.reissue c).mem = s.mem ∧ (s.reissue c).cmds = (s.putCmd c.restart).cmds ∧
    (s.reissue c).heldWrites = s.heldWrites.filter (fun w => w.cmd ≠ c.id) := by
  unfold State.reissue
  dsimp only
  split
  · exact State.dropThread_frame _ _
  · exact ⟨rfl, rfl, rfl⟩

/-- A command with an early reservation that fails has stored nothing (R314, log 105). -/
theorem afterChunk_early (hearly : c.early = true) : ∃ t, s.afterChunk row c (.fail x) = .next t ∧ t.mem = s.mem := by
  by_cases hre : c.reissues x = true
  · refine ⟨s.reissue c, ?_, (s.reissue_frame c).1⟩
    simp only [State.afterChunk, hre, if_true]
  · have hkept : s.afterChunk row c (.fail x) = .next (if (s.thread? c.transform).isSome then
        (s.putCmd (c.failWith x)).dropThread c.transform else s.putCmd (c.failWith x)) := by
      simp only [State.afterChunk, if_neg hre, hearly, if_true]
    refine ⟨_, hkept, ?_⟩
    split
    · exact (State.dropThread_frame _ _).1
    · rfl

end

section
variable {s u : State} {cl : Nat} {e : Fin 4} {c c' : Cmd}

/-- A copy engine makes an attempt at the next chunk of its command. -/
theorem exec_copyChunk (hc : s.engineCmd (Cmd.ofEngine cl e.val) = some c) :
    exec (.copyChunk cl e) s = s.afterChunk "COPY_CHUNK" c (s.chunk c) := by
  show execCopyChunk cl e s = _
  rw [execCopyChunk, hc]

/-- The seal engine serves its command. -/
theorem exec_sealStart (hc : s.engineCmd (fun c => c.kind = .seal_) = some c) :
    exec .sealStart s = s.afterChunk "SEAL_START" c (s.sealStep c) := by
  show execSealStart s = _
  rw [execSealStart, hc]

/-- The first integrity failure of a copy's chunk, with no ring at either end. -/
theorem exec_copyChunk_reissues (hc : s.engineCmd (Cmd.ofEngine cl e.val) = some c) (hf : s.chunk c = .fail .mcheck)
    (hretried : c.retried = false) (hsrc : c.fifoSrc = false) (hdst : c.fifoDst = false) :
    ∃ t, exec (.copyChunk cl e) s = .next t ∧ t.mem = s.mem ∧ t.heldWrites = s.heldWrites.filter (fun w => w.cmd ≠ c.id) ∧
      c.restart ∈ t.cmds := by
  obtain ⟨hmem, hcmds, hheld⟩ := s.reissue_frame c
  obtain ⟨y, hy, hid⟩ := State.engineCmd_mem hc
  refine ⟨_, (exec_copyChunk hc).trans (by rw [hf, afterChunk_reissues hretried hsrc hdst]), hmem, hheld, ?_⟩
  rw [hcmds]
  exact State.mem_putCmd hy hid

end

/-! ## Armed commands (R229, R332) -/

/-- The first command of an id that is ready to start is the first one of the id, if that is ready. -/
theorem find?_and_of_find? {α : Type} {p q r : α → Bool} {l : List α} {a : α} (h : l.find? p = some a) (hq : q a = true)
    (hr : ∀ x, r x = (p x && q x)) : l.find? r = some a := by
  induction l with
  | nil => cases h
  | cons x l ih =>
    rw [List.find?_cons] at h ⊢
    rw [hr x]
    cases hp : p x with
    | true =>
      rw [hp] at h
      cases h
      simp [hq]
    | false =>
      rw [hp] at h
      exact ih h

/-- An armed command whose term was true starts when its engine works on nothing and no command of its term goes before it. -/
theorem exec_armedCommandStart {s : State} {id : Nat} {c : Cmd} (hc : s.cmds.find? (fun c => c.id = id) = some c) (hst : c.st = .queued)
    (harm : c.arm = true) (hterm : c.termMet = true) (hstop : s.cmdStopped c = false)
    (hfree : ∀ y ∈ s.cmds, (if c.kind = .seal_ then decide (y.kind = .seal_) else y.ofEngine c.cl c.engine) = true →
      y.st ≠ .running ∧ (y.st = .queued → y.arm = true → y.term = c.term → y.cl = c.cl → c.id ≤ y.id)) :
    exec (.armedCommandStart id) s = .next (s.putCmd { c with st := if c.len = 0 then .finishing 0 else .running }) := by
  have hfind : s.cmds.find? (fun c => c.id = id && c.st = .queued && c.arm && c.termMet) = some c :=
    find?_and_of_find? (q := fun c => c.st = .queued && c.arm && c.termMet) hc (by simp [hst, harm, hterm])
      fun x => by simp only [Bool.and_assoc]
  show execArmedCommandStart id s = _
  unfold execArmedCommandStart
  rw [hfind]
  refine if_neg ?_
  rw [hstop, Bool.false_or, List.any_eq_true]
  rintro ⟨y, hy, hgoes⟩
  rw [Bool.and_eq_true] at hgoes
  obtain ⟨hmine, hbusy⟩ := hgoes
  obtain ⟨hidle, hafter⟩ := hfree y hy (by
    by_cases hkind : c.kind = .seal_ <;> simpa [hkind] using hmine)
  simp only [Bool.or_eq_true, Bool.and_eq_true, decide_eq_true_eq] at hbusy
  rcases hbusy with hr | ⟨⟨⟨⟨hq, ha⟩, ht⟩, hcl⟩, hid⟩
  · exact hidle hr
  · exact Nat.not_le.mpr hid (hafter hq ha ht hcl)

/-! ## Completion (R226, R227) -/

section
variable {s : State} {id code : Nat} {c : Cmd} (hc : s.cmds.find? (fun c => c.id = id) = some c) (hst : c.st = .finishing code)
include hc hst

/-- A finished command whose writes are acknowledged and whose node is not ending completes. -/
theorem exec_commandCompletion (hout : s.writesOut (.cmd c.id) = false) (hitems : ∀ y ∈ s.fabric.items, y.req ≠ .chunk c.id)
    (hnode : ∀ n ∈ s.nodes, n.id = c.node → n.closing = false) : exec (.commandCompletion id) s =
      if c.guard.isSome then .next ((s.cmdFails c code).putCmd { c with st := .held code }) else .next ((s.cmdFails c code).announce c code) := by
  have hclosing : (s.node? c.node).any Node.closing = false := by
    cases hn : s.node? c.node with
    | none => rfl
    | some n =>
      have hid := List.find?_some hn
      simp only [Bool.and_eq_true, decide_eq_true_eq] at hid
      exact hnode n (List.mem_of_find?_eq_some hn) hid.1
  have hchunk : s.fabric.items.any (fun i => i.req = .chunk c.id) = false := by
    simpa using hitems
  show execCommandCompletion id s = _
  unfold execCommandCompletion
  rw [hc]
  simp only [hst, hout, hchunk, hclosing, Bool.or_self, Bool.false_eq_true, if_false]

end

section
variable {s : State} {code : Nat} {c : Cmd}

/-- A command that has not failed, or is notified of its failure, ends no node. -/
theorem State.cmdFails_of_notified (h : code = 0 ∨ c.nfy = true) : s.cmdFails c code = s := by
  rcases h with rfl | hnfy
  · rfl
  · unfold State.cmdFails
    split
    · rfl
    · exact if_pos hnfy

/-- A command that is announced without a notify leaves the nodes. -/
theorem State.announce_nodes (hnfy : c.nfy = false) : (s.announce c code).nodes = s.nodes := by
  have hpulse : (s.pulse c.cl c.ctr).nodes = s.nodes := by
    unfold State.pulse
    dsimp only
    split <;> rfl
  unfold State.announce
  rw [hnfy]
  cases c.cnt
  · rfl
  · exact hpulse

/-- A command that fails without a notify ends its node. -/
theorem State.cmdFails_ends {x : Cause} {n : Node} (hx : causeOfCode code = some x) (hnfy : c.nfy = false) (hn : n ∈ s.nodes)
    (hid : n.id = c.node) (hopen : n.closing = false) : ∃ m ∈ (s.cmdFails c code).nodes, m.id = n.id ∧ m.ending.isSome = true := by
  unfold State.cmdFails
  rw [hx]
  simp only [hnfy, Bool.false_eq_true, if_false]
  refine ⟨_, List.mem_map.mpr ⟨n, hn, if_pos ?_⟩, rfl, rfl⟩
  rw [State.takesEnd_open hopen, Bool.and_true, decide_eq_true hid]

/-- A command that is announced is gone. -/
theorem State.not_mem_announce {y : Cmd} (hy : y ∈ (s.announce c code).cmds) : y.id ≠ c.id := by
  simpa using (List.mem_filter.mp hy).2

end

/-- Settles O42: a chunk or a seal ends in `afterChunk`, which has a case for each result; a completion runs `cmdFails`, then holds or
announces the command. -/
theorem engineCommandSteps : Obligations.EngineCommandSteps := by
  unfold Obligations.EngineCommandSteps
  refine ⟨fun s u cl e c c' x => ⟨fun hc => ⟨fun hgo => ?_, fun hf hearly hx => ?_, fun hf hearly hretried => ⟨fun hplain => ?_,
    fun hring => ?_⟩, fun hf hearly => ?_⟩, fun hc => ⟨fun hgo => ?_, fun hf hearly hx => ?_⟩⟩,
    fun s id c hc => ⟨fun hst harm hterm hstop hfree _ => exec_armedCommandStart hc hst harm hterm hstop hfree,
      fun code hst hout hitems hnode => ?_⟩⟩
  case refine_1 => rw [exec_copyChunk hc, hgo]; rfl
  case refine_2 => rw [exec_copyChunk hc, hf, afterChunk_fails hearly hx]
  case refine_3 => exact exec_copyChunk_reissues hc hf hretried hplain.1 hplain.2
  case refine_4 => rw [exec_copyChunk hc, hf, afterChunk_repeats hearly hretried hring]
  case refine_5 => rw [exec_copyChunk hc, hf]; exact afterChunk_early hearly
  case refine_6 => rw [exec_sealStart hc, hgo]; rfl
  case refine_7 => rw [exec_sealStart hc, hf, afterChunk_fails hearly hx]
  case refine_8 =>
    have hdone := exec_commandCompletion hc hst hout hitems hnode
    have hid : c.id = id := by simpa using List.find?_some hc
    refine ⟨fun h => ?_, fun x hx hnfy hguard => ?_, fun hguard t ht y hy => ?_⟩
    · rw [hdone, State.cmdFails_of_notified h]
      split <;> rfl
    · refine ⟨_, hdone.trans (if_neg (by simp [hguard])), fun n hn hnid => ?_⟩
      rw [State.announce_nodes hnfy]
      exact State.cmdFails_ends hx hnfy hn hnid (hnode n hn hnid)
    · rw [hdone, if_neg (by simp [hguard])] at ht
      cases ht
      exact hid ▸ State.not_mem_announce hy

end Sys2Proof.Machine
end

section
/-!
PROOFS. The event crossbar and guards (spec/10_system_instr.md R228 to R230, spec/14_scheduler.md R272,
spec/20_engines_memory.md R332).
-/
namespace Sys2Proof.Machine

/-- An element that another node has claimed. -/
theorem State.claimedByOther_eq_true {s : State} {o : Option Nat} :
    s.claimedByOther o = true ↔ ¬ (o = none ∨ o = some s.thr.node) := by
  rw [← State.claimedByOther_eq_false, Bool.not_eq_false]

/-- A precise fault with its value traps, where the supervisor has a handler. -/
theorem fault_value_trapsWith {c : Cause} {v : DWord} {s : State} (h : s.hasHandler) : trapsWith c s (fault c 0 (some v) s) := by
  refine ⟨_, fault_handler h, ?_, rfl, rfl, rfl, rfl, rfl⟩
  show BitVec.ofNat 64 (c.code + 2 ^ 8 * 0) = _
  rw [Nat.mul_zero, Nat.add_zero]

/-! ## EVCFG (R228) -/

/-- The high bits of a word are 0 when the number is below the first of them. -/
theorem bits_above_eq_zero {n lo : Nat} (h : n < 2 ^ lo) : bits n 63 lo = 0 := by
  rw [bits, Nat.div_eq_of_lt h, Nat.zero_mod]

/-- The high bits of a word are not 0 when the number reaches the first of them. -/
theorem bits_above_ne_zero {w : DWord} {lo : Nat} (hlo : lo ≤ 64) (h : 2 ^ lo ≤ w.toNat) : bits w.toNat 63 lo ≠ 0 := by
  have hlt : w.toNat / 2 ^ lo < 2 ^ (63 + 1 - lo) := by
    rw [Nat.div_lt_iff_lt_mul (Nat.two_pow_pos lo), ← Nat.pow_add, Nat.sub_add_cancel hlo]
    exact w.isLt
  rw [bits, Nat.mod_eq_of_lt hlt]
  exact (Nat.div_pos h (Nat.two_pow_pos lo)).ne'

section
variable {s : State} {a b : Reg} (hrun : mayRun (.evcfg a b) s)
include hrun

/-- EVCFG of a counter that no other node has claimed. -/
theorem exec_evcfg_counter (hx : (s.thr.sreg a).toNat < 32) (hy : (s.thr.sreg b).toNat < 2 ^ 34) {c : Counter}
    (hc : c = { node := some s.thr.node, value := (s.thr.sreg b).toNat % 2 ^ 32, source := (s.thr.sreg b).toNat / 2 ^ 32, slot := s.thr.id })
    (hfree : s.claimedByOther (s.counter (clusterOf s.thr.id.core) (s.thr.sreg a).toNat).node = false) :
    exec (.evcfg a b) s = .next ((s.setCounter (clusterOf s.thr.id.core) (s.thr.sreg a).toNat
      { c with value := min ((s.thr.sreg b).toNat % 2 ^ 32 + s.pulsesOf (clusterOf s.thr.id.core) (s.thr.sreg a).toNat c)
                          (2 ^ 32 - 1) }).passed 8) := by
  have hhi : ¬ bits (s.thr.sreg a).toNat 63 6 ≠ 0 := fun h => h (bits_above_eq_zero (by omega))
  have hcounter : ¬ bit (s.thr.sreg a).toNat 5 = true := by rw [bit_eq_true]; omega
  have hvalue : bits (s.thr.sreg b).toNat 31 0 = (s.thr.sreg b).toNat % 2 ^ 32 := bits_from_zero _ _
  have hsource : bits (s.thr.sreg b).toNat 33 32 = (s.thr.sreg b).toNat / 2 ^ 32 := by rw [bits]; omega
  have hgood : ¬ (decide (bits (s.thr.sreg b).toNat 63 34 ≠ 0) ||
      s.claimedByOther (s.counter (clusterOf s.thr.id.core) ((s.thr.sreg a).toNat % 32)).node) = true := by
    rw [bits_above_eq_zero hy, Nat.mod_eq_of_lt hx, hfree]
    decide
  refine (issue_ok hrun).trans ((if_neg hhi).trans ((if_neg hcounter).trans ((if_neg hgood).trans ?_)))
  dsimp only
  rw [Nat.mod_eq_of_lt hx, hvalue, hsource, ← hc]
  subst hc
  rfl

/-- EVCFG of a term that no other node has claimed. -/
theorem exec_evcfg_term (hlo : 32 ≤ (s.thr.sreg a).toNat) (hhi : (s.thr.sreg a).toNat < 48)
    (hfree : s.claimedByOther (s.term (clusterOf s.thr.id.core) ((s.thr.sreg a).toNat - 32)).node = false) :
    exec (.evcfg a b) s = .next (State.passed 8
      { s with terms := assocSet s.terms (clusterOf s.thr.id.core, (s.thr.sreg a).toNat - 32)
                          { node := some s.thr.node, conds := s.thr.sreg b } }) := by
  have hbits : ¬ bits (s.thr.sreg a).toNat 63 6 ≠ 0 := fun h => h (bits_above_eq_zero (by omega))
  have hterm : bit (s.thr.sreg a).toNat 5 = true := by rw [bit_eq_true]; omega
  have hindex : (s.thr.sreg a).toNat % 16 = (s.thr.sreg a).toNat - 32 := by omega
  have hgood : ¬ (bit (s.thr.sreg a).toNat 4 ||
      s.claimedByOther (s.term (clusterOf s.thr.id.core) ((s.thr.sreg a).toNat % 16)).node) = true := by
    have hbit : bit (s.thr.sreg a).toNat 4 = false := by rw [bit_eq_false]; omega
    rw [hindex, hfree, hbit]
    decide
  refine (issue_ok hrun).trans ((if_neg hbits).trans ((if_pos hterm).trans ((if_neg hgood).trans ?_)))
  rw [hindex]
  rfl

/-- EVCFG of no element, of a counter with a bad word, or of what another node has claimed. -/
theorem exec_evcfg_traps (hh : s.hasHandler) (hbad : 48 ≤ (s.thr.sreg a).toNat ∨
      ((s.thr.sreg a).toNat < 32 ∧ 2 ^ 34 ≤ (s.thr.sreg b).toNat) ∨
      ((s.thr.sreg a).toNat < 32 ∧ s.claimedByOther (s.counter (clusterOf s.thr.id.core) (s.thr.sreg a).toNat).node = true) ∨
      (32 ≤ (s.thr.sreg a).toNat ∧ (s.thr.sreg a).toNat < 48 ∧
        s.claimedByOther (s.term (clusterOf s.thr.id.core) ((s.thr.sreg a).toNat - 32)).node = true)) :
    trapsWith .operand s (exec (.evcfg a b) s) := by
  suffices exec (.evcfg a b) s = fault .operand 0 none s from this ▸ fault_open hh
  refine (issue_ok hrun).trans ?_
  by_cases hhi : 64 ≤ (s.thr.sreg a).toNat
  · exact if_pos (bits_above_ne_zero (by decide) hhi)
  refine (if_neg fun h => h (bits_above_eq_zero (by omega))).trans ?_
  by_cases hterm : 32 ≤ (s.thr.sreg a).toNat
  · refine (if_pos (bit_eq_true.mpr (by omega))).trans (if_pos ?_)
    rw [Bool.or_eq_true, bit_eq_true]
    by_cases hnone : 48 ≤ (s.thr.sreg a).toNat
    · exact Or.inl (by omega)
    · have hindex : (s.thr.sreg a).toNat % 16 = (s.thr.sreg a).toNat - 32 := by omega
      rw [hindex]
      rcases hbad with h | ⟨h, -⟩ | ⟨h, -⟩ | ⟨-, -, h⟩
      · exact absurd h hnone
      · omega
      · omega
      · exact Or.inr h
  · refine (if_neg (by rw [bit_eq_true]; omega)).trans (if_pos ?_)
    rw [Bool.or_eq_true, decide_eq_true_eq, Nat.mod_eq_of_lt (Nat.not_le.mp hterm)]
    rcases hbad with h | ⟨-, h⟩ | ⟨-, h⟩ | ⟨h, -⟩
    · omega
    · exact Or.inl (bits_above_ne_zero (by decide) h)
    · exact Or.inr h
    · exact absurd h hterm

end

/-! ## EVWAIT (R229) -/

section
variable {s : State} {a : Reg} (hrun : mayRun (.evwait a) s)
include hrun

/-- Whether a term of the mask was true at the start of the cycle. -/
theorem exec_evwait (hzero : 0 < (s.thr.sreg a).toNat) (hhi : (s.thr.sreg a).toNat < 2 ^ 16) : exec (.evwait a) s =
    if (List.range 16).any (fun i => bit (s.thr.sreg a).toNat i && s.trueTerms.contains (clusterOf s.thr.id.core, i)) then
      .next ((s.acquire s.thr.id.core .dv).passed 8) else stallFor .event s :=
  (issue_ok hrun).trans (if_neg (by omega))

/-- A mask of no term, or beyond the terms. -/
theorem exec_evwait_traps (hh : s.hasHandler) (hmask : (s.thr.sreg a).toNat = 0 ∨ 2 ^ 16 ≤ (s.thr.sreg a).toNat) :
    trapsWith .operand s (exec (.evwait a) s) := by
  suffices exec (.evwait a) s = fault .operand 0 none s from this ▸ fault_open hh
  exact (issue_ok hrun).trans (if_pos hmask)

end

/-- A term of a mask is among the true ones. -/
theorem any_trueTerm {m cl : Nat} {l : List (Nat × Nat)} : (List.range 16).any (fun i => bit m i && l.contains (cl, i)) = true ↔
    ∃ i, i < 16 ∧ bit m i = true ∧ (cl, i) ∈ l := by
  simp only [List.any_eq_true, List.mem_range, Bool.and_eq_true, List.contains_iff_mem]

/-! ## Guards (R230, R272) -/

section
variable {s : State} {g : Fin 4}

/-- GCOMMIT when every command of its guard is held. -/
theorem exec_gcommit (hrun : mayRun (.gcommit g) s) (hheld : ∀ c ∈ s.cmds, s.guarded g.val c = true → ∃ n, c.st = .held n) :
    exec (.gcommit g) s =
      heldThen g.val s fun s => .next ((((s.performHeld g.val).announceHeld g.val).closeGuard g.val).passed 8) := by
  refine (issue_ok hrun).trans (if_neg ?_)
  rw [List.any_eq_true]
  rintro ⟨c, hc, hopen⟩
  rw [Bool.and_eq_true] at hopen
  obtain ⟨n, hn⟩ := hheld c hc hopen.1
  have hopen' := hopen.2
  rw [hn] at hopen'
  cases hopen'

/-- GCOMMIT before that. -/
theorem exec_gcommit_stalls (hrun : mayRun (.gcommit g) s) {c : Cmd} (hc : c ∈ s.cmds) (hg : s.guarded g.val c = true)
    (hst : ∀ n, c.st ≠ .held n) : exec (.gcommit g) s = stallFor .commit s := by
  refine (issue_ok hrun).trans (if_pos (List.any_eq_true.mpr ⟨c, hc, ?_⟩))
  rw [hg, Bool.true_and]
  split
  · next n hn => exact absurd hn (hst n)
  · rfl

/-- No home refuses a held write now, or waits with it. -/
theorem heldThen_ok {body : State → Out} {g : Nat} (hok : ∀ w ∈ s.heldOf g, s.heldCheck w = .ok) : heldThen g s body = body s := by
  have hwait : ¬ (s.heldOf g).any (fun w => s.heldCheck w = .wait) = true := by
    rw [List.any_eq_true]
    rintro ⟨w, hw, h⟩
    rw [hok w hw] at h
    exact absurd h (by decide)
  unfold heldThen
  rw [if_neg hwait, List.findSome?_eq_none_iff.mpr]
  intro w hw
  rw [hok w hw]

/-- One held write is refused (log 59). -/
theorem heldThen_refused {body : State → Out} {g : Nat} {w : HeldWrite} {c : Cause} (hw : w ∈ s.heldOf g)
    (hrefuse : s.heldCheck w = .refuse c) (hrest : ∀ x ∈ s.heldOf g, s.heldCheck x = .ok ∨ x = w) :
    heldThen g s body = fault c 0 (some w.ea) s := by
  have hwait : ¬ (s.heldOf g).any (fun w => s.heldCheck w = .wait) = true := by
    rw [List.any_eq_true]
    rintro ⟨x, hx, h⟩
    rw [decide_eq_true_eq] at h
    rcases hrest x hx with hok | rfl
    · exact absurd (h.symm.trans hok) (by decide)
    · exact HomeCheck.noConfusion (h.symm.trans hrefuse)
  unfold heldThen
  rw [if_neg hwait]
  split
  · next d ea hfound =>
    obtain ⟨x, hx, hfound⟩ := List.exists_of_findSome?_eq_some hfound
    rcases hrest x hx with hok | rfl
    · rw [hok] at hfound
      cases hfound
    · rw [hrefuse] at hfound
      cases hfound
      rfl
  · next hnone =>
    have hno := List.findSome?_eq_none_iff.mp hnone w hw
    rw [hrefuse] at hno
    cases hno

/-- A closed guard's GOUT bit is clear. -/
theorem State.closeGuard_gout : (s.closeGuard g.val).thr.status.gout.getLsbD g.val = false := by
  show (s.thr.status.gout &&& ~~~ BitVec.ofNat 4 (2 ^ g.val)).getLsbD g.val = false
  rw [BitVec.getLsbD_and, BitVec.getLsbD_not, BitVec.getLsbD_ofNat, Nat.testBit_two_pow_self]
  simp

/-- A closed guard holds no write. -/
theorem State.closeGuard_heldWrites {w : HeldWrite} {g : Nat} (hw : w ∈ (s.closeGuard g).heldWrites) :
    ¬ (w.slot = s.thr.id ∧ w.node = s.thr.node ∧ w.guard = g) := by
  simpa [or_assoc, imp_iff_not_or] using (List.mem_filter.mp hw).2

end

/-- The terms that a cycle's end finds true (R229). -/
theorem State.mem_trueTerms_tick (s : State) (cl i : Nat) :
    (cl, i) ∈ s.tick.trueTerms ↔ (cl, i) ∈ s.tick.terms.map (·.1) ∧ s.tick.termTrue cl i = true :=
  List.mem_filter

/-- Settles O43: EVCFG and EVWAIT by the bits of their operands, GCOMMIT by what its guard's commands and homes say. -/
theorem crossbarAndGuardWords : Obligations.CrossbarAndGuardWords := by
  unfold Obligations.CrossbarAndGuardWords
  refine ⟨fun s a b => ⟨fun hrun hx hy hfree => ?_, fun hrun hlo hhi hfree => ?_, fun hrun hh hbad => ?_,
      fun hrun hzero hhi => ⟨fun hmet => ?_, fun hunmet => ?_⟩, fun hrun hh hmask => exec_evwait_traps hrun hh hmask⟩,
    fun s g => ⟨fun hrun hheld hok => ?_, fun w hrun hh hheld hw hrefuse hrest => ?_, fun hrun ⟨c, hc, hg, hst⟩ => ?_,
      fun hrun => issue_ok hrun, State.closeGuard_gout, fun w => State.closeGuard_heldWrites⟩, State.mem_trueTerms_tick⟩
  case refine_1 => exact exec_evcfg_counter hrun hx hy rfl (State.claimedByOther_eq_false.mpr hfree)
  case refine_2 => exact exec_evcfg_term hrun hlo hhi (State.claimedByOther_eq_false.mpr hfree)
  case refine_3 =>
    refine exec_evcfg_traps hrun hh (hbad.imp_right (Or.imp_right (Or.imp ?_ ?_)))
    · exact fun ⟨hx, hclaimed⟩ => ⟨hx, State.claimedByOther_eq_true.mpr hclaimed⟩
    · exact fun ⟨hlo, hhi, hclaimed⟩ => ⟨hlo, hhi, State.claimedByOther_eq_true.mpr hclaimed⟩
  case refine_4 => exact (exec_evwait hrun hzero hhi).trans (if_pos (any_trueTerm.mpr hmet))
  case refine_5 =>
    refine (exec_evwait hrun hzero hhi).trans (if_neg fun h => ?_)
    obtain ⟨i, hi, hbit, hterm⟩ := any_trueTerm.mp h
    exact hunmet i hi hbit hterm
  case refine_6 => rw [exec_gcommit hrun hheld, heldThen_ok hok]
  case refine_7 =>
    rw [exec_gcommit hrun hheld, heldThen_refused hw hrefuse hrest]
    exact fault_value_trapsWith hh
  case refine_8 => exact exec_gcommit_stalls hrun hc hg hst

end Sys2Proof.Machine
end

section
/-!
PROOFS. Entries of supervisor traps (spec/10_system_instr.md R233, R236, R237, spec/03_encoding.md R66, R67).
-/
namespace Sys2Proof.Machine

/-! ## What an entry leaves (R236) -/

/-- A trap taken after a word, where the supervisor has a handler. -/
theorem trapAfter_handler {n : Nat} {c : Cause} {cls : BitVec 8} {v e : DWord} {s : State} (h : s.hasHandler) :
    trapAfter n c cls (some v) e s =
      .next { s with thr := s.thr.enterTrap c cls v e s.thr.stvec (s.clock + n + entryCycles s.thr.loops) } := by
  obtain ⟨hslot, hworld, hvector⟩ := h
  have hstvec : s.stvecOf s.thr = s.thr.stvec := by rw [State.stvecOf, hworld]; rfl
  unfold trapAfter
  rw [if_neg (ne_true_of_eq_false hslot), hstvec, if_neg hvector]

/-- A thread that differs from the executing one in nothing that an entry keeps enters the trap of the statement. -/
theorem entered_enterTrap {s u : State} {t : Thread} {c : Cause} {v e : DWord} {due : Nat}
    (hthr : u.thr = t.enterTrap c 0 v e s.thr.stvec due) (hws : t.ws = s.thr.ws) (hloops : t.loops = s.thr.loops)
    (hgout : t.status.gout = s.thr.status.gout) (hmem : u.mem = s.mem) (hothers : u.others = s.others) (hsb : u.sb = s.sb) :
    entered s c.code e u := by
  unfold entered
  rw [hthr, ← hws, ← hloops, ← hgout]
  refine ⟨rfl, ?_, rfl, rfl, rfl, rfl, rfl, rfl, hmem, hothers, hsb⟩
  show BitVec.ofNat 64 (c.code + 2 ^ 8 * 0) = _
  rw [Nat.mul_zero, Nat.add_zero]

/-- A precise trap of a word enters at its own address, its hints consumed. -/
theorem entered_trapped (s : State) (c : Cause) (v : DWord) : entered s c.code (s.thr.pc.setWidth 64) (s.trapped c 0 v) :=
  entered_enterTrap (t := s.thr.clearHints) rfl rfl rfl rfl rfl rfl rfl

/-! ## TRAP (R233) -/

/-- TRAP enters after its own 8 cycles, with the address of the following word. -/
theorem exec_trap_enters {s : State} {c : Fin 256} (hh : s.hasHandler) (hrun : mayRun (.trap c) s) : ∃ u, exec (.trap c) s = .next u ∧
    entered s Cause.trapi.code ((s.thr.pc + 4).setWidth 64) u ∧ u.thr.eval = BitVec.ofNat 64 c.val ∧
    u.thr.ws.statusSave = s.thr.status.clearHints.toWord :=
  ⟨_, (issue_ok hrun).trans (trapAfter_handler
      (s := { s with thr := { s.thr.clearHints with retried := false, progress := 0, geo := [], claims := [] } }) hh),
    entered_enterTrap rfl rfl rfl rfl rfl rfl rfl, rfl, rfl⟩

/-! ## Words that encode no instruction (R66) -/

/-- The word of an undefined hint keeps what is pending (R62); another one consumes it. -/
theorem exec_illegalWord_enters {s : State} {w : Word} {r : DecodeError} (hh : s.hasHandler) (hr : decode w = .error r) :
    ∃ u, exec (.illegalWord w) s = .next u ∧ entered s Cause.illegal.code (s.thr.pc.setWidth 64) u ∧ u.thr.eval = w.setWidth 64 ∧
      (w.toNat / 2 ^ 26 = 0x3F → u.thr.ws.statusSave = s.thr.status.toWord) ∧
      (w.toNat / 2 ^ 26 ≠ 0x3F → u.thr.ws.statusSave = s.thr.status.clearHints.toWord) := by
  have hexec : exec (.illegalWord w) s =
      if w.toNat / 2 ^ 26 = 0x3F then illegalKeeping w s else fault .illegal 0 (some (w.setWidth 64)) s := by
    show execIllegalWord w s = _
    rw [execIllegalWord, hr]
  rw [hexec]
  by_cases hhint : w.toNat / 2 ^ 26 = 0x3F
  · exact ⟨_, (if_pos hhint).trans (trapTo_handler hh), entered_enterTrap rfl rfl rfl rfl rfl rfl rfl, rfl, fun _ => rfl,
      fun h => absurd hhint h⟩
  · exact ⟨_, (if_neg hhint).trans (fault_handler hh), entered_trapped s _ _, rfl, fun h => absurd h hhint, fun _ => rfl⟩

/-! ## Words that meet a hint they cannot use (R66) -/

/-- A word that exceeds the first hint word has the hints' major opcode. -/
theorem major_of_hint {i : Instr} {base x : Nat} (hi : encodeNat i = base + x) (hbase : 0xFC000000 ≤ base) (hx : base + x < 2 ^ 32) :
    (encode i).toNat / 2 ^ 26 = 0x3F := by
  rw [encode, hi, BitVec.toNat_ofNat, Nat.mod_eq_of_lt hx]
  omega

/-- A word that may begin at every level, after a hint that it cannot use. -/
theorem issue_illegal {i : Instr} {s : State} {body : State → Out} (h : hintFault i s.thr.status = true) : issue i s body = illegal i s :=
  issueWith_illegal (.inl h)

/-- The word of each instruction but the hints is ILLEGAL after a hint that it cannot use: it begins with `issueWith`. -/
theorem exec_illegal_of_hintFault {i : Instr} {s : State} (hword : i.hasWord = true) (hmajor : (encode i).toNat / 2 ^ 26 ≠ 0x3F)
    (h : hintFault i s.thr.status = true) : exec i s = illegal i s := by
  cases i with
  | eret => exact issueWith_illegal (bad := fun _ => false) (level := 1) (.inl h)
  | halt => exact issueWith_illegal (bad := fun _ => false) (level := 1) (.inl h)
  | sysr d n => exact issueWith_illegal (bad := fun _ => decide (0x16 < n.val)) (level := readLevel n.val) (.inl h)
  | sysw a n =>
    exact issueWith_illegal (bad := fun _ => decide (0x16 < n.val) || readOnly n.val) (level := writeLevel n.val) (.inl h)
  | loop | loopk | vcvt | vqnt | vdqnt | mma | mmas | mres => exact issueWith_illegal (.inl h)
  | hnop p => exact absurd (major_of_hint (base := 0xFC000000) (x := p.val * 2 ^ 0) rfl (by decide) (by omega)) hmajor
  | hintType8to15 t p => exact absurd (major_of_hint (base := 0xFE000000 + t.val * 2 ^ 22) (x := p.val * 2 ^ 0) rfl (by omega) (by omega)) hmajor
  | himm p => exact absurd (major_of_hint (base := 0xFC400000) (x := p.val * 2 ^ 0) rfl (by decide) (by omega)) hmajor
  | hrealign n => exact absurd (major_of_hint (base := 0xFD000000) (x := n.val * 2 ^ 0) rfl (by decide) (by omega)) hmajor
  | hpromo k => exact absurd (major_of_hint (base := 0xFD400000) (x := k.val * 2 ^ 0) rfl (by decide) (by omega)) hmajor
  | hguard g => exact absurd (major_of_hint (base := 0xFD800000) (x := g.val * 2 ^ 0) rfl (by decide) (by omega)) hmajor
  | hnt => exact absurd (major_of_hint (base := 0xFDC00000) (x := 0) rfl (by decide) (by omega)) hmajor
  | hfmt a b o f x =>
    have hx : x.toNat < 2 := x.toNat_lt
    exact absurd (major_of_hint (base := 0xFC800000 + a.val * 2 ^ 17 + b.val * 2 ^ 12 + o.val * 2 ^ 7 + f.val * 2 ^ 5)
      (x := x.toNat * 2 ^ 4) rfl (by omega) (by omega)) hmajor
  | hscope sc =>
    have hsc : sc.toBits < 6 := by cases sc <;> decide
    exact absurd (major_of_hint (base := 0xFCC00000) (x := sc.toBits * 2 ^ 0) rfl (by decide) (by omega)) hmajor
  | qwaitSatisfied | engineUnit | streamSymbol | topenwTimeout | wfeWake | realignTimeout | notifyEntry | copyChunk |
      commandCompletion | armedCommandStart | sealStart | nodeEnd | deferredDrain | leaseGrant | dispatchDecision | reserving |
      prioritySpill | launch | heartbeatExpiry | fenceTestDone | slotSpill | resumption | entryTimeout | storeLinePerform |
      accessResponse | pageWalk | vexeyAdmission | vexeyWrite | vexeyRead | readData | vexeyAtomic | atomicData | performed |
      clockMessage | linkFailure | syncLost | syncRegained | hostWrite | hostRead | launchSubmission | dmaRequest |
      interruptLineRaise | functionReset | functionReady | faultRecordPost | tinv | invalidationDone | spillreq | nodekill | leasego |
      leaseno | fenceack | relasid | grantEntryWrite | bankModeRequest | furlRequest | bankSwitchDone | bankReef | routineLoad |
      routineUnload | routineLoadDone | protectionEntryWrite | registerWrite | limiterMeasure | attest | park | resume | stepSlot |
      readMem | writeMem | traceCfg | counters | bootlog | traceSample | counterSnapshot | resetModule | illegalWord | windowStart |
      backInvalidateResponse => cases hword
  | _ => exact issue_illegal h

/-! ## Words of supervisor level (R67) -/

/-- A word of supervisor level at user level enters with PRIV. -/
theorem priv_enters {s : State} {o : Out} (hh : s.hasHandler) (ho : o = fault .priv 0 none s) :
    ∃ u, o = .next u ∧ entered s Cause.priv.code (s.thr.pc.setWidth 64) u :=
  ⟨_, ho.trans (fault_none hh), entered_enterTrap (t := s.thr.clearHints) rfl rfl rfl rfl rfl rfl rfl⟩

section
variable {s : State} {r : Reg} {n : Fin 256} (hpriv : s.thr.status.priv = 0)
include hpriv

/-- The level of user words is below the supervisor's. -/
theorem user_lt_one : s.thr.status.priv.toNat < 1 := by rw [hpriv]; decide

/-- SYSR of a supervisor register at user level. -/
theorem exec_sysr_priv (hrun : mayRun (.sysr r n) s) (hn : n.val ∈ [0x02, 0x03, 0x04, 0x09]) :
    exec (.sysr r n) s = fault .priv 0 none s := by
  have hlevel : readLevel n.val = 1 := if_pos (List.contains_iff_mem.mpr hn)
  have hsmall : n.val ≤ 0x16 := by
    have hall : ∀ k ∈ [0x02, 0x03, 0x04, 0x09], k ≤ 0x16 := by decide
    exact hall _ hn
  refine issueWith_priv (bad := fun _ => decide (0x16 < n.val)) hrun (decide_eq_false (Nat.not_lt.mpr hsmall)) ?_
  rw [hlevel]
  exact user_lt_one hpriv

/-- SYSW of a supervisor register at user level. -/
theorem exec_sysw_priv (hrun : mayRun (.sysw r n) s) (hn : n.val ∈ [0x02, 0x03, 0x04, 0x09, 0x0A, 0x0F, 0x16]) :
    exec (.sysw r n) s = fault .priv 0 none s := by
  have hlevel : writeLevel n.val = 1 := if_pos (List.contains_iff_mem.mpr hn)
  have hgood : (decide (0x16 < n.val) || readOnly n.val) = false := by
    have hall : ∀ k ∈ [0x02, 0x03, 0x04, 0x09, 0x0A, 0x0F, 0x16], (decide (0x16 < k) || readOnly k) = false := by decide
    exact hall _ hn
  refine issueWith_priv (bad := fun _ => decide (0x16 < n.val) || readOnly n.val) hrun hgood ?_
  rw [hlevel]
  exact user_lt_one hpriv

end

/-- Settles O44: each of the four entries is one `enterTrap` with the vector of the slot's supervisor. -/
theorem trapEntries : Obligations.TrapEntries := by
  unfold Obligations.TrapEntries
  refine ⟨fun s c hh hrun => exec_trap_enters hh hrun, fun s w r hh hr => exec_illegalWord_enters hh hr,
    fun s i hh hword hmajor h => ?_, fun s r n i hh hpriv hrun hi => priv_enters hh ?_⟩
  case refine_1 => exact ⟨_, (exec_illegal_of_hintFault hword hmajor h).trans (illegal_handler hh), entered_trapped s _ _, rfl, rfl⟩
  case refine_2 =>
    rcases hi with rfl | rfl | ⟨rfl, hn⟩ | ⟨rfl, hn⟩
    · exact issueWith_priv (bad := fun _ => false) hrun rfl (user_lt_one hpriv)
    · exact issueWith_priv (bad := fun _ => false) hrun rfl (user_lt_one hpriv)
    · exact exec_sysr_priv hpriv hrun hn
    · exact exec_sysw_priv hpriv hrun hn

end Sys2Proof.Machine
end

section
/-!
PROOFS. Returns from handlers (spec/10_system_instr.md R236 to R238, spec/01_machine_state.md R22, R29,
spec/05_scalar_control.md R114): what an entry saved is what the return gives back.
-/
namespace Sys2Proof.Machine

/-! ## What a save area gives back -/

/-- STATUS read back from its save word is the STATUS saved (R22, R29). -/
theorem Status.ofWord_toWord (st : Status) : Status.ofWord st.toWord = st := by
  obtain ⟨hpriv, -, huie, hinui, hgout, hhpend, hpromo, hguard, hscope, hdup, -⟩ := st.toWord_fields
  rw [Status.ofWord, hpriv, huie, hinui, hgout, hhpend, hpromo, hguard, hscope, hdup]

/-- A payload widened to its save word and back. -/
theorem setWidth_payload (x : BitVec 22) : (x.setWidth 64).setWidth 22 = x := by
  rw [BitVec.setWidth_setWidth_of_le x (by decide), BitVec.setWidth_eq]

/-- An aligned address of the code space survives the PC's alignment. -/
theorem pcOf_setWidth {v : VAddr} (h : v.extractLsb' 0 2 = 0) : pcOf (v.setWidth 64) = v := by
  have hlow : ∀ i < 2, v.getLsbD i = false := fun i hi => by
    have hbit := congrArg (BitVec.getLsbD · i) h
    simpa [hi] using hbit
  apply BitVec.eq_of_getLsbD_eq
  intro i hi
  by_cases h2 : i < 2
  · simp [pcOf, hlow i h2]
  · have hmask : (3 : DWord).getLsbD i = false :=
      Nat.testBit_lt_two_pow (Nat.lt_of_lt_of_le (by decide) (Nat.pow_le_pow_right (by decide) (Nat.not_lt.mp h2)))
    simp only [pcOf, BitVec.getLsbD_setWidth, BitVec.getLsbD_and, BitVec.getLsbD_not, hmask, Bool.not_false, Bool.and_true]
    simp [hi, Nat.lt_trans hi (by decide : 55 < 64)]

/-- The save word of a STATUS of user or supervisor level is no bad one to return to from its own level or from the supervisor's. -/
theorem savedStatusBad_eq_false {t : Thread} {st : Status} (hsave : t.ws.statusSave = st.toWord) (hpriv : st.priv.toNat ≤ 1)
    (hlevel : st.priv.toNat ≤ t.status.priv.toNat) : savedStatusBad t = false := by
  obtain ⟨hsaved, -, -, -, -, -, -, -, -, -, hhigh⟩ := st.toWord_fields
  have hnot2 : st.priv ≠ 2 := fun h => absurd hpriv (by rw [h]; decide)
  rw [savedStatusBad, hsave, hhigh, hsaved, decide_eq_false hnot2, decide_eq_false (Nat.not_lt.mpr hlevel)]
  rfl

/-- The save area of a thread holds what `Thread.saveLive` saved of another one. -/
structure Thread.holdsSaved (u t : Thread) : Prop where
  status : u.ws.statusSave = t.status.toWord
  himm : u.ws.himmSave = t.pay.himm.setWidth 64
  hfmt : u.ws.hfmtSave = t.pay.hfmt.setWidth 64
  hreal : u.ws.hrealSave = t.pay.hreal.setWidth 64
  loops : u.ws.loopSave = saveLoops t.loops
  gout : u.status.gout = t.status.gout

/-- A return gives back STATUS with the live GOUT, the payloads, the loop stack and the PC where a back edge may be taken (R238). -/
theorem Thread.holdsSaved.leaveHandler {u t : Thread} (h : u.holdsSaved t) (dest : VAddr) (due : Nat) :
    (u.leaveHandler t.loops dest due).status = t.status ∧ (u.leaveHandler t.loops dest due).pay = t.pay ∧
    ((u.leaveHandler t.loops dest due).loops, (u.leaveHandler t.loops dest due).pc) = backEdge t.loops dest := by
  refine ⟨?_, ?_, rfl⟩
  · show { Status.ofWord u.ws.statusSave with gout := u.status.gout } = t.status
    rw [h.status, h.gout, Status.ofWord_toWord]
  · show ({ himm := u.ws.himmSave.setWidth 22, hfmt := u.ws.hfmtSave.setWidth 22, hreal := u.ws.hrealSave.setWidth 22 } : Payloads) = t.pay
    rw [h.himm, h.hfmt, h.hreal, setWidth_payload, setWidth_payload, setWidth_payload]

/-- Scalar registers exchanged twice with their shadows are as before (R237). -/
theorem Workspace.exchange_exchange_s (w : Workspace) : w.exchange.exchange.s = w.s := by
  apply Vector.ext
  intro i hi
  by_cases h : 24 ≤ i
  · simp [Workspace.exchange, h]
  · simp [Workspace.exchange, h]

/-- The other register files take no part in the exchange. -/
theorem Workspace.exchange_files (w : Workspace) : (w.exchange.p, w.exchange.v, w.exchange.q) = (w.p, w.v, w.q) := by
  simp only [Workspace.exchange]

/-- What a thread has in its registers: scalar, pointer, vector and descriptor registers. -/
def Thread.sameRegisters (u t : Thread) : Prop :=
  (∀ r, u.sreg r = t.sreg r) ∧ (u.ws.p, u.ws.v, u.ws.q) = (t.ws.p, t.ws.v, t.ws.q)

/-- Threads with the same register files have the same registers. -/
theorem Thread.sameRegisters_of_ws {u t : Thread} (hs : u.ws.s = t.ws.s) (hrest : (u.ws.p, u.ws.v, u.ws.q) = (t.ws.p, t.ws.v, t.ws.q)) :
    u.sameRegisters t := by
  refine ⟨fun r => ?_, hrest⟩
  rw [Thread.sreg, Thread.sreg, hs]

/-- A return to a thread: its STATUS, payloads, loop stack, PC and registers, with memory as it was (R238). -/
def State.returnedTo (s : State) (t : Thread) (dest : VAddr) (u : State) : Prop :=
  u.thr.status = t.status ∧ u.thr.pay = t.pay ∧ (u.thr.loops, u.thr.pc) = backEdge t.loops dest ∧ u.thr.sameRegisters t ∧ u.mem = s.mem

section
variable {s : State}

/-! ## ERET (R238) -/

/-- ERET with a well-formed save area. -/
theorem exec_eret {l : List LoopEntry} (hrun : mayRunAt 1 .eret s) (hgood : savedStatusBad s.thr = false)
    (hl : loadLoops s.thr.ws.loopSave = some l) : exec .eret s =
      .next { s with thr := { s.thr.leaveHandler l (pcOf s.thr.epc) (s.clock + entryCycles l) with handling := false } } := by
  refine (issueWith_at hrun).trans ((if_neg (ne_true_of_eq_false hgood)).trans ?_)
  rw [hl]

/-- ERET with a malformed one. -/
theorem exec_eret_traps (hrun : mayRunAt 1 .eret s) (hh : s.hasHandler)
    (hbad : savedStatusBad s.thr = true ∨ loadLoops s.thr.ws.loopSave = none) : trapsWith .operand s (exec .eret s) := by
  suffices exec .eret s = fault .operand 0 none s from this ▸ fault_open hh
  refine (issueWith_at hrun).trans ?_
  by_cases hsaved : savedStatusBad s.thr = true
  · exact if_pos hsaved
  · refine (if_neg hsaved).trans ?_
    rw [hbad.resolve_left hsaved]

/-- ERET right after a trap entry. -/
theorem exec_eret_after_entry {t : Thread} {c : Cause} {cls : BitVec 8} {v e vec : DWord} {due : Nat} (hloops : loopsOk t.loops)
    (hpriv : t.status.priv.toNat ≤ 1) (hthr : s.thr = t.enterTrap c cls v e vec due) (hrun : mayRun .eret s) :
    ∃ u, exec .eret s = .next u ∧ s.returnedTo t (pcOf e) u := by
  have hsaved : s.thr.holdsSaved t := by rw [hthr]; exact ⟨rfl, rfl, rfl, rfl, rfl, rfl⟩
  have hlevel : s.thr.status.priv.toNat = 1 := by rw [hthr]; rfl
  have hgood : savedStatusBad s.thr = false := savedStatusBad_eq_false hsaved.status hpriv (hlevel ▸ hpriv)
  have hl : loadLoops s.thr.ws.loopSave = some t.loops := by rw [hsaved.loops, loadLoops_saveLoops hloops]
  have hepc : s.thr.epc = e := by rw [hthr]; rfl
  obtain ⟨hstatus, hpay, hflow⟩ := hsaved.leaveHandler (pcOf e) (s.clock + entryCycles t.loops)
  refine ⟨_, exec_eret ⟨hrun, hlevel.ge⟩ hgood hl, ?_⟩
  rw [hepc]
  refine ⟨hstatus, hpay, hflow, Thread.sameRegisters_of_ws ?_ ?_, rfl⟩
  · show s.thr.ws.s = t.ws.s
    rw [hthr]
    rfl
  · show (s.thr.ws.p, s.thr.ws.v, s.thr.ws.q) = (t.ws.p, t.ws.v, t.ws.q)
    rw [hthr]
    rfl

/-! ## URET (R237, R238) -/

/-- URET of a handler with a well-formed save area. -/
theorem exec_uret {l : List LoopEntry} (hrun : mayRun .uret s) (hgood : savedStatusBad s.thr = false) (hinui : s.thr.status.inui = true)
    (hpriv : s.thr.ws.statusSave.extractLsb' 0 2 = s.thr.status.priv) (hl : loadLoops s.thr.ws.loopSave = some l) :
    ∃ t, t = s.thr.leaveHandler l (pcOf s.thr.upc) (s.clock + entryCycles l) ∧
      exec .uret s = .next { s with thr := { t with ws := t.ws.exchange } } := by
  have hmay : ¬ (savedStatusBad s.thr = true ∨ s.thr.status.inui = false ∨ s.thr.ws.statusSave.extractLsb' 0 2 ≠ s.thr.status.priv) := by
    simp [hgood, hinui, hpriv]
  refine ⟨_, rfl, (issue_ok hrun).trans ((if_neg hmay).trans ?_)⟩
  rw [hl]

/-- URET outside a user handler. -/
theorem exec_uret_traps (hrun : mayRun .uret s) (hh : s.hasHandler) (hinui : s.thr.status.inui = false) :
    trapsWith .operand s (exec .uret s) := by
  suffices exec .uret s = fault .operand 0 none s from this ▸ fault_open hh
  exact (issue_ok hrun).trans (if_pos (Or.inr (Or.inl hinui)))

/-- URET right after a user entry. -/
theorem exec_uret_after_entry {t : Thread} {a : VAddr} {v vec : DWord} {due : Nat} (hloops : loopsOk t.loops)
    (hpriv : t.status.priv.toNat ≤ 1) (halign : a.extractLsb' 0 2 = 0) (hthr : s.thr = t.enterUser a v vec due) (hrun : mayRun .uret s) :
    ∃ u, exec .uret s = .next u ∧ s.returnedTo t a u := by
  have hsaved : s.thr.holdsSaved t := by rw [hthr]; exact ⟨rfl, rfl, rfl, rfl, rfl, rfl⟩
  have hlevel : s.thr.status.priv = t.status.priv := by rw [hthr]; rfl
  have hinui : s.thr.status.inui = true := by rw [hthr]; rfl
  have hws : s.thr.ws = t.saveLive.ws.exchange := by rw [hthr]; rfl
  have hgood : savedStatusBad s.thr = false := savedStatusBad_eq_false hsaved.status hpriv (by rw [hlevel])
  have hsavedLevel : s.thr.ws.statusSave.extractLsb' 0 2 = s.thr.status.priv := by
    rw [hsaved.status, hlevel]
    exact t.status.toWord_fields.1
  have hl : loadLoops s.thr.ws.loopSave = some t.loops := by rw [hsaved.loops, loadLoops_saveLoops hloops]
  have hupc : pcOf s.thr.upc = a := by rw [hthr]; exact pcOf_setWidth halign
  obtain ⟨hstatus, hpay, hflow⟩ := hsaved.leaveHandler a (s.clock + entryCycles t.loops)
  obtain ⟨r, hr, hexec⟩ := exec_uret hrun hgood hinui hsavedLevel hl
  rw [hupc] at hr
  subst hr
  refine ⟨_, hexec, hstatus, hpay, hflow, Thread.sameRegisters_of_ws ?_ ?_, rfl⟩
  · show s.thr.ws.exchange.s = t.ws.s
    rw [hws, Workspace.exchange_exchange_s]
    rfl
  · refine (Workspace.exchange_files s.thr.ws).trans ?_
    rw [hws]
    exact Workspace.exchange_files t.saveLive.ws

end

/-- Settles O45: an entry's save area holds the thread's state (`Thread.holdsSaved`), and a return reads the same back. -/
theorem returnsRestoreEntries : Obligations.ReturnsRestoreEntries := by
  unfold Obligations.ReturnsRestoreEntries
  refine ⟨fun s t c cls v e vec due hloops hpriv => ?_, fun s hh => ⟨fun hrun hbad => exec_eret_traps hrun hh hbad,
    fun hrun hinui => exec_uret_traps hrun hh hinui⟩⟩
  intro back
  have hback : ∀ {dest : VAddr} {u : State}, s.returnedTo t dest u → back dest u :=
    fun ⟨hstatus, hpay, hflow, ⟨hsregs, hregs⟩, hmem⟩ => ⟨hstatus, hpay, hflow, hsregs, hregs, hmem⟩
  refine ⟨fun hthr hrun => ?_, fun a _ halign hthr hrun => ?_⟩
  · obtain ⟨u, hu, hreturned⟩ := exec_eret_after_entry hloops hpriv hthr hrun
    exact ⟨u, hu, hback hreturned⟩
  · obtain ⟨u, hu, hreturned⟩ := exec_uret_after_entry hloops hpriv halign hthr hrun
    exact ⟨u, hu, hback hreturned⟩

end Sys2Proof.Machine
end

section
/-!
PROOFS. The words of a slot (spec/10_system_instr.md R231, R233 to R235, spec/18_faults_preemption.md R311, R312): PERMIX is a
permutation walked until it is below N; the others by the branch that their state takes.
-/
namespace Sys2Proof.Machine

/-! ## PERMIX: one pass (R235) -/

/-- One round of a pass: the halves change places, the left one combined with a function of the right one. -/
def permRound (h : Nat) (p : Nat × Nat) (k : DWord) : Nat × Nat := (p.2, p.1 ^^^ (mix (k ^^^ BitVec.ofNat 64 p.2)).toNat % 2 ^ h)

theorem permPass_eq (keys : List DWord) (h x : Nat) : permPass keys h x =
    (keys.foldl (permRound h) (x / 2 ^ h, x % 2 ^ h)).1 * 2 ^ h + (keys.foldl (permRound h) (x / 2 ^ h, x % 2 ^ h)).2 := rfl

/-- Both halves of an index fit h bits. -/
def halvesFit (h : Nat) (p : Nat × Nat) : Prop := p.1 < 2 ^ h ∧ p.2 < 2 ^ h

/-- A round can be undone. -/
theorem permRound_injective (h : Nat) (k : DWord) : Function.Injective (permRound h · k) := by
  rintro ⟨l, r⟩ ⟨l', r'⟩ heq
  obtain ⟨rfl, hleft⟩ := Prod.mk.inj heq
  exact Prod.ext (Nat.xor_left_inj.mp hleft) rfl

/-- A round keeps the halves' size. -/
theorem halvesFit_permRound {h : Nat} {p : Nat × Nat} (hp : halvesFit h p) (k : DWord) : halvesFit h (permRound h p k) :=
  ⟨hp.2, Nat.xor_lt_two_pow hp.1 (Nat.mod_lt _ (Nat.two_pow_pos h))⟩

section
variable (keys : List DWord) (h : Nat)

/-- The rounds of a pass can be undone. -/
theorem permRounds_injective : Function.Injective (keys.foldl (permRound h)) := by
  induction keys with
  | nil => exact Function.injective_id
  | cons k keys ih => exact ih.comp (permRound_injective h k)

/-- The rounds of a pass keep the halves' size. -/
theorem halvesFit_permRounds {p : Nat × Nat} (hp : halvesFit h p) : halvesFit h (keys.foldl (permRound h) p) := by
  induction keys generalizing p with
  | nil => exact hp
  | cons k keys ih => exact ih (halvesFit_permRound hp k)

/-- The halves of an index of 2h bits. -/
theorem halvesFit_split {x : Nat} (hx : x < 2 ^ (2 * h)) : halvesFit h (x / 2 ^ h, x % 2 ^ h) := by
  refine ⟨?_, Nat.mod_lt _ (Nat.two_pow_pos h)⟩
  rw [Nat.div_lt_iff_lt_mul (Nat.two_pow_pos h), ← Nat.pow_add, ← Nat.two_mul]
  exact hx

/-- A pass stays in the indices of 2h bits. -/
theorem permPass_lt {x : Nat} (hx : x < 2 ^ (2 * h)) : permPass keys h x < 2 ^ (2 * h) := by
  obtain ⟨hleft, hright⟩ := halvesFit_permRounds keys h (halvesFit_split h hx)
  rw [permPass_eq]
  generalize keys.foldl (permRound h) (x / 2 ^ h, x % 2 ^ h) = r at hleft hright ⊢
  calc r.1 * 2 ^ h + r.2 < r.1 * 2 ^ h + 2 ^ h := Nat.add_lt_add_left hright _
    _ = (r.1 + 1) * 2 ^ h := (Nat.succ_mul _ _).symm
    _ ≤ 2 ^ h * 2 ^ h := Nat.mul_le_mul_right _ hleft
    _ = 2 ^ (2 * h) := by rw [← Nat.pow_add, Nat.two_mul]

/-- A pass is one to one on them. -/
theorem permPass_injOn : Set.InjOn (permPass keys h) (Set.Iio (2 ^ (2 * h))) := by
  intro x hx y hy heq
  obtain ⟨-, hrx⟩ := halvesFit_permRounds keys h (halvesFit_split h hx)
  obtain ⟨-, hry⟩ := halvesFit_permRounds keys h (halvesFit_split h hy)
  rw [permPass_eq, permPass_eq] at heq
  have hrounds : keys.foldl (permRound h) (x / 2 ^ h, x % 2 ^ h) = keys.foldl (permRound h) (y / 2 ^ h, y % 2 ^ h) := by
    generalize keys.foldl (permRound h) (x / 2 ^ h, x % 2 ^ h) = r at hrx heq ⊢
    generalize keys.foldl (permRound h) (y / 2 ^ h, y % 2 ^ h) = r' at hry heq ⊢
    have hright : r.2 = r'.2 := by
      have hmod := congrArg (· % 2 ^ h) heq
      simpa only [Nat.mul_add_mod_self_right, Nat.mod_eq_of_lt hrx, Nat.mod_eq_of_lt hry] using hmod
    have hleft : r.1 * 2 ^ h = r'.1 * 2 ^ h := by rwa [hright, Nat.add_right_cancel_iff] at heq
    exact Prod.ext (Nat.mul_right_cancel (Nat.two_pow_pos h) hleft) hright
  obtain ⟨hdiv, hmod⟩ := Prod.mk.inj (permRounds_injective keys h hrounds)
  rw [← Nat.div_add_mod x (2 ^ h), ← Nat.div_add_mod y (2 ^ h), hdiv, hmod]

end

/-! ## PERMIX: the walk -/

/-- A one-to-one map of the numbers below B leads from below n back below n within B - n + 1 steps: the steps before are
distinct and not below n. -/
theorem exists_iterate_lt {f : Nat → Nat} {B n x : Nat} (hf : Set.MapsTo f (Set.Iio B) (Set.Iio B)) (hinj : Set.InjOn f (Set.Iio B))
    (hx : x < n) (hn : n ≤ B) : ∃ m < B - n + 1, f^[m + 1] x < n := by
  by_contra hno
  push Not at hno
  have hxB : x ∈ Set.Iio B := Nat.lt_of_lt_of_le hx hn
  have hmaps : ∀ m ∈ Finset.range (B - n + 1), f^[m + 1] x ∈ Finset.Ico n B := fun m hm =>
    Finset.mem_Ico.mpr ⟨hno m (Finset.mem_range.mp hm), hf.iterate (m + 1) hxB⟩
  obtain ⟨i, hi, j, hj, hij, heq⟩ := Finset.exists_ne_map_eq_of_card_lt_of_maps_to
    (by rw [Nat.card_Ico, Finset.card_range]; exact Nat.lt_succ_self _) hmaps
  wlog hlt : i < j generalizing i j
  · exact this j hj i hi hij.symm heq.symm (Nat.lt_of_le_of_ne (Nat.not_lt.mp hlt) hij.symm)
  obtain ⟨d, rfl⟩ := Nat.exists_eq_add_of_lt hlt
  have hback : x = f^[d + 1] x := by
    refine (hinj.iterate hf (i + 1)) hxB (hf.iterate (d + 1) hxB) (heq.trans ?_)
    rw [← Function.iterate_add_apply]
    congr 1
    omega
  have hge := hno d (by have := Finset.mem_range.mp hj; omega)
  omega

/-- The walk ends below n when some pass within its fuel is below n. -/
theorem permute_lt {keys : List DWord} {h n : Nat} : ∀ {fuel x : Nat} (p : Nat),
    (∃ m < fuel, (permPass keys h)^[m + 1] x < n) → (permute keys h n fuel x p).1 < n
  | 0, _, _, ⟨_, hm, _⟩ => absurd hm (Nat.not_lt_zero _)
  | fuel + 1, x, p, ⟨m, hm, hlt⟩ => by
    by_cases hy : permPass keys h x < n
    · rw [permute, if_pos hy]
      exact hy
    · rw [permute, if_neg hy]
      cases m with
      | zero => exact absurd hlt hy
      | succ m => exact permute_lt (p + 1) ⟨m, Nat.lt_of_succ_lt_succ hm, hlt⟩

/-- The bits of a pass: an even number that N fits. -/
theorem permBits_fits {n : Nat} : ∀ (fuel b : Nat), n ≤ 2 ^ (2 * b + 2 * fuel) → ∃ h, permBits n fuel (2 * b) = 2 * h ∧ n ≤ 2 ^ (2 * h)
  | 0, b, hn => ⟨b, rfl, hn⟩
  | fuel + 1, b, hn => by
    by_cases hb : n ≤ 2 ^ (2 * b)
    · exact ⟨b, by rw [permBits, if_pos hb], hb⟩
    · rw [permBits, if_neg hb]
      exact permBits_fits fuel (b + 1) (by rwa [show 2 * (b + 1) + 2 * fuel = 2 * b + 2 * (fuel + 1) by omega])

section
variable {s : State} {d a : Reg} {k : Fin 256}

/-- PERMIX of an index below N gives one below N. -/
theorem exec_permix (hrun : mayRun (.permix d a k) s) (hw : windowOk s k.val 3) (hi : (s.thr.sreg a).toNat < (s.win k.val).toNat)
    (hn : (s.win k.val).toNat ≤ 2 ^ 48) :
    ∃ v cost, exec (.permix d a k) s = .next ((s.setS d (BitVec.ofNat 64 v)).passed cost) ∧ v < (s.win k.val).toNat := by
  have hk : ¬ 253 < k.val := by have hwords := hw.1; omega
  have hgood : ¬ ((s.win k.val).toNat = 0 ∨ 2 ^ 48 < (s.win k.val).toNat ∨ (s.win k.val).toNat ≤ (s.thr.sreg a).toNat) := by omega
  obtain ⟨h, hb, hfits⟩ := permBits_fits (n := (s.win k.val).toNat) 24 1 (hn.trans (Nat.pow_le_pow_right (by decide) (by decide)))
  refine ⟨_, _, (issue_ok hrun).trans ((if_neg hk).trans ((withWindow_windowOk hw).trans (if_neg hgood))), ?_⟩
  rw [hb, Nat.mul_div_cancel_left h (by decide)]
  exact permute_lt 0 (exists_iterate_lt (fun _ hx => permPass_lt _ h hx) (permPass_injOn _ h) hi hfits)

/-- PERMIX with window words beyond the window. -/
theorem exec_permix_traps (hrun : mayRun (.permix d a k) s) (hh : s.hasHandler) (hk : 253 < k.val) :
    trapsWith .operand s (exec (.permix d a k) s) := by
  suffices exec (.permix d a k) s = fault .operand 0 none s from this ▸ fault_open hh
  exact (issue_ok hrun).trans (if_pos hk)

/-! ## HBEAT, HALT and SPILL (R233) -/

/-- HBEAT of a member that leads nobody. -/
theorem exec_hbeat_alone (hrun : mayRun .hbeat s) (hrole : s.thr.role ≠ .leader) :
    exec .hbeat s = .next (State.passed 8 { s with thr := { s.thr with hbcnt := 0, hbMet := false } }) := by
  have hothers : ¬ (s.thr.role = .leader ∧ (!isTransform s.thr.id) = true) := fun h => hrole h.1
  refine (issue_ok hrun).trans ?_
  dsimp only
  rw [if_neg hothers]
  rfl

/-- HBEAT of a leader. -/
theorem exec_hbeat_leader (hrun : mayRun .hbeat s) (hrole : s.thr.role = .leader) (hslot : isTransform s.thr.id = false) :
    ∃ o, exec .hbeat s = .next (State.passed 8 { s with others := o, thr := { s.thr with hbcnt := 0, hbMet := false } }) ∧
      o = s.others.map (fun t =>
        if t.node = s.thr.node ∧ t.role = .follower ∧ t.run ≠ .ended then { t with hbcnt := 0, hbMet := false } else t) :=
  ⟨_, issue_ok hrun, if_pos ⟨hrole, by rw [hslot]; rfl⟩⟩

/-- SPILL with a save area asks for the spill and waits for it. -/
theorem exec_spill (hrun : mayRun .spill s) (hsave : s.thr.savea ≠ 0) : ∃ t, exec .spill s = .next t ∧ s.thr.id ∈ t.spillQueue ∧
    t.thr.wait = .spill ∧ t.thr.ws = s.thr.ws ∧ (t.thr.loops, t.thr.pc) = backEdge s.thr.loops (s.thr.pc + 4) ∧ t.mem = s.mem := by
  refine ⟨_, (issue_ok hrun).trans (if_neg hsave), ?_, rfl, rfl, rfl, rfl⟩
  show s.thr.id ∈ if s.spillQueue.contains s.thr.id then s.spillQueue else s.spillQueue ++ [s.thr.id]
  split
  · next hasked => exact List.contains_iff_mem.mp hasked
  · exact List.mem_append_right _ (List.mem_singleton_self _)

/-- SPILL without one. -/
theorem exec_spill_traps (hrun : mayRun .spill s) (hh : s.hasHandler) (hsave : s.thr.savea = 0) :
    trapsWith .operand s (exec .spill s) := by
  suffices exec .spill s = fault .operand 0 none s from this ▸ fault_open hh
  exact (issue_ok hrun).trans (if_pos hsave)

/-! ## WFE (R234) -/

/-- WFE without a monitor goes on. -/
theorem exec_wfe_unarmed (hrun : mayRun .wfe s) (hmon : s.thr.monitor = none) : exec .wfe s = .next (s.passed 8) := by
  refine (issue_ok hrun).trans ?_
  rw [hmon]
  rfl

/-- WFE with a monitor goes on as an acquire when it has tripped, and waits otherwise. -/
theorem exec_wfe_armed {m : Monitor} (hrun : mayRun .wfe s) (hmon : s.thr.monitor = some m) :
    exec .wfe s = if m.tripped then wakeUp s else waitFor .monitor s := by
  refine (issue_ok hrun).trans ?_
  rw [hmon]

end

/-- Settles O47: PERMIX by `exists_iterate_lt`, the other words by the branch that their state takes. -/
theorem slotWords : Obligations.SlotWords := by
  unfold Obligations.SlotWords
  refine ⟨fun s d a k => ⟨fun hrun => issue_ok hrun, fun hrun => issue_ok hrun, exec_permix,
      fun hh hrun hk => exec_permix_traps hrun hh hk⟩,
    fun s => ⟨exec_hbeat_alone, exec_hbeat_leader, fun hrun hline => ?halts, fun hrun hline => ?goesOn, exec_spill,
      fun hh hrun hsave => exec_spill_traps hrun hh hsave,
      fun m hrun => ⟨exec_wfe_unarmed hrun, fun hmon htripped => ?tripped, fun hmon hquiet => ?waits⟩⟩,
    fun s u a r hrun hy => (issue_ok hrun).trans (hy _)⟩
  case halts => exact (issueWith_at hrun).trans (if_neg (ne_true_of_eq_false hline))
  case goesOn => exact (issueWith_at hrun).trans (if_pos hline)
  case tripped => exact (exec_wfe_armed hrun hmon).trans (if_pos htripped)
  case waits => exact (exec_wfe_armed hrun hmon).trans (if_neg (ne_true_of_eq_false hquiet))

end Sys2Proof.Machine
end
